-- ==== Sys2Proof/Word.lean ====
section
/-! DEFINITION. The word types of the Felnum Dvorique (R4, R60, R87) and the sparse table type that State uses. -/

namespace Sys2Proof

/-- A register or instruction word, 32 bits (R35, R60). -/
abbrev Word := BitVec 32

/-- A byte of memory (R204: a location is one byte). -/
abbrev Byte := BitVec 8

/-- A 64-bit value: an even-odd register pair, an address (R35). -/
abbrev DWord := BitVec 64

/-- A sparse table: pairs of a key and a value, keys strictly rising. -/
abbrev Tab (α : Type) := List (Nat × α)

/-- Byte memory as plain data: a sparse list of cells in rising address order. -/
abbrev Memory := List (Nat × BitVec 8)

end Sys2Proof
end

