-- ==== Sys2Proof/Config.lean ====
section
/-! DEFINITION. What the spec leaves to the device: values it calls undefined, values it does not state, choices among
allowed values, and durations it does not give. Each is a constant with no body, so that nothing is provable of its
value. -/

namespace Sys2Proof.Config

/-- An undefined register word (R31, R33, R199): `epoch` names the allocation that left it undefined, `key` the
register within it. -/
opaque undefWord : Nat → Nat → BitVec 32

/-- The undefined predicates p0 to p6 of thread `key` after allocation `epoch` (R31, R33). -/
opaque undefPreds : Nat → Nat → BitVec 7

/-- A value the spec leaves open, a fresh one for each count of `State.freeCount`. -/
opaque freeValue : Nat → BitVec 32

/-- Which of the values within the bound of R123 the special function `fn` returns for an input: the function table of
R122, which the spec does not state. -/
opaque sfuChoice : Nat → BitVec 32 → Nat

/-- The cycles that a core counts of its own clock while a step is taken, by step and core (R3, R164: timing is not stated). -/
opaque stepCycles : Nat → Nat → Nat

/-- The CRC-64 of a flit (R411), whose polynomial is not stated. -/
opaque crc64 : List (BitVec 8) → BitVec 64

/-- A choice the spec leaves to the device, by the count of choices made so far. -/
opaque choice : Nat → Nat

end Sys2Proof.Config
end

