-- ==== Sys2Proof/Machine/Num.lean ====
section
/-! DEFINITION. Number formats and exact arithmetic (R87 to R104): exact values, decoding, rounding, the codebook, the
format word and the accumulation of a matrix chunk. -/

namespace Sys2Proof.Machine

/-- An exact value: NaN, an infinity, or (−1)^neg × m × 2^e, whose zero keeps its sign (R104). -/
inductive Num where
  | nan
  | inf (neg : Bool)
  | fin (neg : Bool) (m : Nat) (e : Int)
  deriving DecidableEq, Repr

/-- The rounding modes, coded 00 to 11 (R73, R94). -/
inductive RMode where
  | rne
  | rz
  | rdn
  | rup
  deriving DecidableEq, Repr

def RMode.ofBits (b : BitVec 2) : RMode :=
  match b.toNat with
  | 0 => .rne
  | 1 => .rz
  | 2 => .rdn
  | _ => .rup

/-- The floating-point types of R88 that have a sign. -/
inductive FType where
  | f32
  | f16
  | bf16
  | e4m3
  | e5m2
  | e2m1
  deriving DecidableEq, Repr

/-- Mantissa width (R88). -/
def FType.mb : FType → Nat
  | .f32 => 23 | .f16 => 10 | .bf16 => 7 | .e4m3 => 3 | .e5m2 => 2 | .e2m1 => 1

/-- Exponent width (R88). -/
def FType.eb : FType → Nat
  | .f32 => 8 | .f16 => 5 | .bf16 => 8 | .e4m3 => 4 | .e5m2 => 5 | .e2m1 => 2

def FType.bias : FType → Int
  | .f32 => 127 | .f16 => 15 | .bf16 => 127 | .e4m3 => 7 | .e5m2 => 15 | .e2m1 => 1

/-- Does the type reserve its all-ones exponent for infinities and NaN (R88)? -/
def FType.hasInf : FType → Bool
  | .e4m3 => false | .e2m1 => false | _ => true

/-- The encoding of the largest finite value (R89). -/
def FType.maxFinite : FType → Nat
  | .f32 => 0x7F7FFFFF | .f16 => 0x7BFF | .bf16 => 0x7F7F | .e4m3 => 0x7E | .e5m2 => 0x7B | .e2m1 => 0x7

/-- The canonical NaN (R89, R90); e2m1 has none and gives +0 (R95). -/
def FType.canonNaN : FType → Nat
  | .f32 => 0x7FC00000 | .f16 => 0x7E00 | .bf16 => 0x7FC0 | .e4m3 => 0x7F | .e5m2 => 0x7E | .e2m1 => 0

/-- The sign bit's weight. -/
def FType.signBit (t : FType) : Nat := 2 ^ (t.mb + t.eb)

/-- The type of a CVT type code below 6 (R82). -/
def FType.ofCvt (c : Nat) : FType :=
  match c with
  | 0 => .f32 | 1 => .f16 | 2 => .bf16 | 3 => .e4m3 | 4 => .e5m2 | _ => .e2m1

/-- decode(x, T) of R104. -/
def decodeF (t : FType) (x : Nat) : Num :=
  let neg := x / t.signBit % 2 == 1
  let e := x / 2 ^ t.mb % 2 ^ t.eb
  let m := x % 2 ^ t.mb
  let qmin : Int := 1 - t.bias - t.mb
  if t.hasInf && e == 2 ^ t.eb - 1 then
    if m == 0 then .inf neg else .nan
  else if t == .e4m3 && e == 15 && m == 7 then .nan
  else if e == 0 then .fin neg m qmin
  else .fin neg (m + 2 ^ t.mb) (qmin + (e - 1 : Nat))

/-- Is the value a zero? -/
def Num.isZero : Num → Bool
  | .fin _ m _ => m == 0
  | _ => false

def Num.isNaN : Num → Bool
  | .nan => true
  | _ => false

/-- Negation; a NaN stays a NaN (R107). -/
def Num.negate : Num → Num
  | .nan => .nan
  | .inf n => .inf (!n)
  | .fin n m e => .fin (!n) m e

def Num.abs : Num → Num
  | .nan => .nan
  | .inf _ => .inf false
  | .fin _ m e => .fin false m e

/-- The source modifiers: absolute value first, negation second (R107). -/
def Num.modified (v : Num) (neg abs : Bool) : Num :=
  let v := if abs then v.abs else v
  if neg then v.negate else v

/-- The exact product; 0 × ∞ is NaN (R115). -/
def Num.mul : Num → Num → Num
  | .nan, _ => .nan
  | _, .nan => .nan
  | .inf a, .inf b => .inf (a != b)
  | .inf a, .fin b m _ => if m == 0 then .nan else .inf (a != b)
  | .fin a m _, .inf b => if m == 0 then .nan else .inf (a != b)
  | .fin a m e, .fin b n f => .fin (a != b) (m * n) (e + f)

/-- The value as a signed multiple of 2^c, for c at most its exponent. -/
def Num.scaled (c : Int) : Num → Int
  | .fin neg m e => let k : Nat := m <<< (e - c).toNat
    if neg then -(k : Int) else k
  | _ => 0

/-- The least exponent among finite terms. -/
def minExp : List Num → Int → Int
  | [], c => c
  | .fin _ m e :: ts, c => minExp ts (if m == 0 then c else min e c)
  | _ :: ts, c => minExp ts c

def maxExpOf : List Num → Int
  | [] => 0
  | .fin _ m e :: ts => if m == 0 then maxExpOf ts else e
  | _ :: ts => maxExpOf ts

def Num.isInf (neg : Bool) : Num → Bool
  | .inf n => n == neg
  | _ => false

def Num.isNegZero : Num → Bool
  | .fin true 0 _ => true
  | _ => false

def Num.isPosZero : Num → Bool
  | .fin false 0 _ => true
  | _ => false

/-- The exact sum of terms (R115): a NaN or infinities of both signs give NaN; zeros of one sign keep it; any other
exact zero sum is +0, or −0 under RDN. -/
def sumExact (mode : RMode) (ts : List Num) : Num :=
  if ts.any Num.isNaN then .nan
  else if ts.any (Num.isInf false) then
    if ts.any (Num.isInf true) then .nan else .inf false
  else if ts.any (Num.isInf true) then .inf true
  else if ts.all Num.isNegZero then .fin true 0 0
  else if ts.all Num.isPosZero then .fin false 0 0
  else
    let c := minExp ts (maxExpOf ts)
    let s := (ts.map (Num.scaled c)).foldl (· + ·) 0
    if s == 0 then .fin (mode == .rdn) 0 0
    else .fin (decide (s < 0)) s.natAbs c

/-- Is m × 2^e at most n × 2^f? -/
def magLe (m : Nat) (e : Int) (n : Nat) (f : Int) : Bool :=
  if f ≤ e then decide (m <<< (e - f).toNat ≤ n) else decide (m ≤ n <<< (f - e).toNat)

/-- m × 2^(−s) rounded to an integer under a mode, for a value of the sign given (R94). -/
def roundShift (mode : RMode) (neg : Bool) (m s : Nat) : Nat :=
  if s == 0 then m
  else if Nat.log2 m + 1 < s then
    if m == 0 then 0 else
    match mode with
    | .rne => 0
    | .rz => 0
    | .rdn => if neg then 1 else 0
    | .rup => if neg then 0 else 1
  else
    let k := m >>> s
    let r := m % 2 ^ s
    let h := 2 ^ (s - 1)
    let up := match mode with
      | .rne => decide (h < r) || (r == h && k % 2 == 1)
      | .rz => false
      | .rdn => neg && r != 0
      | .rup => !neg && r != 0
    if up then k + 1 else k

/-- The encoding of an infinite result under R95. -/
def infResult (t : FType) (neg sat : Bool) : Nat :=
  let s := if neg then t.signBit else 0
  if sat || t == .e2m1 then s + t.maxFinite
  else if t.hasInf then s + (2 ^ t.eb - 1) * 2 ^ t.mb
  else s + t.canonNaN

/-- The encoding of k × 2^q, a value the type represents (R104). -/
def encodeMag (t : FType) (k : Nat) (q : Int) : Nat :=
  if k == 0 then 0
  else
    let l := Nat.log2 k
    let ex := (l : Int) + q
    if ex < 1 - t.bias then k <<< (q - (1 - t.bias - t.mb)).toNat
    else (ex + t.bias).toNat * 2 ^ t.mb + (if l ≤ t.mb then k <<< (t.mb - l) else k >>> (l - t.mb)) - 2 ^ t.mb

/-- roundTo(v, T, mode, sat) of R95, as the encoding of its result. -/
def roundTo (v : Num) (t : FType) (mode : RMode) (sat : Bool) : Nat :=
  match v with
  | .nan => t.canonNaN
  | .inf neg => infResult t neg sat
  | .fin neg m e =>
    let s := if neg then t.signBit else 0
    if m == 0 then s
    else
      let q := max ((Nat.log2 m : Int) + e - t.mb) (1 - t.bias - t.mb)
      let k := if q ≤ e then m <<< (e - q).toNat else roundShift mode neg m (q - e).toNat
      if k == 0 then s
      else match decodeF t t.maxFinite with
        | .fin _ mm me =>
          if magLe k q mm me then s + encodeMag t k q
          else if sat || t == .e2m1 then s + t.maxFinite
          else if mode == .rz || (mode == .rdn && !neg) || (mode == .rup && neg) then s + t.maxFinite
          else infResult t neg false
        | _ => s

/-- roundNE(v, T) of R95. -/
def roundNE (v : Num) (t : FType) : Nat := roundTo v t .rne false

/-- An integer as an exact value; its zero is +0. -/
def Num.ofInt (i : Int) : Num := .fin (decide (i < 0)) i.natAbs 0

/-- The value rounded to an integer under a mode (R96). -/
def roundInt (mode : RMode) (neg : Bool) (m : Nat) (e : Int) : Int :=
  let k : Nat := if 0 ≤ e then m <<< e.toNat else roundShift mode neg m (-e).toNat
  if neg then -(k : Int) else k

/-- Clamp into [lo, hi]. -/
def clampInt (lo hi i : Int) : Int := if i < lo then lo else if hi < i then hi else i

/-- satS(v, 32) of R104, as a word. -/
def satS32 (v : Int) : Word := BitVec.ofInt 32 (clampInt (-2147483648) 2147483647 v)

/-- toInt(v, T, mode, sat) of R96; `signed` is s32, otherwise n32. -/
def toInt32 (v : Num) (signed : Bool) (mode : RMode) (sat : Bool) : Word :=
  let lo : Int := if signed then -2147483648 else 0
  let hi : Int := if signed then 2147483647 else 4294967295
  match v with
  | .nan => 0
  | .inf neg => if sat then BitVec.ofInt 32 (if neg then lo else hi) else 0x80000000
  | .fin neg m e =>
    -- a magnitude of 2^64 or more is out of range whatever its exponent
    if 64 ≤ (Nat.log2 m : Int) + e && m != 0 then
      if sat then BitVec.ofInt 32 (if neg then lo else hi) else 0x80000000
    else
      let x := roundInt mode neg m e
      if lo ≤ x && x ≤ hi then BitVec.ofInt 32 x
      else if sat then BitVec.ofInt 32 (if x < 0 then lo else hi)
      else 0x80000000

/-- The order of two exact values that are not NaN: −1, 0 or 1 by value; zeros of both signs are equal (R128). -/
def Num.cmp : Num → Num → Int
  | .inf a, .inf b => if a == b then 0 else if a then -1 else 1
  | .inf a, _ => if a then -1 else 1
  | _, .inf b => if b then 1 else -1
  | .fin a m e, .fin b n f =>
    let c := min (if m == 0 then f else e) (if n == 0 then e else f)
    let x := Num.scaled c (.fin a m (if m == 0 then c else e))
    let y := Num.scaled c (.fin b n (if n == 0 then c else f))
    if x < y then -1 else if x == y then 0 else 1
  | _, _ => 0

/-- f32 shorthands. -/
def f32 (w : Word) : Num := decodeF .f32 w.toNat
def toF32 (v : Num) (mode : RMode) (sat : Bool) : Word := BitVec.ofNat 32 (roundTo v .f32 mode sat)

/-! ### Block scales and the codebook (R92, R93) -/

/-- An e8m0 scale byte (R88, R92). -/
def decodeE8m0 (x : Nat) : Num := if x == 255 then .nan else .fin false 1 ((x : Int) - 127)

/-- Weight `i` of a cb2 index under an e4m3 scale (R93): a zero weight is +0. -/
def cb2Weight (idx scale i : Nat) : Num :=
  let bit := fun k => idx / 2 ^ k % 2
  let s0 := (bit 1 + bit 2 + bit 3 + bit 4 + bit 5 + bit 6 + bit 7) % 2
  let m := bit (8 + i)
  let mag : Num := if bit 0 == 0 then .fin false (1 + 2 * m) (-1) else .fin false m 0
  let sgn := if i == 0 then s0 else bit i
  let w := (if sgn == 1 then mag.negate else mag).mul (decodeF .e4m3 scale)
  if w.isZero then .fin false 0 0 else w

/-! ### The format word (R98 to R100) -/

/-- The codes of the format word's type fields (R98). -/
inductive MType where
  | e4m3
  | e5m2
  | e2m1
  | bf16
  | f16
  | s8
  | cb2
  deriving DecidableEq, Repr

def MType.ofCode (c : Nat) : Option MType :=
  match c with
  | 0 => some .e4m3 | 1 => some .e5m2 | 2 => some .e2m1 | 3 => some .bf16 | 4 => some .f16 | 5 => some .s8
  | 6 => some .cb2 | _ => none

/-- A valid format word's fields. -/
structure FmtWord where
  atype : MType
  btype : MType
  scale : Nat
  acc : Nat
  sat : Bool
  deriving DecidableEq, Repr

/-- The combinations of R99. -/
def comboOk (a b : MType) (scale : Nat) : Bool :=
  let fp8 := fun t => t == MType.e4m3 || t == MType.e5m2
  let h := fun t => t == MType.bf16 || t == MType.f16
  (fp8 a && fp8 b && scale ≤ 1) || (fp8 a && b == .cb2 && scale == 2) || (h a && a == b && scale == 0) ||
  (h a && b == .cb2 && scale == 2) || (a == .e2m1 && b == .e2m1 && scale == 1) || (a == .s8 && b == .s8 && scale == 0)

/-- Elements of one 64-byte A row (R99). -/
def MType.k : MType → Nat
  | .bf16 => 32 | .f16 => 32 | .e2m1 => 128 | _ => 64

/-- The lowest rule of R100 that a format word breaks, numbered 1 to 5 in the order of the list. -/
def fmtWordReason (w : Word) : Option Nat :=
  let a := MType.ofCode (w.extractLsb' 0 4).toNat
  let b := MType.ofCode (w.extractLsb' 4 4).toNat
  let sc := (w.extractLsb' 8 4).toNat
  if w.extractLsb' 24 8 != 1 then some 1
  else if w.extractLsb' 15 9 != 0 then some 2
  else if w.extractLsb' 12 2 == 3 then some 3
  else match a, b with
    | some a, some b =>
      if !comboOk a b sc then some 4
      else if a == .s8 && w.extractLsb' 14 1 == 1 then some 5
      else none
    | _, _ => some 4

/-- The fields of a format word that R100 admits. -/
def fmtWord (w : Word) : Option FmtWord :=
  match fmtWordReason w, MType.ofCode (w.extractLsb' 0 4).toNat, MType.ofCode (w.extractLsb' 4 4).toNat with
  | none, some a, some b =>
    some ⟨a, b, (w.extractLsb' 8 4).toNat, (w.extractLsb' 12 2).toNat, w.extractLsb' 14 1 == 1⟩
  | _, _, _ => none

/-- Element `k` of a byte row of a type (R89). -/
def rowElem (t : MType) (byte : Nat → Byte) (k : Nat) : Num :=
  match t with
  | .e4m3 => decodeF .e4m3 (byte k).toNat
  | .e5m2 => decodeF .e5m2 (byte k).toNat
  | .e2m1 => decodeF .e2m1 ((byte (k / 2)).toNat / 16 ^ (k % 2) % 16)
  | .bf16 => decodeF .bf16 ((byte (2 * k)).toNat + 256 * (byte (2 * k + 1)).toNat)
  | .f16 => decodeF .f16 ((byte (2 * k)).toNat + 256 * (byte (2 * k + 1)).toNat)
  | .s8 => Num.ofInt (byte k).toInt
  | .cb2 => .nan

/-! ### Accumulation (R101, R102) -/

/-- floor(log2 |t|) of a non-zero finite term. -/
def Num.top : Num → Option Int
  | .fin _ m e => if m == 0 then none else some ((Nat.log2 m : Int) + e)
  | _ => none

/-- The largest exponent of a group, none when every term is a zero. -/
def groupExp : List Num → Option Int
  | [] => none
  | t :: ts => match t.top, groupExp ts with
    | none, r => r
    | some e, none => some e
    | some e, some f => some (max e f)

/-- A term truncated toward zero to a multiple of 2^q, in units of 2^q (R102). -/
def truncTerm (q : Int) : Num → Int
  | .fin neg m e =>
    let k : Nat := if q ≤ e then m <<< (e - q).toNat
      else if Nat.log2 m + 1 < (q - e).toNat then 0 else m >>> (q - e).toNat
    if neg then -(k : Int) else k
  | _ => 0

/-- alignTruncate(terms) of R102, for finite terms. -/
def alignTruncate (ts : List Num) : Num :=
  match groupExp ts with
  | none => .fin (ts.all Num.isNegZero) 0 0
  | some e =>
    let q := e - 27
    let s := (ts.map (truncTerm q)).foldl (· + ·) 0
    .fin (decide (s < 0)) s.natAbs q

/-- One product of a group with its scales; a codebook weight of +0 makes a +0 term even under negation, unless the A
element is infinite or NaN (R101). -/
def groupTerm (negAcc cb2 : Bool) (a sa b sb : Num) : Num :=
  if cb2 && b.isPosZero && (match a with | .fin .. => true | _ => false) then .fin false 0 0
  else
    let p := ((a.mul b).mul sa).mul sb
    if negAcc then p.negate else p

/-- accumulateChunk of R101 for an f32 accumulator, given the products' terms. -/
def accumulateF (c : Word) (terms : List Num) (acc : Nat) (sat : Bool) : Word :=
  let ts := if acc == 1 then terms else terms ++ [f32 c]
  let r : Num :=
    if ts.any Num.isNaN then .nan
    else if ts.any (Num.isInf false) then
      if ts.any (Num.isInf true) then .nan else .inf false
    else if ts.any (Num.isInf true) then .inf true
    else alignTruncate ts
  let w := roundTo r .f32 .rne sat
  BitVec.ofNat 32 w

/-- accumulateChunk of R101 for an s32 accumulator: the exact sum of products `s`. -/
def accumulateI (c : Word) (s : Int) (acc : Nat) : Word :=
  match acc with
  | 0 => BitVec.ofInt 32 (c.toInt + s)
  | 1 => BitVec.ofInt 32 s
  | _ => BitVec.ofInt 32 (c.toInt - s)

end Sys2Proof.Machine
end

