-- ==== Sys2Proof/Syntax.lean ====
section
/-! DEFINITION. The instructions and events of the Felnum Dvorique: one constructor of `Instr` per row of the opcode
table. An encoded row carries the fields of its word (R80) without the chain bit, which belongs to the packet (R61,
R63); an event row carries what names the thing that takes the step. -/

namespace Sys2Proof

/-- Format A (R80): D, tag and field of A, tag and field of B. -/
structure FmtA where
  d : BitVec 7
  ta : BitVec 2
  a : BitVec 7
  tb : BitVec 2
  b : BitVec 7
  deriving DecidableEq, Repr

/-- Format U (R80) of one assigned minor, and BCASTL (R135), whose lane field is zero. -/
structure FmtU where
  d : BitVec 7
  ta : BitVec 2
  a : BitVec 7
  deriving DecidableEq, Repr

/-- A CVT (R82): `y` is the destination type code, `x` the source type code, `s` the saturate bit. -/
structure FmtCvt where
  d : BitVec 7
  ta : BitVec 2
  a : BitVec 7
  y : BitVec 3
  x : BitVec 3
  s : BitVec 1
  deriving DecidableEq, Repr

/-- Format C (R80). -/
structure FmtC where
  pd : BitVec 3
  cond : BitVec 4
  ta : BitVec 2
  a : BitVec 7
  tb : BitVec 2
  b : BitVec 7
  deriving DecidableEq, Repr

/-- Format S (R80) of one minor. -/
structure FmtS where
  sd : BitVec 6
  sa : BitVec 6
  tb : BitVec 2
  b : BitVec 6
  deriving DecidableEq, Repr

/-- Format S of SMOV and SMOV64, whose SA field is zero (R130). -/
structure FmtSmov where
  sd : BitVec 6
  tb : BitVec 2
  b : BitVec 6
  deriving DecidableEq, Repr

/-- SCMP (R83, R131): the condition in MINOR[3:0], the predicate in SD[2:0]; SD[5:3] is zero. -/
structure FmtScmp where
  pd : BitVec 3
  cond : BitVec 4
  sa : BitVec 6
  tb : BitVec 2
  b : BitVec 6
  deriving DecidableEq, Repr

/-- Format B (R80) with an offset. -/
structure FmtB where
  neg : BitVec 1
  pred : BitVec 3
  off : BitVec 16
  deriving DecidableEq, Repr

/-- Format B with the register form of R137. -/
structure FmtBr where
  neg : BitVec 1
  pred : BitVec 3
  tag : BitVec 2
  reg : BitVec 7
  deriving DecidableEq, Repr

/-- Format B with its predicate only, the operand field zero (R137). -/
structure FmtP where
  neg : BitVec 1
  pred : BitVec 3
  deriving DecidableEq, Repr

/-- MEETX (R137, R141): the register form with the select bit, 1 for `.cur`. -/
structure FmtMeetx where
  neg : BitVec 1
  pred : BitVec 3
  sel : BitVec 1
  tag : BitVec 2
  reg : BitVec 7
  deriving DecidableEq, Repr

/-- BAR and BARA (R137, R143). -/
structure FmtBar where
  neg : BitVec 1
  pred : BitVec 3
  count : BitVec 12
  bar : BitVec 4
  deriving DecidableEq, Repr

/-- TRAP (R137, R149). -/
structure FmtTrap where
  neg : BitVec 1
  pred : BitVec 3
  code : BitVec 8
  deriving DecidableEq, Repr

/-- Format M with BASE = 0 (R80): `d` the data register, `a` the address pair, the signed scaled offset. -/
structure FmtMv where
  d : BitVec 7
  a : BitVec 7
  size : BitVec 3
  imm : BitVec 7
  deriving DecidableEq, Repr

/-- Format M with BASE = 1 (R80): `v` the offset register, `pair` half the scalar pair's number, `nov` no offset. -/
structure FmtMs where
  d : BitVec 7
  v : BitVec 7
  size : BitVec 3
  pair : BitVec 6
  nov : BitVec 1
  deriving DecidableEq, Repr

/-- Format M' (R80), an ATOM whose op the constructor names. -/
structure FmtAtom where
  d : BitVec 7
  a : BitVec 7
  scope : BitVec 4
  order : BitVec 2
  fsel : BitVec 1
  deriving DecidableEq, Repr

/-- ATOM.strel and ATOM.ldacq, whose order is fixed (R155). -/
structure FmtAtomS where
  d : BitVec 7
  a : BitVec 7
  scope : BitVec 4
  fsel : BitVec 1
  deriving DecidableEq, Repr

/-- IPREF, CINV and CWB (R159): X, Y, the level bit Z[0] and FSEL. -/
structure FmtIc where
  x : BitVec 7
  y : BitVec 7
  level : BitVec 1
  fsel : BitVec 1
  deriving DecidableEq, Repr

/-- Format X (R80), tile, A and F fields. -/
structure FmtX where
  tile : BitVec 8
  a : BitVec 7
  f : BitVec 7
  deriving DecidableEq, Repr

/-- Format L (R80). -/
structure FmtL where
  d : BitVec 7
  ta : BitVec 2
  a : BitVec 7
  lane : BitVec 6
  deriving DecidableEq, Repr

/-- Format T (R80). -/
structure FmtT where
  coord : BitVec 7
  handle : BitVec 7
  ckind : BitVec 2
  cid : BitVec 6
  deriving DecidableEq, Repr

/-- KV minors (R273): X, Y, Z and FSEL of Format G. -/
structure FmtKv where
  x : BitVec 7
  d : BitVec 7
  z : BitVec 6
  fsel : BitVec 1
  deriving DecidableEq, Repr

/-- DCDEC, DCADD and TASKRDY (R372): counter register or slot `n`, operand `m`, register kind `k`, `g`. -/
structure FmtDc where
  n : BitVec 6
  m : BitVec 7
  k : BitVec 1
  g : BitVec 1
  deriving DecidableEq, Repr

/-- One step of a copy command (R194, R196): one unit of its work, or its end. -/
inductive CopyStep where
  | unit (k : Nat)
  | finish
  deriving DecidableEq, Repr

/-- Where a clean copy of a location may stand (R203). -/
inductive CachePoint where
  | core (k : Nat)
  | home
  deriving DecidableEq, Repr

/-- A unit with a TLB of its own (R225, R315). -/
inductive XUnit where
  | core (k : Nat)
  | leat (channel : Nat)
  deriving DecidableEq, Repr

/-- What an access asks of a translation (R378). -/
inductive Access where
  | load
  | store
  | atomic
  | fetch
  deriving DecidableEq, Repr

/-- A register whose write only stores a value in range (R390, R406, R407, R424). -/
inductive HostReg where
  | fldlim (field : Nat)
  | pkglim
  | actcap
  | drain (ctx : Nat)
  | ptwaddr (ctx : Nat)
  | pasid (ctx : Nat)
  | qwcb (ctx q : Nat)
  | cccore (ctx : Nat)
  | msix (fn word : Nat)
  deriving DecidableEq, Repr

/-- A request of an agent outside the device (R202): of tier-0 memory, naming a context where a function makes it; of a
function's BAR (R406); of memory that is not the device's; the setting of a function's ATS enable on a link, and its error
reporting registers there, with an error of the link that they report, counted from 0 among the correctable or the
uncorrectable ones (R404). -/
inductive HostAccess where
  | read (ctx : Option Nat) (addr len : Nat)
  | write (ctx : Option Nat) (addr : Nat) (data : List Byte)
  | hostWrite (addr : Nat) (data : List Byte)
  | peerWrite (dev addr : Nat) (data : List Byte)
  | barRead (fn off len : Nat)
  | barWrite (fn off : Nat) (data : List Byte)
  | atsEnable (link fn : Nat) (on : Bool)
  | aerRead (link fn k : Nat)
  | aerWrite (link fn k : Nat) (v : Word)
  | linkError (link fn : Nat) (correctable : Bool) (bit : Nat)
  deriving DecidableEq, Repr

/-- The operations and events of the opcode table, one constructor per row. Rows that only come from outside, and rows
without operands, stand last: Lean's compiler numbers at most 245 constructors that the model itself builds. -/
inductive Instr where
  /-- IADD: Format A (R80). -/
  | iadd (f : FmtA)
  /-- ISUB: Format A (R80). -/
  | isub (f : FmtA)
  /-- IMUL: Format A (R80). -/
  | imul (f : FmtA)
  /-- IMULHS: Format A (R80). -/
  | imulhs (f : FmtA)
  /-- IMULHN: Format A (R80). -/
  | imulhn (f : FmtA)
  /-- IMAD: Format A (R80). -/
  | imad (f : FmtA)
  /-- IMINS: Format A (R80). -/
  | imins (f : FmtA)
  /-- IMINN: Format A (R80). -/
  | iminn (f : FmtA)
  /-- IMAXS: Format A (R80). -/
  | imaxs (f : FmtA)
  /-- IMAXN: Format A (R80). -/
  | imaxn (f : FmtA)
  /-- IADDSAT: Format A (R80). -/
  | iaddsat (f : FmtA)
  /-- ISUBSAT: Format A (R80). -/
  | isubsat (f : FmtA)
  /-- AND: Format A (R80). -/
  | and (f : FmtA)
  /-- OR: Format A (R80). -/
  | or (f : FmtA)
  /-- XOR: Format A (R80). -/
  | xor (f : FmtA)
  /-- ANDN: Format A (R80). -/
  | andn (f : FmtA)
  /-- SHL: Format A (R80). -/
  | shl (f : FmtA)
  /-- SHRN: Format A (R80). -/
  | shrn (f : FmtA)
  /-- SHRS: Format A (R80). -/
  | shrs (f : FmtA)
  /-- BFX: Format A (R80). -/
  | bfx (f : FmtA)
  /-- BFI: Format A (R80). -/
  | bfi (f : FmtA)
  /-- IADD64: Format A (R80). -/
  | iadd64 (f : FmtA)
  /-- PERM: Format A (R80). -/
  | perm (f : FmtA)
  /-- SEL: Format A (R80). -/
  | sel (f : FmtA)
  /-- FADD: Format A (R80). -/
  | fadd (f : FmtA)
  /-- FSUB: Format A (R80). -/
  | fsub (f : FmtA)
  /-- FMUL: Format A (R80). -/
  | fmul (f : FmtA)
  /-- FFMA: Format A (R80). -/
  | ffma (f : FmtA)
  /-- FMIN: Format A (R80). -/
  | fmin (f : FmtA)
  /-- FMAX: Format A (R80). -/
  | fmax (f : FmtA)
  /-- FSCALE: Format A (R80). -/
  | fscale (f : FmtA)
  /-- BADD2: Format A (R80). -/
  | badd2 (f : FmtA)
  /-- BMUL2: Format A (R80). -/
  | bmul2 (f : FmtA)
  /-- BFMA2: Format A (R80). -/
  | bfma2 (f : FmtA)
  /-- HADD2: Format A (R80). -/
  | hadd2 (f : FmtA)
  /-- HMUL2: Format A (R80). -/
  | hmul2 (f : FmtA)
  /-- HFMA2: Format A (R80). -/
  | hfma2 (f : FmtA)
  /-- PACK2: Format A (R80). -/
  | pack2 (f : FmtA)
  /-- BDOT2: Format A (R80). -/
  | bdot2 (f : FmtA)
  /-- HDOT2: Format A (R80). -/
  | hdot2 (f : FmtA)
  /-- MOV: Format U (R80, R82). -/
  | mov (f : FmtU)
  /-- NOT: Format U (R80, R82). -/
  | not (f : FmtU)
  /-- INEG: Format U (R80, R82). -/
  | ineg (f : FmtU)
  /-- IABS: Format U (R80, R82). -/
  | iabs (f : FmtU)
  /-- CLZ: Format U (R80, R82). -/
  | clz (f : FmtU)
  /-- POPC: Format U (R80, R82). -/
  | popc (f : FmtU)
  /-- BREV: Format U (R80, R82). -/
  | brev (f : FmtU)
  /-- MOV64: Format U (R80, R82). -/
  | mov64 (f : FmtU)
  /-- FRCP: Format U (R80, R82). -/
  | frcp (f : FmtU)
  /-- FRSQ: Format U (R80, R82). -/
  | frsq (f : FmtU)
  /-- FSQRT: Format U (R80, R82). -/
  | fsqrt (f : FmtU)
  /-- FEXP2: Format U (R80, R82). -/
  | fexp2 (f : FmtU)
  /-- FLOG2: Format U (R80, R82). -/
  | flog2 (f : FmtU)
  /-- FSINT: Format U (R80, R82). -/
  | fsint (f : FmtU)
  /-- FCOST: Format U (R80, R82). -/
  | fcost (f : FmtU)
  /-- FTANH: Format U (R80, R82). -/
  | ftanh (f : FmtU)
  /-- FRND: Format U (R80, R82). -/
  | frnd (f : FmtU)
  /-- FFRACT: Format U (R80, R82). -/
  | ffract (f : FmtU)
  /-- FCLASS: Format U (R80, R82). -/
  | fclass (f : FmtU)
  /-- CVT: R127. -/
  | cvt (f : FmtCvt)
  /-- CMP: Format C (R80, R128). -/
  | cmp (f : FmtC)
  /-- SADD: Format S (R80, R129, R130). -/
  | sadd (f : FmtS)
  /-- SSUB: Format S (R80, R129, R130). -/
  | ssub (f : FmtS)
  /-- SMUL: Format S (R80, R129, R130). -/
  | smul (f : FmtS)
  /-- SAND: Format S (R80, R129, R130). -/
  | sand (f : FmtS)
  /-- SOR: Format S (R80, R129, R130). -/
  | sor (f : FmtS)
  /-- SXOR: Format S (R80, R129, R130). -/
  | sxor (f : FmtS)
  /-- SSHL: Format S (R80, R129, R130). -/
  | sshl (f : FmtS)
  /-- SSHRN: Format S (R80, R129, R130). -/
  | sshrn (f : FmtS)
  /-- SSHRS: Format S (R80, R129, R130). -/
  | sshrs (f : FmtS)
  /-- SMINS: Format S (R80, R129, R130). -/
  | smins (f : FmtS)
  /-- SMAXS: Format S (R80, R129, R130). -/
  | smaxs (f : FmtS)
  /-- SMINN: Format S (R80, R129, R130). -/
  | sminn (f : FmtS)
  /-- SMAXN: Format S (R80, R129, R130). -/
  | smaxn (f : FmtS)
  /-- SADD64: Format S (R80, R129, R130). -/
  | sadd64 (f : FmtS)
  /-- SMOV: R130. -/
  | smov (f : FmtSmov)
  /-- SMOV64: R130. -/
  | smov64 (f : FmtSmov)
  /-- SCMP: R131. -/
  | scmp (f : FmtScmp)
  /-- BRA: Format B (R80, R137). -/
  | bra (f : FmtB)
  /-- BRX: Format B (R80, R137). -/
  | brx (f : FmtBr)
  /-- CALL: Format B (R80, R137). -/
  | call (f : FmtB)
  /-- CALLI: Format B (R80, R137). -/
  | calli (f : FmtBr)
  /-- RET: Format B (R80, R137). -/
  | ret (f : FmtP)
  /-- JMPI: Format B (R80, R137). -/
  | jmpi (f : FmtBr)
  /-- MEET: Format B (R80, R137). -/
  | meet (f : FmtB)
  /-- MEETX: Format B (R80, R137). -/
  | meetx (f : FmtMeetx)
  /-- EXIT: Format B (R80, R137). -/
  | exit (f : FmtP)
  /-- BAR: Format B (R80, R137). -/
  | bar (f : FmtBar)
  /-- BARA: Format B (R80, R137). -/
  | bara (f : FmtBar)
  /-- TRAP: R149. -/
  | trap (f : FmtTrap)
  /-- BRKPT: R149. -/
  | brkpt (f : FmtP)
  /-- IDEMB: R147. -/
  | idemb (f : FmtP)
  /-- IDEME: R147. -/
  | ideme (f : FmtP)
  /-- TRIG: R148. -/
  | trig (f : FmtP)
  /-- LD_VBASE: Format M with BASE = 0 (R80, R150). -/
  | ldVbase (f : FmtMv)
  /-- LD_SBASE: Format M with BASE = 1 (R80, R150). -/
  | ldSbase (f : FmtMs)
  /-- ST_VBASE: Format M with BASE = 0 (R80, R150). -/
  | stVbase (f : FmtMv)
  /-- ST_SBASE: Format M with BASE = 1 (R80, R150). -/
  | stSbase (f : FmtMs)
  /-- ATOM_ADD: Format M' (R80, R155). -/
  | atomAdd (f : FmtAtom)
  /-- ATOM_MINS: Format M' (R80, R155). -/
  | atomMins (f : FmtAtom)
  /-- ATOM_MAXS: Format M' (R80, R155). -/
  | atomMaxs (f : FmtAtom)
  /-- ATOM_MINN: Format M' (R80, R155). -/
  | atomMinn (f : FmtAtom)
  /-- ATOM_MAXN: Format M' (R80, R155). -/
  | atomMaxn (f : FmtAtom)
  /-- ATOM_AND: Format M' (R80, R155). -/
  | atomAnd (f : FmtAtom)
  /-- ATOM_OR: Format M' (R80, R155). -/
  | atomOr (f : FmtAtom)
  /-- ATOM_XOR: Format M' (R80, R155). -/
  | atomXor (f : FmtAtom)
  /-- ATOM_XCHG: Format M' (R80, R155). -/
  | atomXchg (f : FmtAtom)
  /-- ATOM_CAS: Format M' (R80, R155). -/
  | atomCas (f : FmtAtom)
  /-- ATOM_FADD: Format M' (R80, R155). -/
  | atomFadd (f : FmtAtom)
  /-- ATOM_BADD2: Format M' (R80, R155). -/
  | atomBadd2 (f : FmtAtom)
  /-- ATOM_INC: Format M' (R80, R155). -/
  | atomInc (f : FmtAtom)
  /-- ATOM_DEC: Format M' (R80, R155). -/
  | atomDec (f : FmtAtom)
  /-- ATOM_STREL: R155: its order is fixed. -/
  | atomStrel (f : FmtAtomS)
  /-- ATOM_LDACQ: R155: its order is fixed. -/
  | atomLdacq (f : FmtAtomS)
  /-- FENCE: R159. -/
  | fence (order : BitVec 2) (scope : BitVec 4)
  /-- WAITF: R159. -/
  | waitf (mask : BitVec 12)
  /-- TLRFLUSH: R159. -/
  | tlrflush (x : BitVec 7) (fsel : BitVec 1)
  /-- IPREF: R159. -/
  | ipref (f : FmtIc)
  /-- IPIN: R159. -/
  | ipin (x y : BitVec 7)
  /-- IUNPIN: R159. -/
  | iunpin (x y : BitVec 7)
  /-- CINV: R159. -/
  | cinv (f : FmtIc)
  /-- CWB: R159. -/
  | cwb (f : FmtIc)
  /-- MMQ: R184. -/
  | mmq (f : FmtX)
  /-- MMG: R186. -/
  | mmg (f : FmtX)
  /-- MLDS: R180. -/
  | mlds (a f : BitVec 7)
  /-- MRD: R187. -/
  | mrd (tile : BitVec 8) (a : BitVec 7) (g : BitVec 2)
  /-- MWR: R187. -/
  | mwr (tile : BitVec 8) (a : BitVec 7) (g : BitVec 2)
  /-- MCLR: R187. -/
  | mclr (tile : BitVec 8) (n : BitVec 7)
  /-- SHFLI: Format L (R133, R134). -/
  | shfli (f : FmtL)
  /-- SHFLU: Format L (R133, R134). -/
  | shflu (f : FmtL)
  /-- SHFLD: Format L (R133, R134). -/
  | shfld (f : FmtL)
  /-- SHFLX: Format L (R133, R134). -/
  | shflx (f : FmtL)
  /-- SWAPPAIR: Format L (R133, R134). -/
  | swappair (f : FmtL)
  /-- BCASTL: R135. -/
  | bcastl (f : FmtU)
  /-- VOTEB: R135, R136. -/
  | voteb (f : FmtL)
  /-- REDUX: R135, R136. -/
  | redux (f : FmtL)
  /-- TCOPY: Format T (R192). -/
  | tcopy (f : FmtT)
  /-- TSTORE: Format T (R192). -/
  | tstore (f : FmtT)
  /-- TGATHER: Format T (R192). -/
  | tgather (f : FmtT)
  /-- TSCATTER: Format T (R192). -/
  | tscatter (f : FmtT)
  /-- TXFER: Format T (R192). -/
  | txfer (f : FmtT)
  /-- XACQ: R199. -/
  | xacq (mask : BitVec 4) (tryIt : BitVec 1) (p : BitVec 3)
  /-- XREL: R199. -/
  | xrel (mask : BitVec 4)
  /-- AACQ: R199. -/
  | aacq (t : BitVec 8) (n : BitVec 7) (tryIt : BitVec 1) (p : BitVec 3)
  /-- AREL: R199. -/
  | arel (t : BitVec 8) (n : BitVec 7)
  /-- RECRUIT: R292. -/
  | recruit (d : BitVec 6) (b : BitVec 7) (n : BitVec 5)
  /-- HREDUCE: R292, R301. -/
  | hreduce (r : BitVec 7) (k : BitVec 2)
  /-- HJOIN: R292, R303. -/
  | hjoin (d : BitVec 7) (w : BitVec 1)
  /-- SWREG: R255. -/
  | swreg (x d : BitVec 7) (fsel : BitVec 1)
  /-- SWDEREG: R255. -/
  | swdereg (h : BitVec 7) (fsel : BitVec 1)
  /-- SWQ: R255. -/
  | swq (x y : BitVec 7) (fsel : BitVec 1)
  /-- SWURGE: R255. -/
  | swurge (x : BitVec 7) (fsel : BitVec 1)
  /-- SWSTAT: R255. -/
  | swstat (x d : BitVec 7) (fsel : BitVec 1)
  /-- SWLIVE_DEAD: R255. -/
  | swliveDead (x n : BitVec 7) (fsel : BitVec 1)
  /-- SWLIVE_LIVE: R255. -/
  | swliveLive (x n : BitVec 7) (fsel : BitVec 1)
  /-- PFXLOOK: R273. -/
  | pfxlook (f : FmtKv)
  /-- PFXINS: R273. -/
  | pfxins (f : FmtKv)
  /-- PFXREL: R273. -/
  | pfxrel (x d : BitVec 7) (fsel : BitVec 1)
  /-- PFXEVICT: R273. -/
  | pfxevict (f : FmtKv)
  /-- KAPPEND: R273. -/
  | kappend (f : FmtKv)
  /-- KSEQ: R273. -/
  | kseq (f : FmtKv)
  /-- NMC: R331. -/
  | nmc (a d : BitVec 7) (fsel : BitVec 1)
  /-- NMFENCE: R331. -/
  | nmfence (fsel : BitVec 1)
  /-- NMSTAT: R331. -/
  | nmstat (t d : BitVec 7) (fsel : BitVec 1)
  /-- LAUNCH: R372. -/
  | launch (a d : BitVec 7) (k : BitVec 1)
  /-- DCDEC: R372. -/
  | dcdec (f : FmtDc)
  /-- DCADD: R372. -/
  | dcadd (f : FmtDc)
  /-- TASKRDY: R372. -/
  | taskrdy (f : FmtDc)
  /-- EVPOP: R372. -/
  | evpop (d : BitVec 7) (k tryIt fsel : BitVec 1)
  /-- EVPUSH: R372. -/
  | evpush (r : BitVec 7) (k : BitVec 1)
  /-- GETSR: R161. -/
  | getsr (x y : BitVec 7) (k : BitVec 1)
  /-- SETSR: R161. -/
  | setsr (x y : BitVec 7) (k : BitVec 1)
  /-- RAND: R161. -/
  | rand (d : BitVec 7) (w : BitVec 2)
  /-- CLOCK: R161. -/
  | clock (d : BitVec 7) (k : BitVec 1)
  /-- CWIN: R165. -/
  | cwin (a : BitVec 7)
  /-- UERPL: R166. -/
  | uerpl (r : BitVec 7) (k : BitVec 2)
  /-- CLAUSE: Format H (R67). -/
  | clause (wait : BitVec 12) (seta setb : BitVec 4) (yld : BitVec 1)
  /-- BOLTER_REFORM: R15: the Bolter re-forms the bundles of one warp. -/
  | bolterReform (warp : Nat)
  /-- FORCED_RELEASE_RETURN: R25, R304: a reclaimed lane is back. -/
  | forcedReleaseReturn (warp helper : Nat)
  /-- HELPER_REPLACEMENT: R304. -/
  | helperReplacement (warp : Nat)
  /-- HCHUNK_WAKE: R298. -/
  | hchunkWake (warp helper : Nat)
  /-- HJOIN_COMPLETE: R303. -/
  | hjoinComplete (warp : Nat)
  /-- HANDLER_START: R167. -/
  | handlerStart (warp : Nat)
  /-- LOAD_DATA_RETURN: R150. -/
  | loadDataReturn (op : Nat)
  /-- STORE_PERFORMED: R150. -/
  | storePerformed (op : Nat)
  /-- SFU_RESULT: R122. -/
  | sfuResult (op : Nat)
  /-- MATRIX_OP_COMPLETE: R174. -/
  | matrixOpComplete (op : Nat)
  /-- CACHE_OP_DONE: R160. -/
  | cacheOpDone (op : Nat)
  /-- TLRFLUSH_DONE: R159. -/
  | tlrflushDone (op : Nat)
  /-- RESOURCE_GRANT: R200. -/
  | resourceGrant (req : Nat)
  /-- WARP_END: R142. -/
  | warpEnd (warp : Nat)
  /-- TLR_FILL: R191. -/
  | tlrFill (core ctx addr : Nat)
  /-- COPY_COMPLETE: R194, R196: one step of a copy command, or its completion. -/
  | copyComplete (cmd : Nat) (part : CopyStep)
  /-- PDT_PIN: R267. -/
  | pdtPin (cmd slot : Nat)
  /-- PDT_UNPIN: R267. -/
  | pdtUnpin (cmd slot : Nat)
  /-- PAGE_FREE_PUSH: R267. -/
  | pageFreePush (ctx pool page : Nat)
  /-- KV_ENGINE_STEP: R275. -/
  | kvEngineStep (field : Nat)
  /-- POST: R207. -/
  | post (wr : Nat)
  /-- PUSH: R207. -/
  | push (core addr : Nat)
  /-- SETTLE: R207. -/
  | settle (addr : Nat)
  /-- RESUME: R396. -/
  | resume (ctx : Nat)
  /-- SERVE: R216. -/
  | serve (ent : Nat)
  /-- RESTORE: R238. -/
  | restore (bank cls : Nat)
  /-- SWQ_ARRIVAL: R216, R246. -/
  | swqArrival (req : Nat)
  /-- SWURGE_ACTIVATION: R250. -/
  | swurgeActivation (ent : Nat)
  /-- SWSTAT_SNAPSHOT: R249. -/
  | swstatSnapshot (op lane : Nat)
  /-- SWEEP_REG_ARRIVE: R244. -/
  | sweepRegArrive (handle bank : Nat)
  /-- SWEEP_DEREG_ARRIVE: R244. -/
  | sweepDeregArrive (handle bank : Nat)
  /-- SWREG_DESCRIPTOR_READ: R256. -/
  | swregDescriptorRead (op : Nat)
  /-- SWREG_COMPLETE: R256. -/
  | swregComplete (op : Nat)
  /-- SWLIVE_ARRIVE: R251. -/
  | swliveArrive (op granule : Nat)
  /-- SCRUB: R421. -/
  | scrub (channel : Nat)
  /-- NMC_DESCRIPTOR_READ: R332. -/
  | nmcDescriptorRead (op : Nat)
  /-- NM_GEMV: R319: the row-step of one segment of one matrix row. -/
  | nmGemv (cmd row seg : Nat)
  /-- NM_CSUM: R320. -/
  | nmCsum (cmd row seg : Nat)
  /-- NM_UPDATE: R322. -/
  | nmUpdate (cmd row : Nat)
  /-- NM_FILL: R323. -/
  | nmFill (cmd row : Nat)
  /-- NM_COPY: R323: the read step or the write step of a row. -/
  | nmCopy (cmd row : Nat) (write : Bool)
  /-- NM_COMMAND_COMPLETE: R324. -/
  | nmCommandComplete (cmd : Nat)
  /-- DC_DECREMENT: R365. -/
  | dcDecrement (ctx entry : Nat) (status : BitVec 16)
  /-- EVPOP_WAKE: R374. -/
  | evpopWake (op : Nat)
  /-- FRONT_END_LAUNCH: R355, R360. -/
  | frontEndLaunch (ctx q : Nat)
  /-- TEAM_PLACE: R366. -/
  | teamPlace (launch team core first : Nat)
  /-- TEAM_MOVE: R367. -/
  | teamMove (team core first : Nat)
  /-- RESET: R400. -/
  | reset (ctx : Nat)
  /-- RUNAHEAD_END: R382. -/
  | runaheadEnd (warp : Nat)
  /-- BATCH_OPEN_DEFERRED: R383. -/
  | batchOpenDeferred (core : Nat)
  /-- REPLAY_CONSUME: R388. -/
  | replayConsume (ctx : Nat)
  /-- REPLAY_RETRY: R388. -/
  | replayRetry (ctx : Nat)
  /-- REPLAY_INVALIDATE_RANGE: R388. -/
  | replayInvalidateRange (ctx : Nat)
  /-- REPLAY_INVALIDATE_CONTEXT: R388. -/
  | replayInvalidateContext (ctx : Nat)
  /-- REPLAY_MIGRATE: R392. -/
  | replayMigrate (ctx : Nat)
  /-- MIGRATION_TEST: R392. -/
  | migrationTest (mig : Nat)
  /-- PTGEN_INCREMENT: R389. -/
  | ptgenIncrement (ctx : Nat)
  /-- DRAIN_EXPIRE: R395. -/
  | drainExpire (ctx : Nat)
  /-- PREEMPT_LIMIT_EXPIRE: R394. -/
  | preemptLimitExpire (ctx : Nat)
  /-- SKOV_READ: R413. -/
  | skovRead (src : Nat)
  /-- SKOV_WRITE: R413. -/
  | skovWrite (src : Nat)
  /-- SKOV_ATOMIC: R413. -/
  | skovAtomic (src : Nat)
  /-- SKOV_RESPONSE: R414. -/
  | skovResponse (src : Nat)
  /-- SKOV_BULK_WRITE: R413. -/
  | skovBulkWrite (src : Nat)
  /-- ATOMIC_RETURN: R155. -/
  | atomicReturn (op : Nat)
  /-- ATS_INVALIDATE: R409. -/
  | atsInvalidate (link : Nat) (pasid : Option (BitVec 20)) (frame : Nat)
  /-- TEMPERATURE_THRESHOLD: R237. -/
  | temperatureThreshold (stack : Nat) (hot : Bool)
  /-- SCRUB_ESCALATE: R421. -/
  | scrubEscalate (channel : Nat) (on : Bool)
  /-- DOORBELL: R408. -/
  | doorbell (ctx q : Nat) (v : Word)
  /-- REPLAY_DOORBELL: R390. -/
  | replayDoorbell (ctx : Nat) (v : Word)
  /-- PTWDATA_WRITE: R389. -/
  | ptwdataWrite (ctx : Nat) (v : DWord)
  /-- PREEMPT: R394. -/
  | preempt (ctx : Nat) (drain : Word)
  /-- DROP: R207. -/
  | drop (point : CachePoint) (addr : Nat)
  /-- PAGE_WALK: R379. -/
  | pageWalk (unit : XUnit) (ctx : Nat) (va : DWord) (acc : Access)
  /-- CTXWCB_WRITE: R407. -/
  | ctxwcbWrite (ctx : Nat) (v : DWord)
  /-- CCTASK_WRITE: R407. -/
  | cctaskWrite (ctx : Nat) (v : DWord)
  /-- FLR: R405. -/
  | flr (fn : Nat)
  /-- REGISTER_WRITE: R424, R406, R407. -/
  | registerWrite (reg : HostReg) (v : DWord)
  /-- HOST_LINK_DOWN: R409. -/
  | hostLinkDown (link : Nat)
  /-- PRI_RESPONSE: R409. -/
  | priResponse (link : Nat) (pasid : Option (BitVec 20)) (frame : Nat) (granted : Option Nat)
  /-- FLIT_RECEIVE: R411. -/
  | flitReceive (port : Nat) (flit : List Byte)
  /-- PORT_DOWN: R411. -/
  | portDown (port : Nat)
  /-- BRINGUP_STEP_END: R417. -/
  | bringupStepEnd (ok : Bool)
  /-- FIELD_CURRENT_AVERAGE: R419. -/
  | fieldCurrentAverage (field : Nat) (tenthsAmp : Nat)
  /-- CLOCK_THROTTLE_STEP: R419. -/
  | clockThrottleStep (field : Nat)
  /-- CAP_UPDATE: R420: the measured powers in tenths of a watt. -/
  | capUpdate (fieldPower ioPower : Nat)
  /-- TELEMETRY_CAPTURE: R423. -/
  | telemetryCapture (src : Byte)
  /-- HOST_AGENT_ACCESS: R202. -/
  | hostAgentAccess (acc : HostAccess)
  /-- HOST_LINK_UP: R409. -/
  | hostLinkUp (link : Nat)
  /-- PORT_UP: R410. -/
  | portUp (port : Nat)
  /-- SOFT_ERROR: R253. -/
  | softError (addr : Nat) (correctable : Bool)
  /-- YIELD: R137. -/
  | yield
  /-- PRIOPASS: R137. -/
  | priopass
  /-- NOP: R84. -/
  | nop
  /-- TRAPRET: R168. -/
  | trapret
  /-- OPFENCE: R159. -/
  | opfence
  /-- MSWAP: R182. -/
  | mswap
  /-- HCHUNK: R292. -/
  | hchunk
  /-- HCOMMIT: R292. -/
  | hcommit
  /-- HEXIT: R292. -/
  | hexit
  /-- CWIN_ARGS: R165. -/
  | cwinArgs
  /-- BRINGUP: R416. -/
  | bringup
  /-- BRINGUP_STEP_TIMEOUT: R416. -/
  | bringupStepTimeout
  /-- BOOTCLR: R424. -/
  | bootclr
  /-- POWER_LOSS: R417. -/
  | powerLoss
  deriving DecidableEq, Repr

end Sys2Proof
end

