-- ==== Sys2Proof/WellFormed.lean ====
section
/-! DEFINITION. Which fields an instruction word may hold: the checks of R85 that a word fails by itself, whatever
stands beside it in its packet. -/

namespace Sys2Proof

/-- Why a word is not an instruction (R85); `prefixWord` names a PFX, which is no instruction of its own, and
`truncated` fewer than four bytes. -/
inductive DecodeErr where
  | reservedMajor
  | reservedMinor
  | reservedField
  | clauseFlags
  | cvtSameType
  | prefixWord
  | truncated
  deriving DecidableEq, Repr

/-- The sub-cause code of R85 of a word error. -/
def DecodeErr.code : DecodeErr → Nat
  | .reservedMajor => 0x01
  | .reservedMinor => 0x02
  | .reservedField => 0x03
  | .clauseFlags => 0x0D
  | .cvtSameType => 0x0E
  | .prefixWord => 0x07
  | .truncated => 0x10

/-- Tag 01 names s0 to s63 only (R77). -/
def tagOk (t : BitVec 2) (f : BitVec 7) : Bool := !(t == 1 && 64 ≤ f.toNat)

/-- An even register number. -/
def evenReg {n : Nat} (r : BitVec n) : Bool := r.toNat % 2 == 0

/-- A 64-bit source names a pair by its even number, unless it is a literal (R77, R114). -/
def pairTagOk (t : BitVec 2) (f : BitVec 7) : Bool := t == 3 || evenReg f

/-- PRED = 7 with NEG = 1 is reserved (R80). -/
def predOk (neg : BitVec 1) (pred : BitVec 3) : Bool := !(pred == 7 && neg == 1)

/-- The register form of R137: tag 11 is reserved, and the number is limited as in R77. -/
def regFormOk (tag : BitVec 2) (reg : BitVec 7) : Bool := tag != 3 && tagOk tag reg

/-- The data register of an access of size code `size` (R80): even for b64, a multiple of 4 for b128. -/
def dataRegOk (size : BitVec 3) (d : BitVec 7) : Bool :=
  size != 7 && (size != 5 || evenReg d) && (size != 6 || d.toNat % 4 == 0)

/-- Completion kinds (R80). -/
def targetOk (ckind : BitVec 2) (cid : BitVec 6) : Bool :=
  !(ckind == 0 && 12 ≤ cid.toNat) && !(ckind == 3 && cid != 0)

/-- A register number of the kind bit `k`: 0 vector, 1 scalar, numbers to 63 (R161, R372). -/
def kindRegOk (k : BitVec 1) (r : BitVec 7) : Bool := k == 0 || r.toNat < 64

/-- A completion flag name in a CLAUSE header: 12 to 14 are reserved (R67). -/
def flagNameOk (f : BitVec 4) : Bool := !(12 ≤ f.toNat && f.toNat ≤ 14)

/-- Both operands of a Format A word are named rightly. -/
def FmtA.tagsOk (f : FmtA) : Bool := tagOk f.ta f.a && tagOk f.tb f.b

/-- The lane field of a shuffle (R132): LANE[5] = 1 leaves LANE[4:0] zero. -/
def FmtL.shuffleOk (f : FmtL) : Bool :=
  tagOk f.ta f.a && (f.lane.extractLsb' 5 1 == 0 || f.lane.extractLsb' 0 5 == 0)

/-- The registers of an ATOM that do not depend on its width (R80, R155). -/
def FmtAtom.fieldsOk (f : FmtAtom) : Bool := evenReg f.a && f.scope.toNat ≤ 10

/-- The resource a RES minor tries for names a predicate exactly when it tries (R199). -/
def tryPredOk (tryIt : BitVec 1) (p : BitVec 3) : Bool := (tryIt == 1) != (p == 7)

/-- Every reserved-field check of R85 and of the instruction chapters that the word alone decides. -/
def Instr.fieldsOk (i : Instr) : Bool :=
  match i with
  | .iadd f => f.tagsOk
  | .isub f => f.tagsOk
  | .imul f => f.tagsOk
  | .imulhs f => f.tagsOk
  | .imulhn f => f.tagsOk
  | .imad f => f.tagsOk
  | .imins f => f.tagsOk
  | .iminn f => f.tagsOk
  | .imaxs f => f.tagsOk
  | .imaxn f => f.tagsOk
  | .iaddsat f => f.tagsOk
  | .isubsat f => f.tagsOk
  | .and f => f.tagsOk
  | .or f => f.tagsOk
  | .xor f => f.tagsOk
  | .andn f => f.tagsOk
  | .shl f => f.tagsOk
  | .shrn f => f.tagsOk
  | .shrs f => f.tagsOk
  | .bfx f => f.tagsOk
  | .bfi f => f.tagsOk
  | .iadd64 f => f.tagsOk && evenReg f.d && pairTagOk f.ta f.a && pairTagOk f.tb f.b
  | .perm f => f.tagsOk
  | .sel f => f.tagsOk
  | .fadd f => f.tagsOk
  | .fsub f => f.tagsOk
  | .fmul f => f.tagsOk
  | .ffma f => f.tagsOk
  | .fmin f => f.tagsOk
  | .fmax f => f.tagsOk
  | .fscale f => f.tagsOk
  | .badd2 f => f.tagsOk
  | .bmul2 f => f.tagsOk
  | .bfma2 f => f.tagsOk
  | .hadd2 f => f.tagsOk
  | .hmul2 f => f.tagsOk
  | .hfma2 f => f.tagsOk
  | .pack2 f => f.tagsOk
  | .bdot2 f => f.tagsOk
  | .hdot2 f => f.tagsOk
  | .mov f => tagOk f.ta f.a
  | .not f => tagOk f.ta f.a
  | .ineg f => tagOk f.ta f.a
  | .iabs f => tagOk f.ta f.a
  | .clz f => tagOk f.ta f.a
  | .popc f => tagOk f.ta f.a
  | .brev f => tagOk f.ta f.a
  | .mov64 f => tagOk f.ta f.a && evenReg f.d && pairTagOk f.ta f.a
  | .frcp f => tagOk f.ta f.a
  | .frsq f => tagOk f.ta f.a
  | .fsqrt f => tagOk f.ta f.a
  | .fexp2 f => tagOk f.ta f.a
  | .flog2 f => tagOk f.ta f.a
  | .fsint f => tagOk f.ta f.a
  | .fcost f => tagOk f.ta f.a
  | .ftanh f => tagOk f.ta f.a
  | .frnd f => tagOk f.ta f.a
  | .ffract f => tagOk f.ta f.a
  | .fclass f => tagOk f.ta f.a
  | .cvt f => tagOk f.ta f.a
  | .cmp f => f.pd != 7 && tagOk f.ta f.a && tagOk f.tb f.b
  | .sadd _ => true
  | .ssub _ => true
  | .smul _ => true
  | .sand _ => true
  | .sor _ => true
  | .sxor _ => true
  | .sshl _ => true
  | .sshrn _ => true
  | .sshrs _ => true
  | .smins _ => true
  | .smaxs _ => true
  | .sminn _ => true
  | .smaxn _ => true
  | .sadd64 f => evenReg f.sd && evenReg f.sa && (f.tb == 3 || evenReg f.b)
  | .smov _ => true
  | .smov64 f => evenReg f.sd && (f.tb == 3 || evenReg f.b)
  | .scmp f => f.pd != 7
  | .bra f => predOk f.neg f.pred
  | .brx f => predOk f.neg f.pred && regFormOk f.tag f.reg
  | .call f => predOk f.neg f.pred
  | .calli f => predOk f.neg f.pred && regFormOk f.tag f.reg
  | .ret f => predOk f.neg f.pred
  | .jmpi f => predOk f.neg f.pred && regFormOk f.tag f.reg
  | .meet f => predOk f.neg f.pred
  | .meetx f => predOk f.neg f.pred && regFormOk f.tag f.reg
  | .exit f => predOk f.neg f.pred
  | .bar f => predOk f.neg f.pred
  | .bara f => predOk f.neg f.pred
  | .yield => true
  | .priopass => true
  | .trap f => predOk f.neg f.pred
  | .brkpt f => predOk f.neg f.pred
  | .nop => true
  | .idemb f => predOk f.neg f.pred
  | .ideme f => predOk f.neg f.pred
  | .trapret => true
  | .trig f => predOk f.neg f.pred
  | .ldVbase f => evenReg f.a && dataRegOk f.size f.d
  | .ldSbase f => dataRegOk f.size f.d && (f.nov == 0 || f.v == 0)
  | .stVbase f => evenReg f.a && dataRegOk f.size f.d
  | .stSbase f => dataRegOk f.size f.d && (f.nov == 0 || f.v == 0)
  | .atomAdd f => f.fieldsOk
  | .atomMins f => f.fieldsOk
  | .atomMaxs f => f.fieldsOk
  | .atomMinn f => f.fieldsOk
  | .atomMaxn f => f.fieldsOk
  | .atomAnd f => f.fieldsOk
  | .atomOr f => f.fieldsOk
  | .atomXor f => f.fieldsOk
  | .atomXchg f => f.fieldsOk
  | .atomCas f => f.fieldsOk
  | .atomFadd f => f.fieldsOk
  | .atomBadd2 f => f.fieldsOk
  | .atomInc f => f.fieldsOk
  | .atomDec f => f.fieldsOk
  | .atomStrel f => evenReg f.a && f.scope.toNat ≤ 10
  | .atomLdacq f => evenReg f.a && f.scope.toNat ≤ 10
  | .fence order scope => order != 0 && scope.toNat ≤ 10
  | .opfence => true
  | .waitf _ => true
  | .tlrflush x _ => evenReg x
  | .ipref f => f.x.toNat < 64 && f.y.toNat < 64
  | .ipin x y => x.toNat < 64 && y.toNat < 64
  | .iunpin x y => x.toNat < 64 && y.toNat < 64
  | .cinv f => evenReg f.x && f.y.toNat < 64
  | .cwb f => evenReg f.x && f.y.toNat < 64
  | .mmq f => f.a.toNat + 15 ≤ 127
  | .mmg f => f.a.toNat + 2 ≤ 127
  | .mlds _ _ => true
  | .mswap => true
  | .mrd _ a _ => a.toNat + 15 ≤ 127
  | .mwr _ a _ => a.toNat + 15 ≤ 127
  | .mclr tile n => tile.toNat + n.toNat ≤ 255
  | .shfli f => f.shuffleOk
  | .shflu f => f.shuffleOk
  | .shfld f => f.shuffleOk
  | .shflx f => f.shuffleOk
  | .swappair f => tagOk f.ta f.a && f.lane.toNat ≤ 4
  | .bcastl f => tagOk f.ta f.a
  | .voteb f => tagOk f.ta f.a && f.lane.extractLsb' 4 2 == 0 && f.lane.extractLsb' 0 3 != 7 &&
      !(f.lane.extractLsb' 3 1 == 1 && (f.lane.extractLsb' 0 3 == 0 || f.lane.extractLsb' 0 3 == 6))
  | .redux f => tagOk f.ta f.a && f.lane.extractLsb' 4 2 == 0
  | .tcopy f => evenReg f.handle && f.coord.toNat + 5 ≤ 127 && targetOk f.ckind f.cid
  | .tstore f => evenReg f.handle && f.coord.toNat + 5 ≤ 127 && targetOk f.ckind f.cid
  | .tgather f => evenReg f.handle && f.coord.toNat + 2 ≤ 127 && targetOk f.ckind f.cid
  | .tscatter f => evenReg f.handle && f.coord.toNat + 1 ≤ 127 && targetOk f.ckind f.cid
  | .txfer f => evenReg f.handle && evenReg f.coord && f.coord.toNat + 2 ≤ 127 && targetOk f.ckind f.cid
  | .xacq _ tryIt p => tryPredOk tryIt p
  | .xrel _ => true
  | .aacq _ _ tryIt p => tryPredOk tryIt p
  | .arel _ _ => true
  | .recruit _ b n => b.toNat + 3 ≤ 127 && n != 0
  | .hchunk => true
  | .hcommit => true
  | .hreduce r _ => r.toNat ≤ 79
  | .hjoin d _ => d.toNat % 4 == 0
  | .hexit => true
  | .swreg x _ _ => evenReg x
  | .swdereg _ _ => true
  | .swq x y _ => evenReg x && y.toNat + 2 ≤ 127
  | .swurge x _ => evenReg x
  | .swstat x d _ => evenReg x && d.toNat + 2 ≤ 127
  | .swliveDead x _ _ => evenReg x
  | .swliveLive x _ _ => evenReg x
  | .pfxlook f => evenReg f.x && f.d.toNat + 2 ≤ 127
  | .pfxins f => evenReg f.x && f.d.toNat + 2 ≤ 127
  | .pfxrel x d _ => evenReg x && d.toNat + 1 ≤ 127
  | .pfxevict f => evenReg f.x && f.d.toNat + 2 ≤ 127
  | .kappend f => evenReg f.x && f.d.toNat + 3 ≤ 127
  | .kseq f => evenReg f.x && f.d.toNat + 1 ≤ 127
  | .nmc a _ _ => evenReg a
  | .nmfence _ => true
  | .nmstat _ d _ => d.toNat + 1 ≤ 127
  | .launch a d k => evenReg a && kindRegOk k a && kindRegOk k d
  | .dcdec f => if f.g == 1 then kindRegOk f.k f.m else f.m == 0
  | .dcadd f => if f.g == 1 then kindRegOk f.k f.m else f.m != 0
  | .taskrdy f => if f.g == 1 then kindRegOk f.k f.m else f.m == 0
  | .evpop d k _ _ => d.toNat % 4 == 0 && kindRegOk k d
  | .evpush r k => r.toNat % 4 == 0 && kindRegOk k r
  | .getsr x _ k => kindRegOk k x
  | .setsr x _ k => kindRegOk k x
  | .rand d w => w != 3 && (w != 1 || evenReg d) && (w != 2 || d.toNat % 4 == 0)
  | .clock d k => evenReg d && kindRegOk k d
  | .cwin a => evenReg a && a.toNat < 64
  | .cwinArgs => true
  | .uerpl _ _ => true
  | .clause _ seta setb _ => flagNameOk seta && flagNameOk setb
  | .bolterReform _ => true
  | .forcedReleaseReturn _ _ => true
  | .helperReplacement _ => true
  | .hchunkWake _ _ => true
  | .hjoinComplete _ => true
  | .handlerStart _ => true
  | .loadDataReturn _ => true
  | .storePerformed _ => true
  | .sfuResult _ => true
  | .matrixOpComplete _ => true
  | .cacheOpDone _ => true
  | .tlrflushDone _ => true
  | .resourceGrant _ => true
  | .warpEnd _ => true
  | .tlrFill _ _ _ => true
  | .copyComplete _ _ => true
  | .pdtPin _ _ => true
  | .pdtUnpin _ _ => true
  | .pageFreePush _ _ _ => true
  | .kvEngineStep _ => true
  | .post _ => true
  | .push _ _ => true
  | .settle _ => true
  | .drop _ _ => true
  | .serve _ => true
  | .restore _ _ => true
  | .swqArrival _ => true
  | .swurgeActivation _ => true
  | .swstatSnapshot _ _ => true
  | .sweepRegArrive _ _ => true
  | .sweepDeregArrive _ _ => true
  | .swregDescriptorRead _ => true
  | .swregComplete _ => true
  | .swliveArrive _ _ => true
  | .temperatureThreshold _ _ => true
  | .scrub _ => true
  | .scrubEscalate _ _ => true
  | .nmcDescriptorRead _ => true
  | .nmGemv _ _ _ => true
  | .nmCsum _ _ _ => true
  | .nmUpdate _ _ => true
  | .nmFill _ _ => true
  | .nmCopy _ _ _ => true
  | .nmCommandComplete _ => true
  | .dcDecrement _ _ _ => true
  | .evpopWake _ => true
  | .doorbell _ _ _ => true
  | .frontEndLaunch _ _ => true
  | .teamPlace _ _ _ _ => true
  | .teamMove _ _ _ => true
  | .pageWalk _ _ _ _ => true
  | .runaheadEnd _ => true
  | .batchOpenDeferred _ => true
  | .replayDoorbell _ _ => true
  | .replayConsume _ => true
  | .replayRetry _ => true
  | .replayInvalidateRange _ => true
  | .replayInvalidateContext _ => true
  | .replayMigrate _ => true
  | .migrationTest _ => true
  | .ptwdataWrite _ _ => true
  | .ptgenIncrement _ => true
  | .preempt _ _ => true
  | .resume _ => true
  | .reset _ => true
  | .drainExpire _ => true
  | .preemptLimitExpire _ => true
  | .ctxwcbWrite _ _ => true
  | .cctaskWrite _ _ => true
  | .flr _ => true
  | .registerWrite _ _ => true
  | .hostLinkDown _ => true
  | .atsInvalidate _ _ _ => true
  | .priResponse _ _ _ _ => true
  | .flitReceive _ _ => true
  | .portDown _ => true
  | .skovRead _ => true
  | .skovWrite _ => true
  | .skovAtomic _ => true
  | .skovResponse _ => true
  | .skovBulkWrite _ => true
  | .bringup => true
  | .bringupStepEnd _ => true
  | .bringupStepTimeout => true
  | .fieldCurrentAverage _ _ => true
  | .clockThrottleStep _ => true
  | .capUpdate _ _ => true
  | .telemetryCapture _ => true
  | .bootclr => true
  | .atomicReturn _ => true
  | .hostAgentAccess _ => true
  | .hostLinkUp _ => true
  | .portUp _ => true
  | .powerLoss => true
  | .softError _ _ => true

/-- The lowest sub-cause the word alone raises, none for a legal word. -/
def Instr.fieldError (i : Instr) : Option DecodeErr :=
  if !i.fieldsOk then some .reservedField
  else match i with
    | .cvt f => if f.y == f.x then some .cvtSameType else none
    | .clause _ seta setb _ => if seta == setb && seta.toNat < 15 then some .clauseFlags else none
    | _ => none

/-- Is this row of the opcode table an instruction word? The others are events of the machine. -/
def Instr.isEncoded (i : Instr) : Bool :=
  match i with
  | .iadd _ => true
  | .isub _ => true
  | .imul _ => true
  | .imulhs _ => true
  | .imulhn _ => true
  | .imad _ => true
  | .imins _ => true
  | .iminn _ => true
  | .imaxs _ => true
  | .imaxn _ => true
  | .iaddsat _ => true
  | .isubsat _ => true
  | .and _ => true
  | .or _ => true
  | .xor _ => true
  | .andn _ => true
  | .shl _ => true
  | .shrn _ => true
  | .shrs _ => true
  | .bfx _ => true
  | .bfi _ => true
  | .iadd64 _ => true
  | .perm _ => true
  | .sel _ => true
  | .fadd _ => true
  | .fsub _ => true
  | .fmul _ => true
  | .ffma _ => true
  | .fmin _ => true
  | .fmax _ => true
  | .fscale _ => true
  | .badd2 _ => true
  | .bmul2 _ => true
  | .bfma2 _ => true
  | .hadd2 _ => true
  | .hmul2 _ => true
  | .hfma2 _ => true
  | .pack2 _ => true
  | .bdot2 _ => true
  | .hdot2 _ => true
  | .mov _ => true
  | .not _ => true
  | .ineg _ => true
  | .iabs _ => true
  | .clz _ => true
  | .popc _ => true
  | .brev _ => true
  | .mov64 _ => true
  | .frcp _ => true
  | .frsq _ => true
  | .fsqrt _ => true
  | .fexp2 _ => true
  | .flog2 _ => true
  | .fsint _ => true
  | .fcost _ => true
  | .ftanh _ => true
  | .frnd _ => true
  | .ffract _ => true
  | .fclass _ => true
  | .cvt _ => true
  | .cmp _ => true
  | .sadd _ => true
  | .ssub _ => true
  | .smul _ => true
  | .sand _ => true
  | .sor _ => true
  | .sxor _ => true
  | .sshl _ => true
  | .sshrn _ => true
  | .sshrs _ => true
  | .smins _ => true
  | .smaxs _ => true
  | .sminn _ => true
  | .smaxn _ => true
  | .sadd64 _ => true
  | .smov _ => true
  | .smov64 _ => true
  | .scmp _ => true
  | .bra _ => true
  | .brx _ => true
  | .call _ => true
  | .calli _ => true
  | .ret _ => true
  | .jmpi _ => true
  | .meet _ => true
  | .meetx _ => true
  | .exit _ => true
  | .bar _ => true
  | .bara _ => true
  | .yield => true
  | .priopass => true
  | .trap _ => true
  | .brkpt _ => true
  | .nop => true
  | .idemb _ => true
  | .ideme _ => true
  | .trapret => true
  | .trig _ => true
  | .ldVbase _ => true
  | .ldSbase _ => true
  | .stVbase _ => true
  | .stSbase _ => true
  | .atomAdd _ => true
  | .atomMins _ => true
  | .atomMaxs _ => true
  | .atomMinn _ => true
  | .atomMaxn _ => true
  | .atomAnd _ => true
  | .atomOr _ => true
  | .atomXor _ => true
  | .atomXchg _ => true
  | .atomCas _ => true
  | .atomFadd _ => true
  | .atomBadd2 _ => true
  | .atomInc _ => true
  | .atomDec _ => true
  | .atomStrel _ => true
  | .atomLdacq _ => true
  | .fence _ _ => true
  | .opfence => true
  | .waitf _ => true
  | .tlrflush _ _ => true
  | .ipref _ => true
  | .ipin _ _ => true
  | .iunpin _ _ => true
  | .cinv _ => true
  | .cwb _ => true
  | .mmq _ => true
  | .mmg _ => true
  | .mlds _ _ => true
  | .mswap => true
  | .mrd _ _ _ => true
  | .mwr _ _ _ => true
  | .mclr _ _ => true
  | .shfli _ => true
  | .shflu _ => true
  | .shfld _ => true
  | .shflx _ => true
  | .swappair _ => true
  | .bcastl _ => true
  | .voteb _ => true
  | .redux _ => true
  | .tcopy _ => true
  | .tstore _ => true
  | .tgather _ => true
  | .tscatter _ => true
  | .txfer _ => true
  | .xacq _ _ _ => true
  | .xrel _ => true
  | .aacq _ _ _ _ => true
  | .arel _ _ => true
  | .recruit _ _ _ => true
  | .hchunk => true
  | .hcommit => true
  | .hreduce _ _ => true
  | .hjoin _ _ => true
  | .hexit => true
  | .swreg _ _ _ => true
  | .swdereg _ _ => true
  | .swq _ _ _ => true
  | .swurge _ _ => true
  | .swstat _ _ _ => true
  | .swliveDead _ _ _ => true
  | .swliveLive _ _ _ => true
  | .pfxlook _ => true
  | .pfxins _ => true
  | .pfxrel _ _ _ => true
  | .pfxevict _ => true
  | .kappend _ => true
  | .kseq _ => true
  | .nmc _ _ _ => true
  | .nmfence _ => true
  | .nmstat _ _ _ => true
  | .launch _ _ _ => true
  | .dcdec _ => true
  | .dcadd _ => true
  | .taskrdy _ => true
  | .evpop _ _ _ _ => true
  | .evpush _ _ => true
  | .getsr _ _ _ => true
  | .setsr _ _ _ => true
  | .rand _ _ => true
  | .clock _ _ => true
  | .cwin _ => true
  | .cwinArgs => true
  | .uerpl _ _ => true
  | .clause _ _ _ _ => true
  | .bolterReform _ => false
  | .forcedReleaseReturn _ _ => false
  | .helperReplacement _ => false
  | .hchunkWake _ _ => false
  | .hjoinComplete _ => false
  | .handlerStart _ => false
  | .loadDataReturn _ => false
  | .storePerformed _ => false
  | .sfuResult _ => false
  | .matrixOpComplete _ => false
  | .cacheOpDone _ => false
  | .tlrflushDone _ => false
  | .resourceGrant _ => false
  | .warpEnd _ => false
  | .tlrFill _ _ _ => false
  | .copyComplete _ _ => false
  | .pdtPin _ _ => false
  | .pdtUnpin _ _ => false
  | .pageFreePush _ _ _ => false
  | .kvEngineStep _ => false
  | .post _ => false
  | .push _ _ => false
  | .settle _ => false
  | .drop _ _ => false
  | .serve _ => false
  | .restore _ _ => false
  | .swqArrival _ => false
  | .swurgeActivation _ => false
  | .swstatSnapshot _ _ => false
  | .sweepRegArrive _ _ => false
  | .sweepDeregArrive _ _ => false
  | .swregDescriptorRead _ => false
  | .swregComplete _ => false
  | .swliveArrive _ _ => false
  | .temperatureThreshold _ _ => false
  | .scrub _ => false
  | .scrubEscalate _ _ => false
  | .nmcDescriptorRead _ => false
  | .nmGemv _ _ _ => false
  | .nmCsum _ _ _ => false
  | .nmUpdate _ _ => false
  | .nmFill _ _ => false
  | .nmCopy _ _ _ => false
  | .nmCommandComplete _ => false
  | .dcDecrement _ _ _ => false
  | .evpopWake _ => false
  | .doorbell _ _ _ => false
  | .frontEndLaunch _ _ => false
  | .teamPlace _ _ _ _ => false
  | .teamMove _ _ _ => false
  | .pageWalk _ _ _ _ => false
  | .runaheadEnd _ => false
  | .batchOpenDeferred _ => false
  | .replayDoorbell _ _ => false
  | .replayConsume _ => false
  | .replayRetry _ => false
  | .replayInvalidateRange _ => false
  | .replayInvalidateContext _ => false
  | .replayMigrate _ => false
  | .migrationTest _ => false
  | .ptwdataWrite _ _ => false
  | .ptgenIncrement _ => false
  | .preempt _ _ => false
  | .resume _ => false
  | .reset _ => false
  | .drainExpire _ => false
  | .preemptLimitExpire _ => false
  | .ctxwcbWrite _ _ => false
  | .cctaskWrite _ _ => false
  | .flr _ => false
  | .registerWrite _ _ => false
  | .hostLinkDown _ => false
  | .atsInvalidate _ _ _ => false
  | .priResponse _ _ _ _ => false
  | .flitReceive _ _ => false
  | .portDown _ => false
  | .skovRead _ => false
  | .skovWrite _ => false
  | .skovAtomic _ => false
  | .skovResponse _ => false
  | .skovBulkWrite _ => false
  | .bringup => false
  | .bringupStepEnd _ => false
  | .bringupStepTimeout => false
  | .fieldCurrentAverage _ _ => false
  | .clockThrottleStep _ => false
  | .capUpdate _ _ => false
  | .telemetryCapture _ => false
  | .bootclr => false
  | .atomicReturn _ => false
  | .hostAgentAccess _ => false
  | .hostLinkUp _ => false
  | .portUp _ => false
  | .powerLoss => false
  | .softError _ _ => false

/-- A well-formed instruction: a word that raises nothing by itself. -/
def Instr.WellFormed (i : Instr) : Prop := i.isEncoded = true ∧ i.fieldError = none

end Sys2Proof
end

