-- ==== Sys2Proof/Decode.lean ====
section
/-! DEFINITION. Decoding an instruction word (R61, R80 to R85) and encoding one. -/

namespace Sys2Proof

/-- MAJ 0x28 (R80, R82, R83). -/
def parseUnary (w : Word) : Except DecodeErr Instr :=
  match (w.extractLsb' 0 9).toNat with
  | 0x0 => .ok (.mov ⟨w.extractLsb' 18 7, w.extractLsb' 16 2, w.extractLsb' 9 7⟩)
  | 0x1 => .ok (.not ⟨w.extractLsb' 18 7, w.extractLsb' 16 2, w.extractLsb' 9 7⟩)
  | 0x2 => .ok (.ineg ⟨w.extractLsb' 18 7, w.extractLsb' 16 2, w.extractLsb' 9 7⟩)
  | 0x3 => .ok (.iabs ⟨w.extractLsb' 18 7, w.extractLsb' 16 2, w.extractLsb' 9 7⟩)
  | 0x4 => .ok (.clz ⟨w.extractLsb' 18 7, w.extractLsb' 16 2, w.extractLsb' 9 7⟩)
  | 0x5 => .ok (.popc ⟨w.extractLsb' 18 7, w.extractLsb' 16 2, w.extractLsb' 9 7⟩)
  | 0x6 => .ok (.brev ⟨w.extractLsb' 18 7, w.extractLsb' 16 2, w.extractLsb' 9 7⟩)
  | 0x7 => .ok (.mov64 ⟨w.extractLsb' 18 7, w.extractLsb' 16 2, w.extractLsb' 9 7⟩)
  | 0x8 => .ok (.frcp ⟨w.extractLsb' 18 7, w.extractLsb' 16 2, w.extractLsb' 9 7⟩)
  | 0x9 => .ok (.frsq ⟨w.extractLsb' 18 7, w.extractLsb' 16 2, w.extractLsb' 9 7⟩)
  | 0xa => .ok (.fsqrt ⟨w.extractLsb' 18 7, w.extractLsb' 16 2, w.extractLsb' 9 7⟩)
  | 0xb => .ok (.fexp2 ⟨w.extractLsb' 18 7, w.extractLsb' 16 2, w.extractLsb' 9 7⟩)
  | 0xc => .ok (.flog2 ⟨w.extractLsb' 18 7, w.extractLsb' 16 2, w.extractLsb' 9 7⟩)
  | 0xd => .ok (.fsint ⟨w.extractLsb' 18 7, w.extractLsb' 16 2, w.extractLsb' 9 7⟩)
  | 0xe => .ok (.fcost ⟨w.extractLsb' 18 7, w.extractLsb' 16 2, w.extractLsb' 9 7⟩)
  | 0xf => .ok (.ftanh ⟨w.extractLsb' 18 7, w.extractLsb' 16 2, w.extractLsb' 9 7⟩)
  | 0x10 => .ok (.frnd ⟨w.extractLsb' 18 7, w.extractLsb' 16 2, w.extractLsb' 9 7⟩)
  | 0x11 => .ok (.ffract ⟨w.extractLsb' 18 7, w.extractLsb' 16 2, w.extractLsb' 9 7⟩)
  | 0x12 => .ok (.fclass ⟨w.extractLsb' 18 7, w.extractLsb' 16 2, w.extractLsb' 9 7⟩)
  | n => if 0x180 ≤ n then .ok (.cvt ⟨w.extractLsb' 18 7, w.extractLsb' 16 2, w.extractLsb' 9 7, w.extractLsb' 4 3, w.extractLsb' 1 3, w.extractLsb' 0 1⟩) else .error .reservedMinor

/-- MAJ 0x2a (R80, R82, R83). -/
def parseSalu (w : Word) : Except DecodeErr Instr :=
  match (w.extractLsb' 14 5).toNat with
  | 0x0 => .ok (.sadd ⟨w.extractLsb' 19 6, w.extractLsb' 8 6, w.extractLsb' 6 2, w.extractLsb' 0 6⟩)
  | 0x1 => .ok (.ssub ⟨w.extractLsb' 19 6, w.extractLsb' 8 6, w.extractLsb' 6 2, w.extractLsb' 0 6⟩)
  | 0x2 => .ok (.smul ⟨w.extractLsb' 19 6, w.extractLsb' 8 6, w.extractLsb' 6 2, w.extractLsb' 0 6⟩)
  | 0x3 => .ok (.sand ⟨w.extractLsb' 19 6, w.extractLsb' 8 6, w.extractLsb' 6 2, w.extractLsb' 0 6⟩)
  | 0x4 => .ok (.sor ⟨w.extractLsb' 19 6, w.extractLsb' 8 6, w.extractLsb' 6 2, w.extractLsb' 0 6⟩)
  | 0x5 => .ok (.sxor ⟨w.extractLsb' 19 6, w.extractLsb' 8 6, w.extractLsb' 6 2, w.extractLsb' 0 6⟩)
  | 0x6 => .ok (.sshl ⟨w.extractLsb' 19 6, w.extractLsb' 8 6, w.extractLsb' 6 2, w.extractLsb' 0 6⟩)
  | 0x7 => .ok (.sshrn ⟨w.extractLsb' 19 6, w.extractLsb' 8 6, w.extractLsb' 6 2, w.extractLsb' 0 6⟩)
  | 0x8 => .ok (.sshrs ⟨w.extractLsb' 19 6, w.extractLsb' 8 6, w.extractLsb' 6 2, w.extractLsb' 0 6⟩)
  | 0x9 => .ok (.smins ⟨w.extractLsb' 19 6, w.extractLsb' 8 6, w.extractLsb' 6 2, w.extractLsb' 0 6⟩)
  | 0xa => .ok (.smaxs ⟨w.extractLsb' 19 6, w.extractLsb' 8 6, w.extractLsb' 6 2, w.extractLsb' 0 6⟩)
  | 0xb => .ok (.sminn ⟨w.extractLsb' 19 6, w.extractLsb' 8 6, w.extractLsb' 6 2, w.extractLsb' 0 6⟩)
  | 0xc => .ok (.smaxn ⟨w.extractLsb' 19 6, w.extractLsb' 8 6, w.extractLsb' 6 2, w.extractLsb' 0 6⟩)
  | 0xd => .ok (.sadd64 ⟨w.extractLsb' 19 6, w.extractLsb' 8 6, w.extractLsb' 6 2, w.extractLsb' 0 6⟩)
  | 0xe => if w.extractLsb' 8 6 == 0x0 then .ok (.smov ⟨w.extractLsb' 19 6, w.extractLsb' 6 2, w.extractLsb' 0 6⟩) else .error .reservedField
  | 0xf => if w.extractLsb' 8 6 == 0x0 then .ok (.smov64 ⟨w.extractLsb' 19 6, w.extractLsb' 6 2, w.extractLsb' 0 6⟩) else .error .reservedField
  | _ => if w.extractLsb' 22 3 == 0 then .ok (.scmp ⟨w.extractLsb' 19 3, w.extractLsb' 14 4, w.extractLsb' 8 6, w.extractLsb' 6 2, w.extractLsb' 0 6⟩) else .error .reservedField

/-- MAJ 0x2b (R80, R82, R83). -/
def parseCtrl (w : Word) : Except DecodeErr Instr :=
  match (w.extractLsb' 20 5).toNat with
  | 0x0 => .ok (.bra ⟨w.extractLsb' 19 1, w.extractLsb' 16 3, w.extractLsb' 0 16⟩)
  | 0x1 => if w.extractLsb' 9 7 == 0x0 then .ok (.brx ⟨w.extractLsb' 19 1, w.extractLsb' 16 3, w.extractLsb' 7 2, w.extractLsb' 0 7⟩) else .error .reservedField
  | 0x2 => .ok (.call ⟨w.extractLsb' 19 1, w.extractLsb' 16 3, w.extractLsb' 0 16⟩)
  | 0x3 => if w.extractLsb' 9 7 == 0x0 then .ok (.calli ⟨w.extractLsb' 19 1, w.extractLsb' 16 3, w.extractLsb' 7 2, w.extractLsb' 0 7⟩) else .error .reservedField
  | 0x4 => if w.extractLsb' 0 16 == 0x0 then .ok (.ret ⟨w.extractLsb' 19 1, w.extractLsb' 16 3⟩) else .error .reservedField
  | 0x5 => if w.extractLsb' 9 7 == 0x0 then .ok (.jmpi ⟨w.extractLsb' 19 1, w.extractLsb' 16 3, w.extractLsb' 7 2, w.extractLsb' 0 7⟩) else .error .reservedField
  | 0x6 => .ok (.meet ⟨w.extractLsb' 19 1, w.extractLsb' 16 3, w.extractLsb' 0 16⟩)
  | 0x7 => if w.extractLsb' 10 6 == 0x0 then .ok (.meetx ⟨w.extractLsb' 19 1, w.extractLsb' 16 3, w.extractLsb' 9 1, w.extractLsb' 7 2, w.extractLsb' 0 7⟩) else .error .reservedField
  | 0x8 => if w.extractLsb' 0 16 == 0x0 then .ok (.exit ⟨w.extractLsb' 19 1, w.extractLsb' 16 3⟩) else .error .reservedField
  | 0x9 => .ok (.bar ⟨w.extractLsb' 19 1, w.extractLsb' 16 3, w.extractLsb' 4 12, w.extractLsb' 0 4⟩)
  | 0xa => .ok (.bara ⟨w.extractLsb' 19 1, w.extractLsb' 16 3, w.extractLsb' 4 12, w.extractLsb' 0 4⟩)
  | 0xb => if w.extractLsb' 0 20 == 0x70000 then .ok (.yield) else .error .reservedField
  | 0xc => if w.extractLsb' 0 20 == 0x70000 then .ok (.priopass) else .error .reservedField
  | 0xd => if w.extractLsb' 8 8 == 0x0 then .ok (.trap ⟨w.extractLsb' 19 1, w.extractLsb' 16 3, w.extractLsb' 0 8⟩) else .error .reservedField
  | 0xe => if w.extractLsb' 0 16 == 0x0 then .ok (.brkpt ⟨w.extractLsb' 19 1, w.extractLsb' 16 3⟩) else .error .reservedField
  | 0xf => if w.extractLsb' 0 16 == 0x0 && w.extractLsb' 16 3 == 0x7 && w.extractLsb' 19 1 == 0x0 then .ok (.nop) else .error .reservedField
  | 0x10 => if w.extractLsb' 0 16 == 0x0 then .ok (.idemb ⟨w.extractLsb' 19 1, w.extractLsb' 16 3⟩) else .error .reservedField
  | 0x11 => if w.extractLsb' 0 16 == 0x0 then .ok (.ideme ⟨w.extractLsb' 19 1, w.extractLsb' 16 3⟩) else .error .reservedField
  | 0x12 => if w.extractLsb' 0 20 == 0x70000 then .ok (.trapret) else .error .reservedField
  | 0x13 => if w.extractLsb' 0 16 == 0x0 then .ok (.trig ⟨w.extractLsb' 19 1, w.extractLsb' 16 3⟩) else .error .reservedField
  | _ => .error .reservedMinor

/-- MAJ 0x2c (R80, R82, R83). -/
def parseLd (w : Word) : Except DecodeErr Instr :=
  match (w.extractLsb' 10 1).toNat with
  | 0x0 => .ok (.ldVbase ⟨w.extractLsb' 18 7, w.extractLsb' 11 7, w.extractLsb' 7 3, w.extractLsb' 0 7⟩)
  | _ => .ok (.ldSbase ⟨w.extractLsb' 18 7, w.extractLsb' 11 7, w.extractLsb' 7 3, w.extractLsb' 1 6, w.extractLsb' 0 1⟩)

/-- MAJ 0x2d (R80, R82, R83). -/
def parseSt (w : Word) : Except DecodeErr Instr :=
  match (w.extractLsb' 10 1).toNat with
  | 0x0 => .ok (.stVbase ⟨w.extractLsb' 18 7, w.extractLsb' 11 7, w.extractLsb' 7 3, w.extractLsb' 0 7⟩)
  | _ => .ok (.stSbase ⟨w.extractLsb' 18 7, w.extractLsb' 11 7, w.extractLsb' 7 3, w.extractLsb' 1 6, w.extractLsb' 0 1⟩)

/-- MAJ 0x2e (R80, R82, R83). -/
def parseAtom (w : Word) : Except DecodeErr Instr :=
  match (w.extractLsb' 7 4).toNat with
  | 0x0 => .ok (.atomAdd ⟨w.extractLsb' 18 7, w.extractLsb' 11 7, w.extractLsb' 3 4, w.extractLsb' 1 2, w.extractLsb' 0 1⟩)
  | 0x1 => .ok (.atomMins ⟨w.extractLsb' 18 7, w.extractLsb' 11 7, w.extractLsb' 3 4, w.extractLsb' 1 2, w.extractLsb' 0 1⟩)
  | 0x2 => .ok (.atomMaxs ⟨w.extractLsb' 18 7, w.extractLsb' 11 7, w.extractLsb' 3 4, w.extractLsb' 1 2, w.extractLsb' 0 1⟩)
  | 0x3 => .ok (.atomMinn ⟨w.extractLsb' 18 7, w.extractLsb' 11 7, w.extractLsb' 3 4, w.extractLsb' 1 2, w.extractLsb' 0 1⟩)
  | 0x4 => .ok (.atomMaxn ⟨w.extractLsb' 18 7, w.extractLsb' 11 7, w.extractLsb' 3 4, w.extractLsb' 1 2, w.extractLsb' 0 1⟩)
  | 0x5 => .ok (.atomAnd ⟨w.extractLsb' 18 7, w.extractLsb' 11 7, w.extractLsb' 3 4, w.extractLsb' 1 2, w.extractLsb' 0 1⟩)
  | 0x6 => .ok (.atomOr ⟨w.extractLsb' 18 7, w.extractLsb' 11 7, w.extractLsb' 3 4, w.extractLsb' 1 2, w.extractLsb' 0 1⟩)
  | 0x7 => .ok (.atomXor ⟨w.extractLsb' 18 7, w.extractLsb' 11 7, w.extractLsb' 3 4, w.extractLsb' 1 2, w.extractLsb' 0 1⟩)
  | 0x8 => .ok (.atomXchg ⟨w.extractLsb' 18 7, w.extractLsb' 11 7, w.extractLsb' 3 4, w.extractLsb' 1 2, w.extractLsb' 0 1⟩)
  | 0x9 => .ok (.atomCas ⟨w.extractLsb' 18 7, w.extractLsb' 11 7, w.extractLsb' 3 4, w.extractLsb' 1 2, w.extractLsb' 0 1⟩)
  | 0xa => .ok (.atomFadd ⟨w.extractLsb' 18 7, w.extractLsb' 11 7, w.extractLsb' 3 4, w.extractLsb' 1 2, w.extractLsb' 0 1⟩)
  | 0xb => .ok (.atomBadd2 ⟨w.extractLsb' 18 7, w.extractLsb' 11 7, w.extractLsb' 3 4, w.extractLsb' 1 2, w.extractLsb' 0 1⟩)
  | 0xc => .ok (.atomInc ⟨w.extractLsb' 18 7, w.extractLsb' 11 7, w.extractLsb' 3 4, w.extractLsb' 1 2, w.extractLsb' 0 1⟩)
  | 0xd => .ok (.atomDec ⟨w.extractLsb' 18 7, w.extractLsb' 11 7, w.extractLsb' 3 4, w.extractLsb' 1 2, w.extractLsb' 0 1⟩)
  | 0xe => if w.extractLsb' 1 2 == 0x2 then .ok (.atomStrel ⟨w.extractLsb' 18 7, w.extractLsb' 11 7, w.extractLsb' 3 4, w.extractLsb' 0 1⟩) else .error .reservedField
  | _ => if w.extractLsb' 1 2 == 0x1 then .ok (.atomLdacq ⟨w.extractLsb' 18 7, w.extractLsb' 11 7, w.extractLsb' 3 4, w.extractLsb' 0 1⟩) else .error .reservedField

/-- MAJ 0x2f (R80, R82, R83). -/
def parseSync (w : Word) : Except DecodeErr Instr :=
  match (w.extractLsb' 21 4).toNat with
  | 0x0 => if w.extractLsb' 0 14 == 0x0 && w.extractLsb' 20 1 == 0x0 then .ok (.fence (w.extractLsb' 18 2) (w.extractLsb' 14 4)) else .error .reservedField
  | 0x1 => if w.extractLsb' 0 21 == 0x0 then .ok (.opfence) else .error .reservedField
  | 0x2 => if w.extractLsb' 0 7 == 0x0 && w.extractLsb' 12 2 == 0x0 then .ok (.waitf (w.extractLsb' 7 5 ++ w.extractLsb' 14 7)) else .error .reservedField
  | 0x3 => if w.extractLsb' 1 13 == 0x0 then .ok (.tlrflush (w.extractLsb' 14 7) (w.extractLsb' 0 1)) else .error .reservedField
  | 0x4 => if w.extractLsb' 2 5 == 0x0 then .ok (.ipref ⟨w.extractLsb' 14 7, w.extractLsb' 7 7, w.extractLsb' 1 1, w.extractLsb' 0 1⟩) else .error .reservedField
  | 0x5 => if w.extractLsb' 0 7 == 0x0 then .ok (.ipin (w.extractLsb' 14 7) (w.extractLsb' 7 7)) else .error .reservedField
  | 0x6 => if w.extractLsb' 0 7 == 0x0 then .ok (.iunpin (w.extractLsb' 14 7) (w.extractLsb' 7 7)) else .error .reservedField
  | 0x7 => if w.extractLsb' 2 5 == 0x0 then .ok (.cinv ⟨w.extractLsb' 14 7, w.extractLsb' 7 7, w.extractLsb' 1 1, w.extractLsb' 0 1⟩) else .error .reservedField
  | 0x8 => if w.extractLsb' 2 5 == 0x0 then .ok (.cwb ⟨w.extractLsb' 14 7, w.extractLsb' 7 7, w.extractLsb' 1 1, w.extractLsb' 0 1⟩) else .error .reservedField
  | _ => .error .reservedMinor

/-- MAJ 0x30 (R80, R82, R83). -/
def parseMat (w : Word) : Except DecodeErr Instr :=
  match (w.extractLsb' 22 3).toNat with
  | 0x0 => .ok (.mmq ⟨w.extractLsb' 14 8, w.extractLsb' 7 7, w.extractLsb' 0 7⟩)
  | 0x1 => .ok (.mmg ⟨w.extractLsb' 14 8, w.extractLsb' 7 7, w.extractLsb' 0 7⟩)
  | 0x2 => if w.extractLsb' 14 8 == 0x0 then .ok (.mlds (w.extractLsb' 7 7) (w.extractLsb' 0 7)) else .error .reservedField
  | 0x3 => if w.extractLsb' 0 22 == 0x0 then .ok (.mswap) else .error .reservedField
  | 0x4 => if w.extractLsb' 2 5 == 0x0 then .ok (.mrd (w.extractLsb' 14 8) (w.extractLsb' 7 7) (w.extractLsb' 0 2)) else .error .reservedField
  | 0x5 => if w.extractLsb' 2 5 == 0x0 then .ok (.mwr (w.extractLsb' 14 8) (w.extractLsb' 7 7) (w.extractLsb' 0 2)) else .error .reservedField
  | 0x6 => if w.extractLsb' 7 7 == 0x0 then .ok (.mclr (w.extractLsb' 14 8) (w.extractLsb' 0 7)) else .error .reservedField
  | _ => .error .reservedMinor

/-- MAJ 0x31 (R80, R82, R83). -/
def parseXlane (w : Word) : Except DecodeErr Instr :=
  match (w.extractLsb' 6 3).toNat with
  | 0x0 => .ok (.shfli ⟨w.extractLsb' 18 7, w.extractLsb' 16 2, w.extractLsb' 9 7, w.extractLsb' 0 6⟩)
  | 0x1 => .ok (.shflu ⟨w.extractLsb' 18 7, w.extractLsb' 16 2, w.extractLsb' 9 7, w.extractLsb' 0 6⟩)
  | 0x2 => .ok (.shfld ⟨w.extractLsb' 18 7, w.extractLsb' 16 2, w.extractLsb' 9 7, w.extractLsb' 0 6⟩)
  | 0x3 => .ok (.shflx ⟨w.extractLsb' 18 7, w.extractLsb' 16 2, w.extractLsb' 9 7, w.extractLsb' 0 6⟩)
  | 0x4 => .ok (.swappair ⟨w.extractLsb' 18 7, w.extractLsb' 16 2, w.extractLsb' 9 7, w.extractLsb' 0 6⟩)
  | 0x5 => if w.extractLsb' 0 6 == 0x0 then .ok (.bcastl ⟨w.extractLsb' 18 7, w.extractLsb' 16 2, w.extractLsb' 9 7⟩) else .error .reservedField
  | 0x6 => .ok (.voteb ⟨w.extractLsb' 18 7, w.extractLsb' 16 2, w.extractLsb' 9 7, w.extractLsb' 0 6⟩)
  | _ => .ok (.redux ⟨w.extractLsb' 18 7, w.extractLsb' 16 2, w.extractLsb' 9 7, w.extractLsb' 0 6⟩)

/-- MAJ 0x32 (R80, R82, R83). -/
def parseAcopy (w : Word) : Except DecodeErr Instr :=
  match (w.extractLsb' 22 3).toNat with
  | 0x0 => .ok (.tcopy ⟨w.extractLsb' 15 7, w.extractLsb' 8 7, w.extractLsb' 6 2, w.extractLsb' 0 6⟩)
  | 0x1 => .ok (.tstore ⟨w.extractLsb' 15 7, w.extractLsb' 8 7, w.extractLsb' 6 2, w.extractLsb' 0 6⟩)
  | 0x2 => .ok (.tgather ⟨w.extractLsb' 15 7, w.extractLsb' 8 7, w.extractLsb' 6 2, w.extractLsb' 0 6⟩)
  | 0x3 => .ok (.tscatter ⟨w.extractLsb' 15 7, w.extractLsb' 8 7, w.extractLsb' 6 2, w.extractLsb' 0 6⟩)
  | 0x4 => .ok (.txfer ⟨w.extractLsb' 15 7, w.extractLsb' 8 7, w.extractLsb' 6 2, w.extractLsb' 0 6⟩)
  | _ => .error .reservedMinor

/-- MAJ 0x33 (R80, R82, R83). -/
def parseRes (w : Word) : Except DecodeErr Instr :=
  match (w.extractLsb' 21 4).toNat with
  | 0x0 => if w.extractLsb' 0 1 == 0x0 && w.extractLsb' 4 3 == 0x0 && w.extractLsb' 8 6 == 0x0 && w.extractLsb' 18 3 == 0x0 then .ok (.xacq (w.extractLsb' 14 4) (w.extractLsb' 7 1) (w.extractLsb' 1 3)) else .error .reservedField
  | 0x1 => if w.extractLsb' 0 14 == 0x0 && w.extractLsb' 18 3 == 0x0 then .ok (.xrel (w.extractLsb' 14 4)) else .error .reservedField
  | 0x2 => if w.extractLsb' 0 1 == 0x0 && w.extractLsb' 6 1 == 0x0 then .ok (.aacq (w.extractLsb' 4 1 ++ w.extractLsb' 14 7) (w.extractLsb' 7 7) (w.extractLsb' 5 1) (w.extractLsb' 1 3)) else .error .reservedField
  | 0x3 => if w.extractLsb' 0 4 == 0x0 && w.extractLsb' 5 2 == 0x0 then .ok (.arel (w.extractLsb' 4 1 ++ w.extractLsb' 14 7) (w.extractLsb' 7 7)) else .error .reservedField
  | _ => .error .reservedMinor

/-- MAJ 0x34 (R80, R82, R83). -/
def parseHelp (w : Word) : Except DecodeErr Instr :=
  match (w.extractLsb' 21 4).toNat with
  | 0x0 => if w.extractLsb' 0 1 == 0x0 && w.extractLsb' 6 1 == 0x0 && w.extractLsb' 20 1 == 0x0 then .ok (.recruit (w.extractLsb' 14 6) (w.extractLsb' 7 7) (w.extractLsb' 1 5)) else .error .reservedField
  | 0x1 => if w.extractLsb' 0 21 == 0x0 then .ok (.hchunk) else .error .reservedField
  | 0x2 => if w.extractLsb' 0 21 == 0x0 then .ok (.hcommit) else .error .reservedField
  | 0x3 => if w.extractLsb' 0 7 == 0x0 && w.extractLsb' 9 5 == 0x0 then .ok (.hreduce (w.extractLsb' 14 7) (w.extractLsb' 7 2)) else .error .reservedField
  | 0x4 => if w.extractLsb' 0 1 == 0x0 && w.extractLsb' 2 12 == 0x0 then .ok (.hjoin (w.extractLsb' 14 7) (w.extractLsb' 1 1)) else .error .reservedField
  | 0x5 => if w.extractLsb' 0 21 == 0x0 then .ok (.hexit) else .error .reservedField
  | _ => .error .reservedMinor

/-- MAJ 0x35 (R80, R82, R83). -/
def parseSweep (w : Word) : Except DecodeErr Instr :=
  match (w.extractLsb' 21 4).toNat with
  | 0x0 => if w.extractLsb' 1 6 == 0x0 then .ok (.swreg (w.extractLsb' 14 7) (w.extractLsb' 7 7) (w.extractLsb' 0 1)) else .error .reservedField
  | 0x1 => if w.extractLsb' 1 13 == 0x0 then .ok (.swdereg (w.extractLsb' 14 7) (w.extractLsb' 0 1)) else .error .reservedField
  | 0x2 => if w.extractLsb' 1 6 == 0x0 then .ok (.swq (w.extractLsb' 14 7) (w.extractLsb' 7 7) (w.extractLsb' 0 1)) else .error .reservedField
  | 0x3 => if w.extractLsb' 1 13 == 0x0 then .ok (.swurge (w.extractLsb' 14 7) (w.extractLsb' 0 1)) else .error .reservedField
  | 0x4 => if w.extractLsb' 1 6 == 0x0 then .ok (.swstat (w.extractLsb' 14 7) (w.extractLsb' 7 7) (w.extractLsb' 0 1)) else .error .reservedField
  | 0x5 => if w.extractLsb' 1 6 == 0x0 then .ok (.swliveDead (w.extractLsb' 14 7) (w.extractLsb' 7 7) (w.extractLsb' 0 1)) else if w.extractLsb' 1 6 == 0x1 then .ok (.swliveLive (w.extractLsb' 14 7) (w.extractLsb' 7 7) (w.extractLsb' 0 1)) else .error .reservedField
  | _ => .error .reservedMinor

/-- MAJ 0x36 (R80, R82, R83). -/
def parseKv (w : Word) : Except DecodeErr Instr :=
  match (w.extractLsb' 21 4).toNat with
  | 0x0 => .ok (.pfxlook ⟨w.extractLsb' 14 7, w.extractLsb' 7 7, w.extractLsb' 1 6, w.extractLsb' 0 1⟩)
  | 0x1 => .ok (.pfxins ⟨w.extractLsb' 14 7, w.extractLsb' 7 7, w.extractLsb' 1 6, w.extractLsb' 0 1⟩)
  | 0x2 => if w.extractLsb' 1 6 == 0x0 then .ok (.pfxrel (w.extractLsb' 14 7) (w.extractLsb' 7 7) (w.extractLsb' 0 1)) else .error .reservedField
  | 0x3 => .ok (.pfxevict ⟨w.extractLsb' 14 7, w.extractLsb' 7 7, w.extractLsb' 1 6, w.extractLsb' 0 1⟩)
  | 0x4 => .ok (.kappend ⟨w.extractLsb' 14 7, w.extractLsb' 7 7, w.extractLsb' 1 6, w.extractLsb' 0 1⟩)
  | 0x5 => .ok (.kseq ⟨w.extractLsb' 14 7, w.extractLsb' 7 7, w.extractLsb' 1 6, w.extractLsb' 0 1⟩)
  | _ => .error .reservedMinor

/-- MAJ 0x37 (R80, R82, R83). -/
def parseNmem (w : Word) : Except DecodeErr Instr :=
  match (w.extractLsb' 21 4).toNat with
  | 0x0 => if w.extractLsb' 1 6 == 0x0 then .ok (.nmc (w.extractLsb' 14 7) (w.extractLsb' 7 7) (w.extractLsb' 0 1)) else .error .reservedField
  | 0x1 => if w.extractLsb' 1 20 == 0x0 then .ok (.nmfence (w.extractLsb' 0 1)) else .error .reservedField
  | 0x2 => if w.extractLsb' 1 6 == 0x0 then .ok (.nmstat (w.extractLsb' 14 7) (w.extractLsb' 7 7) (w.extractLsb' 0 1)) else .error .reservedField
  | _ => .error .reservedMinor

/-- MAJ 0x38 (R80, R82, R83). -/
def parseTask (w : Word) : Except DecodeErr Instr :=
  match (w.extractLsb' 21 4).toNat with
  | 0x0 => if w.extractLsb' 0 6 == 0x0 then .ok (.launch (w.extractLsb' 14 7) (w.extractLsb' 7 7) (w.extractLsb' 6 1)) else .error .reservedField
  | 0x1 => if w.extractLsb' 0 1 == 0x0 && w.extractLsb' 2 4 == 0x0 && w.extractLsb' 20 1 == 0x0 then .ok (.dcdec ⟨w.extractLsb' 14 6, w.extractLsb' 7 7, w.extractLsb' 6 1, w.extractLsb' 1 1⟩) else .error .reservedField
  | 0x2 => if w.extractLsb' 0 1 == 0x0 && w.extractLsb' 2 4 == 0x0 && w.extractLsb' 20 1 == 0x0 then .ok (.dcadd ⟨w.extractLsb' 14 6, w.extractLsb' 7 7, w.extractLsb' 6 1, w.extractLsb' 1 1⟩) else .error .reservedField
  | 0x3 => if w.extractLsb' 0 1 == 0x0 && w.extractLsb' 2 4 == 0x0 && w.extractLsb' 20 1 == 0x0 then .ok (.taskrdy ⟨w.extractLsb' 14 6, w.extractLsb' 7 7, w.extractLsb' 6 1, w.extractLsb' 1 1⟩) else .error .reservedField
  | 0x4 => if w.extractLsb' 1 1 == 0x0 && w.extractLsb' 3 3 == 0x0 && w.extractLsb' 14 7 == 0x0 then .ok (.evpop (w.extractLsb' 7 7) (w.extractLsb' 6 1) (w.extractLsb' 2 1) (w.extractLsb' 0 1)) else .error .reservedField
  | 0x5 => if w.extractLsb' 0 6 == 0x0 && w.extractLsb' 7 7 == 0x0 then .ok (.evpush (w.extractLsb' 14 7) (w.extractLsb' 6 1)) else .error .reservedField
  | _ => .error .reservedMinor

/-- MAJ 0x39 (R80, R82, R83). -/
def parseSys (w : Word) : Except DecodeErr Instr :=
  match (w.extractLsb' 21 4).toNat with
  | 0x0 => if w.extractLsb' 0 1 == 0x0 && w.extractLsb' 2 5 == 0x0 then .ok (.getsr (w.extractLsb' 14 7) (w.extractLsb' 7 7) (w.extractLsb' 1 1)) else .error .reservedField
  | 0x1 => if w.extractLsb' 0 1 == 0x0 && w.extractLsb' 2 5 == 0x0 then .ok (.setsr (w.extractLsb' 14 7) (w.extractLsb' 7 7) (w.extractLsb' 1 1)) else .error .reservedField
  | 0x2 => if w.extractLsb' 0 1 == 0x0 && w.extractLsb' 3 11 == 0x0 then .ok (.rand (w.extractLsb' 14 7) (w.extractLsb' 1 2)) else .error .reservedField
  | 0x3 => if w.extractLsb' 0 1 == 0x0 && w.extractLsb' 2 12 == 0x0 then .ok (.clock (w.extractLsb' 14 7) (w.extractLsb' 1 1)) else .error .reservedField
  | 0x4 => if w.extractLsb' 0 14 == 0x0 then .ok (.cwin (w.extractLsb' 14 7)) else if w.extractLsb' 0 21 == 0x2 then .ok (.cwinArgs) else .error .reservedField
  | 0x5 => if w.extractLsb' 0 7 == 0x0 && w.extractLsb' 9 5 == 0x0 then .ok (.uerpl (w.extractLsb' 14 7) (w.extractLsb' 7 2)) else .error .reservedField
  | _ => .error .reservedMinor

/-- The instruction a word holds, whatever its chain bit (R61, R81): majors and minors are told apart, and the bits
a minor's table marks zero are checked (R85). -/
def parseWord (w : Word) : Except DecodeErr Instr :=
  match (w.extractLsb' 25 6).toNat with
  | 0x0 => .ok (.iadd ⟨w.extractLsb' 18 7, w.extractLsb' 16 2, w.extractLsb' 9 7, w.extractLsb' 7 2, w.extractLsb' 0 7⟩)
  | 0x1 => .ok (.isub ⟨w.extractLsb' 18 7, w.extractLsb' 16 2, w.extractLsb' 9 7, w.extractLsb' 7 2, w.extractLsb' 0 7⟩)
  | 0x2 => .ok (.imul ⟨w.extractLsb' 18 7, w.extractLsb' 16 2, w.extractLsb' 9 7, w.extractLsb' 7 2, w.extractLsb' 0 7⟩)
  | 0x3 => .ok (.imulhs ⟨w.extractLsb' 18 7, w.extractLsb' 16 2, w.extractLsb' 9 7, w.extractLsb' 7 2, w.extractLsb' 0 7⟩)
  | 0x4 => .ok (.imulhn ⟨w.extractLsb' 18 7, w.extractLsb' 16 2, w.extractLsb' 9 7, w.extractLsb' 7 2, w.extractLsb' 0 7⟩)
  | 0x5 => .ok (.imad ⟨w.extractLsb' 18 7, w.extractLsb' 16 2, w.extractLsb' 9 7, w.extractLsb' 7 2, w.extractLsb' 0 7⟩)
  | 0x6 => .ok (.imins ⟨w.extractLsb' 18 7, w.extractLsb' 16 2, w.extractLsb' 9 7, w.extractLsb' 7 2, w.extractLsb' 0 7⟩)
  | 0x7 => .ok (.iminn ⟨w.extractLsb' 18 7, w.extractLsb' 16 2, w.extractLsb' 9 7, w.extractLsb' 7 2, w.extractLsb' 0 7⟩)
  | 0x8 => .ok (.imaxs ⟨w.extractLsb' 18 7, w.extractLsb' 16 2, w.extractLsb' 9 7, w.extractLsb' 7 2, w.extractLsb' 0 7⟩)
  | 0x9 => .ok (.imaxn ⟨w.extractLsb' 18 7, w.extractLsb' 16 2, w.extractLsb' 9 7, w.extractLsb' 7 2, w.extractLsb' 0 7⟩)
  | 0xa => .ok (.iaddsat ⟨w.extractLsb' 18 7, w.extractLsb' 16 2, w.extractLsb' 9 7, w.extractLsb' 7 2, w.extractLsb' 0 7⟩)
  | 0xb => .ok (.isubsat ⟨w.extractLsb' 18 7, w.extractLsb' 16 2, w.extractLsb' 9 7, w.extractLsb' 7 2, w.extractLsb' 0 7⟩)
  | 0xc => .ok (.and ⟨w.extractLsb' 18 7, w.extractLsb' 16 2, w.extractLsb' 9 7, w.extractLsb' 7 2, w.extractLsb' 0 7⟩)
  | 0xd => .ok (.or ⟨w.extractLsb' 18 7, w.extractLsb' 16 2, w.extractLsb' 9 7, w.extractLsb' 7 2, w.extractLsb' 0 7⟩)
  | 0xe => .ok (.xor ⟨w.extractLsb' 18 7, w.extractLsb' 16 2, w.extractLsb' 9 7, w.extractLsb' 7 2, w.extractLsb' 0 7⟩)
  | 0xf => .ok (.andn ⟨w.extractLsb' 18 7, w.extractLsb' 16 2, w.extractLsb' 9 7, w.extractLsb' 7 2, w.extractLsb' 0 7⟩)
  | 0x10 => .ok (.shl ⟨w.extractLsb' 18 7, w.extractLsb' 16 2, w.extractLsb' 9 7, w.extractLsb' 7 2, w.extractLsb' 0 7⟩)
  | 0x11 => .ok (.shrn ⟨w.extractLsb' 18 7, w.extractLsb' 16 2, w.extractLsb' 9 7, w.extractLsb' 7 2, w.extractLsb' 0 7⟩)
  | 0x12 => .ok (.shrs ⟨w.extractLsb' 18 7, w.extractLsb' 16 2, w.extractLsb' 9 7, w.extractLsb' 7 2, w.extractLsb' 0 7⟩)
  | 0x13 => .ok (.bfx ⟨w.extractLsb' 18 7, w.extractLsb' 16 2, w.extractLsb' 9 7, w.extractLsb' 7 2, w.extractLsb' 0 7⟩)
  | 0x14 => .ok (.bfi ⟨w.extractLsb' 18 7, w.extractLsb' 16 2, w.extractLsb' 9 7, w.extractLsb' 7 2, w.extractLsb' 0 7⟩)
  | 0x15 => .ok (.iadd64 ⟨w.extractLsb' 18 7, w.extractLsb' 16 2, w.extractLsb' 9 7, w.extractLsb' 7 2, w.extractLsb' 0 7⟩)
  | 0x16 => .ok (.perm ⟨w.extractLsb' 18 7, w.extractLsb' 16 2, w.extractLsb' 9 7, w.extractLsb' 7 2, w.extractLsb' 0 7⟩)
  | 0x17 => .ok (.sel ⟨w.extractLsb' 18 7, w.extractLsb' 16 2, w.extractLsb' 9 7, w.extractLsb' 7 2, w.extractLsb' 0 7⟩)
  | 0x18 => .ok (.fadd ⟨w.extractLsb' 18 7, w.extractLsb' 16 2, w.extractLsb' 9 7, w.extractLsb' 7 2, w.extractLsb' 0 7⟩)
  | 0x19 => .ok (.fsub ⟨w.extractLsb' 18 7, w.extractLsb' 16 2, w.extractLsb' 9 7, w.extractLsb' 7 2, w.extractLsb' 0 7⟩)
  | 0x1a => .ok (.fmul ⟨w.extractLsb' 18 7, w.extractLsb' 16 2, w.extractLsb' 9 7, w.extractLsb' 7 2, w.extractLsb' 0 7⟩)
  | 0x1b => .ok (.ffma ⟨w.extractLsb' 18 7, w.extractLsb' 16 2, w.extractLsb' 9 7, w.extractLsb' 7 2, w.extractLsb' 0 7⟩)
  | 0x1c => .ok (.fmin ⟨w.extractLsb' 18 7, w.extractLsb' 16 2, w.extractLsb' 9 7, w.extractLsb' 7 2, w.extractLsb' 0 7⟩)
  | 0x1d => .ok (.fmax ⟨w.extractLsb' 18 7, w.extractLsb' 16 2, w.extractLsb' 9 7, w.extractLsb' 7 2, w.extractLsb' 0 7⟩)
  | 0x1e => .ok (.fscale ⟨w.extractLsb' 18 7, w.extractLsb' 16 2, w.extractLsb' 9 7, w.extractLsb' 7 2, w.extractLsb' 0 7⟩)
  | 0x1f => .ok (.badd2 ⟨w.extractLsb' 18 7, w.extractLsb' 16 2, w.extractLsb' 9 7, w.extractLsb' 7 2, w.extractLsb' 0 7⟩)
  | 0x20 => .ok (.bmul2 ⟨w.extractLsb' 18 7, w.extractLsb' 16 2, w.extractLsb' 9 7, w.extractLsb' 7 2, w.extractLsb' 0 7⟩)
  | 0x21 => .ok (.bfma2 ⟨w.extractLsb' 18 7, w.extractLsb' 16 2, w.extractLsb' 9 7, w.extractLsb' 7 2, w.extractLsb' 0 7⟩)
  | 0x22 => .ok (.hadd2 ⟨w.extractLsb' 18 7, w.extractLsb' 16 2, w.extractLsb' 9 7, w.extractLsb' 7 2, w.extractLsb' 0 7⟩)
  | 0x23 => .ok (.hmul2 ⟨w.extractLsb' 18 7, w.extractLsb' 16 2, w.extractLsb' 9 7, w.extractLsb' 7 2, w.extractLsb' 0 7⟩)
  | 0x24 => .ok (.hfma2 ⟨w.extractLsb' 18 7, w.extractLsb' 16 2, w.extractLsb' 9 7, w.extractLsb' 7 2, w.extractLsb' 0 7⟩)
  | 0x25 => .ok (.pack2 ⟨w.extractLsb' 18 7, w.extractLsb' 16 2, w.extractLsb' 9 7, w.extractLsb' 7 2, w.extractLsb' 0 7⟩)
  | 0x26 => .ok (.bdot2 ⟨w.extractLsb' 18 7, w.extractLsb' 16 2, w.extractLsb' 9 7, w.extractLsb' 7 2, w.extractLsb' 0 7⟩)
  | 0x27 => .ok (.hdot2 ⟨w.extractLsb' 18 7, w.extractLsb' 16 2, w.extractLsb' 9 7, w.extractLsb' 7 2, w.extractLsb' 0 7⟩)
  | 0x28 => parseUnary w
  | 0x29 => .ok (.cmp ⟨w.extractLsb' 22 3, w.extractLsb' 18 4, w.extractLsb' 16 2, w.extractLsb' 9 7, w.extractLsb' 7 2, w.extractLsb' 0 7⟩)
  | 0x2a => parseSalu w
  | 0x2b => parseCtrl w
  | 0x2c => parseLd w
  | 0x2d => parseSt w
  | 0x2e => parseAtom w
  | 0x2f => parseSync w
  | 0x30 => parseMat w
  | 0x31 => parseXlane w
  | 0x32 => parseAcopy w
  | 0x33 => parseRes w
  | 0x34 => parseHelp w
  | 0x35 => parseSweep w
  | 0x36 => parseKv w
  | 0x37 => parseNmem w
  | 0x38 => parseTask w
  | 0x39 => parseSys w
  | 0x3a => .error .reservedMajor
  | 0x3b => .error .reservedMajor
  | 0x3c => .error .reservedMajor
  | 0x3d => .error .reservedMajor
  | 0x3e => .error .prefixWord
  | _ => if w.extractLsb' 0 4 == 0x0 then .ok (.clause (w.extractLsb' 13 12) (w.extractLsb' 9 4) (w.extractLsb' 5 4) (w.extractLsb' 4 1)) else .error .reservedField

/-- The instruction a word holds, or the lowest sub-cause of R85 that the word alone raises. -/
def decodeWord (w : Word) : Except DecodeErr Instr :=
  match parseWord w with
  | .error e => .error e
  | .ok i => match i.fieldError with
    | some e => .error e
    | none => .ok i

/-- The four bytes of a word as memory holds them, lowest address first (R60). -/
def wordBytes (w : Word) : List Byte :=
  [w.extractLsb' 0 8, w.extractLsb' 8 8, w.extractLsb' 16 8, w.extractLsb' 24 8]

/-- The word that four bytes hold (R60). -/
def bytesWord : List Byte → Word
  | [a, b, c, d] => d ++ c ++ b ++ a
  | _ => 0

/-- Decoding from memory bytes: the instruction of the first word and the bytes after it. -/
def decodeBytes : List Byte → Except DecodeErr (Instr × List Byte)
  | a :: b :: c :: d :: rest => (decodeWord (bytesWord [a, b, c, d])).map fun i => (i, rest)
  | _ => .error .truncated

/-- The instruction this decoder reads from a word given as the opcode table numbers its bits. -/
def decodeTableWord (_nbits w : Nat) : Option Instr :=
  match decodeBytes (wordBytes (BitVec.ofNat 32 w)) with
  | .ok (i, _) => some i
  | .error _ => none

/-- The word of an instruction with C = 0 (R61, R67, R80 to R84); an event has none. -/
def encodeWord (i : Instr) : Option Word :=
  match i with
  | .iadd f => some ((0x0 : BitVec 7) ++ f.d ++ f.ta ++ f.a ++ f.tb ++ f.b)
  | .isub f => some ((0x1 : BitVec 7) ++ f.d ++ f.ta ++ f.a ++ f.tb ++ f.b)
  | .imul f => some ((0x2 : BitVec 7) ++ f.d ++ f.ta ++ f.a ++ f.tb ++ f.b)
  | .imulhs f => some ((0x3 : BitVec 7) ++ f.d ++ f.ta ++ f.a ++ f.tb ++ f.b)
  | .imulhn f => some ((0x4 : BitVec 7) ++ f.d ++ f.ta ++ f.a ++ f.tb ++ f.b)
  | .imad f => some ((0x5 : BitVec 7) ++ f.d ++ f.ta ++ f.a ++ f.tb ++ f.b)
  | .imins f => some ((0x6 : BitVec 7) ++ f.d ++ f.ta ++ f.a ++ f.tb ++ f.b)
  | .iminn f => some ((0x7 : BitVec 7) ++ f.d ++ f.ta ++ f.a ++ f.tb ++ f.b)
  | .imaxs f => some ((0x8 : BitVec 7) ++ f.d ++ f.ta ++ f.a ++ f.tb ++ f.b)
  | .imaxn f => some ((0x9 : BitVec 7) ++ f.d ++ f.ta ++ f.a ++ f.tb ++ f.b)
  | .iaddsat f => some ((0xa : BitVec 7) ++ f.d ++ f.ta ++ f.a ++ f.tb ++ f.b)
  | .isubsat f => some ((0xb : BitVec 7) ++ f.d ++ f.ta ++ f.a ++ f.tb ++ f.b)
  | .and f => some ((0xc : BitVec 7) ++ f.d ++ f.ta ++ f.a ++ f.tb ++ f.b)
  | .or f => some ((0xd : BitVec 7) ++ f.d ++ f.ta ++ f.a ++ f.tb ++ f.b)
  | .xor f => some ((0xe : BitVec 7) ++ f.d ++ f.ta ++ f.a ++ f.tb ++ f.b)
  | .andn f => some ((0xf : BitVec 7) ++ f.d ++ f.ta ++ f.a ++ f.tb ++ f.b)
  | .shl f => some ((0x10 : BitVec 7) ++ f.d ++ f.ta ++ f.a ++ f.tb ++ f.b)
  | .shrn f => some ((0x11 : BitVec 7) ++ f.d ++ f.ta ++ f.a ++ f.tb ++ f.b)
  | .shrs f => some ((0x12 : BitVec 7) ++ f.d ++ f.ta ++ f.a ++ f.tb ++ f.b)
  | .bfx f => some ((0x13 : BitVec 7) ++ f.d ++ f.ta ++ f.a ++ f.tb ++ f.b)
  | .bfi f => some ((0x14 : BitVec 7) ++ f.d ++ f.ta ++ f.a ++ f.tb ++ f.b)
  | .iadd64 f => some ((0x15 : BitVec 7) ++ f.d ++ f.ta ++ f.a ++ f.tb ++ f.b)
  | .perm f => some ((0x16 : BitVec 7) ++ f.d ++ f.ta ++ f.a ++ f.tb ++ f.b)
  | .sel f => some ((0x17 : BitVec 7) ++ f.d ++ f.ta ++ f.a ++ f.tb ++ f.b)
  | .fadd f => some ((0x18 : BitVec 7) ++ f.d ++ f.ta ++ f.a ++ f.tb ++ f.b)
  | .fsub f => some ((0x19 : BitVec 7) ++ f.d ++ f.ta ++ f.a ++ f.tb ++ f.b)
  | .fmul f => some ((0x1a : BitVec 7) ++ f.d ++ f.ta ++ f.a ++ f.tb ++ f.b)
  | .ffma f => some ((0x1b : BitVec 7) ++ f.d ++ f.ta ++ f.a ++ f.tb ++ f.b)
  | .fmin f => some ((0x1c : BitVec 7) ++ f.d ++ f.ta ++ f.a ++ f.tb ++ f.b)
  | .fmax f => some ((0x1d : BitVec 7) ++ f.d ++ f.ta ++ f.a ++ f.tb ++ f.b)
  | .fscale f => some ((0x1e : BitVec 7) ++ f.d ++ f.ta ++ f.a ++ f.tb ++ f.b)
  | .badd2 f => some ((0x1f : BitVec 7) ++ f.d ++ f.ta ++ f.a ++ f.tb ++ f.b)
  | .bmul2 f => some ((0x20 : BitVec 7) ++ f.d ++ f.ta ++ f.a ++ f.tb ++ f.b)
  | .bfma2 f => some ((0x21 : BitVec 7) ++ f.d ++ f.ta ++ f.a ++ f.tb ++ f.b)
  | .hadd2 f => some ((0x22 : BitVec 7) ++ f.d ++ f.ta ++ f.a ++ f.tb ++ f.b)
  | .hmul2 f => some ((0x23 : BitVec 7) ++ f.d ++ f.ta ++ f.a ++ f.tb ++ f.b)
  | .hfma2 f => some ((0x24 : BitVec 7) ++ f.d ++ f.ta ++ f.a ++ f.tb ++ f.b)
  | .pack2 f => some ((0x25 : BitVec 7) ++ f.d ++ f.ta ++ f.a ++ f.tb ++ f.b)
  | .bdot2 f => some ((0x26 : BitVec 7) ++ f.d ++ f.ta ++ f.a ++ f.tb ++ f.b)
  | .hdot2 f => some ((0x27 : BitVec 7) ++ f.d ++ f.ta ++ f.a ++ f.tb ++ f.b)
  | .mov f => some ((0x28 : BitVec 7) ++ f.d ++ f.ta ++ f.a ++ (0x0 : BitVec 9))
  | .not f => some ((0x28 : BitVec 7) ++ f.d ++ f.ta ++ f.a ++ (0x1 : BitVec 9))
  | .ineg f => some ((0x28 : BitVec 7) ++ f.d ++ f.ta ++ f.a ++ (0x2 : BitVec 9))
  | .iabs f => some ((0x28 : BitVec 7) ++ f.d ++ f.ta ++ f.a ++ (0x3 : BitVec 9))
  | .clz f => some ((0x28 : BitVec 7) ++ f.d ++ f.ta ++ f.a ++ (0x4 : BitVec 9))
  | .popc f => some ((0x28 : BitVec 7) ++ f.d ++ f.ta ++ f.a ++ (0x5 : BitVec 9))
  | .brev f => some ((0x28 : BitVec 7) ++ f.d ++ f.ta ++ f.a ++ (0x6 : BitVec 9))
  | .mov64 f => some ((0x28 : BitVec 7) ++ f.d ++ f.ta ++ f.a ++ (0x7 : BitVec 9))
  | .frcp f => some ((0x28 : BitVec 7) ++ f.d ++ f.ta ++ f.a ++ (0x8 : BitVec 9))
  | .frsq f => some ((0x28 : BitVec 7) ++ f.d ++ f.ta ++ f.a ++ (0x9 : BitVec 9))
  | .fsqrt f => some ((0x28 : BitVec 7) ++ f.d ++ f.ta ++ f.a ++ (0xa : BitVec 9))
  | .fexp2 f => some ((0x28 : BitVec 7) ++ f.d ++ f.ta ++ f.a ++ (0xb : BitVec 9))
  | .flog2 f => some ((0x28 : BitVec 7) ++ f.d ++ f.ta ++ f.a ++ (0xc : BitVec 9))
  | .fsint f => some ((0x28 : BitVec 7) ++ f.d ++ f.ta ++ f.a ++ (0xd : BitVec 9))
  | .fcost f => some ((0x28 : BitVec 7) ++ f.d ++ f.ta ++ f.a ++ (0xe : BitVec 9))
  | .ftanh f => some ((0x28 : BitVec 7) ++ f.d ++ f.ta ++ f.a ++ (0xf : BitVec 9))
  | .frnd f => some ((0x28 : BitVec 7) ++ f.d ++ f.ta ++ f.a ++ (0x10 : BitVec 9))
  | .ffract f => some ((0x28 : BitVec 7) ++ f.d ++ f.ta ++ f.a ++ (0x11 : BitVec 9))
  | .fclass f => some ((0x28 : BitVec 7) ++ f.d ++ f.ta ++ f.a ++ (0x12 : BitVec 9))
  | .cvt f => some ((0x28 : BitVec 7) ++ f.d ++ f.ta ++ f.a ++ (0x3 : BitVec 2) ++ f.y ++ f.x ++ f.s)
  | .cmp f => some ((0x29 : BitVec 7) ++ f.pd ++ f.cond ++ f.ta ++ f.a ++ f.tb ++ f.b)
  | .sadd f => some ((0x2a : BitVec 7) ++ f.sd ++ (0x0 : BitVec 5) ++ f.sa ++ f.tb ++ f.b)
  | .ssub f => some ((0x2a : BitVec 7) ++ f.sd ++ (0x1 : BitVec 5) ++ f.sa ++ f.tb ++ f.b)
  | .smul f => some ((0x2a : BitVec 7) ++ f.sd ++ (0x2 : BitVec 5) ++ f.sa ++ f.tb ++ f.b)
  | .sand f => some ((0x2a : BitVec 7) ++ f.sd ++ (0x3 : BitVec 5) ++ f.sa ++ f.tb ++ f.b)
  | .sor f => some ((0x2a : BitVec 7) ++ f.sd ++ (0x4 : BitVec 5) ++ f.sa ++ f.tb ++ f.b)
  | .sxor f => some ((0x2a : BitVec 7) ++ f.sd ++ (0x5 : BitVec 5) ++ f.sa ++ f.tb ++ f.b)
  | .sshl f => some ((0x2a : BitVec 7) ++ f.sd ++ (0x6 : BitVec 5) ++ f.sa ++ f.tb ++ f.b)
  | .sshrn f => some ((0x2a : BitVec 7) ++ f.sd ++ (0x7 : BitVec 5) ++ f.sa ++ f.tb ++ f.b)
  | .sshrs f => some ((0x2a : BitVec 7) ++ f.sd ++ (0x8 : BitVec 5) ++ f.sa ++ f.tb ++ f.b)
  | .smins f => some ((0x2a : BitVec 7) ++ f.sd ++ (0x9 : BitVec 5) ++ f.sa ++ f.tb ++ f.b)
  | .smaxs f => some ((0x2a : BitVec 7) ++ f.sd ++ (0xa : BitVec 5) ++ f.sa ++ f.tb ++ f.b)
  | .sminn f => some ((0x2a : BitVec 7) ++ f.sd ++ (0xb : BitVec 5) ++ f.sa ++ f.tb ++ f.b)
  | .smaxn f => some ((0x2a : BitVec 7) ++ f.sd ++ (0xc : BitVec 5) ++ f.sa ++ f.tb ++ f.b)
  | .sadd64 f => some ((0x2a : BitVec 7) ++ f.sd ++ (0xd : BitVec 5) ++ f.sa ++ f.tb ++ f.b)
  | .smov f => some ((0x2a : BitVec 7) ++ f.sd ++ (0x380 : BitVec 11) ++ f.tb ++ f.b)
  | .smov64 f => some ((0x2a : BitVec 7) ++ f.sd ++ (0x3c0 : BitVec 11) ++ f.tb ++ f.b)
  | .scmp f => some ((0x150 : BitVec 10) ++ f.pd ++ (0x1 : BitVec 1) ++ f.cond ++ f.sa ++ f.tb ++ f.b)
  | .bra f => some ((0x560 : BitVec 12) ++ f.neg ++ f.pred ++ f.off)
  | .brx f => some ((0x561 : BitVec 12) ++ f.neg ++ f.pred ++ (0x0 : BitVec 7) ++ f.tag ++ f.reg)
  | .call f => some ((0x562 : BitVec 12) ++ f.neg ++ f.pred ++ f.off)
  | .calli f => some ((0x563 : BitVec 12) ++ f.neg ++ f.pred ++ (0x0 : BitVec 7) ++ f.tag ++ f.reg)
  | .ret f => some ((0x564 : BitVec 12) ++ f.neg ++ f.pred ++ (0x0 : BitVec 16))
  | .jmpi f => some ((0x565 : BitVec 12) ++ f.neg ++ f.pred ++ (0x0 : BitVec 7) ++ f.tag ++ f.reg)
  | .meet f => some ((0x566 : BitVec 12) ++ f.neg ++ f.pred ++ f.off)
  | .meetx f => some ((0x567 : BitVec 12) ++ f.neg ++ f.pred ++ (0x0 : BitVec 6) ++ f.sel ++ f.tag ++ f.reg)
  | .exit f => some ((0x568 : BitVec 12) ++ f.neg ++ f.pred ++ (0x0 : BitVec 16))
  | .bar f => some ((0x569 : BitVec 12) ++ f.neg ++ f.pred ++ f.count ++ f.bar)
  | .bara f => some ((0x56a : BitVec 12) ++ f.neg ++ f.pred ++ f.count ++ f.bar)
  | .yield => some ((0x56b70000 : BitVec 32))
  | .priopass => some ((0x56c70000 : BitVec 32))
  | .trap f => some ((0x56d : BitVec 12) ++ f.neg ++ f.pred ++ (0x0 : BitVec 8) ++ f.code)
  | .brkpt f => some ((0x56e : BitVec 12) ++ f.neg ++ f.pred ++ (0x0 : BitVec 16))
  | .nop => some ((0x56f70000 : BitVec 32))
  | .idemb f => some ((0x570 : BitVec 12) ++ f.neg ++ f.pred ++ (0x0 : BitVec 16))
  | .ideme f => some ((0x571 : BitVec 12) ++ f.neg ++ f.pred ++ (0x0 : BitVec 16))
  | .trapret => some ((0x57270000 : BitVec 32))
  | .trig f => some ((0x573 : BitVec 12) ++ f.neg ++ f.pred ++ (0x0 : BitVec 16))
  | .ldVbase f => some ((0x2c : BitVec 7) ++ f.d ++ f.a ++ (0x0 : BitVec 1) ++ f.size ++ f.imm)
  | .ldSbase f => some ((0x2c : BitVec 7) ++ f.d ++ f.v ++ (0x1 : BitVec 1) ++ f.size ++ f.pair ++ f.nov)
  | .stVbase f => some ((0x2d : BitVec 7) ++ f.d ++ f.a ++ (0x0 : BitVec 1) ++ f.size ++ f.imm)
  | .stSbase f => some ((0x2d : BitVec 7) ++ f.d ++ f.v ++ (0x1 : BitVec 1) ++ f.size ++ f.pair ++ f.nov)
  | .atomAdd f => some ((0x2e : BitVec 7) ++ f.d ++ f.a ++ (0x0 : BitVec 4) ++ f.scope ++ f.order ++ f.fsel)
  | .atomMins f => some ((0x2e : BitVec 7) ++ f.d ++ f.a ++ (0x1 : BitVec 4) ++ f.scope ++ f.order ++ f.fsel)
  | .atomMaxs f => some ((0x2e : BitVec 7) ++ f.d ++ f.a ++ (0x2 : BitVec 4) ++ f.scope ++ f.order ++ f.fsel)
  | .atomMinn f => some ((0x2e : BitVec 7) ++ f.d ++ f.a ++ (0x3 : BitVec 4) ++ f.scope ++ f.order ++ f.fsel)
  | .atomMaxn f => some ((0x2e : BitVec 7) ++ f.d ++ f.a ++ (0x4 : BitVec 4) ++ f.scope ++ f.order ++ f.fsel)
  | .atomAnd f => some ((0x2e : BitVec 7) ++ f.d ++ f.a ++ (0x5 : BitVec 4) ++ f.scope ++ f.order ++ f.fsel)
  | .atomOr f => some ((0x2e : BitVec 7) ++ f.d ++ f.a ++ (0x6 : BitVec 4) ++ f.scope ++ f.order ++ f.fsel)
  | .atomXor f => some ((0x2e : BitVec 7) ++ f.d ++ f.a ++ (0x7 : BitVec 4) ++ f.scope ++ f.order ++ f.fsel)
  | .atomXchg f => some ((0x2e : BitVec 7) ++ f.d ++ f.a ++ (0x8 : BitVec 4) ++ f.scope ++ f.order ++ f.fsel)
  | .atomCas f => some ((0x2e : BitVec 7) ++ f.d ++ f.a ++ (0x9 : BitVec 4) ++ f.scope ++ f.order ++ f.fsel)
  | .atomFadd f => some ((0x2e : BitVec 7) ++ f.d ++ f.a ++ (0xa : BitVec 4) ++ f.scope ++ f.order ++ f.fsel)
  | .atomBadd2 f => some ((0x2e : BitVec 7) ++ f.d ++ f.a ++ (0xb : BitVec 4) ++ f.scope ++ f.order ++ f.fsel)
  | .atomInc f => some ((0x2e : BitVec 7) ++ f.d ++ f.a ++ (0xc : BitVec 4) ++ f.scope ++ f.order ++ f.fsel)
  | .atomDec f => some ((0x2e : BitVec 7) ++ f.d ++ f.a ++ (0xd : BitVec 4) ++ f.scope ++ f.order ++ f.fsel)
  | .atomStrel f => some ((0x2e : BitVec 7) ++ f.d ++ f.a ++ (0xe : BitVec 4) ++ f.scope ++ (0x2 : BitVec 2) ++ f.fsel)
  | .atomLdacq f => some ((0x2e : BitVec 7) ++ f.d ++ f.a ++ (0xf : BitVec 4) ++ f.scope ++ (0x1 : BitVec 2) ++ f.fsel)
  | .fence order scope => some ((0x5e0 : BitVec 12) ++ order ++ scope ++ (0x0 : BitVec 14))
  | .opfence => some ((0x5e200000 : BitVec 32))
  | .waitf mask => some ((0x2f2 : BitVec 11) ++ (mask.extractLsb' 0 7) ++ (0x0 : BitVec 2) ++ (mask.extractLsb' 7 5) ++ (0x0 : BitVec 7))
  | .tlrflush x fsel => some ((0x2f3 : BitVec 11) ++ x ++ (0x0 : BitVec 13) ++ fsel)
  | .ipref f => some ((0x2f4 : BitVec 11) ++ f.x ++ f.y ++ (0x0 : BitVec 5) ++ f.level ++ f.fsel)
  | .ipin x y => some ((0x2f5 : BitVec 11) ++ x ++ y ++ (0x0 : BitVec 7))
  | .iunpin x y => some ((0x2f6 : BitVec 11) ++ x ++ y ++ (0x0 : BitVec 7))
  | .cinv f => some ((0x2f7 : BitVec 11) ++ f.x ++ f.y ++ (0x0 : BitVec 5) ++ f.level ++ f.fsel)
  | .cwb f => some ((0x2f8 : BitVec 11) ++ f.x ++ f.y ++ (0x0 : BitVec 5) ++ f.level ++ f.fsel)
  | .mmq f => some ((0x180 : BitVec 10) ++ f.tile ++ f.a ++ f.f)
  | .mmg f => some ((0x181 : BitVec 10) ++ f.tile ++ f.a ++ f.f)
  | .mlds a f => some ((0x18200 : BitVec 18) ++ a ++ f)
  | .mswap => some ((0x60c00000 : BitVec 32))
  | .mrd tile a g => some ((0x184 : BitVec 10) ++ tile ++ a ++ (0x0 : BitVec 5) ++ g)
  | .mwr tile a g => some ((0x185 : BitVec 10) ++ tile ++ a ++ (0x0 : BitVec 5) ++ g)
  | .mclr tile n => some ((0x186 : BitVec 10) ++ tile ++ (0x0 : BitVec 7) ++ n)
  | .shfli f => some ((0x31 : BitVec 7) ++ f.d ++ f.ta ++ f.a ++ (0x0 : BitVec 3) ++ f.lane)
  | .shflu f => some ((0x31 : BitVec 7) ++ f.d ++ f.ta ++ f.a ++ (0x1 : BitVec 3) ++ f.lane)
  | .shfld f => some ((0x31 : BitVec 7) ++ f.d ++ f.ta ++ f.a ++ (0x2 : BitVec 3) ++ f.lane)
  | .shflx f => some ((0x31 : BitVec 7) ++ f.d ++ f.ta ++ f.a ++ (0x3 : BitVec 3) ++ f.lane)
  | .swappair f => some ((0x31 : BitVec 7) ++ f.d ++ f.ta ++ f.a ++ (0x4 : BitVec 3) ++ f.lane)
  | .bcastl f => some ((0x31 : BitVec 7) ++ f.d ++ f.ta ++ f.a ++ (0x140 : BitVec 9))
  | .voteb f => some ((0x31 : BitVec 7) ++ f.d ++ f.ta ++ f.a ++ (0x6 : BitVec 3) ++ f.lane)
  | .redux f => some ((0x31 : BitVec 7) ++ f.d ++ f.ta ++ f.a ++ (0x7 : BitVec 3) ++ f.lane)
  | .tcopy f => some ((0x190 : BitVec 10) ++ f.coord ++ f.handle ++ f.ckind ++ f.cid)
  | .tstore f => some ((0x191 : BitVec 10) ++ f.coord ++ f.handle ++ f.ckind ++ f.cid)
  | .tgather f => some ((0x192 : BitVec 10) ++ f.coord ++ f.handle ++ f.ckind ++ f.cid)
  | .tscatter f => some ((0x193 : BitVec 10) ++ f.coord ++ f.handle ++ f.ckind ++ f.cid)
  | .txfer f => some ((0x194 : BitVec 10) ++ f.coord ++ f.handle ++ f.ckind ++ f.cid)
  | .xacq mask tryIt p => some ((0x1980 : BitVec 14) ++ mask ++ (0x0 : BitVec 6) ++ tryIt ++ (0x0 : BitVec 3) ++ p ++ (0x0 : BitVec 1))
  | .xrel mask => some ((0x1988 : BitVec 14) ++ mask ++ (0x0 : BitVec 14))
  | .aacq t n tryIt p => some ((0x332 : BitVec 11) ++ (t.extractLsb' 0 7) ++ n ++ (0x0 : BitVec 1) ++ tryIt ++ (t.extractLsb' 7 1) ++ p ++ (0x0 : BitVec 1))
  | .arel t n => some ((0x333 : BitVec 11) ++ (t.extractLsb' 0 7) ++ n ++ (0x0 : BitVec 2) ++ (t.extractLsb' 7 1) ++ (0x0 : BitVec 4))
  | .recruit d b n => some ((0x680 : BitVec 12) ++ d ++ b ++ (0x0 : BitVec 1) ++ n ++ (0x0 : BitVec 1))
  | .hchunk => some ((0x68200000 : BitVec 32))
  | .hcommit => some ((0x68400000 : BitVec 32))
  | .hreduce r k => some ((0x343 : BitVec 11) ++ r ++ (0x0 : BitVec 5) ++ k ++ (0x0 : BitVec 7))
  | .hjoin d w => some ((0x344 : BitVec 11) ++ d ++ (0x0 : BitVec 12) ++ w ++ (0x0 : BitVec 1))
  | .hexit => some ((0x68a00000 : BitVec 32))
  | .swreg x d fsel => some ((0x350 : BitVec 11) ++ x ++ d ++ (0x0 : BitVec 6) ++ fsel)
  | .swdereg h fsel => some ((0x351 : BitVec 11) ++ h ++ (0x0 : BitVec 13) ++ fsel)
  | .swq x y fsel => some ((0x352 : BitVec 11) ++ x ++ y ++ (0x0 : BitVec 6) ++ fsel)
  | .swurge x fsel => some ((0x353 : BitVec 11) ++ x ++ (0x0 : BitVec 13) ++ fsel)
  | .swstat x d fsel => some ((0x354 : BitVec 11) ++ x ++ d ++ (0x0 : BitVec 6) ++ fsel)
  | .swliveDead x n fsel => some ((0x355 : BitVec 11) ++ x ++ n ++ (0x0 : BitVec 6) ++ fsel)
  | .swliveLive x n fsel => some ((0x355 : BitVec 11) ++ x ++ n ++ (0x1 : BitVec 6) ++ fsel)
  | .pfxlook f => some ((0x360 : BitVec 11) ++ f.x ++ f.d ++ f.z ++ f.fsel)
  | .pfxins f => some ((0x361 : BitVec 11) ++ f.x ++ f.d ++ f.z ++ f.fsel)
  | .pfxrel x d fsel => some ((0x362 : BitVec 11) ++ x ++ d ++ (0x0 : BitVec 6) ++ fsel)
  | .pfxevict f => some ((0x363 : BitVec 11) ++ f.x ++ f.d ++ f.z ++ f.fsel)
  | .kappend f => some ((0x364 : BitVec 11) ++ f.x ++ f.d ++ f.z ++ f.fsel)
  | .kseq f => some ((0x365 : BitVec 11) ++ f.x ++ f.d ++ f.z ++ f.fsel)
  | .nmc a d fsel => some ((0x370 : BitVec 11) ++ a ++ d ++ (0x0 : BitVec 6) ++ fsel)
  | .nmfence fsel => some ((0x37100000 : BitVec 31) ++ fsel)
  | .nmstat t d fsel => some ((0x372 : BitVec 11) ++ t ++ d ++ (0x0 : BitVec 6) ++ fsel)
  | .launch a d k => some ((0x380 : BitVec 11) ++ a ++ d ++ k ++ (0x0 : BitVec 6))
  | .dcdec f => some ((0x702 : BitVec 12) ++ f.n ++ f.m ++ f.k ++ (0x0 : BitVec 4) ++ f.g ++ (0x0 : BitVec 1))
  | .dcadd f => some ((0x704 : BitVec 12) ++ f.n ++ f.m ++ f.k ++ (0x0 : BitVec 4) ++ f.g ++ (0x0 : BitVec 1))
  | .taskrdy f => some ((0x706 : BitVec 12) ++ f.n ++ f.m ++ f.k ++ (0x0 : BitVec 4) ++ f.g ++ (0x0 : BitVec 1))
  | .evpop d k tryIt fsel => some ((0x1c200 : BitVec 18) ++ d ++ k ++ (0x0 : BitVec 3) ++ tryIt ++ (0x0 : BitVec 1) ++ fsel)
  | .evpush r k => some ((0x385 : BitVec 11) ++ r ++ (0x0 : BitVec 7) ++ k ++ (0x0 : BitVec 6))
  | .getsr x y k => some ((0x390 : BitVec 11) ++ x ++ y ++ (0x0 : BitVec 5) ++ k ++ (0x0 : BitVec 1))
  | .setsr x y k => some ((0x391 : BitVec 11) ++ x ++ y ++ (0x0 : BitVec 5) ++ k ++ (0x0 : BitVec 1))
  | .rand d w => some ((0x392 : BitVec 11) ++ d ++ (0x0 : BitVec 11) ++ w ++ (0x0 : BitVec 1))
  | .clock d k => some ((0x393 : BitVec 11) ++ d ++ (0x0 : BitVec 12) ++ k ++ (0x0 : BitVec 1))
  | .cwin a => some ((0x394 : BitVec 11) ++ a ++ (0x0 : BitVec 14))
  | .cwinArgs => some ((0x72800002 : BitVec 32))
  | .uerpl r k => some ((0x395 : BitVec 11) ++ r ++ (0x0 : BitVec 5) ++ k ++ (0x0 : BitVec 7))
  | .clause wait seta setb yld => some ((0x3f : BitVec 7) ++ wait ++ seta ++ setb ++ yld ++ (0x0 : BitVec 4))
  | .bolterReform _ => none
  | .forcedReleaseReturn _ _ => none
  | .helperReplacement _ => none
  | .hchunkWake _ _ => none
  | .hjoinComplete _ => none
  | .handlerStart _ => none
  | .loadDataReturn _ => none
  | .storePerformed _ => none
  | .sfuResult _ => none
  | .matrixOpComplete _ => none
  | .cacheOpDone _ => none
  | .tlrflushDone _ => none
  | .resourceGrant _ => none
  | .warpEnd _ => none
  | .tlrFill _ _ _ => none
  | .copyComplete _ _ => none
  | .pdtPin _ _ => none
  | .pdtUnpin _ _ => none
  | .pageFreePush _ _ _ => none
  | .kvEngineStep _ => none
  | .post _ => none
  | .push _ _ => none
  | .settle _ => none
  | .drop _ _ => none
  | .serve _ => none
  | .restore _ _ => none
  | .swqArrival _ => none
  | .swurgeActivation _ => none
  | .swstatSnapshot _ _ => none
  | .sweepRegArrive _ _ => none
  | .sweepDeregArrive _ _ => none
  | .swregDescriptorRead _ => none
  | .swregComplete _ => none
  | .swliveArrive _ _ => none
  | .temperatureThreshold _ _ => none
  | .scrub _ => none
  | .scrubEscalate _ _ => none
  | .nmcDescriptorRead _ => none
  | .nmGemv _ _ _ => none
  | .nmCsum _ _ _ => none
  | .nmUpdate _ _ => none
  | .nmFill _ _ => none
  | .nmCopy _ _ _ => none
  | .nmCommandComplete _ => none
  | .dcDecrement _ _ _ => none
  | .evpopWake _ => none
  | .doorbell _ _ _ => none
  | .frontEndLaunch _ _ => none
  | .teamPlace _ _ _ _ => none
  | .teamMove _ _ _ => none
  | .pageWalk _ _ _ _ => none
  | .runaheadEnd _ => none
  | .batchOpenDeferred _ => none
  | .replayDoorbell _ _ => none
  | .replayConsume _ => none
  | .replayRetry _ => none
  | .replayInvalidateRange _ => none
  | .replayInvalidateContext _ => none
  | .replayMigrate _ => none
  | .migrationTest _ => none
  | .ptwdataWrite _ _ => none
  | .ptgenIncrement _ => none
  | .preempt _ _ => none
  | .resume _ => none
  | .reset _ => none
  | .drainExpire _ => none
  | .preemptLimitExpire _ => none
  | .ctxwcbWrite _ _ => none
  | .cctaskWrite _ _ => none
  | .flr _ => none
  | .registerWrite _ _ => none
  | .hostLinkDown _ => none
  | .atsInvalidate _ _ _ => none
  | .priResponse _ _ _ _ => none
  | .flitReceive _ _ => none
  | .portDown _ => none
  | .skovRead _ => none
  | .skovWrite _ => none
  | .skovAtomic _ => none
  | .skovResponse _ => none
  | .skovBulkWrite _ => none
  | .bringup => none
  | .bringupStepEnd _ => none
  | .bringupStepTimeout => none
  | .fieldCurrentAverage _ _ => none
  | .clockThrottleStep _ => none
  | .capUpdate _ _ => none
  | .telemetryCapture _ => none
  | .bootclr => none
  | .atomicReturn _ => none
  | .hostAgentAccess _ => none
  | .hostLinkUp _ => none
  | .portUp _ => none
  | .powerLoss => none
  | .softError _ _ => none

end Sys2Proof
end

