-- ==== Sys2Proof/Machine/State.lean ====
section
/-! DEFINITION. The state of the machine as plain data, its faults and refusals, and the state after reset. Tables are
lists of (key, value) pairs; what an absent key stands for is said at each field. -/

namespace Sys2Proof.Machine

/-! ### Stops -/

/-- Why a step can stop the machine. No meaning of this model ends in one: traps, context stops and stalls are next
states. The constructor keeps the interface's type inhabited. -/
inductive Fault where
  /-- Raised by nothing; safe. -/
  | none
  deriving DecidableEq, Repr

/-- Why a step can be refused. -/
inductive Refusal where
  /-- An instruction with no meaning yet, rejected by its name in the dispatcher; safe. -/
  | notModelled (mnemonic : String)
  deriving DecidableEq, Repr

/-! ### Locations and writes (R203, R204) -/

/-- The memory types of a tier-0 page (R153). -/
inductive MemType where
  | normal
  | sw
  | kvp
  | uc
  deriving DecidableEq, Repr

/-- Where an access is performed once its address is steered and translated (R151, R153). -/
inductive Loc where
  /-- Core scratchpad byte `off` of core `core`. -/
  | spad (core off : Nat)
  /-- Byte `off` of a core's window in the on-chip map (R222). -/
  | onchip (core off : Nat)
  /-- Tier-0 physical address. -/
  | mem (t : MemType) (pa : Nat)
  /-- An address a context presents on the host links (R409). -/
  | host (ctx ha : Nat)
  /-- A physical address of another device (R410). -/
  | peer (dev pa : Nat)
  deriving DecidableEq, Repr

/-- A write waiting in a thread buffer (R203), oldest first in `State.tbuf`. -/
structure Wr where
  id : Nat
  warp : Nat
  helper : Option Nat
  lane : Nat
  core : Nat
  /-- The store operation it belongs to, or the HCOMMIT that a helper's write left its chunk buffer by; 0 for none. -/
  op : Nat
  /-- The global address it is made through, for records. -/
  va : Nat
  loc : Loc
  data : List Byte
  deriving DecidableEq, Repr

/-- A write at a home point that has not settled (R203), oldest first in `State.unsettled`. -/
structure HWr where
  stamp : Nat
  bytes : List (Nat × Byte)
  deriving DecidableEq, Repr

/-- A clean copy of a byte at a core point: its value, the place of its write in the location's coherence order, and that
of the write that has come after it at the home point, if any. -/
structure Clean where
  byte : Byte
  stamp : Nat
  gone : Option Nat
  deriving DecidableEq, Repr

/-! ### Threads (R8 to R11, R16, R32) -/

/-- What a BLOCKED thread waits for (R16). -/
inductive Block where
  /-- A barrier phase; `again` holds the arrival it makes in the next phase (R143): COUNT, whether by BAR, and the byte
  offset of its group. -/
  | bar (b : Nat) (again : Option (BitVec 12 × Bool × Nat))
  /-- A resource request (R200). -/
  | res (req : Nat)
  /-- HJOIN, with its destination when W = 1 (R303) and the byte offset of its group. -/
  | join (d : Option Nat) (gpc : Nat)
  /-- TRAPRET, for the other handler threads (R168). -/
  | trapret
  deriving DecidableEq, Repr

/-- The thread states of R16. -/
inductive TState where
  | runnable
  | parked
  | blocked (b : Block)
  | exited
  | killed
  deriving DecidableEq, Repr

structure Thread where
  st : TState
  /-- Byte offset in the code segment of the next word to issue. -/
  pc : Nat
  /-- The bundle it stands in, named by the bundle's lowest thread (R15). -/
  bundle : Nat
  /-- Pass-over count (R17). -/
  passover : Nat
  depth : Nat
  meet : Word
  meetout : Word
  /-- p0 to p6. -/
  preds : BitVec 7
  /-- sr.drawcount. -/
  draws : Word
  /-- The restart record (R32). -/
  inside : Bool
  rpc : Nat
  rdepth : Nat
  rdraws : Word
  /-- Instructions retired (R164), and what that count is right after its latest IDEMB (R367). -/
  retired : Nat
  idemAt : Nat
  /-- SETA and SETB of the clause it runs (R71). -/
  seta : BitVec 4
  setb : BitVec 4
  /-- SETA and SETB of the clause a trap interrupted (R71). -/
  ssa : BitVec 4
  ssb : BitVec 4
  /-- WAIT of the header it has accepted, until the first word after it issues (R69). -/
  wait : BitVec 12
  /-- The parking test of its PC is still to be made (R21). -/
  due : Bool
  /-- Parked in a set that has become releasable and waits for a lent lane of it (R25). -/
  freed : Bool
  /-- Marked in sr.trapmask. -/
  marked : Bool
  /-- Runs the trap handler (R167). -/
  handling : Bool
  /-- Has triggered (R148). -/
  triggered : Bool
  /-- The scope of the thread's release fences, whose condition every later write and atomic awaits (R212), and the loads and
  atomics that those await as well (R159). -/
  relHold : Option Nat
  relOps : List Nat
  /-- Operations that later accesses await (R158, R373), and whether each is an acquire at scope 5 or wider (R210). -/
  acqOps : List (Nat × Bool)
  deriving DecidableEq, Repr

/-! ### Recruitments (R289 to R309) -/

inductive ChunkSt where
  | unclaimed
  | claimed (helper : Nat)
  | held
  | done
  deriving DecidableEq, Repr

/-- One chunk of a recruited loop and its four reduction slots (R298, R301). -/
structure Chunk where
  st : ChunkSt
  slots : List Word
  deriving DecidableEq, Repr

/-- The lent lane states of R309. -/
inductive HState where
  | free
  | chunk (c : Nat)
  | wait
  | reclaim
  deriving DecidableEq, Repr

/-- Where a lent lane came from (R289). -/
inductive Origin where
  | empty
  | exited (warp lane : Nat)
  | parked (warp lane : Nat)
  deriving DecidableEq, Repr

/-- One entry of a chunk buffer: an aligned 8-byte block and its written bytes (R299). -/
structure BufEnt where
  loc : Loc
  /-- The block's global address, for records. -/
  va : Nat
  bytes : List (Option Byte)
  /-- A b128 store to SW memory has written it and the other half of its 16 bytes, which leave as one entry (R204). -/
  pair : Bool
  deriving DecidableEq, Repr

/-- A helper: its lent lane, its private registers and its chunk buffer (R290, R294). -/
structure Helper where
  idx : Nat
  /-- Thread slot of the lane on the recruiter's scheduler. -/
  slot : Nat
  origin : Origin
  st : HState
  pc : Nat
  bundle : Nat
  passover : Nat
  preds : BitVec 7
  /-- v64 to v79 written so far; an absent one is undefined (R294). -/
  vregs : Tab Word
  epoch : Nat
  flags : List Nat
  seta : BitVec 4
  setb : BitVec 4
  /-- WAIT of the header it has accepted, until the first word after it issues (R69). -/
  wait : BitVec 12
  buf : List BufEnt
  deriving DecidableEq, Repr

/-- What a helper trap reports at HJOIN (R306). -/
structure HelperTrap where
  cause : Nat
  info : Nat
  addr : Nat
  idx : Nat
  chunk : Word
  pc : Nat
  lane : Nat
  deriving DecidableEq, Repr

structure Recruit where
  lane : Nat
  body : Nat
  n : Nat
  c : Nat
  /-- Slot types: bit k set for s32 (R293). -/
  types : BitVec 4
  chunks : List Chunk
  helpers : List Helper
  nextIdx : Nat
  /-- Chunks held for a batch: chunk, helper, base of the page (R305). -/
  heldFor : List (Nat × Nat × Nat)
  /-- A helper trap aborted the recruitment; HJOIN delivers it (R306). -/
  trap : Option HelperTrap
  deriving DecidableEq, Repr

/-! ### Traps (R167 to R171, R425) -/

/-- What a trap puts into the special registers. -/
structure TrapRec where
  cause : Nat
  /-- sr.trappc, a byte offset. -/
  pc : Nat
  mask : List Nat
  addr : Nat
  info : Word
  uerec : Option Word
  deriving DecidableEq, Repr

/-- A trap held for delivery at a re-formation (R425). -/
structure Deferred where
  cause : Nat
  lanes : List Nat
  /-- Addresses by lane. -/
  addrs : List (Nat × Nat)
  info : Word
  uerec : Option Word
  /-- Destination registers that stay held until the lane's delivery: lane, first register, words (R166). -/
  dests : List (Nat × Nat × Nat)
  /-- Delivered in part: the rest waits for the TRAPRET (R425). -/
  again : Bool
  deriving DecidableEq, Repr

/-- Where a warp stands with its trap handler. -/
inductive TrapSt where
  | idle
  /-- Stopped and waiting to enter the handler (R167). -/
  | entering (lanes : List Nat)
  /-- sr.handler = 1. -/
  | handling
  deriving DecidableEq, Repr

/-! ### Warps (R12, R20) -/

inductive WarpKind where
  | normal
  /-- The scalar control core's thread (R369). -/
  | control
  deriving DecidableEq, Repr

/-- A run-ahead under way (R382): the copies it works on of the warp's threads, scalars and registers, while the warp keeps
the checkpointed ones; what is poisoned (keys `lane * 1024 + register`, vectors from 0, predicates from 192; scalars `128 +
number`), and the instructions issued. -/
structure Ahead where
  lanes : List Nat
  batch : Nat
  threads : List Thread
  sregs : Tab Word
  cwin : Nat
  rf : Tab Word
  poison : List Nat
  count : Nat
  done : Bool
  deriving DecidableEq, Repr

/-- A fault batch or run-ahead a warp waits on (R382, R383). -/
inductive FaultSt where
  | none
  /-- Waits for a batch slot: the lanes of the faulting bundle. -/
  | wantSlot (lanes : List Nat)
  | ahead (a : Ahead)
  /-- Waits at the faulting group of these lanes for the answer of these batches. -/
  | waiting (lanes batches : List Nat)
  deriving DecidableEq, Repr

structure Warp where
  kind : WarpKind
  team : Nat
  core : Nat
  sched : Nat
  /-- sr.warpid. -/
  k : Nat
  /-- Slot base on its scheduler (R223). -/
  slot : Nat
  w : Nat
  /-- WCB priority class; the lead runs one higher (R146). -/
  cls : Nat
  lead : Bool
  threads : List Thread
  /-- s0 to s63 written since launch; an absent one is undefined (R31). -/
  sregs : Tab Word
  epoch : Nat
  /-- Pending counts of f0 to f11 (R70). -/
  flags : List Nat
  cwin : Nat
  args : Nat
  /-- Pool offsets, in units of 64 × W bytes, of the extended blocks held (R223). -/
  ext : Tab Nat
  trapcause : Word
  trappc : Word
  trapaddr : DWord
  trapinfo : Word
  uerec : Word
  helperidx : Word
  helperchunk : Word
  helperpc : Word
  helperlane : Word
  trap : TrapSt
  deferred : List Deferred
  /-- Words supplied by UERPL in the handler: lane and word index (R166). -/
  uerpl : List (Nat × Nat)
  /-- The destinations a delivered uncorrectable error left: lane, first register, words. -/
  uedests : List (Nat × Nat × Nat)
  recruit : Option Recruit
  fault : FaultSt
  /-- Pages the driver marked unresolvable for the faulting group of these lanes, with its reason code, until that group is
  issued again (R388). -/
  failed : List (List Nat × Nat × Word)
  /-- The turn has ended until another warp of its class is selected (R72). -/
  yielded : Bool
  /-- sr.dcstatus trap still to be taken before the first instruction (R170, code 0x14). -/
  dcPending : Bool
  /-- In deterministic mode, where the bundle that issued last stood, and its lanes (R342). -/
  turn : Option (Nat × List Nat)
  deriving DecidableEq, Repr

/-! ### Operations in flight -/

/-- What one lane of a load, an atomic or an engine result brings back: the bytes read so far. -/
structure LanePart where
  lane : Nat
  d : Nat
  /-- Size code of R80. -/
  size : Nat
  addr : Nat
  loc : Loc
  bytes : List (Option Byte)
  /-- Whether an uncorrectable code word was read (R170). -/
  bad : Bool
  deriving DecidableEq, Repr

/-- The kinds of an operation that completes by an event of its own. -/
inductive OpKind where
  | load
  | store
  | atomic
  /-- Results by lane, register and word, computed at issue (R122). -/
  | sfu (res : List (Nat × Nat × Word))
  /-- RET's record load (R140). -/
  | ret
  /-- Cache operation over lines of a core or L2 (R159). -/
  | cache (inv : Bool) (l2 : Bool) (pas : List Nat)
  | ipref (sched first last : Nat) (l2 pin : Bool)
  | tlrflush (addr : Nat)
  /-- A matrix operation; its detail is in `State.mops`. -/
  | matrix
  /-- A command of an engine; its detail is in that engine's table under the operation's number. -/
  | engine
  deriving DecidableEq, Repr

/-- An operation issued and not complete: what the scoreboard and the flags wait for (R70). -/
structure Op where
  id : Nat
  warp : Nat
  helper : Option Nat
  lanes : List Nat
  /-- The flag it counts on, none for no flag. -/
  flag : Option Nat
  /-- Vector registers it reads (R201), and those it holds: lane and register. -/
  srcs : List Nat
  vdests : List (Nat × Nat)
  sdests : List Nat
  /-- Predicates held: lane and number. -/
  pdests : List (Nat × Nat)
  parts : List LanePart
  kind : OpKind
  deriving DecidableEq, Repr

/-! ### Issue -/

/-- A PFX word's fields (R73). -/
structure Pfx where
  kind : BitVec 1
  guard : BitVec 3
  gneg : BitVec 1
  redirect : BitVec 2
  tc : BitVec 2
  cfield : BitVec 7
  round : BitVec 2
  sat : BitVec 1
  nega : BitVec 1
  absa : BitVec 1
  negb : BitVec 1
  absb : BitVec 1
  hib : BitVec 1
  cache : BitVec 2
  w64 : BitVec 1
  rp : BitVec 1
  hi7 : BitVec 7
  /-- The reserved bits: [1] of kind 0, [6:0] of kind 1. -/
  rsvd : BitVec 7
  deriving DecidableEq, Repr

/-- Where a waiting launch is held (R361): in the context itself, a node's or a readying; at the head of a queue, by the
entry's count; or at the issue of a LAUNCH, by its warp, leader and place. -/
inductive WaitBy where
  | held
  | entry (q head : Nat)
  | word (warp lane pc : Nat)
  deriving DecidableEq, Repr

/-- A launch that waits for room or for the instance of its graph (R361), or a readying held until resume (R395). -/
structure WaitLaunch where
  by_ : WaitBy
  /-- It waits for its graph's instance to end. -/
  inst : Bool
  wcb : Nat
  dcstatus : Word
  node : Option (Nat × Nat)
  queue : Option Nat
  deriving DecidableEq, Repr

/-- A translation fault (R381): its lane, the address, REASON and ACC of R385, and the page that identifies it. -/
structure PageFault where
  lane : Nat
  addr : Nat
  reason : Nat
  acc : Nat
  base : Nat
  lg : Nat
  /-- The address as the thread gave it (R170): a stack access's lies in the stack aperture. -/
  own : Nat := addr
  deriving DecidableEq, Repr

/-- Who issues. -/
inductive IssKind where
  | thread
  | helper
  deriving DecidableEq, Repr

/-! ### Teams, launches and contexts (R28, R355 to R363) -/

/-- A range entry of R346. -/
structure RangeEnt where
  kind : Nat
  stride : Nat
  size : Nat
  base : Nat
  deriving DecidableEq, Repr

/-- The values of a task WCB in effect for a launch (R357, R359). -/
structure TaskVals where
  wcb : Nat
  w : Nat
  warps : Nat
  teams : Nat
  code : Nat
  codelen : Nat
  entry : Nat
  hpc : Nat
  fpol : Nat
  prio : Nat
  xblk : Nat
  help : Nat
  spbytes : Nat
  tiles : Nat
  cores : Nat
  cur : Nat
  args : Nat
  seed : Nat
  stkbase : Nat
  stkstride : Nat
  det : Bool
  grant : Bool
  dctrap : Bool
  dcwin : Nat
  donedc : Nat
  trigdc : Nat
  ranges : List RangeEnt
  teamwcb : Nat
  deriving DecidableEq, Repr

structure Barrier where
  count : Nat
  phase : Nat
  /-- COUNT of the phase's first arrival. -/
  expect : Option (BitVec 12)
  /-- Team lanes that have arrived in this phase. -/
  arrived : List Nat
  deriving DecidableEq, Repr

/-- A team's place in deterministic mode (R341 to R344). -/
structure DetTeam where
  running : Nat
  /-- The round it is in, or is about to begin. -/
  round : Nat
  /-- The round before has ended and this one not begun. -/
  fresh : Bool
  /-- A switching point was reached and no warp could run yet. -/
  switching : Bool
  /-- Its last live warp has exited. -/
  ended : Bool
  /-- Bytes that its stores of a round have replaced, by global address, as they stood before (R349), and that round. -/
  undo : Tab Byte
  undoRound : Nat
  deriving DecidableEq, Repr

structure Team where
  ctx : Nat
  /-- Key of its launch in `State.launches`. -/
  launch : Nat
  /-- sr.teamid. -/
  idx : Nat
  vals : TaskVals
  /-- The team WCB's address (R362). -/
  twcb : Nat
  core : Nat
  first : Nat
  spbase : Nat
  /-- Team tile to core tile. -/
  tiles : Tab Nat
  bars : Tab Barrier
  restarts : Word
  dcstatus : Word
  /-- Keys of its warps, by logical index; an ended warp is `none`. -/
  warps : List (Option Nat)
  /-- Threads of the warps that have ended, by logical index (R399). -/
  ended : Tab (List Thread)
  det : Option DetTeam
  /-- Holdings at the start of its restart region (R33): tiles, and block masks by warp. -/
  recTiles : List Nat
  recExt : List (Tab Nat)
  /-- Helper slots reserved by scheduler (R308). -/
  reserved : List (Nat × Nat)
  /-- Index among the core's sixteen teams (R371). -/
  tindex : Nat
  deriving DecidableEq, Repr

/-- What the members of a chained group read: the warp, its team and registers as they stood when it began to issue, and the
first number that an operation or write of its members takes (R64). -/
structure RegView where
  warp : Warp
  team : Option Team
  rf : Tab Word
  ids : Nat
  deriving DecidableEq, Repr

/-- The group being issued (R63): its warp, the bundle's threads or helpers, and the word now executing. -/
structure Issue where
  warp : Nat
  kind : IssKind
  lanes : List Nat
  /-- Packet index P. -/
  p : Nat
  slot : Nat
  /-- Byte offset of the group's first word or PFX. -/
  gpc : Nat
  pfx : Option Pfx
  lit : Word
  /-- Constant-window words read for the group: number and value. -/
  consts : Tab Word
  view : Option RegView
  /-- The group cannot issue now. -/
  stalled : Bool
  trap : Option TrapRec
  /-- Translation faults of the group, in lane order. -/
  faults : List PageFault
  /-- A word that ended the bundle's or warp's turn (R72, R145). -/
  turnOver : Bool
  /-- Events the stalled group waits for, and the launch of a context that it waits to make (R361). -/
  want : List Instr
  enlist : Option (Nat × WaitLaunch)
  deriving DecidableEq, Repr

structure Launch where
  ctx : Nat
  id : Word
  vals : TaskVals
  dcstatus : Word
  /-- First team not yet placed. -/
  next : Nat
  endedTeams : Nat
  triggered : Nat
  trigSent : Bool
  /-- The graph instance and node that made it. -/
  node : Option (Nat × Nat)
  /-- The queue it came from. -/
  queue : Option Nat
  /-- Commit token of a deterministic launch: team and round (R344). -/
  token : Option (Nat × Nat)
  deriving DecidableEq, Repr

/-- A graph instance (R364). -/
structure Graph where
  ctx : Nat
  wcb : Nat
  paths : Nat
  queue : Option Nat
  /-- Nodes whose visit is due. -/
  todo : List Nat
  deriving DecidableEq, Repr

/-- A replay record (R387). -/
structure Replay where
  addr : Nat
  arg : Nat
  gen : Word
  bseq : Word
  retry : Nat
  ctx : Nat
  action : Nat
  rsvd : Bool
  deriving DecidableEq, Repr

structure Ctx where
  /-- STATE of R390: 0 resident to 6 absent. -/
  state : Nat
  wcb : Nat
  ptroot : Nat
  ctbase : Nat
  ctsize : Nat
  plimit : Nat
  save : Nat
  fq : Nat
  err : Nat
  prio : Nat
  drain : Word
  ptgen : Word
  ptwaddr : DWord
  pasiden : Bool
  pasid : BitVec 20
  qwcb : List Nat
  /-- The count of each queue that doorbells have covered since the context was bound (R408). -/
  qtail : List (Option Nat)
  cccore : Nat
  nextbseq : Word
  nexttag : Word
  /-- The tag count has wrapped. -/
  tagsWrapped : Bool
  nextlaunch : Word
  /-- Record count of SRC 6 and 8 (R385). -/
  recs : Word
  /-- Faulting pages sent and not answered (R383). -/
  fpages : Nat
  /-- Fault records that wait for room in the ring. -/
  fqueue : List (List Byte)
  replays : List Replay
  /-- In the order in which they began to wait. -/
  waiting : List WaitLaunch
  /-- Round of the next visit (R348). -/
  visit : Nat
  /-- Round-robin pointer over the queues (R355). -/
  nextq : Nat
  /-- A pre-empt or stop is under way: what state it leads to, and whether the drain window is open. -/
  goal : Nat
  draining : Bool
  /-- A resume has applied the replay list and pushed the saved event records back (R396). -/
  pushed : Bool
  deriving DecidableEq, Repr

/-! ### Translation (R225, R315, R376 to R393) -/

structure TlbEnt where
  unit : XUnit
  ctx : Nat
  /-- Virtual base and log2 of the page size. -/
  base : Nat
  lg : Nat
  leaf : DWord
  deriving DecidableEq, Repr

/-- An upper-level entry a field's walkers keep (R379): level, table address and index name it. -/
structure WalkEnt where
  field : Nat
  ctx : Nat
  addr : Nat
  ent : DWord
  deriving DecidableEq, Repr

/-- Who waits for a batch (R381). -/
inductive Waiter where
  | warp (w : Nat)
  | helper (w chunk : Nat)
  /-- Part `unit` of the operation or command `op` of an engine. -/
  | engine (op unit : Nat)
  deriving DecidableEq, Repr

/-- A page of a batch: its virtual base, the faulting address, REASON and ACC of R385. -/
structure BatchPage where
  base : Nat
  lg : Nat
  addr : Nat
  reason : Nat
  acc : Nat
  deriving DecidableEq, Repr

/-- A fault batch (R383). -/
structure Batch where
  id : Nat
  ctx : Nat
  core : Nat
  bseq : Word
  pages : List BatchPage
  sent : Bool
  waiters : List Waiter
  src : Nat
  unit : Nat
  /-- The unit whose sequence numbers its records carry. -/
  seqKey : Nat
  wcb : Nat
  deriving DecidableEq, Repr

/-- A source that waits for a batch slot of its core, in the order in which it began to wait (R383). -/
structure SlotWait where
  ctx : Nat
  core : Nat
  pages : List BatchPage
  waiter : Waiter
  src : Nat
  unit : Nat
  seqKey : Nat
  wcb : Nat
  deriving DecidableEq, Repr

/-- A page migration under way (R392): the leaf it replaces, the attempts left, the stamp at which the attempt began to
watch a tier-0 page, and whether the device has written a HOST or PEER page since (R393). -/
structure Migr where
  id : Nat
  ctx : Nat
  va : Nat
  lg : Nat
  leafAddr : Nat
  oldLeaf : DWord
  newLeaf : DWord
  bseq : Word
  /-- Attempts left. -/
  tries : Nat
  /-- 0 before an attempt, 1 while its source is read, 2 while its copy is written. -/
  phase : Nat
  stamp : Nat
  touched : Bool
  /-- Where the 64 KiB blocks of a HOST page stand on the host side: of the old page, and of the new (R409). -/
  frames : List Nat
  newFrames : List Nat
  deriving DecidableEq, Repr

/-! ### The matrix slices (R172 to R188) -/

/-- A plane's load identity: format word, scratchpad offset and the MLDS that loaded it (R172). -/
structure PlaneId where
  word : Word
  off : Nat
  mlds : Nat
  deriving DecidableEq, Repr

/-- A plane buffer: the bytes it was loaded from, none held before a load. -/
structure Plane where
  id : Option PlaneId
  bytes : List Byte
  deriving DecidableEq, Repr

/-- A quarter-array: its planes as performed, and the identities its accepted operations lead to (R174). -/
structure QArray where
  act : Plane
  sh : Plane
  nextAct : Option PlaneId
  nextSh : Option PlaneId
  deriving DecidableEq, Repr

/-- One row of a matrix operation: its lane, its A bytes, scales, destination core tile and row. -/
structure MRow where
  lane : Nat
  bytes : List Byte
  scale : Word
  /-- Core scratchpad byte of a gathered row. -/
  off : Nat
  tile : Nat
  row : Nat
  q : Nat
  /-- A source of the row changed before the flag fell (R185, R186). -/
  undef : Bool
  deriving DecidableEq, Repr

inductive MKind where
  | mmq
  | mmg
  | mlds
  | mswap
  | mrd
  | mwr
  | mclr
  deriving DecidableEq, Repr

/-- One quarter operation: quarter-array `q`, lane row `r`, its core tile and rows. -/
structure QOp where
  r : Nat
  q : Nat
  tile : Nat
  rows : List MRow
  deriving DecidableEq, Repr

/-- A matrix operation accepted and not complete (R174): its quarter operations not yet performed. -/
structure Mop where
  id : Nat
  warp : Nat
  gs : Nat
  kind : MKind
  fw : Word
  quarters : List QOp
  /-- Those performed: a row of theirs whose source changes before the flag falls is undefined too (R185, R186). -/
  done : List QOp
  /-- Quarter-arrays whose order it keeps, and core tiles it touches. -/
  arrays : List Nat
  tiles : List Nat
  team : Nat
  core : Nat
  /-- Column group and first register of MRD and MWR. -/
  g : Nat
  d : Nat
  /-- Registers its rows are read from until its flag falls (R185); none when they are in the scratchpad. -/
  srcs : List Nat
  /-- Plane identities by quarter-array, with core scratchpad byte and size. -/
  loads : List (Nat × PlaneId × Nat × Nat)
  deriving DecidableEq, Repr

/-! ### Copy engines (R189 to R198) -/

/-- A tensor layout record's fields (R189). -/
structure Tlr where
  base : Nat
  rank : Nat
  elem : Nat
  ilv : Bool
  bmp : Bool
  dims : List Nat
  boxes : List Nat
  strides : List Nat
  sprow : Nat
  gen : Nat
  blkstride : Nat
  blkcount : Nat
  rowbytes : Nat
  blkrows : Nat
  pdt : Nat
  deriving DecidableEq, Repr

/-- A completion target (R194): kind, number, and what it names as fixed at issue. -/
structure Target where
  kind : Nat
  id : Nat
  /-- Counter-table entry of kind 01. -/
  entry : Nat
  deriving DecidableEq, Repr

/-- A copy command accepted by a core's copy engine. -/
structure Copy where
  id : Nat
  core : Nat
  ctx : Nat
  team : Nat
  teamIdx : Nat
  /-- The team WCB, for error records. -/
  wcb : Nat
  warp : Nat
  leader : Nat
  minor : Nat
  tlr : Tlr
  coords : List Int
  /-- Scratchpad base of its team when it was issued. -/
  spbase : Nat
  /-- Core scratchpad byte of the command's scratchpad operand, and of its bitmap word. -/
  sp : Nat
  bmp : Nat
  /-- Block index of each slot of the row, none for an inactive lane. -/
  idxs : List (Option Nat)
  /-- TXFER: its addresses and byte count. -/
  dst : Nat
  src : Nat
  count : Nat
  target : Target
  /-- Units of work not yet done. -/
  units : List Nat
  /-- Pieces that other devices have answered: `unit * 2^20 + piece`. -/
  got : Tab (List Byte)
  bytes : Nat
  /-- Failures: status, address and the driver's reason or the error record. -/
  fails : List (Nat × Nat × Word)
  /-- Slots whose page is pinned (R267). -/
  pinned : List Nat
  deriving DecidableEq, Repr

/-- A record-cache entry (R191). -/
structure TlrEnt where
  core : Nat
  ctx : Nat
  addr : Nat
  bytes : List Byte
  deriving DecidableEq, Repr

/-- An event record (R195). -/
structure EvRec where
  detail : Word
  team : Word
  status : Byte
  minor : Nat
  source : Nat
  id : Nat
  ctx : Nat
  seq : Word
  /-- Software record words, as pushed (R374). -/
  raw : List Word
  deriving DecidableEq, Repr

/-- An EVPOP that waits in its core's engine (R374): its operation, first register, and whether it names scalars. -/
structure EvWait where
  op : Nat
  d : Nat
  scalar : Bool
  deriving DecidableEq, Repr

/-- A forwarding entry (R368): where the old core's ranges of a moved team went, until the commands it had issued end. -/
structure Fwd where
  team : Nat
  /-- Its place in the order of all moves. -/
  seq : Nat
  /-- Old and new scratchpad base, bytes reserved, new core. -/
  spOld : Nat
  spNew : Nat
  size : Nat
  core : Nat
  /-- Old and new first thread slot (`scheduler * 1024 + slot`), threads. -/
  slots : List (Nat × Nat × Nat)
  tiles : List (Nat × Nat)
  cmds : List Nat
  deriving DecidableEq, Repr

/-- What the device keeps of a saved context (R395, R398): its teams, squashed copies, event records by core, near-memory
completion records and replays. -/
structure Save where
  teams : List (Team × List (Option Warp))
  /-- Discarded teams whose scratchpad the copies in flight may still name. -/
  draining : List Team
  copies : List Copy
  events : List (Nat × EvRec)
  nmc : List (List Byte)
  replays : List Replay
  deriving DecidableEq, Repr

/-! ### Prefix engines (R263 to R280) -/

inductive KvKind where
  | look
  | ins
  | rel
  | evict
  | append
  | seq
  deriving DecidableEq, Repr

/-- A KV instruction sent to a prefix engine and not performed (R274, R275). -/
structure KvOp where
  op : Nat
  kind : KvKind
  /-- The field whose engine performs it, its context, the issuing core, warp and leader, and the team's WCB. -/
  field : Nat
  ctx : Nat
  core : Nat
  warp : Nat
  leader : Nat
  wcb : Nat
  /-- Sequence or pool, second address, count or length, first result register, bytes captured at issue. -/
  addr : Nat
  arg : Nat
  n : Nat
  d : Nat
  data : List Byte
  /-- Its pool's descriptor. -/
  pool : Nat
  deriving DecidableEq, Repr

/-- A pool that KV instructions have named (R263): its fields as last read, the physical ranges of its descriptor, page
descriptor table and node slots, those of the sequence tables that instructions on it have named, and whether software wrote
to any of these while an instruction or gather on it was in flight (R272). -/
structure KvPool where
  ctx : Nat
  addr : Nat
  pagebase : Nat
  pdt : Nat
  npages : Nat
  pagebytes : Nat
  nodebase : Nat
  nnodes : Nat
  segs : List (Nat × Nat)
  tabs : List (Nat × Nat)
  raced : Bool
  deriving DecidableEq, Repr

/-! ### Near-memory commands (R314 to R334) -/

inductive NmKind where
  | gemv
  | csum
  | update
  | fill
  | copy
  deriving DecidableEq, Repr

/-- A near-memory command accepted and not complete. -/
structure NmCmd where
  id : Nat
  ctx : Nat
  core : Nat
  team : Nat
  teamIdx : Nat
  warp : Nat
  leader : Nat
  wcb : Nat
  tag : Word
  kind : NmKind
  /-- Element type of rows: 0 f32, 1 bf16, 2 e4m3. -/
  type : Nat
  kb : Nat
  tol : Nat
  target : Target
  base : Nat
  aux0 : Nat
  aux1 : Nat
  aux2 : Nat
  k0 : Word
  k1 : Word
  nrows : Nat
  /-- Rows not yet done; the rows from `nrows` stand for the checksum rows of the tiles. -/
  todo : List Nat
  /-- Next segment and running sum, by row. -/
  prog : Tab (Nat × Word)
  /-- Bytes read and not yet used, by `row * 64 + segment`. -/
  bytes : Tab (List Byte)
  /-- Results by row. -/
  ys : Tab Word
  /-- Rows that met an uncorrectable error or did not run. -/
  bad : List Nat
  mismatch : List Nat
  /-- Failures: status, row address, driver's reason. -/
  fails : List (Nat × Nat × Word)
  done : Nat
  started : Bool
  /-- The flag it counts on. -/
  flag : Option Nat
  /-- Elements of its vector that a part has read, 256 at a time, by `leat * 2^32 + group`, and whether they were lost (R329). -/
  vecs : Tab (List Byte × Bool)
  /-- Row-steps taken in the slice open at a bank (R217, R330). -/
  slices : Tab Nat
  /-- The Leats at which rows have parked, by row (R315). -/
  parts : Tab Nat
  deriving DecidableEq, Repr

/-- An entry of a context's log of its latest 1,024 commands (R334): its status once it is complete. -/
structure NmLog where
  ctx : Nat
  tag : Word
  cmd : Nat
  status : Option Nat
  done : Nat
  deriving DecidableEq, Repr

/-! ### Resources (R199 to R201) -/

/-- A blocked XACQ or AACQ, in order of arrival (R200). -/
structure ResReq where
  id : Nat
  warp : Nat
  lanes : List Nat
  /-- Blocks by XACQ, or tiles by AACQ. -/
  ext : Bool
  items : List Nat
  deriving DecidableEq, Repr

/-! ### Bank queues and the sweep machinery (R216, R233 to R259) -/

/-- What an entry of a bank queue does when it is served (R216). -/
inductive QAct where
  /-- A load: operation and lane; `off` and `len` in the row. -/
  | read (op lane : Nat)
  | write (data : List Byte)
  /-- An atomic performed at the bank: op code, width, operands. -/
  | rmw (op lane : Nat) (code : Nat) (w64 : Bool) (d e : Nat)
  /-- A SWURGE activation (R250). -/
  | urge (op lane : Nat)
  deriving DecidableEq, Repr

/-- An arrived entry of a bank queue, oldest first in `State.bankq`. -/
structure QEnt where
  id : Nat
  /-- It came over a host link (R389). -/
  host : Bool
  pa : Nat
  len : Nat
  /-- The context it names, if any, and the global address. -/
  ctx : Option Nat
  va : Nat
  act : QAct
  deriving DecidableEq, Repr

/-- Where a one-shot request stands (R245, R246). -/
inductive ShotSt where
  | sent
  | staged
  | queued
  deriving DecidableEq, Repr

/-- A one-shot request; `row` is the physical address divided by 1,024. -/
structure Shot where
  id : Nat
  op : Nat
  lane : Nat
  row : Nat
  st : ShotSt
  func : Nat
  lw16 : Bool
  k0 : Word
  k1 : Word
  ctx : Nat
  va : Nat
  deriving DecidableEq, Repr

/-- A sweep position (R238): pass number, next row index, and whether a pass has begun. -/
structure SweepPos where
  pass : Word
  next : Nat
  begun : Bool
  deriving DecidableEq, Repr

inductive RegionSt where
  | registering
  | registered
  /-- Withdrawn after a failure (R256). -/
  | withdrawn
  | leaving
  deriving DecidableEq, Repr

/-- A sweep region (R242, R243). -/
structure Region where
  handle : Nat
  ctx : Nat
  base : Nat
  rows : Nat
  func : Nat
  lw16 : Bool
  k0 : Word
  k1 : Word
  period : Nat
  st : RegionSt
  /-- Physical bases of its 64 KiB pages in order, once translated. -/
  pages : List Nat
  /-- Banks its registration has reached, and its deregistration. -/
  arrived : List Nat
  left : List Nat
  op : Nat
  deriving DecidableEq, Repr

/-- A SWEEP instruction in flight, beside its operation. -/
inductive SwOp where
  /-- SWREG past its checks: the region's handle, the handle register's lane and number, the issuing core and its team's
  WCB. -/
  | reg (op handle lane d core wcb : Nat)
  | dereg (op handle : Nat)
  /-- Requests not yet retired. -/
  | q (op left : Nat)
  | urge (op left : Nat)
  /-- Lanes with their rows, not yet snapshot. -/
  | stat (op d : Nat) (rows : List (Nat × Nat))
  /-- Granules not yet changed, by index from `va`; the issuing core and its team's WCB. -/
  | live (op : Nat) (alive : Bool) (granules : List Nat) (ctx va core wcb : Nat)
  deriving DecidableEq, Repr

/-! ### Storage -/

/-- Register files (R223): words by key `gs * 2^17 + slot * 64 + n` for v0 to v63 of a thread slot and
`gs * 2^17 + 2^16 + word` for the extended pool, `gs = 6 * core + scheduler`; an absent word reads as its epoch's
undefined value. Epochs by `gs * 2^11 + slot` and `gs * 2^11 + 2^10 + unit` for pool units of 512 words. -/
structure RegSt where
  rf : Tab Word
  epoch : Tab Nat
  /-- What the owner of a byte, keyed by four times its word's key and its place in it, still sees of it, where copy commands or
  stores have written it through the on-chip map: the values before their writes, oldest first, each with its command or the
  number of its store (R197, R224). -/
  shadow : Tab (List (Byte × Nat))
  deriving DecidableEq, Repr

/-- An uncorrectable code word (R253): whether it carries the poison syndrome, and the mask of its bytes that stores and
copies have written back and the home point still holds. -/
structure UeWord where
  syndrome : Bool
  written : Nat
  deriving DecidableEq, Repr

/-- Who awaits the response of a Skovlink request (R413, R414). -/
inductive SkWho where
  /-- Part `lane` of a load or atomic operation; `off` is where the data goes in it. -/
  | part (op lane off : Nat)
  /-- A store: the operation, its warp and lane. -/
  | store (op warp lane : Nat)
  /-- A unit of a copy command: read from a peer into a local range, or a bulk write. -/
  | copy (cmd unit : Nat)
  /-- A descriptor of a group held at issue, or a layout record, by its key. -/
  | desc (key : Nat)
  | none
  deriving DecidableEq, Repr

/-- A request sent and not answered. -/
structure SkReq where
  tag : Nat
  dst : Nat
  ctx : Nat
  va : Nat
  /-- The physical address it was sent to. -/
  pa : Nat
  who : SkWho
  /-- Its place among all requests and writes, in the order in which they were sent. -/
  stamp : Nat
  deriving DecidableEq, Repr

/-- A Skovlink message (R412) with its data. -/
structure Msg where
  paddr : Nat
  tag : Nat
  sseq : Nat
  dst : Nat
  src : Nat
  scope : BitVec 4
  order : BitVec 2
  atop : BitVec 4
  w64 : Bool
  size : Nat
  status : Byte
  op : Byte
  data : List Byte
  deriving DecidableEq, Repr

/-- The fields of a Skovlink flit (R411) whose CRC is right: its 240 bytes of payload may end in zeros not listed. -/
structure Flit where
  type : Byte
  ack : BitVec 12
  lseq : BitVec 12
  payload : List Byte
  deriving DecidableEq, Repr

/-- A Skovlink port (R411): its transmit sequence, replay buffer, unacknowledged replays and receive sequence. -/
structure Port where
  up : Bool
  txSeq : BitVec 12
  /-- Flits not acknowledged, oldest first, with the messages that end in each. -/
  replay : List (Flit × List Msg)
  /-- Payloads of data flits that wait for a place in the replay buffer, oldest first, with the messages that end in each. -/
  wait : List (List Byte × List Msg)
  fails : Nat
  rxSeq : BitVec 12
  /-- Bytes received of a message that goes on in the next flit. -/
  rx : List Byte
  /-- Flits queued to leave, oldest first, as the 256 bytes of each. -/
  out : List (List Byte)
  deriving DecidableEq, Repr

/-- Skovlink (R410 to R414). -/
structure SkovSt where
  skdev : Nat
  /-- Port mask by destination. -/
  routes : Tab Nat
  ports : List Port
  /-- Next SSEQ sent, by destination; next SSEQ performed, by source. -/
  seqOut : Tab Nat
  seqIn : Tab Nat
  nextTag : Nat
  reqs : List SkReq
  /-- Requests received and not performed; responses received and not taken. -/
  held : List Msg
  resps : List Msg
  deriving DecidableEq, Repr

/-- A host translation (R409): the link and PASID it was given to, the 64 KiB block it is of and the one it names on the host
side, and what it grants: bit 0 reads, bit 1 writes. -/
structure AtsEnt where
  link : Nat
  pasid : Option (BitVec 20)
  frame : Nat
  host : Nat
  perm : Nat
  deriving DecidableEq, Repr

/-- The host links (R404 to R409). -/
structure HostSt where
  up : List Bool
  /-- MSI-X table words by `function * 16 + word`; pending bits by function. -/
  msix : Tab Word
  pba : Tab Nat
  /-- Address translation caches; and what the host has answered of each block, until it withdraws it. -/
  ats : List AtsEnt
  xlats : List AtsEnt
  /-- Links and functions with ATS enabled (R404, R409). -/
  atsOn : List (Nat × Nat)
  /-- Outstanding page requests: link, PASID, frame; and those refused, not yet reported. -/
  pri : List (Nat × Option (BitVec 20) × Nat)
  refused : List (Nat × Option (BitVec 20) × Nat)
  /-- What the last read by an agent outside the device was answered (R202, R404, R406). -/
  answer : List Byte
  /-- Error reporting registers (R404) by `(link * 64 + function) * 16 + k`, `k` counting the words of the capability after its
  header: 0 to 2 status, mask and severity of uncorrectable errors, 3 and 4 status and mask of correctable ones, 5 control,
  6 to 9 header log (PRESUMED 93). One not listed holds its reset value. -/
  aer : Tab Word
  deriving DecidableEq, Repr

/-- The ordering machine's points (R203, R206). -/
structure MemSt where
  /-- Tier-0 bytes at the final points, canonical. -/
  mem : Memory
  /-- Host memory at the host point, canonical; a context's addresses lie at `ctx * 2^64`. -/
  host : Memory
  /-- Scratchpad bytes by `core * 2^21 + offset`; absent is zero, or undefined in an undefined KiB. -/
  spad : Tab Byte
  /-- Scratchpad bytes, by the same key, as stores found them whose warps have not issued an OPFENCE since: what matrix
  operations of other warps may still read (R188), and those warps. -/
  unfenced : Tab (Byte × List Nat)
  /-- Undefined KiB of scratchpads by `core * 2^11 + KiB`, with the epoch that left them so (R228). -/
  spEpoch : Tab Nat
  /-- Accumulator words by `core * 2^18 + word`; absent is zero. -/
  acc : Tab Word
  tbuf : List Wr
  /-- Dirty bytes by `core * 2^50 + pa`; those of an 8-byte block that carry one number move on together (R204). -/
  cDirty : Tab (Byte × Nat)
  /-- Clean bytes at core points, by `core * 2^50 + pa`, for another device `core * 2^50 + (device + 1) * 2^40 + pa`. -/
  cClean : Tab Clean
  unsettled : List HWr
  /-- Clean bytes at home points. -/
  hClean : Tab Byte
  /-- Stamps of the newest writes that reached the home points of the 8 bytes of a block. -/
  hStamp : Tab (List Nat)
  /-- Coherence floors by agent and 8-byte block: for each byte, the stamp of the newest write read or made at a home
  point. A write dirty at the thread's own core needs none: nothing older is readable there. -/
  floors : Tab (List Nat)
  /-- Code words of 32 bytes, by `pa / 32`, with an uncorrectable error (R253). -/
  ue : Tab UeWord
  /-- Code words with a correctable error not yet corrected. -/
  soft : List Nat
  deriving DecidableEq, Repr

/-- Banks, refresh and sweep functions (R216, R233 to R259). -/
structure SweepSt where
  bankq : List QEnt
  shots : List Shot
  /-- Sweep positions by `bank * 4 + class`. -/
  pos : Tab SweepPos
  /-- Classes of rows already moved, by `bank * 2^16 + row` (R239). -/
  rowCls : Tab Nat
  /-- Rows restored by a demand activation since their last refresh restore, and rows that had their refresh restore in the
  current pass of their class (R249). -/
  dmd : List Nat
  refd : List Nat
  /-- Granules not live. -/
  dead : List Nat
  regions : List Region
  ops : List SwOp
  /-- Stacks above their temperature threshold (R237). -/
  hot : List Nat
  bankHot : List Nat
  deriving DecidableEq, Repr

/-- Translation, faults and migration (R376 to R393). -/
structure TransSt where
  tlb : List TlbEnt
  wcache : List WalkEnt
  /-- Ranges of tier-0 frames with the context whose walk last mapped them, newest first (R379): base, bytes, context. -/
  owners : List (Nat × Nat × Nat)
  batches : List Batch
  slotWaits : List SlotWait
  /-- Pages the driver marked unresolvable for an engine's part, with its reason code (R388). -/
  failed : List (Waiter × Nat × Word)
  migrs : List Migr
  deriving DecidableEq, Repr

/-- A boot-step record (R417). -/
structure BootRec where
  seq : Word
  rate : Byte
  cores : Byte
  outcome : Byte
  step : Byte
  deriving DecidableEq, Repr

/-- The management controller (R415 to R424). -/
structure MgmtSt where
  /-- Boot-step records of the flash as R417 lays them out, oldest first. -/
  boot : List (BitVec 128)
  /-- The steps of this start still to run, the step and rate under way, the lowest fenced field (4: none), the fields
  whose step is done, and whether the device is off the host links. -/
  todo : List Nat
  running : Option (Nat × Nat)
  fence : Nat
  doneFields : List Nat
  offLinks : Bool
  /-- Error history of the flash, oldest first, at most 4,096 records (R422). -/
  history : List (List Byte)
  /-- The firmware images of the flash (R1), which nothing the spec describes reads or writes. -/
  images : List Byte
  fldlim : List Nat
  pkglim : Nat
  actcap : Nat
  /-- The latest telemetry record of each source (R423). -/
  telem : Tab (List Byte)
  tseq : Tab Word
  /-- CAP by stack; averaged current in tenths of an ampere and clock in MHz by field (R419, R420). -/
  cap : List Nat
  current : List Nat
  clock : List Nat
  /-- The place the scrubber of a channel has reached, `bank of the channel * 2^16 + row index`; channels escalated (R421). -/
  scrub : Tab Nat
  escalated : List Nat
  deriving DecidableEq, Repr

/-- A core: its clock, its promotions due, its engines' counters and its teams. -/
structure Core where
  /-- Cycles since the core left reset (R164). -/
  clock : Nat
  /-- Unpromoted releases: locations, from the first byte on (R206). -/
  unpromoted : List (Loc × Nat)
  /-- Event queue, oldest first (R195). -/
  evq : List EvRec
  /-- SSEQ counters of the copy engine and of software event records. -/
  copySeq : Nat
  swSeq : Nat
  /-- Key of the control-core warp (R369). -/
  cc : Option Nat
  /-- CCWCB, 0 when unbound, and the context that bound it. -/
  ccWcb : Nat
  ccCtx : Nat
  fwds : List Fwd
  deriving DecidableEq, Repr

/-- A scheduler (R15, R17, R19). -/
structure Sched where
  /-- Cycles it has taken. -/
  cycle : Nat
  /-- Last warp selected, by priority class. -/
  rr : Tab Nat
  /-- Bundles of the current selection still to issue: warp and bundle. -/
  sel : List (Nat × Nat)
  /-- Pinned fetch blocks: team and block (R160). -/
  pins : List (Nat × Nat)
  deriving DecidableEq, Repr

/-! ### The machine -/

/-- The whole device. -/
structure State where
  /-- Inputs and events due next, oldest first: the step takes its head. -/
  agenda : List Instr
  /-- Steps of the device that may be taken in any order. -/
  pending : List Instr
  /-- Choices supplied from outside; when empty, choices are `Config.choice`. -/
  oracle : List Nat
  freeCount : Nat
  nextId : Nat
  stampCtr : Nat
  stepNo : Nat
  /-- Sequence counters of units that write records (R385, R401, R195), by unit. -/
  seqs : Tab Word
  iss : Option Issue
  warps : Tab Warp
  teams : Tab Team
  launches : Tab Launch
  graphs : Tab Graph
  ctxs : Tab Ctx
  saves : Tab Save
  cores : Tab Core
  scheds : Tab Sched
  reg : RegSt
  m : MemSt
  sw : SweepSt
  tr : TransSt
  ops : List Op
  mops : List Mop
  qarrays : Tab QArray
  copies : List Copy
  tlrs : List TlrEnt
  /-- Descriptors read for a group that is held at issue (R256, R332), by `(warp * 128 + lane) * 2^64 + address`. -/
  descs : List (Nat × List Byte)
  resReqs : List ResReq
  evWaits : List EvWait
  /-- KV instructions at the engines, in order of issue; and the pools they have named. -/
  kvq : List KvOp
  kvPools : List KvPool
  nms : List NmCmd
  nmLog : List NmLog
  /-- NMFENCEs that wait, with the commands they wait for (R333). -/
  nmFences : List (Nat × List Nat)
  sk : SkovSt
  hl : HostSt
  mg : MgmtSt
  deriving DecidableEq, Repr

/-! ### After reset -/

/-- A context's control page after power-on (R390, R407, R398): absent, its counts at their first values. -/
def Ctx.reset : Ctx :=
  { state := 6, wcb := 0, ptroot := 0, ctbase := 0, ctsize := 0, plimit := 0, save := 0, fq := 0, err := 0, prio := 0
    drain := 0, ptgen := 0, ptwaddr := 0, pasiden := false, pasid := 0, qwcb := List.replicate 8 0, qtail := List.replicate 8 none, cccore := 0
    nextbseq := 1, nexttag := 1, tagsWrapped := false, nextlaunch := 1, recs := 1, fpages := 0, fqueue := [], replays := []
    waiting := [], visit := 0, nextq := 0, goal := 0, draining := false, pushed := false }

/-- A Skovlink port that has not come up (R410). -/
def Port.reset : Port := { up := false, txSeq := 0, replay := [], wait := [], fails := 0, rxSeq := 0xFFF, rx := [], out := [] }

/-- The management controller after power-on with an empty flash (R416 to R424). -/
def MgmtSt.reset : MgmtSt :=
  { boot := [], todo := [], running := none, fence := 4, doneFields := [], offLinks := false, history := [], images := []
    fldlim := List.replicate 4 7600, pkglim := 28000, actcap := 16384
    telem := [0, 1, 2, 3, 16, 17, 18, 19, 20, 21, 22, 23].map (·, List.replicate 32 0), tseq := [], cap := List.replicate 8 16384
    current := List.replicate 4 0, clock := List.replicate 4 2400, scrub := [], escalated := [] }

/-- The ordering machine after power-on: every store empty (DESIGN CHOICE 1). -/
def MemSt.reset : MemSt :=
  { mem := [], host := [], spad := [], unfenced := [], spEpoch := [], acc := [], tbuf := [], cDirty := [], cClean := [], unsettled := []
    hClean := [], hStamp := [], floors := [], ue := [], soft := [] }

/-- The machine right after power-on, its flash empty: no core is presented, every context is absent, and the bring-up
comes first (R416). -/
def State.reset : State :=
  { agenda := [.bringup], pending := [], oracle := [], freeCount := 0, nextId := 1, stampCtr := 0, stepNo := 0, seqs := []
    iss := none, warps := [], teams := [], launches := [], graphs := []
    ctxs := (List.range 64).map fun c => (c, Ctx.reset)
    saves := [], cores := [], scheds := [], reg := { rf := [], epoch := [], shadow := [] }, m := MemSt.reset
    sw := { bankq := [], shots := [], pos := [], rowCls := [], dmd := [], refd := [], dead := [], regions := [], ops := []
            hot := [], bankHot := [] }
    tr := { tlb := [], wcache := [], owners := [], batches := [], slotWaits := [], failed := [], migrs := [] }
    ops := [], mops := [], qarrays := [], copies := [], tlrs := [], descs := [], resReqs := [], evWaits := [], kvq := []
    kvPools := [], nms := [], nmLog := [], nmFences := []
    sk := { skdev := 0, routes := [], ports := List.replicate 8 Port.reset, seqOut := [], seqIn := [], nextTag := 0
            reqs := [], held := [], resps := [] }
    hl := { up := [false, false], msix := [], pba := [], ats := [], xlats := [], atsOn := [], pri := [], refused := [], answer := [], aer := [] }
    mg := MgmtSt.reset }

end Sys2Proof.Machine
end

