-- ==== Sys2Proof/Machine/Tab.lean ====
section
/-! DEFINITION. Sparse tables and byte memory: reading, writing and erasing entries, each keeping keys strictly rising;
little-endian bytes and words (R4). -/

namespace Sys2Proof.Machine

variable {α : Type}

/-- The value under key `k`. -/
def tget : Tab α → Nat → Option α
  | [], _ => none
  | (j, v) :: t, k => if j = k then some v else tget t k

/-- The table with `v` under key `k`. -/
def tset : Tab α → Nat → α → Tab α
  | [], k, v => [(k, v)]
  | (j, w) :: t, k, v =>
    if k < j then (k, v) :: (j, w) :: t
    else if k = j then (k, v) :: t
    else (j, w) :: tset t k v

/-- The table without key `k`. -/
def terase : Tab α → Nat → Tab α
  | [], _ => []
  | (j, w) :: t, k => if j = k then terase t k else (j, w) :: terase t k

/-- The table with `f` applied to the value under `k`, if there is one. -/
def tmod : Tab α → Nat → (α → α) → Tab α
  | [], _, _ => []
  | (j, w) :: t, k, f => if j = k then (j, f w) :: t else (j, w) :: tmod t k f

/-- The table without the keys from `lo` to `hi - 1`. -/
def tclear (t : Tab α) (lo hi : Nat) : Tab α := t.filter fun e => !(lo ≤ e.1 && e.1 < hi)

/-- Keys strictly rising. -/
def tsorted : Tab α → Bool
  | [] => true
  | [_] => true
  | (j, _) :: (k, w) :: t => j < k && tsorted ((k, w) :: t)

/-- A byte of memory: an unlisted address reads as zero (DESIGN CHOICE 1). -/
def mget (m : Memory) (a : Nat) : Byte := (tget m a).getD 0

/-- Memory with byte `b` at `a`: a zero is not listed. -/
def mset (m : Memory) (a : Nat) (b : Byte) : Memory := if b = 0 then terase m a else tset m a b

/-- The canonical form of a memory: addresses strictly rising, no listed zero. -/
def Memory.wf (m : Memory) : Bool := tsorted m && m.all fun e => e.2 != 0

/-- `n` bytes from `a`. -/
def mbytes (m : Memory) (a : Nat) : Nat → List Byte
  | 0 => []
  | n + 1 => mget m a :: mbytes m (a + 1) n

/-- Memory with `bs` stored from `a`. -/
def mstore (m : Memory) (a : Nat) : List Byte → Memory
  | [] => m
  | b :: bs => mstore (mset m a b) (a + 1) bs

/-- The number little-endian bytes spell. -/
def leNat : List Byte → Nat
  | [] => 0
  | b :: bs => b.toNat + 256 * leNat bs

/-- `n` little-endian bytes of a number. -/
def leBytes : Nat → Nat → List Byte
  | 0, _ => []
  | n + 1, v => BitVec.ofNat 8 v :: leBytes n (v / 256)

/-- Words from little-endian bytes, the last one padded with zero bytes. -/
def leWords : List Byte → List Word
  | a :: b :: c :: d :: t => BitVec.ofNat 32 (leNat [a, b, c, d]) :: leWords t
  | [] => []
  | l => [BitVec.ofNat 32 (leNat l)]

/-- The bytes of words. -/
def wordsBytes (ws : List Word) : List Byte := ws.flatMap fun w => leBytes 4 w.toNat

/-- Bits [hi:lo] of a number. -/
def bits (v hi lo : Nat) : Nat := v / 2 ^ lo % 2 ^ (hi + 1 - lo)

/-- A number with `x` placed at bit `lo`. -/
def at_ (x lo : Nat) : Nat := x * 2 ^ lo

/-- The value of a two's complement field of `n` bits. -/
def sext (n v : Nat) : Int := if v % 2 ^ n < 2 ^ (n - 1) then (v % 2 ^ n : Nat) else (v % 2 ^ n : Nat) - (2 : Int) ^ n

/-- `a + i` modulo 2^64 (R150). -/
def wrap64 (a : Int) : Nat := (a % (2 : Int) ^ 64).toNat

/-- A value aligned down to a multiple of `n`. -/
def alignDown (a n : Nat) : Nat := a / n * n

/-- Quotient rounded up. -/
def ceilDiv (a b : Nat) : Nat := if b = 0 then 0 else (a + b - 1) / b

/-- The elements without repeats, first occurrences kept. -/
def dedup : List Nat → List Nat
  | [] => []
  | x :: t => x :: (dedup t).filter (· != x)

/-- Rising order. -/
def insertNat (x : Nat) : List Nat → List Nat
  | [] => [x]
  | y :: t => if x ≤ y then x :: y :: t else y :: insertNat x t

def sortNat : List Nat → List Nat
  | [] => []
  | x :: t => insertNat x (sortNat t)

/-- The least element. -/
def minNat? : List Nat → Option Nat
  | [] => none
  | x :: t => some (match minNat? t with | some y => min x y | none => x)

end Sys2Proof.Machine
end

