-- ==== Sys2Proof/Machine/Base.lean ====
section
/-! DEFINITION. Plain accessors of the state: choices and free values, tables of warps, teams and contexts, and the
register files with their undefined values (R31, R223). -/

namespace Sys2Proof.Machine

/-- What a meaning answers. -/
abbrev Res := Host.Outcome State Fault Refusal

/-! ### Choices, identities, events -/

/-- A number below `n`, from the oracle, else from the device's own choice. -/
def State.choose (s : State) (n : Nat) : Nat × State :=
  if n ≤ 1 then (0, s)
  else match s.oracle with
    | k :: t => (k % n, { s with oracle := t })
    | [] => (Config.choice s.freeCount % n, { s with freeCount := s.freeCount + 1 })

/-- A value the spec leaves open. -/
def State.freeWord (s : State) : Word × State :=
  (Config.freeValue s.freeCount, { s with freeCount := s.freeCount + 1 })

def State.fresh (s : State) : Nat × State := (s.nextId, { s with nextId := s.nextId + 1 })

/-- `i` becomes a step the device may take. -/
def State.pend (s : State) (i : Instr) : State := { s with pending := s.pending ++ [i] }

/-- `i` is due next. -/
def State.soon (s : State) (i : Instr) : State := { s with agenda := s.agenda ++ [i] }

/-- A step that is under way at most once. -/
def State.pendOnce (s : State) (i : Instr) : State := if s.pending.contains i then s else s.pend i

/-- A step is no longer under way. -/
def State.unpend (s : State) (i : Instr) : State := { s with pending := s.pending.filter (· != i) }

def State.pendAll (s : State) (l : List Instr) : State := { s with pending := s.pending ++ l }

/-- The next sequence number of the unit `key`: it starts at 1 and skips 0 (R385; DEDUCED 62 for the units whose start
the spec does not give). -/
def State.nextSeq (s : State) (key : Nat) : Word × State :=
  let v := ((tget s.seqs key).getD 0) + 1
  let v := if v = 0 then 1 else v
  (v, { s with seqs := tset s.seqs key v })

/-! ### Tables -/

def State.warp (s : State) (w : Nat) : Option Warp := tget s.warps w

def State.modWarp (s : State) (w : Nat) (f : Warp → Warp) : State := { s with warps := tmod s.warps w f }

def State.modTeam (s : State) (t : Nat) (f : Team → Team) : State := { s with teams := tmod s.teams t f }

def State.modCtx (s : State) (c : Nat) (f : Ctx → Ctx) : State := { s with ctxs := tmod s.ctxs c f }

def State.modLaunch (s : State) (l : Nat) (f : Launch → Launch) : State := { s with launches := tmod s.launches l f }

def State.modCore (s : State) (k : Nat) (f : Core → Core) : State := { s with cores := tmod s.cores k f }

def State.modSched (s : State) (g : Nat) (f : Sched → Sched) : State := { s with scheds := tmod s.scheds g f }

def State.modIss (s : State) (f : Issue → Issue) : State := { s with iss := s.iss.map f }

def State.modOp (s : State) (id : Nat) (f : Op → Op) : State :=
  { s with ops := s.ops.map fun o => if o.id = id then f o else o }

def State.op (s : State) (id : Nat) : Option Op := s.ops.find? fun o => o.id == id

def State.dropOp (s : State) (id : Nat) : State := { s with ops := s.ops.filter fun o => o.id != id }

def Warp.modThread (w : Warp) (l : Nat) (f : Thread → Thread) : Warp := { w with threads := w.threads.modify l f }

def State.modThread (s : State) (w l : Nat) (f : Thread → Thread) : State := s.modWarp w fun x => x.modThread l f

def State.modThreads (s : State) (w : Nat) (ls : List Nat) (f : Thread → Thread) : State :=
  s.modWarp w fun x => ls.foldl (fun x l => x.modThread l f) x

def State.thread (s : State) (w l : Nat) : Option Thread := (s.warp w).bind fun x => x.threads[l]?

def State.team (s : State) (t : Nat) : Option Team := tget s.teams t

def State.teamOf (s : State) (w : Nat) : Option Team := (s.warp w).bind fun x => s.team x.team

def State.ctxOf (s : State) (w : Nat) : Nat := ((s.teamOf w).map (·.ctx)).getD 0

/-- Global scheduler number. -/
def Warp.gs (w : Warp) : Nat := w.core * 6 + w.sched

/-- A thread that is neither EXITED nor KILLED. -/
def Thread.live (t : Thread) : Bool := t.st != .exited && t.st != .killed

def Thread.runs (t : Thread) : Bool := t.st == .runnable

def Warp.lanes (w : Warp) : List Nat := List.range w.threads.length

/-- The lanes whose threads satisfy `p`, rising. -/
def Warp.lanesWhere (w : Warp) (p : Thread → Bool) : List Nat :=
  w.lanes.filter fun l => ((w.threads[l]?).map p).getD false

def Warp.liveLanes (w : Warp) : List Nat := w.lanesWhere Thread.live

/-- The warps of a team still in the machine, by logical index. -/
def State.teamWarps (s : State) (t : Team) : List Nat :=
  (t.warps.filterMap id).filter fun w => (s.warp w).isSome

/-- Every live thread of a team: warp and lane. -/
def State.teamLive (s : State) (t : Team) : List (Nat × Nat) :=
  (s.teamWarps t).flatMap fun w => (((s.warp w).map Warp.liveLanes).getD []).map fun l => (w, l)

/-! ### Register files -/

/-- Key in the register file of v[n] of a lane; none for an extended register that the warp does not hold (R223). -/
def Warp.vkey (w : Warp) (lane n : Nat) : Option Nat :=
  if n < 64 then some (w.gs * 131072 + (w.slot + lane) * 64 + n)
  else (tget w.ext ((n - 64) / 16)).map fun off =>
    w.gs * 131072 + 65536 + off * 16 * w.w + 16 * lane + (n - 64) % 16

/-- Key of the epoch that governs a word of the register files. -/
def epochKey (k : Nat) : Nat :=
  let o := k % 131072
  k / 131072 * 2048 + (if o < 65536 then o / 64 else 1024 + (o - 65536) / 512)

/-- A word of the register files: what was written since its allocation, else that allocation's undefined value. -/
def RegSt.cell (r : RegSt) (rf : Tab Word) (k : Nat) : Word :=
  match tget rf k with
  | some v => v
  | none => match tget r.epoch (epochKey k) with
    | some e => Config.undefWord e k
    | none => 0

/-- A word as its owner sees it: without what was written through the on-chip map and its thread has not acquired (R197, R224,
DEDUCED 77). -/
def RegSt.word (r : RegSt) (rf : Tab Word) (k : Nat) : Word :=
  if r.shadow.isEmpty then r.cell rf k
  else
    let v := r.cell rf k
    let byte (j : Nat) : Byte := match tget r.shadow (4 * k + j) with
      | some (e :: _) => e.1
      | _ => v.extractLsb' (8 * j) 8
    byte 3 ++ byte 2 ++ byte 1 ++ byte 0

/-- A word that its owner writes: it sees it at once. -/
def RegSt.put (r : RegSt) (k : Nat) (v : Word) : RegSt :=
  { r with rf := tset r.rf k v, shadow := tclear r.shadow (4 * k) (4 * k + 4) }

/-- A byte of a word written through the on-chip map, by the command or store `by_`: it lies in the register file, and its owner
goes on to see the one before it. -/
def RegSt.putByte (r : RegSt) (k j : Nat) (b : Byte) (by_ : Nat) : RegSt :=
  let w := r.cell r.rf k
  let old := (tget r.shadow (4 * k + j)).getD []
  { r with
    rf := tset r.rf k ((w &&& ~~~((0xFF : Word) <<< (8 * j))) ||| ((b.setWidth 32) <<< (8 * j)))
    shadow := if (old.getLast?.map (·.2)) = some by_ then r.shadow
      else tset r.shadow (4 * k + j) (old ++ [(w.extractLsb' (8 * j) 8, by_)]) }

/-- Does a word of the register files belong to a thread of the warp? -/
def Warp.ownsKey (w : Warp) (k : Nat) : Bool :=
  let o := k % 131072
  k / 131072 == w.gs && if o < 65536 then w.slot ≤ o / 64 && o / 64 < w.slot + w.w
    else w.ext.any fun e => e.2 * 16 * w.w ≤ o - 65536 && o - 65536 < (e.2 + 1) * 16 * w.w

/-- The threads of a warp have acquired: of the writes of their registers through the on-chip map they see those of stores and of
the commands that have completed, with what was written before them (R197, R224, DEDUCED 77). -/
def State.regsAcquired (s : State) (wk : Nat) : State :=
  match s.reg.shadow.isEmpty, s.warp wk with
  | false, some w =>
    let done (x : Byte × Nat) : Bool := !s.copies.any fun c => c.id == x.2
    let rest (l : List (Byte × Nat)) : List (Byte × Nat) := (l.reverse.takeWhile fun x => !done x).reverse
    { s with reg := { s.reg with shadow := s.reg.shadow.filterMap fun e =>
        let l := if w.ownsKey (e.1 / 4) then rest e.2 else e.2
        if l.isEmpty then none else some (e.1, l) } }
  | _, _ => s

/-- v[n] of a lane. -/
def State.getV (s : State) (w : Warp) (lane n : Nat) : Word :=
  match w.vkey lane n with
  | some k => s.reg.word s.reg.rf k
  | none => 0

/-- Rows of matrix operations not complete whose source changes (R185, R186). -/
def taint (ms : List Mop) (p : Mop → MRow → Bool) : List Mop :=
  ms.map fun m =>
    let mark (q : QOp) : QOp := { q with rows := q.rows.map fun (r : MRow) => if p m r then { r with undef := true } else r }
    { m with quarters := m.quarters.map mark, done := m.done.map mark }

/-- A write by a warp to a register that its matrix operations read until their flags fall makes their row undefined
(R185). -/
def taintRows (ms : List Mop) (wk lane n : Nat) : List Mop :=
  taint ms fun m r => m.warp == wk && m.srcs.contains n && r.lane == lane

/-- Write v[n] of a lane; a register that is not held takes nothing. -/
def State.setV (s : State) (wk lane n : Nat) (v : Word) : State :=
  match (s.warp wk).bind fun w => w.vkey lane n with
  | some k => { s with reg := s.reg.put k v, mops := taintRows s.mops wk lane n }
  | none => s

/-- The words from key `lo` to `hi - 1` become undefined under a fresh epoch (R31, R200). -/
def State.undefRegs (s : State) (lo hi : Nat) : State :=
  let (e, s) := s.fresh
  let ks := dedup ((List.range (hi - lo)).map fun i => epochKey (lo + i))
  { s with reg := {
      rf := tclear s.reg.rf lo hi, epoch := ks.foldl (fun t k => tset t k (e + 1)) s.reg.epoch
      shadow := tclear s.reg.shadow (4 * lo) (4 * hi) } }

/-- s[n] of a warp. -/
def Warp.sreg (w : Warp) (n : Nat) : Word :=
  match tget w.sregs n with
  | some v => v
  | none => if w.epoch = 0 then 0 else Config.undefWord w.epoch (2 ^ 32 + n)

def State.setS (s : State) (wk n : Nat) (v : Word) : State :=
  s.modWarp wk fun w => { w with sregs := tset w.sregs n v }

/-- The helper of index `i` in a warp's recruitment. -/
def Warp.helper (w : Warp) (i : Nat) : Option Helper :=
  w.recruit.bind fun r => r.helpers.find? fun h => h.idx == i

def Recruit.modHelper (r : Recruit) (i : Nat) (f : Helper → Helper) : Recruit :=
  { r with helpers := r.helpers.map fun h => if h.idx = i then f h else h }

def State.modHelper (s : State) (w i : Nat) (f : Helper → Helper) : State :=
  s.modWarp w fun x => { x with recruit := x.recruit.map fun r => r.modHelper i f }

/-- A private register v64 to v79 of a helper (R294). -/
def Helper.vreg (h : Helper) (n : Nat) : Word :=
  match tget h.vregs n with
  | some v => v
  | none => Config.undefWord h.epoch (2 ^ 33 + n)

/-- p[n] of seven stored predicates; p7 reads true (R8). -/
def predBit (ps : BitVec 7) (n : Nat) : Bool := n ≥ 7 || ps.getLsbD n

def setPredBit (ps : BitVec 7) (n : Nat) (b : Bool) : BitVec 7 :=
  if n ≥ 7 then ps
  else if b then ps ||| BitVec.ofNat 7 (2 ^ n) else ps &&& ~~~(BitVec.ofNat 7 (2 ^ n))

/-! ### The group being issued -/

/-- The warp the current group reads: as it stood before a chained group, else as it stands (R64). -/
def State.rdWarp (s : State) (i : Issue) : Option Warp :=
  match i.view with
  | some v => some v.warp
  | none => s.warp i.warp

/-- The team the current group reads: as it stood before a chained group, else as it stands (R64). -/
def State.rdTeam (s : State) (i : Issue) : Option Team :=
  match i.view with
  | some v => v.team
  | none => s.teamOf i.warp

/-- The register file the current group reads. -/
def State.rdRf (s : State) (i : Issue) : Tab Word :=
  match i.view with
  | some v => v.rf
  | none => s.reg.rf

/-- Was an operation or write of this number made before the group began to issue (R64)? -/
def Issue.before (i : Issue) (id : Nat) : Bool :=
  match i.view with
  | some v => id < v.ids
  | none => true

/-- v[n] as the actor in lane `l` reads it; a helper reads its recruiter's v0 to v63 (R295). -/
def State.rdV (s : State) (i : Issue) (l n : Nat) : Word :=
  match s.rdWarp i with
  | none => 0
  | some w =>
    let own (lane : Nat) : Word :=
      match w.vkey lane n with
      | some k => s.reg.word (s.rdRf i) k
      | none => 0
    match i.kind with
    | .thread => own l
    | .helper =>
      if n < 64 then own ((w.recruit.map (·.lane)).getD 0)
      else match w.helper l with
        | some h => h.vreg n
        | none => 0

/-- s[n] as the group reads it. -/
def State.rdS (s : State) (i : Issue) (n : Nat) : Word :=
  match s.rdWarp i with
  | some w => w.sreg n
  | none => 0

/-- c[n], read for the group at issue (R165). -/
def Issue.rdC (i : Issue) (n : Nat) : Word := (tget i.consts n).getD 0

/-- The stored predicates of an actor. -/
def State.rdPreds (s : State) (i : Issue) (l : Nat) : BitVec 7 :=
  match s.rdWarp i with
  | none => 0
  | some w => match i.kind with
    | .thread => ((w.threads[l]?).map (·.preds)).getD 0
    | .helper => ((w.helper l).map (·.preds)).getD 0

def State.rdP (s : State) (i : Issue) (l n : Nat) : Bool := predBit (s.rdPreds i l) n

/-- Write v[n] of an actor. -/
def State.wrV (s : State) (i : Issue) (l n : Nat) (v : Word) : State :=
  match i.kind with
  | .thread => s.setV i.warp l n v
  | .helper => if n < 64 then s else s.modHelper i.warp l fun h => { h with vregs := tset h.vregs n v }

/-- Write p[n] of an actor; a write of p7 is discarded (R8). -/
def State.wrP (s : State) (i : Issue) (l n : Nat) (b : Bool) : State :=
  match i.kind with
  | .thread => s.modThread i.warp l fun t => { t with preds := setPredBit t.preds n b }
  | .helper => s.modHelper i.warp l fun h => { h with preds := setPredBit h.preds n b }

/-- The lanes of the group whose PFX guard is true, rising (R14, R75). -/
def State.acting (s : State) (i : Issue) : List Nat :=
  match i.pfx with
  | none => i.lanes
  | some p =>
    if p.guard = 7 then i.lanes
    else i.lanes.filter fun l => s.rdP i l p.guard.toNat != (p.gneg == 1)

/-- The actors for which a word's own predicate is true (R138). -/
def State.actingP (s : State) (i : Issue) (neg : BitVec 1) (pred : BitVec 3) : List Nat :=
  i.lanes.filter fun l => s.rdP i l pred.toNat != (neg == 1)

/-! ### Leaves (R377) -/

def leafType (e : Nat) : Nat := bits e 15 13

def leafTier (e : Nat) : Nat := bits e 12 11

def leafFrame (e : Nat) : Nat := at_ (bits e 59 32) 16

end Sys2Proof.Machine
end

