-- ==== Sys2Proof/Machine/Order.lean ====
section
/-! DEFINITION. The ordering machine (R202 to R221): the points of a write's path, the steps POST, PUSH, SETTLE and DROP,
READ, and what a release and an acquire do. A release here takes the steps its condition asks for at once: each of them
is a step the machine may take at any time (R207), so the sequences that result are among those R207 allows. -/

namespace Sys2Proof.Machine

/-! ### Home points and final points -/

/-- The newest unsettled byte at the home point of `a`. -/
def unsettledByte (l : List HWr) (a : Nat) : Option Byte :=
  l.foldl (fun acc w => match tget w.bytes a with | some b => some b | none => acc) none

/-- The byte of `a` at its home point: unsettled, else clean, else the bank's. -/
def State.homeByte (s : State) (a : Nat) : Byte :=
  match unsettledByte s.m.unsettled a with
  | some b => b
  | none => match tget s.m.hClean a with
    | some b => b
    | none => mget s.m.mem a

def State.homeBytes (s : State) (a n : Nat) : List Byte := (List.range n).map fun i => s.homeByte (a + i)

/-- Does a home read of `a` come from the bank's cells? -/
def State.fromBank (s : State) (a : Nat) : Bool :=
  (unsettledByte s.m.unsettled a).isNone && (tget s.m.hClean a).isNone

/-- Stores and copies written back into uncorrectable code words: one written whole since its line was filled is sound again
(R253). -/
def State.noteWritten (s : State) (a n : Nat) : State :=
  if s.m.ue.isEmpty then s
  else
    let ue := (List.range n).foldl (fun t i =>
      let c := (a + i) / 32
      match tget t c with
      | none => t
      | some u =>
        let m := u.written ||| 2 ^ ((a + i) % 32)
        if m = 2 ^ 32 - 1 then terase t c else tset t c { u with written := m }) s.m.ue
    { s with m := { s.m with ue := ue } }

/-- A write at the bank made at once: an uncorrectable code word that it covers whole is sound again (R253), and one that it
covers in part stays poisoned. -/
def State.noteWhole (s : State) (a n : Nat) : State :=
  if s.m.ue.isEmpty then s
  else { s with m := { s.m with ue := s.m.ue.filter fun e => !(a ≤ e.1 * 32 && e.1 * 32 + 32 ≤ a + n) } }

/-- Bytes that a home point drops no longer count as written since their line was filled (R253). -/
def State.noteDropped (s : State) (a n : Nat) : State :=
  if s.m.ue.isEmpty then s
  else
    let left (c w : Nat) : Nat := (List.range 32).foldl (fun w i =>
      if a ≤ c * 32 + i ∧ c * 32 + i < a + n ∧ w.testBit i then w - 2 ^ i else w) w
    { s with m := { s.m with ue := s.m.ue.map fun e => (e.1, { e.2 with written := left e.1 e.2.written }) } }

/-- The stamp of the newest write that reached a byte's home point. -/
def State.byteStamp (s : State) (a : Nat) : Nat := ((tget s.m.hStamp (a / 8)).bind fun l => l[a % 8]?).getD 0

/-- A new place in the coherence order of the bytes of `blks` that satisfy `p`: clean copies of them that were the newest at
their home points no longer are. -/
def State.stampBytes (s : State) (blks : List Nat) (p : Nat → Bool) : State :=
  let st := s.stampCtr + 1
  let hs := blks.foldl (fun t b =>
    tset t b (((tget t b).getD (List.replicate 8 0)).mapIdx fun i x => if p (b * 8 + i) then st else x)) s.m.hStamp
  let cl := s.m.cClean.map fun (e : Nat × Clean) =>
    if e.2.gone.isNone && p (e.1 % 2 ^ 50) then (e.1, { e.2 with gone := some st }) else e
  { s with stampCtr := st, m := { s.m with hStamp := hs, cClean := cl } }

/-- SETTLE of one unsettled write (R207); H keeps it clean. -/
def State.settleWr (s : State) (w : HWr) : State :=
  let m := s.m
  let s := { s with m := { m with
    unsettled := m.unsettled.erase w
    mem := w.bytes.foldl (fun t e => mset t e.1 e.2) m.mem
    hClean := w.bytes.foldl (fun t e => tset t e.1 e.2) m.hClean } }
  w.bytes.foldl (fun s e => s.noteWritten e.1 1) s

def HWr.writes (w : HWr) (a : Nat) : Bool := w.bytes.any fun e => e.1 == a

def HWr.overlaps (a b : HWr) : Bool := a.bytes.any fun e => b.writes e.1

/-- The unsettled write that a SETTLE of `a` takes: its oldest write of `a`, or, where an older one shares a byte with that,
the first of those that must go before it (R204, R207). -/
def settleNext (l : List HWr) (a : Nat) : Option HWr :=
  (l.find? fun w => w.writes a).bind fun w =>
    ((l.takeWhile fun x => !x.writes a).foldr (fun x acc => if acc.any x.overlaps then x :: acc else acc) [w]).head?

/-- The oldest unsettled write of a block settles. -/
def State.settleBlock (s : State) (blk : Nat) : State :=
  match s.m.unsettled.find? fun w => w.bytes.any fun e => e.1 / 8 == blk with
  | none => s
  | some w => s.settleWr w

/-- Every unsettled write of a block settles. -/
def State.settleBlockAll (s : State) (blk : Nat) : State :=
  (s.m.unsettled.filter fun w => w.bytes.any fun e => e.1 / 8 == blk).foldl (fun s _ => s.settleBlock blk) s

/-- Every unsettled write settles. -/
def State.settleAll (s : State) : State :=
  s.m.unsettled.foldl (fun s w => match w.bytes with | e :: _ => s.settleBlock (e.1 / 8) | [] => s) s

/-- A write reaches the home point of its block as the newest unsettled one. -/
def State.homeWrite (s : State) (bytes : List (Nat × Byte)) : State :=
  match bytes with
  | [] => s
  | e :: _ =>
    let s := s.stampBytes [e.1 / 8] fun a => bytes.any fun x => x.1 == a
    { s with
      m := { s.m with unsettled := s.m.unsettled ++ [HWr.mk s.stampCtr bytes] }
      pending := s.pending ++ [.settle e.1] }

/-- The 8-byte blocks that `n` bytes from `a` touch. -/
def blocksOf (a n : Nat) : List Nat :=
  if n = 0 then [] else (List.range ((a + n - 1) / 8 - a / 8 + 1)).map fun i => a / 8 + i

/-- Bytes from `a`, cut at the borders of 8-byte blocks. -/
def piecesOf (a : Nat) (data : List Byte) : List (List (Nat × Byte)) :=
  (blocksOf a data.length).map fun b => (List.range 8).filterMap fun i =>
    if a ≤ b * 8 + i then (data[b * 8 + i - a]?).map fun x => (b * 8 + i, x) else none

/-- A write at the home points of its bytes, one for each 8-byte block. -/
def State.homeStore (s : State) (a : Nat) (data : List Byte) : State := (piecesOf a data).foldl State.homeWrite s

/-- A write of the device itself, of a Leat or of the Millstone at the final point: earlier writes of the blocks settle
first, and clean copies at the home point are dropped (R208). -/
def State.finalWrite (s : State) (a : Nat) (data : List Byte) : State :=
  let blks := blocksOf a data.length
  let s := (blks.foldl State.settleBlockAll s).stampBytes blks fun x => a ≤ x && x < a + data.length
  let s := { s with m := { s.m with
    mem := mstore s.m.mem a data
    hClean := tclear s.m.hClean a (a + data.length) } }
  (s.noteDropped a data.length).noteWhole a data.length

/-- A write of UC memory: single accesses of at most 16 bytes (R253). -/
def State.ucWrite (s : State) (a : Nat) (data : List Byte) : State :=
  (List.range ((data.length + 15) / 16)).foldl (fun s k => s.finalWrite (a + 16 * k) ((data.drop (16 * k)).take 16)) s

/-- Bytes written at a bank by its Millstone, a Leat or a served entry: clean copies at the home point are dropped (R208). -/
def State.bankStore (s : State) (a : Nat) (data : List Byte) : State :=
  { s with m := { s.m with mem := mstore s.m.mem a data, hClean := tclear s.m.hClean a (a + data.length) } }

/-- A little-endian number at a physical address, at its home point. -/
def State.physNat (s : State) (a n : Nat) : Nat := leNat (s.homeBytes a n)

def State.physWrite (s : State) (a n v : Nat) : State := s.finalWrite a (leBytes n v)

/-- Does any of `n` bytes from `a` lie in an uncorrectable code word? -/
def State.ueAt (s : State) (a n : Nat) : Bool :=
  !s.m.ue.isEmpty && (List.range n).any fun i => (tget s.m.ue ((a + i) / 32)).isSome

/-- Is a code word poisoned at its home point: uncorrectable in the bank, and not held whole by the home point, which merges
fewer bytes under the poison (R253)? -/
def State.wordBad (s : State) (c : Nat) : Bool :=
  (tget s.m.ue c).isSome && (List.range 32).any fun i => s.fromBank (32 * c + i)

/-- Does a read of these bytes at their home points meet an uncorrectable code word? -/
def State.homeBad (s : State) (need : List Nat) : Bool := !s.m.ue.isEmpty && need.any fun pa => s.wordBad (pa / 32)

/-- The same of `n` bytes from `a`. -/
def State.homeBadAt (s : State) (a n : Nat) : Bool := s.homeBad ((List.range n).map fun i => a + i)

/-! ### Core points -/

/-- Key of a byte at a core point: a tier-0 address, or what `peerKey` makes of another device's. -/
def ckey (core a : Nat) : Nat := core * 2 ^ 50 + a

/-- A byte of another device among those of which a core point keeps clean copies (R208). -/
def peerKey (dev pa : Nat) : Nat := (dev + 1) * 2 ^ 40 + pa

/-- The dirty bytes at a core that move on with the byte at `pa`. -/
def State.dirtyGroup (s : State) (core pa : Nat) : List (Nat × Byte) :=
  match tget s.m.cDirty (ckey core pa) with
  | none => []
  | some (_, g) => (List.range 8).filterMap fun i =>
    (tget s.m.cDirty (ckey core (pa / 8 * 8 + i))).bind fun x => if x.2 = g then some (pa / 8 * 8 + i, x.1) else none

/-- PUSH of the dirty copy of a byte, with the bytes written together with it: it moves to the home point and stays clean at
the core (R207); where it has been merged under poison, so that every later read reports the error, no copy is kept (R253). -/
def State.pushByte (s : State) (core pa : Nat) : State :=
  match s.dirtyGroup core pa with
  | [] => s
  | l =>
    let s := s.homeWrite l
    let kept := if s.homeBad (l.map (·.1)) then [] else l
    { s with m := { s.m with
      cDirty := l.foldl (fun t e => terase t (ckey core e.1)) s.m.cDirty
      cClean := kept.foldl (fun t e => tset t (ckey core e.1) { byte := e.2, stamp := s.stampCtr, gone := none }) s.m.cClean } }

/-- PUSH of every dirty byte of `n` from `pa`. -/
def State.pushBytes (s : State) (core pa n : Nat) : State :=
  (List.range n).foldl (fun s i => s.pushByte core (pa + i)) s

/-- PUSH of every dirty byte of a block. -/
def State.pushBlock (s : State) (core blk : Nat) : State := s.pushBytes core (blk * 8) 8

/-- The blocks dirty at a core. -/
def State.dirtyBlocks (s : State) (core : Nat) : List Nat :=
  dedup ((s.m.cDirty.filter fun e => e.1 / 2 ^ 50 == core).map fun e => e.1 % 2 ^ 50 / 8)

/-- Every dirty copy at a core is pushed. -/
def State.pushCore (s : State) (core : Nat) : State :=
  (s.dirtyBlocks core).foldl (fun s b => s.pushBlock core b) s

/-- Bytes of one block are written together at a core point; what is dirty of writes they touch moves on with them. -/
def State.corePut (s : State) (core : Nat) (l : List (Nat × Byte)) : State :=
  match l with
  | [] => s
  | e :: _ =>
    let (g, s) := s.fresh
    let old := l.filterMap fun x => (tget s.m.cDirty (ckey core x.1)).map (·.2)
    let kept := (List.range 8).foldl (fun t i => match tget t (ckey core (e.1 / 8 * 8 + i)) with
      | some (b, h) => if old.contains h then tset t (ckey core (e.1 / 8 * 8 + i)) (b, g) else t
      | none => t) s.m.cDirty
    { s with
      m := { s.m with
        cDirty := l.foldl (fun t x => tset t (ckey core x.1) (x.2, g)) kept
        cClean := l.foldl (fun t x => terase t (ckey core x.1)) s.m.cClean }
      pending := s.pending ++ [.push core e.1] }

/-- A write at a core point, one for each 8-byte block. -/
def State.coreWrite (s : State) (core pa : Nat) (data : List Byte) : State :=
  (piecesOf pa data).foldl (fun s l => s.corePut core l) s

/-- DROP of the clean copy of a block at a core (R207). -/
def State.dropCore (s : State) (core blk : Nat) : State :=
  { s with m := { s.m with cClean := tclear s.m.cClean (ckey core (blk * 8)) (ckey core (blk * 8 + 8)) } }

/-- DROP of the clean copy of a block at its home point (R207). -/
def State.dropHome (s : State) (blk : Nat) : State :=
  { s with m := { s.m with hClean := tclear s.m.hClean (blk * 8) (blk * 8 + 8) } }.noteDropped (blk * 8) 8

/-- Every clean copy at a core is dropped (R210). -/
def State.dropClean (s : State) (core : Nat) : State :=
  { s with m := { s.m with cClean := tclear s.m.cClean (core * 2 ^ 50) ((core + 1) * 2 ^ 50) } }

/-! ### Scratchpad, accumulator store and the on-chip map (R222 to R224, R371) -/

/-- A scratchpad byte; in a KiB left undefined (R228) an unwritten byte has an undefined value. -/
def State.spadByte (s : State) (core off : Nat) : Byte :=
  match tget s.m.spad (core * 2 ^ 21 + off) with
  | some b => b
  | none => match tget s.m.spEpoch (core * 2 ^ 11 + off / 1024) with
    | some e => (Config.undefWord e (2 ^ 34 + off)).setWidth 8
    | none => 0

def State.spadBytes (s : State) (core off n : Nat) : List Byte := (List.range n).map fun i => s.spadByte core (off + i)

def State.spadWrite (s : State) (core off : Nat) (data : List Byte) : State :=
  let k := core * 2 ^ 21 + off
  { s with m := { s.m with
    spad := ((List.range data.length).zip data).foldl (fun t e => tset t (k + e.1) e.2) s.m.spad
    unfenced := tclear s.m.unfenced k (k + data.length) } }

/-- A store of a warp reaches the scratchpad; its team's other warps need its OPFENCE to see it as a matrix operand (R188). A
team without accumulator tiles has no matrix products. -/
def State.spadStore (s : State) (wk core off : Nat) (data : List Byte) : State :=
  if ((s.teamOf wk).map fun t => t.vals.tiles).getD 0 = 0 then s.spadWrite core off data
  else
    let old (i : Nat) : Byte × List Nat :=
      (tget s.m.unfenced (core * 2 ^ 21 + off + i)).getD (s.spadByte core (off + i), [])
    let add (t : Tab (Byte × List Nat)) (i : Nat) : Tab (Byte × List Nat) :=
      tset t (core * 2 ^ 21 + off + i) ((old i).1, wk :: (old i).2.filter (· != wk))
    let s := s.spadWrite core off data
    { s with m := { s.m with unfenced := (List.range data.length).foldl add s.m.unfenced } }

/-- OPFENCE: a warp's stores are matrix operands of other warps too (R159, R188). -/
def State.unfence (s : State) (wk : Nat) : State :=
  { s with m := { s.m with unfenced := s.m.unfenced.filterMap fun e =>
    let ws := e.2.2.filter (· != wk)
    if ws.isEmpty then none else some (e.1, (e.2.1, ws)) } }

/-- Scratchpad bytes as a matrix operation of a warp reads them: where stores of other warps are not fenced, before or after
them, as the device chooses (R188, DESIGN CHOICE 87). -/
def State.matBytes (s : State) (wk core off n : Nat) : List Byte × State :=
  let held (i : Nat) : Option Byte := (tget s.m.unfenced (core * 2 ^ 21 + off + i)).bind fun e =>
    if !e.2.contains wk && e.2.any fun x => (s.warp x).isSome then some e.1 else none
  if (List.range n).any fun i => (held i).isSome then
    let (k, s) := s.choose 2
    ((List.range n).map fun i => if k = 0 then (held i).getD (s.spadByte core (off + i)) else s.spadByte core (off + i), s)
  else (s.spadBytes core off n, s)

/-- A range of whole KiB reads zero: a fresh allocation (R31, R228). -/
def State.spadZero (s : State) (core off n : Nat) : State :=
  { s with m := { s.m with
    spad := tclear s.m.spad (core * 2 ^ 21 + off) (core * 2 ^ 21 + off + n)
    spEpoch := tclear s.m.spEpoch (core * 2 ^ 11 + off / 1024) (core * 2 ^ 11 + (off + n + 1023) / 1024) } }

/-- A range of whole KiB becomes undefined: its team ended (R228). -/
def State.spadUndef (s : State) (core off n : Nat) : State :=
  let (e, s) := s.fresh
  { s with m := { s.m with
    spad := tclear s.m.spad (core * 2 ^ 21 + off) (core * 2 ^ 21 + off + n)
    spEpoch := (List.range ((n + 1023) / 1024)).foldl
      (fun t i => tset t (core * 2 ^ 11 + off / 1024 + i) (e + 1)) s.m.spEpoch } }

/-- Element word of the accumulator store: core tile `t`, row `i`, column `n`. -/
def accKey (core t i n : Nat) : Nat := core * 2 ^ 18 + t * 512 + i * 64 + n

def State.accWord (s : State) (k : Nat) : Word := (tget s.m.acc k).getD 0

def State.setAcc (s : State) (k : Nat) (v : Word) : State := { s with m := { s.m with acc := tset s.m.acc k v } }

def State.tileZero (s : State) (core t : Nat) : State :=
  { s with m := { s.m with acc := tclear s.m.acc (accKey core t 0 0) (accKey core (t + 1) 0 0) } }

/-- The core control register word at offset `o` (R371), four bytes. -/
def State.ccWord (s : State) (core o : Nat) : Word :=
  let teams := s.teams.filter fun e => e.2.core == core && e.2.launch != 0
  let v : Nat :=
    if o < 8 then
      let st := (if (tget s.cores core).isNone then 1 else 0) + at_ teams.length 4
      st / 2 ^ (8 * (o % 8)) % 2 ^ 32
    else if o < 16 then (((tget s.cores core).map (·.ccWcb)).getD 0) / 2 ^ (8 * (o - 8)) % 2 ^ 32
    else if 0x1000 ≤ o ∧ o < 0x1C00 then
      let e := (o - 0x1000) / 16
      let ws := (s.warps.filter fun x => x.2.core == core && x.2.sched == e / 32 && x.2.kind == .normal &&
        x.2.slot / 32 == e % 32)
      match ws with
      | [] => 0
      | (_, w) :: _ =>
        let off (b : Nat) : Nat := (tget w.ext b).getD 0
        let tix := ((s.team w.team).map (·.tindex)).getD 0
        let q := 1 + at_ (if w.w = 32 then 0 else if w.w = 64 then 1 else 2) 1 + at_ w.slot 3 + at_ tix 13 +
          at_ w.k 17 + at_ (off 0) 25 + at_ (off 1) 31 + at_ (off 2) 37 + at_ (off 3) 43
        q / 2 ^ (8 * ((o - 0x1000) % 16)) % 2 ^ 32
    else if 0x2000 ≤ o ∧ o < 0x4000 then
      let one (j : Nat) : Nat :=
        let t := (j / 256)
        match teams.find? fun e => e.2.tindex == t with
        | none => 0
        | some (_, tm) => match tget tm.tiles (j % 256) with
          | some c => 0x8000 + c
          | none => 0
      one ((o - 0x2000) / 2) + at_ (one ((o - 0x2000) / 2 + 1)) 16
    else if 0x4000 ≤ o ∧ o < 0x4100 then
      match teams.find? fun e => e.2.tindex == (o - 0x4000) / 16 with
      | none => 0
      | some (_, tm) => (tm.twcb + at_ tm.spbase 64) / 2 ^ (8 * ((o - 0x4000) % 16)) % 2 ^ 32
    else 0
  BitVec.ofNat 32 v

/-- What a core window holds at an offset (R222, R223). -/
inductive OnChip where
  | spad (off : Nat)
  | acc (word : Nat)
  | reg (key : Nat)
  | cc (off : Nat)
  | unassigned
  deriving DecidableEq, Repr

def onChipAt (core off : Nat) : OnChip :=
  if off < 0x20_0000 then .spad off
  else if off < 0x30_0000 then .acc (core * 2 ^ 18 + (off - 0x20_0000) / 4)
  else if 0x40_0000 ≤ off ∧ off < 0x70_0000 then
    let g := core * 6 + (off - 0x40_0000) / 0x8_0000
    let o := (off - 0x40_0000) % 0x8_0000
    if o < 0x6_0000 then .reg (g * 131072 + o / 4) else .unassigned
  else if 0x80_0000 ≤ off ∧ off < 0x81_0000 then .cc (off - 0x80_0000)
  else .unassigned

/-- A byte of a core window. The windows of a fenced core read, and keep what is written, as a presented core's do: R371
gives only its CCSTAT (DESIGN CHOICE 80). -/
def State.onchipByte (s : State) (core off : Nat) : Byte :=
  let byteOf (w : Word) : Byte := (w >>> (8 * (off % 4))).setWidth 8
  match onChipAt core off with
  | .spad o => s.spadByte core o
  | .acc k => byteOf (s.accWord k)
  | .reg k => byteOf (s.reg.cell s.reg.rf k)
  | .cc o => byteOf (s.ccWord core (alignDown o 4))
  | .unassigned => 0

/-- A byte written into a core window, by the copy command or the store `by_`; the control registers take none (R371). -/
def State.onchipSet (s : State) (core off : Nat) (b : Byte) (by_ : Nat) : State :=
  let put (w : Word) : Word :=
    let sh := 8 * (off % 4)
    (w &&& ~~~((0xFF : Word) <<< sh)) ||| ((b.setWidth 32) <<< sh)
  match onChipAt core off with
  | .spad o => s.spadWrite core o [b]
  | .acc k => s.setAcc k (put (s.accWord k))
  | .reg k => { s with reg := s.reg.putByte k (off % 4) b by_ }
  | .cc _ => s
  | .unassigned => s

def State.onchipWrite (s : State) (core off : Nat) (data : List Byte) (cmd : Option Nat := none) : State :=
  let (id, s) := match cmd with
    | some c => (c, s)
    | none => s.fresh
  ((List.range data.length).zip data).foldl (fun s e => s.onchipSet core (off + e.1) e.2 id) s

/-! ### Bank queues, host point, peers -/

/-- An entry arrives at its bank's queue (R216). -/
def State.enqueue (s : State) (pa len : Nat) (ctx : Option Nat) (va : Nat) (act : QAct) (host : Bool := false) : State :=
  let (i, s) := s.fresh
  { s with
    sw := { s.sw with bankq := s.sw.bankq ++ [QEnt.mk i host pa len ctx va act] }
    pending := s.pending ++ [.serve i] }

def hkey (ctx ha : Nat) : Nat := ctx * 2 ^ 64 + ha % 2 ^ 64

/-- Bytes of host memory as a context addresses it (R409). -/
def State.hostBytes (s : State) (ctx ha n : Nat) : List Byte := mbytes s.m.host (hkey ctx ha) n

/-- A byte of the on-chip map as a location: a scratchpad byte has one name, whichever aperture it is reached by (R204,
R222). -/
def onChipLoc (core off : Nat) : Loc :=
  match onChipAt core off with
  | .spad o => .spad core o
  | _ => .onchip core off

def Loc.add (l : Loc) (i : Nat) : Loc :=
  match l with
  | .spad k o => .spad k (o + i)
  | .onchip k o => .onchip k (o + i)
  | .mem t p => .mem t (p + i)
  | .host c h => .host c (h + i)
  | .peer d p => .peer d (p + i)

/-- Where a location lies in the page that a migration moves, if it does; a HOST page lies where its blocks were translated
to (R393, R409). -/
def Migr.offOf (m : Migr) (l : Loc) : Option Nat :=
  let leaf := m.oldLeaf.toNat
  let off (a : Nat) : Option Nat :=
    if leafFrame leaf ≤ a ∧ a < leafFrame leaf + 2 ^ m.lg then some (a - leafFrame leaf) else none
  match l with
  | .mem _ pa => if leafTier leaf = 0 then off pa else none
  | .host c ha =>
    if leafTier leaf = 1 ∧ c = m.ctx then
      (((List.range m.frames.length).zip m.frames).find? fun e => e.2 ≤ ha && ha < e.2 + 65536).map fun e =>
        65536 * e.1 + (ha - e.2)
    else none
  | .peer d pa => if leafTier leaf = 2 ∧ bits leaf 27 20 = d then off pa else none
  | _ => none

/-- Does a write of `n` bytes touch the page that a migration moves? -/
def Migr.touches (m : Migr) (l : Loc) (n : Nat) : Bool := (List.range n).any fun i => (m.offOf (l.add i)).isSome

/-- A write of the device's agents to a HOST or PEER page counts in the migrations that move the page (R393). -/
def State.noteMigr (s : State) (p : Migr → Bool) : State :=
  if s.tr.migrs.isEmpty then s
  else
    let ms := s.tr.migrs.map fun (m : Migr) => if p m then { m with touched := true } else m
    { s with tr := { s.tr with migrs := ms } }

def State.hostStore (s : State) (ctx ha : Nat) (data : List Byte) : State :=
  let s := s.noteMigr fun m => m.touches (.host ctx ha) data.length
  { s with m := { s.m with host := mstore s.m.host (hkey ctx ha) data } }

/-- The port a 256-byte line of a destination goes through: the line address spread over the ports of the mask that are
up (R410); none when the destination is unreachable. -/
def State.skPort (s : State) (dst pa : Nat) : Option Nat :=
  let mask := (tget s.sk.routes dst).getD 0
  let l := (List.range 8).filter fun p => mask.testBit p && ((s.sk.ports[p]?).map (·.up)).getD false
  l[(pa / 256) % (if l.length = 0 then 1 else l.length)]?

/-- The 16 bytes of a message's header (R412). -/
def Msg.header (m : Msg) : List Byte :=
  leBytes 16 (m.op.toNat + at_ m.status.toNat 8 + at_ (m.size % 2 ^ 18) 16 + (if m.w64 then 2 ^ 34 else 0) +
    at_ m.atop.toNat 35 + at_ m.order.toNat 39 + at_ m.scope.toNat 41 + at_ (m.src % 256) 45 + at_ (m.dst % 256) 53 +
    at_ (m.sseq % 2 ^ 16) 61 + at_ (m.tag % 2 ^ 12) 77 + at_ (m.paddr % 2 ^ 39) 89)

/-- A message as it travels: the header and its data, in units of 16 bytes; a read carries no data (DESIGN CHOICE 78). -/
def Msg.bytes (m : Msg) : List Byte := m.header ++ m.data ++ List.replicate ((16 - m.data.length % 16) % 16) 0

/-- The first 248 bytes of a flit, which its CRC covers (R411). -/
def Flit.body (f : Flit) : List Byte :=
  leBytes 4 (f.lseq.toNat + at_ f.ack.toNat 12 + at_ f.type.toNat 24) ++ (f.payload ++ List.replicate 240 0).take 240 ++
    List.replicate 4 0

/-- The 256 bytes of a flit (R411), the CRC last. -/
def Flit.bytes (f : Flit) : List Byte := f.body ++ leBytes 8 (Config.crc64 f.body).toNat

/-- A message in parts of at most 240 bytes, `n` of them at most. -/
def payloads : Nat → List Byte → List (List Byte)
  | 0, _ => []
  | n + 1, bs => if bs.length ≤ 240 then [bs] else bs.take 240 :: payloads n (bs.drop 240)

/-- A data flit leaves on a port and is kept for replay (R411); it waits while the replay buffer holds 512 flits. -/
def Port.sendData (p : Port) (payload : List Byte) (ms : List Msg) : Port :=
  if p.wait.isEmpty ∧ p.replay.length < 512 then
    let f : Flit := { type := 1, ack := p.rxSeq, lseq := p.txSeq, payload := payload }
    { p with txSeq := p.txSeq + 1, replay := p.replay ++ [(f, ms)], out := p.out ++ [f.bytes] }
  else { p with wait := p.wait ++ [(payload, ms)] }

/-- The flits that waited for a place in the replay buffer leave, as many as find one (R411). -/
def Port.refill (p : Port) : Port := p.wait.foldl (fun p e => p.sendData e.1 e.2) { p with wait := [] }

/-- A message leaves in data flits of its own (R411): one, or two when its data is more than the 224 bytes that one holds
(DESIGN CHOICE 78). -/
def Port.send (p : Port) (m : Msg) : Port :=
  let l := payloads 2 m.bytes
  ((List.range l.length).zip l).foldl (fun p e => p.sendData e.2 (if e.1 + 1 = l.length then [m] else [])) p

def State.skTransmit (s : State) (port : Nat) (m : Msg) : State :=
  { s with sk := { s.sk with ports := s.sk.ports.modify port fun p => p.send m } }

/-- A request whose destination is unreachable fails as one whose response carries STATUS 3 (R414). -/
def State.skUnreachable (s : State) (r : SkReq) : State :=
  let m : Msg := { paddr := 0, tag := r.tag, sseq := 0, dst := s.sk.skdev, src := r.dst, scope := 9, order := 0, atop := 0,
                   w64 := false, size := 0, status := 3, op := 3, data := [] }
  { s with sk := { s.sk with resps := s.sk.resps ++ [m] }, pending := s.pending ++ [.skovResponse r.dst] }

/-- A request to another device: it takes the stream's next SSEQ and a tag (R412, R413). False: unreachable. -/
def State.skSend (s : State) (m : Msg) (ctx va : Nat) (who : SkWho) : State × Bool :=
  let tag := s.sk.nextTag
  let r : SkReq := { tag := tag, dst := m.dst, ctx := ctx, va := va, pa := m.paddr, who := who, stamp := s.stampCtr + 1 }
  let s := { s with stampCtr := s.stampCtr + 1, sk := { s.sk with nextTag := (tag + 1) % 4096, reqs := s.sk.reqs ++ [r] } }
  match s.skPort m.dst m.paddr with
  | none => (s.skUnreachable r, false)
  | some p =>
    let q := (tget s.sk.seqOut m.dst).getD 0
    let m := { m with sseq := q % 65536, tag := tag, src := s.sk.skdev }
    let s := if m.op = 0 then s else
      s.noteMigr fun x => x.touches (.peer m.dst m.paddr) m.size
    let s := { s with sk := { s.sk with seqOut := tset s.sk.seqOut m.dst ((q + 1) % 65536) } }
    (s.skTransmit p m, true)

def blankMsg : Msg :=
  { paddr := 0, tag := 0, sseq := 0, dst := 0, src := 0, scope := 9, order := 0, atop := 0, w64 := false, size := 0,
    status := 0, op := 0, data := [] }

/-! ### Thread buffers -/

/-- The space a location lies in, and its place there. -/
def Loc.key : Loc → Nat × Nat
  | .spad k o => (8 * k, o)
  | .onchip k o => (8 * k + 1, o)
  | .mem _ p => (2, p)
  | .host c h => (8 * c + 3, h)
  | .peer d p => (8 * d + 4, p)

/-- Do `n` bytes at one location and `n'` at another touch? -/
def Loc.meets (l : Loc) (n : Nat) (l' : Loc) (n' : Nat) : Bool :=
  l.key.1 == l'.key.1 && l.key.2 < l'.key.2 + n' && l'.key.2 < l.key.2 + n

/-- The byte a buffered write holds of a location. -/
def Wr.byteAt (w : Wr) (loc : Loc) : Option Byte :=
  if w.loc.key.1 = loc.key.1 ∧ w.loc.key.2 ≤ loc.key.2 then w.data[loc.key.2 - w.loc.key.2]? else none

/-- Two buffered writes that touch a common location. -/
def Wr.overlaps (a b : Wr) : Bool := a.loc.meets a.data.length b.loc b.data.length

def Wr.sameThread (a b : Wr) : Bool := a.warp == b.warp && a.helper == b.helper && a.lane == b.lane

/-- Must an older write `a` be posted before `b`: writes of one thread, or of the lanes of one ST, to a common location
(R154, R207); or writes that left a chunk buffer together (R219)? -/
def Wr.leads (a b : Wr) : Bool :=
  (a.op == b.op && a.op != 0 && a.helper.isSome && a.helper == b.helper) ||
  ((a.sameThread b || (a.op == b.op && a.op != 0)) && a.overlaps b)

/-- The writes of a buffer that satisfy `p`, and those that must be posted before them. -/
def leadWrs (buf : List Wr) (p : Wr → Bool) : List Wr :=
  buf.foldr (fun w acc => if p w || acc.any w.leads then w :: acc else acc) []

/-! ### Agents and their floors -/

/-- A thread, or a helper of a warp, as the machine's agent. -/
structure Agent where
  warp : Nat
  lane : Nat
  helper : Option Nat
  core : Nat
  deriving DecidableEq, Repr

/-- Key of an agent's floors in a block. -/
def floorKey (a : Agent) (blk : Nat) : Nat :=
  (a.warp * 2 ^ 33 + (match a.helper with | none => a.lane | some h => 2 ^ 32 + h)) * 2 ^ 50 + blk

/-- The coherence floor of an agent at a byte (R206). -/
def State.floor (s : State) (a : Agent) (pa : Nat) : Nat :=
  ((tget s.m.floors (floorKey a (pa / 8))).bind fun l => l[pa % 8]?).getD 0

/-- An agent has read or made the write of a byte with this stamp. -/
def State.raiseFloor (s : State) (a : Agent) (pa st : Nat) : State :=
  let l := (tget s.m.floors (floorKey a (pa / 8))).getD (List.replicate 8 0)
  { s with m := { s.m with floors := tset s.m.floors (floorKey a (pa / 8)) (l.modify (pa % 8) (max st)) } }

def Wr.agent (w : Wr) : Agent := { warp := w.warp, lane := w.lane, helper := w.helper, core := w.core }

/-- An agent has made a write or RMW of `n` bytes of another device, or has read them there, by the request last sent: requests
are performed in the order in which they are sent (R206, R413). -/
def State.peerFloor (s : State) (a : Agent) (dev pa n : Nat) : State :=
  (List.range n).foldl (fun s i => s.raiseFloor a (peerKey dev pa + i) s.stampCtr) s

/-- POST of a buffered write: it moves to the next point on its path (R203, R207). -/
def State.postWr (s : State) (w : Wr) (ctx : Nat) : State :=
  let s := { s with m := { s.m with tbuf := s.m.tbuf.filter fun x => x.id != w.id } }
  match w.loc with
  | .spad k o => s.spadStore w.warp k o w.data
  | .onchip k o => s.onchipWrite k o w.data
  | .mem .normal pa => s.coreWrite w.core pa w.data
  | .mem .kvp pa => s.coreWrite w.core pa w.data
  | .mem .sw pa => s.enqueue pa w.data.length ctx w.va (.write w.data)
  | .mem .uc pa => s.ucWrite pa w.data
  | .host c ha => s.hostStore c ha w.data
  | .peer d pa =>
    (s.skSend { blankMsg with paddr := pa, dst := d, size := w.data.length, op := 1, data := w.data } ctx w.va
      (.store w.op w.warp w.lane)).1.peerFloor w.agent d pa w.data.length

/-- The buffered writes that satisfy `p` are posted, in order, with those that must be before them. -/
def State.postWhere (s : State) (p : Wr → Bool) : State :=
  (leadWrs s.m.tbuf p).foldl (fun s w => s.postWr w (s.ctxOf w.warp)) s

/-- Every buffered write of a thread is posted. -/
def State.postThread (s : State) (warp lane : Nat) (helper : Option Nat) : State :=
  s.postWhere fun w => w.warp == warp && w.lane == lane && w.helper == helper

/-- Every buffered write of a warp's threads is posted (R167, R221). -/
def State.postWarp (s : State) (warp : Nat) : State := s.postWhere fun w => w.warp == warp

/-- What a warp's helpers have committed is posted. -/
def State.postHelpers (s : State) (wk : Nat) : State := s.postWhere fun b => b.warp == wk && b.helper.isSome

/-- Writes of a thread to other devices whose responses are awaited. -/
def State.peerWrites (s : State) (warp lane : Nat) : Bool :=
  s.sk.reqs.any fun r => match r.who with
    | .store _ w l => w == warp && l == lane
    | _ => false

/-- The condition of a release at scope `sc` (R209) is brought about; the answer says whether it holds: only writes to
other devices can make it wait. -/
def State.release (s : State) (warp lane core sc : Nat) : State × Bool :=
  let s := if sc = 0 then s else s.postThread warp lane none
  let s := if 5 ≤ sc then s.pushCore core else s
  let s := if sc = 7 ∨ sc = 10 then s.settleAll else s
  (s, !(9 ≤ sc && s.peerWrites warp lane))

/-! ### READ (R208) -/

/-- The byte a thread's own buffers hold of a location, newest write first. -/
def State.ownByte (s : State) (a : Agent) (loc : Loc) : Option Byte :=
  let buf : Option Byte := match a.helper with
    | none => none
    | some h =>
      let ents := (((s.warp a.warp).bind fun w => w.helper h).map (·.buf)).getD []
      ents.findSome? fun e => (List.range 8).findSome? fun i =>
        if e.loc.add i = loc then (e.bytes[i]?).join else none
  match buf with
  | some b => some b
  | none => s.m.tbuf.foldl (fun acc w =>
      if w.warp == a.warp && w.lane == a.lane && w.helper == a.helper then
        (match w.byteAt loc with | some b => some b | none => acc)
      else acc) none

def State.cleanAt (s : State) (core pa : Nat) : Option Clean := tget s.m.cClean (ckey core pa)

/-- Are clean copies of `need` there, and did all stand at their home points together, so that no access mixes two writes
(R204, R214)? -/
def State.cleanTogether (s : State) (core : Nat) (need : List Nat) : Bool :=
  let cs := need.filterMap (s.cleanAt core)
  cs.length == need.length && cs.all fun c => cs.all fun d => match d.gone with
    | some e => decide (c.stamp < e)
    | none => true

/-- May an agent take the clean copies of `need` in one access, none being before its floor (R208)? -/
def State.cleanOk (s : State) (a : Agent) (need : List Nat) : Bool :=
  s.cleanTogether a.core need && need.all fun pa => match s.cleanAt a.core pa with
    | some c => decide (s.floor a pa ≤ c.stamp)
    | none => false

/-- What a core point takes from home points becomes its clean copies (R208). -/
def State.fillClean (s : State) (core : Nat) (need : List Nat) : State :=
  { s with m := { s.m with cClean := need.foldl (fun t pa =>
      tset t (ckey core pa) { byte := s.homeByte pa, stamp := s.byteStamp pa, gone := none }) s.m.cClean } }

/-- What READ of at most 8 bytes of another device's memory has at once: the thread's own writes, and its core's clean copies
where they may be taken and `pick`, or the device, chooses them; none for what a request brings (R208). -/
def State.readPeer (s : State) (a : Agent) (loc : Loc) (dev pa n : Nat) (pick : Option Bool) : List (Option Byte) × State :=
  let own (i : Nat) : Option Byte := s.ownByte a (loc.add i)
  let need := ((List.range n).filter fun i => (own i).isNone).map fun i => peerKey dev pa + i
  let canClean := !need.isEmpty && s.cleanOk a need
  let (c, s) := match pick with
    | some b => (if b then 0 else 1, s)
    | none => if canClean then s.choose 2 else (1, s)
  if canClean && c == 0 then
    let taken (i : Nat) : Option Clean := s.cleanAt a.core (peerKey dev pa + i)
    ((List.range n).map fun i => ((own i).orElse fun _ => (taken i).map (·.byte)),
     need.foldl (fun s k => s.raiseFloor a k (((s.cleanAt a.core k).map (·.stamp)).getD 0)) s)
  else ((List.range n).map own, s)

/-- Bytes of another device that a load's request has brought become the core's clean copies, unless a later one has (R208). -/
def State.fillPeer (s : State) (core dev pa st : Nat) (bs : List Byte) : State :=
  let k := peerKey dev pa
  let newer := (List.range bs.length).any fun i => match s.cleanAt core (k + i) with
    | some c => decide (st < c.stamp)
    | none => false
  if newer then s
  else
    let old := (blocksOf k bs.length).foldl (fun t b => tclear t (ckey core (b * 8)) (ckey core (b * 8 + 8))) s.m.cClean
    { s with m := { s.m with cClean := ((List.range bs.length).zip bs).foldl (fun t e =>
        tset t (ckey core (k + e.1)) { byte := e.2, stamp := st, gone := none }) old } }

/-- What READ of at most 8 bytes of NORMAL memory yields: the bytes, whether an uncorrectable code word was read, and
the state after it. `pick` fixes the choice between the clean copy (true) and the home point. -/
def State.readNormal (s : State) (a : Agent) (loc : Loc) (pa n : Nat) (pick : Option Bool) : List Byte × Bool × State :=
  let own (i : Nat) : Option Byte := s.ownByte a (loc.add i)
  let dirty (i : Nat) : Option Byte := (tget s.m.cDirty (ckey a.core (pa + i))).map (·.1)
  let need := ((List.range n).filter fun i => (own i).isNone && (dirty i).isNone).map fun i => pa + i
  let canClean := !need.isEmpty && s.cleanOk a need
  let (c, s) := match pick with
    | some b => (if b then 0 else 1, s)
    | none => if canClean then s.choose 2 else (1, s)
  let useClean := canClean && c == 0
  let bad := !useClean && s.homeBad need
  let s := if useClean || bad then s else s.fillClean a.core need
  let taken (pa : Nat) : Clean :=
    if bad then { byte := s.homeByte pa, stamp := 0, gone := none }
    else (s.cleanAt a.core pa).getD { byte := 0, stamp := 0, gone := none }
  let bytes := (List.range n).map fun i => match own i with
    | some b => b
    | none => match dirty i with
      | some b => b
      | none => (taken (pa + i)).byte
  (bytes, bad, need.foldl (fun s pa => s.raiseFloor a pa (taken pa).stamp) s)

end Sys2Proof.Machine
end

