-- ==== Sys2Proof/Machine/Ops.lean ====
section
/-! DEFINITION. Named operations shared by the meanings: records that leave the device (R384 to R386, R401, R402, R407),
the end of threads and helpers, taking a trap (R167, R169, R403, R306) and returning from one (R168). -/

namespace Sys2Proof.Machine

/-! ### Records -/

/-- MSI-X vector `v` of a function: its message is written to host memory, or held pending while masked (R407; the table
layout and mask of PCIe, PRESUMED 20). -/
def State.signal (s : State) (fn v : Nat) : State :=
  let w (i : Nat) : Nat := ((tget s.hl.msix (fn * 16 + v * 4 + i)).getD (if i = 3 then 1 else 0)).toNat
  if w 3 % 2 = 1 then
    { s with hl := { s.hl with pba := tset s.hl.pba fn (((tget s.hl.pba fn).getD 0) ||| 2 ^ v) } }
  else s.hostStore fn (w 0 + w 1 * 2 ^ 32) (leBytes 4 (w 2))

/-- Fields of a fault record (R385). -/
structure FaultRec where
  kind : Nat
  src : Nat
  idx : Nat := 0
  cnt : Nat := 1
  acc : Nat := 0
  unit : Nat := 0
  sseq : Nat := 0
  bseq : Nat := 0
  mask : Nat := 0
  reason : Nat := 0
  wcb : Nat := 0
  addr : Nat := 0

def FaultRec.bytes (r : FaultRec) (ctx : Nat) : List Byte :=
  leBytes 64 (r.kind % 256 + at_ ctx 8 + at_ r.src 16 + at_ r.idx 24 + at_ r.cnt 32 + at_ r.acc 40 +
    at_ (r.unit % 65536) 48 + at_ r.sseq 64 + at_ r.bseq 96 + at_ r.mask 128 + at_ r.reason 160 + at_ r.wcb 192 +
    at_ r.addr 256)

/-- Free places of a ring whose descriptor is at `d`: FRING, FLOG2, FTAIL and FHEAD as R384 lays them out, with
free-running counts as R408 gives for queues (DEDUCED 21). -/
def State.ringRoom (s : State) (d : Nat) : Nat :=
  let used := (s.physNat (d + 16) 4 + 2 ^ 32 - s.physNat (d + 20) 4) % 2 ^ 32
  2 ^ (s.physNat (d + 12) 1) - used

/-- Append one record to a ring and advance its tail. -/
def State.ringPut (s : State) (d : Nat) (rec : List Byte) : State :=
  let tail := s.physNat (d + 16) 4
  let s := s.finalWrite (s.physNat d 8 + rec.length * (tail % 2 ^ (s.physNat (d + 12) 1))) rec
  s.physWrite (d + 16) 4 ((tail + 1) % 2 ^ 32)

/-- Waiting fault records go into the ring while it has room (R383, R384); one that the host can see signals vector 0, and
vector 2 too where it tells of a change of STATE (R407). -/
def State.flushFaults (s : State) (c : Nat) : State :=
  match tget s.ctxs c with
  | none => s
  | some x =>
    x.fqueue.foldl (fun s rec =>
      if 0 < s.ringRoom x.fq then
        let s := ((s.ringPut x.fq rec).modCtx c fun y => { y with fqueue := y.fqueue.drop 1 }).signal c 0
        if rec.head? = some 5 then s.signal c 2 else s
      else s) s

/-- A fault record for a context's ring. -/
def State.faultRecord (s : State) (c : Nat) (r : FaultRec) : State :=
  (s.modCtx c fun y => { y with fqueue := y.fqueue ++ [r.bytes c] }).flushFaults c

/-- A fault record of no single unit: SRC 6 or 8, with the context's own record count (R385). -/
def State.ctxRecord (s : State) (c : Nat) (r : FaultRec) : State :=
  match tget s.ctxs c with
  | none => s
  | some x =>
    let n := if x.recs = 0 then 1 else x.recs
    (s.modCtx c fun y => { y with recs := if n = 0xFFFF_FFFF then 1 else n + 1 }).faultRecord c { r with sseq := n.toNat }

/-- A completed change of STATE (R390): a kind-0x05 record. -/
def State.setCtxState (s : State) (c st : Nat) : State :=
  (s.modCtx c fun y => { y with state := st }).ctxRecord c { kind := 5, src := 6, reason := st }

/-- Fields of an error record (R401). -/
structure ErrRec where
  kind : Nat
  src : Nat
  sseq : Nat
  paddr : Nat := 0
  vaddr : Nat := 0
  tag : Nat := 0
  count : Nat := 1
  detail : Nat := 0
  wcb : Nat := 0
  rows : List Nat := []

def ErrRec.bytes (r : ErrRec) (ctx : Nat) : List Byte :=
  leBytes 64 (r.kind % 256 + at_ ctx 8 + at_ r.src 24 + at_ r.sseq 32 + at_ r.wcb 192 + at_ r.detail 288 +
    at_ r.count 320 + at_ r.tag 352 + at_ r.vaddr 384 + at_ r.paddr 448) ++
  ((List.range 8).flatMap fun i => leBytes 8 ((r.rows[i]?).getD 0))

/-- Append to the error history (R422): a ring of 4,096 records. -/
def State.history (s : State) (rec : List Byte) : State :=
  { s with mg := { s.mg with history := (s.mg.history ++ [rec]).drop (s.mg.history.length + 1 - 4096) } }

/-- An error record goes to its context's error ring, which counts what it drops, or to the history (R401, R402). -/
def State.errorRecord (s : State) (ctx : Option Nat) (r : ErrRec) : State :=
  match ctx.bind fun c => (tget s.ctxs c).map fun x => (c, x) with
  | none => s.history (r.bytes 0)
  | some (c, x) =>
    if 0 < s.ringRoom x.err then (s.ringPut x.err (r.bytes c)).signal c 1
    else s.physWrite (x.err + 48) 4 ((s.physNat (x.err + 48) 4 + 1) % 2 ^ 32)

/-- The four words of an event record (R195). -/
def EvRec.words (r : EvRec) : List Word :=
  if r.raw.isEmpty then
    [r.seq, BitVec.ofNat 32 (r.ctx + at_ r.id 8 + at_ r.source 16 + at_ r.minor 20 + at_ r.status.toNat 24), r.team, r.detail]
  else r.raw

/-! ### Save areas (R398) -/

def blankSave : Save := { teams := [], draining := [], copies := [], events := [], nmc := [], replays := [] }

def State.modSave (s : State) (c : Nat) (f : Save → Save) : State :=
  { s with saves := tset s.saves c (f ((tget s.saves c).getD blankSave)) }

def State.saved (s : State) (c : Nat) : Save := (tget s.saves c).getD blankSave

/-- A count of a save area's header, once the header has been written. -/
def State.saveCount (s : State) (x : Ctx) (word n : Nat) : State :=
  if x.state = 2 ∨ x.state = 4 then s.physWrite (x.save + 4 * word) 4 n else s

/-- An event record joins a save area, which holds 12,288 of them. -/
def State.saveEvent (s : State) (c : Nat) (x : Ctx) (core : Nat) (r : EvRec) : State :=
  let n := (s.saved c).events.length
  if 12288 ≤ n then s
  else ((s.modSave c fun v => { v with events := v.events ++ [(core, r)] }).finalWrite (x.save + 0x7_0000 + 16 * n)
    (wordsBytes r.words)).saveCount x 5 (n + 1)

/-- The completion record of a near-memory command joins a save area, which holds 4,096 of them. -/
def State.saveNmc (s : State) (c : Nat) (x : Ctx) (rec : List Byte) : State :=
  let n := (s.saved c).nmc.length
  if 4096 ≤ n then s
  else ((s.modSave c fun v => { v with nmc := v.nmc ++ [rec] }).finalWrite (x.save + 0x5_0000 + 32 * n) rec).saveCount x 4
    (n + 1)

/-- UNIT of a warp source (R385); its slot index counts blocks of 32 thread slots (DEDUCED 22). The control core's unit is its
core. -/
def Warp.unit (w : Warp) : Nat := if w.kind = .control then w.core else at_ w.core 10 + at_ w.sched 7 + w.slot / 32

/-- SRC of a warp: 0, or 7 for the control core. -/
def Warp.src (w : Warp) : Nat := if w.kind = .control then 7 else 0

/-- Sequence key of a warp's unit. -/
def Warp.seqKey (w : Warp) : Nat := at_ w.src 20 + w.unit

/-! ### Code -/

/-- Is tier-0 address `pa` in a stack the device presents (R2, R375)? During a start, which stacks
answer before their field is up is not stated: all do until one fails (DESIGN CHOICE 81). -/
def State.present (s : State) (pa : Nat) : Bool := pa < 2 ^ 39 && pa / 2 ^ 37 < s.mg.fence

/-- The same of all of `n` bytes. -/
def State.presentAll (s : State) (pa n : Nat) : Bool := s.present (pa + (n - 1))

/-- Is an entry with V = 1 malformed at its level (R378)? `lg` is log2 of a leaf's page at this level, 0 at level 0. -/
def malformed (e level lg : Nat) : Bool :=
  let leaf := e.testBit 1
  if bits e 63 60 != 0 || bits e 7 2 != 0 || bits e 19 16 != 0 then true
  else if leaf then
    level == 0 || leafFrame e % 2 ^ lg != 0 ||
      (match leafType e with
        | 4 => leafTier e != 1
        | 5 => leafTier e != 2
        | t => 6 ≤ t || leafTier e != 0) ||
      (leafTier e != 1 && 2 ^ 39 ≤ leafFrame e)
  else
    level == 4 || bits e 31 28 != 0 || bits e 15 2 != 0

/-- Does a leaf lead to an absent frame or an unreachable peer (R378)? -/
def State.absentFrame (s : State) (e : Nat) : Bool :=
  match leafTier e with
  | 0 => !s.present (leafFrame e)
  | 2 => (s.skPort (bits e 27 20) (leafFrame e)).isNone
  | _ => false

/-- The levels of a walk: index bits and log2 of a leaf's page (R376). -/
def walkLevels : List (Nat × Nat × Nat × Nat) :=
  [(0, 56, 45, 0), (1, 44, 33, 33), (2, 32, 26, 26), (3, 25, 21, 21), (4, 20, 16, 16)]

/-- The leaf that maps a virtual address, and the physical address it gives, with no side effect. -/
def State.peekLeaf (s : State) (ctx va : Nat) : Option (Nat × Nat) :=
  match s.tr.tlb.find? fun e => e.ctx == ctx && e.base == va / 2 ^ e.lg * 2 ^ e.lg with
  | some e => some (e.leaf.toNat, at_ (bits e.leaf.toNat 59 32) 16 + va % 2 ^ e.lg)
  | none =>
    match tget s.ctxs ctx with
    | none => none
    | some c =>
      let rec go (lv : List (Nat × Nat × Nat × Nat)) (table : Nat) : Option (Nat × Nat) :=
        match lv with
        | [] => none
        | (level, hi, lo, lg) :: rest =>
          let e := s.physNat (table + 8 * bits va hi lo) 8
          if !s.present table || e % 2 = 0 || malformed e level lg then none
          else if e / 2 % 2 = 1 then
            if s.absentFrame e then none else some (e, leafFrame e + va % 2 ^ lg)
          else go rest (at_ (bits e 59 32) 16 + at_ (bits e 27 20) 8)
      go walkLevels c.ptroot

/-- Physical address of a virtual one, where a tier-0 leaf maps it. Used to look at code words. -/
def State.peekPa (s : State) (ctx va : Nat) : Option Nat :=
  match s.peekLeaf ctx va with
  | some (e, pa) => if bits e 12 11 = 0 then some pa else none
  | none => none

/-- PADDR of a record about a global address (R401, DEDUCED 29): the row in SW memory, the 128-byte line elsewhere; 0 where
no leaf maps it. -/
def State.reportPa (s : State) (ctx va : Nat) : Nat :=
  match s.peekLeaf ctx va with
  | some (e, pa) => if bits e 15 13 = 1 then alignDown pa 1024 else alignDown pa 128
  | none => 0

/-- The PASID a context's HOST accesses carry. -/
def State.pasidOf (s : State) (ctx : Nat) : Option (BitVec 20) :=
  match tget s.ctxs ctx with
  | some c => if c.pasiden then some c.pasid else none
  | none => none

/-- The host link of an address, or the other one when that is down; none when both are (R409). -/
def State.hostLink (s : State) (ha : Nat) : Option Nat :=
  let b := ha / 65536 % 2
  if s.hl.up.getD b false then some b else if s.hl.up.getD (1 - b) false then some (1 - b) else none

/-- Does a host translation grant an access? -/
def AtsEnt.grants (e : AtsEnt) (a : Access) : Bool :=
  match a with
  | .load => e.perm.testBit 0
  | .fetch => e.perm.testBit 0
  | .store => e.perm.testBit 1
  | .atomic => e.perm.testBit 0 && e.perm.testBit 1

/-- Is it the translation of a link's block under a PASID? -/
def AtsEnt.of (e : AtsEnt) (key : Nat × Option (BitVec 20) × Nat) : Bool := (e.link, e.pasid, e.frame) == key

/-- The address it gives. -/
def AtsEnt.addr (e : AtsEnt) (ha : Nat) : Nat := e.host * 65536 + ha % 65536

/-- A HOST address as a link's translations are keyed. -/
def State.atsKey (s : State) (link ctx ha : Nat) : Nat × Option (BitVec 20) × Nat := (link, s.pasidOf ctx, ha / 65536)

/-- The host's translation of an address for an access, where a link's cache holds one that grants it (R409). -/
def State.atsAddr (s : State) (link ctx ha : Nat) (a : Access) : Option Nat :=
  (s.hl.ats.find? fun x => x.of (s.atsKey link ctx ha) && x.grants a).map fun x => x.addr ha

/-- Where a context's HOST address lies for a read, when that can be told without a request (R409). -/
def State.hostPeek (s : State) (ctx ha : Nat) : Option Nat :=
  match s.hostLink ha with
  | none => none
  | some b => if s.hl.atsOn.contains (b, ctx) then s.atsAddr b ctx ha .load else some ha

/-- The code word at a global address (R60), where it can be told without a request. -/
def State.codePeek (s : State) (ctx va : Nat) : Option Word :=
  match s.peekLeaf ctx va with
  | none => none
  | some (e, pa) =>
    if bits e 12 11 = 0 then some (BitVec.ofNat 32 (leNat (s.homeBytes pa 4)))
    else if bits e 12 11 = 1 then (s.hostPeek ctx pa).map fun ha => BitVec.ofNat 32 (leNat (s.hostBytes ctx ha 4))
    else none

/-- The code word at a byte offset of a team's segment: as read for a group that warp `wk` holds, else as it can be told
without a request. -/
def State.codeWord (s : State) (wk : Nat) (t : Team) (off : Nat) : Option Word :=
  let va := t.vals.code + off
  match s.descs.find? fun e => e.1 / 2 ^ 64 / 128 == wk && e.1 % 2 ^ 64 == va with
  | some e => if e.2.isEmpty then none else some (BitVec.ofNat 32 (leNat (e.2.take 4)))
  | none => s.codePeek t.ctx va

def isHeader (w : Word) : Bool := (w >>> 25) &&& 0x3F == 0x3F

/-- Is packet `idx` a clause start inside the segment (R62, R68)? None where that cannot be told yet. -/
def State.clauseLook (s : State) (wk : Nat) (t : Team) (idx : Nat) : Option Bool :=
  if t.vals.codelen ≤ idx then some false else (s.codeWord wk t (12 * idx)).map isHeader

/-! ### Threads arriving, parking and ending -/

/-- Does MEET name the thread's PC and depth (R21)? -/
def Thread.parksAt (t : Thread) : Bool :=
  t.pc % 12 == 0 && t.meet.getLsbD 31 && bits t.meet.toNat 22 0 == t.pc / 12 && bits t.meet.toNat 30 23 == t.depth

/-- The test of R21 on a thread in no handler, once `start` tells whether its PC is a clause start: at its meeting point a
runnable thread parks, and a blocked one will when it runs again. -/
def Thread.arrived (t : Thread) (start : Option Bool) : Thread :=
  match t.st with
  | .runnable =>
    if t.handling || !t.parksAt || start == some false then { t with due := false }
    else if start == some true then { t with st := .parked, due := false }
    else { t with due := true }
  | .blocked _ => { t with due := !t.handling && t.parksAt && start != some false }
  | _ => t

/-- The test of R21 for threads that have reached a new PC. -/
def State.arrive (s : State) (wk : Nat) (lanes : List Nat) : State :=
  match s.teamOf wk with
  | some t => s.modThreads wk lanes fun th => th.arrived (s.clauseLook wk t (th.pc / 12))
  | none => s

/-- BLOCKED threads run again; those whose PC became their meeting point while they waited park there (R21). -/
def State.wake (s : State) (wk : Nat) (lanes : List Nat) : State :=
  let s := s.modThreads wk lanes fun t => { t with st := .runnable }
  s.arrive wk (lanes.filter fun l => ((s.thread wk l).map (·.due)).getD false)

/-- The group's actors go to byte offset `pc`; threads there may park. -/
def State.goto (s : State) (i : Issue) (lanes : List Nat) (pc : Nat) : State :=
  match i.kind with
  | .thread => (s.modThreads i.warp lanes fun t => { t with pc := pc }).arrive i.warp lanes
  | .helper => lanes.foldl (fun s l => s.modHelper i.warp l fun h => { h with pc := pc }) s

/-- Is a thread awaited at the meeting point (A, d) (R22)? -/
def Thread.awaitedAt (t : Thread) (a d : Nat) : Bool :=
  let names (m : Word) : Bool := m.getLsbD 31 && bits m.toNat 22 0 == a && bits m.toNat 30 23 == d
  t.live && !(t.st == .parked && t.pc == 12 * a && t.depth == d) && (names t.meet || names t.meetout)

/-- A thread marks its trigger point, once (R148); its launch counts it. -/
def State.triggerThread (s : State) (wk l : Nat) : State :=
  match s.warp wk, s.thread wk l, s.teamOf wk with
  | some w, some th, some t =>
    if th.triggered then s
    else
      let s := (s.release wk l w.core 6).1
      (s.modThread wk l fun x => { x with triggered := true }).modLaunch t.launch
        fun x => { x with triggered := x.triggered + 1 }
  | _, _, _ => s

/-! ### Barriers (R143) -/

def blankBar : Barrier := { count := 0, phase := 0, expect := none, arrived := [] }

def State.bar (s : State) (tk b : Nat) : Barrier := ((s.team tk).bind fun t => tget t.bars b).getD blankBar

def State.setBar (s : State) (tk b : Nat) (v : Barrier) : State :=
  s.modTeam tk fun t => { t with bars := tset t.bars b v }

/-- Threads blocked at barrier `b` of a team: warp, lane, and the arrival each makes next. -/
def State.barWaiters (s : State) (t : Team) (b : Nat) : List (Nat × Nat × Option (BitVec 12 × Bool × Nat)) :=
  (s.teamWarps t).flatMap fun wk => match s.warp wk with
    | none => []
    | some w => w.lanes.filterMap fun l => match (w.threads[l]?).map (·.st) with
      | some (TState.blocked (Block.bar b' again)) => if b' = b then some (wk, l, again) else none
      | _ => none

/-- One arrival at the current phase, or, for a thread that has arrived in it, the wait for the next. -/
def State.barArriveOne (s : State) (tk wk l b : Nat) (count : BitVec 12) (block : Bool) (gpc : Nat) : State :=
  match s.warp wk with
  | none => s
  | some w =>
    let tl := w.k * w.w + l
    let v := s.bar tk b
    if v.arrived.contains tl then
      s.modThread wk l fun t => { t with st := .blocked (.bar b (some (count, block, gpc))) }
    else
      let s := s.setBar tk b { v with count := v.count + 1, expect := some (v.expect.getD count), arrived := v.arrived ++ [tl] }
      if block then s.modThread wk l fun t => { t with st := .blocked (.bar b none) } else s

/-- Does the phase have the arrivals it expects? -/
def State.barDone (s : State) (tk b : Nat) : Bool :=
  match s.team tk with
  | none => false
  | some t =>
    let v := s.bar tk b
    match v.expect with
    | none => false
    | some c => (if c = 0 then (s.teamLive t).length else c.toNat) ≤ v.count

/-- Completion of a phase: the next begins with no arrivals, and the threads blocked in this one run. -/
def State.barPhase (s : State) (tk b : Nat) : State :=
  match s.team tk with
  | none => s
  | some t =>
    let ws := (s.barWaiters t b).filter fun e => e.2.2.isNone
    let s := s.setBar tk b { blankBar with phase := (s.bar tk b).phase + 1 }
    ws.foldl (fun s e => (s.wake e.1 [e.2.1]).regsAcquired e.1) s

/-- Threads that had arrived twice make their arrival in the next phase, one after the other in team-lane order; a phase
takes what it expects, and the rest go on to the one after it; the arrivals of the issue that completed the phase come before
them (R143, DESIGN CHOICE 53). One whose COUNT does not match issues its
word again, which raises the mismatch (R143). -/
def State.barCarry (s : State) (tk b : Nat) : List (Nat × Nat × Option (BitVec 12 × Bool × Nat)) → State
  | [] => s
  | (wk, l, some (c, blk, gpc)) :: r =>
    let s := if ((s.bar tk b).expect.getD c) = c then
        let s := s.barArriveOne tk wk l b c blk gpc
        let s := if blk then s else s.wake wk [l]
        if s.barDone tk b then s.barPhase tk b else s
      else s.modThread wk l fun t => { t with st := .runnable, pc := gpc, due := false }
    s.barCarry tk b r
  | _ :: r => s.barCarry tk b r

/-- The test of a barrier: a phase that has its arrivals completes, and arrivals carried over join the next. -/
def State.barTest (s : State) (tk b : Nat) : State :=
  match s.barDone tk b, s.team tk with
  | true, some t => (s.barPhase tk b).barCarry tk b (s.barWaiters t b)
  | _, _ => s

/-- The arrivals of one issue of BAR or BARA, in team-lane order: each phase that has its arrivals completes, and the rest of
the issue's arrive in the next, under its COUNT (R143). Those that older arrivals carry over come after them. -/
def State.barArrive (s : State) (tk wk : Nat) (ls : List Nat) (b : Nat) (count : BitVec 12) (block : Bool) (gpc : Nat) : State :=
  let s' := ls.foldl (fun s l =>
    let s := s.barArriveOne tk wk l b count block gpc
    if s.barDone tk b then s.barPhase tk b else s) s
  match s'.team tk with
  | some t => if (s'.bar tk b).phase = (s.bar tk b).phase then s' else s'.barCarry tk b (s'.barWaiters t b)
  | none => s'

/-- Every barrier of a team is tested: a thread has ended. -/
def State.barTestAll (s : State) (tk : Nat) : State :=
  match s.team tk with
  | none => s
  | some t => t.bars.foldl (fun s e => s.barTest tk e.1) s

/-- A helper has ended: its pending loads are discarded (R302). -/
def State.dropHelper (s : State) (wk idx : Nat) : State :=
  { s with ops := s.ops.filter fun o => !(o.warp == wk && o.helper == some idx) }

/-- No helper of a warp is left: their pending loads are discarded (R302), and its held chunks await no batch. -/
def State.dropHelpers (s : State) (wk : Nat) : State :=
  let keep (x : Waiter) : Bool := match x with
    | .helper w _ => w != wk
    | _ => true
  let bs := s.tr.batches.map fun (b : Batch) => { b with waiters := b.waiters.filter keep }
  { s with
    ops := s.ops.filter fun o => !(o.warp == wk && o.helper.isSome)
    tr := { s.tr with batches := bs, slotWaits := s.tr.slotWaits.filter fun x => keep x.waiter } }

/-- Unlisted helpers' lanes return and the recruitment closes (R307). -/
def State.voidRecruit (s : State) (wk : Nat) : State := (s.dropHelpers wk).modWarp wk fun w => { w with recruit := none }

/-- Threads become EXITED or KILLED; what they wait for forgets them, and their launch counts them as triggered (R16,
R142, R148, R307). -/
def State.endThreads (s : State) (wk : Nat) (lanes : List Nat) (st : TState) : State :=
  let s := lanes.foldl (fun s l => s.triggerThread wk l) s
  let s := s.modThreads wk lanes fun t => { t with st := st }
  let reqs := s.resReqs.filterMap fun r =>
    if r.warp = wk then
      let ls := r.lanes.filter fun l => !lanes.contains l
      if ls.isEmpty then none else some { r with lanes := ls }
    else some r
  let s := { s with resReqs := reqs }
  let s := match (s.warp wk).bind (·.recruit) with
    | some r => if lanes.contains r.lane then s.voidRecruit wk else s
    | none => s
  let s := match s.warp wk with
    | some w => s.barTestAll w.team
    | none => s
  s.pend (.warpEnd wk)

/-! ### Stopping a context, taking a trap -/

/-- A context fault stops the context (R397): its warps issue nothing more, and the drain begins. -/
def State.stopContext (s : State) (c : Nat) (r : FaultRec) : State :=
  match tget s.ctxs c with
  | none => s
  | some x =>
    if x.goal = 4 ∨ x.state = 4 then s
    else
      let s := if r.src = 6 then s.ctxRecord c r else s.faultRecord c r
      (s.modCtx c fun y => { y with goal := 4, draining := true }).pend (.drainExpire c)

/-- The next SSEQ of a warp's unit. -/
def State.warpSeq (s : State) (wk : Nat) : Nat × State :=
  match s.warp wk with
  | none => (0, s)
  | some w => let (v, s) := s.nextSeq w.seqKey; (v.toNat, s)

/-- A context fault of a warp's trap: REASON 1 double trap, 3 no handler or FPOL 2 (R169, R386). -/
def State.warpStops (s : State) (wk reason pc : Nat) : State :=
  match s.warp wk, s.teamOf wk with
  | some w, some t =>
    let (q, s) := s.warpSeq wk
    s.stopContext t.ctx { kind := 3, src := w.src, unit := w.unit, sseq := q, reason := reason, wcb := t.twcb, addr := pc }
  | _, _ => s

/-- FPOL 1: the marked lanes are killed, with a kind-0x04 record for each lane row that has some (R403, R385). -/
def State.killLanes (s : State) (wk : Nat) (r : TrapRec) : State :=
  match s.warp wk, s.teamOf wk with
  | some w, some t =>
    let s := (List.range 4).foldl (fun s row =>
      let m := (r.mask.filter fun l => l / 32 == row).foldl (fun m l => m + 2 ^ (l % 32)) 0
      if m = 0 then s else
        let (q, s) := s.warpSeq wk
        s.faultRecord t.ctx {
          kind := 4, src := w.src, unit := w.unit, sseq := q, mask := m, reason := r.cause, wcb := t.twcb, addr := r.pc }) s
    s.endThreads wk r.mask .killed
  | _, _ => s

/-- The trap registers take a trap (R167, R170). -/
def State.fillTrap (s : State) (wk : Nat) (bundle : List Nat) (r : TrapRec) : State :=
  (s.modWarp wk fun w => { w with
    trapcause := BitVec.ofNat 32 r.cause
    trappc := BitVec.ofNat 32 r.pc
    trapaddr := BitVec.ofNat 64 r.addr
    trapinfo := r.info
    uerec := r.uerec.getD w.uerec
    trap := .entering bundle
    threads := w.threads.mapIdx fun l t => { t with marked := r.mask.contains l } })

/-- TAKING A TRAP: the one operation by which a warp takes a trap in the threads `bundle` (R167, R169, R403). While a
handler runs the context stops; otherwise the team's fault policy chooses the handler, the lanes' end or the stop. The
handler begins by HANDLER_START once the warp's older accesses have been performed; an entry packet that can be told at
once to be no clause start is not sought (R167), and one that a fetch must bring is judged when it has come. Where lanes end,
the rest of their bundle goes on at the trap's PC: at the group again, and after a TRAP at the next packet (R65, R138). -/
def State.takeTrap (s : State) (wk : Nat) (bundle : List Nat) (r : TrapRec) : State :=
  match s.warp wk, s.teamOf wk with
  | some w, some t =>
    if w.trap = .handling then s.warpStops wk 1 r.pc
    else if t.vals.fpol = 1 then
      let s := s.killLanes wk r
      if r.cause = 0x0B then
        let rest := bundle.filter fun l => !r.mask.contains l
        (s.modThreads wk rest fun x => { x with pc := r.pc, wait := 0 }).arrive wk rest
      else s
    else if t.vals.fpol = 2 ∨ s.clauseLook wk t t.vals.hpc = some false then s.warpStops wk 3 r.pc
    else (s.fillTrap wk bundle r).pend (.handlerStart wk)
  | _, _ => s

/-- A trap in helper `idx` aborts its warp's recruitment; HJOIN delivers it, at once when the recruiter waits there
(R306). One that has aborted already takes no second report. -/
def State.helperTrapAt (s : State) (wk idx : Nat) (r : TrapRec) : State :=
  match s.warp wk with
  | none => s
  | some w => match w.recruit with
    | none => s
    | some rc =>
      if rc.trap.isSome then s
      else
      let h := rc.helpers.find? fun h => h.idx == idx
      let chunk : Word := match h.map (·.st) with
        | some (HState.chunk c) => BitVec.ofNat 32 c
        | _ => 0xFFFF_FFFF
      let rep : HelperTrap := {
        cause := r.cause, info := r.info.toNat, addr := r.addr, idx := idx, chunk := chunk
        pc := (h.map (·.pc)).getD 0, lane := w.sched * 1024 + (h.map (·.slot)).getD 0 }
      let s := (s.dropHelpers wk).modWarp wk fun w => { w with recruit := some { rc with helpers := [], heldFor := [], trap := some rep } }
      match w.threads[rc.lane]? with
      | some th => match th.st with
        | .blocked (.join _ _) => s.pend (.hjoinComplete wk)
        | _ => s
      | none => s

/-- A trap of a helper bundle is reported for the lowest helper that it marks (R306). -/
def State.helperTrap (s : State) (i : Issue) (r : TrapRec) : State :=
  s.helperTrapAt i.warp ((minNat? (if r.mask.isEmpty then i.lanes else r.mask)).getD 0) r

/-- The group now issuing traps: none of it has effect. -/
def State.raiseRec (s : State) (r : TrapRec) : State :=
  match s.iss with
  | none => s
  | some i =>
    let s := s.modIss fun i => { i with trap := some r }
    match i.kind with
    | .thread => s.takeTrap i.warp i.lanes r
    | .helper => s.helperTrap i r

/-- A precise trap at the group's first word (R167). -/
def State.raise (s : State) (cause : Nat) (mask : List Nat) (addr info : Nat) : State :=
  match s.iss with
  | none => s
  | some i => s.raiseRec { cause := cause, pc := i.gpc, mask := mask, addr := addr, info := BitVec.ofNat 32 info, uerec := none }

/-- illegal-instruction with a sub-cause at the word now issuing, marking `mask` (R85, R171). -/
def State.illegal (s : State) (sub : Nat) (mask : List Nat) : State :=
  match s.iss with
  | none => s
  | some i => s.raise 1 mask 0 (sub + 256 * i.slot)

/-- The group cannot issue now. -/
def State.stall (s : State) : State := s.modIss fun i => { i with stalled := true }

/-- The group cannot issue before an event has taken place. -/
def State.stallFor (s : State) (e : Instr) : State := s.modIss fun i => { i with stalled := true, want := i.want ++ [e] }

/-- The group waits to make a launch of context `c` (R361). -/
def State.stallLaunch (s : State) (c : Nat) (w : WaitLaunch) : State :=
  s.modIss fun i => { i with stalled := true, enlist := some (c, w) }

/-- A launch of a context joins those that wait, unless it does already. -/
def State.enlist (s : State) (c : Nat) (w : WaitLaunch) : State :=
  s.modCtx c fun x => if x.waiting.any fun y => y.by_ == w.by_ && y.by_ != .held then x else { x with waiting := x.waiting ++ [w] }

/-- RETURN FROM A TRAP: every handler thread that has not exited has issued TRAPRET (R168). Destinations an uncorrectable
error left without replacement become zero (R166); the handler threads resume at sr.trappc, `pc` as the group that completes
the return reads it (R64). -/
def State.trapReturn (s : State) (wk pc : Nat) : State :=
  match s.warp wk with
  | none => s
  | some w =>
    let zero := w.uedests.flatMap fun (l, d, n) =>
      (List.range n).filterMap fun k => if w.uerpl.contains (l, k) then none else some (l, d + k)
    let s := zero.foldl (fun s e => s.setV wk e.1 e.2 0) s
    let hs := w.lanesWhere fun t => t.handling && t.live
    s.modWarp wk fun w =>
      let w := hs.foldl (fun w l => w.modThread l fun t =>
        { t with st := .runnable, pc := pc, seta := t.ssa, setb := t.ssb }) w
      { w with trap := .idle, uerpl := [], uedests := [], threads := w.threads.map fun t => { t with handling := false } }

end Sys2Proof.Machine
end

