-- ==== Sys2Proof/Machine/Pools.lean ====
section
/-! DEFINITION. What the device keeps of the page pools that instructions have named, and the writes that leave a pool
undefined (R263, R272). -/

namespace Sys2Proof.Machine

/-- Where a range of a context's addresses lies in tier-0 memory, page by page. -/
def State.physSegs (s : State) (ctx va n : Nat) : List (Nat × Nat) :=
  (List.range ((va % 65536 + n + 65535) / 65536)).filterMap fun i =>
    let lo := max va (alignDown va 65536 + 65536 * i)
    let hi := min (va + n) (alignDown va 65536 + 65536 * (i + 1))
    (s.peekPa ctx lo).map fun pa => (pa, hi - lo)

/-- The pool that a context's instructions have named at an address. -/
def State.kvKnown (s : State) (ctx addr : Nat) : Option KvPool := s.kvPools.find? fun p => p.ctx == ctx && p.addr == addr

/-- Does a write of `n` bytes at `pa` touch one of these ranges? -/
def hitsRange (segs : List (Nat × Nat)) (pa n : Nat) : Bool := segs.any fun g => g.1 < pa + n && pa < g.1 + g.2

/-- The fields of a pool descriptor. -/
def poolFields (ctx addr v : Nat) : KvPool := {
  ctx := ctx, addr := addr, pagebase := bits v 63 0, pdt := bits v 127 64, npages := bits v 159 128, pagebytes := bits v 191 160
  nodebase := bits v 319 256, nnodes := bits v 383 352, segs := [], tabs := [], raced := false }

/-- The address under which the gathers of a page descriptor table stand for its pool before an instruction has named it. -/
def gatherKey (pdt : Nat) : Nat := 2 ^ 64 + pdt

/-- An instruction names a pool and sequence tables of it: the ranges of its structures, as its descriptor stands, are those
that software must leave alone. -/
def State.kvMeet (s : State) (ctx addr : Nat) (tabs : List (Nat × Nat)) : State :=
  let v := leNat ((s.physSegs ctx addr 128).flatMap fun g => s.homeBytes g.1 g.2)
  let p := poolFields ctx addr v
  let segs := s.physSegs ctx addr 128 ++ s.physSegs ctx p.pdt (16 * min p.npages (2 ^ 24)) ++
    s.physSegs ctx p.nodebase (256 * min p.nnodes (2 ^ 24))
  let same (k : KvPool) : Bool := k.ctx == ctx && (k.addr == addr || k.addr == gatherKey p.pdt)
  let old := s.kvPools.filter same
  if (s.peekPa ctx addr).isNone then s
  else { s with kvPools := (s.kvPools.filter fun k => !same k) ++ [{ p with
      segs := segs, tabs := (old.flatMap (·.tabs) ++ tabs).eraseDups, raced := old.any (·.raced) }] }

/-- Words of a context's memory, each where a page maps it, take values that the spec leaves open. -/
def State.freeStore (s : State) (ctx : Nat) (vas : List Nat) : State :=
  vas.foldl (fun s va => match s.peekPa ctx va with
    | none => s
    | some pa => let (v, s) := s.freeWord; s.homeStore pa (leBytes 4 v.toNat)) s

/-- Addresses of the 32-bit words of a range. -/
def wordsOf (a n : Nat) : List Nat := (List.range (n / 4)).map fun k => a + 4 * k

/-- The counts, lists and tree of a pool become undefined (R272). -/
def State.kvSpoil (s : State) (p : KvPool) : State :=
  s.freeStore p.ctx ((if p.addr < 2 ^ 64 then [24, 28, 48, 52, 56, 60].map (p.addr + ·) else []) ++
    wordsOf p.pdt (16 * p.npages) ++ wordsOf p.nodebase (256 * p.nnodes))

/-- Is a KV instruction on a pool in flight, or a gather that names it (R272)? -/
def State.kvFlying (s : State) (p : KvPool) : Bool :=
  (s.kvq.any fun o => o.ctx == p.ctx && o.pool == p.addr) || s.copies.any fun c => c.ctx == p.ctx && c.tlr.pdt == p.pdt

/-- Software makes a write of `n` bytes at a physical address (R272): one to a pool's structures, or to a sequence table that
an instruction has named, while a KV instruction or gather that names the pool is in flight leaves the pool undefined, until
software has initialised FREEHEAD anew with none in flight. A gather alone stands for a pool that no instruction has named. -/
def State.kvRace (s : State) (pa n : Nat) : State :=
  if s.kvPools.isEmpty && s.copies.isEmpty then s
  else
    let known (c : Copy) : Bool := s.kvPools.any fun p => p.ctx == c.ctx && p.pdt == c.tlr.pdt
    let news := (s.copies.filter fun c => c.tlr.pdt != 0 && !known c).map fun c =>
      { poolFields c.ctx (gatherKey c.tlr.pdt) 0 with
        pdt := c.tlr.pdt, npages := c.tlr.blkcount, segs := s.physSegs c.ctx c.tlr.pdt (16 * c.tlr.blkcount) }
    let all := s.kvPools ++ news.eraseDups
    let hit (p : KvPool) : Bool := hitsRange p.segs pa n || hitsRange p.tabs pa n
    let head (p : KvPool) : Bool := hitsRange ((p.segs.take 1).map fun g => (g.1 + (if p.addr < 2 ^ 64 then 24 else 0), 4)) pa n
    let new (p : KvPool) : KvPool := { p with raced := if s.kvFlying p then p.raced || hit p else p.raced && !head p }
    (all.filter fun p => s.kvFlying p && hit p && !p.raced).foldl State.kvSpoil
      { s with kvPools := (all.map new).filter fun p => p.addr < 2 ^ 64 || p.raced }

/-- The same of a location. -/
def State.kvRaceAt (s : State) (loc : Loc) (n : Nat) : State :=
  match loc with
  | .mem _ pa => s.kvRace pa n
  | _ => s

end Sys2Proof.Machine
end

