-- ==== Sys2Proof/Machine/Operands.lean ====
section
/-! DEFINITION. Operand forms (R77, R78, R106): tags, literals, pairs, float and packed sources, the third source, and
which registers a word may name (R30, R295, R370). -/

namespace Sys2Proof.Machine

/-- Half of a word: element 0 in [15:0], element 1 in [31:16]. -/
def half (w : Word) (k : Nat) : BitVec 16 := w.extractLsb' (16 * k) 16

/-- A word of two halves. -/
def packHalves (hi lo : BitVec 16) : Word := hi ++ lo

/-- The value of an inline literal. -/
def inlineInt (f : BitVec 7) : Int := f.toInt

/-- An operand as raw bits (R77). -/
def State.opnd (s : State) (i : Issue) (l : Nat) (tag : BitVec 2) (f : BitVec 7) : Word :=
  if tag = 0 then s.rdV i l f.toNat
  else if tag = 1 then s.rdS i f.toNat
  else if tag = 2 then i.rdC f.toNat
  else if f = 0x40 then i.lit
  else f.signExtend 32

/-- A 64-bit operand: a pair, low word first, or a literal sign-extended. -/
def State.opnd64 (s : State) (i : Issue) (l : Nat) (tag : BitVec 2) (f : BitVec 7) : DWord :=
  if tag = 0 then s.rdV i l (f.toNat + 1) ++ s.rdV i l f.toNat
  else if tag = 1 then s.rdS i (f.toNat + 1) ++ s.rdS i f.toNat
  else if tag = 2 then i.rdC (f.toNat + 1) ++ i.rdC f.toNat
  else if f = 0x40 then i.lit.signExtend 64
  else f.signExtend 64

/-- Is the operand an inline literal? -/
def isInline (tag : BitVec 2) (f : BitVec 7) : Bool := tag == 3 && f != 0x40

/-- A float operand of type `t` as raw bits: an inline literal becomes roundNE(value, t), in both halves when packed. -/
def State.opndF (s : State) (i : Issue) (l : Nat) (t : FType) (packed : Bool) (tag : BitVec 2) (f : BitVec 7) : Word :=
  if isInline tag f then
    let v := BitVec.ofNat 32 (roundTo (Num.ofInt (inlineInt f)) t .rne false)
    if packed then packHalves (v.setWidth 16) (v.setWidth 16) else v
  else s.opnd i l tag f

/-- The registers a source names. -/
def vregsOf (tag : BitVec 2) (f : BitVec 7) : List Nat := if tag = 0 then [f.toNat] else []

def vpairOf (tag : BitVec 2) (f : BitVec 7) : List Nat := if tag = 0 then [f.toNat, f.toNat + 1] else []

/-- `n` registers from `r`. -/
def regRange (r n : Nat) : List Nat := (List.range n).map fun k => r + k

/-- The third source: D without a PFX, TC and CFIELD with one (R74). -/
def Issue.cOpnd (i : Issue) (d : BitVec 7) : BitVec 2 × BitVec 7 :=
  match i.pfx with
  | none => (0, d)
  | some p => (p.tc, p.cfield)

/-- B' of Format S (R78). -/
def Issue.scalarB (i : Issue) (tb : BitVec 2) (b : BitVec 6) : BitVec 7 :=
  match i.pfx with
  | some p => p.hib ++ b
  | none => if tb = 3 then b.signExtend 7 else b.setWidth 7

/-- The sub-cause that stops the group from naming these vector registers: an extended register that the warp does not
hold, a register a helper may not name or write, or any vector register on the control core. -/
def State.regError (s : State) (i : Issue) (srcs dsts : List Nat) : Option Nat :=
  match s.rdWarp i with
  | none => none
  | some w =>
    if w.kind = .control then some 0x25
    else match i.kind with
      | .thread => if (srcs ++ dsts).any fun n => (w.vkey 0 n).isNone then some 0x20 else none
      | .helper =>
        if srcs.any (fun n => 79 < n) || dsts.any fun n => n < 64 || 79 < n then some 0x24 else none

/-- The join condition (R303): every chunk is done and every helper has ended. -/
def Recruit.joined (r : Recruit) : Bool := r.helpers.isEmpty && r.chunks.all fun c => c.st == .done

/-- The recruiter of a warp whose recruitment holds writes: open as the group reads it, its join condition not met (R64,
R296). -/
def State.recruiter (s : State) (i : Issue) : Option Nat :=
  ((s.rdWarp i).bind (·.recruit)).bind fun r => if r.joined then none else some r.lane

/-- Would the word, which writes `dsts` in the lanes `ls`, write v0 to v63 of a recruiter whose recruitment is open (R296)? -/
def State.recruitHeld (s : State) (i : Issue) (ls dsts : List Nat) : Bool :=
  i.kind == .thread && dsts.any (· < 64) && match s.recruiter i with
    | some r => ls.contains r
    | none => false

/-- The leader of a word that acts once: the lowest lane whose guard is true (R75, R193). -/
def State.leader (s : State) (i : Issue) : Option Nat := minNat? (s.acting i)

/-- The lowest lane of the bundle. -/
def Issue.lowest (i : Issue) : Nat := (minNat? i.lanes).getD 0

/-- For a word that executes once per bundle: the guard as the lowest lane reads it (R75). -/
def State.bundleActs (s : State) (i : Issue) : Bool := (s.acting i).contains i.lowest

/-- The one lane a word that acts through a leader acts in. -/
def State.leaderLanes (s : State) (i : Issue) : List Nat := (s.leader i).toList

/-- The one lane a word that executes once per bundle acts in. -/
def State.onceLanes (s : State) (i : Issue) : List Nat := if s.bundleActs i then [i.lowest] else []

/-- illegal-instruction at a word that acts in the lanes `ls`. A sub-cause below 0x20 marks the whole bundle (R85), one from
0x20 the lanes that offend (R170); where none acts the word does nothing (R75, DEDUCED 69). -/
def State.forbid (s : State) (i : Issue) (c : Nat) (ls : List Nat) : State :=
  if c < 0x20 then s.illegal c i.lanes else if ls.isEmpty then s else s.illegal c ls

/-- Run a word that helpers may issue, once its registers pass; `who` gives the lanes it acts in. -/
def State.withRegs (s : State) (srcs dsts : List Nat) (k : Issue → State → State)
    (who : State → Issue → List Nat := State.acting) : State :=
  match s.iss with
  | none => s
  | some i => match s.regError i srcs dsts with
    | some c => s.forbid i c (who s i)
    | none => if s.recruitHeld i (who s i) dsts then s.stall else k i s

/-- Run a word that neither a helper nor the control core may issue (R297, R370), once its registers pass. -/
def State.withThread (s : State) (srcs dsts : List Nat) (k : Issue → State → State)
    (who : State → Issue → List Nat := State.acting) : State :=
  match s.iss with
  | none => s
  | some i => match s.regError i srcs dsts with
    | some c => s.forbid i c (who s i)
    | none =>
      if i.kind = .helper then s.forbid i 0x24 (who s i)
      else if s.recruitHeld i (who s i) dsts then s.stall
      else k i s

/-- Each acting lane's D takes `val`, computed before any lane is written. -/
def State.writeLanes (s : State) (i : Issue) (d : Nat) (val : Nat → Word) : State :=
  (s.acting i).foldl (fun t l => t.wrV i l d (val l)) s

/-- Each acting lane's pair at D takes `val`, low word in the even register. -/
def State.writePairs (s : State) (i : Issue) (d : Nat) (val : Nat → DWord) : State :=
  (s.acting i).foldl (fun t l => (t.wrV i l d ((val l).setWidth 32)).wrV i l (d + 1) ((val l).extractLsb' 32 32)) s

end Sys2Proof.Machine
end

