-- ==== Sys2Proof/Machine/Flags.lean ====
section
/-! DEFINITION. Completion flags and the register scoreboard (R69, R70, R71): which flag an operation counts on, its
start and its completion, and what it holds until then. -/

namespace Sys2Proof.Machine

/-- SETA and SETB of the clause the group's actors run; a bundle reads its lowest thread (R20, R68). -/
def State.clauseSets (s : State) (i : Issue) : BitVec 4 × BitVec 4 :=
  match s.rdWarp i with
  | none => (15, 15)
  | some w => match i.kind with
    | .thread => match w.threads[i.lowest]? with
      | some t => (t.seta, t.setb)
      | none => (15, 15)
    | .helper => match w.helper i.lowest with
      | some h => (h.seta, h.setb)
      | none => (15, 15)

/-- A flag name of a clause: 15 is no flag. -/
def flagName (f : BitVec 4) : Option Nat := if f.toNat < 12 then some f.toNat else none

/-- The flag an operation counts on, fixed at issue (R70). `sel` is the word's own flag-select bit, if it has one. -/
def State.flagOf (s : State) (i : Issue) (sel : Option (BitVec 1)) : Option Nat :=
  let (a, b) := s.clauseSets i
  match (i.pfx.map (·.redirect)).getD 0 with
  | 1 => flagName a
  | 2 => flagName b
  | 3 => none
  | _ => match sel with
    | some 1 => flagName b
    | _ => flagName a

/-- Pending count of flag `f` of a warp, or of a helper. -/
def State.flagCount (s : State) (wk : Nat) (h : Option Nat) (f : Nat) : Nat :=
  match s.warp wk with
  | none => 0
  | some w => match h with
    | none => w.flags.getD f 0
    | some k => ((w.helper k).map fun x => x.flags.getD f 0).getD 0

def State.modFlag (s : State) (wk : Nat) (h : Option Nat) (f : Nat) (g : Nat → Nat) : State :=
  match h with
  | none => s.modWarp wk fun w => { w with flags := w.flags.modify f g }
  | some k => s.modHelper wk k fun x => { x with flags := x.flags.modify f g }

/-- No count above 63 (R70). -/
def State.flagRoom (s : State) (wk : Nat) (h : Option Nat) (f : Option Nat) : Bool :=
  match f with
  | none => true
  | some f => s.flagCount wk h f < 63

/-- An operation is issued: it counts on its flag and holds its destinations. Its number is answered. -/
def State.startOp (s : State) (o : Op) : Nat × State :=
  let (id, s) := s.fresh
  let s := { s with ops := s.ops ++ [{ o with id := id }] }
  (id, match o.flag with
    | none => s
    | some f => s.modFlag o.warp o.helper f (· + 1))

/-- An operation completes: its flag falls, and what it held is free. -/
def State.endOp (s : State) (id : Nat) : State :=
  match s.op id with
  | none => s
  | some o =>
    let s := s.dropOp id
    match o.flag with
    | none => s
    | some f => s.modFlag o.warp o.helper f (· - 1)

/-- An operation completes whose flag is the acquire side of a release by an engine at stack scope or wider (R213): the clean
copies of the issuer's core go (R210). -/
def State.endOpAcq (s : State) (id : Nat) : State :=
  (match (s.op id).bind fun o => s.warp o.warp with
    | some w => s.dropClean w.core
    | none => s).endOp id

def blankOp (wk : Nat) (kind : OpKind) : Op :=
  { id := 0, warp := wk, helper := none, lanes := [], flag := none, srcs := [], vdests := [], sdests := [], pdests := [], parts := [],
    kind := kind }

/-- Do the flags of a wait mask read zero for the group, no member of which sees another's operation (R64, R159)? -/
def State.flagsRead (s : State) (i : Issue) (mask : BitVec 12) : Bool :=
  let zero (fs : List Nat) : Bool := (List.range 12).all fun f => !mask.getLsbD f || fs.getD f 0 == 0
  match s.rdWarp i with
  | none => true
  | some w => match i.kind with
    | .thread => zero w.flags
    | .helper => i.lanes.all fun l => ((w.helper l).map fun h => zero h.flags).getD true

/-- Does every flag of a wait mask read zero (R69, R159)? -/
def State.flagsClear (s : State) (wk : Nat) (h : Option Nat) (mask : BitVec 12) : Bool :=
  (List.range 12).all fun f => !mask.getLsbD f || s.flagCount wk h f == 0

/-- Is a vector register of a lane held by an operation, as destination? -/
def State.vHeld (s : State) (wk : Nat) (h : Option Nat) (l n : Nat) : Bool :=
  s.ops.any fun o => o.warp == wk && o.helper == h && o.vdests.contains (l, n)

def State.sHeld (s : State) (wk n : Nat) : Bool := s.ops.any fun o => o.warp == wk && o.sdests.contains n

/-- Write a returned word where the operation's lane is a helper or a thread; a lane that has ended discards it (R142,
R302). -/
def State.landV (s : State) (o : Op) (l n : Nat) (v : Word) : State :=
  match o.helper with
  | some k => s.modHelper o.warp k fun h => { h with vregs := tset h.vregs n v }
  | none => match s.thread o.warp l with
    | some t => if t.live then s.setV o.warp l n v else s
    | none => s

/-- Has an operation's every part been read? -/
def Op.performed (o : Op) : Bool := o.parts.all fun p => p.bytes.all (·.isSome)

/-- A part names bytes of memory still to be read for a lane: the thread's earlier access is not performed (R158). -/
def State.unperformed (s : State) (wk l : Nat) : Bool :=
  s.ops.any fun o => o.warp == wk && o.helper.isNone && o.lanes.contains l &&
    o.parts.any fun p => p.lane == l && p.bytes.any (·.isNone)

end Sys2Proof.Machine
end

