-- ==== Sys2Proof/Machine/Trans.lean ====
section
/-! DEFINITION. Translation (R375 to R379, R409) and the checks of an access (R151, R152, R227). -/

namespace Sys2Proof.Machine

/-! ### Frames -/

/-- A walk's answer: the leaf with its address and page size, or a fault with REASON and the level reached, and the page
that identifies it. -/
inductive Walk where
  | leaf (addr leaf lg : Nat)
  | fail (reason level lg : Nat)
  deriving DecidableEq, Repr

/-- Read an entry through the field's walker cache, which keeps valid table entries (R379). -/
def State.walkRead (s : State) (field ctx addr level lg : Nat) : Nat × State :=
  match s.tr.wcache.find? fun w => w.field == field && w.ctx == ctx && w.addr == addr with
  | some w => (w.ent.toNat, s)
  | none =>
    let e := s.physNat addr 8
    if e.testBit 0 && !e.testBit 1 && !malformed e level lg then
      (e, { s with tr := { s.tr with wcache := s.tr.wcache ++ [WalkEnt.mk field ctx addr (BitVec.ofNat 64 e)] } })
    else (e, s)

/-- The walk from a table through the remaining levels (R376 to R378). -/
def State.walkFrom (s : State) (field ctx va : Nat) : List (Nat × Nat × Nat × Nat) → Nat → Walk × State
  | [], _ => (.fail 1 4 16, s)
  | (level, hi, lo, lg) :: rest, table =>
    let addr := table + 8 * bits va hi lo
    let (e, s) := s.walkRead field ctx addr level lg
    if !e.testBit 0 then (.fail 1 level 16, s)
    else if malformed e level lg then (.fail 3 level (if e.testBit 1 ∧ 0 < lg then lg else 16), s)
    else if e.testBit 1 then
      if s.absentFrame e then (.fail 4 level lg, s) else (.leaf addr e lg, s)
    else
      let next := at_ (bits e 59 32) 16 + at_ (bits e 27 20) 8
      if s.present next then s.walkFrom field ctx va rest next else (.fail 4 level 16, s)

/-- ACC bit of an access (R385). -/
def accOf : Access → Nat
  | .load => 1
  | .store => 2
  | .atomic => 4
  | .fetch => 8

/-- Does a leaf permit an access (R377)? -/
def permits (a : Access) (e : Nat) : Bool :=
  match a with
  | .load => e.testBit 8
  | .store => e.testBit 9
  | .atomic => e.testBit 9
  | .fetch => e.testBit 10

/-- Raise the heat field a walk ended at, unless it holds 3 (R379): at its home point (R215), and in the pages of a sweep
region, whose rows a restore changes at their bank, at the bank, so that neither change is lost (R207, R380). -/
def State.raiseHeat (s : State) (a : Access) (addr e : Nat) : State :=
  let lo := match a with | .load => 28 | .fetch => 28 | .store => 30 | .atomic => 30
  let cur := s.physNat addr 8
  let h := bits cur (lo + 1) lo
  if h = 3 ∨ cur % 2 = 0 ∨ e = 0 then s
  else if s.sw.regions.any fun r => r.pages.contains (alignDown addr 65536) then s.physWrite addr 8 (cur + at_ 1 lo)
  else s.homeStore addr (leBytes 8 (cur + at_ 1 lo))

/-- Entries a unit's TLB holds (R225); the size of a Leat's is R315's. -/
def tlbSize : XUnit → Nat
  | .core _ => 2048
  | .leat _ => 64

/-- A successful translation enters its unit's TLB, the oldest of a full one leaving (DESIGN CHOICE 30). -/
def State.tlbFill (s : State) (e : TlbEnt) : State :=
  let mine := s.tr.tlb.filter fun x => x.unit == e.unit
  let tlb := if mine.length < tlbSize e.unit then s.tr.tlb else
    match mine with
    | x :: _ => s.tr.tlb.erase x
    | [] => s.tr.tlb
  { s with tr := { s.tr with tlb := tlb ++ [e] } }

/-- The field whose walkers serve a unit. -/
def unitField : XUnit → Nat
  | .core k => k / 12
  | .leat ch => ch / 64

/-- PAGE_WALK (R379): the walk for an access, its heat, the granule's last context and the TLB entry. -/
def State.pageWalk (s : State) (u : XUnit) (ctx va : Nat) (a : Access) : Walk × State :=
  match tget s.ctxs ctx with
  | none => (.fail 1 0 16, s)
  | some c =>
    let (r, s) := if s.present c.ptroot then s.walkFrom (unitField u) ctx va walkLevels c.ptroot else (.fail 4 0 16, s)
    match r with
    | .fail x l g => (.fail x l g, s)
    | .leaf addr e lg =>
      let s := s.raiseHeat a addr e
      let s := if leafTier e = 0 then
        let o := (leafFrame e, 2 ^ lg, ctx)
        { s with tr := { s.tr with owners := o :: s.tr.owners.filter fun x => !(x.1 == o.1 && x.2.1 == o.2.1) } }
        else s
      (r, s.tlbFill { unit := u, ctx := ctx, base := alignDown va (2 ^ lg), lg := lg, leaf := BitVec.ofNat 64 e })

/-- Where a translated access goes, or its fault: REASON with the level in [11:8], and the page. -/
inductive Xlate where
  | at (loc : Loc)
  | fault (reason base lg : Nat)
  /-- It waits for the host's answer to a page request (R409). -/
  | wait
  deriving DecidableEq, Repr

/-- The level whose leaf maps a page of this size (R376). -/
def levelOf (lg : Nat) : Nat :=
  match lg with
  | 33 => 1
  | 26 => 2
  | 21 => 3
  | _ => 4

/-- A translation enters its link's cache of 512, in place of an older one of the same block; the oldest of a full one leaves
(DESIGN CHOICE 30). -/
def HostSt.fill (h : HostSt) (e : AtsEnt) : HostSt :=
  let ats := h.ats.filter fun x => !x.of (e.link, e.pasid, e.frame)
  let mine := ats.filter fun x => x.link == e.link
  let ats := if mine.length < 512 then ats else match mine with
    | x :: _ => ats.erase x
    | [] => ats
  { h with ats := ats ++ [e] }

/-- The host says where a block lies and what it grants. -/
def HostSt.learn (h : HostSt) (e : AtsEnt) : HostSt :=
  { h with xlats := h.xlats.filter (fun x => !x.of (e.link, e.pasid, e.frame)) ++ [e] }

/-- A translation request (R409): the host's answer, a free value, which does not take back what it has said before (DESIGN
CHOICE 113). -/
def State.atsAsk (s : State) (key : Nat × Option (BitVec 20) × Nat) : AtsEnt × State :=
  let (p, s) := s.freeWord
  let (e, s) : AtsEnt × State := match s.hl.xlats.find? fun x => x.of key with
    | some e => ({ e with perm := e.perm ||| p.toNat % 4 }, s)
    | none =>
      let (lo, s) := s.freeWord
      let (hi, s) := s.freeWord
      (AtsEnt.mk key.1 key.2.1 key.2.2 ((lo.toNat + at_ hi.toNat 32) % 2 ^ 48) (p.toNat % 4), s)
  (e, if e.perm = 0 then s else { s with hl := s.hl.learn e })

/-- A HOST access's address on the host side (R409): through ATS when it is enabled; a translation that does not grant the
access makes a page request, and the answer to that is awaited. -/
def State.hostXlate (s : State) (ctx ha base lg : Nat) (a : Access) : Xlate × State :=
  match s.hostLink ha with
  | none => (.fault (5 + at_ (levelOf lg) 8) base lg, s)
  | some b =>
    if !s.hl.atsOn.contains (b, ctx) then (.at (.host ctx ha), s)
    else
      let key := s.atsKey b ctx ha
      match s.atsAddr b ctx ha a with
      | some h => (.at (.host ctx h), s)
      | none =>
        if s.hl.refused.contains key then
          (.fault (5 + at_ (levelOf lg) 8) base lg, { s with hl := { s.hl with refused := s.hl.refused.erase key } })
        else if s.hl.pri.contains key then (.wait, s)
        else
          let (e, s) := s.atsAsk key
          if e.grants a then (.at (.host ctx (e.addr ha)), { s with hl := s.hl.fill e })
          else if 64 ≤ (s.hl.pri.filter fun x => x.1 == b).length then (.wait, s)
          else (.wait, { s with hl := { s.hl with pri := s.hl.pri ++ [key] } })

/-- The location a leaf gives an address. -/
def State.leafLoc (s : State) (ctx va leaf base lg : Nat) (acc : Access) : Xlate × State :=
  let a := leafFrame leaf + va % 2 ^ lg
  match leafType leaf with
  | 0 => (.at (.mem .normal a), s)
  | 1 => (.at (.mem .sw a), s)
  | 2 => (.at (.mem .kvp a), s)
  | 3 => (.at (.mem .uc a), s)
  | 4 => s.hostXlate ctx a base lg acc
  | _ =>
    if (s.skPort (bits leaf 27 20) a).isNone then (.fault (4 + at_ (levelOf lg) 8) base lg, s)
    else (.at (.peer (bits leaf 27 20) a), s)

/-- TRANSLATE a global address for an access of a unit: TLB, else walk; permission; location (R378, R379, R381). -/
def State.translate (s : State) (u : XUnit) (ctx va : Nat) (a : Access) : Xlate × State :=
  let done (s : State) (leaf base lg : Nat) : Xlate × State :=
    if permits a leaf then s.leafLoc ctx va leaf base lg a
    else (.fault (2 + at_ (levelOf lg) 8) base lg, s)
  match s.tr.tlb.find? fun e => e.unit == u && e.ctx == ctx && e.base == alignDown va (2 ^ e.lg) with
  | some e => done s e.leaf.toNat e.base e.lg
  | none =>
    match s.pageWalk u ctx va a with
    | (.leaf _ e lg, s) => done s e (alignDown va (2 ^ lg)) lg
    | (.fail r l lg, s) => (.fault (r + at_ l 8) (alignDown va (2 ^ lg)) lg, s)

/-- The leaf a unit's TLB or a walk gives an address. Nothing changes. -/
def State.leafSeen (s : State) (u : XUnit) (ctx va : Nat) : Option Nat :=
  match s.tr.tlb.find? fun e => e.unit == u && e.ctx == ctx && e.base == alignDown va (2 ^ e.lg) with
  | some e => some e.leaf.toNat
  | none => match tget s.ctxs ctx with
    | none => none
    | some c =>
      if !s.present c.ptroot then none
      else match (s.walkFrom (unitField u) ctx va walkLevels c.ptroot).1 with
        | .leaf _ e _ => some e
        | .fail _ _ _ => none

/-- The memory type a KVP check looks for: is the page of `va` a valid KVP leaf (R152, check 5)? -/
def State.kvpPage (s : State) (u : XUnit) (ctx va : Nat) : Bool := (s.leafSeen u ctx va).map leafType == some 2

/-! ### Steering and checks -/

/-- The place an address names before translation (R151). -/
inductive Where where
  | global (va : Nat)
  | onchip (core off : Nat)
  | stack (off : Nat)
  | spad (off : Nat)
  | none
  deriving DecidableEq, Repr

/-- The aperture comparators (R151). -/
def steer (addr : Nat) : Where :=
  if addr ≤ 0x01FF_FFFF_FFFF_FFFF then .global addr
  else if 0xFC00_0000_0000_0000 ≤ addr ∧ addr ≤ 0xFC00_0000_2FFF_FFFF then
    .onchip (addr % 2 ^ 32 / 2 ^ 24) (addr % 2 ^ 24)
  else if addr / 2 ^ 56 = 0xFD then .stack (addr % 2 ^ 56)
  else if addr / 2 ^ 56 = 0xFE then .spad (addr % 2 ^ 56)
  else .none

/-- A thread's stack base (R362). -/
def State.stackBase (s : State) (w : Warp) (lane : Nat) : Nat :=
  match s.team w.team with
  | none => 0
  | some t =>
    (t.vals.stkbase + (t.idx * t.vals.warps * w.w + w.k * w.w + lane) * t.vals.stkstride) % 2 ^ 64

/-- An aperture's failure, with its code of R170; none when the place exists. -/
def apertureError (stride : Nat) (store : Bool) (n : Nat) : Where → Option Nat
  | .global _ => none
  | .onchip core off => if onChipAt core off = .unassigned then some 1 else none
  | .stack off => if stride ≤ off ∨ (store ∧ off < 2048 ∧ 2040 < off + n) then some 2 else none
  | .spad _ => none
  | .none => some 4

/-- log2 of an access size. -/
def log2Size : Nat → Nat
  | 1 => 0
  | 2 => 1
  | 4 => 2
  | 8 => 3
  | _ => 4

/-- One lane's access after its checks. -/
structure LaneAcc where
  lane : Nat
  addr : Nat
  /-- The global address it is made through; the address itself in an aperture that is not translated. -/
  va : Nat
  loc : Loc
  deriving DecidableEq, Repr

/-- A trap an access check raises: cause, failing lanes, first address, info. -/
structure CheckTrap where
  cause : Nat
  lanes : List Nat
  addr : Nat
  info : Nat
  deriving DecidableEq, Repr

/-- Does [a, a + n) lie in a private window of the warp, or in a read-only range when `ro` (R345, R346)? -/
def inRanges (t : Team) (w : Warp) (a n : Nat) (priv ro : Bool) : Bool :=
  t.vals.ranges.any fun r =>
    let base := if r.kind = 1 then r.base + 64 * r.stride * (t.idx * t.vals.warps + w.k) else r.base
    ((r.kind == 1 && priv) || (r.kind == 2 && ro)) && base ≤ a && a + n ≤ base + r.size

/-- The global address that a lane's address reaches memory through: a stack address is the thread's own (R151). -/
def State.globalAddr (s : State) (w : Warp) (lane addr : Nat) : Option Nat :=
  match steer addr with
  | .global va => some va
  | .stack off => some ((s.stackBase w lane + off) % 2 ^ 64)
  | _ => none

/-- Check 5 of R152: does a lane's store or atomic meet a KVP leaf, or touch a read-only range in deterministic mode
(R345)? -/
def State.storeBarred (s : State) (w : Warp) (t : Team) (n lane addr : Nat) : Bool :=
  (match s.globalAddr w lane addr with
    | some va => s.kvpPage (.core w.core) t.ctx va
    | none => false) ||
  (t.vals.det && match steer addr with
    | .global va => (List.range n).any fun k => inRanges t w (va + k) 1 false true
    | _ => false)

/-- The first check of R152 that a lane fails, over all lanes; the info of check 5 is 0 for a store, 1 for an atomic. Check 5
meets every store and atomic; `writes` says whether the access may write, which an ATOM.ldacq does not (R155, R227). -/
def State.accessTrap (s : State) (w : Warp) (t : Team) (helper : Bool) (n : Nat) (store atomic : Bool)
    (acc : List (Nat × Nat)) (writes : Bool := store) : Option CheckTrap :=
  let fails (p : Nat × Nat → Option Nat) : Option (List (Nat × Nat) × Nat) :=
    match acc.filter fun e => (p e).isSome with
    | [] => none
    | e :: r => some (e :: r, (p e).getD 0)
  let mk (cause : Nat) (r : List (Nat × Nat) × Nat) : CheckTrap :=
    { cause := cause, lanes := r.1.map (·.1), addr := ((r.1.head?).map (·.2)).getD 0, info := r.2 }
  match fails fun e => apertureError t.vals.stkstride writes n (steer e.2) with
  | some r => some (mk 2 r)
  | none =>
    match fails fun e => match steer e.2 with
      | .onchip _ _ => if t.vals.grant || helper then none else some 0
      | _ => none with
    | some r => some (mk 3 r)
    | none =>
      match fails fun e => if e.2 % n = 0 then none else some (n % 16 + at_ (log2Size n) 4) with
      | some r => some (mk 4 r)
      | none =>
        match fails fun e => match steer e.2 with
          | .spad off => if off + n ≤ t.vals.spbytes then none else some t.vals.spbytes
          | _ => none with
        | some r => some (mk 5 r)
        | none =>
          (fails fun e => if store && s.storeBarred w t n e.1 e.2 then some (if atomic then 1 else 0) else none).map (mk 0x13)

/-- Translate each lane's access, in lane order: located lanes, faults, and whether some lane waits. -/
def State.locate (s : State) (w : Warp) (t : Team) (a : Access) :
    List (Nat × Nat) → List LaneAcc × List PageFault × Bool × State
  | [] => ([], [], false, s)
  | (l, addr) :: rest =>
    let go (va : Nat) : List LaneAcc × List PageFault × Bool × State :=
      match s.translate (.core w.core) t.ctx va a with
      | (.at loc, s) =>
        let (x, f, b, s) := s.locate w t a rest
        ({ lane := l, addr := addr, va := va, loc := loc } :: x, f, b, s)
      | (.fault r base lg, s) =>
        let (x, f, b, s) := s.locate w t a rest
        (x, { lane := l, addr := va, reason := r, acc := accOf a, base := base, lg := lg, own := addr } :: f, b, s)
      | (.wait, s) =>
        let (x, f, _, s) := s.locate w t a rest
        (x, f, true, s)
    let here (loc : Loc) : List LaneAcc × List PageFault × Bool × State :=
      let (x, f, b, s) := s.locate w t a rest
      ({ lane := l, addr := addr, va := addr, loc := loc } :: x, f, b, s)
    match steer addr with
    | .spad off => here (.spad w.core (t.spbase + off))
    | .onchip k off => here (onChipLoc k off)
    | _ => match s.globalAddr w l addr with
      | some va => go va
      | none => s.locate w t a rest

/-- The error record of kind 0x20 (R401, R414) of a warp's read at a lane's address that met an uncorrectable error or that
another device did not answer. -/
def State.readError (s : State) (w : Warp) (t : Team) (lane addr info : Nat) : Word × State :=
  let (q, s) := s.nextSeq (at_ 0x20 24 + w.core)
  let va := (s.globalAddr w lane addr).getD addr
  (q, s.errorRecord (some t.ctx) {
    kind := 0x20, src := w.src, sseq := q.toNat, paddr := s.reportPa t.ctx va, vaddr := va, detail := info, wcb := t.twcb })

/-- The reason the driver gave for a page it could not resolve, at the reissue (R388). -/
def Warp.failedPage (w : Warp) (f : PageFault) : Option Word :=
  (w.failed.find? fun e => e.1.contains f.lane && (f.base ≤ e.2.1 && e.2.1 < f.base + 2 ^ f.lg ||
    alignDown e.2.1 (2 ^ f.lg) == f.base)).map (·.2.2)

/-- Faults of a group: those on pages the driver marked take memory-fault (R388); otherwise the group faults and does not
issue. -/
def State.groupFaults (s : State) (w : Warp) (fs : List PageFault) : State :=
  match fs.filter fun f => (w.failedPage f).isSome with
  | [] => s.modIss fun i => { i with faults := i.faults ++ fs, stalled := true }
  | f :: r => s.raise 6 ((f :: r).map (·.lane)) f.own ((w.failedPage f).getD 0).toNat

/-- The access of a memory word: its checks, the hold of deterministic mode if it is gated, its translation, then `k` on the
located lanes. -/
def State.access (s : State) (i : Issue) (n : Nat) (a : Access) (acc : List (Nat × Nat))
    (k : Warp → Team → List LaneAcc → State → State) (hold : Warp → Team → Bool := fun _ _ => false)
    (writes : Bool := a != .load) : State :=
  match s.warp i.warp, s.teamOf i.warp with
  | some w, some t =>
    match s.accessTrap w t (i.kind == .helper) n (a != .load) (a == .atomic) acc writes with
    | some c => s.raise c.cause c.lanes c.addr c.info
    | none =>
      if hold w t then s.stall
      else match s.locate w t a acc with
        | (x, [], false, s) => k w t x s
        | (_, [], true, s) => s.stall
        | (_, fs, _, s) => s.groupFaults w fs
  | _, _ => s

end Sys2Proof.Machine
end

