-- ==== Sys2Proof/Machine/LdSt.lean ====
section
/-! DEFINITION. LD and ST (R150 to R154), the return of load data and the performing of stores, and the gates of
deterministic mode on them (R345, R346). -/

namespace Sys2Proof.Machine

/-! ### Sizes and registers -/

/-- Bytes of a size code (R45, R80). -/
def sizeBytes (c : BitVec 3) : Nat :=
  match c with
  | 0 => 1
  | 1 => 1
  | 2 => 2
  | 3 => 2
  | 4 => 4
  | 5 => 8
  | _ => 16

/-- Register words of an access of `n` bytes. -/
def sizeWords (n : Nat) : Nat := if n ≤ 4 then 1 else n / 4

/-- The register words a load writes: little-endian, .s8 and .s16 sign-extended (R150). -/
def loadWords (c : BitVec 3) (bs : List Byte) : List Word :=
  match c with
  | 0 => [BitVec.ofInt 32 (sext 8 (leNat bs))]
  | 2 => [BitVec.ofInt 32 (sext 16 (leNat bs))]
  | _ => leWords bs

/-- The control core's one thread. -/
def State.onControl (s : State) (i : Issue) : Bool := ((s.rdWarp i).map fun w => w.kind == .control).getD false

/-- A data register as the word names it: a vector, or on the control core a scalar (R370). -/
def State.rdD (s : State) (i : Issue) (l n : Nat) : Word := if s.onControl i then s.rdS i n else s.rdV i l n

/-- The lanes' address pair in registers A and A + 1. -/
def State.rdAddr (s : State) (i : Issue) (l a : Nat) : Nat := (s.rdD i l (a + 1) ++ s.rdD i l a).toNat

def Issue.hi7 (i : Issue) : BitVec 7 := (i.pfx.map (·.hi7)).getD 0

/-- The address of a thread under the pair form (R150). -/
def State.addrV (s : State) (i : Issue) (f : FmtMv) (l : Nat) : Nat :=
  wrap64 (s.rdAddr i l f.a.toNat + f.imm.toInt * sizeBytes f.size)

/-- The address of a thread under the scalar-base form (R150). -/
def State.addrS (s : State) (i : Issue) (f : FmtMs) (l : Nat) : Nat :=
  wrap64 ((s.rdS i (2 * f.pair.toNat + 1) ++ s.rdS i (2 * f.pair.toNat)).toNat +
    (if f.nov = 1 then 0 else (s.rdV i l f.v.toNat).toNat : Nat) + i.hi7.toInt * sizeBytes f.size)

/-! ### Deterministic mode -/

/-- Does the warp hold its launch's commit token (R344)? -/
def State.holdsToken (s : State) (w : Warp) (t : Team) : Bool :=
  match t.det, (tget s.launches t.launch).bind (·.token) with
  | some d, some (tm, r) => tm == t.idx && r == d.round && d.running == w.k
  | _, _ => false

/-- Is the access gated, the token being elsewhere (R345)? -/
def State.gated (s : State) (w : Warp) (t : Team) (load : Bool) (n : Nat) (acc : List (Nat × Nat)) : Bool :=
  t.vals.det && !s.holdsToken w t && acc.any fun e => match steer e.2 with
    | .global va => !inRanges t w va n true load
    | _ => false

/-! ### Reading -/

def Issue.agent (i : Issue) (core l : Nat) : Agent :=
  match i.kind with
  | .thread => { warp := i.warp, lane := l, helper := none, core := core }
  | .helper => { warp := i.warp, lane := l, helper := some l, core := core }

/-- Where its core's point keeps clean copies of a location that takes READ's choices there (R208). -/
def Loc.cleanKey (l : Loc) : Option Nat :=
  match l with
  | .mem .normal pa => some pa
  | .mem .kvp pa => some pa
  | .peer d pa => some (peerKey d pa)
  | _ => none

/-- READ of one naturally aligned part of at most 8 bytes (R204, R208); none for a byte that an answer from a bank queue
or a peer brings later. -/
def State.readPart (s : State) (ag : Agent) (loc : Loc) (n : Nat) (pick : Option Bool) :
    List (Option Byte) × Bool × State :=
  let own (k : Nat) : Option Byte := s.ownByte ag (loc.add k)
  let plain (f : Nat → Byte) : List (Option Byte) := (List.range n).map fun k => some ((own k).getD (f k))
  match loc with
  | .spad c o => (plain fun k => s.spadByte c (o + k), false, s)
  | .onchip c o => (plain fun k => s.onchipByte c (o + k), false, s)
  | .mem .normal pa => let (b, u, s) := s.readNormal ag loc pa n pick; (b.map some, u, s)
  | .mem .kvp pa => let (b, u, s) := s.readNormal ag loc pa n pick; (b.map some, u, s)
  | .mem .uc pa => (plain fun k => s.homeByte (pa + k), s.ueAt pa n, s)
  | .host c ha => (plain fun k => mget s.m.host (hkey c (ha + k)), false, s)
  | .mem .sw _ => ((List.range n).map own, false, s)
  | .peer d pa => let (b, s) := s.readPeer ag loc d pa n pick; (b, false, s)

/-- One choice for lanes of a load that read the same part: the clean copies, if each of them may take those, or the home
point, so that all see the same write (R154). -/
def State.sharePick (s : State) (i : Issue) (core : Nat) (ls : List Nat) (loc : Loc) (n : Nat) : Option Bool × State :=
  match ls, loc.cleanKey with
  | _ :: _ :: _, some pa =>
    let need := ((List.range n).map fun k => pa + k).filter fun a => (tget s.m.cDirty (ckey core a)).isNone
    if ls.all fun l => s.cleanOk (i.agent core l) need then
      let (c, s) := s.choose 2
      (some (c == 0), s)
    else (some false, s)
  | _, _ => (none, s)

/-- The parts of an access: one, or two halves for b128 (R204); an access of SW memory is one entry. -/
def Loc.halves (l : Loc) (n : Nat) : List (Loc × Nat) :=
  match l with
  | .mem .sw _ => [(l, n)]
  | _ => if n = 16 then [(l, 8), (l.add 8, 8)] else [(l, n)]

/-- READ of a location by the lanes `ls` of a load: what each lane has now. -/
def State.readShared (s : State) (i : Issue) (core : Nat) (ls : List Nat) (loc : Loc) (n : Nat) :
    List (Nat × List (Option Byte) × Bool) × State :=
  (loc.halves n).foldl (fun (p : List (Nat × List (Option Byte) × Bool) × State) h =>
    let (pick, s) := p.2.sharePick i core ls h.1 h.2
    p.1.foldl (fun (q : List (Nat × List (Option Byte) × Bool) × State) e =>
      let (bs, u, s) := q.2.readPart (i.agent core e.1) h.1 h.2 pick
      (q.1 ++ [(e.1, e.2.1 ++ bs, e.2.2 || u)], s)) ([], s)) (ls.map fun l => (l, [], false), s)

/-- The locations of a load, without repeats. -/
def distinctAccs : List LaneAcc → List LaneAcc
  | [] => []
  | x :: t => x :: (distinctAccs t).filter fun y => y.loc != x.loc

/-- The device's own bytes of a return-record area, which read as zero (R227). -/
def reservedByte (addr k : Nat) : Bool :=
  match steer addr with
  | .stack off => 2040 ≤ off + k && off + k < 2048
  | _ => false

/-- The bytes of an access as it reads them: the device's own read as zero. -/
def readBack (addr : Nat) (bs : List (Option Byte)) : List (Option Byte) :=
  bs.mapIdx fun k b => if reservedByte addr k then some 0 else b

/-- Start the reads of a load's lanes (R207, ISSUE): each lane's part, and for SW and PEER memory one entry or request for
each location. Threads' buffered writes are posted before what reads them at a further point, for itself or for other lanes
that must see the same write (R154). -/
def State.readLanes (s : State) (i : Issue) (w : Warp) (d : Nat) (size : BitVec 3) (op ctx : Nat)
    (accs : List LaneAcc) : List LanePart × State :=
  let n := sizeBytes size
  let one (p : List LanePart × State) (x : LaneAcc) : List LanePart × State :=
    let mine := accs.filter fun y => y.loc == x.loc
    let ls := mine.map (·.lane)
    let later := match x.loc with
      | .mem .sw _ => true
      | .peer _ _ => true
      | _ => false
    let own (l : Nat) : Bool := (List.range n).all fun k => (p.2.ownByte (i.agent w.core l) (x.loc.add k)).isSome
    let s := if i.kind = .thread ∧ (1 < ls.length ∨ (later && !ls.all own)) then
        p.2.postWhere fun b => b.warp == i.warp && b.helper.isNone && ls.contains b.lane && b.loc.meets b.data.length x.loc n
      else p.2
    let (got, s) := s.readShared i w.core ls x.loc n
    let s := if !(got.any fun e => e.2.1.any (·.isNone)) then s else match x.loc with
      | .mem .sw pa => s.enqueue pa n ctx x.va (.read op x.lane)
      | .peer dv pa =>
        ls.foldl (fun s l => s.peerFloor (i.agent w.core l) dv pa n)
          (s.skSend { blankMsg with paddr := pa, dst := dv, size := n, op := 0 } ctx x.va (.part op x.lane 0)).1
      | _ => s
    let parts := mine.map fun y =>
      let e := (got.find? fun e => e.1 == y.lane).getD (y.lane, [], false)
      { lane := y.lane, d := d, size := size.toNat, addr := y.addr, loc := x.loc, bytes := readBack y.addr e.2.1, bad := e.2.2 }
    (p.1 ++ parts, s)
  let (ps, s) := (distinctAccs accs).foldl one ([], s)
  (accs.filterMap fun y => ps.find? fun p => p.lane == y.lane, s)

/-- Later accesses of a thread wait for its acquires (R158, R373), and after an acquire fence for its earlier accesses, a store
until it is performed (R212). -/
def State.acqWait (s : State) (i : Issue) (ls : List Nat) : Bool :=
  i.kind == .thread && ls.any fun l => match s.thread i.warp l with
    | some t => t.acqOps.any fun o => i.before o.1 && match s.op o.1 with
      | some x => !x.performed || x.kind == .store
      | none => false
    | none => false

/-- Is a load or atomic that a thread's release fences cover still to be performed (R159)? -/
def State.relWait (s : State) (t : Thread) : Bool :=
  t.relHold.isSome && t.relOps.any fun o => ((s.op o).map fun x => !x.performed).getD false

/-- The conditions of the release fences of the threads `ls` of a warp are brought about: each write after such a fence is a
releasing write (R212); false when one must wait. -/
def State.fencesOf (s : State) (wk core : Nat) (ls : List Nat) : State × Bool :=
  ls.foldl (fun p l => match p.1.thread wk l with
    | none => p
    | some t => match t.relHold with
      | none => p
      | some sc =>
        if p.1.relWait t then (p.1, false)
        else
          let (s, ok) := p.1.release wk l core sc
          (s, p.2 && ok)) (s, true)

/-- A location written by a release at scope 1 to 4 joins the unpromoted releases of its core (R206). -/
def State.noteRelease (s : State) (core sc : Nat) (loc : Loc) (n : Nat) : State :=
  if 1 ≤ sc ∧ sc ≤ 4 then
    s.modCore core fun c => { c with unpromoted := if c.unpromoted.contains (loc, n) then c.unpromoted else
      c.unpromoted ++ [(loc, n)] }
  else s

/-- A release fence's condition is met before the thread's later writes (R212); false when one must wait. -/
def State.relFences (s : State) (i : Issue) (core : Nat) (ls : List Nat) : State × Bool :=
  if i.kind = .helper then (s, true) else s.fencesOf i.warp core ls

/-- A SWEEP or NMEM word goes on, with `k`, once the release fences of the threads `ls` are met (R215, R328). -/
def State.fenced (s : State) (i : Issue) (ls : List Nat) (k : State → State) : State :=
  match s.warp i.warp with
  | none => s
  | some w => match s.relFences i w.core ls with
    | (s, true) => k s
    | (s, false) => s.stall

/-- The threads of the issuing warp, whose fences a word that acts once waits for (DEDUCED 68). -/
def State.warpLanes (s : State) (i : Issue) : List Nat := ((s.warp i.warp).map Warp.lanes).getD []

/-- A helper names neither the stack aperture nor the on-chip map (R297). -/
def helperPlace (a : Nat) : Bool :=
  match steer a with
  | .stack _ => false
  | .onchip _ _ => false
  | _ => true

def helperPlaces (acc : List (Nat × Nat)) : Bool := acc.all fun e => helperPlace e.2

/-- The operations of an issue: one for a bundle of threads, one for each helper. -/
def State.startOps (s : State) (i : Issue) (mk : List Nat → Op) (ev : Nat → Instr) (lanes : List Nat)
    (body : State → Nat → List Nat → State) : State :=
  match i.kind with
  | .thread =>
    if lanes.isEmpty then s
    else let (id, s) := s.startOp (mk lanes); (body s id lanes).pend (ev id)
  | .helper =>
    lanes.foldl (fun s l => let (id, s) := s.startOp { mk [l] with helper := some l }; (body s id [l]).pend (ev id)) s

def State.roomFor (s : State) (i : Issue) (flag : Option Nat) (ls : List Nat) : Bool :=
  match i.kind with
  | .thread => s.flagRoom i.warp none flag
  | .helper => ls.all fun l => s.flagRoom i.warp (some l) flag

/-- The word of a load or store names registers it may name: vectors, or on the control core scalars under R370. -/
def State.withMem (s : State) (srcs dsts : List Nat) (ccOk : Bool) (k : Issue → State → State)
    (who : State → Issue → List Nat := State.acting) : State :=
  match s.iss with
  | none => s
  | some i =>
    if s.onControl i then
      if !ccOk then s.forbid i 0x25 (who s i)
      else if (srcs ++ dsts).any (63 < ·) then s.illegal 3 i.lanes
      else k i s
    else s.withRegs srcs dsts k who

/-- In deterministic mode a load finds no clean copy, so that what it reads does not depend on which copies are dropped
when (R349; DESIGN CHOICE 49). -/
def State.detLoad (s : State) (w : Warp) (t : Team) : State := if t.vals.det then s.dropClean w.core else s

/-- In deterministic mode a warp's stores are posted as they issue, so that no later load depends on when (R349; DESIGN
CHOICE 49). -/
def State.detStore (s : State) (wk : Nat) (t : Team) : State := if t.vals.det then s.postWarp wk else s

/-- The newest write of a byte that another team's access could meet, at a core's point, in its bank's queue or at its home
point; none of another device. -/
def State.newestByte (s : State) (core : Nat) (loc : Loc) : Option Byte :=
  match loc with
  | .mem .sw pa => some (s.sw.bankq.foldl (fun acc e => match e.act with
      | .write d => if e.pa ≤ pa ∧ pa < e.pa + d.length then d.getD (pa - e.pa) acc else acc
      | _ => acc) ((s.homeBytes pa 1).getD 0 0))
  | .mem _ pa => some (((tget s.m.cDirty (ckey core pa)).map (·.1)).getD ((s.homeBytes pa 1).getD 0 0))
  | .host c ha => (s.hostBytes c ha 1)[0]?
  | _ => none

/-- A store of a deterministic team keeps what it replaces, once in a round (R349; DESIGN CHOICE 49). -/
def State.keepOld (s : State) (wk core va : Nat) (loc : Loc) (n : Nat) : State :=
  match s.warp wk, (s.teamOf wk).bind (·.det) with
  | some w, some d =>
    let old := if d.undoRound = d.round then d.undo else []
    let new := (List.range n).foldl (fun t k => match tget t (va + k), s.newestByte core (loc.add k) with
      | none, some b => tset t (va + k) b
      | _, _ => t) old
    s.modTeam w.team fun x => { x with det := some { d with undo := new, undoRound := d.round } }
  | _, _ => s

/-- What a gated read in deterministic mode finds of a byte that a team whose visit is still to come has stored in this round
without the token: what stood there before (R344, R349; DESIGN CHOICE 49). -/
def State.heldOld (s : State) (t : Team) (va : Nat) : Option Byte :=
  t.det.bind fun d => s.teams.findSome? fun e =>
    if e.2.launch = t.launch ∧ t.idx < e.2.idx then
      e.2.det.bind fun x => if x.undoRound = d.round then tget x.undo va else none
    else none

/-- The bytes that lanes read, as deterministic mode fixes them. -/
def State.detParts (s : State) (t : Team) (accs : List LaneAcc) (ps : List LanePart) : List LanePart :=
  if t.det.isNone then ps
  else ps.map fun p => match accs.find? fun x => x.lane == p.lane with
    | none => p
    | some x => { p with bytes := p.bytes.mapIdx fun k b => (s.heldOld t (x.va + k)).or b }

/-- A load (R150): `addr` gives each lane's address. -/
def State.load (s : State) (srcs : List Nat) (ccOk : Bool) (d : Nat) (size : BitVec 3) (addr : State → Issue → Nat → Nat) :
    State :=
  let n := sizeBytes size
  let dsts := regRange d (sizeWords n)
  s.withMem srcs dsts ccOk fun i s =>
    let acc := (s.acting i).map fun l => (l, addr s i l)
    let ls := acc.map (·.1)
    let flag := s.flagOf i none
    if i.kind = .helper ∧ acc.any (fun e => !helperPlace e.2) then
      s.illegal 0x24 ((acc.filter fun e => !helperPlace e.2).map (·.1))
    else if !s.roomFor i flag ls || s.acqWait i ls then s.stall
    else
        s.access i n .load acc (hold := fun w t => s.gated w t true n acc) fun w t accs s =>
          let cc := w.kind == .control
          let mk (ls : List Nat) : Op := { blankOp i.warp .load with
            lanes := ls, flag := flag
            vdests := if cc then [] else ls.flatMap fun l => dsts.map fun r => (l, r)
            sdests := if cc then dsts else [] }
          s.startOps i mk (fun id => .loadDataReturn id) ls fun s id ls =>
            let (ps, s) := (s.detLoad w t).readLanes i w d size id t.ctx (accs.filter fun x => ls.contains x.lane)
            s.modOp id fun o => { o with parts := s.detParts t accs ps }

/-- LD with a vector address pair (R150). -/
def execLdVbase (f : FmtMv) (s : State) : Res :=
  .next (s.load [f.a.toNat, f.a.toNat + 1] false f.d.toNat f.size fun s i l => s.addrV i f l)

/-- LD with a scalar base (R150). -/
def execLdSbase (f : FmtMs) (s : State) : Res :=
  .next (s.load (if f.nov = 1 then [] else [f.v.toNat]) (f.nov == 1) f.d.toNat f.size fun s i l => s.addrS i f l)

/-! ### Stores -/

/-- The parts of a store: 8-byte halves of b128, except on SW memory, where all 16 bytes are one entry (R204). -/
def storeParts (loc : Loc) (data : List Byte) : List (Loc × List Byte) :=
  match loc with
  | .mem .sw _ => [(loc, data)]
  | _ => if data.length = 16 then [(loc, data.take 8), (loc.add 8, data.drop 8)] else [(loc, data)]

/-- A store by a warp into a scratchpad row that an MMG of it reads until its flag falls makes that contribution undefined
(R186). -/
def taintSpad (ms : List Mop) (wk core off n : Nat) : List Mop :=
  taint ms fun m r => m.warp == wk && m.kind == .mmg && m.core == core && decide (off < r.off + 64) && decide (r.off < off + n)

/-- The same of a warp's store or atomic at any location: through the on-chip map it can reach registers too (R185). -/
def State.taintLoc (s : State) (wk : Nat) (loc : Loc) (n : Nat) : State :=
  match loc with
  | .spad c o => { s with mops := taintSpad s.mops wk c o n }
  | .onchip c o => match onChipAt c o, s.warp wk with
    | .spad o, _ => { s with mops := taintSpad s.mops wk c o n }
    | .reg k, some w =>
      let ks := (List.range ((n + 3) / 4)).map fun i => some (k + i)
      { s with mops := taint s.mops fun m r => m.warp == wk && m.srcs.any fun x => ks.contains (w.vkey r.lane x) }
    | _, _ => s
  | _ => s

/-- A write enters the thread's buffer (R207) and may be posted; after a release fence it is a releasing write (R212). -/
def State.bufferWrite (s : State) (warp lane core op va : Nat) (loc : Loc) (data : List Byte) : State :=
  let s := ((s.taintLoc warp loc data.length).kvRaceAt loc data.length).keepOld warp core va loc data.length
  let s := match (s.thread warp lane).bind (·.relHold) with
    | some sc => s.noteRelease core sc loc data.length
    | none => s
  (storeParts loc data).foldl (fun s p =>
    let (id, s) := s.fresh
    let va := va + (p.1.key.2 - loc.key.2)
    { s with
      m := { s.m with tbuf := s.m.tbuf ++ [Wr.mk id warp none lane core op va p.1 p.2] }
      pending := s.pending ++ [.post id] }) s

/-- Merge bytes into a chunk buffer's entry of their 8-byte block, or a new one (R299). -/
def bufMerge (buf : List BufEnt) (base : Loc) (va off : Nat) (data : List Byte) (pair : Bool) : List BufEnt :=
  let put (bs : List (Option Byte)) : List (Option Byte) :=
    (List.range 8).map fun k => if off ≤ k ∧ k < off + data.length then data[k - off]? else (bs[k]?).join
  if buf.any fun e => e.loc == base then
    buf.map fun e => if e.loc = base then { e with bytes := put e.bytes, pair := e.pair || pair } else e
  else buf ++ [{ loc := base, va := va, bytes := put [], pair := pair }]

/-- The 8-byte block of a location and the offset in it. -/
def Loc.blockOf (l : Loc) : Loc × Nat :=
  match l with
  | .spad k o => (.spad k (alignDown o 8), o % 8)
  | .onchip k o => (.onchip k (alignDown o 8), o % 8)
  | .mem t p => (.mem t (alignDown p 8), p % 8)
  | .host c h => (.host c (alignDown h 8), h % 8)
  | .peer d p => (.peer d (alignDown p 8), p % 8)

/-- A helper's store enters its chunk buffer (R299). -/
def Helper.store (h : Helper) (va : Nat) (loc : Loc) (data : List Byte) : Helper :=
  let pair := data.length == 16 && (match loc with | .mem .sw _ => true | _ => false)
  let parts := if data.length = 16 then [(loc, data.take 8), (loc.add 8, data.drop 8)] else [(loc, data)]
  { h with buf := parts.foldl (fun b p =>
      let off := p.1.blockOf.2
      bufMerge b p.1.blockOf.1 (va + (p.1.key.2 - loc.key.2) - off) off p.2 pair) h.buf }

/-- A store (R150). -/
def State.store (s : State) (srcs : List Nat) (ccOk : Bool) (d : Nat) (size : BitVec 3)
    (addr : State → Issue → Nat → Nat) : State :=
  let n := sizeBytes size
  let regs := regRange d (sizeWords n)
  s.withMem (srcs ++ regs) [] ccOk fun i s =>
    let acc := (s.acting i).map fun l => (l, addr s i l)
    let ls := acc.map (·.1)
    let flag := s.flagOf i none
    let data (l : Nat) : List Byte := (wordsBytes (regs.map fun r => s.rdD i l r)).take n
    match s.warp i.warp, s.teamOf i.warp with
    | some w0, some t0 =>
      let out (a : Nat) : Bool := !helperPlace a || (t0.vals.det && match steer a with
          | .global va => !inRanges t0 w0 va n true false
          | _ => false)
      if i.kind = .helper ∧ acc.any (fun e => out e.2) then
        s.illegal 0x24 ((acc.filter fun e => out e.2).map (·.1))
      else if !s.roomFor i flag ls || s.acqWait i ls then s.stall
      else s.access i n .store acc (hold := fun w t => i.kind == .thread && s.gated w t false n acc) fun w t accs s =>
            match i.kind with
            | .thread =>
              match s.relFences i w.core ls with
              | (s, false) => s.stall
              | (s, true) =>
                s.startOps i (fun ls => { blankOp i.warp .store with lanes := ls, flag := flag })
                  (fun id => .storePerformed id) ls fun s id _ =>
                    (accs.foldl (fun s x => s.bufferWrite i.warp x.lane w.core id x.va x.loc (data x.lane)) s).detStore i.warp t
            | .helper =>
              let hs := accs.map fun x => (x.lane, ((w.helper x.lane).map fun h => h.store x.va x.loc (data x.lane)))
              let full (e : Nat × Option Helper) : Bool := match e.2 with
                | some h => 32 < h.buf.length
                | none => false
              if hs.any full then s.illegal 0x24 ((hs.filter full).map (·.1))
              else
                let s := hs.foldl (fun s e => match e.2 with
                  | some h => s.modHelper i.warp e.1 fun _ => h
                  | none => s) s
                s.startOps i (fun ls => { blankOp i.warp .store with lanes := ls, flag := flag })
                  (fun id => .storePerformed id) ls fun s _ _ => s
    | _, _ => s

/-- ST with a vector address pair (R150). -/
def execStVbase (f : FmtMv) (s : State) : Res :=
  .next (s.store [f.a.toNat, f.a.toNat + 1] false f.d.toNat f.size fun s i l => s.addrV i f l)

/-- ST with a scalar base (R150). -/
def execStSbase (f : FmtMs) (s : State) : Res :=
  .next (s.store (if f.nov = 1 then [] else [f.v.toNat]) (f.nov == 1) f.d.toNat f.size fun s i l => s.addrS i f l)

/-! ### Completion -/

/-- Words landing in a lane's registers; the control core's are scalars. -/
def State.landWords (s : State) (o : Op) (l d : Nat) (ws : List Word) : State :=
  let cc := ((s.warp o.warp).map fun w => w.kind == .control).getD false
  ((List.range ws.length).zip ws).foldl (fun s e =>
    if cc then s.setS o.warp (d + e.1) e.2 else s.landV o l (d + e.1) e.2) s

/-- An uncorrectable error in returned data: its record (kind 0x20), then a deferred trap that holds the destinations
until it is delivered (R170, R401, R425). A RET has no destination register to name: that field is free
(DESIGN CHOICE 96). A helper's is a helper trap. -/
def State.dataError (s : State) (o : Op) (ps : List LanePart) (atomic : Bool) : State :=
  match ps, s.warp o.warp, s.teamOf o.warp with
  | p :: _, some w, some t =>
    let (free, s) := if o.kind = .ret then s.freeWord else (0, s)
    let info := (if o.kind = .ret then free.toNat % 128 else p.d) + at_ p.size 7 + (if atomic then 1024 else 0)
    let (q, s) := s.readError w t p.lane p.addr info
    match o.helper with
    | some h =>
      let i : Issue := {
        warp := o.warp, kind := .helper, lanes := [h], p := 0, slot := 0, gpc := 0, pfx := none, lit := 0, consts := []
        view := none, stalled := false, trap := none, faults := [], turnOver := false, want := [], enlist := none }
      s.helperTrap i { cause := 7, pc := 0, mask := [], addr := p.addr, info := BitVec.ofNat 32 info, uerec := some q }
    | none =>
      s.modWarp o.warp fun w => { w with deferred := w.deferred ++ [{
        cause := 7, lanes := ps.map (·.lane), addrs := ps.map fun p => (p.lane, p.addr)
        info := BitVec.ofNat 32 info, uerec := some q, again := false
        dests := if o.kind = .ret then [] else
          ps.map fun p => (p.lane, p.d, sizeWords (sizeBytes (BitVec.ofNat 3 p.size))) }] }
  | _, _, _ => s

/-- The thread resumes at its return record, under the SETA and SETB it keeps (R71, R140); a packet that is a clause start
begins with a header, which sets its own. -/
def State.returnTo (s : State) (wk l : Nat) (rec : Nat) : State :=
    (s.modThread wk l fun th => { th with
      pc := 12 * bits rec 22 0, seta := BitVec.ofNat 4 (bits rec 26 23), setb := BitVec.ofNat 4 (bits rec 30 27) }).arrive wk [l]

/-- Return records have come back (R62, R140): their threads resume there; but where one names a packet outside the segment, the
RET, whose byte offset stands in each part's `d`, traps in every thread that awaits its record there, and none returns (R85,
DEDUCED 95). While the warp waits to enter its handler, such threads issue their RET again after it. -/
def State.returnAll (s : State) (o : Op) : State :=
  let rec_ (p : LanePart) : Nat := leNat (p.bytes.map fun b => b.getD 0)
  match s.warp o.warp, s.teamOf o.warp, o.parts with
  | some w, some t, p :: r =>
    if (p :: r).any fun q => decide (t.vals.codelen ≤ bits (rec_ q) 22 0) then
      let ls := (p :: r).map (·.lane)
      let s := s.modThreads o.warp ls fun th => { th with pc := p.d, depth := th.depth + 1 }
      match w.trap with
      | .entering _ => s
      | _ => s.takeTrap o.warp ls { cause := 1, pc := p.d, mask := ls, addr := 0
                                    info := BitVec.ofNat 32 (0x10 + 256 * (p.d % 12 / 4)), uerec := none }
    else (p :: r).foldl (fun s q => s.returnTo o.warp q.lane (rec_ q)) s
  | _, _, _ => s

/-- LOAD_DATA_RETURN (R150): every part has been read; the destinations are written and the flag falls. -/
def execLoadDataReturn (op : Nat) (s : State) : Res :=
  .next (match s.op op with
    | none => s
    | some o =>
      if !o.performed then s.pend (.loadDataReturn op)
      else
        let s := s.endOp op
        let bs (p : LanePart) : List Byte := p.bytes.map fun b => b.getD 0
        match o.kind with
        | .ret =>
          let s := s.returnAll o
          match o.parts.filter (·.bad) with
          | [] => s
          | ps => s.dataError o ps false
        | _ =>
          let s := (o.parts.filter fun p => !p.bad).foldl (fun s p =>
            s.landWords o p.lane p.d (loadWords (BitVec.ofNat 3 p.size) (bs p))) s
          match o.parts.filter (·.bad) with
          | [] => s
          | ps => s.dataError o ps false)

/-- An access that acquire fences at scope 5 or wider await is performed: as each completes, the clean copies of its core go
(R210, R212). -/
def State.fenceEnd (s : State) (op : Nat) : State :=
  match (s.op op).bind fun o => s.warp o.warp with
  | none => s
  | some w =>
    let waits (x : Bool) : Bool := w.threads.any fun t => t.acqOps.contains (op, x)
    let s := if waits true || waits false then s.regsAcquired ((s.op op).map (·.warp) |>.getD 0) else s
    if waits true then s.dropClean w.core else s

/-- STORE_PERFORMED (R150): no write of the store is left in a thread buffer, and no peer's answer is awaited. -/
def execStorePerformed (op : Nat) (s : State) : Res :=
  .next (match s.op op with
    | none => s
    | some _ =>
      if (s.m.tbuf.any fun w => w.op == op) || (s.sk.reqs.any fun r => match r.who with
          | .store o _ _ => o == op
          | _ => false) then s.pend (.storePerformed op)
      else (s.fenceEnd op).endOp op)

end Sys2Proof.Machine
end

