-- ==== Sys2Proof/Machine/Atom.lean ====
section
/-! DEFINITION. Atomics (R155 to R158, R210, R211), their performing points and their returns. -/

namespace Sys2Proof.Machine

/-- What an atomic op makes of `old` with operands d and e, on `w` bits (R155). Codes are those of the OP field. -/
def atomNew (code : Nat) (w64 : Bool) (old d e : Nat) : Nat :=
  let n := if w64 then 64 else 32
  let sg (x : Nat) : Int := sext n x
  let half2 (k : Nat) : Nat := roundTo (sumExact .rne
    [decodeF .bf16 (bits old (16 * k + 15) (16 * k)), decodeF .bf16 (bits d (16 * k + 15) (16 * k))]) .bf16 .rne false
  match code with
  | 0 => (old + d) % 2 ^ n
  | 1 => if sg old < sg d then old else d
  | 2 => if sg d < sg old then old else d
  | 3 => min old d
  | 4 => max old d
  | 5 => old &&& d
  | 6 => old ||| d
  | 7 => old ^^^ d
  | 8 => d
  | 9 => if old = e then d else old
  | 10 => roundTo (sumExact .rne [decodeF .f32 old, decodeF .f32 d]) .f32 .rne false
  | 11 => half2 0 + at_ (half2 1) 16
  | 12 => if d ≤ old then 0 else old + 1
  | 13 => if old = 0 ∨ d < old then d else old - 1
  | 14 => d
  | _ => old

/-- The result of an atomic performed at once at its point: the old bytes and whether they were uncorrectable. -/
structure AtomRes where
  old : List Byte
  bad : Bool

/-- RMW of a location whose point is read and written in this step (R157, R207); a location with an uncorrectable error
is left as it is (R170). Writes of it that the thread's buffer holds are posted first, and for a point above C_k the dirty
copy is pushed. -/
def State.rmwNow (s : State) (ag : Agent) (loc : Loc) (scope code : Nat) (w64 : Bool) (d e : Nat) : AtomRes × State :=
  let n := if w64 then 8 else 4
  let s := s.postWhere fun b => b.warp == ag.warp && b.lane == ag.lane && b.helper == ag.helper && b.loc.meets b.data.length loc n
  let s := if code = 15 then s else s.kvRaceAt loc n
  let new (bs : List Byte) : List Byte := leBytes n (atomNew code w64 (leNat bs) d e)
  match loc with
  | .spad c o =>
    let bs := s.spadBytes c o n
    ({ old := bs, bad := false }, s.spadWrite c o (new bs))
  | .onchip c o =>
    let bs := (List.range n).map fun k => s.onchipByte c (o + k)
    ({ old := bs, bad := false }, s.onchipWrite c o (new bs))
  | .host c ha =>
    let bs := s.hostBytes c ha n
    ({ old := bs, bad := false }, s.hostStore c ha (new bs))
  | .mem .uc pa =>
    let bs := s.homeBytes pa n
    if s.ueAt pa n then ({ old := bs, bad := true }, s)
    else ({ old := bs, bad := false }, if code = 15 then s else s.ucWrite pa (new bs))
  | .mem _ pa =>
    if scope ≤ 4 then
      let (bs, u, s) := s.readNormal ag loc pa n (some true)
      if u then ({ old := bs, bad := true }, s)
      else ({ old := bs, bad := false }, if code = 15 then s else s.coreWrite ag.core pa (new bs))
    else
      let s := s.pushBytes ag.core pa n
      let bs := s.homeBytes pa n
      let pas := (List.range n).map fun k => pa + k
      let bad := s.homeBad pas
      let s := if bad || code = 15 then s else s.homeWrite (pas.zip (new bs))
      ({ old := bs, bad := bad }, pas.foldl (fun s a => s.raiseFloor ag a (s.byteStamp a)) s)
  | .peer _ _ => ({ old := [], bad := false }, s)

/-- Remote promotion (R211): the cores other than `k` whose unpromoted releases include bytes of the location push their
dirty copies. -/
def State.promote (s : State) (k : Nat) (loc : Loc) (n : Nat) : State :=
  (s.cores.filter fun e => e.1 != k && e.2.unpromoted.any fun u => u.1.meets u.2 loc n).foldl (fun s e =>
    (s.pushCore e.1).modCore e.1 fun c => { c with unpromoted := [] }) s

/-- An acquire at a scope of 5 or wider drops the clean copies of its core (R210). -/
def State.acquireDrop (s : State) (core scope : Nat) : State := if 5 ≤ scope then s.dropClean core else s

/-- One lane of an atomic: its old value now, or an entry that brings it later. `relSc` is the scope at which its write
releases, 0 when it does not. -/
def State.atomLane (s : State) (i : Issue) (w : Warp) (op ctx code scope : Nat) (w64 acq rp : Bool) (order : BitVec 2)
    (relSc d e : Nat) (x : LaneAcc) (dst : Nat) : LanePart × State :=
  let n := if w64 then 8 else 4
  let ag := i.agent w.core x.lane
  let part (bs : List (Option Byte)) (bad : Bool) : LanePart :=
    { lane := x.lane, d := dst, size := if w64 then 5 else 4, addr := x.addr, loc := x.loc, bytes := readBack x.addr bs, bad := bad }
  let later : List (Option Byte) := List.replicate n none
  let mine (s : State) : State :=
    s.postWhere fun b => b.warp == i.warp && b.lane == x.lane && b.helper.isNone && b.loc.meets b.data.length x.loc n
  let s := if acq && rp && 6 ≤ scope then s.promote w.core x.loc n else s
  let s := s.noteRelease w.core relSc x.loc n
  match x.loc with
  | .mem .sw pa => (part later false, (mine s).enqueue pa n ctx x.va (.rmw op x.lane code w64 d e))
  | .peer dv pa =>
    let m : Msg := { blankMsg with
      paddr := pa, dst := dv, size := 2 * n, op := 2, atop := BitVec.ofNat 4 code, w64 := w64, scope := BitVec.ofNat 4 scope
      order := order, data := leBytes n d ++ leBytes n e }
    (part later false, ((mine s).skSend m ctx x.va (.part op x.lane 0)).1.peerFloor ag dv pa n)
  | _ =>
    let (r, s) := (s.taintLoc i.warp x.loc n).rmwNow ag x.loc scope code w64 d e
    (part (r.old.map some) r.bad, if acq then (s.acquireDrop w.core scope).regsAcquired i.warp else s)

/-- Bytes come back for every part of an operation that awaits them at the location of `lane`'s part; an acquire at scope 5
or wider that waited for them drops the clean copies of its core (R210). -/
def State.fillPart (s : State) (op lane : Nat) (bs : List Byte) (bad : Bool) : State :=
  match s.op op with
  | none => s
  | some o =>
    let loc := (o.parts.find? fun p => p.lane == lane).map (·.loc)
    let s := s.modOp op fun o => { o with parts := o.parts.map fun p =>
      if p.lane = lane ∨ (o.kind = .load ∧ some p.loc = loc ∧ p.bytes.any (·.isNone)) then
        { p with bytes := p.bytes.mapIdx fun k b => some (b.getD (bs.getD k 0)), bad := bad } else p }
    s.fenceEnd op

/-- Is the op performed on HOST memory (R157)? -/
def hostAtomOk (code : Nat) : Bool := code == 0 || code == 8 || code == 9

/-- An atomic (R155): `code` is its op, `order` its ORDER field. -/
def State.atom (s : State) (code : Nat) (dReg aReg : BitVec 7) (scope : BitVec 4) (order : BitVec 2) (fsel : BitVec 1) :
    State :=
  match s.iss with
  | none => s
  | some i0 =>
    let w64 := (i0.pfx.map (·.w64)).getD 0 == 1
    let rp := (i0.pfx.map (·.rp)).getD 0 == 1
    let n := if w64 then 8 else 4
    let d := dReg.toNat
    let nw := n / 4
    let acq := order.getLsbD 0
    let rel := order.getLsbD 1
    let srcs := [aReg.toNat, aReg.toNat + 1] ++
      (if code = 15 then [] else regRange d (if code = 9 then 2 * nw else nw))
    let dsts := if code = 14 then [] else regRange d nw
    if i0.kind = .helper then s.forbid i0 0x24 (s.acting i0)
    else if (w64 && d % 2 != 0) || (w64 && code == 9 && d % 4 != 0) then s.illegal 3 i0.lanes
    else s.withMem srcs dsts true fun i s =>
      let acc := (s.acting i).map fun l => (l, s.rdAddr i l aReg.toNat)
      let ls := acc.map (·.1)
      let flag := s.flagOf i (some fsel)
      let word (l k : Nat) : Nat := leNat (wordsBytes ((regRange (d + k) nw).map fun r => s.rdD i l r))
      if !s.roomFor i flag ls || s.acqWait i ls || (rel && ls.any fun l => s.unperformed i.warp l) then s.stall
      else s.access i n .atomic acc (hold := fun w t => t.vals.det && !s.holdsToken w t) (writes := code != 15) fun w t accs s =>
        match accs.filter fun x => match x.loc with
          | .host _ _ => !hostAtomOk code
          | _ => false with
        | x :: r => s.raise 0x11 ((x :: r).map (·.lane)) x.addr code
        | [] =>
          match s.relFences i w.core ls with
          | (s, false) => s.stall
          | (s, true) =>
            let rels := if rel then ls.foldl (fun p l =>
              let (s, ok) := p.1.release i.warp l w.core scope.toNat
              (s, p.2 && ok)) (s, true) else (s, true)
            if !rels.2 then rels.1.stall
            else
              let s := rels.1
              let cc := w.kind == .control
              let mk (ls : List Nat) : Op := { blankOp i.warp .atomic with
                lanes := ls, flag := flag
                vdests := if cc then [] else ls.flatMap fun l => dsts.map fun r => (l, r)
                sdests := if cc then dsts else [] }
              s.startOps i mk (fun id => .atomicReturn id) ls fun s id _ =>
                let (ps, s) := accs.foldl (fun (p : List LanePart × State) x =>
                  let relSc := if code = 15 then 0 else if rel then scope.toNat else
                    ((p.2.thread i.warp x.lane).bind (·.relHold)).getD 0
                  let (q, s) := p.2.atomLane i w id t.ctx code scope.toNat w64 acq rp order relSc (word x.lane 0)
                    (word x.lane nw) x d
                  (q :: p.1, s)) ([], s)
                let s := s.modOp id fun o => { o with parts := if code = 15 then s.detParts t accs ps.reverse else ps.reverse }
                if acq then s.modThreads i.warp ls fun t => { t with acqOps := t.acqOps ++ [(id, decide (5 ≤ scope.toNat))] }
                else s

/-- ATOM.add (R155). -/
def execAtomAdd (f : FmtAtom) (s : State) : Res := .next (s.atom 0 f.d f.a f.scope f.order f.fsel)

/-- ATOM.mins (R155). -/
def execAtomMins (f : FmtAtom) (s : State) : Res := .next (s.atom 1 f.d f.a f.scope f.order f.fsel)

/-- ATOM.maxs (R155). -/
def execAtomMaxs (f : FmtAtom) (s : State) : Res := .next (s.atom 2 f.d f.a f.scope f.order f.fsel)

/-- ATOM.minn (R155). -/
def execAtomMinn (f : FmtAtom) (s : State) : Res := .next (s.atom 3 f.d f.a f.scope f.order f.fsel)

/-- ATOM.maxn (R155). -/
def execAtomMaxn (f : FmtAtom) (s : State) : Res := .next (s.atom 4 f.d f.a f.scope f.order f.fsel)

/-- ATOM.and (R155). -/
def execAtomAnd (f : FmtAtom) (s : State) : Res := .next (s.atom 5 f.d f.a f.scope f.order f.fsel)

/-- ATOM.or (R155). -/
def execAtomOr (f : FmtAtom) (s : State) : Res := .next (s.atom 6 f.d f.a f.scope f.order f.fsel)

/-- ATOM.xor (R155). -/
def execAtomXor (f : FmtAtom) (s : State) : Res := .next (s.atom 7 f.d f.a f.scope f.order f.fsel)

/-- ATOM.xchg (R155). -/
def execAtomXchg (f : FmtAtom) (s : State) : Res := .next (s.atom 8 f.d f.a f.scope f.order f.fsel)

/-- ATOM.cas (R155). -/
def execAtomCas (f : FmtAtom) (s : State) : Res := .next (s.atom 9 f.d f.a f.scope f.order f.fsel)

/-- ATOM.fadd (R155). -/
def execAtomFadd (f : FmtAtom) (s : State) : Res := .next (s.atom 10 f.d f.a f.scope f.order f.fsel)

/-- ATOM.badd2 (R155). -/
def execAtomBadd2 (f : FmtAtom) (s : State) : Res := .next (s.atom 11 f.d f.a f.scope f.order f.fsel)

/-- ATOM.inc (R155). -/
def execAtomInc (f : FmtAtom) (s : State) : Res := .next (s.atom 12 f.d f.a f.scope f.order f.fsel)

/-- ATOM.dec (R155). -/
def execAtomDec (f : FmtAtom) (s : State) : Res := .next (s.atom 13 f.d f.a f.scope f.order f.fsel)

/-- ATOM.strel (R155): a releasing store, with no return. -/
def execAtomStrel (f : FmtAtomS) (s : State) : Res := .next (s.atom 14 f.d f.a f.scope 2 f.fsel)

/-- ATOM.ldacq (R155): an acquiring load. -/
def execAtomLdacq (f : FmtAtomS) (s : State) : Res := .next (s.atom 15 f.d f.a f.scope 1 f.fsel)

/-- ATOMIC_RETURN (R155): every lane's op has been performed; the returns are written and the flag falls. STREL, whose
operation names no destination, returns nothing. -/
def execAtomicReturn (op : Nat) (s : State) : Res :=
  .next (match s.op op with
    | none => s
    | some o =>
      if !o.performed then s.pend (.atomicReturn op)
      else
        let s := s.endOp op
        let s := if o.vdests.isEmpty && o.sdests.isEmpty then s
          else (o.parts.filter fun p => !p.bad).foldl (fun s p =>
            s.landWords o p.lane p.d (leWords (p.bytes.map fun b => b.getD 0))) s
        match o.parts.filter (·.bad) with
        | [] => s
        | ps => s.dataError o ps true)

end Sys2Proof.Machine
end

