-- ==== Sys2Proof/Machine/Sync.lean ====
section
/-! DEFINITION. Fences, waits and caches (R159, R160, R212), and the completion of their operations. -/

namespace Sys2Proof.Machine

/-- A word that acts once per bundle on the thread pipe: forbidden in a helper, and on the control core unless `ccOk`. -/
def State.once (s : State) (ccOk : Bool) (k : Issue → State → State) : State :=
  match s.iss with
  | none => s
  | some i =>
    if i.kind = .helper then s.forbid i 0x24 (s.onceLanes i)
    else if s.onControl i && !ccOk then s.forbid i 0x25 (s.onceLanes i)
    else if s.bundleActs i then k i s else s

/-- The least scope that holds both (R205). -/
def joinScope (a b : Nat) : Nat := if (a = 8 ∧ b = 9) ∨ (a = 9 ∧ b = 8) then 10 else max a b

/-- An acquire fence of a thread: later accesses wait for its earlier loads, stores and atomics, and clean copies are dropped
(R159, R212). -/
def State.fenceAcq (s : State) (wk l core scope : Nat) : State :=
  let open_ := (s.ops.filter fun o => o.warp == wk && o.lanes.contains l && o.helper.isNone && (!o.performed || o.kind == .store)).map (·.id)
  let s := s.modThread wk l fun t => { t with acqOps := t.acqOps ++ open_.map fun o => (o, decide (5 ≤ scope)) }
  (s.acquireDrop core scope).regsAcquired wk

/-- A release fence of a thread: its later writes and atomics wait for the condition of R209 (R212), and for its loads and
atomics now unperformed (R159). -/
def State.fenceRel (s : State) (wk l scope : Nat) : State :=
  let open_ := (s.ops.filter fun o => o.warp == wk && o.lanes.contains l && o.helper.isNone && !o.performed).map (·.id)
  s.modThread wk l fun t => { t with
    relOps := t.relOps ++ open_
    relHold := some (match t.relHold with
      | some x => joinScope x scope
      | none => scope) }

/-- FENCE (R159, R212): per thread. One that is both holds the thread's later accesses until its earlier ones have been
performed, so it waits for the condition of a release itself. -/
def execFence (order : BitVec 2) (scope : BitVec 4) (s : State) : Res :=
  .next (match s.iss with
    | none => s
    | some i =>
      if i.kind = .helper then s.forbid i 0x24 (s.acting i)
      else match s.warp i.warp with
        | none => s
        | some w =>
          let sc := scope.toNat
          let ls := s.acting i
          if order = 2 then ls.foldl (fun s l => s.fenceRel i.warp l sc) s
          else if order = 3 then
            let r := ls.foldl (fun p l =>
              let (s, ok) := p.1.release i.warp l w.core sc
              (s, p.2 && ok)) (s, true)
            if r.2 then ls.foldl (fun s l => (s.fenceRel i.warp l sc).fenceAcq i.warp l w.core sc) r.1 else r.1.stall
          else ls.foldl (fun s l => s.fenceAcq i.warp l w.core sc) s)

/-- OPFENCE (R159): held until the warp's register writes have landed; its scratchpad stores then reach the scratchpad. -/
def execOpfence (s : State) : Res :=
  .next (s.once false fun i s =>
    if s.ops.any fun o => o.warp == i.warp && i.before o.id && !o.vdests.isEmpty then s.stall
    else (s.m.tbuf.filter fun x => x.warp == i.warp && i.before x.id && (match x.loc with | .spad _ _ => true | _ => false)).foldl
      (fun s x => s.postWr x (s.ctxOf i.warp)) s |>.unfence i.warp)

/-- WAITF (R159): the bundle waits until every named flag reads zero. -/
def execWaitf (mask : BitVec 12) (s : State) : Res :=
  .next (match s.iss with
    | none => s
    | some i =>
      if !s.bundleActs i then s
      else
        if !s.flagsRead i mask then s.stall else if i.kind = .thread then s.regsAcquired i.warp else s)

/-- An operation that acts once for a bundle and counts on the flag its FSEL chooses. -/
def State.onceOp (s : State) (i : Issue) (fsel : BitVec 1) (kind : OpKind) (ev : Nat → Instr) : State :=
  let flag := s.flagOf i (some fsel)
  if !s.flagRoom i.warp none flag then s.stall
  else
    let (id, s) := s.startOp { blankOp i.warp kind with lanes := [i.lowest], flag := flag }
    s.pend (ev id)

/-- TLRFLUSH (R159). -/
def execTlrflush (x : BitVec 7) (fsel : BitVec 1) (s : State) : Res :=
  .next (s.withThread [x.toNat, x.toNat + 1] [] (who := State.onceLanes) fun i s =>
    if s.bundleActs i then
      s.onceOp i fsel (.tlrflush (s.rdAddr i i.lowest x.toNat)) (fun id => .tlrflushDone id)
    else s)

/-- The runs of a layout record that lie in one page each (R191). -/
def tlrRuns (addr : Nat) : List (Nat × Nat) :=
  let room := 65536 - addr % 65536
  if 192 ≤ room then [(addr, 192)] else [(addr, room), (addr + room, 192 - room)]

/-- The keys under which a core keeps what a fill of a record has read: its first part, its second, and the first again. -/
def tlrKeys (core ctx addr : Nat) : List Nat :=
  (List.range 3).map fun k => 2 ^ 100 + ((core * 64 + ctx) * 4 + k) * 2 ^ 64 + addr

/-- TLRFLUSH_DONE (R159): the core's entry is dropped, with all that a fill of it in flight has read; it waits for what such a
fill awaits from another device. -/
def execTlrflushDone (op : Nat) (s : State) : Res :=
  .next (match s.op op with
    | none => s
    | some o => match o.kind, s.warp o.warp with
      | .tlrflush a, some w =>
        let c := s.ctxOf o.warp
        let keys := tlrKeys w.core c a
        if s.sk.reqs.any fun r => match r.who with
          | .desc k => keys.contains k
          | _ => false
        then s.pend (.tlrflushDone op)
        else
          { s with
            tlrs := s.tlrs.filter fun e => !(e.core == w.core && e.ctx == c && e.addr == a)
            descs := s.descs.filter fun x => !keys.contains x.1 }.endOp op
      | _, _ => s.endOp op)

/-- The fetch blocks of a range, cut at the end of the segment (R160). -/
def blockRange (t : Team) (first n : Nat) : List Nat :=
  (List.range (min n ((t.vals.codelen + 31) / 32 - first))).map fun k => first + k

/-- IPREF (R159): the blocks are filled; filling changes timing only. -/
def execIpref (f : FmtIc) (s : State) : Res :=
  .next (s.once false fun i s =>
    s.onceOp i f.fsel (.ipref 0 (s.rdS i f.x.toNat).toNat (s.rdS i f.y.toNat).toNat (f.level == 1) false)
      (fun id => .cacheOpDone id))

/-- IPIN (R159, R160): the blocks are pinned in the scheduler's instruction cache, up to 64. -/
def execIpin (x y : BitVec 7) (s : State) : Res :=
  .next (s.once false fun i s => match s.warp i.warp with
    | none => s
    | some w => match s.team w.team with
      | none => s
      | some t =>
        let bs := blockRange t (s.rdS i x.toNat).toNat (s.rdS i y.toNat).toNat
        s.modSched w.gs fun g =>
          let new := bs.filter fun b => !g.pins.contains (w.team, b)
          { g with pins := (g.pins ++ new.map fun b => (w.team, b)).take 64 })

/-- IUNPIN (R159). -/
def execIunpin (x y : BitVec 7) (s : State) : Res :=
  .next (s.once false fun i s => match s.warp i.warp with
    | none => s
    | some w => match s.team w.team with
      | none => s
      | some t =>
        let bs := blockRange t (s.rdS i x.toNat).toNat (s.rdS i y.toNat).toNat
        s.modSched w.gs fun g => { g with pins := g.pins.filter fun p => !(p.1 == w.team && bs.contains p.2) })

/-- Aperture code of R170 for an address outside the global aperture. -/
def apertureCode (a : Nat) : Nat :=
  match steer a with
  | .global _ => 0
  | .onchip _ _ => 1
  | .stack _ => 2
  | .spad _ => 3
  | .none => 4

/-- CINV and CWB (R159, R160): whole lines of a range of global addresses. A range that runs past the end of the global
aperture reports the first address beyond it, which lies in no aperture (DESIGN CHOICE 76). -/
def State.cacheOp (s : State) (f : FmtIc) (inv : Bool) : State :=
  match s.iss with
  | none => s
  | some i0 =>
    s.withMem [f.x.toNat, f.x.toNat + 1] [] true (who := State.onceLanes) fun i s =>
      if i0.kind = .helper then s.forbid i 0x24 (s.onceLanes i)
      else if !s.bundleActs i then s
      else
        let a := s.rdAddr i i.lowest f.x.toNat
        let n := (s.rdS i f.y.toNat).toNat
        let last := a + n - 1
        if n ≠ 0 ∧ apertureCode a ≠ 0 then s.raise 2 [i.lowest] a (apertureCode a)
        else if n ≠ 0 ∧ 0x01FF_FFFF_FFFF_FFFF < last then
          s.raise 2 [i.lowest] 0x0200_0000_0000_0000 (apertureCode 0x0200_0000_0000_0000)
        else
          let lines := if n = 0 then [] else (List.range (last / 128 - a / 128 + 1)).map fun k => (a / 128 + k) * 128
          s.onceOp i f.fsel (.cache inv (f.level == 1) lines) (fun id => .cacheOpDone id)

/-- CINV (R159). -/
def execCinv (f : FmtIc) (s : State) : Res := .next (s.cacheOp f true)

/-- CWB (R159). -/
def execCwb (f : FmtIc) (s : State) : Res := .next (s.cacheOp f false)

/-- What the caches call the line at a global address: its tier-0 address, or its key in another device (R208). -/
def State.cacheKey (s : State) (ctx va : Nat) : Option Nat :=
  match s.peekLeaf ctx va with
  | some (e, pa) => if bits e 12 11 = 0 then some pa else if bits e 12 11 = 2 then some (peerKey (bits e 27 20) pa) else none
  | none => none

/-- One line written back, and dropped when `inv`: at a core's data cache, or at L2. -/
def State.lineOp (s : State) (core pa : Nat) (inv l2 : Bool) : State :=
  (blocksOf pa 128).foldl (fun s b =>
    if l2 then
      let s := s.settleBlockAll b
      if inv then s.dropHome b else s
    else
      let s := s.pushBlock core b
      if inv then s.dropCore core b else s) s

/-- CACHE_OP_DONE (R160): the lines that are mapped have been written back; the flag falls. A line that no leaf maps holds
nothing and is passed over (DESIGN CHOICE 75). -/
def execCacheOpDone (op : Nat) (s : State) : Res :=
  .next (match s.op op with
    | none => s
    | some o => match o.kind, s.warp o.warp with
      | .cache inv l2 lines, some w =>
        let c := s.ctxOf o.warp
        (lines.foldl (fun s va => match s.cacheKey c va with
          | some pa => s.lineOp w.core pa inv l2
          | none => s) s).endOp op
      | _, _ => s.endOp op)

end Sys2Proof.Machine
end

