-- ==== Sys2Proof/Machine/Sys.lean ====
section
/-! DEFINITION. System instructions and special registers (R36 to R38, R161 to R166, R347). -/

namespace Sys2Proof.Machine

/-- A warp's priority class in force (R146): the lead of its team on its scheduler runs one higher. -/
def Warp.prio (w : Warp) : Nat := if w.lead then min 15 (w.cls + 1) else w.cls

/-- A mask of the lanes of the reader's row that satisfy `p`. -/
def Warp.rowMaskOf (w : Warp) (l : Nat) (p : Nat → Thread → Bool) : Word :=
  BitVec.ofNat 32 ((List.range 32).foldl (fun m k =>
    match w.threads[l / 32 * 32 + k]? with
    | some t => if p (l / 32 * 32 + k) t then m + 2 ^ k else m
    | none => m) 0)

def lo32 (n : Nat) : Word := BitVec.ofNat 32 n

def hi32 (n : Nat) : Word := BitVec.ofNat 32 (n / 2 ^ 32)

/-- The value of special register `n` for a thread (R36); `bundle` is the set of threads it issues with. None: the number
is not in the table. -/
def State.sreg (s : State) (w : Warp) (t : Team) (l : Nat) (bundle : List Nat) (n : Nat) : Option Word :=
  let th : Option Thread := w.threads[l]?
  let ofTh (f : Thread → Word) : Option Word := some ((th.map f).getD 0)
  match n with
  | 0 => some (lo32 l)
  | 1 => some (lo32 w.k)
  | 2 => some (lo32 t.idx)
  | 3 => some (lo32 t.ctx)
  | 4 => some (lo32 w.w)
  | 5 => some (lo32 t.vals.warps)
  | 6 => some (lo32 (w.k * w.w + l))
  | 7 => some (lo32 w.core)
  | 8 => some (lo32 w.sched)
  | 9 => some (lo32 (w.core / 12))
  | 10 => some (((tget s.launches t.launch).map (·.id)).getD 0)
  | 11 => some (lo32 t.twcb)
  | 12 => some (hi32 t.twcb)
  | 13 => some (lo32 t.vals.seed)
  | 14 => some (hi32 t.vals.seed)
  | 15 => some (lo32 t.vals.spbytes)
  | 16 => ofTh fun x => lo32 x.depth
  | 17 => ofTh (·.meet)
  | 18 => ofTh (·.meetout)
  | 19 => ofTh (·.draws)
  | 20 => some (if t.vals.det then 1 else 0)
  | 21 => some (lo32 w.prio)
  | 22 => some (lo32 (w.cwin / 512))
  | 23 => some (lo32 (s.stackBase w l))
  | 24 => some (hi32 (s.stackBase w l))
  | 25 => some (lo32 t.vals.stkstride)
  | 26 => ofTh fun x => if x.inside then 1 else 0
  | 27 => ofTh fun x => lo32 x.rpc
  | 28 => some t.restarts
  | 29 => some (w.rowMaskOf l fun k _ => bundle.contains k)
  | 30 => some (w.rowMaskOf l fun _ x => !x.live)
  | 32 => some w.trapcause
  | 33 => some w.trappc
  | 34 => some (w.rowMaskOf l fun _ x => x.marked)
  | 35 => some (w.trapaddr.setWidth 32)
  | 36 => some (w.trapaddr.extractLsb' 32 32)
  | 37 => some w.trapinfo
  | 38 => some w.uerec
  | 39 => some w.helperidx
  | 40 => some w.helperchunk
  | 41 => some w.helperpc
  | 42 => some w.helperlane
  | 43 => some t.dcstatus
  | 44 => some (if w.trap = .handling then 1 else 0)
  | 45 => ofTh fun x => lo32 x.retired
  | _ => none

/-- Special register `n` as an actor of the group reads it; a helper reads as its recruiter, but for sr.helperidx (R295). -/
def State.srOf (s : State) (i : Issue) (l n : Nat) : Option Word :=
  match s.rdWarp i, s.teamOf i.warp with
  | some w, some t => match i.kind with
    | .thread => s.sreg w t l i.lanes n
    | .helper =>
      let r := (w.recruit.map (·.lane)).getD 0
      if n = 39 then some (lo32 l)
      else s.sreg w t r (w.lanesWhere fun x => x.runs &&
        ((w.threads[r]?).map fun y => y.bundle == x.bundle && y.pc == x.pc).getD false) n
  | _, _ => none

/-- A SYS word whose register is a vector (k = 0) or a scalar (k = 1): the checks both kinds share. -/
def State.withKind (s : State) (k : BitVec 1) (vs vd : List Nat) (f : Issue → State → State) : State :=
  match s.iss with
  | none => s
  | some i =>
    if k = 0 then s.withRegs vs vd f
    else if i.kind = .helper && !vd.isEmpty then s.forbid i 0x24 (s.acting i)
    else if !vd.isEmpty && !(s.acting i).isEmpty && (s.recruiter i).isSome && !s.onControl i then s.stall
    else f i s

/-- GETSR (R36, R162). -/
def execGetsr (x y : BitVec 7) (k : BitVec 1) (s : State) : Res :=
  .next (s.withKind k [] [x.toNat] fun i s =>
    if (s.srOf i i.lowest y.toNat).isNone then s.forbid i 0x21 (s.acting i)
    else if k = 0 then s.writeLanes i x.toNat fun l => (s.srOf i l y.toNat).getD 0
    else match s.leader i with
      | some l => s.setS i.warp x.toNat ((s.srOf i l y.toNat).getD 0)
      | none => s)

/-- SETSR (R36, R162): sr.drawcount in each acting thread; sr.trappc, in a handler, once. -/
def execSetsr (x y : BitVec 7) (k : BitVec 1) (s : State) : Res :=
  .next (match s.iss with
    | none => s
    | some i =>
      if i.kind = .helper then s.forbid i 0x24 (s.acting i)
      else s.withKind k [x.toNat] [] fun i s =>
        let src (l : Nat) : Word := if k = 0 then s.rdV i l x.toNat else s.rdS i x.toNat
        let handler := ((s.rdWarp i).map fun w => w.trap == .handling).getD false
        if y = 19 then
          (s.acting i).foldl (fun t l => t.modThread i.warp l fun th => { th with draws := src l }) s
        else if y = 33 ∧ handler then match s.leader i with
          | some l => s.modWarp i.warp fun w => { w with trappc := src l &&& 0xFFFF_FFFC }
          | none => s
        else if (s.srOf i i.lowest y.toNat).isNone then s.forbid i 0x21 (s.acting i)
        else s.forbid i 0x22 (s.acting i))

/-- One round of Philox after its key step (R347). -/
def philoxRound (c : Word × Word × Word × Word) (k : Word × Word) : Word × Word × Word × Word :=
  let p := 0xD2511F53 * c.1.toNat
  let q := 0xCD9E8D57 * c.2.2.1.toNat
  (hi32 q ^^^ c.2.1 ^^^ k.1, lo32 q, hi32 p ^^^ c.2.2.2 ^^^ k.2, lo32 p)

def philoxFrom : Nat → Word × Word × Word × Word → Word × Word → Word × Word × Word × Word
  | 0, c, _ => c
  | n + 1, c, k => philoxFrom n (philoxRound c k) (k.1 + 0x9E3779B9, k.2 + 0xBB67AE85)

/-- Philox-4×32-10 (R347). -/
def philox (c : Word × Word × Word × Word) (k : Word × Word) : Word × Word × Word × Word := philoxFrom 10 c k

/-- RAND (R163, R347). -/
def execRand (d : BitVec 7) (w : BitVec 2) (s : State) : Res :=
  let n := if w = 0 then 1 else if w = 1 then 2 else 4
  .next (s.withThread [] (regRange d.toNat n) fun i s =>
    let sr (l k : Nat) : Word := (s.srOf i l k).getD 0
    (s.acting i).foldl (fun t l =>
      let r := philox (sr l 19, sr l 6, sr l 2, sr l 10) (sr l 13, sr l 14)
      let ws := [r.1, r.2.1, r.2.2.1, r.2.2.2].take n
      let t := ((List.range n).zip ws).foldl (fun t e => t.wrV i l (d.toNat + e.1) e.2) t
      t.modThread i.warp l fun th => { th with draws := th.draws + 1 }) s)

/-- The count CLOCK writes for a thread (R164). -/
def State.clockOf (s : State) (i : Issue) (l : Nat) : DWord :=
  match s.rdWarp i, s.teamOf i.warp with
  | some w, some t =>
    BitVec.ofNat 64 (if t.vals.det then ((w.threads[l]?).map (·.retired)).getD 0
      else ((tget s.cores w.core).map (·.clock)).getD 0)
  | _, _ => 0

/-- CLOCK (R164). -/
def execClock (d : BitVec 7) (k : BitVec 1) (s : State) : Res :=
  .next (match s.iss with
    | none => s
    | some i =>
      if i.kind = .helper then s.forbid i 0x24 (s.acting i)
      else s.withKind k [] [d.toNat, d.toNat + 1] fun i s =>
        if k = 0 then s.writePairs i d.toNat fun l => s.clockOf i l
        else match s.leader i with
          | some l =>
            (s.setS i.warp d.toNat ((s.clockOf i l).setWidth 32)).setS i.warp (d.toNat + 1)
              ((s.clockOf i l).extractLsb' 32 32)
          | none => s)

/-- CWIN (R165); a misaligned window marks every acting lane (DESIGN CHOICE 97). -/
def execCwin (a : BitVec 7) (s : State) : Res :=
  .next (s.once true fun i s =>
    let v := (s.rdS i (a.toNat + 1) ++ s.rdS i a.toNat).toNat
    if v % 512 ≠ 0 then s.raise 4 (s.acting i) v (at_ 9 4)
    else s.modWarp i.warp fun w => { w with cwin := v })

/-- CWIN.args (R165). -/
def execCwinArgs (s : State) : Res :=
  .next (s.once true fun i s => s.modWarp i.warp fun w => { w with cwin := w.args })

/-- UERPL (R166): replacement data for the destinations an uncorrectable error left; an access with none has no word k. -/
def execUerpl (src : BitVec 7) (k : BitVec 2) (s : State) : Res :=
  .next (s.withThread [src.toNat] [] fun i s =>
    match s.rdWarp i with
    | none => s
    | some w =>
      if w.trap ≠ .handling ∨ w.trapcause ≠ 7 then s.forbid i 0x27 (s.acting i)
      else
        let d := bits w.trapinfo.toNat 6 0
        let n := if w.trapinfo.getLsbD 11 ∨ w.uedests.isEmpty then 0
          else sizeWords (sizeBytes (BitVec.ofNat 3 (bits w.trapinfo.toNat 9 7)))
        let ls := (s.acting i).filter fun l => ((w.threads[l]?).map (·.marked)).getD false
        if n ≤ k.toNat then s.illegal 3 i.lanes
        else if s.recruitHeld i ls [d + k.toNat] then s.stall
        else ls.foldl (fun t l => (t.setV i.warp l (d + k.toNat) (s.rdV i l src.toNat)).modWarp i.warp fun w =>
          { w with uerpl := (l, k.toNat) :: w.uerpl }) s)

end Sys2Proof.Machine
end

