-- ==== Sys2Proof/Machine/Launch.lean ====
section
/-! DEFINITION. Work control blocks and launches (R355 to R363), the task graph (R364), dependence counters (R365),
placement (R366, R340), deterministic rounds (R341 to R344), and the end of warps, teams and tasks (R142, R363). -/

namespace Sys2Proof.Machine

/-! ### Work control blocks -/

/-- A number with field [hi:lo] replaced by `x`. -/
def setBits (v hi lo x : Nat) : Nat := v - at_ (bits v hi lo) lo + at_ (x % 2 ^ (hi + 1 - lo)) lo

/-- The 256 bytes at a context's global address, as one number; none where it is misaligned or not mapped (DESIGN CHOICE
40). -/
def State.readWcb (s : State) (c va : Nat) : Option Nat :=
  if va % 256 ≠ 0 ∨ 2 ^ 57 ≤ va then none else (s.peekPa c va).map fun pa => leNat (s.homeBytes pa 256)

/-- The fields of R359 that a node overrides or inherits. -/
structure Eff where
  hpc : Nat
  fpol : Nat
  prio : Nat
  xblk : Nat
  help : Nat
  spbytes : Nat
  tiles : Nat
  cores : Nat
  cur : Nat
  deriving DecidableEq, Repr

def effOf (v : Nat) : Eff :=
  { hpc := bits v 287 256, fpol := bits v 21 20, prio := bits v 19 16, xblk := bits v 563 560, help := bits v 569 564
    spbytes := bits v 607 576, tiles := bits v 616 608, cores := bits v 631 624
    cur := if bits v 639 632 = 0 then 256 else bits v 639 632 }

/-- A node's effective values from its parent's and its own; none where an overridden budget exceeds the parent's (R359). -/
def Eff.over (p o : Eff) (ovr : Nat) : Option Eff :=
  let b (i : Nat) : Bool := ovr.testBit i
  let bad := (b 2 && p.xblk < o.xblk) || (b 3 && p.help < o.help) || (b 4 && p.spbytes < o.spbytes) ||
    (b 5 && p.tiles < o.tiles) || (b 6 && p.cores < o.cores) || (b 7 && p.cur < o.cur)
  if bad then none
  else some {
    hpc := if b 0 then o.hpc else p.hpc, fpol := if b 0 then o.fpol else p.fpol, prio := if b 1 then o.prio else p.prio
    xblk := if b 2 then o.xblk else p.xblk, help := if b 3 then o.help else p.help
    spbytes := if b 4 then o.spbytes else p.spbytes, tiles := if b 5 then o.tiles else p.tiles
    cores := if b 6 then o.cores else p.cores, cur := if b 7 then o.cur else p.cur }

/-- The WCBs from a PARENT link up to, and without, the context's, at most `n` nodes with the context; none for a bad
chain. The context is reached where the address maps to its WCB. -/
def State.chain (s : State) (c : Nat) (x : Ctx) : Nat → Nat → Option (List Nat)
  | 0, _ => none
  | n + 1, va =>
    if va = 0 ∨ va % 256 ≠ 0 then none
    else match s.peekPa c va with
      | none => none
      | some pa =>
        if pa = x.wcb then some []
        else
          let v := leNat (s.homeBytes pa 256)
          if bits v 7 0 = 1 then none else (s.chain c x n (bits v 127 64)).map fun l => v :: l

/-- The effective values of a WCB `v` of a context (R359). -/
def State.effective (s : State) (c : Nat) (x : Ctx) (v : Nat) : Option Eff :=
  let top := leNat (s.homeBytes x.wcb 256)
  if bits top 39 32 ≠ 255 then none
  else match s.chain c x 7 (bits v 127 64) with
    | none => none
    | some l => (v :: l).reverse.foldl (fun e n => e.bind fun p => p.over (effOf n) (bits n 39 32)) (some (effOf top))

/-- The range entries of a WCB; none for an invalid one (R346). -/
def rangesOf (v : Nat) : Option (List RangeEnt) :=
  let ent (i : Nat) : Option RangeEnt :=
    let e := bits v (1151 + 128 * i) (1024 + 128 * i)
    let r : RangeEnt := { kind := bits e 127 126, stride := bits e 119 96, size := bits e 95 64, base := bits e 63 0 }
    if r.kind = 0 then (if bits e 125 120 = 0 then some r else none)
    else if r.kind = 3 ∨ bits e 125 120 ≠ 0 ∨ r.size = 0 ∨ r.size % 64 ≠ 0 ∨ r.base % 64 ≠ 0 ∨
        (r.kind = 1 ∧ 64 * r.stride < r.size) ∨ (r.kind = 2 ∧ r.stride ≠ 0) then none
    else some r
  match ent 0, ent 1, ent 2, ent 3 with
  | some a, some b, some c, some d => some [a, b, c, d]
  | _, _, _, _ => none

/-- Reserved fields of every WCB are zero (R357). -/
def wcbReservedOk (v : Nat) : Bool :=
  bits v 1023 768 == 0 && bits v 623 617 == 0 && bits v 575 570 == 0 && bits v 63 40 == 0 && bits v 31 22 == 0 &&
    bits v 15 13 == 0

/-- Counter-table indices of a WCB lie in the context's table (R359). -/
def wcbCountersOk (v ctsize : Nat) : Bool :=
  let one (i : Nat) : Bool := i == 0xFFFF_FFFF || i < ctsize
  let w := bits v 671 640
  w % 64 == 0 && w + 64 ≤ ctsize && one (bits v 703 672) && one (bits v 735 704)

/-- Values in range, own or effective (R357). -/
def Eff.ok (e : Eff) : Bool :=
  e.fpol != 3 && e.xblk ≤ 4 && e.spbytes ≤ 2 ^ 21 && e.tiles ≤ 256 && 1 ≤ e.cores && e.cores ≤ 48

/-- The fields that every kind of WCB has lie in their ranges (R357). -/
def wcbFieldsOk (v : Nat) : Bool :=
  let teams := bits v 319 288
  let warps := bits v 559 544
  let len := bits v 223 192
  wcbReservedOk v && (effOf v).ok && bits v 9 8 != 3 && 1 ≤ teams && teams ≤ 2 ^ 20 && 1 ≤ warps &&
    warps ≤ 6144 / (32 * 2 ^ bits v 9 8) && 1 ≤ len && len ≤ 2 ^ 23 && bits v 191 128 % 384 == 0 &&
    bits v 383 320 % 512 == 0 && bits v 543 512 % 64 == 0 && 2048 ≤ bits v 543 512

inductive WcbCheck where
  | task (v : TaskVals)
  | graph (v : Nat)
  | refused (reason : Nat)
  deriving DecidableEq, Repr

/-- The values of a task WCB, or none when it fails R359. -/
def taskVals (va v : Nat) (e : Eff) (ranges : List RangeEnt) (ctsize : Nat) : Option TaskVals :=
  let ok := wcbFieldsOk v && wcbCountersOk v ctsize && e.ok && bits v 2047 1600 == 0 && bits v 1599 1536 % 256 == 0
  if !ok then none
  else some {
    wcb := va, w := 32 * 2 ^ bits v 9 8, warps := bits v 559 544, teams := bits v 319 288, code := bits v 191 128
    codelen := bits v 223 192, entry := bits v 255 224
    hpc := e.hpc, fpol := e.fpol, prio := e.prio, xblk := e.xblk, help := e.help, spbytes := e.spbytes, tiles := e.tiles
    cores := e.cores, cur := e.cur, args := bits v 383 320, seed := bits v 447 384, stkbase := bits v 511 448
    stkstride := bits v 543 512, det := v.testBit 10, grant := v.testBit 11, dctrap := v.testBit 12
    dcwin := bits v 671 640, donedc := bits v 703 672, trigdc := bits v 735 704, ranges := ranges
    teamwcb := bits v 1599 1536 }

/-- The checks of a launch (R356, R359, R346, R386). -/
def State.checkWcb (s : State) (c va : Nat) (graphOk : Bool) : WcbCheck :=
  match tget s.ctxs c, s.readWcb c va with
  | some x, some v =>
    if bits v 7 0 = 4 then
      match s.effective c x v with
      | none => .refused 3
      | some e => match rangesOf v with
        | none => if (taskVals va v e [] x.ctsize).isNone then .refused 3 else .refused 2
        | some r => match taskVals va v e r x.ctsize with
          | none => .refused 3
          | some t => .task t
    else if bits v 7 0 = 3 ∧ graphOk then
      let ok := ((s.effective c x v).map Eff.ok).getD false && wcbFieldsOk v && wcbCountersOk v x.ctsize && bits v 2047 1728 == 0 &&
        bits v 1599 1536 % 32 == 0 && 1 ≤ bits v 1631 1600 && bits v 1631 1600 ≤ 2 ^ 24 && bits v 1727 1664 % 4 == 0
      if !ok then .refused 3 else if (rangesOf v).isNone then .refused 2 else .graph v
    else .refused 1
  | _, _ => .refused 1

/-! ### Making a launch -/

inductive LaunchRes where
  | made (id : Word)
  | refused
  /-- For room, or for the instance of its graph to end. -/
  | wait (inst : Bool)
  deriving DecidableEq, Repr

/-- Launches of a context whose last team has not ended (R361). -/
def State.liveLaunches (s : State) (c : Nat) : Nat := (s.launches.filter fun e => e.2.ctx == c).length

/-- A number of the context's launches (R360). -/
def State.launchId (s : State) (c va : Nat) : Word × State :=
  match tget s.ctxs c with
  | none => (0, s)
  | some x =>
    let id := if x.nextlaunch = 0 then 1 else x.nextlaunch
    let s := s.modCtx c fun y => { y with nextlaunch := if id = 0xFFFF_FFFF then 1 else id + 1 }
    (id, match s.peekPa c va with
      | some pa => s.physWrite (pa + 92) 4 id.toNat
      | none => s)

/-- Does a word of a warp still wait to make a launch? -/
def State.stillWaits (s : State) (w : WaitLaunch) : Bool :=
  match w.by_ with
  | .word wk l pc => ((s.thread wk l).map fun t => t.runs && t.pc == pc).getD false
  | _ => true

/-- The launches of a context that began to wait before the one held at `me` (R361). -/
def State.launchAhead (s : State) (c : Nat) (me : WaitBy) : List WaitLaunch :=
  match tget s.ctxs c with
  | none => []
  | some x => (x.waiting.takeWhile fun w => w.by_ != me || me == .held).filter s.stillWaits

/-- The launch of a WCB (R360), refused, or made to wait (R361, R364), behind those `ahead` that wait for the same. `qwcb` and
`idx` name the ring entry. -/
def State.tryLaunch (s : State) (c va : Nat) (dc : Word) (node : Option (Nat × Nat)) (queue : Option Nat)
    (qwcb idx : Nat) (ahead : List WaitLaunch) : LaunchRes × State :=
  match s.checkWcb c va node.isNone with
  | .refused r => (.refused, s.ctxRecord c { kind := 2, src := 6, reason := r, wcb := qwcb, addr := idx })
  | .task v =>
    if 4096 ≤ s.liveLaunches c || ahead.any (!·.inst) then (.wait false, s)
    else
      let (id, s) := s.launchId c va
      let (k, s) := s.fresh
      (.made id, { s with launches := tset s.launches k {
        ctx := c, id := id, vals := v, dcstatus := dc, next := 0, endedTeams := 0, triggered := 0
        trigSent := false, node := node, queue := queue, token := if v.det then some (0, 1) else none } })
  | .graph v =>
    if (s.graphs.any fun e => e.2.ctx == c && e.2.wcb == va) || (ahead.any fun w => w.inst && w.wcb == va) then (.wait true, s)
    else
      let (id, s) := s.freeWord
      let (k, s) := s.fresh
      (.made id, { s with
        graphs := tset s.graphs k { ctx := c, wcb := va, paths := 1, queue := queue, todo := [bits v 1663 1632] }
        pending := s.pending ++ [.frontEndLaunch c 8] })

/-- A readying: launched, or held while the context is not resident or the launch must wait (R361, R365, R395). -/
def State.ready (s : State) (c va : Nat) (dc : Word) : State :=
  let hold (inst : Bool) : State := s.enlist c (WaitLaunch.mk .held inst va dc none none)
  if ((tget s.ctxs c).map (·.state)).getD 6 ≠ 0 then hold false
  else match s.tryLaunch c va dc none none 0 0 (s.launchAhead c .held) with
    | (.wait inst, _) => hold inst
    | (_, s) => s

/-! ### Dependence counters (R365, R373) -/

inductive DcOp where
  | dec (status : Nat)
  | add (m : Nat)
  | rdy (status : Nat)
  deriving DecidableEq, Repr

/-- One counter operation on an entry's value: the new value, and the status of the readying it makes. -/
def dcApply (e : Nat) (op : DcOp) : Nat × Option Nat :=
  let count := bits e 15 0
  let arm := bits e 31 16
  let st := bits e 47 32
  let auto := e.testBit 49
  let link := bits e 127 64
  let put (c s : Nat) : Nat := setBits (setBits e 15 0 c) 47 32 s
  match op with
  | .dec x =>
    if count = 0 then (put 0 (if st = 0 then 0xFF else st), none)
    else
      let st := if st = 0 then x else st
      if count = 1 ∧ link ≠ 0 then (put (if auto then arm else 0) 0, some st) else (put (count - 1) st, none)
  | .add m =>
    if 65535 < count + m then (put 65535 (if st = 0 then 0xFE else st), none) else (put (count + m) st, none)
  | .rdy x =>
    (put (if auto then arm else 0) 0, if link = 0 then none else some (if st = 0 then x % 65536 else st))

/-- One counter operation, at the entry's home point. -/
def State.counter (s : State) (c entry : Nat) (op : DcOp) : State :=
  match tget s.ctxs c with
  | none => s
  | some x => match s.peekPa c (x.ctbase + 16 * entry) with
    | none => s
    | some pa =>
      let e := s.physNat pa 16
      let (v, r) := dcApply e op
      let s := s.physWrite pa 16 v
      match r with
      | none => s
      | some st => s.ready c (bits e 127 64) (BitVec.ofNat 32 st)

/-- DC_DECREMENT (R365). -/
def execDcDecrement (ctx entry : Nat) (status : BitVec 16) (s : State) : Res :=
  .next (s.counter ctx entry (.dec status.toNat))

/-! ### The task graph (R364) -/

/-- Bytes of a graph's structure, at their home points. -/
def State.graphRead (s : State) (g : Graph) (va n : Nat) : Option Nat := (s.peekPa g.ctx va).map fun pa => s.physNat pa n

def State.modGraph (s : State) (k : Nat) (f : Graph → Graph) : State := { s with graphs := tmod s.graphs k f }

/-- A node's fault stops the context (REASON 4). -/
def State.graphFault (s : State) (g : Graph) : State := s.stopContext g.ctx { kind := 3, src := 6, reason := 4 }

/-- A node of a graph, with its address; none outside the node array. -/
def State.graphNode (s : State) (g : Graph) (x : Nat) : Option (Nat × Nat) :=
  match s.readWcb g.ctx g.wcb with
  | none => none
  | some v =>
    if bits v 1631 1600 ≤ x then none
    else (s.graphRead g (bits v 1599 1536 + 32 * x) 32).map fun n => (bits v 1599 1536 + 32 * x, n)

/-- Visits become due. -/
def State.visits (s : State) (k : Nat) (xs : List Nat) : State :=
  match tget s.graphs k with
  | none => s
  | some g => (s.modGraph k fun g => { g with todo := g.todo ++ xs }).pendAll (xs.map fun _ => .frontEndLaunch g.ctx 8)

/-- A waiting launch of a context is taken off the list. -/
def State.unlist (s : State) (c : Nat) (w : WaitLaunch) : State :=
  s.modCtx c fun x => { x with waiting := x.waiting.erase w }

/-- The first entry equal to `w` stands in the list as it waits now. -/
def relist (w v : WaitLaunch) : List WaitLaunch → List WaitLaunch
  | [] => []
  | x :: r => if x = w then v :: r else x :: relist w v r

/-- The launches that wait in a context are made, in the order they began to wait, while they can be (R361): what the
context holds itself is launched here; a queue entry and a LAUNCH take their turn when they are tried again. -/
def State.launchHeld (s : State) (c : Nat) : State :=
  match tget s.ctxs c with
  | none => s
  | some x => (x.waiting.foldl (fun (p : State × List WaitLaunch) w =>
      match w.by_ with
      | .held => match p.1.tryLaunch c w.wcb w.dcstatus w.node w.queue 0 0 p.2 with
        | (.wait inst, _) =>
          (p.1.modCtx c fun y => { y with waiting := relist w { w with inst := inst } y.waiting }, p.2 ++ [{ w with inst := inst }])
        | (_, s) => (s.unlist c w, p.2)
      | _ => if p.1.stillWaits w then (p.1, p.2 ++ [w]) else (p.1.unlist c w, p.2)) (s, [])).1

/-- The queues of a context are served again. -/
def State.pendQueues (s : State) (c : Nat) : State := s.pendAll ((List.range 8).map fun q => .frontEndLaunch c q)

/-- What a resident context holds is launched, and its queues are served again (R361). -/
def State.launchWaiting (s : State) (c : Nat) : State :=
  let s := s.pendQueues c
  if ((tget s.ctxs c).map (·.state)).getD 6 = 0 then s.launchHeld c else s

/-- An instance completes: its graph's DONEDC is decremented (R364). -/
def State.graphDone (s : State) (k : Nat) : State :=
  match tget s.graphs k with
  | none => s
  | some g =>
    let d := ((s.readWcb g.ctx g.wcb).map fun v => bits v 703 672).getD 0xFFFF_FFFF
    let s := { s with graphs := terase s.graphs k }
    let s := if d = 0xFFFF_FFFF then s else s.pend (.dcDecrement g.ctx d 0)
    s.launchWaiting g.ctx

/-- A path's number changes by `n - 1`; with none left the instance completes. -/
def State.succ (s : State) (k x : Nat) : State :=
  match tget s.graphs k with
  | none => s
  | some g => match s.graphNode g x, s.readWcb g.ctx g.wcb with
    | some (_, n), some v =>
      let cnt := bits n 95 64
      let s := s.modGraph k fun g => { g with paths := g.paths + cnt - 1 }
      if cnt = 0 then (if g.paths ≤ 1 then s.graphDone k else s)
      else s.visits k ((List.range cnt).map fun i =>
        (s.graphRead g (bits v 1727 1664 + 4 * (bits n 63 32 + i)) 4).getD 0xFFFF_FFFF)
    | _, _ => s.graphFault g

/-- One visit of the walker (R364). -/
def State.visit (s : State) (k x : Nat) : State :=
  match tget s.graphs k with
  | none => s
  | some g => match s.graphNode g x with
    | none => s.graphFault g
    | some (va, n) =>
      let a := bits n 63 32
      let b := bits n 95 64
      let ptr := bits n 191 128
      let branch (s : State) : State := match s.graphRead g ptr 4 with
        | none => s.graphFault g
        | some w => s.visits k [if w ≠ 0 then a else b]
      match bits n 7 0 with
      | 1 => match s.tryLaunch g.ctx ptr 0 (some (k, x)) g.queue 0 0 (s.launchAhead g.ctx .held) with
        | (.made _, s) => s
        | (.wait inst, s) => s.enlist g.ctx (WaitLaunch.mk .held inst ptr 0 (some (k, x)) g.queue)
        | (.refused, s) =>
          let s := s.modGraph k fun g => { g with paths := g.paths - 1 }
          if g.paths ≤ 1 then s.graphDone k else s
      | 2 => branch s
      | 3 => branch s
      | 4 =>
        let arr := bits n 127 112 + 1
        let full := arr = bits n 111 96
        let s := match s.peekPa g.ctx (va + 14) with
          | some pa => s.physWrite pa 2 (if full then 0 else arr)
          | none => s
        if full then s.succ k x else s.modGraph k fun g => { g with paths := g.paths - 1 }
      | 5 =>
        if b ≠ 0xFFFF_FFFF then s.visits k [b]
        else
          let s := s.modGraph k fun g => { g with paths := g.paths - 1 }
          if g.paths ≤ 1 then s.graphDone k else s
      | _ => s.graphFault g

/-- The walker makes one of the visits due in a context that is resident. -/
def State.walkStep (s : State) (c : Nat) : State :=
  if ((tget s.ctxs c).map (·.state)).getD 6 ≠ 0 then s
  else match s.graphs.find? fun e => e.2.ctx == c && !e.2.todo.isEmpty with
  | none => s
  | some (k, g) => match g.todo with
    | [] => s
    | x :: r => (s.modGraph k fun g => { g with todo := r }).visit k x

/-! ### Ends and triggers (R142, R148, R363) -/

/-- The walker gets a task node's end or trigger. -/
def State.nodeSignal (s : State) (l : Launch) (early : Bool) : State :=
  match l.node with
  | none => s
  | some (k, x) => match (tget s.graphs k).bind fun g => s.graphNode g x with
    | some (_, n) => if n.testBit 8 = early then s.succ k x else s
    | none => s

/-- TASK_TRIGGER: every thread of the task has counted. -/
def State.launchTrig (s : State) (k : Nat) : State :=
  match tget s.launches k with
  | none => s
  | some l =>
    if l.trigSent || l.triggered != l.vals.teams * l.vals.warps * l.vals.w then s
    else
      let s := s.modLaunch k fun x => { x with trigSent := true }
      let s := if l.vals.trigdc = 0xFFFF_FFFF then s else s.pend (.dcDecrement l.ctx l.vals.trigdc 0)
      s.nodeSignal l true

/-- TASK_END: the task's last team has ended. -/
def State.launchEnd (s : State) (k : Nat) : State :=
  match tget s.launches k with
  | none => s
  | some l =>
    if l.endedTeams != l.vals.teams then s
    else
      let s := { s with launches := terase s.launches k }
      let s := if l.vals.donedc = 0xFFFF_FFFF then s else s.pend (.dcDecrement l.ctx l.vals.donedc 0)
      let s := s.nodeSignal l false
      s.launchWaiting l.ctx

/-! ### Deterministic rounds (R341 to R344) -/

/-- The team of a launch with an index, if it is placed. -/
def State.teamAt (s : State) (k idx : Nat) : Option (Nat × Team) :=
  (s.teams.find? fun e => e.2.launch == k && e.2.idx == idx).map fun e => (e.1, e.2)

/-- One move of the token, if the visit it makes has ended. -/
def State.tokenMove (s : State) (k : Nat) : State :=
  match tget s.launches k with
  | none => s
  | some l => match l.token with
    | none => s
    | some (t, r) =>
      let gone := match s.teamAt k t with
        | none => true
        | some (_, tm) => match tm.det with
          | some d => d.ended || r < d.round
          | none => true
      if !gone then
        (match s.teamAt k t with
          | some (_, tm) => s.dropClean tm.core
          | none => s)
      else s.modLaunch k fun x => { x with token := some (if t + 1 = l.vals.teams then (0, r + 1) else (t + 1, r)) }

/-- The token passes every visit that has ended; it stays where every team has. -/
def State.tokenAdvance (s : State) (k : Nat) : State :=
  match tget s.launches k with
  | none => s
  | some l =>
    if s.teams.any fun e => e.2.launch == k && (match e.2.det with | some d => !d.ended | none => false) then
      (List.range (l.vals.teams + 1)).foldl (fun s _ => s.tokenMove k) s
    else s

/-- Can a warp run: it has not ended and some thread of it is RUNNABLE (R341)? -/
def State.canRun (s : State) (t : Team) (k : Nat) : Bool :=
  match (t.warps[k]?).join.bind s.warp with
  | some w => w.threads.any Thread.runs
  | none => false

/-- The writes of a team whose round ends are posted and pushed before the token moves (R349; DESIGN CHOICE 49). -/
def State.endRound (s : State) (t : Team) : State :=
  ((s.teamWarps t).foldl (fun s w => s.postWarp w) s).pushCore t.core

/-- Does what a team's next switch turns on still depend on timing: a warp that has ended and not yet given back what it held,
or a thread in HJOIN? R349 lets no result depend on when these come, so the switch waits for them (DESIGN CHOICE 49). -/
def State.unsettledTeam (s : State) (t : Team) : Bool := (s.teamWarps t).any fun wk => match s.warp wk with
  | some w => w.liveLanes.isEmpty || w.threads.any fun th => match th.st with
    | .blocked (.join _ _) => true
    | _ => false
  | none => false

/-- A deterministic team at a switching point turns to its next warp, when one can run (R341, R343). -/
def State.detSwitch (s : State) (tk : Nat) : State :=
  match s.team tk with
  | none => s
  | some t => match t.det with
    | none => s
    | some d =>
      if !d.switching || s.unsettledTeam t then s
      else
        let n := t.vals.warps
        let order := (List.range n).map fun i => (d.running + 1 + i) % n
        match order.find? fun k => s.canRun t k with
        | none => s
        | some b =>
          let ends := b ≤ d.running
          let s := if ends then s.endRound t else s
          let s := s.modTeam tk fun x => { x with det := some { d with
            running := b, switching := false, round := if ends then d.round + 1 else d.round, fresh := ends || d.fresh } }
          if ends then s.tokenAdvance t.launch else s

/-- The running warp of a deterministic team reaches a switching point. -/
def State.switchPoint (s : State) (wk : Nat) : State :=
  match s.warp wk, s.teamOf wk with
  | some w, some t => match t.det with
    | none => s
    | some d =>
      if d.running ≠ w.k then s
      else (s.modTeam w.team fun x => { x with det := some { d with switching := true } }).detSwitch w.team
  | _, _ => s

/-- May the teams of a launch begin this team's round: has every other team ended the one before (R343)? -/
def State.mayRun (s : State) (t : Team) : Bool :=
  match t.det with
  | none => true
  | some d => s.teams.all fun e => e.2.launch != t.launch || (match e.2.det with
    | some x => x.ended || d.round ≤ x.round
    | none => true)

/-- The last live thread of a warp has ended: a deterministic team switches, or is over (R341, R343). -/
def State.detExit (s : State) (wk : Nat) : State :=
  match s.warp wk, s.teamOf wk with
  | some w, some t => match t.det with
    | none => s
    | some d =>
      if !w.liveLanes.isEmpty then s
      else if (s.teamLive t).isEmpty then
        ((s.endRound t).modTeam w.team fun x => { x with det := some { d with ended := true } }).tokenAdvance t.launch
      else s.switchPoint wk
  | _, _ => s

/-! ### Ends of warps and teams -/

/-- TEAM_END: the team's last warp has ended; its resources return, and its scratchpad bytes are undefined (R142, R228). -/
def State.teamEnd (s : State) (tk : Nat) : State :=
  match s.team tk with
  | none => s
  | some t =>
    if t.warps.any (·.isSome) then s
    else
      let s := s.pushCore t.core
      let s := s.spadUndef t.core t.spbase t.vals.spbytes
      let s := { s with
        teams := terase s.teams tk
        scheds := s.scheds.map fun (e : Nat × Sched) =>
          (e.1, { e.2 with pins := e.2.pins.filter fun (p : Nat × Nat) => p.1 != tk }) }
      let s := s.modLaunch t.launch fun l => { l with endedTeams := l.endedTeams + 1 }
      let s := if t.vals.det then s.tokenAdvance t.launch else s
      (s.launchTrig t.launch).launchEnd t.launch

/-- Has every operation that a warp issued completed? -/
def State.warpIdle (s : State) (wk : Nat) : Bool :=
  !(s.ops.any fun o => o.warp == wk) && !(s.m.tbuf.any fun x => x.warp == wk) && !(s.mops.any fun m => m.warp == wk) &&
    !(s.copies.any fun c => c.warp == wk)

end Sys2Proof.Machine
end

