-- ==== Sys2Proof/Machine/Faults.lean ====
section
/-! DEFINITION. Fault batches (R381, R383 to R386): joining, opening and sending them, for warps, helpers and engines. -/

namespace Sys2Proof.Machine

/-- The page of a batch that a fault names. -/
def PageFault.page (f : PageFault) : BatchPage :=
  { base := f.base, lg := f.lg, addr := f.addr, reason := f.reason, acc := f.acc }

/-- Distinct pages, first ones kept; the access bits of a repeated page are joined. -/
def dedupPages : List BatchPage → List BatchPage
  | [] => []
  | p :: r =>
    let same (q : BatchPage) : Bool := q.base == p.base
    let acc := (r.filter same).foldl (fun a q => a ||| q.acc) p.acc
    { p with acc := acc } :: (dedupPages r).filter fun q => !same q

/-- Does a batch hold a page? -/
def Batch.holds (b : Batch) (p : BatchPage) : Bool :=
  b.pages.any fun q => q.base ≤ p.base && p.base < q.base + 2 ^ q.lg

/-- The batch of a core and context that holds a page (R383). -/
def State.batchWith (s : State) (core ctx : Nat) (p : BatchPage) : Option Batch :=
  s.tr.batches.find? fun b => b.core == core && b.ctx == ctx && b.holds p

def State.coreBatches (s : State) (core : Nat) : Nat := (s.tr.batches.filter fun b => b.core == core).length

def State.modBatch (s : State) (id : Nat) (f : Batch → Batch) : State :=
  let bs := s.tr.batches.map fun (b : Batch) => if b.id = id then f b else b
  { s with tr := { s.tr with batches := bs } }

def State.joinBatch (s : State) (id : Nat) (w : Waiter) : State :=
  s.modBatch id fun b => if b.waiters.contains w then b else { b with waiters := b.waiters ++ [w] }

/-- A batch of up to 32 pages opens, with the context's next BSEQ; its number is answered. -/
def State.newBatch (s : State) (x : SlotWait) : Nat × State :=
  let (id, s) := s.fresh
  let q := ((tget s.ctxs x.ctx).map (·.nextbseq)).getD 1
  let q := if q = 0 then 1 else q
  let s := s.modCtx x.ctx fun c => { c with nextbseq := if q = 0xFFFF_FFFF then 1 else q + 1 }
  let b : Batch := {
    id := id, ctx := x.ctx, core := x.core, bseq := q, pages := x.pages.take 32, sent := false, waiters := [x.waiter]
    src := x.src, unit := x.unit, seqKey := x.seqKey, wcb := x.wcb }
  (id, { s with tr := { s.tr with batches := s.tr.batches ++ [b] } })

/-- The records of a batch (R385), each with its unit's next sequence number. -/
def State.batchRecords (s : State) (b : Batch) : List FaultRec × State :=
  ((List.range b.pages.length).zip b.pages).foldl (fun (p : List FaultRec × State) e =>
    let (q, s) := p.2.nextSeq b.seqKey
    (p.1 ++ [{
      kind := 1, src := b.src, idx := e.1, cnt := b.pages.length, acc := e.2.acc, unit := b.unit, sseq := q.toNat
      bseq := b.bseq.toNat, reason := e.2.reason, wcb := b.wcb, addr := e.2.addr }], s)) ([], s)

/-- A batch is sent: all its records are written, then FTAIL advances (R384). It waits at its core while the ring or the
context's 4,096 pages have no room. -/
def State.sendBatch (s : State) (id : Nat) : State :=
  match s.tr.batches.find? fun b => b.id == id with
  | none => s
  | some b => match tget s.ctxs b.ctx with
    | none => s
    | some c =>
      let n := b.pages.length
      if b.sent then s
      else if 4096 < c.fpages + n || s.ringRoom c.fq < n || !c.fqueue.isEmpty then s.pend (.batchOpenDeferred b.core)
      else
        let (rs, s) := s.batchRecords b
        let s := (s.modBatch id fun b => { b with sent := true }).modCtx b.ctx fun c => { c with fpages := c.fpages + n }
        rs.foldl (fun s r => s.faultRecord b.ctx r) s

/-- A source's faulting page enters a batch (R383): the one that holds it, a new one, or one that opens when a slot frees.
`run` leaves a new batch open for a run-ahead to add pages. The batch opened is answered. -/
def State.enterBatch (s : State) (x : SlotWait) (run : Bool) : Option Nat × State :=
  match x.pages.find? fun p => (s.batchWith x.core x.ctx p).isSome with
  | some p => match s.batchWith x.core x.ctx p with
    | some b => (none, s.joinBatch b.id x.waiter)
    | none => (none, s)
  | none =>
    if 8 ≤ s.coreBatches x.core then
      let s := { s with tr := { s.tr with slotWaits := s.tr.slotWaits ++ [x] } }
      (none, s.pend (.batchOpenDeferred x.core))
    else
      let (id, s) := s.newBatch x
      (some id, if run then s else s.sendBatch id)

/-- Does a source wait for a batch or for a slot? -/
def State.waits (s : State) (w : Waiter) : Bool :=
  (s.tr.batches.any fun b => b.waiters.contains w) || s.tr.slotWaits.any fun x => x.waiter == w

/-- The batches a source waits on. -/
def State.waitingOn (s : State) (w : Waiter) : List Nat := (s.tr.batches.filter fun b => b.waiters.contains w).map (·.id)

/-- What a run-ahead begins with: registers whose results are pending read as poisoned (R382). -/
def State.pendingPoison (s : State) (wk : Nat) : List Nat :=
  (s.ops.filter fun o => o.warp == wk).flatMap fun o =>
    (o.vdests.map fun (p : Nat × Nat) => p.1 * 1024 + p.2) ++ (o.sdests.map fun n => 128 + n) ++
      o.pdests.map fun (p : Nat × Nat) => p.1 * 1024 + 192 + p.2

/-- Run-aheads under way on a scheduler: each uses one of its two checkpoints. -/
def State.checkpoints (s : State) (g : Nat) : Nat :=
  (s.warps.filter fun (e : Nat × Warp) => e.2.gs == g && (match e.2.fault with
    | .ahead _ => true
    | _ => false)).length

/-- A warp that opened a batch runs ahead, or sends it at once and waits when its scheduler has no free checkpoint
(R382). -/
def State.startAhead (s : State) (wk : Nat) (lanes : List Nat) (batch : Nat) : State :=
  match s.warp wk with
  | none => s
  | some w =>
    if 2 ≤ s.checkpoints w.gs then
      (s.modWarp wk fun w => { w with fault := .waiting lanes [batch] }).sendBatch batch
    else
      let a : Ahead := {
        lanes := lanes, batch := batch, threads := w.threads, sregs := w.sregs, cwin := w.cwin, rf := [], poison := s.pendingPoison wk
        count := 0, done := false }
      s.modWarp wk fun w => { w with fault := .ahead a }

/-- The faults of a warp's group: its pages enter a batch and the warp waits at the group, running ahead first unless the
fault is a code fetch's or a constant window's (R381 to R383). -/
def State.warpFault (s : State) (wk : Nat) (lanes : List Nat) (fs : List PageFault) (run : Bool) : State :=
  match s.warp wk, s.teamOf wk with
  | some w, some t =>
    let x : SlotWait := {
      ctx := t.ctx, core := w.core, pages := (dedupPages (fs.map PageFault.page)).take 32, waiter := .warp wk, src := w.src
      unit := w.unit, seqKey := w.seqKey, wcb := t.twcb }
    match s.enterBatch x run with
    | (some id, s) =>
      if run then s.startAhead wk lanes id else s.modWarp wk fun w => { w with fault := .waiting lanes [id] }
    | (none, s) => match s.waitingOn (.warp wk) with
      | [] => s.modWarp wk fun w => { w with fault := if run then .wantSlot lanes else .waiting lanes [] }
      | ids => s.modWarp wk fun w => { w with fault := .waiting lanes ids }
  | _, _ => s

/-- Has a batch all its pages: is no run-ahead adding to it? -/
def State.batchClosed (s : State) (id : Nat) : Bool :=
  !(s.warps.any fun (e : Nat × Warp) => match e.2.fault with
    | .ahead a => a.batch == id
    | _ => false)

/-- The lanes of the group that faulted. -/
def FaultSt.lanes : FaultSt → List Nat
  | .none => []
  | .wantSlot ls => ls
  | .ahead a => a.lanes
  | .waiting ls _ => ls

/-- A source that waited for a slot joins the batch that now holds its page, or opens its batch (R383). -/
def State.takeSlot (s : State) (x : SlotWait) : State :=
  let s := { s with tr := { s.tr with slotWaits := s.tr.slotWaits.erase x } }
  let run : Option (Nat × List Nat) := match x.waiter with
    | .warp wk => match (s.warp wk).map (·.fault) with
      | some (FaultSt.wantSlot lanes) => some (wk, lanes)
      | _ => none
    | _ => none
  let (r, s) := s.enterBatch x run.isSome
  let wait (wk : Nat) (ids : List Nat) : State := s.modWarp wk fun w => { w with fault := .waiting w.fault.lanes ids }
  match r, run, x.waiter with
  | some id, some (wk, lanes), _ => s.startAhead wk lanes id
  | some id, none, .warp wk => wait wk [id]
  | none, _, .warp wk => wait wk (s.waitingOn (.warp wk))
  | _, _, _ => s

/-- Batches that wait at a core are sent while there is room, and waiting sources take free slots in the order in which
they began to wait (R383). -/
def State.openDeferred (s : State) (core : Nat) : State :=
  let ready := s.tr.batches.filter fun b => b.core == core && !b.sent && s.batchClosed b.id
  let s := ready.foldl (fun s b => s.sendBatch b.id) s
  let mine := s.tr.slotWaits.filter fun x => x.core == core
  mine.foldl (fun (s : State) (x : SlotWait) =>
    if (x.pages.any fun p => (s.batchWith core x.ctx p).isSome) || s.coreBatches core < 8 then s.takeSlot x else s) s

/-- BATCH_OPEN_DEFERRED (R383): it comes again while sources wait. -/
def execBatchOpenDeferred (core : Nat) (s : State) : Res :=
  .next (
    let s := s.openDeferred core
    if s.tr.slotWaits.any fun x => x.core == core then s.pend (.batchOpenDeferred core) else s)

/-- RUNAHEAD_END (R382): the speculative copies are dropped, the batch is sent, and the warp waits at its faulting group. -/
def execRunaheadEnd (warp : Nat) (s : State) : Res :=
  .next (match (s.warp warp).map (·.fault) with
    | some (FaultSt.ahead a) => (s.modWarp warp fun w => { w with fault := .waiting a.lanes [a.batch] }).sendBatch a.batch
    | _ => s)

/-- A part of an engine's work faults and waits for the answer (R381). -/
def State.engineFault (s : State) (ctx core src unit wcb op part : Nat) (f : PageFault) : State :=
  let w : Waiter := .engine op part
  if s.waits w then s
  else (s.enterBatch { ctx := ctx, core := core, pages := [f.page], waiter := w, src := src, unit := unit
                       seqKey := at_ src 20 + unit, wcb := wcb } false).2

/-- The driver's reason code for a page it marked unresolvable for a part. -/
def State.engineFailed (s : State) (op part : Nat) (f : PageFault) : Option Word :=
  (s.tr.failed.find? fun e => e.1 == .engine op part && f.base ≤ e.2.1 && e.2.1 < f.base + 2 ^ f.lg).map (·.2.2)

/-- Nothing more is kept of an engine operation's failed pages. -/
def State.clearFailed (s : State) (op : Nat) : State :=
  let keep (e : Waiter × Nat × Word) : Bool := match e.1 with
    | .engine o _ => o != op
    | _ => true
  { s with tr := { s.tr with failed := s.tr.failed.filter keep } }

/-- A translated address of an engine, its fault, or its wait for the host. -/
inductive EngXlate where
  | at (loc : Loc)
  | fault (f : PageFault)
  | wait
  deriving DecidableEq, Repr

/-- Translate for an engine through a unit's TLB; `onchip` names steered places. -/
def State.engineXlate (s : State) (u : XUnit) (ctx va lane : Nat) (a : Access) : EngXlate × State :=
  match s.translate u ctx va a with
  | (.at loc, s) => (.at loc, s)
  | (.fault r base lg, s) => (.fault { lane := lane, addr := va, reason := r, acc := accOf a, base := base, lg := lg }, s)
  | (.wait, s) => (.wait, s)

end Sys2Proof.Machine
end

