-- ==== Sys2Proof/Machine/Mill.lean ====
section
/-! DEFINITION. The banks' Millstones (R216, R233 to R254): rows, classes and regions, the restore functions, the restore of a
row, the retirement of one-shot requests, and the service of a bank's queue. A row is a physical address divided by
1,024. -/

namespace Sys2Proof.Machine

/-! ### Rows (R236) -/

/-- Bank of a row, over all stacks. -/
def rowBank (row : Nat) : Nat := row / 2 ^ 26 * 1024 + row % 1024

/-- Row index within its bank. -/
def rowIdx (row : Nat) : Nat := row % 2 ^ 26 / 1024

/-- The row of a bank with an index. -/
def bankRow (bank idx : Nat) : Nat := bank / 1024 * 2 ^ 26 + idx * 1024 + bank % 1024

/-- Channel of a bank, over all stacks. -/
def bankChannel (bank : Nat) : Nat := bank / 1024 * 32 + bank % 1024 % 32

/-- Is the granule of a row live (R251)? -/
def State.liveRow (s : State) (row : Nat) : Bool := !s.sw.dead.contains (row / 64)

/-! ### Functions (R240, R241) -/

/-- Is a function code assigned? -/
def fnKnown (code : Nat) : Bool := code ≤ 12

/-- Is an assigned code allowed at the lane width? -/
def fnWidthOk (code : Nat) (lw16 : Bool) : Bool := !lw16 || !(code == 5 || code == 11 || code == 12)

/-- One bit of CRC-32C. -/
def crcBit (c : Nat) : Nat := if c % 2 = 1 then (c / 2) ^^^ 0x82F63B78 else c / 2

/-- CRC-32C of bytes, before the final XOR. -/
def crcFrom (c : Nat) : List Byte → Nat
  | [] => c
  | b :: bs =>
    let x := c ^^^ b.toNat
    crcFrom (crcBit (crcBit (crcBit (crcBit (crcBit (crcBit (crcBit (crcBit x)))))))) bs

/-- crc(row). -/
def crcRow (bs : List Byte) : Nat := crcFrom 0xFFFF_FFFF (bs.take 1020) ^^^ 0xFFFF_FFFF

/-- SATDEC2 of one word. -/
def satdec2 (k x : Nat) : Nat :=
  (List.range 16).foldl (fun v i =>
    if bits k (2 * i + 1) (2 * i) = 3 ∧ bits x (2 * i + 1) (2 * i) ≠ 0 then v - 4 ^ i else v) x

/-- One lane of a function, as a number below 2^w. -/
def fnLane (code w k0 k1 x : Nat) : Nat :=
  let k := k0 % 2 ^ w
  let t : FType := if w = 32 then .f32 else .bf16
  match code with
  | 1 => (x + k) % 2 ^ w
  | 2 => (clampInt (-(2 : Int) ^ (w - 1)) ((2 : Int) ^ (w - 1) - 1) (sext w x + sext w k) % (2 : Int) ^ w).toNat
  | 3 => x - k
  | 4 => (sext w x / (2 : Int) ^ (k0 % w) % (2 : Int) ^ w).toNat
  | 5 => satdec2 k x
  | 6 => roundNE ((decodeF t x).mul (decodeF t k)) t
  | 7 => roundNE (sumExact .rne [(decodeF t x).mul (decodeF t k), decodeF t (k1 % 2 ^ w)]) t
  | 8 => k
  | 9 => x ^^^ k
  | 10 => x &&& k
  | _ => x

/-- Every lane of `n` bytes. -/
def mapLanes (n : Nat) (f : Nat → Nat) : List Byte → List Byte
  | a :: b :: c :: d :: t =>
    (if n = 4 then leBytes 4 (f (leNat [a, b, c, d])) else leBytes 2 (f (leNat [a, b])) ++ leBytes 2 (f (leNat [c, d]))) ++
      mapLanes n f t
  | l => l

/-- A function applied to a row: its new bytes, and whether CSUM found a mismatch. -/
def applyRow (code : Nat) (lw16 : Bool) (k0 k1 : Word) (bs : List Byte) : List Byte × Bool :=
  if code = 0 then (bs, false)
  else if code = 11 then (bs, crcRow bs != leNat (bs.drop 1020))
  else if code = 12 then (bs.take 1020 ++ leBytes 4 (crcRow bs), false)
  else
    let w := if lw16 then 16 else 32
    (mapLanes (w / 8) (fnLane code w k0.toNat k1.toNat) bs, false)

/-! ### Regions and classes (R237, R239, R243, R244) -/

/-- Index within a region of a physical row, if it lies in it. -/
def Region.rowOf (r : Region) (row : Nat) : Option Nat :=
  let first := r.base / 65536
  (List.range r.pages.length).findSome? fun k =>
    if r.pages[k]? = some (row / 64 * 65536) then
      let va := (first + k) * 65536 + row % 64 * 1024
      if r.base ≤ va ∧ va < r.base + 1024 * r.rows then some ((va - r.base) / 1024) else none
    else none

/-- The region a row lies in, as its bank knows it. -/
def State.bankRegion (s : State) (row : Nat) : Option Region :=
  let b := rowBank row
  s.sw.regions.find? fun r => r.arrived.contains b && !r.left.contains b && (r.rowOf row).isSome

/-- The class R237 gives a row. -/
def State.wantClass (s : State) (row : Nat) : Nat :=
  match s.bankRegion row with
  | none => 0
  | some r => if r.period = 1 then (if s.sw.bankHot.contains (rowBank row) then 0 else 1) else r.period

/-- The class a row is restored in. -/
def State.rowClass (s : State) (row : Nat) : Nat := (tget s.sw.rowCls (rowBank row * 65536 + rowIdx row)).getD 0

def blankPos : SweepPos := { pass := 0, next := 0, begun := false }

def State.sweepPos (s : State) (bank cls : Nat) : SweepPos := (tget s.sw.pos (bank * 4 + cls)).getD blankPos

/-- The next row index of a class at or after `r`, with `n` indices to look at; rows that are not live are passed over. -/
def State.nextOfClass (s : State) (bank cls : Nat) : Nat → Nat → Option Nat
  | 0, _ => none
  | n + 1, r =>
    if 65536 ≤ r then none
    else if s.rowClass (bankRow bank r) = cls ∧ s.liveRow (bankRow bank r) then some r
    else s.nextOfClass bank cls n (r + 1)

/-! ### Error records (R254, R402) -/

/-- The context that last mapped a row's granule. -/
def State.rowOwner (s : State) (row : Nat) : Option Nat :=
  (s.tr.owners.find? fun o => o.1 ≤ row * 1024 && row * 1024 < o.1 + o.2.1).map (·.2.2)

/-- The global address of a row, as the region it lies in gives it; 0 where no region does. -/
def State.rowVa (s : State) (row : Nat) : Nat :=
  ((s.bankRegion row).map fun r => r.base + 1024 * (r.rowOf row).getD 0).getD 0

/-- A Millstone's record for a row: the context that led to it, with its address, or the row's last owner. -/
def State.millRecord (s : State) (kind row : Nat) (who : Option (Nat × Nat)) : State :=
  let (q, s) := s.nextSeq (at_ 9 20 + rowBank row)
  let (c, va) : Option Nat × Nat := match who with
    | some (c, va) => (some c, va / 1024 * 1024)
    | none => (s.rowOwner row, s.rowVa row)
  s.errorRecord c { kind := kind, src := 9, sseq := q.toNat, paddr := row * 1024, vaddr := va }

/-! ### One-shot requests (R245 to R248, R251) -/

/-- A part of a SWQ or SWURGE is done; the flag falls with the last, an acquire at stack scope (R213). -/
def State.swPart (s : State) (op : Nat) : State :=
  let dec (x : SwOp) : SwOp := match x with
    | .q o n => if o = op then .q o (n - 1) else x
    | .urge o n => if o = op then .urge o (n - 1) else x
    | _ => x
  let over0 (x : SwOp) : Bool := match x with
    | .q o n => o == op && n == 0
    | .urge o n => o == op && n == 0
    | _ => false
  let l := s.sw.ops.map dec
  if l.any over0 then { s with sw := { s.sw with ops := l.filter fun x => !over0 x } }.endOpAcq op
  else { s with sw := { s.sw with ops := l } }

/-- A request retires. -/
def State.retireShot (s : State) (x : Shot) : State :=
  { s with sw := { s.sw with shots := s.sw.shots.filter fun y => y.id != x.id } }.swPart x.op

/-- Requests pending in a bank's queue. -/
def State.bankShots (s : State) (bank : Nat) : Nat :=
  (s.sw.shots.filter fun x => x.st == .queued && rowBank x.row == bank).length

/-- A request enters its bank's queue; on a granule that is not live it retires unapplied. -/
def State.enterShot (s : State) (x : Shot) : State :=
  if s.liveRow x.row then
    { s with sw := { s.sw with shots := s.sw.shots.map fun (y : Shot) => if y.id = x.id then { y with st := .queued } else y } }
  else (s.retireShot x).millRecord 2 x.row (some (x.ctx, x.va))

/-- Staged requests of a channel enter their banks' queues, in order, as entries are free (R246). -/
def State.unstage (s : State) (channel : Nat) : State :=
  (s.sw.shots.filter fun x => x.st == .staged && bankChannel (rowBank x.row) == channel).foldl
    (fun s x => if s.bankShots (rowBank x.row) < 32 then s.enterShot x else s) s

/-! ### The restore (R233, R253) -/

def State.rowBytes (s : State) (row : Nat) : List Byte := mbytes s.m.mem (row * 1024) 1024

def State.setRow (s : State) (row : Nat) (bs : List Byte) : State := s.bankStore (row * 1024) bs

/-- A function is applied to a row; a checksum mismatch is recorded. -/
def State.applyFn (s : State) (row code : Nat) (lw16 : Bool) (k0 k1 : Word) (who : Option (Nat × Nat)) : State :=
  let (bs, bad) := applyRow code lw16 k0 k1 (s.rowBytes row)
  let s := if code = 0 ∨ code = 11 then s else s.setRow row bs
  if bad then s.millRecord 4 row who else s

/-- A pending request is applied and retires. -/
def State.applyShot (s : State) (x : Shot) : State :=
  (s.applyFn x.row x.func x.lw16 x.k0 x.k1 (some (x.ctx, x.va))).retireShot x

/-- A pending request retires unapplied at an uncorrectable error. -/
def State.refuseShot (s : State) (x : Shot) : State := (s.retireShot x).millRecord 3 x.row (some (x.ctx, x.va))

/-- The periodic function of the row's region. -/
def State.periodic (s : State) (row : Nat) : State :=
  match s.bankRegion row with
  | none => s
  | some r => s.applyFn row r.func r.lw16 r.k0 r.k1
      (some (r.ctx, s.rowVa row))

/-- The code words of a row with an uncorrectable error. -/
def State.rowUe (s : State) (row : Nat) : List (Nat × UeWord) :=
  s.m.ue.filter fun (e : Nat × UeWord) => row * 32 ≤ e.1 && e.1 < row * 32 + 32

/-- The error words of a row all carry the poison syndrome. -/
def State.poisonRow (s : State) (row : Nat) : State :=
  { s with m := { s.m with ue := s.m.ue.map fun (e : Nat × UeWord) =>
    if row * 32 ≤ e.1 ∧ e.1 < row * 32 + 32 then (e.1, { e.2 with syndrome := true }) else e } }

/-- The code words of a row are encoded anew. -/
def State.cleanRow (s : State) (row : Nat) : State :=
  { s with m := { s.m with ue := tclear s.m.ue (row * 32) (row * 32 + 32) } }

/-- The restore of a live row, by refresh or by a demand activation; `who` names the access that activated it. -/
def State.restoreRow (s : State) (row : Nat) (refresh : Bool) (who : Option (Nat × Nat)) : State :=
  let ues := s.rowUe row
  let pend := s.sw.shots.filter fun x => x.st == .queued && x.row == row
  let s := { s with m := { s.m with soft := s.m.soft.filter fun c => !(row * 32 ≤ c && c < row * 32 + 32) } }
  let owner : Option (Nat × Nat) := match who with
    | some w => some w
    | none => (s.bankRegion row).map fun r => (r.ctx, s.rowVa row)
  let fills := pend.filter fun x => x.func == 8
  let s :=
    if ues.isEmpty then
      let s := pend.foldl State.applyShot s
      if refresh then s.periodic row else s
    else
      let known := ues.all fun e => e.2.syndrome
      let s := match fills.getLast? with
        | none => (pend.foldl State.refuseShot s).poisonRow row
        | some f =>
          let before := pend.takeWhile fun x => x.id != f.id
          let from_ := pend.drop before.length
          let s := (before.foldl State.refuseShot s).cleanRow row
          let s := from_.foldl State.applyShot s
          if refresh then s.periodic row else s
      if known then s else s.millRecord 3 row owner
  let s := s.unstage (bankChannel (rowBank row))
  if refresh then { s with sw := { s.sw with
    dmd := s.sw.dmd.filter (· != row), refd := if s.sw.refd.contains row then s.sw.refd else row :: s.sw.refd } }
  else { s with sw := { s.sw with dmd := if s.sw.dmd.contains row then s.sw.dmd else row :: s.sw.dmd } }

/-! ### SERVE and RESTORE (R216, R238) -/

/-- The context an entry names, with its address. -/
def QEnt.who (e : QEnt) : Option (Nat × Nat) := e.ctx.map fun c => (c, e.va)

/-- One entry of a bank queue is performed. -/
def State.serveEnt (s : State) (e : QEnt) : State :=
  let row := e.pa / 1024
  let s := { s with sw := { s.sw with bankq := s.sw.bankq.filter fun x => x.id != e.id } }
  let who := e.who
  if !s.liveRow row then
    match e.act with
    | .read op lane => s.fillPart op lane (List.replicate e.len 0) false
    | .write _ => s.millRecord 1 row who
    | .rmw op lane _ _ _ _ => (s.fillPart op lane (List.replicate e.len 0) false).millRecord 1 row who
    | .urge op _ => s.swPart op
  else
    let old := mbytes s.m.mem e.pa e.len
    let ue := s.ueAt e.pa e.len
    match e.act with
    | .read op lane => (s.fillPart op lane old ue).restoreRow row false who
    | .write data =>
      (s.bankStore e.pa data).restoreRow row false who
    | .rmw op lane code w64 d x =>
      let s := s.fillPart op lane old ue
      let s := if ue ∨ code = 15 then s
        else s.bankStore e.pa (leBytes e.len (atomNew code w64 (leNat old) d x))
      s.restoreRow row false who
    | .urge op _ => (s.restoreRow row false who).swPart op

/-- The oldest entry of a row. -/
def State.oldestEnt (s : State) (row : Nat) : Option QEnt := s.sw.bankq.find? fun x => x.pa / 1024 == row

/-- SERVE (R216): an entry that is the oldest of its row is performed. -/
def execServe (ent : Nat) (s : State) : Res :=
  .next (match s.sw.bankq.find? fun x => x.id == ent with
    | none => s
    | some e => if ((s.oldestEnt (e.pa / 1024)).map (·.id)) = some ent then s.serveEnt e else s.pend (.serve ent))

/-- Every entry that has arrived for a row is served. -/
def State.serveRow (s : State) (row : Nat) : State :=
  (s.sw.bankq.filter fun x => x.pa / 1024 == row).foldl (fun s e => s.serveEnt e) s

/-- A pass of a class begins at a bank: T_b takes effect with class 0, and rows move into the class (R237, R239). -/
def State.beginPass (s : State) (bank cls : Nat) : State :=
  let s := if cls ≠ 0 then s
    else
      let others := s.sw.bankHot.filter (· != bank)
      let hot := if s.sw.hot.contains (bank / 1024) then others ++ [bank] else others
      { s with sw := { s.sw with bankHot := hot } }
  let listed := s.sw.rowCls.filterMap fun (e : Nat × Nat) => if e.1 / 65536 = bank then some (e.1 % 65536) else none
  let regional := s.sw.regions.flatMap fun r => r.pages.flatMap fun pa =>
    (List.range 64).filterMap fun i => if rowBank (pa / 1024 + i) = bank then some (rowIdx (pa / 1024 + i)) else none
  let moves := (dedup (listed ++ regional)).filter fun r =>
    s.wantClass (bankRow bank r) == cls && s.rowClass (bankRow bank r) != cls
  let put (t : Tab Nat) (r : Nat) : Tab Nat :=
    if cls = 0 then terase t (bank * 65536 + r) else tset t (bank * 65536 + r) cls
  let cs := moves.foldl put s.sw.rowCls
  let refd := s.sw.refd.filter fun x => !(rowBank x == bank && moves.contains (rowIdx x))
  { s with sw := { s.sw with rowCls := cs, refd := refd } }

/-- A pass of a class ends at a bank (R238): its number grows, and no row of the class has had its restore in the next. -/
def State.endPass (s : State) (bank cls : Nat) : State :=
  { s with sw := { s.sw with
    pos := tset s.sw.pos (bank * 4 + cls) { pass := (s.sweepPos bank cls).pass + 1, next := 0, begun := false }
    refd := s.sw.refd.filter fun x => !(rowBank x == bank && s.rowClass x == cls) } }

/-- Does any row of a bank belong to a class, live or not? -/
def State.holdsClass (s : State) (bank cls : Nat) : Nat → Bool
  | 0 => false
  | n + 1 => s.rowClass (bankRow bank n) == cls || s.holdsClass bank cls n

/-- The refresh restore of the row at a class's sweep position (R216, R238). A position that has gone past the last row of its
class ends that pass first, and begins the next; one that finds every row of its class not live passes over them all. -/
def State.refresh (s : State) (bank cls : Nat) : State :=
  let p := s.sweepPos bank cls
  let s := if p.begun = true ∧ s.nextOfClass bank cls 65536 p.next = none then s.endPass bank cls else s
  let p := s.sweepPos bank cls
  let s := if p.begun then s else s.beginPass bank cls
  let put (s : State) (q : SweepPos) : State := { s with sw := { s.sw with pos := tset s.sw.pos (bank * 4 + cls) q } }
  match s.nextOfClass bank cls 65536 p.next with
  | none => if s.holdsClass bank cls 65536 then s.endPass bank cls else put s { p with next := 0, begun := false }
  | some r => put (s.restoreRow (bankRow bank r) true none) { pass := p.pass, next := r + 1, begun := true }

/-- A read of SW memory by an engine: one entry that arrives and is served at once. The bytes, and whether an uncorrectable
code word was read. -/
def State.swRead (s : State) (pa n : Nat) (who : Option (Nat × Nat)) : List Byte × Bool × State :=
  let row := pa / 1024
  let s := s.serveRow row
  if s.liveRow row then
    let bs := mbytes s.m.mem pa n
    let ue := s.ueAt pa n
    (bs, ue, s.restoreRow row false who)
  else (List.replicate n 0, false, s)

/-! ### Accesses from outside the cores (R202, R413) -/

/-- Rows that a range of addresses touches. -/
def rowsOf (a n : Nat) : List Nat := if n = 0 then [] else (List.range ((a + n - 1) / 1024 - a / 1024 + 1)).map fun i => a / 1024 + i

/-- Is a row SW memory as its bank knows: in a region, or named by pending requests? -/
def State.swRow (s : State) (row : Nat) : Bool := (s.bankRegion row).isSome || s.sw.shots.any fun x => x.row == row

/-- Bytes of one row, and whether an uncorrectable code word was read; `ctx` is the context that the access names, if any. -/
def State.swRowRead (s : State) (row lo n : Nat) (ctx : Option Nat) : List Byte × Bool × State :=
  if s.swRow row then s.swRead lo n (ctx.map fun c => (c, s.rowVa row))
  else (s.homeBytes lo n, s.homeBadAt lo n, s)

/-- A read from outside the core: the rows of SW memory it touches are activated; its data leaves the device. -/
def State.outsideRead (s : State) (ctx : Option Nat) (a n : Nat) : List Byte × Bool × State :=
  (rowsOf a n).foldl (fun (p : List Byte × Bool × State) row =>
    let lo := max a (row * 1024)
    let hi := min (a + n) (row * 1024 + 1024)
    let (bs, u, s) := p.2.2.swRowRead row lo (hi - lo) ctx
    (p.1 ++ bs, p.2.1 || u, s)) ([], false, s)

/-- A write from outside the core at the home points of its blocks, or as entries of the bank queues; `host` says that it came
over a host link (R389). -/
def State.outsideWrite (s : State) (ctx : Option Nat) (a : Nat) (data : List Byte) (host : Bool) : State :=
  (blocksOf a data.length).foldl (fun s b =>
    let lo := max a (b * 8)
    let hi := min (a + data.length) (b * 8 + 8)
    let bs := (data.drop (lo - a)).take (hi - lo)
    if s.swRow (lo / 1024) then s.enqueue lo bs.length ctx (s.rowVa (lo / 1024)) (.write bs) host
    else s.homeWrite (((List.range bs.length).zip bs).map fun e => (lo + e.1, e.2))) s

end Sys2Proof.Machine
end

