-- ==== Sys2Proof/Machine/Place.lean ====
section
/-! DEFINITION. Placement of teams (R13, R28, R31, R36, R173, R223, R228, R340, R362, R366), their return after a
pre-emption (R33, R396), the streamer's move (R367, R368), and the queue front end (R355, R356, R408). -/

namespace Sys2Proof.Machine

/-! ### Free resources of a core -/

/-- Slots of a scheduler reserved for helpers, each with a helper context (R308). -/
def State.reservedSlots (s : State) (g : Nat) : List Nat :=
  s.teams.flatMap fun e => (e.2.reserved.filter fun p => p.1 == g).map (·.2)

/-- Thread slots of a scheduler in use: by warps, by reservation (R308), and by helpers (R289). -/
def State.usedSlots (s : State) (g : Nat) : List Nat :=
  dedup (s.warps.flatMap fun e =>
      (if e.2.gs = g ∧ e.2.kind = .normal then regRange e.2.slot e.2.w else []) ++
      (match e.2.recruit with
        | some r => if e.2.gs = g then r.helpers.map (·.slot) else []
        | none => [])) ++
    s.reservedSlots g

/-- Units of the extended pool of a scheduler in use: offset and bytes. -/
def State.poolUsed (s : State) (g : Nat) : List (Nat × Nat) :=
  s.warps.flatMap fun e => if e.2.gs = g then e.2.ext.map fun b => (b.2 * 64 * e.2.w, 64 * e.2.w) else []

/-- Pool offsets, in units of 64 × W bytes, at which a block of a warp of W threads fits. -/
def State.poolFree (s : State) (g w : Nat) : List Nat :=
  let used := s.poolUsed g
  (List.range (131072 / (64 * w))).filter fun o =>
    used.all fun u => u.1 + u.2 ≤ o * 64 * w || (o + 1) * 64 * w ≤ u.1

/-- Core tiles that no team maps. -/
def State.freeTiles (s : State) (core : Nat) : List Nat :=
  let used := s.teams.flatMap fun e => if e.2.core = core then e.2.tiles.map (·.2) else []
  (List.range 512).filter fun t => !used.contains t

def roundKiB (n : Nat) : Nat := ceilDiv n 1024 * 1024

/-- The lowest free 1,024-aligned scratchpad range of `n` bytes (R228); that of a discarded team is free once the copies of
its context have drained (R395). -/
def State.spadGap (s : State) (core n : Nat) : Option Nat :=
  let of (t : Team) : Option (Nat × Nat) := if t.core = core then some (t.spbase, roundKiB t.vals.spbytes) else none
  let used := s.teams.filterMap (fun e => of e.2) ++ s.saves.flatMap fun (e : Nat × Save) => e.2.draining.filterMap of
  let starts := 0 :: used.map fun u => u.1 + u.2
  minNat? (starts.filter fun a => a + roundKiB n ≤ 2 ^ 21 &&
    used.all fun u => u.2 == 0 || n == 0 || a + roundKiB n ≤ u.1 || u.1 + u.2 ≤ a)

/-- Slot bases for `n` more warps of W threads on a scheduler. -/
def slotBases (used : List Nat) (w : Nat) : Nat → List Nat → List Nat
  | 0, _ => []
  | _, [] => []
  | n + 1, b :: bs =>
    if (regRange b w).any fun j => used.contains j then slotBases used w (n + 1) bs else b :: slotBases used w n bs

/-- Where a team fits on a core: first scheduler, and scheduler and slot base of each warp (R366). -/
def State.placeFit (s : State) (v : TaskVals) (core : Nat) : Option (Nat × List (Nat × Nat)) :=
  let used (i : Nat) : List Nat := s.usedSlots (core * 6 + i)
  let free := (List.range 6).map fun i => 1024 - (used i).length
  let best := free.foldl max 0
  let first := ((List.range 6).find? fun i => free.getD i 0 == best).getD 0
  let share (i : Nat) : Nat := ((List.range v.warps).filter fun k => (first + k) % 6 == i).length
  let bases := (List.range 6).map fun i =>
    slotBases (used i) v.w (share i) ((List.range (1024 / v.w)).map fun b => b * v.w)
  let fits := (List.range 6).all fun i =>
    let n := share i
    n == 0 || (
      (bases.getD i []).length == n && v.xblk * n ≤ (s.poolFree (core * 6 + i) v.w).length &&
      (v.tiles == 0 || !(s.warps.any fun e => e.2.gs == core * 6 + i &&
        (((s.team e.2.team).map fun t => t.vals.tiles != 0).getD false))) &&
      (!v.det || (min v.help 32 + n * v.w ≤ free.getD i 0 &&
        (s.reservedSlots (core * 6 + i)).length + min v.help 32 ≤ 32)))
  if fits then some (first, (List.range v.warps).map fun k =>
    let i := (first + k) % 6
    (i, ((bases.getD i [])[k / 6]?).getD 0))
  else none

/-- May a team of launch `k` be placed on a core (R340, R366)? -/
def State.coreFits (s : State) (k : Nat) (v : TaskVals) (core : Nat) : Bool :=
  let here := s.teams.filter fun e => e.2.core == core && e.2.launch != 0
  let mine := dedup ((s.teams.filter fun e => e.2.launch == k).map fun e => e.2.core)
  let field := core / 12
  (tget s.cores core).isSome && here.length < 16 && v.tiles ≤ (s.freeTiles core).length &&
    (s.spadGap core v.spbytes).isSome &&
    here.all (fun e => e.2.launch == k || (!v.det && !e.2.vals.det)) &&
    (mine.contains core || (mine.length < v.cores &&
      (mine.filter fun c => c / 12 == field).length < ceilDiv (12 * v.cur) 256)) &&
    16 * s.mg.current.getD field 0 < 15 * s.mg.fldlim.getD field 0 &&
    (s.placeFit v core).isSome

/-- The core placement takes: of the field with the lowest averaged current, the lowest index (R366). -/
def State.placeCore (s : State) (k : Nat) (v : TaskVals) : Option Nat :=
  let fit := (s.cores.map (·.1)).filter fun c => s.coreFits k v c
  let cur (c : Nat) : Nat := s.mg.current.getD (c / 12) 0
  match fit with
  | [] => none
  | c :: r => some (r.foldl (fun b x => if cur x < cur b then x else b) c)

/-! ### Placing -/

/-- The team WCB's contents (R362). -/
def teamWcb (v : Nat) (t : TaskVals) (core first spbase : Nat) : Nat :=
  let v := setBits (setBits (setBits v 7 0 5) 127 64 t.wcb) 39 32 255
  let v := setBits (setBits (setBits v 287 256 t.hpc) 21 20 t.fpol) 19 16 t.prio
  let v := setBits (setBits (setBits v 563 560 t.xblk) 569 564 t.help) 607 576 t.spbytes
  let v := setBits (setBits (setBits v 616 608 t.tiles) 631 624 t.cores) 639 632 (t.cur % 256)
  let v := setBits v 2047 1536 0
  setBits v 1543 1536 core + at_ first 1544 + at_ spbase 1568 + at_ t.spbytes 1600 + at_ (2 ^ 256 - 1) 1664

/-- The device writes the placement of a team into its WCB: whole at launch, the placement fields alone at a restart (R362, R367). -/
def State.writeTeamWcb (s : State) (c : Nat) (t : TaskVals) (twcb core first spbase : Nat) (whole : Bool) : State :=
  match s.peekPa c twcb, s.readWcb c t.wcb with
  | some pa, some v =>
    if whole then s.physWrite pa 256 (teamWcb v t core first spbase)
    else
      let old := s.physNat pa 256
      s.physWrite pa 256 (setBits (setBits (setBits old 1543 1536 core) 1546 1544 first) 1599 1568 spbase)
  | _, _ => s

def freshThread (pc : Nat) (preds : BitVec 7) : Thread :=
  { st := .runnable, pc := pc, bundle := 0, passover := 0, depth := 0, meet := 0, meetout := 0, preds := preds, draws := 0
    inside := false, rpc := 0, rdepth := 0, rdraws := 0, retired := 0, idemAt := 0, seta := 15, setb := 15, ssa := 15, ssb := 15
    wait := 0, due := false, freed := false, marked := false, handling := false, triggered := false, relHold := none, relOps := []
    acqOps := [] }

/-- A warp at launch (R31, R36). -/
def freshWarp (kind : WarpKind) (team core sched k slot w : Nat) (v : TaskVals) (epoch : Nat) : Warp :=
  { kind := kind, team := team, core := core, sched := sched, k := k, slot := slot, w := w, cls := v.prio, lead := false
    threads := (List.range w).map fun l => freshThread (12 * v.entry) (Config.undefPreds epoch l)
    sregs := [], epoch := epoch, flags := List.replicate 12 0, cwin := v.args, args := v.args, ext := []
    trapcause := 0, trappc := 0, trapaddr := 0, trapinfo := 0, uerec := 0, helperidx := 0, helperchunk := 0
    helperpc := 0, helperlane := 0, trap := .idle, deferred := [], uerpl := [], uedests := [], recruit := none
    fault := .none, failed := [], yielded := false, dcPending := false, turn := none }

/-- What a thread is after a restart (R33); one that was EXITED or KILLED stays so. Its writes still follow its release fences
(R212). -/
def restartThread (o : Thread) (preds : BitVec 7) : Thread :=
  let f := freshThread (12 * o.rpc) preds
  if o.live then
    { f with depth := o.rdepth, draws := o.rdraws, inside := true, rpc := o.rpc, rdepth := o.rdepth, rdraws := o.rdraws
             retired := o.retired, triggered := o.triggered, relHold := o.relHold }
  else { o with preds := preds, meet := 0, meetout := 0 }

/-- Extended blocks for a warp, recorded block numbers to pool offsets; their registers are undefined. -/
def State.grantBlocks (s : State) (wk : Nat) (bs : List Nat) : State :=
  match s.warp wk with
  | none => s
  | some w =>
    let need := bs.filter fun b => (tget w.ext b).isNone
    (need.zip (s.poolFree w.gs w.w)).foldl (fun s e =>
      let s := s.modWarp wk fun w => { w with ext := tset w.ext e.1 e.2 }
      s.undefRegs (w.gs * 131072 + 65536 + e.2 * 16 * w.w) (w.gs * 131072 + 65536 + (e.2 + 1) * 16 * w.w)) s

/-- Tiles for a team, mapped to free core tiles and zero-filled (R200). -/
def State.grantTiles (s : State) (tk : Nat) (ts : List Nat) : State :=
  match s.team tk with
  | none => s
  | some t =>
    let need := ts.filter fun x => (tget t.tiles x).isNone
    (need.zip (s.freeTiles t.core)).foldl (fun s e =>
      (s.modTeam tk fun t => { t with tiles := tset t.tiles e.1 e.2 }).tileZero t.core e.2) s

/-- Put one warp of a team on a core. Its trap registers read zero, at a restart too (R33, R399; DESIGN CHOICE 103). -/
def State.addWarp (s : State) (tk core : Nat) (v : TaskVals) (k : Nat) (place : Nat × Nat) (old : Option Warp)
    (dcTrap : Bool) : State :=
  let (wk, s) := s.fresh
  let (e, s) := s.fresh
  let w := freshWarp .normal tk core place.1 k place.2 v.w v (e + 1)
  let w := { w with dcPending := dcTrap }
  let w := match old with
    | none => w
    | some o =>
      let ts := (List.range v.w).map fun l =>
        restartThread ((o.threads[l]?).getD (freshThread 0 0)) (Config.undefPreds (e + 1) l)
      { w with threads := ts }
  let s := { s with warps := tset s.warps wk w }
  let s := s.undefRegs (w.gs * 131072 + place.2 * 64) (w.gs * 131072 + (place.2 + v.w) * 64)
  let s := s.modTeam tk fun t => { t with warps := t.warps.set k (some wk) }
  if w.liveLanes.isEmpty then s.pend (.warpEnd wk) else s

/-- The lead on each scheduler is the team's lowest-indexed warp there (R146); a deterministic team has none (DESIGN CHOICE 108). -/
def State.setLeads (s : State) (tk : Nat) : State :=
  match s.team tk with
  | none => s
  | some t =>
    if t.vals.det then s
    else
      let ws := s.teamWarps t
      ws.foldl (fun s wk => match s.warp wk with
        | none => s
        | some w =>
          let first := ws.find? fun x => ((s.warp x).map (·.sched)) == some w.sched
          if first = some wk then s.modWarp wk fun w => { w with lead := true } else s) s

/-- Slots reserved for helpers on the schedulers of a deterministic team (R308). -/
def State.reserveHelpers (s : State) (tk : Nat) : State :=
  match s.team tk with
  | none => s
  | some t =>
    if !t.vals.det then s
    else
      let gs := dedup ((s.teamWarps t).filterMap fun wk => (s.warp wk).map Warp.gs)
      let rs := gs.flatMap fun g =>
        let used := s.usedSlots g
        (((List.range 1024).filter fun j => !used.contains j).take (min t.vals.help 32)).map fun j => (g, j)
      s.modTeam tk fun t => { t with reserved := rs }

/-- Writes to other devices that a team's warps have sent are its warps' after a restart too (R209, R414). -/
def State.takeStores (s : State) (old new : List (Option Nat)) : State :=
  let heir (w : Nat) : Nat := (((old.zip new).find? fun e => e.1 == some w).bind (·.2)).getD w
  { s with sk := { s.sk with reqs := s.sk.reqs.map fun r => match r.who with
    | .store op w l => { r with who := .store op (heir w) l }
    | _ => r } }

/-- Put a team on a core where it fits: its memory, its WCB, its warps; `old` is what a pre-emption saved of it. No clean copy
of the core is older than what its threads have read or written (R206): all are dropped. -/
def State.placeTeam (s : State) (k idx core : Nat) (old : Option (Team × List (Option Warp))) : State :=
  match tget s.launches k with
  | none => s
  | some l =>
    let v := l.vals
    match s.placeFit v core, s.spadGap core v.spbytes with
    | some (first, places), some sp =>
      let twcb := v.teamwcb + 256 * idx
      let tix := ((List.range 16).find? fun i => !(s.teams.any fun e => e.2.core == core && e.2.launch != 0 && e.2.tindex == i)).getD 0
      let (tk, s) := s.fresh
      let live (k : Nat) : Bool := match old with
        | none => true
        | some (_, ws) => (ws[k]?).join.isSome
      let run := match old with
        | none => 0
        | some (_, ws) => ((List.range v.warps).find? fun k => match (ws[k]?).join with
          | some w => w.threads.any Thread.live
          | none => false).getD 0
      let t : Team := {
        ctx := l.ctx, launch := k, idx := idx, vals := v, twcb := twcb, core := core, first := first, spbase := sp
        tiles := [], bars := [], restarts := match old with | some (o, _) => o.restarts + 1 | none => 0
        dcstatus := match old with | some (o, _) => o.dcstatus | none => l.dcstatus
        warps := List.replicate v.warps none
        ended := match old with | some (o, _) => o.ended | none => []
        det := if v.det then (match old with
          | some (o, _) => (o.det.map fun d => { d with running := run, switching := false })
          | none => some { running := 0, round := 1, fresh := false, switching := false, ended := false, undo := [], undoRound := 0 }) else none
        recTiles := match old with | some (o, _) => o.recTiles | none => []
        recExt := match old with | some (o, _) => o.recExt | none => []
        reserved := [], tindex := tix }
      let s := { s with teams := tset s.teams tk t }
      let s := s.spadZero core sp (roundKiB v.spbytes)
      let trap := v.dctrap && old.isNone && t.dcstatus != 0
      let s := (List.range v.warps).foldl (fun s k =>
        if live k then s.addWarp tk core v k ((places[k]?).getD (0, 0)) ((old.map fun o => (o.2[k]?).join).join) trap
        else s) s
      let s := match old with
        | none => s
        | some (o, _) =>
          let s := (s.grantTiles tk o.recTiles).takeStores o.warps (((s.team tk).map fun (x : Team) => x.warps).getD [])
          (List.range v.warps).foldl (fun s k => match ((s.team tk).bind fun (t : Team) => (t.warps[k]?).join) with
            | some wk => s.grantBlocks wk (((o.recExt[k]?).getD []).map fun (b : Nat × Nat) => b.1)
            | none => s) s
      let s := (s.setLeads tk).reserveHelpers tk
      let s := if v.tiles = 0 then s else { s with qarrays := places.foldl (fun q (p : Nat × Nat) =>
        (List.range 4).foldl (fun q i => terase q ((core * 6 + p.1) * 4 + i)) q) s.qarrays }
      (s.dropClean core).writeTeamWcb l.ctx v twcb core first sp old.isNone
    | _, _ => s

/-- A launch's next team in order of readiness: a saved one at resume, else the first not yet placed; with what was saved. -/
def State.readyTeam (s : State) (k : Nat) (l : Launch) : Option (Nat × Option (Team × List (Option Warp))) :=
  let x := (tget s.ctxs l.ctx).getD Ctx.reset
  let saved := (((tget s.saves l.ctx).map (·.teams)).getD []).find? fun e => e.1.launch == k
  if x.goal = 4 then none
  else if x.state = 3 ∧ x.pushed then saved.map fun e => (e.1.idx, some e)
  else if x.state = 0 ∧ l.next < l.vals.teams then some (l.next, none)
  else none

/-- One team of a launch that is placed, taken off what is ready. -/
def State.placeOne (s : State) (k idx core : Nat) (old : Option (Team × List (Option Warp))) : State :=
  let s := s.placeTeam k idx core old
  match old with
  | none => s.modLaunch k fun l => { l with next := idx + 1 }
  | some e => match tget s.launches k with
    | some l => { s with saves := tmod s.saves l.ctx fun x => { x with teams := x.teams.erase e } }
    | none => s

/-- Every team of a deterministic launch, or none when one does not fit (R340). -/
def State.placeAll (s : State) (k : Nat) (l : Launch) : Option State :=
  (List.range l.vals.teams).foldl (fun o _ => o.bind fun s => match tget s.launches k with
    | none => none
    | some x => match s.readyTeam k x with
      | none => some s
      | some (idx, old) => (s.placeCore k x.vals).map fun c => s.placeOne k idx c old) (some s)

/-- The team placement places next: in order of priority, then of readiness, the first that fits (R366); of a deterministic
launch, when the whole of it fits (R340). -/
def State.placement (s : State) : Option (Nat × Nat × Nat × Nat) :=
  let ls := s.launches.filter fun e => (s.readyTeam e.1 e.2).isSome
  let rec go (n : Nat) : Option (Nat × Nat × Nat × Nat) :=
    match n with
    | 0 => none
    | p + 1 =>
      match (ls.filter fun e => e.2.vals.prio == p && (!e.2.vals.det || (s.placeAll e.1 e.2).isSome)).findSome? fun e =>
          (s.placeCore e.1 e.2.vals).bind fun c => (s.placeFit e.2.vals c).bind fun f =>
            (s.readyTeam e.1 e.2).map fun r => (e.1, r.1, c, f.1) with
      | some x => some x
      | none => go p
  go 16

/-- TEAM_PLACE (R366): the team that placement chooses is placed; a deterministic launch whole. -/
def execTeamPlace (launch team core first : Nat) (s : State) : Res :=
  .next (if s.placement ≠ some (launch, team, core, first) then s
    else match tget s.launches launch with
      | none => s
      | some l => match s.readyTeam launch l with
        | none => s
        | some (idx, old) =>
          if l.vals.det then (s.placeAll launch l).getD s else s.placeOne launch idx core old)

/-! ### The streamer (R367, R368) -/

/-- Has the thread just issued IDEMB, and nothing since? -/
def Thread.justInside (t : Thread) : Bool := t.inside && t.idemAt == t.retired

/-- May the streamer move a team (R367)? -/
def State.movable (s : State) (t : Team) : Bool :=
  (t.warps.all fun o => match o.bind s.warp with
    | some w => w.recruit.isNone && w.trap == .idle && w.threads.all fun x => !x.live || (x.runs && x.justInside)
    | none => true) &&
  !t.vals.det && t.launch != 0 && (((tget s.cores t.core).map fun c => decide (c.fwds.length < 16)).getD false) &&
  ((tget s.ctxs t.ctx).map (·.state)).getD 6 == 0

/-- Numbers of the copy and near-memory commands of a team still in flight. -/
def State.teamCmds (s : State) (tk : Nat) : List Nat :=
  (s.copies.filter fun c => c.team == tk).map (·.id) ++ (s.nms.filter fun c => c.team == tk).map (·.id)

/-- Contents of the kept tiles, by team tile. -/
def State.keptTiles (s : State) (t : Team) (keep : Nat) : List (Nat × List Word) :=
  (t.tiles.filter fun e => keep.testBit e.1).map fun e =>
    (e.1, (List.range 512).map fun i => s.accWord (t.core * 2 ^ 18 + e.2 * 512 + i))

/-- TEAM_MOVE (R367): a restart on another core that keeps part of the scratchpad and of the tiles; the old core keeps a
forwarding entry while commands of the team are in flight (R368). Its writes go to the home points, so that its threads see them
at the new core (R206, R208). -/
def execTeamMove (team core first : Nat) (s : State) : Res :=
  .next (match s.team team with
    | none => s
    | some t =>
      let gone : State := { s with
        teams := terase s.teams team
        warps := s.warps.filter fun e => e.2.team != team
        ops := s.ops.filter fun o => ((s.warp o.warp).map (·.team)) != some team
        mops := s.mops.filter fun m => m.team != team
        resReqs := s.resReqs.filter fun r => ((s.warp r.warp).map (·.team)) != some team }
      if core = t.core || !s.movable t || !gone.coreFits t.launch t.vals core ||
          ((gone.placeFit t.vals core).map (·.1)) != some first then s
      else
        let wcb := ((s.peekPa t.ctx t.twcb).map fun pa => s.physNat pa 256).getD 0
        let keep := min (bits wcb 1631 1600) t.vals.spbytes
        let posted := ((s.teamWarps t).foldl (fun s w => s.postWarp w) s).pushCore t.core
        let bytes := posted.spadBytes t.core t.spbase keep
        let tiles := posted.keptTiles t (bits wcb 1919 1664)
        let ws := t.warps.map fun o => o.bind s.warp
        let cmds := s.teamCmds team
        let s0 : State := { posted with
          teams := gone.teams, warps := gone.warps, ops := gone.ops, mops := gone.mops, resReqs := gone.resReqs }
        let s0 := s0.spadUndef t.core t.spbase t.vals.spbytes
        let s1 := s0.placeTeam t.launch t.idx core (some (t, ws))
        match s1.teamAt t.launch t.idx with
        | none => s
        | some (tk, nt) =>
          let s2 := s1.spadWrite core nt.spbase bytes
          let s2 := tiles.foldl (fun s e => match tget nt.tiles e.1 with
            | some ct => ((List.range 512).zip e.2).foldl (fun s x => s.setAcc (core * 2 ^ 18 + ct * 512 + x.1) x.2) s
            | none => s) s2
          let slots := (List.range ws.length).filterMap fun k =>
            match (ws[k]?).join, ((nt.warps[k]?).join).bind s2.warp with
            | some a, some b => some (a.sched * 1024 + a.slot, b.sched * 1024 + b.slot, a.w)
            | _, _ => none
          let (q, s2) := s2.fresh
          let f : Fwd := {
            team := tk, seq := q, spOld := t.spbase, spNew := nt.spbase, size := roundKiB t.vals.spbytes, core := core, slots := slots
            tiles := t.tiles.filterMap fun e => (tget nt.tiles e.1).map fun n => (e.2, n), cmds := cmds }
          let s3 := if cmds.isEmpty then s2 else s2.modCore t.core fun c => { c with fwds := c.fwds ++ [f] }
          let copies := s3.copies.map fun (c : Copy) => if c.team = team then { c with team := tk } else c
          let nms := s3.nms.map fun (c : NmCmd) => if c.team = team then { c with team := tk } else c
          { s3 with copies := copies, nms := nms })

/-! ### The queue front end -/

/-- Has queue `q` of a context an entry that a doorbell covered (R408)? -/
def State.queueDue (s : State) (c : Nat) (x : Ctx) (q : Nat) : Bool :=
  match x.qwcb[q]?, (x.qtail[q]?).join with
  | some (a + 1), some tail => match s.readWcb c (a + 1) with
    | some v => bits v 7 0 == 2 && bits v 1663 1632 != tail
    | none => false
  | _, _ => false

/-- An entry of a queue: its WCB, its count and ring index (R408), the address and the WAIT bit, and the entry's other
bits. -/
structure QueueEntry where
  qwcb : Nat
  pa : Nat
  head : Nat
  idx : Nat
  addr : Nat
  wait : Bool
  bad : Bool

/-- What a queue's ring gives at an address. -/
inductive RingRead where
  | got (v : Nat)
  /-- It cannot be read. -/
  | lost
  /-- The host or another device must be asked first. -/
  | away
  deriving DecidableEq, Repr

/-- The key of an entry that another device's answer has brought. -/
def ringKey (c q head : Nat) : Nat := 2 ^ 103 + (c * 8 + q) * 2 ^ 64 + head

/-- The 16 bytes of the entry of count `head` at a global address: in memory of any tier (R225). -/
def State.ringRead (s : State) (c q head va : Nat) : RingRead :=
  match s.peekLeaf c va with
  | none => .lost
  | some (e, pa) =>
    match leafTier e with
    | 0 =>
      let (bs, bad) : List Byte × Bool := if leafType e = 1 then
          let (bs, bad, _) := s.swRead pa 16 (some (c, va))
          (bs, bad)
        else (s.homeBytes pa 16, s.homeBadAt pa 16)
      if bad then .lost else .got (leNat bs)
    | 1 => match s.hostLink pa with
      | none => .lost
      | some b => match s.hostPeek c pa with
        | some ha => .got (leNat (s.hostBytes c ha 16))
        | none => if s.hl.refused.contains (s.atsKey b c pa) then .lost else .away
    | _ => match s.descs.find? fun d => d.1 == ringKey c q head with
      | some d => if d.2.isEmpty then .lost else .got (leNat (d.2.take 16))
      | none => if (s.skPort (bits e 27 20) pa).isNone then .lost else .away

/-- The address and count of the entry at the head of a queue. -/
def ringAt (v : Nat) : Nat × Nat :=
  let head := bits v 1663 1632
  (bits v 1599 1536 + 16 * (head % 2 ^ bits v 1607 1600), head)

/-- The entry at the head of queue `q`, when a doorbell has covered one and it can be read. -/
def State.queueHead (s : State) (c q : Nat) : Option QueueEntry :=
  match tget s.ctxs c with
  | none => none
  | some x =>
    if !s.queueDue c x q then none
    else
      let a := (x.qwcb[q]?).getD 0
      match s.readWcb c a, s.peekPa c a with
      | some v, some pa =>
        let head := bits v 1663 1632
        let idx := head % 2 ^ bits v 1607 1600
        match s.ringRead c q head (ringAt v).1 with
        | .away => none
        | .lost => some { qwcb := a, pa := pa, head := head, idx := idx, addr := 1, wait := false, bad := true }
        | .got w =>
          some { qwcb := a, pa := pa, head := head, idx := idx, addr := bits w 63 0, wait := w.testBit 64, bad := bits w 127 65 != 0 }
      | _, _ => none

/-- The host or another device is asked for the entry at the head of a queue, where that must be. -/
def State.ringAsk (s : State) (c q : Nat) : State :=
  match tget s.ctxs c with
  | none => s
  | some x =>
    if x.state ≠ 0 ∨ !s.queueDue c x q then s
    else match s.readWcb c ((x.qwcb[q]?).getD 0) with
      | none => s
      | some v =>
        let (va, head) := ringAt v
        let again := Instr.frontEndLaunch c q
        match s.ringRead c q head va, s.peekLeaf c va with
        | .away, some (e, pa) =>
          if leafTier e = 1 then (s.hostXlate c pa (alignDown va 65536) 16 .load).2.pend again
          else if s.sk.reqs.any fun r => r.who == .desc (ringKey c q head) then s.pend again
          else ((s.skSend { blankMsg with paddr := pa, dst := bits e 27 20, size := 16, op := 0 } c va
            (.desc (ringKey c q head))).1).pend again
        | _, _ => s

/-- What was kept of an entry goes with it. -/
def State.ringDrop (s : State) (c q head : Nat) : State :=
  let s := { s with descs := s.descs.filter fun d => d.1 != ringKey c q head }
  match (tget s.ctxs c).bind fun x => s.readWcb c ((x.qwcb[q]?).getD 0) with
  | none => s
  | some v => match s.peekLeaf c (ringAt v).1 with
    | none => s
    | some (e, pa) => match leafTier e, s.hostLink pa with
      | 1, some b => { s with hl := { s.hl with refused := s.hl.refused.erase (s.atsKey b c pa) } }
      | _, _ => s

/-- The launch of the entry at the head of a queue. -/
def State.tryEntry (s : State) (c q : Nat) (e : QueueEntry) : LaunchRes × State :=
  s.tryLaunch c e.addr 0 none (some (c * 8 + q)) e.qwcb e.idx (s.launchAhead c (.entry q e.head))

/-- Does a WAIT entry of a queue await a launch made from an earlier one (R355)? -/
def State.queueWaits (s : State) (c q : Nat) (e : QueueEntry) : Bool :=
  e.wait && ((s.launches.any fun l => l.2.queue == some (c * 8 + q)) ||
    (s.graphs.any fun g => g.2.queue == some (c * 8 + q)) ||
    (((tget s.ctxs c).map fun x => x.waiting.any fun w => w.queue == some (c * 8 + q)).getD false))

/-- Whether the launch of the entry at the head of a queue must wait, for room or for an instance (R361). -/
def State.entryWaits (s : State) (c q : Nat) (e : QueueEntry) : Option Bool :=
  if e.bad then none
  else match (s.tryEntry c q e).1 with
    | .wait inst => some inst
    | _ => none

/-- Has a queue an entry that the front end can consume now? One that must wait holds back its own queue alone. -/
def State.queueReady (s : State) (c q : Nat) : Bool :=
  match s.queueHead c q with
  | none => false
  | some e => !s.queueWaits c q e && (s.entryWaits c q e).isNone

/-- Is the context the one served next, the one with the highest PRIO among those with an entry to consume, and the queue its
turn (R355)? -/
def State.queueTurn (s : State) (c q : Nat) : Bool :=
  let ready (k : Nat) (x : Ctx) : Bool := x.state == 0 && (List.range 8).any fun q => s.queueReady k q
  match tget s.ctxs c with
  | none => false
  | some x =>
    x.state == 0 && (s.ctxs.all fun e => e.1 == c || !ready e.1 e.2 || e.2.prio ≤ x.prio) &&
      (match ((List.range 8).map fun i => (x.nextq + i) % 8).find? fun k => s.queueReady c k with
        | some k => k == q
        | none => false)

/-- The front end consumes the entry at the head of a queue: HEAD moves past it, and its launch is made or refused. -/
def State.consume (s : State) (c q : Nat) (e : QueueEntry) : State :=
  let me : WaitBy := .entry q e.head
  let s := s.ringDrop c q e.head
  let done (s : State) : State := ((s.modCtx c fun x => { x with
    nextq := (q + 1) % 8, waiting := x.waiting.filter fun w => w.by_ != me }).physWrite (e.pa + 204) 4
    ((e.head + 1) % 2 ^ 32)).pend (.frontEndLaunch c q)
  if e.bad then done (s.ctxRecord c { kind := 2, src := 6, reason := 3, wcb := e.qwcb, addr := e.idx })
  else match s.tryEntry c q e with
    | (.refused, s) => (done s).launchWaiting c
    | (_, s) => done s

/-- FRONT_END_LAUNCH (R355, R356, R360, R361, R408): the walker makes a visit due in the context; the front end asks for the
entry at the queue's head, or when it is the queue's turn consumes it. -/
def execFrontEndLaunch (ctx q : Nat) (s : State) : Res :=
  .next (
    let s := s.walkStep ctx
    match s.queueHead ctx q with
    | none => s.ringAsk ctx q
    | some e =>
      if s.queueWaits ctx q e then s
      else match s.entryWaits ctx q e with
        | some inst => s.enlist ctx (WaitLaunch.mk (.entry q e.head) inst e.addr 0 none none)
        | none => if s.queueTurn ctx q then s.consume ctx q e else s.pend (.frontEndLaunch ctx q))

end Sys2Proof.Machine
end

