-- ==== Sys2Proof/Machine/Res.lean ====
section
/-! DEFINITION. Extended registers and accumulator tiles (R199 to R201): taking them, waiting for them and giving them
back. -/

namespace Sys2Proof.Machine

/-- The extended registers of block `b`. -/
def blockRegs (b : Nat) : List Nat := regRange (64 + 16 * b) 16

/-- Blocks of a mask. -/
def maskBlocks (m : BitVec 4) : List Nat := (List.range 4).filter fun b => m.getLsbD b

/-- The blocks or tiles that a request still lacks (R200). -/
def State.lacking (s : State) (wk : Nat) (ext : Bool) (items : List Nat) : List Nat :=
  match s.warp wk, s.teamOf wk with
  | some w, some t => items.filter fun x => if ext then (tget w.ext x).isNone else (tget t.tiles x).isNone
  | _, _ => []

/-- Can the pool meet a request whole? -/
def State.resFits (s : State) (wk : Nat) (ext : Bool) (items : List Nat) : Bool :=
  match s.warp wk with
  | none => false
  | some w =>
    let n := (s.lacking wk ext items).length
    if ext then n ≤ (s.poolFree w.gs w.w).length else n ≤ (s.freeTiles w.core).length

/-- A request is met: blocks with undefined registers, or zeroed tiles. -/
def State.resGrant (s : State) (wk : Nat) (ext : Bool) (items : List Nat) : State :=
  if ext then s.grantBlocks wk items else match s.warp wk with
    | some w => s.grantTiles w.team items
    | none => s

/-- The pool that serves a warp: a scheduler's blocks, or a core's tiles. -/
def Warp.pool (w : Warp) (ext : Bool) : Nat := if ext then w.gs else w.core

/-- The requests that wait on a warp's pool, in order of arrival. -/
def State.poolQueue (s : State) (w : Warp) (ext : Bool) : List ResReq :=
  s.resReqs.filter fun r => r.ext == ext && ((s.warp r.warp).map fun x => x.pool ext == w.pool ext).getD false

/-- A waiting request is met, and its threads run. -/
def State.resServe (s : State) (r : ResReq) : State :=
  let s := s.resGrant r.warp r.ext r.items
  let s := { s with resReqs := s.resReqs.erase r }
  s.wake r.warp (r.lanes.filter fun l => ((s.thread r.warp l).map fun th => th.st == .blocked (.res r.id)).getD false)

/-- Is a request the oldest of its pool, and can the pool meet it now? -/
def State.resDue (s : State) (r : ResReq) : Bool :=
  match s.warp r.warp with
  | none => false
  | some w => ((s.poolQueue w r.ext).head?).map (·.id) == some r.id && s.resFits r.warp r.ext r.items

/-- In deterministic mode what a team gives back goes at once to those of it that wait (R349; DESIGN CHOICE 49). -/
def State.detGrants (s : State) (tk : Nat) : State :=
  match (s.team tk).bind (·.det) with
  | none => s
  | some _ => s.resReqs.foldl (fun s r => if s.resDue r && ((s.warp r.warp).map (·.team)) == some tk then s.resServe r else s) s

/-- In deterministic mode an acquisition waits until the team's warps that have ended have given back what they held (R349;
DESIGN CHOICE 49). -/
def State.resHeld (s : State) (t : Team) : Bool :=
  t.det.isSome && (s.teamWarps t).any fun wk => ((s.warp wk).map fun w => w.liveLanes.isEmpty).getD false

/-- XACQ and AACQ (R200): met at once when the pool can meet it whole; else refused in the predicate, or the bundle
blocks. -/
def State.acquireRes (s : State) (ext : Bool) (items : List Nat) (tooBig : TaskVals → Bool) (tryIt : Bool) (p : Nat) : State :=
  s.withThread [] [] (who := State.onceLanes) fun i s =>
    match s.warp i.warp, s.teamOf i.warp with
    | some _, some t =>
      if !s.bundleActs i then s
      else if tooBig t.vals then s.illegal 3 i.lanes
      else if s.resHeld t then s.stall
      else
        let ok := s.resFits i.warp ext items
        let s := if ok then s.resGrant i.warp ext items else s
        if tryIt then i.lanes.foldl (fun s l => s.wrP i l p ok) s
        else if ok then s
        else
          let (id, s) := s.fresh
          let s := s.modThreads i.warp i.lanes fun th => { th with st := .blocked (.res id) }
          { s with
            resReqs := s.resReqs ++ [ResReq.mk id i.warp i.lanes ext items]
            pending := s.pending ++ [.resourceGrant id] }
    | _, _ => s

def tilesOf (t : BitVec 8) (n : BitVec 7) : List Nat := regRange t.toNat (n.toNat + 1)

/-- Does a tile range reach 256 or the team's budget? -/
def tilesOver (t : BitVec 8) (n : BitVec 7) (v : TaskVals) : Bool := min 256 v.tiles < t.toNat + n.toNat + 1

/-- Does a block mask reach the budget? -/
def blocksOver (m : BitVec 4) (v : TaskVals) : Bool := m.toNat / 2 ^ v.xblk != 0

/-- XACQ (R199, R200). -/
def execXacq (mask : BitVec 4) (tryIt : BitVec 1) (p : BitVec 3) (s : State) : Res :=
  .next (s.acquireRes true (maskBlocks mask) (blocksOver mask) (tryIt == 1) p.toNat)

/-- AACQ (R199, R200). -/
def execAacq (t : BitVec 8) (n : BitVec 7) (tryIt : BitVec 1) (p : BitVec 3) (s : State) : Res :=
  .next (s.acquireRes false (tilesOf t n) (tilesOver t n) (tryIt == 1) p.toNat)

/-- Does an operation of the warp, issued before the group, still read or write one of these registers (R201)? -/
def State.regsBusy (s : State) (i : Issue) (rs : List Nat) : Bool :=
  (s.ops.any fun o => o.warp == i.warp && i.before o.id &&
    (o.srcs.any rs.contains || o.vdests.any fun e => rs.contains e.2)) ||
  (s.mops.any fun m => m.warp == i.warp && i.before m.id && m.srcs.any rs.contains) ||
  ((s.warp i.warp).map fun w => w.deferred.any fun d => d.dests.any fun e =>
    (regRange e.2.1 e.2.2).any fun r => rs.contains r).getD false

/-- XREL (R201): held until every operation on a register of a named block has completed. -/
def execXrel (mask : BitVec 4) (s : State) : Res :=
  .next (s.withThread [] [] (who := State.onceLanes) fun i s => match s.warp i.warp, s.teamOf i.warp with
    | some w, some t =>
      if !s.bundleActs i then s
      else if blocksOver mask t.vals then s.illegal 3 i.lanes
      else
        let bs := (maskBlocks mask).filter fun b => (tget w.ext b).isSome
        if s.regsBusy i (bs.flatMap blockRegs) then s.stall
        else (s.modWarp i.warp fun w => { w with ext := bs.foldl terase w.ext }).detGrants w.team
    | _, _ => s)

/-- AREL (R201): held until every operation accepted on a named tile from any warp of the team has completed. -/
def execArel (t : BitVec 8) (n : BitVec 7) (s : State) : Res :=
  .next (s.withThread [] [] (who := State.onceLanes) fun i s => match s.warp i.warp, s.teamOf i.warp with
    | some w, some tm =>
      if !s.bundleActs i then s
      else if tilesOver t n tm.vals then s.illegal 3 i.lanes
      else
        let cts := (tilesOf t n).filterMap fun x => tget tm.tiles x
        if s.mops.any fun m => m.team == w.team && i.before m.id && m.tiles.any fun x => cts.contains x then s.stall
        else (s.modTeam w.team fun tm => { tm with tiles := (tilesOf t n).foldl terase tm.tiles }).detGrants w.team
    | _, _ => s)

/-- RESOURCE_GRANT (R200): the oldest waiting request of its pool is met once the pool can, and its threads run. -/
def execResourceGrant (req : Nat) (s : State) : Res :=
  .next (match s.resReqs.find? fun r => r.id == req with
    | none => s
    | some r =>
      if (s.warp r.warp).isNone then { s with resReqs := s.resReqs.erase r }
      else if s.resDue r then s.resServe r
      else s.pend (.resourceGrant req))

end Sys2Proof.Machine
end

