-- ==== Sys2Proof/Machine/Discard.lean ====
section
/-! DEFINITION. The ends of warps (R142) and the discard of teams that a pre-emption asks for (R33, R221, R348, R394): at once,
at an IDEMB, or at a hand-off point of a deterministic launch. -/

namespace Sys2Proof.Machine

/-- Waiters of a warp and its helpers leave their batches (R394). -/
def State.leaveBatches (s : State) (wk : Nat) : State :=
  let keep (x : Waiter) : Bool := match x with
    | .warp w => w != wk
    | .helper w _ => w != wk
    | _ => true
  let bs := s.tr.batches.map fun (b : Batch) => { b with waiters := b.waiters.filter keep }
  { s with tr := { s.tr with batches := bs, slotWaits := s.tr.slotWaits.filter fun x => keep x.waiter } }

/-- A team leaves the machine: its writes are posted and go on to the home points (R206), its recruitments void, its operations
abandoned, its slots, blocks and tiles returned. Copies and near-memory commands go on. -/
def State.removeTeam (s : State) (tk : Nat) : State :=
  match s.team tk with
  | none => s
  | some t =>
    let ws := s.teamWarps t
    let s := (ws.foldl (fun s w => (s.postWarp w).leaveBatches w) s).pushCore t.core
    { s with
      teams := terase s.teams tk
      warps := s.warps.filter fun (e : Nat × Warp) => e.2.team != tk
      ops := s.ops.filter fun o => !ws.contains o.warp
      mops := s.mops.filter fun m => m.team != tk
      resReqs := s.resReqs.filter fun r => !ws.contains r.warp
      scheds := s.scheds.map fun (e : Nat × Sched) =>
        (e.1, { e.2 with
          sel := e.2.sel.filter fun (p : Nat × Nat) => !ws.contains p.1
          pins := e.2.pins.filter fun (p : Nat × Nat) => p.1 != tk }) }

/-- TEAM_DISCARD (R33, R394): what a restart needs of the team is kept. -/
def State.discardTeam (s : State) (tk : Nat) : State :=
  match s.team tk with
  | none => s
  | some t =>
    let ws := t.warps.map fun o => o.bind s.warp
    (s.removeTeam tk).modSave t.ctx fun x => { x with teams := x.teams ++ [(t, ws)], draining := x.draining ++ [t] }

/-- Is every live thread of a team inside a restart region (R33)? -/
def State.teamInside (s : State) (t : Team) : Bool :=
  (s.teamLive t).all fun e => ((s.thread e.1 e.2).map (·.inside)).getD true

/-- Blocks and tiles held are recorded for a restart (R33). -/
def State.recordHoldings (s : State) (tk : Nat) : State :=
  match s.team tk with
  | none => s
  | some t =>
    let exts := t.warps.map fun o => ((o.bind s.warp).map (·.ext)).getD []
    s.modTeam tk fun x => { x with recTiles := x.tiles.map (·.1), recExt := exts }

/-- The IDEMB that is a thread's next instruction, a header before it aside (R348): it must stand in a packet that begins a
clause (R68). -/
def State.nextIdemb (s : State) (wk : Nat) (t : Team) (off : Nat) : Option FmtP :=
  let idem (o : Nat) : Option FmtP := ((s.codeWord wk t o).map decodeWord).bind fun r => match r with
    | .ok (.idemb f) => some f
    | _ => none
  if s.clauseLook wk t (off / 12) = some true then (if off % 12 = 0 then idem (off + 4) else idem off) else none

/-- What a thread's next instruction makes of it at a hand-off point: its restart record is set where the IDEMB's predicate
holds (R138). -/
def Thread.handed (th : Thread) (f : FmtP) : Thread :=
  if predBit th.preds f.pred.toNat != (f.neg == 1) then
    { th with inside := true, rpc := th.pc / 12, rdepth := th.depth, rdraws := th.draws, idemAt := th.retired }
  else th

/-- Does a thread that runs or is parked stand before an IDEMB that leaves it inside a restart region? -/
def State.handReady (s : State) (wk l : Nat) (t : Team) : Bool :=
  match s.thread wk l with
  | none => true
  | some th => (th.st == .runnable || th.st == .parked) && (match s.nextIdemb wk t th.pc with
    | some f => (th.handed f).inside
    | none => false)

/-- Do the teams of a deterministic launch that still have live threads stand at a hand-off point (R348)? For a team whose last
warp has exited every later round counts as ended (R343). -/
def State.handOff (s : State) (ts : List (Nat × Team)) : Bool :=
  let rounds := dedup (ts.map fun (e : Nat × Team) => (e.2.det.map (·.round)).getD 0)
  rounds.length == 1 && ts.all fun (e : Nat × Team) =>
    ((e.2.det.map (·.fresh)).getD true) &&
    (e.2.bars.all fun (b : Nat × Barrier) => b.2.count == 0) &&
    ((s.teamWarps e.2).all fun w => ((s.warp w).map fun x => x.recruit.isNone).getD true) &&
    ((s.teamLive e.2).all fun x => s.handReady x.1 x.2 e.2)

/-- The IDEMBs of a hand-off point are performed, not retired (R348, R352). -/
def State.performIdembs (s : State) (tk : Nat) : State :=
  match s.team tk with
  | none => s
  | some t =>
    let s := (s.teamLive t).foldl (fun s e => match (s.thread e.1 e.2).bind fun th => s.nextIdemb e.1 t th.pc with
      | some f => s.modThread e.1 e.2 fun th => th.handed f
      | none => s) s
    s.recordHoldings tk

/-- The placed teams of a context, the control core's thread apart. -/
def State.placed (s : State) (c : Nat) : List (Nat × Team) :=
  s.teams.filter fun (e : Nat × Team) => e.2.ctx == c && (tget s.launches e.2.launch).isSome

/-- A pre-empted context's teams are discarded where they may be; with none left the drain window opens (R394, R395). -/
def State.preemptPoll (s : State) (c : Nat) : State :=
  match tget s.ctxs c with
  | none => s
  | some x =>
    if x.state ≠ 1 ∨ x.goal = 4 then s
    else
      let s := (s.placed c).foldl (fun (s : State) (e : Nat × Team) => match s.team e.1 with
        | none => s
        | some t =>
          if t.vals.det then
            let ts := (s.placed c).filter fun (f : Nat × Team) => f.2.launch == t.launch && !(s.teamLive f.2).isEmpty
            if (ts.any fun f => f.1 == e.1) && s.handOff ts then
              let round := (t.det.map (·.round)).getD 1
              let s := ts.foldl (fun s f => (s.performIdembs f.1).discardTeam f.1) s
              let s := s.modLaunch t.launch fun l => { l with token := some (0, round) }
              s.modCtx c fun y => { y with visit := round }
            else s
          else if s.teamInside t then s.discardTeam e.1 else s) s
      if (s.placed c).isEmpty ∧ !x.draining then
        (s.modCtx c fun y => { y with draining := true }).pend (.drainExpire c)
      else s

/-- WARP_END (R142): a warp whose threads have all ended gives up its slot once its operations have completed; what it held
goes on, and a pre-emption that waited for it does (R348, R394). -/
def execWarpEnd (wk : Nat) (s : State) : Res :=
  .next (match s.warp wk, s.teamOf wk with
    | some w, some t =>
      let s := s.launchTrig t.launch
      let s := s.detExit wk
      if !w.liveLanes.isEmpty then s
      else if !s.warpIdle wk then s.pend (.warpEnd wk)
      else
        let s := { s with warps := terase s.warps wk }
        if w.kind = .control then
          let s := s.modCore w.core fun c => { c with cc := none }
          { s with teams := terase s.teams w.team }
        else
          let s := (s.modTeam w.team fun x => { x with
            warps := x.warps.map fun o => if o = some wk then none else o
            ended := tset x.ended w.k w.threads }).teamEnd w.team
          (s.detGrants w.team).preemptPoll t.ctx
    | _, _ => s)

end Sys2Proof.Machine
end

