-- ==== Sys2Proof/Machine/Ctrl.lean ====
section
/-! DEFINITION. CTRL instructions (R137 to R149), CLAUSE headers (R67 to R72) and the return from a trap (R168). -/

namespace Sys2Proof.Machine

/-- A CTRL word that acts in the lanes `who` (R138): what a helper and the control core may issue of it, and the vector register
it reads. Where it acts in none it goes by as if it were absent. -/
def State.ctrl (s : State) (helperOk ccOk : Bool) (vregs : List Nat) (k : Issue → Warp → Team → State → State)
    (who : State → Issue → List Nat := fun _ i => i.lanes) : State :=
  match s.iss with
  | none => s
  | some i => match s.warp i.warp, s.teamOf i.warp with
    | some w, some t =>
      let ls := who s i
      if ls.isEmpty then k i w t s
      else if i.kind = .helper ∧ !helperOk then s.illegal 0x24 ls
      else if w.kind = .control ∧ (!ccOk || !vregs.isEmpty) then s.illegal 0x25 ls
      else match (if vregs.isEmpty then none else s.regError i vregs []) with
        | some c => s.illegal c ls
        | none => k i w t s
    | _, _ => s

/-- The lanes in which a CTRL word of this predicate acts. -/
def byPred (neg : BitVec 1) (pred : BitVec 3) (s : State) (i : Issue) : List Nat := s.actingP i neg pred

/-- The register form's value for an actor (R137). -/
def State.regForm (s : State) (i : Issue) (l : Nat) (tag : BitVec 2) (r : BitVec 7) : Word :=
  if tag = 0 then s.rdV i l r.toNat else if tag = 1 then s.rdS i r.toNat else i.rdC r.toNat

def formRegs (tag : BitVec 2) (r : BitVec 7) : List Nat := if tag = 0 then [r.toNat] else []

/-- The OFFSET target of Format B (R80). -/
def Issue.offTarget (i : Issue) (off : BitVec 16) : Nat :=
  match i.pfx with
  | none => (((i.p : Int) + off.toInt) % (2 : Int) ^ 23).toNat
  | some p => (i.p + (at_ p.hi7.toNat 16 + off.toNat)) % 2 ^ 23

/-- The target of BRX: a signed register added to the packet index (R139). -/
def State.relTarget (s : State) (i : Issue) (f : FmtBr) (l : Nat) : Nat :=
  (((i.p : Int) + (s.regForm i l f.tag f.reg).toInt) % (2 : Int) ^ 23).toNat

/-- The packet that CALLI and JMPI take from a register (R139, R140). -/
def State.absTarget (s : State) (i : Issue) (f : FmtBr) (l : Nat) : Nat := bits (s.regForm i l f.tag f.reg).toNat 22 0

/-- The packets a word asks about: the targets of a branch or call, and the packet of an IDEMB (R68). -/
def State.entriesOf (s : State) (i : Issue) (x : Instr) : List Nat :=
  match x with
  | .bra f => if (s.actingP i f.neg f.pred).isEmpty then [] else [i.offTarget f.off]
  | .call f => if (s.actingP i f.neg f.pred).isEmpty then [] else [i.offTarget f.off]
  | .brx f => (s.actingP i f.neg f.pred).map (s.relTarget i f)
  | .jmpi f => (s.actingP i f.neg f.pred).map (s.absTarget i f)
  | .calli f => (s.actingP i f.neg f.pred).map (s.absTarget i f)
  | .idemb _ => [i.p]
  | _ => []

/-- What stands in the way of a word that asks for a clause start: a sub-cause, a translation fault of its code page, or a
fetch that has not come. -/
inductive Entry where
  | ok
  | bad (c : Nat)
  | fault (f : PageFault)
  | wait
  deriving DecidableEq, Repr

/-- Is packet `idx` a clause start (R62, R68)? -/
def State.targetCheck (s : State) (i : Issue) (w : Warp) (t : Team) (idx : Nat) : Entry × State :=
  if t.vals.codelen ≤ idx then (.bad 0x10, s)
  else
    let va := t.vals.code + 12 * idx
    match s.translate (.core w.core) t.ctx va .fetch with
    | (.fault r base lg, s) => (.fault { lane := i.lowest, addr := va, reason := r, acc := 8, base := base, lg := lg }, s)
    | (.wait, s) => (.wait, s)
    | (.at _, s) => (match s.clauseLook i.warp t idx with
      | some true => .ok
      | some false => .bad 0x0C
      | none => .wait, s)

/-- Check every target, then go on with `k`: faults of code pages come first, then the lowest sub-cause traps the bundle at
the word (R139); a fetch that has not come holds it. -/
def State.withTargets (s : State) (i : Issue) (w : Warp) (t : Team) (idxs : List Nat) (k : State → State) : State :=
  let (es, s) := (dedup idxs).foldl (fun (p : List Entry × State) x =>
    let (e, s) := p.2.targetCheck i w t x
    (p.1 ++ [e], s)) ([], s)
  let bad := es.filterMap fun e => match e with
    | .bad c => some c
    | _ => none
  let faults := es.filterMap fun e => match e with
    | .fault f => some f
    | _ => none
  if !faults.isEmpty then s.groupFaults w faults
  else match minNat? bad with
    | some c => s.illegal c i.lanes
    | none => if es.contains .wait then s.stall else k s

/-- The rest of the bundle goes on at the next packet (R138). -/
def State.passOn (s : State) (i : Issue) (ls : List Nat) : State :=
  s.goto i (i.lanes.filter fun l => !ls.contains l) (12 * (i.p + 1))

/-- Actors branch to packets of their own. -/
def State.branchTo (s : State) (i : Issue) (w : Warp) (t : Team) (ls : List Nat) (target : Nat → Nat) : State :=
  s.withTargets i w t (ls.map target) fun s =>
    let s := s.passOn i ls
    ls.foldl (fun s l => s.goto i [l] (12 * target l)) s

/-- BRA (R139). -/
def execBra (f : FmtB) (s : State) : Res :=
  .next (s.ctrl true true [] (fun i w t s => s.branchTo i w t (s.actingP i f.neg f.pred) fun _ => i.offTarget f.off)
    (who := byPred f.neg f.pred))

/-- BRX (R139). -/
def execBrx (f : FmtBr) (s : State) : Res :=
  .next (s.ctrl true true (formRegs f.tag f.reg) (fun i w t s =>
    s.branchTo i w t (s.actingP i f.neg f.pred) (s.relTarget i f)) (who := byPred f.neg f.pred))

/-- JMPI (R139). -/
def execJmpi (f : FmtBr) (s : State) : Res :=
  .next (s.ctrl true true (formRegs f.tag f.reg) (fun i w t s =>
    s.branchTo i w t (s.actingP i f.neg f.pred) (s.absTarget i f)) (who := byPred f.neg f.pred))

/-- Address of a return record in the stack aperture (R140). -/
def recordAddr (depth : Nat) : Nat := 0xFD00_0000_0000_0000 + 8 * depth

/-- CALL and CALLI (R9, R71, R140). -/
def State.call (s : State) (i : Issue) (w : Warp) (t : Team) (ls : List Nat) (target : Nat → Nat) : State :=
  let th (l : Nat) : Thread := (w.threads[l]?).getD (freshThread 0 0)
  match ls.filter fun l => (th l).depth == 255 with
  | l :: r => s.raise 0x0E (l :: r) 0 0
  | [] =>
    let (a, b) := s.clauseSets i
    let rec_ : Nat := (i.p + 1) % 2 ^ 23 + at_ a.toNat 23 + at_ b.toNat 27
    if s.acqWait i ls then s.stall
    else s.withTargets i w t (ls.map target) fun s =>
      s.access i 8 .store (ls.map fun l => (l, recordAddr (th l).depth)) fun w _ accs s =>
        match s.relFences i w.core ls with
        | (s, false) => s.stall
        | (s, true) =>
          let s := accs.foldl (fun s x => s.bufferWrite i.warp x.lane w.core 0 x.va x.loc (leBytes 8 rec_)) s
          let s := s.modThreads i.warp ls fun x => { x with depth := x.depth + 1 }
          let s := s.passOn i ls
          ls.foldl (fun s l => s.goto i [l] (12 * target l)) s

/-- CALL (R140). -/
def execCall (f : FmtB) (s : State) : Res :=
  .next (s.ctrl false true [] (fun i w t s => s.call i w t (s.actingP i f.neg f.pred) fun _ => i.offTarget f.off)
    (who := byPred f.neg f.pred))

/-- CALLI (R140). -/
def execCalli (f : FmtBr) (s : State) : Res :=
  .next (s.ctrl false true (formRegs f.tag f.reg) (fun i w t s =>
    s.call i w t (s.actingP i f.neg f.pred) (s.absTarget i f)) (who := byPred f.neg f.pred))

/-- RET (R9, R71, R140): the threads stand at no word until their records have been loaded. -/
def execRet (f : FmtP) (s : State) : Res :=
  .next (s.ctrl false true [] (who := byPred f.neg f.pred) fun i w _ s =>
    let ls := s.actingP i f.neg f.pred
    let th (l : Nat) : Thread := (w.threads[l]?).getD (freshThread 0 0)
    match ls.filter fun l => (th l).depth == 0 with
    | l :: r => s.raise 0x0F (l :: r) 0 0
    | [] =>
      if ls.isEmpty then s.passOn i []
      else if s.acqWait i ls then s.stall
      else s.access i 8 .load (ls.map fun l => (l, recordAddr ((th l).depth - 1))) fun w t accs s =>
        let (id, s) := s.startOp { blankOp i.warp .ret with lanes := ls }
        let (ps, s) := s.readLanes i w i.gpc 5 id t.ctx accs
        let idx (p : LanePart) : Nat := bits (leNat (p.bytes.map fun b => b.getD 0)) 22 0
        if ps.all (fun p => p.bytes.all (·.isSome)) && ps.any fun p => decide (t.vals.codelen ≤ idx p) then
          s.illegal 0x10 i.lanes
        else
          let s := s.passOn i ls
          let s := s.modThreads i.warp ls fun x => { x with depth := x.depth - 1 }
          (s.modOp id fun o => { o with parts := ps }).pend (.loadDataReturn id))

/-- A meeting entry (R11). -/
def meetWord (depth addr : Nat) : Word := BitVec.ofNat 32 (2 ^ 31 + at_ (depth % 256) 23 + addr % 2 ^ 23)

/-- MEET (R141). -/
def execMeet (f : FmtB) (s : State) : Res :=
  .next (s.ctrl false false [] (who := byPred f.neg f.pred) fun i _ _ s =>
    s.modThreads i.warp (s.actingP i f.neg f.pred) fun t =>
      { t with meetout := t.meet, meet := meetWord t.depth (i.offTarget f.off) })

/-- MEETX (R141). -/
def execMeetx (f : FmtMeetx) (s : State) : Res :=
  .next (s.ctrl false false (formRegs f.tag f.reg) (who := byPred f.neg f.pred) fun i _ _ s =>
    (s.actingP i f.neg f.pred).foldl (fun r l =>
      let v := s.regForm i l f.tag f.reg
      r.modThread i.warp l fun t => if f.sel = 1 then { t with meet := v } else { t with meetout := v }) s)

/-- The return from a handler completes when every handler thread that has not exited has issued TRAPRET (R168); with none
left that could, the handler is over. `pc` is sr.trappc as the group that asks reads it. -/
def State.trapCheck (s : State) (wk pc : Nat) : State :=
  match s.warp wk with
  | none => s
  | some w =>
    let hs := w.lanesWhere fun t => t.handling && t.live
    let waits (l : Nat) : Bool := ((w.threads[l]?).map fun t => t.st == .blocked .trapret).getD false
    if w.trap = .handling ∧ hs.all waits then (s.trapReturn wk pc).arrive wk hs else s

/-- sr.trappc as the current group reads it. -/
def State.trapPc (s : State) (i : Issue) : Nat := ((s.rdWarp i).map fun w => w.trappc.toNat).getD 0

/-- EXIT (R65, R142): no thread of the bundle exits where the recruiter of an open recruitment would. -/
def execExit (f : FmtP) (s : State) : Res :=
  .next (s.ctrl false true [] (who := byPred f.neg f.pred) fun i w t s =>
    let ls := s.actingP i f.neg f.pred
    match w.recruit with
    | some r =>
      if ls.contains r.lane then s.illegal 0x28 [r.lane]
      else
        let s := s.passOn i ls
        (((s.endThreads i.warp ls .exited).trapCheck i.warp (s.trapPc i)).launchTrig t.launch).detExit i.warp
    | none =>
      let s := s.passOn i ls
      (((s.endThreads i.warp ls .exited).trapCheck i.warp (s.trapPc i)).launchTrig t.launch).detExit i.warp)

/-- The end of the bundle's turn (R72, R145). -/
def State.endTurn (s : State) (wk : Nat) : State := s.modIss fun i => if i.warp = wk then { i with turnOver := true } else i

/-- BAR and BARA (R143, R144). -/
def State.barrier (s : State) (f : FmtBar) (block : Bool) : State :=
  s.ctrl false false [] (who := byPred f.neg f.pred) fun i w _ s =>
    let ls := s.actingP i f.neg f.pred
    let b := f.bar.toNat
    let v := s.bar w.team b
    let fresh := ls.filter fun l => !v.arrived.contains (w.k * w.w + l)
    if ls.isEmpty then s
    else if !fresh.isEmpty && (match v.expect with | some c => c != f.count | none => false) then s.illegal 0x26 fresh
    else
      let s := ls.foldl (fun s l => s.postThread i.warp l none) s
      let s := s.barArrive w.team i.warp ls b f.count block i.gpc
      (s.switchPoint i.warp).endTurn i.warp

/-- BAR (R143). -/
def execBar (f : FmtBar) (s : State) : Res := .next (s.barrier f true)

/-- BARA (R143). -/
def execBara (f : FmtBar) (s : State) : Res := .next (s.barrier f false)

/-- YIELD (R145). -/
def execYield (s : State) : Res :=
  .next (s.ctrl false true [] fun i _ t s =>
    let s := if t.vals.det then s else s.modWarp i.warp fun w => { w with yielded := true }
    (s.switchPoint i.warp).endTurn i.warp)

/-- PRIOPASS (R146): the lead passes to the next warp of the team on the scheduler. -/
def execPriopass (s : State) : Res :=
  .next (s.ctrl false false [] fun i w t s =>
    if !w.lead || t.vals.det then s
    else
      let others := (s.teamWarps t).filter fun k => ((s.warp k).map fun x => x.sched == w.sched && k != i.warp).getD false
      let later := others.filter fun k => ((s.warp k).map fun x => decide (w.k < x.k)).getD false
      match (later ++ others).head? with
      | none => s
      | some k => (s.modWarp i.warp fun x => { x with lead := false }).modWarp k fun x => { x with lead := true })

/-- TRAP (R149): software-trap in the acting threads, which resume at the next packet. -/
def execTrap (f : FmtTrap) (s : State) : Res :=
  .next (s.ctrl true true [] (who := byPred f.neg f.pred) fun i _ _ s =>
    match s.actingP i f.neg f.pred with
    | [] => s
    | l :: r => s.raiseRec {
        cause := 0x0B, pc := 12 * (i.p + 1), mask := l :: r, addr := 0, info := f.code.setWidth 32, uerec := none })

/-- BRKPT (R149). -/
def execBrkpt (f : FmtP) (s : State) : Res :=
  .next (s.ctrl true true [] (who := byPred f.neg f.pred) fun i _ _ s =>
    match s.actingP i f.neg f.pred with
    | [] => s
    | l :: r => s.raise 0x0C (l :: r) 0 0)

/-- NOP (R84) changes no state. -/
def execNop (s : State) : Res := .next s

/-- IDEMB (R32, R33, R68, R147, R394): the restart records of its threads; a team wholly inside may be discarded. Where its packet
is no clause start, the trap that stands at slot 0 is raised when the IDEMB's own group would issue (R85, DEDUCED 98). -/
def execIdemb (f : FmtP) (s : State) : Res :=
  .next (s.ctrl false false [] (who := byPred f.neg f.pred) fun i w t s =>
    match s.targetCheck i w t i.p with
    | (.bad _, s) => s.raiseRec { cause := 1, pc := 12 * i.p, mask := i.lanes, addr := 0, info := 0x0C, uerec := none }
    | (.fault f, s) => s.groupFaults w [f]
    | (.wait, s) => s.stall
    | (.ok, s) =>
      let ls := s.actingP i f.neg f.pred
      let s := s.modThreads i.warp ls fun x =>
        { x with inside := true, rpc := i.p, rdepth := x.depth, rdraws := x.draws, idemAt := x.retired + 1 }
      match s.team w.team with
      | none => s
      | some t' => if !ls.isEmpty && s.teamInside t' then s.recordHoldings w.team else s)

/-- IDEME (R32). -/
def execIdeme (f : FmtP) (s : State) : Res :=
  .next (s.ctrl false false [] (who := byPred f.neg f.pred) fun i _ _ s =>
    s.modThreads i.warp (s.actingP i f.neg f.pred) fun x => { x with inside := false })

/-- TRAPRET (R168): outside a handler illegal; a handler thread blocks until the others have issued it. -/
def execTrapret (s : State) : Res :=
  .next (s.ctrl false true [] fun i w _ s =>
    if w.trap ≠ .handling then s.illegal 0x23 i.lanes
    else (s.modThreads i.warp i.lanes fun t => { t with st := .blocked .trapret }).trapCheck i.warp (s.trapPc i))

/-- TRIG (R148). -/
def execTrig (f : FmtP) (s : State) : Res :=
  .next (s.ctrl false false [] (who := byPred f.neg f.pred) fun i _ t s =>
    ((s.actingP i f.neg f.pred).foldl (fun s l => s.triggerThread i.warp l) s).launchTrig t.launch)

/-- CLAUSE (R67 to R72): the header's wait, which its first word tests again, its flags, and the end of the turn it may ask
for. -/
def execClause (wait : BitVec 12) (seta setb : BitVec 4) (yld : BitVec 1) (s : State) : Res :=
  .next (match s.iss with
    | none => s
    | some i => match i.kind with
      | .thread =>
        if !s.flagsClear i.warp none wait then s.stall
        else
          let s := if wait = 0 then s else s.regsAcquired i.warp
          let s := s.modThreads i.warp i.lanes fun t => { t with seta := seta, setb := setb, wait := wait }
          let det := ((s.teamOf i.warp).map fun t => t.vals.det).getD false
          if yld = 1 ∧ !det then (s.modWarp i.warp fun w => { w with yielded := true }).endTurn i.warp else s
      | .helper =>
        if i.lanes.any fun l => !s.flagsClear i.warp (some l) wait then s.stall
        else i.lanes.foldl (fun s l => s.modHelper i.warp l fun h => { h with seta := seta, setb := setb, wait := wait }) s)

end Sys2Proof.Machine
end

