-- ==== Sys2Proof/Machine/FloatAlu.lean ====
section
/-! DEFINITION. FP32 arithmetic and packed bf16 and f16 (R107, R115 to R119). -/

namespace Sys2Proof.Machine

/-- The rounding mode and saturation of the group's PFX (R74, R94). -/
def Issue.mode (i : Issue) : RMode := RMode.ofBits ((i.pfx.map (·.round)).getD 0)

def Issue.sat (i : Issue) : Bool := (i.pfx.map (·.sat)).getD 0 == 1

/-- The modifiers of A and of B: absolute value, then negation (R107). -/
def Issue.modA (i : Issue) (v : Num) : Num :=
  match i.pfx with
  | none => v
  | some p => v.modified (p.nega == 1) (p.absa == 1)

def Issue.modB (i : Issue) (v : Num) : Num :=
  match i.pfx with
  | none => v
  | some p => v.modified (p.negb == 1) (p.absb == 1)

/-- A float word of two f32 sources. -/
def State.falu2 (s : State) (f : FmtA) (op : Issue → Num → Num → Word) : State :=
  s.withRegs (vregsOf f.ta f.a ++ vregsOf f.tb f.b) [f.d.toNat] fun i s =>
    s.writeLanes i f.d.toNat fun l =>
      op i (i.modA (f32 (s.opndF i l .f32 false f.ta f.a))) (i.modB (f32 (s.opndF i l .f32 false f.tb f.b)))

/-- The exact sum of terms, rounded once to f32. -/
def roundSum (i : Issue) (ts : List Num) : Word := toF32 (sumExact i.mode ts) i.mode i.sat

/-- FADD (R115). -/
def execFadd (f : FmtA) (s : State) : Res := .next (s.falu2 f (fun i a b => roundSum i [a, b]))

/-- FSUB (R115). -/
def execFsub (f : FmtA) (s : State) : Res := .next (s.falu2 f (fun i a b => roundSum i [a, b.negate]))

/-- FMUL (R115). -/
def execFmul (f : FmtA) (s : State) : Res := .next (s.falu2 f (fun i a b => toF32 (a.mul b) i.mode i.sat))

/-- FFMA (R115): the product is not rounded. -/
def execFfma (f : FmtA) (s : State) : Res :=
  .next (match s.iss with
    | none => s
    | some i =>
      let c := i.cOpnd f.d
      s.withRegs (vregsOf f.ta f.a ++ vregsOf f.tb f.b ++ vregsOf c.1 c.2) [f.d.toNat] fun i s =>
        s.writeLanes i f.d.toNat fun l =>
          roundSum i [(i.modA (f32 (s.opndF i l .f32 false f.ta f.a))).mul (i.modB (f32 (s.opndF i l .f32 false f.tb f.b))),
            f32 (s.opndF i l .f32 false c.1 c.2)])

/-- One of two operands, as R116 chooses: `lo` for the smaller. -/
def fminmax (lo : Bool) (a b : Num) : Word :=
  if a.isNaN && b.isNaN then 0x7FC0_0000
  else if a.isNaN then toF32 b .rne false
  else if b.isNaN then toF32 a .rne false
  else
    let aLess := a.cmp b < 0 || (a.isNegZero && b.isPosZero)
    toF32 (if aLess == lo then a else b) .rne false

/-- FMIN (R116). -/
def execFmin (f : FmtA) (s : State) : Res := .next (s.falu2 f (fun _ a b => fminmax true a b))

/-- FMAX (R116). -/
def execFmax (f : FmtA) (s : State) : Res := .next (s.falu2 f (fun _ a b => fminmax false a b))

/-- A value times 2^k, exactly (R117). -/
def Num.scale (v : Num) (k : Int) : Num :=
  match v with
  | .fin n m e => .fin n m (e + k)
  | .inf n => .inf n
  | .nan => .nan

/-- FSCALE (R117): B is an integer. -/
def execFscale (f : FmtA) (s : State) : Res :=
  .next (s.withRegs (vregsOf f.ta f.a ++ vregsOf f.tb f.b) [f.d.toNat] fun i s =>
    s.writeLanes i f.d.toNat fun l =>
      toF32 ((i.modA (f32 (s.opndF i l .f32 false f.ta f.a))).scale (s.opnd i l f.tb f.b).toInt) i.mode i.sat)

/-- A packed word of two elements of type `t`: `op` on each (R118). -/
def State.pack2 (s : State) (f : FmtA) (t : FType) (op : Issue → Num → Num → Nat) : State :=
  s.withRegs (vregsOf f.ta f.a ++ vregsOf f.tb f.b) [f.d.toNat] fun i s =>
    s.writeLanes i f.d.toNat fun l =>
      let a := s.opndF i l t true f.ta f.a
      let b := s.opndF i l t true f.tb f.b
      let e (k : Nat) : BitVec 16 :=
        BitVec.ofNat 16 (op i (i.modA (decodeF t (half a k).toNat)) (i.modB (decodeF t (half b k).toNat)))
      packHalves (e 1) (e 0)

/-- A packed multiply-add: one rounding per element (R118). -/
def State.packFma (s : State) (f : FmtA) (t : FType) : State :=
  match s.iss with
  | none => s
  | some i =>
    let c := i.cOpnd f.d
    s.withRegs (vregsOf f.ta f.a ++ vregsOf f.tb f.b ++ vregsOf c.1 c.2) [f.d.toNat] fun i s =>
      s.writeLanes i f.d.toNat fun l =>
        let a := s.opndF i l t true f.ta f.a
        let b := s.opndF i l t true f.tb f.b
        let z := s.opndF i l t true c.1 c.2
        let e (k : Nat) : BitVec 16 := BitVec.ofNat 16 (roundTo (sumExact i.mode
          [(i.modA (decodeF t (half a k).toNat)).mul (i.modB (decodeF t (half b k).toNat)), decodeF t (half z k).toNat])
          t i.mode i.sat)
        packHalves (e 1) (e 0)

/-- A packed dot product accumulated into f32 (R119). -/
def State.packDot (s : State) (f : FmtA) (t : FType) : State :=
  match s.iss with
  | none => s
  | some i =>
    let c := i.cOpnd f.d
    s.withRegs (vregsOf f.ta f.a ++ vregsOf f.tb f.b ++ vregsOf c.1 c.2) [f.d.toNat] fun i s =>
      s.writeLanes i f.d.toNat fun l =>
        let a := s.opndF i l t true f.ta f.a
        let b := s.opndF i l t true f.tb f.b
        let p (k : Nat) : Num := (i.modA (decodeF t (half a k).toNat)).mul (i.modB (decodeF t (half b k).toNat))
        roundSum i [p 0, p 1, f32 (s.opndF i l .f32 false c.1 c.2)]

def packAdd (t : FType) (i : Issue) (a b : Num) : Nat := roundTo (sumExact i.mode [a, b]) t i.mode i.sat

def packMul (t : FType) (i : Issue) (a b : Num) : Nat := roundTo (a.mul b) t i.mode i.sat

/-- BADD2 (R118). -/
def execBadd2 (f : FmtA) (s : State) : Res := .next (s.pack2 f .bf16 (packAdd .bf16))

/-- BMUL2 (R118). -/
def execBmul2 (f : FmtA) (s : State) : Res := .next (s.pack2 f .bf16 (packMul .bf16))

/-- BFMA2 (R118). -/
def execBfma2 (f : FmtA) (s : State) : Res := .next (s.packFma f .bf16)

/-- HADD2 (R118). -/
def execHadd2 (f : FmtA) (s : State) : Res := .next (s.pack2 f .f16 (packAdd .f16))

/-- HMUL2 (R118). -/
def execHmul2 (f : FmtA) (s : State) : Res := .next (s.pack2 f .f16 (packMul .f16))

/-- HFMA2 (R118). -/
def execHfma2 (f : FmtA) (s : State) : Res := .next (s.packFma f .f16)

/-- BDOT2 (R119). -/
def execBdot2 (f : FmtA) (s : State) : Res := .next (s.packDot f .bf16)

/-- HDOT2 (R119). -/
def execHdot2 (f : FmtA) (s : State) : Res := .next (s.packDot f .f16)

end Sys2Proof.Machine
end

