-- ==== Sys2Proof/Machine/Help.lean ====
section
/-! DEFINITION. Recruiting helpers (R289 to R309): lending lanes, chunks, joining, forced release. -/

namespace Sys2Proof.Machine

/-! ### Lendable lanes -/

/-- Slots lent on a scheduler. -/
def State.lentSlots (s : State) (g : Nat) : List Nat :=
  s.warps.flatMap fun e => match e.2.recruit with
    | some r => if e.2.gs = g then r.helpers.map (·.slot) else []
    | none => []

/-- Lanes lent to a team. -/
def State.lentTo (s : State) (t : Team) : Nat :=
  ((s.teamWarps t).map fun w => (((s.warp w).bind (·.recruit)).map fun r => r.helpers.length).getD 0).sum

/-- Is a parked thread's set releasable: is no thread of the warp awaited there (R23), or was none when a lent lane of it was
called back (R25)? -/
def Warp.releasable (w : Warp) (l : Nat) : Bool :=
  match w.threads[l]? with
  | none => false
  | some t => t.st == .parked && (t.freed || w.threads.all fun x => !x.awaitedAt (t.pc / 12) t.depth)

/-- Lanes of a warp in a state, not lent, with their slots; a parked lane only while its set is not releasable. -/
def Warp.idleLanes (wk : Nat) (w : Warp) (st : TState) (lent : List Nat) : List (Nat × Origin) :=
  (w.lanesWhere fun t => t.st == st).filterMap fun l =>
    if lent.contains (w.slot + l) then none
    else if st = .parked then (if w.releasable l then none else some (w.slot + l, .parked wk l))
    else some (w.slot + l, .exited wk l)

/-- Insert by slot. -/
def insertSlot (x : Nat × Origin) : List (Nat × Origin) → List (Nat × Origin)
  | [] => [x]
  | y :: t => if x.1 ≤ y.1 then x :: y :: t else y :: insertSlot x t

/-- The candidates of R289 in order. -/
def State.candidates (s : State) (wk : Nat) (w : Warp) (t : Team) : List (Nat × Origin) :=
  let g := w.gs
  let lent := s.lentSlots g
  if t.vals.det then
    ((t.reserved.filter fun p => p.1 == g && !lent.contains p.2).map fun p => (p.2, Origin.empty)).foldl
      (fun l x => insertSlot x l) []
  else
    let others := (s.teamWarps t).filter fun k => k != wk && ((s.warp k).map fun x => x.sched == w.sched).getD false
    let of (st : TState) : List (Nat × Origin) := (others.flatMap fun k => match s.warp k with
      | some x => x.idleLanes k st lent
      | none => []).foldl (fun l x => insertSlot x l) []
    let used := s.usedSlots g
    let empty := ((List.range 1024).filter fun j => !used.contains j).map fun j => (j, Origin.empty)
    w.idleLanes wk .exited lent ++ of .exited ++ empty ++ w.idleLanes wk .parked lent ++ of .parked

/-- Free helper contexts of a scheduler (R290), those reserved for deterministic teams apart (R308). -/
def State.freeContexts (s : State) (g : Nat) : Nat :=
  let reserved := s.reservedSlots g
  32 - reserved.length - ((s.lentSlots g).filter fun j => !reserved.contains j).length

/-- A helper as lent (R294). -/
def newHelper (idx slot body epoch : Nat) (o : Origin) : Helper :=
  { idx := idx, slot := slot, origin := o, st := .free, pc := 12 * body, bundle := idx, passover := 0
    preds := Config.undefPreds epoch (1024 + idx), vregs := [], epoch := epoch, flags := List.replicate 12 0, seta := 15
    setb := 15, wait := 0, buf := [] }

/-- Lend lanes to a warp's recruitment (R289, R304). -/
def State.lend (s : State) (wk : Nat) (lanes : List (Nat × Origin)) : State :=
  lanes.foldl (fun s x =>
    let (e, s) := s.fresh
    s.modWarp wk fun w => { w with recruit := w.recruit.map fun r => { r with
      helpers := r.helpers ++ [newHelper r.nextIdx x.1 r.body (e + 1) x.2]
      nextIdx := (r.nextIdx + 1) % 2 ^ 32 } }) s

/-- RECRUIT (R293): it decides the grant, lends the lanes and opens the recruitment in one step. -/
def execRecruit (d : BitVec 6) (b : BitVec 7) (n : BitVec 5) (s : State) : Res :=
  .next (s.withThread (regRange b.toNat 4) [] (who := State.leaderLanes) fun i s =>
    match s.leader i, s.warp i.warp, s.teamOf i.warp with
    | some l, some w, some t =>
      if (s.recruiter i).isSome then s.stall
      else
        let body := (s.rdV i l b.toNat).toNat
        let cnt := (s.rdV i l (b.toNat + 1)).toNat
        let c := (s.rdV i l (b.toNat + 2)).toNat
        let types := (s.rdV i l (b.toNat + 3)).setWidth 4
        s.withTargets i w t [body] fun s =>
          let k := ceilDiv cnt c
          let cands := s.candidates i.warp w t
          let ll := if t.vals.det then cands.length else min cands.length (s.freeContexts w.gs)
          let (g, why) : Nat × Nat :=
            if w.recruit.isSome then (0, 3)
            else if cnt = 0 ∨ c = 0 ∨ 64 < k then (0, 4)
            else if t.vals.det then
              let g := min n.toNat ll
              (g, if g = n.toNat then 0 else 2)
            else
              let bb := t.vals.help - s.lentTo t
              let g := min n.toNat (min bb ll)
              (g, if g = n.toNat then 0 else if bb ≤ ll then 2 else 1)
          let s := s.setS i.warp d.toNat (BitVec.ofNat 32 (at_ why 8 + g))
          if g = 0 then s
          else
            let s := (s.postThread i.warp l none).postHelpers i.warp
            let s := s.modWarp i.warp fun w => { w with recruit := some {
              lane := l, body := body, n := cnt, c := c, types := types
              chunks := List.replicate k { st := .unclaimed, slots := [0, 0, 0, 0] }
              helpers := [], nextIdx := 0, heldFor := [], trap := none } }
            s.lend i.warp (cands.take g)
    | _, _, _ => s)

/-! ### Chunks -/

def Recruit.modChunk (r : Recruit) (c : Nat) (f : Chunk → Chunk) : Recruit := { r with chunks := r.chunks.modify c f }

def State.modRecruit (s : State) (wk : Nat) (f : Recruit → Recruit) : State :=
  s.modWarp wk fun w => { w with recruit := w.recruit.map f }

/-- Waiting helpers look again: a chunk changed state (R298). -/
def State.wakeHelpers (s : State) (wk : Nat) : State :=
  match (s.warp wk).bind (·.recruit) with
  | none => s
  | some r => s.pendAll ((r.helpers.filter fun h => h.st == .wait).map fun h => .hchunkWake wk h.idx)

/-- HCHUNK of one helper (R298): a chunk, the end, or a wait. -/
def State.takeChunk (s : State) (wk idx : Nat) : State :=
  match (s.warp wk).bind (·.recruit) with
  | none => s
  | some r =>
    let set (h : Helper) (v : List (Nat × Word)) (p : Bool) (st : HState) : Helper :=
      { h with st := st, vregs := v.foldl (fun t e => tset t e.1 e.2) h.vregs, preds := setPredBit h.preds 0 p }
    match (List.range r.chunks.length).find? fun c => ((r.chunks[c]?).map fun x => x.st == .unclaimed).getD false with
    | some c =>
      s.modRecruit wk fun r => (r.modChunk c fun x => { x with st := .claimed idx }).modHelper idx fun h =>
        set h [(64, BitVec.ofNat 32 (c * r.c)), (65, BitVec.ofNat 32 (min r.c (r.n - c * r.c)))] true (.chunk c)
    | none =>
      if r.chunks.all fun c => c.st == .done then s.modHelper wk idx fun h => set h [(65, 0)] false .free
      else s.modHelper wk idx fun h => { h with st := .wait }

/-- A HELP word of helpers: all must hold a chunk, or none may. -/
def State.helperWord (s : State) (needChunk : Option Bool) (k : Issue → Warp → Recruit → State → State) : State :=
  match s.iss with
  | none => s
  | some i =>
    if s.onControl i then s.forbid i 0x25 (s.acting i)
    else match i.kind, s.warp i.warp with
      | .helper, some w => match w.recruit with
        | none => s
        | some r =>
          let holds (l : Nat) : Bool := match (w.helper l).map (·.st) with
            | some (HState.chunk _) => true
            | _ => false
          match needChunk with
          | none => k i w r s
          | some b => match (s.acting i).filter fun l => holds l != b with
            | [] => k i w r s
            | x :: y => s.illegal 0x24 (x :: y)
      | _, _ => s.forbid i 0x24 (s.acting i)

/-- HCHUNK (R298). -/
def execHchunk (s : State) : Res :=
  .next (s.helperWord (some false) fun i _ _ s => (s.acting i).foldl (fun s l => s.takeChunk i.warp l) s)

/-- HCHUNK_WAKE (R298): a helper that waits looks again. -/
def execHchunkWake (warp helper : Nat) (s : State) : Res :=
  .next (match (s.warp warp).bind fun w => w.helper helper with
    | some h => if h.st = .wait then s.takeChunk warp helper else s
    | none => s)

/-- The written bytes of an entry, as runs. -/
def BufEnt.runs (e : BufEnt) : List (Nat × List Byte) :=
  (List.range 8).foldl (fun rs i => match (e.bytes[i]?).join with
    | none => rs
    | some b => match rs.getLast? with
      | some (o, l) => if o + l.length = i then rs.dropLast ++ [(o, l ++ [b])] else rs ++ [(i, [b])]
      | none => [(i, [b])]) []

/-- Does a committed write move on in HCOMMIT's own step (R219)? -/
def Loc.commits (l : Loc) : Bool :=
  match l with
  | .spad _ _ => true
  | .mem .normal _ => true
  | _ => false

/-- The writes that a chunk buffer leaves as, in its order: place, global address, bytes. -/
def Helper.writes (h : Helper) : List (Loc × Nat × List Byte) :=
  h.buf.flatMap fun e =>
    if e.pair then
      if e.loc.key.2 % 16 = 0 then
        let rest := (h.buf.find? fun x => x.loc == e.loc.add 8).map (·.bytes)
        [(e.loc, e.va, (e.bytes ++ rest.getD []).filterMap id)]
      else []
    else e.runs.map fun r => (e.loc.add r.1, e.va + r.1, r.2)

/-- The writes of a chunk buffer move on (R219): scratchpad, NORMAL and stack locations at once; the others leave in the
order of the buffer, one POST at a time. -/
def State.publish (s : State) (wk : Nat) (w : Warp) (h : Helper) : State :=
  let (c, s) := s.fresh
  h.writes.foldl (fun s e =>
    let (id, s) := s.fresh
    let x : Wr := { id := id, warp := wk, helper := some h.idx, lane := h.idx, core := w.core, op := c, va := e.2.1
                    loc := e.1, data := e.2.2 }
    let s := (s.kvRaceAt e.1 e.2.2.length).keepOld wk w.core e.2.1 e.1 e.2.2.length
    if e.1.commits then s.postWr x (s.ctxOf wk)
    else { s with m := { s.m with tbuf := s.m.tbuf ++ [x] }, pending := s.pending ++ [.post id] }) s

/-- The fold of the reduction slots in chunk order (R303). -/
def Recruit.fold (r : Recruit) (k : Nat) : Word :=
  let slot (c : Chunk) : Word := c.slots.getD k 0
  match r.chunks with
  | [] => 0
  | c :: cs => cs.foldl (fun t x =>
    if r.types.getLsbD k then t + slot x else toF32 (sumExact .rne [f32 t, f32 (slot x)]) .rne false) (slot c)

/-- A helper trap's report goes into the special registers and the recruitment closes (R306). -/
def State.closeTrapped (s : State) (wk : Nat) : State :=
  s.modWarp wk fun w => match w.recruit.bind (·.trap) with
    | none => w
    | some h => { w with
      recruit := none, helperidx := BitVec.ofNat 32 h.idx, helperchunk := h.chunk, helperpc := BitVec.ofNat 32 h.pc
      helperlane := BitVec.ofNat 32 h.lane }

/-- The trap that a helper trap gives at HJOIN (R170, R306). -/
def HelperTrap.atJoin (h : HelperTrap) (lane pc : Nat) : TrapRec :=
  { cause := 0x0D, pc := pc, mask := [lane], addr := h.addr
    info := BitVec.ofNat 32 (h.cause + at_ (h.info % 256) 8), uerec := none }

/-- The join completes in one step, or the recruiter waiting there takes the helper trap (R303, R306). -/
def State.joinTry (s : State) (wk : Nat) : State :=
  match s.warp wk with
  | none => s
  | some w => match w.recruit with
    | none => s
    | some r => match (w.threads[r.lane]?).map (·.st) with
      | some (TState.blocked (Block.join d gpc)) =>
        match r.trap with
        | some h =>
          if w.trap ≠ .idle && w.trap ≠ .handling then s.pend (.hjoinComplete wk)
          else
            let s := s.modThread wk r.lane fun t =>
              { t with st := .runnable, pc := gpc, bundle := r.lane, due := false }
            (s.closeTrapped wk).takeTrap wk [r.lane] (h.atJoin r.lane gpc)
        | none =>
          if !r.joined then s
          else
            let s := ((s.postHelpers wk).dropHelpers wk).modWarp wk fun w => { w with recruit := none }
            let s := s.wake wk [r.lane]
            match d with
            | none => s
            | some d => (List.range 4).foldl (fun s k => s.setV wk r.lane (d + k) (r.fold k)) s
      | _ => s

/-- What may follow when a helper has ended or a chunk is done (R303, R304). -/
def State.afterHelper (s : State) (wk : Nat) : State :=
  match (s.warp wk).bind (·.recruit) with
  | none => s
  | some r =>
    if r.joined then s.pend (.hjoinComplete wk)
    else if r.helpers.isEmpty && r.trap.isNone then s.pend (.helperReplacement wk)
    else s

/-- HCOMMIT (R300): the buffer moves on, the slots are fixed, the chunk is done. -/
def execHcommit (s : State) : Res :=
  .next (s.helperWord (some true) fun i w _ s =>
    let s := (s.acting i).foldl (fun s l => match w.helper l with
      | none => s
      | some h => match h.st with
        | .chunk c =>
          (s.publish i.warp w h).modRecruit i.warp fun r =>
            (r.modChunk c fun x => { x with st := .done }).modHelper l fun h => { h with st := .free, buf := [] }
        | _ => s) s
    (s.wakeHelpers i.warp).afterHelper i.warp)

/-- HREDUCE (R301). -/
def execHreduce (r : BitVec 7) (k : BitVec 2) (s : State) : Res :=
  .next (match s.iss with
    | none => s
    | some i0 =>
      if i0.kind = .helper ∧ 79 < r.toNat then s.forbid i0 0x24 (s.acting i0)
      else s.helperWord (some true) fun i w rc s =>
        (s.acting i).foldl (fun t l => match (w.helper l).map (·.st) with
          | some (HState.chunk c) =>
            let a := s.rdV i l r.toNat
            t.modRecruit i.warp fun x => x.modChunk c fun ch =>
              let v := ch.slots.getD k.toNat 0
              let n := if rc.types.getLsbD k.toNat then v + a else toF32 (sumExact .rne [f32 v, f32 a]) .rne false
              { ch with slots := ch.slots.set k.toNat n }
          | _ => t) s)

/-- HEXIT (R302). -/
def execHexit (s : State) : Res :=
  .next (s.helperWord (some false) fun i _ _ s =>
    let ls := s.acting i
    let s := ls.foldl (fun s l => s.dropHelper i.warp l) s
    (s.modRecruit i.warp fun r => { r with helpers := r.helpers.filter fun h => !ls.contains h.idx }).afterHelper i.warp)

/-- HJOIN (R303, R306): it acts only in the recruiter, which waits there for the join condition or takes the helper trap. -/
def execHjoin (d : BitVec 7) (w : BitVec 1) (s : State) : Res :=
  .next (match s.iss with
    | none => s
    | some i =>
      if i.kind = .helper then s.forbid i 0x24 (s.acting i)
      else match s.regError i [] (if w = 1 then regRange d.toNat 4 else []) with
        | some c => s.forbid i c (s.acting i)
        | none => match (s.warp i.warp).bind (·.recruit) with
          | none => s
          | some r =>
            if !(s.acting i).contains r.lane then s
            else match r.trap with
              | some h => (s.closeTrapped i.warp).raiseRec (h.atJoin r.lane (12 * i.p + 4 * i.slot))
              | none =>
                (s.modThread i.warp r.lane fun t =>
                  { t with st := .blocked (.join (if w = 1 then some d.toNat else none) (12 * i.p + 4 * i.slot)) }).joinTry
                  i.warp)

/-- HJOIN_COMPLETE (R303, R306). -/
def execHjoinComplete (warp : Nat) (s : State) : Res := .next (s.joinTry warp)

/-! ### Forced release (R25, R304) -/

/-- A chunk is aborted and goes back to the pool: its helper's buffer and its slots are discarded. -/
def State.abortChunk (s : State) (wk idx : Nat) (st : ChunkSt) : State :=
  match (s.warp wk).bind fun w => w.helper idx with
  | none => s
  | some h => match h.st with
    | .chunk c => s.modRecruit wk fun r =>
        (r.modChunk c fun _ => { st := st, slots := [0, 0, 0, 0] }).modHelper idx fun h => { h with buf := [], st := .free }
    | _ => s

/-- The helper lent from a parked lane: the warp it works for and its index. -/
def State.lentFrom (s : State) (wk l : Nat) : Option (Nat × Nat) :=
  s.warps.findSome? fun e => e.2.recruit.bind fun r =>
    (r.helpers.find? fun h => h.origin == .parked wk l).map fun h => (e.1, h.idx)

/-- A lane is forced back: its chunk is aborted, and it returns by FORCED_RELEASE_RETURN. -/
def State.forceBack (s : State) (wk idx : Nat) : State :=
  match (s.warp wk).bind fun w => w.helper idx with
  | none => s
  | some h =>
    if h.st = .reclaim then s
    else
      let s := s.abortChunk wk idx .unclaimed
      let s := s.modHelper wk idx fun h => { h with st := .reclaim }
      (s.wakeHelpers wk).pend (.forcedReleaseReturn wk idx)

/-- A released thread (R24). -/
def Thread.release (t : Thread) : Thread :=
  { t with st := .runnable, meet := t.meetout, meetout := t.meetout &&& 0x7FFF_FFFF, freed := false }

/-- PARK_RELEASE (R23 to R25): each set of parked threads that none of the warp's threads is awaited with is released
together; one with lent lanes, which are forced back, once the last of them is, whatever its threads have done since (R25,
R309). -/
def State.parkRelease (s : State) (wk : Nat) : State :=
  match s.warp wk with
  | none => s
  | some w =>
    let ps := w.lanesWhere fun t => t.st == .parked
    let rs := ps.filter fun l => w.releasable l
    let key (l : Nat) : Nat := ((w.threads[l]?).map fun t => t.pc * 256 + t.depth).getD 0
    let lent := rs.filterMap fun l => (s.lentFrom wk l).map fun x => (key l, x)
    let s := lent.foldl (fun s e => s.forceBack e.2.1 e.2.2) s
    let held (l : Nat) : Bool := lent.any fun e => e.1 == key l
    (s.modThreads wk (rs.filter held) fun t => { t with freed := true }).modThreads wk (rs.filter fun l => !held l) Thread.release

/-- FORCED_RELEASE_RETURN (R304): the lane is back; its set is released when no lane of it is lent. -/
def execForcedReleaseReturn (warp helper : Nat) (s : State) : Res :=
  .next (match (s.warp warp).bind fun w => w.helper helper with
    | none => s
    | some h =>
      if h.st ≠ .reclaim then s
      else
        let s := (s.dropHelper warp helper).modRecruit warp fun r => { r with helpers := r.helpers.filter fun x => x.idx != helper }
        let s := s.afterHelper warp
        match h.origin with
        | .parked ow _ => s.parkRelease ow
        | _ => s)

/-- HELPER_REPLACEMENT (R304): a recruitment whose last helper has ended with chunks not done borrows another lane. -/
def execHelperReplacement (warp : Nat) (s : State) : Res :=
  .next (match s.warp warp, s.teamOf warp with
    | some w, some t => match w.recruit with
      | none => s
      | some r =>
        if !r.helpers.isEmpty || r.joined || r.trap.isSome then s
        else
          let cands := s.candidates warp w t
          if !t.vals.det && (s.freeContexts w.gs == 0 || t.vals.help ≤ s.lentTo t) then s.pend (.helperReplacement warp)
          else match cands with
            | [] => s.pend (.helperReplacement warp)
            | x :: _ => s.lend warp [x]
    | _, _ => s)

end Sys2Proof.Machine
end

