-- ==== Sys2Proof/Machine/Bolter.lean ====
section
/-! DEFINITION. The Bolter (R15, R23, R425): bundles re-formed, parked threads released, deferred traps delivered; and the
entry of a trap handler (R167). -/

namespace Sys2Proof.Machine

/-- The threads whose PCs await their return records with a thread's (R140). -/
def State.retLanes (s : State) (wk l : Nat) : Option (List Nat) :=
  (s.ops.find? fun o => o.warp == wk && o.kind == .ret && o.lanes.contains l).map (·.lanes)

/-- Does a thread's PC await its return record (R140)? -/
def State.returning (s : State) (wk l : Nat) : Bool := (s.retLanes wk l).isSome

/-- The runnable lanes that stand in a bundle with a label. -/
def State.bundleLanes (s : State) (wk label : Nat) : List Nat :=
  match s.warp wk with
  | none => []
  | some w => (w.lanesWhere fun t => t.runs && t.bundle == label).filter fun l => !s.returning wk l

/-- Do two threads stand at one PC, running or waiting for the same thing? -/
def Thread.beside (a b : Thread) : Bool := a.pc == b.pc && if a.runs then b.runs else b.st == a.st

/-- The bundle of a thread when bundles are made of the threads `lanes`, named by its lowest member (R15). The threads of one
RET stay together until their records tell their PCs (R140), and so do those that wait at one PC for the same thing (DEDUCED
70). -/
def State.bundleOf (s : State) (wk : Nat) (w : Warp) (lanes : List Nat) (l : Nat) : Nat :=
  (match s.retLanes wk l with
    | some ls => minNat? ls
    | none => (w.threads[l]?).bind fun t => lanes.find? fun k =>
        !s.returning wk k && ((w.threads[k]?).map t.beside).getD false).getD l

/-- Bundles of a warp and of its helpers become the sets with equal PCs (R15, R294). -/
def State.reform (s : State) (wk : Nat) : State :=
  match s.warp wk with
  | none => s
  | some _ => s.modWarp wk fun w =>
    let ts := w.threads.mapIdx fun l t => { t with bundle := s.bundleOf wk w w.lanes l }
    let rc := w.recruit.map fun r =>
      let hs := r.helpers.map fun h => { h with
        bundle := ((r.helpers.find? fun x => x.pc == h.pc && x.st != .wait && x.st != .reclaim).map (·.idx)).getD h.idx }
      { r with helpers := hs }
    { w with threads := ts, recruit := rc }

/-- One deferred trap, if its moment has come: whether it was delivered or dropped, and the state. -/
def State.deliverOne (s : State) (wk : Nat) (d : Deferred) : Bool × State :=
  match s.warp wk with
  | none => (false, s)
  | some w =>
    let lives := sortNat (d.lanes.filter fun l => ((w.threads[l]?).map Thread.live).getD false)
    let drop (s : State) (rest : List Deferred) : State :=
      s.modWarp wk fun w => { w with deferred := rest ++ w.deferred.erase d }
    match lives with
    | [] => (true, drop s [])
    | l :: _ =>
      let ready := match w.trap with
        | .idle => true
        | .handling => !d.again
        | .entering _ => false
      match w.threads[l]? with
      | none => (false, s)
      | some t =>
        if !ready || !t.runs || s.returning wk l then (false, s)
        else
          let b := s.bundleLanes wk t.bundle
          let marked := lives.filter fun x => b.contains x
          let rest := lives.filter fun x => !b.contains x
          let s := drop s (if rest.isEmpty then [] else
            [{ d with lanes := rest, again := true, dests := d.dests.filter fun x => !marked.contains x.1 }])
          let s := s.modWarp wk fun w => { w with uedests := d.dests.filter fun x => marked.contains x.1 }
          (true, s.takeTrap wk b {
            cause := d.cause, pc := t.pc, mask := marked
            addr := ((d.addrs.find? fun x => x.1 == l).map (·.2)).getD 0, info := d.info, uerec := d.uerec })

/-- DEFERRED_TRAP_DELIVERY (R425): the first deferred trap that can be delivered is. -/
def State.deliver (s : State) (wk : Nat) : State :=
  match s.warp wk with
  | none => s
  | some w =>
    (w.deferred.foldl (fun (p : Bool × State) d => if p.1 then p else p.2.deliverOne wk d) (false, s)).2

/-- BOLTER_REFORM (R15, R23, R25, R425). -/
def execBolterReform (warp : Nat) (s : State) : Res :=
  .next (((s.parkRelease warp).reform warp).deliver warp)

/-- An uncorrectable error that returns while the warp waits to enter its handler for another joins that delivery, in the
threads of the trapping bundle `b` (DEDUCED 23): one handler run then repairs what both loads read (R337, R339). -/
def Warp.joinErrors (w : Warp) (b : List Nat) : Warp :=
  let joins (d : Deferred) (l : Nat) : Bool := d.cause == 7 && b.contains l
  let rest := w.deferred.filterMap fun d => match d.lanes.filter fun l => !joins d l with
    | [] => none
    | ls => some (if ls.length = d.lanes.length then d else
        { d with lanes := ls, again := true, dests := d.dests.filter fun x => !joins d x.1 })
  { w with
    deferred := rest
    uedests := w.uedests ++ w.deferred.flatMap fun d => d.dests.filter fun x => joins d x.1
    threads := w.threads.mapIdx fun l t =>
      if w.deferred.any fun d => d.lanes.contains l && joins d l then { t with marked := true } else t }

/-- HANDLER_START (R167, R221): once the warp's older loads, stores and atomics have been performed, the threads of the
trapping bundle run the handler as one bundle. -/
def execHandlerStart (warp : Nat) (s : State) : Res :=
  .next (match s.warp warp, s.teamOf warp with
    | some w, some t => match w.trap with
      | .entering b =>
        let s := s.postWarp warp
        let older := s.ops.any fun o => o.warp == warp && o.helper.isNone &&
          (o.kind == .load || o.kind == .store || o.kind == .atomic || o.kind == .ret)
        if older then s.pend (.handlerStart warp)
        else
          let ls := b.filter fun l => ((w.threads[l]?).map Thread.live).getD false
          match minNat? ls with
          | none => s.modWarp warp fun w => { w with trap := .idle }
          | some m =>
            s.modWarp warp fun w =>
              let w := if w.trapcause = 7 then w.joinErrors b else w
              let w := ls.foldl (fun (w : Warp) l => w.modThread l fun x =>
                { x with
                  st := .runnable, pc := 12 * t.vals.hpc, handling := true, bundle := m, ssa := x.seta, ssb := x.setb
                  wait := 0, due := false }) w
              { w with trap := .handling, uerpl := [] }
      | _ => s
    | _, _ => s)

end Sys2Proof.Machine
end

