-- ==== Sys2Proof/Machine/Eng.lean ====
section
/-! DEFINITION. What the asynchronous engines share: the checks of a structure's address, reading at home points (R215), a
descriptor that holds its group at issue (R256, R332), and gates (R345, R373). -/

namespace Sys2Proof.Machine

/-- An engine-error trap (R170, code 0x12): no address. -/
def State.engineErr (s : State) (ls : List Nat) (info : Nat) : State := s.raise 0x12 ls 0 info

/-- A structure's address that is no multiple of 2^lg (R170, code 0x04). -/
def State.badAlign (s : State) (l addr lg : Nat) : State := s.raise 4 [l] addr (at_ lg 4)

/-- The checks of a structure's address: global aperture, then alignment. -/
def State.structAddr (s : State) (l addr lg : Nat) (k : State → State) : State :=
  if apertureCode addr ≠ 0 then s.raise 2 [l] addr (apertureCode addr)
  else if addr % 2 ^ lg ≠ 0 then s.badAlign l addr lg
  else k s

/-- Must the asynchronous issue of a thread wait: for its flag, for its counter operations (R373), or for the commit token
(R345)? -/
def State.engHeld (s : State) (i : Issue) (flag : Option Nat) (ls : List Nat) (gate : Bool) : Bool :=
  !s.flagRoom i.warp none flag || s.acqWait i ls || (gate && match s.warp i.warp, s.teamOf i.warp with
    | some w, some t => t.vals.det && !s.holdsToken w t
    | _, _ => false)

/-- Bytes at a location's home point as an engine reads them, and whether an uncorrectable code word was read; none for
another device, whose answer comes later. -/
def State.homeRead (s : State) (loc : Loc) (n ctx va : Nat) : Option (List Byte × Bool) × State :=
  match loc with
  | .spad k o => (some (s.spadBytes k o n, false), s)
  | .onchip k o => (some ((List.range n).map fun i => s.onchipByte k (o + i), false), s)
  | .mem .sw pa => let (b, u, s) := s.swRead pa n (some (ctx, va)); (some (b, u), s)
  | .mem _ pa => (some (s.homeBytes pa n, s.homeBadAt pa n), s)
  | .host c ha => (some (s.hostBytes c ha n, false), s)
  | .peer _ _ => (none, s)

/-- The key of a descriptor read for a group. -/
def descKey (warp lane addr : Nat) : Nat := (warp * 128 + lane) * 2 ^ 64 + addr

/-- A descriptor of `n` bytes for the leader of the group, which is held until the event `ev` has read it; the same read
serves the group when it issues. A translation fault is the group's; one that cannot be read raises uncorrectable-error in the
leader (R253, R414; DESIGN CHOICE 105). -/
def State.withDesc (s : State) (i : Issue) (l addr : Nat) (ev : Nat → Instr)
    (k : Warp → Team → List Byte → State → State) : State :=
  match s.warp i.warp, s.teamOf i.warp with
  | some w, some t =>
    let key := descKey i.warp l addr
    match s.descs.find? fun e => e.1 == key with
    | some e =>
      if e.2.isEmpty then s.raise 7 [l] addr 0x800
      else k w t e.2 { s with descs := s.descs.filter fun x => x.1 != key }
    | none => match s.engineXlate (.core w.core) t.ctx addr l .load with
      | (.fault f, s) => s.groupFaults w [f]
      | (.wait, s) => s.stall
      | (.at _, s) => s.stallFor (ev key)
  | _, _ => s

/-- Bytes read for a thread at a home point, with those of its own that have not got there: in its buffer, or dirty at its
core (R208). -/
def State.ownBytes (s : State) (a : Agent) (loc : Loc) (bs : List Byte) : List Byte :=
  ((List.range bs.length).zip bs).map fun e =>
    let dirty (pa : Nat) : Byte := ((tget s.m.cDirty (ckey a.core (pa + e.1))).map (·.1)).getD e.2
    match s.ownByte a (loc.add e.1) with
    | some b => b
    | none => match loc with
      | .mem .normal pa => dirty pa
      | .mem .kvp pa => dirty pa
      | _ => e.2

/-- The read of a descriptor for a held group, once the release fences that the word waits for are met (R215, R328, DEDUCED
68): its bytes are kept until the group issues. With `own`, it keeps the leader's program order (R328, DEDUCED 72). -/
def State.readDesc (s : State) (key n : Nat) (own : Bool) : State :=
  let wk := key / 2 ^ 64 / 128
  let (s, met) := match s.warp wk with
    | some w => s.fencesOf wk w.core w.lanes
    | none => (s, true)
  match s.warp wk, s.teamOf wk with
  | some w, some t =>
    if !met || s.descs.any fun e => e.1 == key then s
    else match s.engineXlate (.core w.core) t.ctx (key % 2 ^ 64) 0 .load with
      | (.at (.peer dv pa), s) =>
        if s.sk.reqs.any fun r => r.who == .desc key then s
        else (s.skSend { blankMsg with paddr := pa, dst := dv, size := n, op := 0 } t.ctx (key % 2 ^ 64) (.desc key)).1
      | (.at loc, s) => match s.homeRead loc n t.ctx (key % 2 ^ 64) with
        | (some (_, true), s) => { s with descs := s.descs ++ [(key, [])] }
        | (some (b, false), s) =>
          let a : Agent := { warp := wk, lane := key / 2 ^ 64 % 128, helper := none, core := w.core }
          { s with descs := s.descs ++ [(key, if own then s.ownBytes a loc b else b)] }
        | (none, s) => s
      | (_, s) => s
  | _, _ => s

end Sys2Proof.Machine
end

