-- ==== Sys2Proof/Machine/Sweep.lean ====
section
/-! DEFINITION. The SWEEP instructions and their events (R237, R243, R244, R246, R249 to R252, R255 to R259). -/

namespace Sys2Proof.Machine

/-! ### Per-thread instructions (R257) -/

/-- The rows the acting threads of a word name, after the checks of R257; `k` gets the located lanes. -/
def State.swRows (s : State) (i : Issue) (x : Nat) (k : Warp → Team → List LaneAcc → State → State) : State :=
  let acc := (s.acting i).map fun l => (l, s.rdAddr i l x)
  match acc.filter fun e => apertureCode e.2 != 0 with
  | e :: r => s.raise 2 ((e :: r).map (·.1)) e.2 (apertureCode e.2)
  | [] => match s.warp i.warp, s.teamOf i.warp with
    | some w, some t =>
      match s.locate w t .load acc with
      | (xs, [], false, s) =>
        let bad := xs.filter fun y => match y.loc with
          | .mem .sw _ => false
          | _ => true
        if bad.isEmpty then k w t xs s else s.engineErr (bad.map (·.lane)) 0x20
      | (_, [], true, s) => s.stall
      | (_, fs, _, s) => s.groupFaults w fs
    | _, _ => s

def LaneAcc.row (x : LaneAcc) : Nat := match x.loc with
  | .mem _ pa => pa / 1024
  | _ => 0

/-- Is there staging room for one request for each of these rows more (R246)? -/
def State.stagingRoom (s : State) (rows : List Nat) : Bool :=
  let load (b : Nat) : Nat := (s.sw.shots.filter fun x => rowBank x.row == b).length +
    (rows.filter fun r => rowBank r == b).length
  let banks := dedup (rows.map rowBank)
  (dedup (banks.map bankChannel)).all fun c =>
    let all := dedup (banks ++ s.sw.shots.map fun x => rowBank x.row)
    ((all.filter fun b => bankChannel b == c).map fun b => load b - 32).sum ≤ 128

def swqFn (w : Word) : Nat := bits w.toNat 7 0

/-- SWQ (R245, R257): one request for each acting thread. -/
def execSwq (x y : BitVec 7) (fsel : BitVec 1) (s : State) : Res :=
  .next (s.withThread [x.toNat, x.toNat + 1, y.toNat, y.toNat + 1, y.toNat + 2] [] fun i s =>
    let ls := s.acting i
    let flag := s.flagOf i (some fsel)
    if ls.isEmpty then s
    else if s.engHeld i flag ls true then s.stall
    else s.fenced i ls fun s => s.swRows i x.toNat fun _ t xs s =>
      let fw (l : Nat) : Word := s.rdV i l y.toNat
      let lw (l : Nat) : Bool := (fw l).getLsbD 8
      match ls.filter fun l => bits (fw l).toNat 31 9 != 0 || !fnKnown (swqFn (fw l)) with
      | l :: r => s.engineErr (l :: r) 0x21
      | [] => match ls.filter fun l => !fnWidthOk (swqFn (fw l)) (lw l) with
        | l :: r => s.engineErr (l :: r) 0x22
        | [] =>
          if !s.stagingRoom (xs.map LaneAcc.row) then s.stall
          else
            let (id, s) := s.startOp { blankOp i.warp .engine with lanes := ls, flag := flag }
            let s := { s with sw := { s.sw with ops := s.sw.ops ++ [SwOp.q id ls.length] } }
            xs.foldl (fun s a =>
              let (n, s) := s.fresh
              let shot : Shot := {
                id := n, op := id, lane := a.lane, row := a.row, st := .sent, func := swqFn (fw a.lane), lw16 := lw a.lane
                k0 := s.rdV i a.lane (y.toNat + 1), k1 := s.rdV i a.lane (y.toNat + 2), ctx := t.ctx, va := a.addr }
              { s with sw := { s.sw with shots := s.sw.shots ++ [shot] }, pending := s.pending ++ [.swqArrival n] }) s)

/-- Does the row hold an entry, unserved, that was queued before the request or registration numbered `id`? -/
def State.olderEntry (s : State) (row id : Nat) : Bool := s.sw.bankq.any fun e => e.pa / 1024 == row && decide (e.id < id)

/-- Is a request for the row still on its way that was made before the entry numbered `id`? -/
def State.olderShot (s : State) (row id : Nat) : Bool :=
  s.sw.shots.any fun x => x.st == .sent && x.row == row && decide (x.id < id)

/-- SWQ_ARRIVAL (R216, R246): a request joins its row's pending list, or waits in its channel's staging buffer; requests of
one SWQ for one row arrive in lane order (R257), and after the row's entries that were queued before the SWQ (R215,
DEDUCED 68). -/
def execSwqArrival (req : Nat) (s : State) : Res :=
  .next (match s.sw.shots.find? fun x => x.id == req with
    | none => s
    | some x =>
      if x.st ≠ .sent then s
      else if ((s.sw.shots.find? fun y => y.st == .sent && y.op == x.op && y.row == x.row).map (·.id)) ≠ some req
          ∨ s.olderEntry x.row req = true then s.pend (.swqArrival req)
      else
        let ch := bankChannel (rowBank x.row)
        let full := 32 ≤ s.bankShots (rowBank x.row)
        let ahead := s.sw.shots.any fun y => y.st == .staged && rowBank y.row == rowBank x.row
        if full || ahead then
          let shots := s.sw.shots.filter (fun y => y.id != req) ++ [{ x with st := .staged }]
          ({ s with sw := { s.sw with shots := shots } }).unstage ch
        else
          let shots := s.sw.shots.filter (fun y => y.id != req) ++ [x]
          { s with sw := { s.sw with shots := shots } }.enterShot x)

/-- SWURGE (R250): an activation of each acting thread's row. -/
def execSwurge (x : BitVec 7) (fsel : BitVec 1) (s : State) : Res :=
  .next (s.withThread [x.toNat, x.toNat + 1] [] fun i s =>
    let ls := s.acting i
    let flag := s.flagOf i (some fsel)
    if ls.isEmpty then s
    else if s.engHeld i flag ls true then s.stall
    else s.fenced i ls fun s => s.swRows i x.toNat fun _ t xs s =>
      let (id, s) := s.startOp { blankOp i.warp .engine with lanes := ls, flag := flag }
      let s := { s with sw := { s.sw with ops := s.sw.ops ++ [SwOp.urge id ls.length] } }
      xs.foldl (fun s a =>
        let (n, s) := s.fresh
        let e : QEnt := { id := n, host := false, pa := a.row * 1024, len := 0, ctx := some t.ctx, va := a.addr, act := .urge id a.lane }
        { s with sw := { s.sw with bankq := s.sw.bankq ++ [e] }, pending := s.pending ++ [.swurgeActivation n] }) s)

/-- SWURGE_ACTIVATION (R250): the activation, once it is the oldest entry of its row and no earlier request for the row is
still on its way (DEDUCED 68). -/
def execSwurgeActivation (ent : Nat) (s : State) : Res :=
  .next (match s.sw.bankq.find? fun x => x.id == ent with
    | none => s
    | some e =>
      if ((s.oldestEnt (e.pa / 1024)).map (·.id)) = some ent ∧ s.olderShot (e.pa / 1024) ent = false then s.serveEnt e
      else s.pend (.swurgeActivation ent))

/-- SWSTAT (R249): the state of each acting thread's row. -/
def execSwstat (x d : BitVec 7) (fsel : BitVec 1) (s : State) : Res :=
  .next (s.withThread [x.toNat, x.toNat + 1] (regRange d.toNat 3) fun i s =>
    let ls := s.acting i
    let flag := s.flagOf i (some fsel)
    if ls.isEmpty then s
    else if s.engHeld i flag ls false then s.stall
    else s.fenced i ls fun s => s.swRows i x.toNat fun _ _ xs s =>
      let (id, s) := s.startOp { blankOp i.warp .engine with
        lanes := ls, flag := flag, vdests := ls.flatMap fun l => (regRange d.toNat 3).map fun r => (l, r) }
      let s := { s with sw := { s.sw with
        ops := s.sw.ops ++ [SwOp.stat id d.toNat (xs.map fun (a : LaneAcc) => (a.lane, a.row))] } }
      s.pendAll (ls.map fun l => .swstatSnapshot id l))

/-- The three result words of SWSTAT. -/
def State.rowStatus (s : State) (row : Nat) : List Word :=
  let b := rowBank row
  let cls := s.rowClass row
  let n := (s.sw.shots.filter fun x => x.st == .queued && x.row == row).length
  let bit (p : Bool) (k : Nat) : Nat := if p then 2 ^ k else 0
  [ (s.sweepPos b cls).pass,
    BitVec.ofNat 32 (at_ n 8 + at_ cls 5 + bit (!(s.rowUe row).isEmpty) 4 + bit (s.bankRegion row).isSome 3 +
      bit (s.liveRow row) 2 + bit (s.sw.dmd.contains row) 1 + bit (s.sw.refd.contains row) 0),
    BitVec.ofNat 32 (bit (s.sw.bankHot.contains b) 8 + s.bankShots b) ]

/-- SWSTAT_SNAPSHOT (R249): one step of the row's bank queue. -/
def execSwstatSnapshot (op lane : Nat) (s : State) : Res :=
  .next (
    let mine (x : SwOp) : Bool := match x with
      | .stat o _ _ => o == op
      | _ => false
    match s.sw.ops.find? mine with
    | some (.stat _ d rows) => match rows.find? fun r => r.1 == lane with
      | none => s
      | some r =>
        let left := rows.filter fun x => x.1 != lane
        let s := match s.op op with
          | some o => s.landWords o lane d (s.rowStatus r.2)
          | none => s
        let ops := s.sw.ops.filter fun x => !mine x
        if left.isEmpty then ({ s with sw := { s.sw with ops := ops } }).endOp op
        else { s with sw := { s.sw with ops := ops ++ [SwOp.stat op d left] } }
    | _ => s)

/-! ### SWREG and SWDEREG (R242 to R244, R256) -/

def gapTop : Nat := 0x01FF_FFFF_FFFF_FFFF

/-- The byte offset of the first offending field of a region descriptor. -/
def regionBad (v : Nat) : Option Nat :=
  let base := bits v 63 0
  let rows := bits v 95 64
  if base % 1024 ≠ 0 ∨ gapTop < base then some 0
  else if rows = 0 ∨ 2 ^ 26 < rows ∨ gapTop < base + 1024 * rows - 1 then some 8
  else if bits v 127 107 ≠ 0 then some 13
  else if bits v 511 192 ≠ 0 then some 24
  else none

/-- The physical rows' granules of a context's address range, where they are mapped. -/
def State.granules (s : State) (ctx base n : Nat) : List (Option Nat) :=
  if n = 0 then []
  else (List.range ((base + n - 1) / 65536 - base / 65536 + 1)).map fun k =>
    (s.peekPa ctx ((base / 65536 + k) * 65536)).map fun pa => pa / 65536 * 65536

/-- Do two regions share a physical row, where both are translated (R243)? -/
def Region.meets (a b : Region) : Bool :=
  a.pages.any fun pa => b.pages.contains pa && (List.range 64).any fun k =>
    (a.rowOf (pa / 1024 + k)).isSome && (b.rowOf (pa / 1024 + k)).isSome

/-- Does a range of rows overlap a registered region (R243): in its context's addresses, or where both are mapped? -/
def State.regionOverlap (s : State) (ctx base rows : Nat) : Bool :=
  let mine : Region := {
    handle := 0, ctx := ctx, base := base, rows := rows, func := 0, lw16 := false, k0 := 0, k1 := 0, period := 0
    st := .registering, pages := (s.granules ctx base (1024 * rows)).map fun o => o.getD (2 ^ 64), arrived := [], left := []
    op := 0 }
  s.sw.regions.any fun r =>
    (r.ctx == ctx && base < r.base + 1024 * r.rows && r.base < base + 1024 * rows) || mine.meets r

/-- The lowest handle that no region holds. -/
def State.freeHandle (s : State) : Option Nat :=
  (List.range 1024).findSome? fun k => if s.sw.regions.any fun r => r.handle == k + 1 then none else some (k + 1)

/-- SWREG past its checks. -/
def State.register (s : State) (i : Issue) (w : Warp) (ctx wcb l d handle v : Nat) (flag : Option Nat) : State :=
  let (id, s) := s.startOp { blankOp i.warp .engine with lanes := [l], flag := flag, vdests := [(l, d)] }
  let r : Region := {
    handle := handle, ctx := ctx, base := bits v 63 0, rows := bits v 95 64, func := bits v 103 96, lw16 := v.testBit 104
    k0 := BitVec.ofNat 32 (bits v 159 128), k1 := BitVec.ofNat 32 (bits v 191 160), period := bits v 106 105
    st := .registering, pages := [], arrived := [], left := [], op := id }
  { s with
    sw := { s.sw with regions := s.sw.regions ++ [r], ops := s.sw.ops ++ [SwOp.reg id handle l d w.core wcb] }
    pending := s.pending ++ [.swregComplete id] }

/-- SWREG (R256). -/
def execSwreg (x d : BitVec 7) (fsel : BitVec 1) (s : State) : Res :=
  .next (s.withThread [x.toNat, x.toNat + 1] [d.toNat] (who := State.leaderLanes) fun i s =>
    let flag := s.flagOf i (some fsel)
    match s.leader i with
    | none => s
    | some l =>
      if s.engHeld i flag [l] true then s.stall
      else s.fenced i (s.warpLanes i) fun s =>
        let a := s.rdAddr i l x.toNat
        s.structAddr l a 6 fun s => s.withDesc i l a (fun k => .swregDescriptorRead k) fun w t bs s =>
          let v := leNat bs
          match regionBad v with
          | some off => s.engineErr [l] (0x23 + 256 * off)
          | none =>
            if !fnKnown (bits v 103 96) then s.engineErr [l] 0x21
            else if !fnWidthOk (bits v 103 96) (v.testBit 104) then s.engineErr [l] 0x22
            else if s.regionOverlap t.ctx (bits v 63 0) (bits v 95 64) then s.engineErr [l] 0x24
            else match s.freeHandle with
              | none => s.engineErr [l] 0x25
              | some h => s.register i w t.ctx t.twcb l d.toNat h v flag)

/-- SWREG_DESCRIPTOR_READ (R256): the 64 bytes arrive; `op` names the held group and the address. -/
def execSwregDescriptorRead (op : Nat) (s : State) : Res := .next (s.readDesc op 64 false)

def State.modRegion (s : State) (handle : Nat) (f : Region → Region) : State :=
  let rs := s.sw.regions.map fun (r : Region) => if r.handle = handle then f r else r
  { s with sw := { s.sw with regions := rs } }

def State.region (s : State) (handle : Nat) : Option Region := s.sw.regions.find? fun r => r.handle == handle

def State.dropRegion (s : State) (handle : Nat) : State :=
  { s with sw := { s.sw with regions := s.sw.regions.filter fun r => r.handle != handle } }

def State.dropSwOp (s : State) (op : Nat) : State :=
  let mine (x : SwOp) : Bool := match x with
    | .reg o _ _ _ _ _ => o == op
    | .dereg o _ => o == op
    | .live o _ _ _ _ _ _ => o == op
    | _ => false
  { s with sw := { s.sw with ops := s.sw.ops.filter fun x => !mine x } }

/-- The banks of a region's rows. -/
def Region.banks (r : Region) : List Nat :=
  let groups := dedup (r.pages.map fun pa => rowBank (pa / 1024))
  (groups.flatMap fun b => regRange b 64).filter fun b => r.pages.any fun pa =>
    rowBank (pa / 1024) / 64 == b / 64 && (r.rowOf (pa / 1024 + b % 64)).isSome

/-- The end of a SWREG: its handle register takes `h` and its flag falls. -/
def State.swregEnd (s : State) (op lane d h : Nat) : State :=
  let s := match s.op op with
    | some o => s.landWords o lane d [BitVec.ofNat 32 h]
    | none => s
  ((s.endOp op).dropSwOp op).clearFailed op

/-- A registration fails after issue: it is withdrawn, with a record. -/
def State.swregFail (s : State) (op lane d core : Nat) (r : Region) : State :=
  let (q, s) := s.nextSeq (at_ 5 20 + core)
  let s := s.errorRecord (some r.ctx) { kind := 5, src := 5, sseq := q.toNat, vaddr := r.base }
  (s.dropRegion r.handle).swregEnd op lane d 0

/-- SWREG_COMPLETE (R256): the region's pages are translated in turn; the registration then goes to every bank, and when it
has reached them all the handle register is written. A row that turns out to lie in another region fails the registration
(R243, DESIGN CHOICE 85). The translation asks for permission to load (DESIGN CHOICE 111). -/
def execSwregComplete (op : Nat) (s : State) : Res :=
  .next (
    let mine (x : SwOp) : Bool := match x with
      | .reg o _ _ _ _ _ => o == op
      | _ => false
    match s.sw.ops.find? mine with
    | some (.reg _ handle lane d core wcb) => match s.region handle with
      | none => s.swregEnd op lane d 0
      | some r =>
        let n := (r.base + 1024 * r.rows - 1) / 65536 - r.base / 65536 + 1
        if r.pages.length < n then
          if s.waits (.engine op 0) then s.pend (.swregComplete op)
          else
            let va := max r.base ((r.base / 65536 + r.pages.length) * 65536)
            match s.engineXlate (.core core) r.ctx va 0 .load with
            | (.at (.mem .sw pa), s) =>
              let s := s.modRegion handle fun r => { r with pages := r.pages ++ [pa / 65536 * 65536] }
              if r.pages.length + 1 < n then s.pend (.swregComplete op)
              else match s.region handle with
                | some r =>
                  if s.sw.regions.any fun x => x.handle != handle && r.meets x then s.swregFail op lane d core r
                  else (s.pendAll (r.banks.map fun b => .sweepRegArrive handle b)).pend (.swregComplete op)
                | none => s
            | (.at _, s) => s.swregFail op lane d core r
            | (.fault f, s) =>
              if (s.engineFailed op 0 f).isSome then s.swregFail op lane d core r
              else (s.engineFault r.ctx core 5 core wcb op 0 f).pend (.swregComplete op)
            | (.wait, s) => s.pend (.swregComplete op)
        else if r.banks.all fun b => r.arrived.contains b then
          (s.modRegion handle fun r => { r with st := .registered }).swregEnd op lane d handle
        else s.pend (.swregComplete op)
    | _ => s)

/-- SWEEP_REG_ARRIVE (R244): behind the bank's entries that were queued before the SWREG (DEDUCED 68). -/
def execSweepRegArrive (handle bank : Nat) (s : State) : Res :=
  .next (match s.region handle with
    | none => s
    | some r =>
      if s.sw.bankq.any fun e => rowBank (e.pa / 1024) == bank && decide (e.id < r.op) then
        s.pend (.sweepRegArrive handle bank)
      else s.modRegion handle fun r =>
        if r.st ≠ .registering ∨ r.arrived.contains bank then r else { r with arrived := r.arrived ++ [bank] })

/-- A region leaves: its deregistration goes to every bank. -/
def State.deregister (s : State) (r : Region) : State :=
  (s.modRegion r.handle fun r => { r with st := .leaving }).pendAll (r.banks.map fun b => .sweepDeregArrive r.handle b)

/-- SWDEREG (R256). -/
def execSwdereg (h : BitVec 7) (fsel : BitVec 1) (s : State) : Res :=
  .next (s.withThread [h.toNat] [] (who := State.leaderLanes) fun i s =>
    let flag := s.flagOf i (some fsel)
    match s.leader i with
    | none => s
    | some l =>
      if s.engHeld i flag [l] true then s.stall
      else s.fenced i (s.warpLanes i) fun s => match s.region (s.rdV i l h.toNat).toNat with
        | none => s.engineErr [l] 0x26
        | some r =>
          if r.st ≠ .registered ∨ r.ctx ≠ s.ctxOf i.warp then s.engineErr [l] 0x26
          else
            let (id, s) := s.startOp { blankOp i.warp .engine with lanes := [l], flag := flag }
            { s with sw := { s.sw with ops := s.sw.ops ++ [SwOp.dereg id r.handle] } }.deregister r)

/-- SWEEP_DEREG_ARRIVE (R244, R256): with the last bank the region is gone and its SWDEREG's flag falls. -/
def execSweepDeregArrive (handle bank : Nat) (s : State) : Res :=
  .next (match s.region handle with
    | none => s
    | some r =>
      if r.st ≠ .leaving then s
      else
        let left := if r.left.contains bank then r.left else r.left ++ [bank]
        let s := s.modRegion handle fun r => { r with left := left }
        if !(r.banks.all fun b => left.contains b) then s
        else
          let ops := s.sw.ops.filterMap fun x => match x with
            | .dereg o h => if h = handle then some o else none
            | _ => none
          ops.foldl (fun s o => (s.endOp o).dropSwOp o) (s.dropRegion handle))

/-! ### SWLIVE (R251, R252, R258) -/

/-- SWLIVE: N granules from the leader's address, each of which must permit stores (DESIGN CHOICE 112). -/
def State.swlive (s : State) (x n : Nat) (fsel : BitVec 1) (alive : Bool) : State :=
  s.withThread [x, x + 1, n] [] (who := State.leaderLanes) fun i s =>
    let flag := s.flagOf i (some fsel)
    match s.leader i with
    | none => s
    | some l =>
      if s.engHeld i flag [l] true then s.stall
      else s.fenced i (s.warpLanes i) fun s =>
        let a := s.rdAddr i l x
        let cnt := (s.rdV i l n).toNat
        if a % 65536 ≠ 0 ∨ cnt = 0 ∨ 2 ^ 20 < cnt then s.engineErr [l] 0x27
        else if apertureCode a ≠ 0 ∨ gapTop < a + 65536 * cnt - 1 then s.engineErr [l] 0x20
        else match s.warp i.warp, s.teamOf i.warp with
          | some w, some t =>
            let (bad, s) := (List.range cnt).foldl (fun (p : Bool × State) k =>
              match p.2.engineXlate (.core w.core) t.ctx (a + 65536 * k) l .store with
              | (.at (.mem .sw _), s) => (p.1, s)
              | (.at _, s) => (true, s)
              | (_, s) => (p.1, s)) (false, s)
            if bad then s.engineErr [l] 0x20
            else
              let (id, s) := s.startOp { blankOp i.warp .engine with lanes := [l], flag := flag }
              let s := { s with sw := { s.sw with
                ops := s.sw.ops ++ [SwOp.live id alive (List.range cnt) t.ctx a w.core t.twcb] } }
              s.pendAll ((List.range cnt).map fun k => .swliveArrive id k)
          | _, _ => s

/-- SWLIVE.dead (R258). -/
def execSwliveDead (x n : BitVec 7) (fsel : BitVec 1) (s : State) : Res := .next (s.swlive x.toNat n.toNat fsel false)

/-- SWLIVE.live (R258). -/
def execSwliveLive (x n : BitVec 7) (fsel : BitVec 1) (s : State) : Res := .next (s.swlive x.toNat n.toNat fsel true)

/-- A granule changes state in all its banks, after the entries that arrived before (R251, R252). -/
def State.setLive (s : State) (g : Nat) (alive : Bool) : State :=
  let s := (regRange (g * 64) 64).foldl (fun s row => s.serveRow row) s
  let dead := s.sw.dead.contains g
  if alive then
    if !dead then s
    else
      let s := { s with
        sw := { s.sw with
          dead := s.sw.dead.filter (· != g)
          dmd := dedup (regRange (g * 64) 64 ++ s.sw.dmd) }
        m := { s.m with
          mem := tclear s.m.mem (g * 65536) ((g + 1) * 65536)
          hClean := tclear s.m.hClean (g * 65536) ((g + 1) * 65536) } }
      (regRange (g * 64) 64).foldl (fun s row => s.cleanRow row) s
  else if dead then s
  else
    let mine := s.sw.shots.filter fun x => x.st == .queued && x.row / 64 == g
    let s := mine.foldl (fun s x => (s.retireShot x).millRecord 2 x.row (some (x.ctx, x.va))) s
    let s := { s with
      sw := { s.sw with dead := s.sw.dead ++ [g] }
      m := { s.m with
        mem := tclear s.m.mem (g * 65536) ((g + 1) * 65536)
        hClean := tclear s.m.hClean (g * 65536) ((g + 1) * 65536) } }
    (dedup (mine.map fun x => bankChannel (rowBank x.row))).foldl State.unstage s

/-- An engine-error that an operation meets after issue: a deferred trap of its leader (R425). -/
def State.lateError (s : State) (op info : Nat) : State :=
  match s.op op with
  | none => s
  | some o => s.modWarp o.warp fun w => { w with deferred := w.deferred ++ [{
      cause := 0x12, lanes := o.lanes, addrs := o.lanes.map fun l => (l, 0), info := BitVec.ofNat 32 info, uerec := none
      dests := [], again := false }] }

/-- SWLIVE_ARRIVE (R251, R258): one granule changes state; the flag falls with the last. A granule whose page the driver
answered as unresolvable stays as it is (DESIGN CHOICE 41); one that turns out not to be SW memory after a fault raises
engine-error 0x20 as a deferred trap of the leader (R258, R425, DEDUCED 84). -/
def execSwliveArrive (op granule : Nat) (s : State) : Res :=
  .next (
    let mine (x : SwOp) : Bool := match x with
      | .live o _ _ _ _ _ _ => o == op
      | _ => false
    match s.sw.ops.find? mine with
    | some (.live _ alive gs ctx va core wcb) =>
      if !gs.contains granule then s
      else if s.waits (.engine op granule) then s.pend (.swliveArrive op granule)
      else
        let done (s : State) : State :=
          let left := gs.filter (· != granule)
          let s := s.dropSwOp op
          if left.isEmpty then (s.endOp op).clearFailed op
          else { s with sw := { s.sw with ops := s.sw.ops ++ [SwOp.live op alive left ctx va core wcb] } }
        match s.engineXlate (.core core) ctx (va + 65536 * granule) 0 .store with
        | (.at (.mem .sw pa), s) => done (s.setLive (pa / 65536) alive)
        | (.at _, s) => done (s.lateError op 0x20)
        | (.fault f, s) =>
          if (s.engineFailed op granule f).isSome then done s
          else (s.engineFault ctx core 5 core wcb op granule f).pend (.swliveArrive op granule)
        | (.wait, s) => s.pend (.swliveArrive op granule)
    | _ => s)

/-! ### Temperature -/

/-- TEMPERATURE_THRESHOLD (R237): a stack crosses 85 °C; T_b follows at each bank's next class-0 pass. -/
def execTemperatureThreshold (stack : Nat) (hot : Bool) (s : State) : Res :=
  .next (
    let others := s.sw.hot.filter (· != stack)
    { s with sw := { s.sw with hot := if hot then others ++ [stack] else others } })

end Sys2Proof.Machine
end

