-- ==== Sys2Proof/Machine/Copy.lean ====
section
/-! DEFINITION. The asynchronous copy commands (R189 to R198): layout records and their cache, the checks at issue, the work of
a command in units, its failures and its completion. A unit is 128 bytes of a box row or of a TXFER, one slot of a block
command, or a whole box whose rows do not begin and end at words; it moves in one step (DEDUCED 50). -/

namespace Sys2Proof.Machine

/-! ### Layout records (R189, R190) -/

def tlrOf (v : Nat) : Tlr :=
  let five (lo w : Nat) : List Nat := (List.range 5).map fun d => bits v (lo + w * d + w - 1) (lo + w * d)
  { base := bits v 63 0, rank := bits v 71 64, elem := bits v 79 72, ilv := v.testBit 80, bmp := v.testBit 81
    dims := five 128 32, boxes := five 576 16, strides := 0 :: (five 320 64).take 4, sprow := bits v 703 672
    gen := bits v 735 704, blkstride := bits v 831 768, blkcount := bits v 863 832, rowbytes := bits v 879 864
    blkrows := bits v 895 880, pdt := bits v 959 896 }

def zeroTlr : Tlr := tlrOf 0

/-- Bytes of a run of `n` elements; of half-byte elements, `n` is even. -/
def Tlr.bytesOf (t : Tlr) (n : Int) : Int := if t.elem = 4 then n / 2 else n * (2 ^ t.elem : Nat)

/-- Bytes of a box row. -/
def Tlr.rowLen (t : Tlr) : Nat := (t.bytesOf (t.boxes.getD 0 0)).toNat

/-- The pitch of R190. -/
def Tlr.pitch (t : Tlr) (block : Bool) : Nat :=
  (if t.sprow = 0 then (if block then t.rowbytes else t.rowLen) else t.sprow) + (if t.ilv then 4 else 0)

/-- The byte offset of the record's first offending field for a box or a block command (R189, R193). -/
def tlrBad (v : Nat) (block : Bool) : Option Nat :=
  let t := tlrOf v
  let d (l : List Nat) (k : Nat) : Nat := l.getD k 0
  let inr (k : Nat) : Bool := k < t.rank
  let odd (x : Nat) : Bool := t.elem == 4 && x % 2 == 1
  let dim (k : Nat) : Bool := (inr k == (d t.dims k == 0)) || (k == 0 && odd (d t.dims 0))
  let stride (k : Nat) : Bool := !inr k && d t.strides k != 0
  let box (k : Nat) : Bool := (if inr k then d t.boxes k == 0 || 256 < d t.boxes k else d t.boxes k != 0) ||
    (k == 0 && odd (d t.boxes 0))
  let checks : List (Nat × Bool) := [
    (8, t.rank == 0 || 5 < t.rank), (9, 4 < t.elem), (10, bits v 95 82 != 0), (12, bits v 127 96 != 0),
    (16, dim 0), (20, dim 1), (24, dim 2), (28, dim 3), (32, dim 4), (36, bits v 319 288 != 0),
    (40, stride 1), (48, stride 2), (56, stride 3), (64, stride 4),
    (72, box 0), (74, box 1), (76, box 2), (78, box 3), (80, box 4), (82, bits v 671 656 != 0),
    (84, t.sprow % 4 != 0 || t.pitch block < (if block then t.rowbytes else t.rowLen)), (92, bits v 767 736 != 0),
    (104, t.blkcount == 0), (108, t.rowbytes == 0 || t.rowbytes % 4 != 0), (110, t.blkrows == 0),
    (120, bits v 1535 960 != 0)]
  (checks.find? fun c => c.2).map (·.1)

/-- Rows of a box. -/
def Tlr.boxRows (t : Tlr) : Nat := (((List.range 5).filter fun k => 1 ≤ k && k < t.rank).map fun k => t.boxes.getD k 0).foldl (· * ·) 1

/-- Bytes of scratchpad that a command spans (R196). -/
def Tlr.span (t : Tlr) (block : Bool) : Nat :=
  if block then (32 * t.blkrows - 1) * t.pitch true + t.rowbytes else (t.boxRows - 1) * t.pitch false + t.rowLen

/-! ### The record cache (R191) -/

/-- Bytes at a global address of a context as a core's engine reads them at their home point; from another device they come
by an answer kept under `key`. No bytes at all: an uncorrectable error, or a device that did not answer (R253, R414). -/
def State.chunk (s : State) (core ctx va n key : Nat) : Option (List Byte) × State :=
  match s.engineXlate (.core core) ctx va 0 .load with
  | (.at (.peer dv pa), s) =>
    match s.descs.find? fun e => e.1 == key with
    | some e => (some (e.2.take n), s)
    | none =>
      if s.sk.reqs.any fun r => r.who == .desc key then (none, s)
      else (none, (s.skSend { blankMsg with paddr := pa, dst := dv, size := n, op := 0 } ctx va (.desc key)).1)
  | (.at loc, s) => match s.homeRead loc n ctx va with
    | (some (b, bad), s) => (some (if bad then [] else b), s)
    | (none, s) => (none, s)
  | (_, s) => (none, s)

/-- The same, kept under `key` until it is dropped: the bytes, and whether they have come. -/
def State.keptChunk (s : State) (core ctx va n key : Nat) : List Byte × Bool × State :=
  match s.descs.find? fun e => e.1 == key with
  | some e => (e.2.take n, true, s)
  | none => match s.chunk core ctx va n key with
    | (some b, s) => (b, true, { s with descs := s.descs ++ [(key, b)] })
    | (none, s) => ([], false, s)

/-- TLR_FILL (R191): the 192 bytes of a record, read as one, enter the core's cache of 64, the oldest leaving (DESIGN CHOICE 100).
Of a record on two pages the first part is read again after the second, and all of it anew while that differs: so no entry mixes
two versions. What could not be read stays known as lost until a command has failed for it. -/
def execTlrFill (core ctx addr : Nat) (s : State) : Res :=
  .next (
    if s.tlrs.any fun e => e.core == core && e.ctx == ctx && e.addr == addr then s
    else
      let keys := tlrKeys core ctx addr
      let enter (bs : List Byte) (s : State) : State :=
        let mine := s.tlrs.filter fun e => e.core == core
        let kept := if mine.length < 64 then s.tlrs else match mine with
          | x :: _ => s.tlrs.erase x
          | [] => s.tlrs
        { s with
          tlrs := kept ++ [{ core := core, ctx := ctx, addr := addr, bytes := bs }]
          descs := s.descs.filter fun x => !keys.contains x.1 }
      let part (s : State) (k : Nat) : List Byte × Bool × State :=
        let r := (tlrRuns addr).getD (k % 2) (addr, 192)
        s.keptChunk core ctx r.1 r.2 (keys.getD k 0)
      match part s 0 with
      | (_, false, s) => s
      | ([], true, s) => s
      | (a, true, s) =>
        if (tlrRuns addr).length = 1 then enter a s
        else match part s 1 with
          | (_, false, s) => s
          | ([], true, s) => s
          | (b, true, s) => match part s 2 with
            | (_, false, s) => s
            | ([], true, s) => s
            | (a', true, s) =>
              if a = a' then enter (a ++ b) s
              else { s with descs := s.descs.filter fun x => !keys.contains x.1 })

/-- The record a command names, once it is in the core's cache; a miss holds the group, and a fault is the group's. `lost` is
for a record that cannot be read. -/
def State.withTlr (s : State) (w : Warp) (t : Team) (l addr : Nat) (lost : State → State) (k : Nat → State → State) : State :=
  match s.tlrs.find? fun e => e.core == w.core && e.ctx == t.ctx && e.addr == addr with
  | some e => k (leNat e.bytes) s
  | none =>
    let keys := tlrKeys w.core t.ctx addr
    if s.descs.any fun x => keys.contains x.1 && x.2.isEmpty then
      lost { s with descs := s.descs.filter fun x => !keys.contains x.1 }
    else match s.locate w t .load ((tlrRuns addr).map fun r => (l, r.1)) with
      | (_, [], false, s) => s.stallFor (.tlrFill w.core t.ctx addr)
      | (_, [], true, s) => s.stall
      | (_, f :: fs, _, s) => s.groupFaults w (f :: fs)

/-! ### Places and pieces -/

/-- An end of a piece: a global address, or a place of a core. -/
inductive Place where
  | global (va : Nat)
  | here (loc : Loc)
  deriving DecidableEq, Repr

/-- One run of bytes of a command: what it reads, none for zero bytes, and where it writes. -/
structure Piece where
  src : Option Place
  dst : Place
  n : Nat
  deriving DecidableEq, Repr

/-- The part [lo, hi) of a box row ρ as pieces: bytes within the tensor, and for TCOPY zero bytes outside it (R190, R196). -/
def Copy.rowPieces (c : Copy) (rho lo hi : Nat) : List Piece :=
  let t := c.tlr
  let co (d : Nat) : Int := c.coords.getD d 0
  let step (p : Nat × Nat × Bool) (d : Nat) : Nat × Nat × Bool :=
    let b := t.boxes.getD d 1
    let x := co d + (p.1 % b : Nat)
    (p.1 / b, wrap64 ((p.2.1 : Int) + x * (t.strides.getD d 0 : Nat)), p.2.2 && 0 ≤ x && x < (t.dims.getD d 0 : Nat))
  let r := ((List.range t.rank).drop 1).foldl step (rho, t.base, true)
  let x0 := t.bytesOf (co 0)
  let len := t.bytesOf (t.dims.getD 0 0)
  let first := if r.2.2 then clampInt lo hi (-x0) else (hi : Int)
  let last := if r.2.2 then clampInt lo hi (len - x0) else (hi : Int)
  let a := first.toNat
  let b := max a last.toNat
  let sp (k : Nat) : Place := .here (.spad c.core (c.sp + rho * t.pitch false + k))
  let g (k : Nat) : Place := .global (wrap64 ((r.2.1 : Int) + x0 + k))
  if c.minor = 0 then
    [{ src := none, dst := sp lo, n := a - lo }, { src := some (g a), dst := sp a, n := b - a },
     { src := none, dst := sp b, n := hi - b }].filter fun p => p.n != 0
  else [{ src := some (sp a), dst := g a, n := b - a }].filter fun p => p.n != 0

/-- Bytes cut into runs of at most 128. -/
def runs (n : Nat) : List (Nat × Nat) := (List.range (ceilDiv n 128)).map fun k => (128 * k, min 128 (n - 128 * k))

/-- The pieces of slot `u` of a block command (R196). -/
def Copy.slotPieces (c : Copy) (u : Nat) : List Piece :=
  let t := c.tlr
  match (c.idxs[u]?).join with
  | none => []
  | some idx => (List.range t.blkrows).flatMap fun rho => (runs t.rowbytes).map fun e =>
      let g : Place := .global (wrap64 ((t.base + idx * t.blkstride + rho * t.strides.getD 1 0 + e.1 : Nat)))
      let sp : Place := .here (.spad c.core (c.sp + (u * t.blkrows + rho) * t.pitch true + e.1))
      if c.minor = 2 then { src := some g, dst := sp, n := e.2 } else { src := some sp, dst := g, n := e.2 }

/-- Where an address of a TXFER lies, once checked. -/
def xferPlace (spbase core a : Nat) : Place :=
  match steer a with
  | .spad off => .here (.spad core (spbase + off))
  | .onchip k off => .here (onChipLoc k off)
  | _ => .global a

/-- Do the rows of a box begin and end at 4-byte words on both sides, so that no word lies in two units (R197)? -/
def Copy.aligned (c : Copy) : Bool :=
  let t := c.tlr
  ([t.rowLen, t.pitch false, t.base] ++ t.strides).all (· % 4 == 0) && t.bytesOf (c.coords.getD 0 0) % 4 == 0

/-- The pieces of a unit. -/
def Copy.pieces (c : Copy) (u : Nat) : List Piece :=
  if c.minor ≤ 1 ∧ !c.aligned then
    (List.range c.tlr.boxRows).flatMap fun rho => (runs c.tlr.rowLen).flatMap fun e => c.rowPieces rho e.1 (e.1 + e.2)
  else if c.minor ≤ 1 then
    let segs := ceilDiv c.tlr.rowLen 128
    let lo := u % segs * 128
    c.rowPieces (u / segs) lo (min c.tlr.rowLen (lo + 128))
  else if c.minor ≤ 3 then c.slotPieces u
  else
    let n := min 128 (c.count - 128 * u)
    [{ src := some (xferPlace c.sp c.core (c.src + 128 * u)), dst := xferPlace c.sp c.core (c.dst + 128 * u), n := n }]

/-- The units of a command. -/
def Copy.allUnits (c : Copy) : List Nat :=
  if c.minor ≤ 1 ∧ !c.aligned then [0]
  else if c.minor ≤ 1 then List.range (c.tlr.boxRows * ceilDiv c.tlr.rowLen 128)
  else if c.minor ≤ 3 then (List.range 32).filter fun u => ((c.idxs[u]?).join).isSome
  else List.range (ceilDiv c.count 128)

/-! ### Issue (R192, R193) -/

/-- The address and aperture code of a TXFER's range that holds a byte no command may touch (R193, check 7): one of no bytes
holds none, whatever its address (DESIGN CHOICE 109). -/
def rangeFail (a n : Nat) : Option (Nat × Nat) :=
  if n = 0 then none
  else match steer a with
    | .global _ => if gapTop < a + n - 1 then some (a, 0) else none
    | .onchip _ _ =>
      if (List.range ((n + 3) / 4)).any fun i => match steer (a + 4 * i) with
        | .onchip k off => onChipAt k off == .unassigned
        | _ => true
      then some (a, 1) else none
    | .stack _ => some (a, 2)
    | .spad _ => none
    | .none => some (a, 4)

/-- Check 5 of R193 on a list of scratchpad ranges: alignment, then bounds. The address a range offends at is its own, as
for a thread's access (DEDUCED 71). -/
def spadFail (spsize : Nat) (rs : List (Nat × Nat)) : Option (Nat × Nat × Nat) :=
  match rs.find? fun r => r.1 % 4 != 0 with
  | some r => some (4, 0xFE00_0000_0000_0000 + r.1, at_ 2 4)
  | none => (rs.find? fun r => r.2 != 0 && spsize < r.1 + r.2).map fun r =>
    (5, 0xFE00_0000_0000_0000 + r.1, spsize)

/-- Is an end of every piece in the warp's private windows, or in its read-only ranges (R345)? -/
def srcPrivate (t : Team) (w : Warp) (ps : List Piece) : Bool :=
  ps.all fun p => match p.src with
    | some (.global va) => inRanges t w va p.n true true
    | _ => true

/-- Must the command wait for the commit token? -/
def State.copyGated (s : State) (w : Warp) (t : Team) (c : Copy) : Bool :=
  t.vals.det && !s.holdsToken w t &&
    (c.minor == 1 || c.minor == 3 || !srcPrivate t w (c.allUnits.flatMap c.pieces) ||
      (c.minor == 4 && (match steer c.dst with
        | .global _ => true
        | _ => false)))

/-- A command past its checks enters the copy engine. Its leader's earlier writes are performed first (R197). -/
def State.enterCopy (s : State) (i : Issue) (t : Team) (c : Copy) : State :=
  let flag := if c.target.kind = 0 then some c.target.id else none
  let s := s.postThread i.warp c.leader none
  let (id, s) := s.startOp { blankOp i.warp .engine with lanes := [c.leader], flag := flag }
  let c := { c with id := id, units := c.allUnits }
  let c := { c with target := { c.target with entry := t.vals.dcwin + c.target.id } }
  let s := { s with copies := s.copies ++ [c] }
  let pins := if c.minor = 2 ∧ c.tlr.pdt ≠ 0 then c.units.map fun u => Instr.pdtPin id u else []
  (s.pendAll pins).pend (.copyComplete id (.unit 0))

/-- An ACOPY instruction: `k` makes the command or raises, once the leader and the record are there. -/
def State.acopy (s : State) (f : FmtT) (minor nregs : Nat)
    (k : Issue → Warp → Team → Nat → Copy → State → State) : State :=
  s.withThread ([f.handle.toNat, f.handle.toNat + 1] ++ regRange f.coord.toNat nregs) [] (who := State.leaderLanes) fun i s =>
    match s.leader i, s.warp i.warp, s.teamOf i.warp with
    | some l, some w, some t =>
      let flag := if f.ckind = 0 then some f.cid.toNat else none
      if s.engHeld i flag [l] false then s.stall
      else k i w t l {
        id := 0, core := w.core, ctx := t.ctx, team := w.team, teamIdx := t.idx, wcb := t.twcb, warp := i.warp, leader := l
        minor := minor, tlr := zeroTlr, coords := [], spbase := t.spbase, sp := t.spbase, bmp := 0, idxs := [], dst := 0, src := 0, count := 0
        target := { kind := f.ckind.toNat, id := f.cid.toNat, entry := 0 }, units := [], got := [], bytes := 0, fails := []
        pinned := [] } s
    | _, _, _ => s

/-- The last steps of an issue: gate, then entry. -/
def State.issueCopy (s : State) (i : Issue) (w : Warp) (t : Team) (c : Copy) : State :=
  if s.copyGated w t c then s.stall else s.enterCopy i t c

def State.modCopy (s : State) (id : Nat) (f : Copy → Copy) : State :=
  { s with copies := s.copies.map fun (c : Copy) => if c.id = id then f c else c }

def State.copy (s : State) (id : Nat) : Option Copy := s.copies.find? fun c => c.id == id

/-- A failed part: the command ends, or for a block command its slot, whose pin is taken back (R198, R267). -/
def State.copyFail (s : State) (c : Copy) (u status va : Nat) (detail : Word) : State :=
  let pinned := ((s.copy c.id).map fun x => x.pinned.contains u && x.units.contains u).getD false
  let s := s.modCopy c.id fun c => { c with
    fails := c.fails ++ [(status, va, detail)]
    units := if c.minor = 2 ∨ c.minor = 3 then c.units.filter (· != u) else [] }
  if pinned then s.pend (.pdtUnpin c.id u) else s

/-- An uncorrectable error in a source: its record of kind 0x21 and the failure. -/
def State.copyUe (s : State) (c : Copy) (u pa va : Nat) : State :=
  let (q, s) := s.nextSeq (at_ 2 20 + c.core)
  let s := s.errorRecord (some c.ctx) {
    kind := 0x21, src := 2, sseq := q.toNat, paddr := pa, vaddr := va, wcb := c.wcb }
  s.copyFail c u 3 va q

/-- A command whose layout record cannot be read is accepted and ends with STATUS 0x03 (R198, R414; DESIGN CHOICE 105). -/
def State.lostCopy (s : State) (i : Issue) (w : Warp) (t : Team) (c : Copy) (addr : Nat) : State :=
  if s.copyGated w t c then s.stall
  else
    let s := s.enterCopy i t c
    match s.copies.getLast? with
    | none => s
    | some c => (s.copyUe c 0 (s.reportPa t.ctx addr) addr).modCopy c.id fun c => { c with units := [] }

/-- TCOPY and TSTORE (R193, R196). -/
def State.boxCopy (s : State) (f : FmtT) (minor : Nat) : State :=
  s.acopy f minor 6 fun i w t l c s =>
    let a := s.rdAddr i l f.handle.toNat
    let reg (n : Nat) : Word := s.rdV i l (f.coord.toNat + n)
    s.structAddr l a 6 fun s => s.withTlr w t l a (fun s => s.lostCopy i w t c a) fun v s =>
      match tlrBad v false with
      | some off => s.engineErr [l] (1 + 256 * off)
      | none =>
        let r := tlrOf v
        let off := (reg 5).toNat
        match spadFail t.vals.spbytes [(off, r.span false)] with
        | some e => s.raise e.1 [l] e.2.1 e.2.2
        | none => s.issueCopy i w t { c with
            tlr := r, coords := (List.range 5).map fun n => (reg n).toInt, sp := t.spbase + off }

/-- TGATHER and TSCATTER (R193, R196): the index lanes are the active threads of the leader's lane row. -/
def State.blockCopy (s : State) (f : FmtT) (minor : Nat) : State :=
  s.acopy f minor (if minor = 2 then 3 else 2) fun i w t l c s =>
    let a := s.rdAddr i l f.handle.toNat
    let ls := (s.acting i).filter fun x => x / 32 == l / 32
    let idx (x : Nat) : Nat := (s.rdV i x f.coord.toNat).toNat
    let off := (s.rdV i l (f.coord.toNat + 1)).toNat
    let bm := (s.rdV i l (f.coord.toNat + 2)).toNat
    s.structAddr l a 6 fun s => s.withTlr w t l a (fun s => s.lostCopy i w t c a) fun v s =>
      match tlrBad v true with
      | some o => s.engineErr [l] (1 + 256 * o)
      | none =>
        let r := tlrOf v
        match ls.filter fun x => r.blkcount ≤ idx x with
        | x :: xs => s.raise 0x10 (x :: xs) 0 r.blkcount
        | [] =>
          let ranges := (off, r.span true) :: (if minor = 2 && r.bmp then [(bm, 4)] else [])
          match spadFail t.vals.spbytes ranges with
          | some e => s.raise e.1 [l] e.2.1 e.2.2
          | none => s.issueCopy i w t { c with
              tlr := r, sp := t.spbase + off, bmp := t.spbase + bm
              idxs := (List.range 32).map fun x => if ls.contains (l / 32 * 32 + x) then some (idx (l / 32 * 32 + x)) else none }

/-- TCOPY (R196). -/
def execTcopy (f : FmtT) (s : State) : Res := .next (s.boxCopy f 0)

/-- TSTORE (R196). -/
def execTstore (f : FmtT) (s : State) : Res := .next (s.boxCopy f 1)

/-- TGATHER (R196). -/
def execTgather (f : FmtT) (s : State) : Res := .next (s.blockCopy f 2)

/-- TSCATTER (R196). -/
def execTscatter (f : FmtT) (s : State) : Res := .next (s.blockCopy f 3)

/-- TXFER (R193, R196). -/
def execTxfer (f : FmtT) (s : State) : Res :=
  .next (s.acopy f 4 3 fun i w t l c s =>
    let src := s.rdAddr i l f.handle.toNat
    let dst := s.rdAddr i l f.coord.toNat
    let n := (s.rdV i l (f.coord.toNat + 2)).toNat
    let sp := [dst, src].filterMap fun a => match steer a with
      | .spad off => some (off, n)
      | _ => none
    let both := [dst, src]
    match spadFail t.vals.spbytes sp with
    | some e => s.raise e.1 [l] e.2.1 e.2.2
    | none =>
      if n % 4 ≠ 0 ∨ 16777216 < n then s.engineErr [l] 2
      else match both.findSome? fun a => rangeFail a n with
        | some e => s.raise 2 [l] e.1 e.2
        | none =>
          match both.find? fun a => (match steer a with
              | .onchip _ _ => !t.vals.grant
              | _ => false) with
          | some a => s.raise 3 [l] a 0
          | none => match both.find? fun a => a % 4 != 0 with
            | some a => s.badAlign l a 2
            | none => s.issueCopy i w t { c with dst := dst, src := src, count := n })

/-! ### The engine's work (R196 to R198, R215, R368) -/

/-- Where a move took a place of the ranges it left (R368). -/
def Fwd.to (f : Fwd) (loc : Loc) : Option Loc :=
  match loc with
  | .spad _ o => if f.spOld ≤ o ∧ o < f.spOld + f.size then some (.spad f.core (f.spNew + (o - f.spOld))) else none
  | .onchip k o => match onChipAt k o with
    | .spad q => if f.spOld ≤ q ∧ q < f.spOld + f.size then some (.onchip f.core (f.spNew + (q - f.spOld))) else none
    | .acc a => (f.tiles.find? fun e => e.1 == a % 2 ^ 18 / 512).map fun e =>
      .onchip f.core (0x20_0000 + e.2 * 2048 + (o - 0x20_0000) % 2048)
    | .reg key =>
      let g := key / 131072 % 6 * 1024 + key % 131072 / 64
      if 65536 ≤ key % 131072 then none
      else (f.slots.find? fun e => e.1 ≤ g && g < e.1 + e.2.2).map fun e =>
        let slot := e.2.1 + (g - e.1)
        .onchip f.core (0x40_0000 + slot / 1024 * 0x8_0000 + slot % 1024 * 256 + key % 64 * 4 + o % 4)
    | _ => none
  | _ => none

/-- The entries at a core for a command, by moves after the one numbered `seq`, in the order of the moves. -/
def State.fwdsAt (s : State) (core cmd seq : Nat) : List Fwd :=
  let l := (((tget s.cores core).map (·.fwds)).getD []).filter fun f => f.cmds.contains cmd && decide (seq < f.seq)
  (sortNat (l.map (·.seq))).filterMap fun q => l.find? fun f => f.seq == q

/-- The forwarding entries of the device. -/
def State.fwdCount (s : State) : Nat := (s.cores.map fun e => e.2.fwds.length).sum

/-- A place that a command writes, as the moves after `seq` left it (R368). -/
def State.forwardFrom (s : State) (cmd : Nat) : Nat → Nat → Loc → Loc
  | 0, _, loc => loc
  | fuel + 1, seq, loc =>
    let at_ (k : Nat) : Loc := match (s.fwdsAt k cmd seq).findSome? fun f => (f.to loc).map fun l => (f.seq, l) with
      | some (q, l) => s.forwardFrom cmd fuel q l
      | none => loc
    match loc with
    | .spad k _ => at_ k
    | .onchip k _ => at_ k
    | _ => loc

/-- A write of a command into a range that its team has left goes to the matching new one (R368). -/
def State.forward (s : State) (cmd : Nat) (loc : Loc) : Loc := s.forwardFrom cmd s.fwdCount 0 loc

/-- The core that takes the records of a command that a core issued (R368). -/
def State.coreFrom (s : State) (cmd : Nat) : Nat → Nat → Nat → Nat
  | 0, _, k => k
  | fuel + 1, seq, k => match s.fwdsAt k cmd seq with
    | f :: _ => s.coreFrom cmd fuel f.seq f.core
    | [] => k

def State.forwardCore (s : State) (cmd core : Nat) : Nat := s.coreFrom cmd s.fwdCount 0 core

/-- Bytes by address, rising, in runs that cross no multiple of `g`. -/
def runsIn (g : Nat) : List (Nat × Byte) → List (Nat × List Byte)
  | [] => []
  | (a, x) :: r => match runsIn g r with
    | (b, l) :: t => if b = a + 1 ∧ b % g ≠ 0 then (a, x :: l) :: t else (a, [x]) :: (b, l) :: t
    | [] => [(a, [x])]

/-- Bytes by address, rising, block of eight by block of eight. -/
def blocksIn : List (Nat × Byte) → List (List (Nat × Byte))
  | [] => []
  | e :: r => match blocksIn r with
    | (h :: l) :: t => if h.1 / 8 = e.1 / 8 then (e :: h :: l) :: t else [e] :: (h :: l) :: t
    | t => [e] :: t

/-- Under what number a unit's read of a block of another device's memory is answered. -/
def Copy.readKey (u blk : Nat) : Nat := u * 2 ^ 64 + blk

/-- Under what number a unit's write is answered. -/
def Copy.writeKey (u k : Nat) : Nat := u * 2 ^ 64 + 2 ^ 63 + k

/-- What a unit has read of the memory that core points keep copies of: its bytes by key, the keys of lost ones, and whether
another device's answer is awaited. -/
structure Fetched where
  bytes : Tab Byte
  lost : List Nat
  wait : Bool
  deriving DecidableEq, Repr

/-- A unit reads its bytes of one block, given with their global addresses, in one access, so that no word of it mixes two
writes (R197): as a thread of its core, with no floor and no buffer (R208, R215). -/
def State.fetchBlock (s : State) (c : Copy) (u : Nat) (f : Fetched) (need : List (Nat × Nat)) : Fetched × State :=
  let keys := need.map (·.1)
  let dirty (k : Nat) : Option Byte := (tget s.m.cDirty (ckey c.core k)).map (·.1)
  let rest := keys.filter fun k => (dirty k).isNone
  let can := !rest.isEmpty && s.cleanTogether c.core rest
  let put (s : State) (byte : Nat → Byte) (lost : List Nat) : Fetched × State :=
    ({ f with bytes := keys.foldl (fun t k => tset t k ((dirty k).getD (byte k))) f.bytes, lost := f.lost ++ lost }, s)
  let clean (s : State) (k : Nat) : Byte := ((s.cleanAt c.core k).map (·.byte)).getD 0
  match need with
  | [] => (f, s)
  | (k0, va0) :: _ =>
    if k0 < 2 ^ 40 then
      let (x, s) := if can then s.choose 2 else (1, s)
      if can && x == 0 then put s (clean s) []
      else if s.homeBad rest then put s s.homeByte (rest.filter fun k => s.wordBad (k / 32))
      else
        let s := s.fillClean c.core rest
        put s (clean s) []
    else
      let key := Copy.readKey u (k0 / 8)
      match tget c.got key with
      | some b => put s (fun k => b.getD (k - k0) 0) []
      | none =>
        if s.sk.reqs.any fun r => r.who == .copy c.id key then ({ f with wait := true }, s)
        else
          let (x, s) := if can then s.choose 2 else (1, s)
          if can && x == 0 then put s (clean s) []
          else
            let n := (keys.foldl max k0) + 1 - k0
            ({ f with wait := true }, (s.skSend {
              blankMsg with paddr := k0 % 2 ^ 40, dst := k0 / 2 ^ 40 - 1, size := n, op := 0 } c.ctx va0 (.copy c.id key)).1)

/-- What a unit reads of the memory that core points keep copies of, block by block; `need` holds the bytes with their global
addresses. -/
def State.fetch (s : State) (c : Copy) (u : Nat) (need : List (Nat × Nat)) : Fetched × State :=
  let t : Tab Nat := need.foldl (fun t e => tset t e.1 e.2) []
  let blocks := dedup (t.map fun e => e.1 / 8)
  blocks.foldl (fun (p : Fetched × State) b => p.2.fetchBlock c u p.1 (t.filter fun e => e.1 / 8 == b))
    ({ bytes := [], lost := [], wait := false }, s)

/-- The bytes at a located place that no core point keeps a copy of, with the offset of the first that is lost. -/
def State.copyRead (s : State) (c : Copy) (loc : Loc) (n va : Nat) : Option (List Byte × Option Nat) × State :=
  match loc with
  | .mem .sw pa =>
    let rows := dedup ((List.range n).map fun k => (pa + k) / 1024)
    let (bs, u, s) := rows.foldl (fun (p : List Byte × Option Nat × State) r =>
      let lo := max pa (r * 1024)
      let hi := min (pa + n) (r * 1024 + 1024)
      let at_ := (List.range (hi - lo)).find? fun k => p.2.2.ueAt (lo + k) 1
      let (b, u, s) := p.2.2.swRead lo (hi - lo) (some (c.ctx, va))
      (p.1 ++ b, p.2.1.or (if u then at_.map (lo - pa + ·) else none), s)) ([], none, s)
    (some (bs, u), s)
  | loc => match s.homeRead loc n c.ctx va with
    | (some (b, u), s) => (some (b, if !u then none else match loc with
      | .mem _ pa => (List.range n).find? fun k => s.wordBad ((pa + k) / 32)
      | _ => some 0), s)
    | (none, s) => (none, s)

/-- Bytes written by a copy engine at a place that is no global address, or straight to the home point (R215). -/
def State.copyPut (s : State) (c : Copy) (loc : Loc) (data : List Byte) : State :=
  match loc with
  | .spad k o => s.spadWrite k o data
  | .onchip k o => s.onchipWrite k o data (some c.id)
  | .mem .uc pa => (s.kvRace pa data.length).ucWrite pa data
  | .host x ha => s.hostStore x ha data
  | _ => s

/-- A command's write, to where the moves of its team took the place (R368). -/
def State.copyWrite (s : State) (c : Copy) (loc : Loc) (data : List Byte) : State :=
  if s.fwdCount = 0 then s.copyPut c loc data
  else
    let bytes (s : State) : State := ((List.range data.length).zip data).foldl (fun s e =>
      s.copyPut c (s.forward c.id (loc.add e.1)) [e.2]) s
    match loc with
    | .spad _ _ => bytes s
    | .onchip _ _ => bytes s
    | _ => s.copyPut c loc data

/-- What a unit writes to memory behind core points, bank queues or Skovlink, by address and with its global address. -/
structure Sent where
  core : Tab Byte
  sw : Tab (Byte × Nat)
  peer : Tab (Byte × Nat)
  deriving DecidableEq, Repr

/-- One byte of a unit's writes joins what leaves together. -/
def Sent.add (x : Sent) (loc : Loc) (b : Byte) (va : Nat) : Sent :=
  match loc with
  | .mem .normal pa => { x with core := tset x.core pa b }
  | .mem .kvp pa => { x with core := tset x.core pa b }
  | .mem .sw pa => { x with sw := tset x.sw pa (b, va) }
  | .peer d pa => { x with peer := tset x.peer (peerKey d pa) (b, va) }
  | _ => x

/-- What a unit writes to memory leaves: through its core's point and on to the home point (R215), the bytes of a block of eight
together; as entries of bank queues; and as messages of at most 128 bytes. So no 4-byte word of it is seen half written
(R197). -/
def State.sendUnit (s : State) (c : Copy) (u : Nat) (x : Sent) : State :=
  let va (t : Tab (Byte × Nat)) (a : Nat) : Nat := ((tget t a).map (·.2)).getD 0
  let s := (blocksIn x.core).foldl (fun s l => (l.foldl (fun s e => s.kvRace e.1 1) s).corePut c.core l) s
  let s := (runsIn 16 (x.sw.map fun e => (e.1, e.2.1))).foldl (fun s r =>
    s.enqueue r.1 r.2.length c.ctx (va x.sw r.1) (.write r.2)) s
  let ms := runsIn 128 (x.peer.map fun e => (e.1, e.2.1))
  ((List.range ms.length).zip ms).foldl (fun s e =>
    (s.skSend { blankMsg with
      paddr := e.2.1 % 2 ^ 40, dst := e.2.1 / 2 ^ 40 - 1, size := e.2.2.length, op := 4, data := e.2.2 } c.ctx (va x.peer e.2.1)
      (.copy c.id (Copy.writeKey u e.1))).1) s

/-- What stands in the way of a unit. -/
inductive Way where
  | ok (locs : List (Option Loc × Loc × Piece))
  | wait
  | fault (f : PageFault)
  | fail (status va : Nat)
  deriving DecidableEq, Repr

/-- Both ends of every piece are translated; a piece that crosses a page is cut there. -/
def cutPiece (p : Piece) : List Piece :=
  let room (x : Option Place) : Nat := match x with
    | some (.global va) => 65536 - va % 65536
    | _ => p.n
  let add (x : Place) (k : Nat) : Place := match x with
    | .global va => .global (va + k)
    | .here l => .here (l.add k)
  let a := min p.n (min (room p.src) (room (some p.dst)))
  let rest (q : Piece) (k : Nat) : Piece := { src := q.src.map fun x => add x k, dst := add q.dst k, n := q.n - k }
  let q := rest p a
  let b := min q.n (min (room q.src) (room (some q.dst)))
  ([{ p with n := a }, { q with n := b }, rest q b]).filter fun x => x.n != 0

def State.way (s : State) (c : Copy) : List Piece → List (Option Loc × Loc × Piece) → Way × State
  | [], acc => (.ok acc.reverse, s)
  | p :: ps, acc =>
    let u : XUnit := .core c.core
    let (d, s) : EngXlate × State := match p.dst with
      | .here l => (.at l, s)
      | .global va => s.engineXlate u c.ctx va c.leader .store
    match d with
    | .wait => (.wait, s)
    | .fault f => if f.reason % 256 = 2 then (.fail 2 f.addr, s) else (.fault f, s)
    | .at dl =>
      let kvp := match dl with
        | .mem .kvp _ => true
        | _ => false
      if kvp then (.fail 2 (match p.dst with
        | .global va => va
        | .here _ => 0), s)
      else
        match p.src with
        | none => s.way c ps ((none, dl, p) :: acc)
        | some (.here l) => s.way c ps ((some l, dl, p) :: acc)
        | some (.global va) => match s.engineXlate u c.ctx va c.leader .load with
          | (.wait, s) => (.wait, s)
          | (.fault f, s) => (.fault f, s)
          | (.at sl, s) => s.way c ps ((some sl, dl, p) :: acc)

def Place.va (p : Place) : Nat := match p with
  | .global va => va
  | .here _ => 0

/-- The sources of a unit's pieces are read: the bytes of each, and the global address of its first lost one. -/
def State.readPieces (s : State) (c : Copy) (f : Fetched) :
    List (Option Loc × Loc × Piece) → List (List Byte × Option Nat) × State
  | [] => ([], s)
  | (src, _, p) :: r =>
    let va := ((p.src.map Place.va).getD 0)
    let (x, s) : (List Byte × Option Nat) × State := match src with
      | none => ((List.replicate p.n 0, none), s)
      | some loc => match loc.cleanKey with
        | some k => (((List.range p.n).map fun i => (tget f.bytes (k + i)).getD 0,
            ((List.range p.n).find? fun i => f.lost.contains (k + i)).map (va + ·)), s)
        | none => match s.copyRead c loc p.n va with
          | (some (b, bad), s) => ((b, bad.map fun k => va + k), s)
          | (none, s) => (([], none), s)
    let (rest, s) := s.readPieces c f r
    (x :: rest, s)

/-- The destination bytes of a TXFER that lie in its source range are undefined (R197). -/
def State.undefOverlap (s : State) (c : Copy) (u : Nat) (data : List Byte) : List Byte × State :=
  if c.minor ≠ 4 then (data, s)
  else
    (List.range data.length).foldl (fun (p : List Byte × State) k =>
      let a := c.dst + 128 * u + k
      if c.src ≤ a ∧ a < c.src + c.count then
        let (v, s) := p.2.freeWord
        (p.1.set k (v.setWidth 8), s)
      else p) (data, s)

/-- The part of a command that waits on a fault with unit `u`: a slot of a block command, else the whole (R198). -/
def Copy.part (c : Copy) (u : Nat) : Nat := if c.minor = 2 ∨ c.minor = 3 then u else 0

/-- One unit of a command is done, fails, or waits. -/
def State.copyUnit (s : State) (c : Copy) (u : Nat) : State :=
  let pinning := c.minor = 2 ∧ c.tlr.pdt ≠ 0
  if s.waits (.engine c.id (c.part u)) ∨ (pinning ∧ !c.pinned.contains u) ∨
      (s.ops.any fun o => o.warp == c.warp && o.id < c.id && o.helper.isNone && o.lanes.contains c.leader && !o.performed) then s
  else
    match s.way c ((c.pieces u).flatMap cutPiece) [] with
    | (.wait, s) => s
    | (.fail st va, s) => s.copyFail c u st va 0
    | (.fault f, s) => match s.engineFailed c.id (c.part u) f with
      | some r => s.copyFail c u 1 f.addr r
      | none => s.engineFault c.ctx c.core 2 c.core c.wcb c.id (c.part u) f
    | (.ok ls, s) =>
      let need := ls.flatMap fun e => match e.1.bind Loc.cleanKey with
        | some k => (List.range e.2.2.n).map fun i => (k + i, ((e.2.2.src.map Place.va).getD 0) + i)
        | none => []
      let (f, s) := s.fetch c u need
      if f.wait then s
      else
        let (bs, s) := s.readPieces c f ls
        match bs.findSome? fun e => e.2 with
        | some va => s.copyUe c u (s.reportPa c.ctx va) va
        | none =>
          let w := (ls.zip bs).foldl (fun (p : Nat × Sent × State) e =>
            let (_, dl, pc) := e.1
            let (b, s) := p.2.2.undefOverlap c u e.2.1
            let sent := ((List.range b.length).zip b).foldl (fun (x : Sent) y =>
              x.add (dl.add y.1) y.2 (pc.dst.va + y.1)) p.2.1
            (p.1 + b.length, sent, s.copyWrite c dl b)) (0, { core := [], sw := [], peer := [] }, s)
          let s := (w.2.2.sendUnit c u w.2.1).modCopy c.id fun x =>
            { x with units := x.units.filter (· != u), bytes := x.bytes + w.1 }
          let s := if c.minor = 2 && c.tlr.bmp then match s.forward c.id (.spad c.core c.bmp) with
              | .spad k o => s.spadWrite k o (leBytes 4 (leNat (s.spadBytes k o 4) ||| 2 ^ u))
              | _ => s
            else s
          if pinning then s.pend (.pdtUnpin c.id u) else s

/-- The lowest failure of a command: its status, the lowest address, and what came with the status. -/
def Copy.failure (c : Copy) : Option (Nat × Nat × Word) :=
  match minNat? (c.fails.map (·.1)) with
  | none => none
  | some st => some (st, (minNat? (c.fails.map fun f => f.2.1)).getD 0,
      ((c.fails.find? fun f => f.1 == st).map fun f => f.2.2).getD 0)

/-- A command's forwarding entry is free once no command of its team that was in flight at the move is left (R368). -/
def State.endFwd (s : State) (id : Nat) : State :=
  { s with cores := s.cores.map fun (e : Nat × Core) =>
    let fs := e.2.fwds.map fun (f : Fwd) => { f with cmds := f.cmds.filter (· != id) }
    (e.1, { e.2 with fwds := fs.filter fun f => !f.cmds.isEmpty }) }

/-- A failed command's deferred trap (R198, R425). -/
def State.copyTrap (s : State) (c : Copy) (st va : Nat) (detail : Word) : State :=
  let d : Deferred := {
    cause := if st = 1 then 6 else if st = 2 then 0x13 else 7, lanes := [c.leader], addrs := [(c.leader, va)]
    info := if st = 1 then detail else if st = 2 then 0 else 0x800, uerec := if st = 3 then some detail else none
    dests := [], again := false }
  s.modWarp c.warp fun w => { w with deferred := w.deferred ++ [d] }

/-- An event record of a copy engine joins a core's queue (R195). -/
def State.copyEvent (s : State) (c : Copy) (k st : Nat) : State :=
  s.modCore k fun x =>
    let n := x.copySeq + 1
    { x with
      copySeq := n
      evq := x.evq ++ [{
        detail := BitVec.ofNat 32 (min c.bytes 0xFFFF_FFFF), team := BitVec.ofNat 32 c.teamIdx, status := BitVec.ofNat 8 st
        minor := c.minor, source := 1, id := c.target.id, ctx := c.ctx, seq := BitVec.ofNat 32 n, raw := [] }] }

/-- The completion of a command (R194): a release at device scope, then its target. -/
def State.copyEnd (s : State) (c : Copy) : State :=
  let s := s.pushCore c.core
  let f := c.failure
  let st := (f.map (·.1)).getD 0
  let trap (s : State) : State := match f with
    | some (st, va, d) => s.copyTrap c st va d
    | none => s
  let s := match c.target.kind with
    | 0 => (match s.warp c.warp with
      | some w => trap (s.dropClean w.core)
      | none => s)
    | 1 => s.pend (.dcDecrement c.ctx c.target.entry (if st = 0 then 0 else BitVec.ofNat 16 (0x100 + st)))
    | 2 => s.copyEvent c (s.forwardCore c.id c.core) st
    | _ => trap s
  let s := ((s.endOp c.id).clearFailed c.id).endFwd c.id
  { s with copies := s.copies.filter fun x => x.id != c.id }

/-- COPY_COMPLETE (R194, R196): one unit of a command, or its completion; an event record waits for a place in its queue. -/
def execCopyComplete (cmd : Nat) (part : CopyStep) (s : State) : Res :=
  .next (match s.copy cmd with
    | none => s
    | some c => match part with
      | .unit k => match c.units[k % max 1 c.units.length]? with
        | none => s.pend (.copyComplete cmd .finish)
        | some u =>
          let s := s.copyUnit c u
          let n := ((s.copy cmd).map fun x => x.units.length).getD 0
          let (k, s) := s.choose n
          s.pend (.copyComplete cmd (.unit k))
      | .finish =>
        let open_ := !c.units.isEmpty || !c.pinned.isEmpty || s.sk.reqs.any fun r => match r.who with
          | .copy x _ => x == cmd
          | _ => false
        let full := c.target.kind = 2 ∧ 256 ≤ ((tget s.cores (s.forwardCore c.id c.core)).map fun x => x.evq.length).getD 0
        if open_ || full then s.pend (.copyComplete cmd .finish) else s.copyEnd c)

end Sys2Proof.Machine
end

