-- ==== Sys2Proof/Machine/Sfu.lean ====
section
/-! DEFINITION. The special functions (R122 to R125). Each input that R124 or R125 settles has its exact result; for every
other input the result is one of the f32 values within the bound of R123, chosen by the device's own function table,
which the spec does not state (`Config.sfuChoice`). -/

namespace Sys2Proof.Machine

/-- The functions of the T pipe. -/
inductive SfuFn where
  | rcp
  | rsq
  | sqrt
  | exp2
  | log2
  | sint
  | cost
  | tanh
  deriving DecidableEq, Repr

def SfuFn.index : SfuFn → Nat
  | .rcp => 0 | .rsq => 1 | .sqrt => 2 | .exp2 => 3 | .log2 => 4 | .sint => 5 | .cost => 6 | .tanh => 7

/-- The integer square root, bit by bit from bit `b` down. -/
def isqrtFrom : Nat → Nat → Nat → Nat
  | 0, _, r => r
  | b + 1, x, r => let c := r + 2 ^ b
    if c * c ≤ x then isqrtFrom b x c else isqrtFrom b x r

def isqrt (x : Nat) : Nat := isqrtFrom (Nat.log2 x / 2 + 1) x 0

/-- A positive real held between lo × 2^e and hi × 2^e. -/
structure Enclosure where
  lo : Nat
  hi : Nat
  e : Int
  deriving DecidableEq, Repr

/-- Fixed point with 256 fraction bits. -/
def fxOne : Nat := 2 ^ 256
def fxPi : Nat := 0x3243f6a8885a308d313198a2e03707344a4093822299f31d0082efa98ec4e6c89
def fxLn2 : Nat := 0xb17217f7d1cf79abc9e3b39803f2f6af40f343267298b62d8a0d175b8baafa2b

/-- A fixed-point result with an error allowance far below any f32 spacing it is used at. -/
def fxEnclose (v : Nat) (e : Int) : Enclosure := ⟨v - 2 ^ 32, v + 2 ^ 32, e - 256⟩

/-- The Taylor terms of exp after `term`, the k-th. -/
def fxExpTerms : Nat → Nat → Nat → Nat → Nat
  | 0, _, _, _ => 0
  | n + 1, x, k, term => let t := term * x / fxOne / (k + 1)
    t + fxExpTerms n x (k + 1) t

/-- exp(x) for a fixed-point x below 1. -/
def fxExp (x : Nat) : Nat := fxOne + fxExpTerms 70 x 0 fxOne

/-- The terms z^(2k+1)/(2k+1) of the inverse hyperbolic tangent. -/
def fxAtanhTerms : Nat → Nat → Nat → Nat → Nat
  | 0, _, _, _ => 0
  | n + 1, z2, k, p => p / (2 * k + 1) + fxAtanhTerms n z2 (k + 1) (p * z2 / fxOne)

/-- log2 of a fixed-point m in [1, 2). -/
def fxLog2 (m : Nat) : Nat :=
  let z := (m - fxOne) * fxOne / (m + fxOne)
  2 * fxAtanhTerms 90 (z * z / fxOne) 0 z * fxOne / fxLn2

/-- The alternating Taylor terms of sin (k odd first) or cos. -/
def fxTrigTerms : Nat → Nat → Nat → Nat → Int
  | 0, _, _, _ => 0
  | n + 1, x2, k, term => let t := term * x2 / fxOne / ((k + 1) * (k + 2))
    (0 : Int) - t - fxTrigTerms n x2 (k + 2) t

/-- sin x and cos x of a fixed-point x in [0, 1]. -/
def fxSin (x : Nat) : Nat := ((x : Int) + fxTrigTerms 40 (x * x / fxOne) 1 x).toNat
def fxCos (x : Nat) : Nat := ((fxOne : Int) + fxTrigTerms 40 (x * x / fxOne) 0 fxOne).toNat

/-- A dyadic m × 2^e as fixed point. -/
def fxOf (m : Nat) (e : Int) : Nat := if -256 ≤ e then m <<< (e + 256).toNat else m >>> (-256 - e).toNat

/-- sin(2π r) for r = m × 2^e in (0, 1/8]: of small r from x − x³/6 ≤ sin x ≤ x − x³/6 + x⁵/120, in units of 2^(3E) where
x = X × 2^E. -/
def encSin (m : Nat) (e : Int) : Enclosure :=
  if (Nat.log2 m : Int) + e < -20 then
    let x := m * fxPi
    let x' := m * (fxPi + 1)
    let k := (255 - e).toNat
    ⟨(x <<< (2 * k)) - x' ^ 3 / 6 - 1, (x' <<< (2 * k)) - x ^ 3 / 6 + ((x' ^ 5) >>> (2 * k)) / 120 + 1, 3 * (e - 255)⟩
  else fxEnclose (fxSin (2 * fxPi * fxOf m e / fxOne)) 0

/-- cos(2π r) for r in (0, 1/8]: of small r from 1 − x²/2 ≤ cos x ≤ 1 − x²/4. -/
def encCos (m : Nat) (e : Int) : Enclosure :=
  if (Nat.log2 m : Int) + e < -20 then
    let one := 1 <<< (511 - 2 * e).toNat
    ⟨one - (m * (fxPi + 1)) ^ 2, one - (m * fxPi) ^ 2 / 2, 2 * e - 511⟩
  else fxEnclose (fxCos (2 * fxPi * fxOf m e / fxOne)) 0

/-- |sin(2π q)| for q = m × 2^e in (0, 1/2), m non-zero, by reduction to the first octant. -/
def encSinTurn (m : Nat) (e : Int) : Enclosure :=
  -- everything in units of 2^c, exactly
  let c := min e (-3)
  let q := m <<< (e - c).toNat
  let quarter := 1 <<< (-2 - c).toNat
  let half := 2 * quarter
  let r := if quarter < q then half - q else q
  if 2 * r ≤ quarter then encSin r c else if r == quarter then ⟨1, 1, 0⟩ else encCos (quarter - r) c

/-- 2^(n + f) for a fixed-point f in [0, 1). -/
def encExp2 (n : Int) (f : Nat) : Enclosure := fxEnclose (fxExp (f * fxLn2 / fxOne)) n

/-- tanh of a positive dyadic. -/
def encTanh (m : Nat) (e : Int) : Enclosure :=
  if (Nat.log2 m : Int) + e < -20 then
    -- a − a³/3 ≤ tanh a ≤ a − a³/3 + 2a⁵/15, in units of 2^(5e)
    let k := (-e).toNat
    let y := (m <<< (4 * k)) - ((m ^ 3) <<< (2 * k)) / 3
    ⟨y - 1, y + 2 * m ^ 5 / 15 + 1, 5 * e⟩
  else
    let x := 2 * fxOf m e * fxOne / fxLn2
    let ex := fxExp (x % fxOne * fxLn2 / fxOne) <<< (x / fxOne)
    fxEnclose ((ex - fxOne) * fxOne / (ex + fxOne)) 0

/-- The k-th f32 in value order, zero first (R88). -/
def f32OfOrd (i : Int) : Nat := if i < 0 then 0x80000000 + i.natAbs else i.natAbs

/-- May the f32 of order `i` lie within `k` ulps of the enclosed positive real (R123)? -/
def withinUlps (y : Enclosure) (k : Nat) (i : Int) : Bool :=
  match decodeF .f32 (f32OfOrd i) with
  | .fin neg m e =>
    let qu := max ((Nat.log2 y.hi : Int) + y.e - 23) (-149)
    let c := min (min e y.e) qu
    let x := Num.scaled c (.fin neg m e)
    let lo := (y.lo : Int) <<< (y.e - c).toNat
    let hi := (y.hi : Int) <<< (y.e - c).toNat
    let u := ((k : Int)) <<< (qu - c).toNat
    lo ≤ x + u && x ≤ hi + u
  | _ => false

/-- The order of the f32 at or just below m × 2^e. -/
def ordBelow (m : Nat) (e : Int) : Int := roundTo (.fin false m e) .f32 .rz false

/-- The f32 orders near the enclosed real, ten on each side. -/
def nearOrds (y : Enclosure) : List Int :=
  (List.range 21).map fun j => ordBelow y.lo y.e + (j : Int) - 10

/-- The allowed results of a bound of `k` ulps. -/
def ulpCands (y : Enclosure) (k : Nat) : List Int := (nearOrds y).filter (withinUlps y k)

/-- The two f32 values that bracket the enclosed real: the allowed results of a faithful function. -/
def faithCands (y : Enclosure) : List Int :=
  let lo := ordBelow y.lo y.e
  let hi := (roundTo (.fin false y.hi y.e) .f32 .rup false : Int)
  (List.range 4).filterMap fun j => if lo + (j : Int) ≤ hi then some (lo + (j : Int)) else none

/-- The device's choice among the allowed results, negated when the exact result is negative. -/
def pickCand (fn : SfuFn) (a : Word) (neg : Bool) (cands : List Int) : Word :=
  match cands[Config.sfuChoice fn.index a % cands.length]? with
  | some i => BitVec.ofNat 32 (f32OfOrd (if neg then -i else i))
  | none => 0

def f32Nan : Word := 0x7FC00000
def f32Inf (neg : Bool) : Word := if neg then 0xFF800000 else 0x7F800000
def f32Zero (neg : Bool) : Word := if neg then 0x80000000 else 0
def f32One (neg : Bool) : Word := if neg then 0xBF800000 else 0x3F800000
def f32Dyadic (neg : Bool) (m : Nat) (e : Int) : Word := toF32 (.fin neg m e) .rne false

/-- Is m × 2^e a power of two, and of which exponent? -/
def pow2Exp (m : Nat) (e : Int) : Option Int :=
  if m == 2 ^ Nat.log2 m then some ((Nat.log2 m : Int) + e) else none

def sfuRcp (a : Word) : Num → Word
  | .nan => f32Nan
  | .inf n => f32Zero n
  | .fin n m e =>
    if m == 0 then f32Inf n
    else match pow2Exp m e with
      | some k => if k < -127 then f32Inf n else f32Dyadic n 1 (-k)
      | none =>
        let y : Enclosure := ⟨2 ^ 300 / m, 2 ^ 300 / m + 1, -300 - e⟩
        -- a subnormal whose reciprocal exceeds maxFinite(f32)
        if (Nat.log2 m : Int) + e < -126 && !magLe y.hi y.e 0xFFFFFF 104 then f32Inf n
        else pickCand .rcp a n (ulpCands y 1)

def sfuRsq (a : Word) : Num → Word
  | .nan => f32Nan
  | .inf n => if n then f32Nan else 0
  | .fin n m e =>
    if m == 0 then f32Inf n
    else if n then f32Nan
    else match pow2Exp m e with
      | some k => if k % 2 == 0 then f32Dyadic false 1 (-(k / 2)) else
          let r := isqrt (2 ^ 401)
          pickCand .rsq a false (ulpCands ⟨r, r + 1, -200 - (k + 1) / 2⟩ 1)
      | none =>
        -- a = m' × 2^(2h)
        let m' := if e % 2 == 0 then m else 2 * m
        let h := if e % 2 == 0 then e / 2 else (e - 1) / 2
        let r := isqrt (2 ^ 400 / m')
        pickCand .rsq a false (ulpCands ⟨r, r + 2, -200 - h⟩ 1)

def sfuSqrt (mode : RMode) : Num → Word
  | .nan => f32Nan
  | .inf n => if n then f32Nan else f32Inf false
  | .fin n m e =>
    if m == 0 then f32Zero n
    else if n then f32Nan
    else
      let m' := (if e % 2 == 0 then m else 2 * m) * 2 ^ 80
      let h := (if e % 2 == 0 then e / 2 else (e - 1) / 2) - 40
      let r := isqrt m'
      -- a sticky bit below the root keeps the single rounding correct
      toF32 (.fin false (2 * r + (if r * r == m' then 0 else 1)) (h - 1)) mode false

def sfuExp2 (a : Word) (v : Num) : Word :=
  match v with
  | .nan => f32Nan
  | .inf n => if n then 0 else f32Inf false
  | .fin n m e =>
    if !n && magLe 128 0 m e then f32Inf false
    else if n && magLe 150 0 m e && !(magLe m e 150 0) then 0
    else
      -- a lies in [−150, 128): its floor and its fraction
      let k := roundInt .rdn n m e
      let isInt := (0 ≤ e) || m % 2 ^ (-e).toNat == 0
      if isInt && -149 ≤ k then f32Dyadic false 1 k
      else
        let f : Int := (if n then -(fxOf m e : Int) else fxOf m e) - k * fxOne
        let f' := if m != 0 && f == 0 && !isInt then 1 else f.toNat
        pickCand .exp2 a false (ulpCands (encExp2 k f') 2)

def sfuLog2 (a : Word) : Num → Word
  | .nan => f32Nan
  | .inf n => if n then f32Nan else f32Inf false
  | .fin n m e =>
    if m == 0 then f32Inf true
    else if n then f32Nan
    else
      let k := (Nat.log2 m : Int) + e
      match pow2Exp m e with
      | some k => toF32 (Num.ofInt k) .rne false
      | none =>
        let fr := fxLog2 (fxOf m (-(Nat.log2 m : Int)))
        let s : Int := k * fxOne + fr
        pickCand .log2 a (decide (s < 0)) (ulpCands (fxEnclose s.natAbs 0) 2)

def sfuTanh (a : Word) : Num → Word
  | .nan => f32Nan
  | .inf n => f32One n
  | .fin n m e =>
    if m == 0 then f32Zero n
    -- 9.1 as 91/10
    else if magLe 91 0 (10 * m) e then f32One n
    else pickCand .tanh a n (ulpCands (encTanh m e) 2)

/-- The exact reduction of R125: the sign and magnitude of q = a − n. -/
def turnReduce (neg : Bool) (m : Nat) (e : Int) : Bool × Nat × Int :=
  if 0 ≤ e then (false, 0, 0)
  else
    let s := (-e).toNat
    let k := roundShift .rne neg m s
    let q : Int := (m : Int) - (k <<< s : Nat)
    ((q < 0) != neg, q.natAbs, e)

def sfuSint (a : Word) : Num → Word
  | .nan => f32Nan
  | .inf _ => f32Nan
  | .fin n m e =>
    let (qn, qm, qe) := turnReduce n m e
    if m == 0 then f32Zero n
    else if qm == 0 then 0
    else if magLe 1 (-1) qm qe then 0
    else if qm == 2 ^ Nat.log2 qm && (Nat.log2 qm : Int) + qe == -2 then f32One qn
    else pickCand .sint a qn (faithCands (encSinTurn qm qe))

def sfuCost (a : Word) : Num → Word
  | .nan => f32Nan
  | .inf _ => f32Nan
  | .fin n m e =>
    let (_, qm, qe) := turnReduce n m e
    if qm == 0 then f32One false
    else if magLe 1 (-1) qm qe then f32One true
    else if qm == 2 ^ Nat.log2 qm && (Nat.log2 qm : Int) + qe == -2 then 0
    else
      -- cos(2π q) = sin(2π (1/4 − |q|))
      let c := min qe (-2)
      let quarter : Int := 1 <<< (-2 - c).toNat
      let r : Int := quarter - (qm <<< (qe - c).toNat : Nat)
      pickCand .cost a (decide (r < 0)) (faithCands (encSinTurn r.natAbs c))

/-- A special function of the source word `a` under its modifiers (R122 to R125); only FSQRT honours the mode. -/
def sfuResult (fn : SfuFn) (mode : RMode) (neg abs : Bool) (a : Word) : Word :=
  let v := (f32 a).modified neg abs
  -- the table is a function of the input's value, its modifiers applied
  let w := toF32 v .rne false
  match fn with
  | .rcp => sfuRcp w v
  | .rsq => sfuRsq w v
  | .sqrt => sfuSqrt mode v
  | .exp2 => sfuExp2 w v
  | .log2 => sfuLog2 w v
  | .sint => sfuSint w v
  | .cost => sfuCost w v
  | .tanh => sfuTanh w v

end Sys2Proof.Machine
end

