-- ==== Sys2Proof/Machine/Task.lean ====
section
/-! DEFINITION. The TASK instructions (R372 to R374): launches, counter operations, and event records. -/

namespace Sys2Proof.Machine

/-- A register operand of a TASK word: scalar when `k` is 1. -/
def State.rdK (s : State) (i : Issue) (k : BitVec 1) (l n : Nat) : Word := if k = 1 then s.rdS i n else s.rdV i l n

/-- A TASK word acts through its leader; no helper issues it, and the control core names scalars only. It waits for the
commit token in deterministic mode, behind the leader's counter operations, and while an open recruitment holds what it
writes (R296). -/
def State.taskWord (s : State) (k : BitVec 1) (srcs dsts : List Nat) (flag : Issue → Option Nat)
    (f : Issue → Warp → Team → Nat → State → State) : State :=
  match s.iss with
  | none => s
  | some i =>
    if i.kind = .helper then s.forbid i 0x24 (s.leaderLanes i)
    else if s.onControl i ∧ k = 0 then s.forbid i 0x25 (s.leaderLanes i)
    else
      let bad := if k = 1 then none else s.regError i srcs dsts
      match bad with
      | some c => s.forbid i c (s.leaderLanes i)
      | none =>
        if (if k = 0 then s.recruitHeld i (s.leaderLanes i) dsts else
            !dsts.isEmpty && (s.leader i).isSome && (s.recruiter i).isSome) then s.stall
        else match s.leader i, s.warp i.warp, s.teamOf i.warp with
          | some l, some w, some t => if s.engHeld i (flag i) [l] true then s.stall else f i w t l s
          | _, _, _ => s

def State.wrK (s : State) (i : Issue) (k : BitVec 1) (l n : Nat) (v : Word) : State :=
  if k = 1 then s.setS i.warp n v else s.wrV i l n v

/-- LAUNCH (R360, R373). -/
def execLaunch (a d : BitVec 7) (k : BitVec 1) (s : State) : Res :=
  .next (s.taskWord k [a.toNat, a.toNat + 1] [d.toNat] (fun _ => none) fun i w t l s =>
    let va := (s.rdK i k l (a.toNat + 1) ++ s.rdK i k l a.toNat).toNat
    s.structAddr l va 8 fun s =>
      let s := (s.release i.warp l w.core 6).1
      let me : WaitBy := .word i.warp l i.gpc
      let off (s : State) : State := s.modCtx t.ctx fun x => { x with waiting := x.waiting.filter fun w => w.by_ != me }
      match s.tryLaunch t.ctx va 0 none none 0 0 (s.launchAhead t.ctx me) with
      | (.made id, s) => (off s).wrK i k l d.toNat id
      | (.refused, s) => ((off s).launchWaiting t.ctx).wrK i k l d.toNat 0
      | (.wait inst, s) => s.stallLaunch t.ctx (WaitLaunch.mk me inst va 0 none none))

/-- A counter operation on a window slot (R373): an entry beyond the table raises engine-error. -/
def State.slotOp (s : State) (f : FmtDc) (reg : Bool) (rel : Bool) (op : Issue → Nat → State → DcOp) : State :=
  s.taskWord f.k (if reg then [f.m.toNat] else []) [] (fun _ => none) fun i w t l s =>
    let entry := t.vals.dcwin + f.n.toNat
    let size := ((tget s.ctxs t.ctx).map (·.ctsize)).getD 0
    if size ≤ entry then s.engineErr [l] 0x60
    else
      let o := op i l s
      let s := if rel then (s.release i.warp l w.core 6).1 else s
      s.counter t.ctx entry o

/-- DCDEC (R365, R373). -/
def execDcdec (f : FmtDc) (s : State) : Res :=
  .next (s.slotOp f (f.g == 1) true fun i l s =>
    .dec (if f.g = 1 then (s.rdK i f.k l f.m.toNat).toNat % 65536 else 0))

/-- DCADD (R373). -/
def execDcadd (f : FmtDc) (s : State) : Res :=
  .next (s.slotOp f (f.g == 1) false fun i l s =>
    .add (if f.g = 1 then (s.rdK i f.k l f.m.toNat).toNat else f.m.toNat))

/-- TASKRDY (R373). -/
def execTaskrdy (f : FmtDc) (s : State) : Res :=
  .next (s.slotOp f (f.g == 1) true fun i l s =>
    .rdy (if f.g = 1 then (s.rdK i f.k l f.m.toNat).toNat % 65536 else 0))

/-! ### Event records (R195, R369, R374) -/

/-- The oldest record of a context in a core's queue is taken out. -/
def State.popEvent (s : State) (core ctx : Nat) : Option EvRec × State :=
  match (tget s.cores core).bind fun c => c.evq.find? fun r => r.ctx == ctx with
  | none => (none, s)
  | some r => (some r, s.modCore core fun c => { c with evq := c.evq.erase r })

/-- An EVPOP's registers are written and its flag falls: an acquire at device scope. -/
def State.evpopEnd (s : State) (o : Op) (w : Warp) (d : Nat) (scalar : Bool) (ws : List Word) : State :=
  let s := ((List.range ws.length).zip ws).foldl (fun s e =>
    if scalar then s.setS o.warp (d + e.1) e.2
    else o.lanes.foldl (fun s l => s.landV o l (d + e.1) e.2) s) s
  ((s.dropClean w.core).regsAcquired o.warp).endOp o.id

/-- EVPOP (R374): it waits in the engine for a record of its context; with TRY an empty queue gives zeros. -/
def execEvpop (d : BitVec 7) (k tryIt fsel : BitVec 1) (s : State) : Res :=
  .next (
    let regs := regRange d.toNat 4
    s.taskWord k [] regs (fun i => s.flagOf i (some fsel)) fun i w t l s =>
      let (id, s) := s.startOp { blankOp i.warp .engine with
        lanes := [l], flag := s.flagOf i (some fsel)
        vdests := if k = 1 then [] else regs.map fun r => (l, r)
        sdests := if k = 1 then regs else [] }
      if tryIt = 1 then
        let (r, s) := s.popEvent w.core t.ctx
        match s.op id with
        | none => s
        | some o => s.evpopEnd o w d.toNat (k == 1) ((r.map EvRec.words).getD [0, 0, 0, 0])
      else { s with
        evWaits := s.evWaits ++ [{ op := id, d := d.toNat, scalar := k == 1 }]
        pending := s.pending ++ [.evpopWake id] })

/-- EVPOP_WAKE (R374): a record of the issuer's context has come. -/
def execEvpopWake (op : Nat) (s : State) : Res :=
  .next (match s.evWaits.find? fun e => e.op == op with
    | none => s
    | some e =>
      let gone : State := { s with evWaits := s.evWaits.erase e }
      match s.op op with
      | none => gone
      | some o => match s.warp o.warp with
        | none => gone
        | some w => match s.popEvent w.core (s.ctxOf o.warp) with
          | (none, s) => s.pend (.evpopWake op)
          | (some r, s) =>
            let s := { s with evWaits := s.evWaits.erase e }
            s.evpopEnd o w e.d e.scalar r.words)

/-- EVPUSH (R374): a release at device scope; a full queue holds it at issue. -/
def execEvpush (r : BitVec 7) (k : BitVec 1) (s : State) : Res :=
  .next (s.taskWord k (regRange r.toNat 4) [] (fun _ => none) fun i w t l s =>
    if 256 ≤ ((tget s.cores w.core).map fun c => c.evq.length).getD 0 then s.stall
    else
      let x (n : Nat) : Nat := (s.rdK i k l (r.toNat + n)).toNat
      let s := (s.release i.warp l w.core 6).1
      s.modCore w.core fun c =>
        let n := c.swSeq + 1
        let w1 := setBits (setBits (x 1) 5 0 t.ctx) 19 16 0
        { c with
          swSeq := n
          evq := c.evq ++ [{
            detail := BitVec.ofNat 32 (x 3), team := BitVec.ofNat 32 (x 2), status := BitVec.ofNat 8 (bits w1 31 24)
            minor := bits w1 23 20, source := 0, id := bits w1 13 8, ctx := t.ctx, seq := BitVec.ofNat 32 n
            raw := [BitVec.ofNat 32 n, BitVec.ofNat 32 w1, BitVec.ofNat 32 (x 2), BitVec.ofNat 32 (x 3)] }] })

end Sys2Proof.Machine
end

