-- ==== Sys2Proof/Machine/Kv.lean ====
section
/-! DEFINITION. The prefix engines (R263 to R280): the KV instructions at issue, each performed as one ENGINE step that has
all its effects or none, and the pins of TGATHER (R267). -/

namespace Sys2Proof.Machine

/-! ### An attempt of the engine -/

/-- Why an attempt has no effect: a status of R275, a translation fault, or an uncorrectable error. -/
inductive KvErr where
  | status (n : Nat)
  | fault (f : PageFault)
  | ue (pa va : Nat)
  deriving DecidableEq, Repr

/-- The engine's work on the state, which an error undoes. -/
abbrev Kv := StateT State (Except KvErr)

def kvFail {α : Type} (e : KvErr) : Kv α := fun _ => .error e

def kvNeed (b : Bool) (n : Nat) : Kv Unit := if b then pure () else kvFail (.status n)

/-- Who works, and what kind of memory an access must find. -/
structure KvCtx where
  ctx : Nat
  core : Nat
  deriving DecidableEq, Repr

inductive KvMem where
  | struct
  | page
  | any
  deriving DecidableEq, Repr

/-- The physical address of a structure's, a page's or an array's byte (R275, status 0x07): a structure in NORMAL memory,
a page in KVP memory, an array anywhere in the device (DESIGN CHOICE 90); what lies on the host is none of these, whatever
its translation. -/
def kvPa (c : KvCtx) (va : Nat) (m : KvMem) (a : Access) : Kv Nat := fun s =>
  if gapTop < va ∨ ((s.leafSeen (.core c.core) c.ctx va).map fun e => decide (4 ≤ leafType e)) = some true then
    .error (.status 7)
  else match s.engineXlate (.core c.core) c.ctx va 0 a with
    | (.fault f, _) => .error (.fault f)
    | (.wait, _) => .error (.status 7)
    | (.at (.mem t pa), s) =>
      let ok : Bool := match m with
        | .struct => t == .normal
        | .page => t == .kvp
        | .any => true
      if ok then .ok (pa, s) else .error (.status 7)
    | (.at _, _) => .error (.status 7)

/-- Bytes within one page, at their home point; an array in SW memory is read through its bank's queue (R203, R208). -/
def kvBytes1 (c : KvCtx) (m : KvMem) (va n : Nat) : Kv (List Byte) := do
  let pa ← kvPa c va m .load
  let s ← get
  let (bs, bad, s) := if (s.leafSeen (.core c.core) c.ctx va).map leafType = some 1 then s.swRead pa n (some (c.ctx, va))
    else (s.homeBytes pa n, s.homeBadAt pa n, s)
  if bad then kvFail (.ue pa va)
  else
    set s
    return bs

/-- Bytes of at most one page size, cut where a page ends. -/
def kvBytes (c : KvCtx) (m : KvMem) (va n : Nat) : Kv (List Byte) := do
  let a := min n (65536 - va % 65536)
  let x ← kvBytes1 c m va a
  if a = n then return x
  else
    let y ← kvBytes1 c m (va + a) (n - a)
    return x ++ y

def kvRd (c : KvCtx) (va n : Nat) : Kv Nat := do
  let b ← kvBytes c .struct va n
  return leNat b

def kvPut1 (c : KvCtx) (m : KvMem) (va : Nat) (data : List Byte) : Kv Unit := do
  let pa ← kvPa c va m .store
  modify fun s => s.homeStore pa data

def kvPut (c : KvCtx) (m : KvMem) (va : Nat) (data : List Byte) : Kv Unit := do
  let a := min data.length (65536 - va % 65536)
  kvPut1 c m va (data.take a)
  if a = data.length then return () else kvPut1 c m (va + a) (data.drop a)

def kvWr (c : KvCtx) (va n v : Nat) : Kv Unit := kvPut c .struct va (leBytes n v)

/-! ### Pools and pages (R263, R266, R267) -/

def kvNone : Nat := 0xFFFF_FFFF

/-- The pool at an address, its fields in range. -/
def kvPool (c : KvCtx) (a : Nat) : Kv KvPool := do
  kvNeed (a % 64 == 0) 5
  let v ← kvRd c a 128
  let p := poolFields c.ctx a v
  kvNeed (bits v 1023 512 == 0 && bits v 351 320 == 0 && p.pagebase % 65536 == 0 && p.pdt % 16 == 0 && 1 ≤ p.npages &&
    p.npages ≤ 2 ^ 24 - 1 && p.pagebytes % 1024 == 0 && 1024 ≤ p.pagebytes && p.pagebytes ≤ 2 ^ 23 && p.nodebase % 256 == 0 &&
    2 ≤ p.nnodes && p.nnodes ≤ 2 ^ 24) 5
  return p

/-- Entry of a page. -/
def kvPdt (c : KvCtx) (p : KvPool) (k : Nat) : Kv Nat := do
  kvNeed (k < p.npages) 6
  kvRd c (p.pdt + 16 * k) 16

def kvPutPdt (c : KvCtx) (p : KvPool) (k v : Nat) : Kv Unit := kvWr c (p.pdt + 16 * k) 16 v

def pdtRef (e : Nat) : Nat := bits e 23 0
def pdtState (e : Nat) : Nat := bits e 47 46
def pdtPins (e : Nat) : Nat := bits e 63 48

/-- The entry of a page that must be live. -/
def kvLive (c : KvCtx) (p : KvPool) (k : Nat) : Kv Nat := do
  let e ← kvPdt c p k
  kvNeed (pdtState e == 1) 6
  return e

/-- allocate (R267). -/
def kvAlloc (c : KvCtx) (p : KvPool) : Kv Nat := do
  let head ← kvRd c (p.addr + 24) 4
  kvNeed (head != kvNone) 1
  let e ← kvPdt c p head
  let next := bits e 127 96
  kvNeed (next == kvNone || next < p.npages) 6
  let cnt ← kvRd c (p.addr + 28) 4
  kvWr c (p.addr + 24) 4 next
  kvWr c (p.addr + 28) 4 (cnt + 2 ^ 32 - 1)
  let e := setBits (setBits (setBits e 127 96 0) 95 64 (bits e 95 64 + 1)) 47 0 (at_ 1 46 + 1)
  kvPutPdt c p head e
  return head

/-- A page is pushed onto the free list. -/
def kvPush (c : KvCtx) (p : KvPool) (k e : Nat) : Kv Unit := do
  let head ← kvRd c (p.addr + 24) 4
  kvNeed (head == kvNone || head < p.npages) 6
  let cnt ← kvRd c (p.addr + 28) 4
  kvPutPdt c p k (setBits (setBits e 127 96 head) 47 46 0)
  kvWr c (p.addr + 24) 4 k
  kvWr c (p.addr + 28) 4 (cnt + 1)

/-- drop (R267): whether REF reached 0. -/
def kvDrop (c : KvCtx) (p : KvPool) (k : Nat) (tree : Bool) : Kv Bool := do
  let e ← kvLive c p k
  kvNeed (pdtRef e != 0) 6
  let e := setBits e 23 0 (pdtRef e - 1)
  let e := if tree then setBits e 24 24 0 else e
  if pdtRef e ≠ 0 then
    kvPutPdt c p k e
    return false
  else if pdtPins e = 0 then
    kvPush c p k e
    return true
  else
    kvPutPdt c p k (setBits e 47 46 2)
    return true

/-- A reference more on a live page; `tree` marks it as the tree's. -/
def kvShare (c : KvCtx) (p : KvPool) (k : Nat) (tree : Bool) : Kv Unit := do
  let e ← kvLive c p k
  kvNeed (pdtRef e < 2 ^ 24 - 1) 9
  let e := setBits e 23 0 (pdtRef e + 1)
  kvPutPdt c p k (if tree then setBits e 24 24 1 else e)

/-! ### Sequences and geometry (R268) -/

structure Seq where
  addr : Nat
  len : Nat
  npages : Nat
  geom : Nat
  pool : Nat
  maxpages : Nat
  deriving DecidableEq, Repr

/-- A sequence's header as it stands. -/
def kvHead (c : KvCtx) (a : Nat) : Kv (Seq × Nat) := do
  let v ← kvRd c a 32
  return ({ addr := a, len := bits v 31 0, npages := bits v 63 32, geom := bits v 127 64, pool := bits v 191 128
            maxpages := bits v 223 192 }, bits v 255 224)

/-- A sequence that must be empty (0x04) before anything else is asked of it. -/
def kvEmpty (c : KvCtx) (a : Nat) : Kv Unit := do
  let (s, _) ← kvHead c a
  kvNeed (s.len == 0 && s.npages == 0) 4

/-- A sequence, its fields in range (0x05). -/
def kvSeq (c : KvCtx) (a : Nat) : Kv Seq := do
  let (s, r) ← kvHead c a
  kvNeed (r == 0 && 1 ≤ s.maxpages && s.maxpages ≤ 2 ^ 24 && s.geom % 32 == 0 &&
    s.npages == (s.len + 31) / 32 && s.npages ≤ s.maxpages) 5
  return s

def kvPage (c : KvCtx) (s : Seq) (k : Nat) : Kv Nat := kvRd c (s.addr + 32 + 4 * k) 4

def kvPutPage (c : KvCtx) (s : Seq) (k p : Nat) : Kv Unit := kvWr c (s.addr + 32 + 4 * k) 4 p

def kvPutSeq (c : KvCtx) (s : Seq) (len npages : Nat) : Kv Unit := kvWr c s.addr 8 (len + at_ npages 32)

structure Geom where
  heads : Nat
  dhead : Nat
  rdim : Nat
  omega : Nat
  deriving DecidableEq, Repr

def kvGeom (c : KvCtx) (a : Nat) (p : KvPool) : Kv Geom := do
  let v ← kvRd c a 32
  let g : Geom := { heads := bits v 15 0, dhead := bits v 31 16, rdim := bits v 56 48, omega := bits v 127 64 }
  kvNeed (bits v 255 128 == 0 && bits v 63 57 == 0 && bits v 47 40 == 0 && bits v 39 32 == 0 && 1 ≤ g.heads && g.heads ≤ 64 &&
    g.dhead % 8 == 0 && 8 ≤ g.dhead && g.dhead ≤ 256 && g.rdim % 2 == 0 && g.rdim ≤ g.dhead &&
    (g.rdim == 0 || g.omega % 8 == 0) && 128 * g.heads * g.dhead ≤ p.pagebytes) 5
  return g

/-! ### The tree (R270, R271) -/

def nodeAt (p : KvPool) (i : Nat) : Nat := p.nodebase + 256 * i

/-- A link must name a node slot. -/
def kvSlot (p : KvPool) (i : Nat) : Kv Unit := kvNeed (i < p.nnodes) 5

def kvNode (c : KvCtx) (p : KvPool) (i : Nat) : Kv Nat := do
  kvSlot p i
  kvRd c (nodeAt p i) 256

def nodeTok (v k : Nat) : Nat := bits v (32 * k + 31) (32 * k)
def nodeCount (v : Nat) : Nat := bits v 1055 1024
def nodePage (v : Nat) : Nat := bits v 1087 1056
def nodeParent (v : Nat) : Nat := bits v 1119 1088
def nodeChild (v : Nat) : Nat := bits v 1151 1120
def nodeChildren (v : Nat) : Nat := bits v 1183 1152
def nodeStamp (v : Nat) : Nat := bits v 1279 1216

/-- A node slot is taken from the free list. -/
def kvTake (c : KvCtx) (p : KvPool) : Kv Nat := do
  let head ← kvRd c (p.addr + 48) 4
  kvNeed (head != kvNone) 2
  kvSlot p head
  let next ← kvRd c (nodeAt p head) 4
  kvNeed (next == kvNone || next < p.nnodes) 5
  let cnt ← kvRd c (p.addr + 52) 4
  kvWr c (p.addr + 48) 4 next
  kvWr c (p.addr + 52) 4 (cnt + 2 ^ 32 - 1)
  return head

/-- A node slot goes back to the free list. -/
def kvGive (c : KvCtx) (p : KvPool) (i : Nat) : Kv Unit := do
  let head ← kvRd c (p.addr + 48) 4
  kvNeed (head == kvNone || head < p.nnodes) 5
  let cnt ← kvRd c (p.addr + 52) 4
  kvWr c (nodeAt p i) 4 head
  kvWr c (p.addr + 48) 4 i
  kvWr c (p.addr + 52) 4 (cnt + 1)

def childHash (tok : Nat) : Nat := tok * 0x9E3779B1 % 2 ^ 32 % 31

/-- TOKEN and NODE of an entry of a child-table block. -/
def blockTok (v e : Nat) : Nat := bits v (64 * e + 31) (64 * e)
def blockNode (v e : Nat) : Nat := bits v (64 * e + 63) (64 * e + 32)

/-- The probe sequence of a token. -/
def probes (tok : Nat) : List Nat := (List.range 31).map fun i => (childHash tok + i) % 31

/-- What a block says of a token: its entry, a miss, or nothing. -/
def probeBlock (v tok : Nat) : List Nat → Option (Option Nat)
  | [] => none
  | e :: es =>
    if blockNode v e = kvNone then some none
    else if blockNode v e ≠ 0xFFFF_FFFE ∧ blockTok v e = tok then some (some e)
    else probeBlock v tok es

/-- Lookup in a chain of at most `n` blocks: the block and entry of a token. -/
def kvFind (c : KvCtx) (p : KvPool) (tok : Nat) : Nat → Nat → Kv (Option (Nat × Nat × Nat))
  | 0, _ => return none
  | n + 1, b =>
    if b = kvNone then return none
    else do
      let v ← kvNode c p b
      match probeBlock v tok (probes tok) with
      | some none => return none
      | some (some e) =>
        kvSlot p (blockNode v e)
        return some (b, e, blockNode v e)
      | none => kvFind c p tok n (blockNode v 31)

/-- The child of a node that begins with a token. -/
def kvLookup (c : KvCtx) (p : KvPool) (node tok : Nat) : Kv (Option Nat) := do
  let v ← kvNode c p node
  let r ← kvFind c p tok p.nnodes (nodeChild v)
  return r.map fun x => x.2.2

/-- A new child-table block, all of it empty. -/
def kvNewBlock (c : KvCtx) (p : KvPool) : Kv Nat := do
  let b ← kvTake c p
  kvPut c .struct (nodeAt p b) ((List.range 32).flatMap fun _ => leBytes 8 (at_ kvNone 32))
  return b

/-- The first free entry on a token's probe sequence, in the first block that has one; else a new block is linked last. -/
def kvInsertIn (c : KvCtx) (p : KvPool) (tok child : Nat) : Nat → Nat → Kv Unit
  | 0, _ => kvFail (.status 5)
  | n + 1, b => do
    let v ← kvNode c p b
    match (probes tok).find? fun e => 0xFFFF_FFFE ≤ blockNode v e with
    | some e => kvWr c (nodeAt p b + 8 * e) 8 (tok + at_ child 32)
    | none =>
      if blockNode v 31 = kvNone then
        let q ← kvNewBlock c p
        kvWr c (nodeAt p b + 252) 4 q
        kvInsertIn c p tok child n q
      else kvInsertIn c p tok child n (blockNode v 31)

/-- A child enters a node's table. -/
def kvInsert (c : KvCtx) (p : KvPool) (node tok child : Nat) : Kv Unit := do
  let v ← kvNode c p node
  let b ← if nodeChild v = kvNone then
      (do
        let q ← kvNewBlock c p
        kvWr c (nodeAt p node + 140) 4 q
        return q)
    else pure (nodeChild v)
  kvInsertIn c p tok child (p.nnodes + 1) b
  kvWr c (nodeAt p node + 144) 4 (nodeChildren v + 1)

/-- The blocks of a child table. -/
def kvChain (c : KvCtx) (p : KvPool) : Nat → Nat → Kv (List Nat)
  | 0, _ => return []
  | n + 1, b =>
    if b = kvNone then return []
    else do
      let v ← kvNode c p b
      let r ← kvChain c p n (blockNode v 31)
      return b :: r

/-- A child leaves a node's table; an empty table's blocks are freed. -/
def kvRemove (c : KvCtx) (p : KvPool) (node tok : Nat) : Kv Unit := do
  let v ← kvNode c p node
  let r ← kvFind c p tok p.nnodes (nodeChild v)
  match r with
  | none => return ()
  | some (b, e, _) =>
    kvWr c (nodeAt p b + 8 * e + 4) 4 0xFFFF_FFFE
    kvWr c (nodeAt p node + 144) 4 (nodeChildren v - 1)
    if nodeChildren v ≤ 1 then
      let bs ← kvChain c p p.nnodes (nodeChild v)
      kvWr c (nodeAt p node + 140) 4 kvNone
      bs.forM fun b => kvGive c p b
    else return ()

/-- The LRU clock moves on. -/
def kvTick (c : KvCtx) (p : KvPool) : Kv Unit := do
  let t ← kvRd c (p.addr + 56) 8
  kvWr c (p.addr + 56) 8 (t + 1)

/-! ### The operations (R276 to R280) -/

/-- A token of the array. -/
def kvTok (c : KvCtx) (a i : Nat) : Kv Nat := do
  let b ← kvBytes c .any (a + 4 * i) 4
  return leNat b

/-- Length of the common run of a node's tokens and the array from `m`. -/
def kvCommon (c : KvCtx) (a n m v : Nat) : Nat → Nat → Kv Nat
  | 0, j => return j
  | f + 1, j =>
    if nodeCount v ≤ j ∨ n ≤ m + j then return j
    else do
      let t ← kvTok c a (m + j)
      if t = nodeTok v j then kvCommon c a n m v f (j + 1) else return j

/-- The loop of PFXLOOK: tokens matched and pages shared. -/
def kvLook (c : KvCtx) (p : KvPool) (s : Seq) (a n clock : Nat) : Nat → Nat → Nat → Nat → Kv (Nat × Nat)
  | 0, _, m, k => return (m, k)
  | f + 1, node, m, k =>
    if n ≤ m ∨ s.maxpages ≤ k then return (m, k)
    else do
      let t ← kvTok c a m
      let r ← kvLookup c p node t
      match r with
      | none => return (m, k)
      | some x =>
        let v ← kvNode c p x
        let j ← kvCommon c a n m v 32 0
        kvPutPage c s k (nodePage v)
        kvShare c p (nodePage v) false
        kvWr c (nodeAt p x + 152) 8 clock
        if j < 32 then return (m + j, k + 1) else kvLook c p s a n clock f x (m + j) (k + 1)

/-- PFXLOOK (R276). -/
def kvPfxlook (c : KvCtx) (sa a n : Nat) : Kv (List Nat) := do
  kvEmpty c sa
  let s ← kvSeq c sa
  let p ← kvPool c s.pool
  let clock ← kvRd c (p.addr + 56) 8
  let (m, k) ← kvLook c p s a n clock (n + 1) 0 0 0
  kvPutSeq c s m k
  kvTick c p
  return [m, k]

/-- Tokens `i` to `i + n - 1` of the array. -/
def kvToks (c : KvCtx) (a : Nat) : Nat → Nat → Kv (List Nat)
  | _, 0 => return []
  | i, n + 1 => do
    let t ← kvTok c a i
    let r ← kvToks c a (i + 1) n
    return t :: r

/-- A new node's slot. -/
def nodeBytes (toks : List Nat) (page parent : Nat) : List Byte :=
  ((List.range 32).flatMap fun k => leBytes 4 (toks.getD k 0)) ++ leBytes 4 toks.length ++ leBytes 4 page ++
    leBytes 4 parent ++ leBytes 4 kvNone ++ leBytes 112 0

/-- The loop of PFXINS: tokens covered and nodes made. -/
def kvIns (c : KvCtx) (p : KvPool) (s : Seq) (a l clock : Nat) : Nat → Nat → Nat → Nat → Nat → Kv (Nat × Nat)
  | 0, _, _, covered, made => return (covered, made)
  | f + 1, node, k, covered, made =>
    if l ≤ 32 * k then return (covered, made)
    else do
      let n := min 32 (l - 32 * k)
      let pg ← kvPage c s k
      let e ← kvLive c p pg
      let ts ← kvToks c a (32 * k) n
      let stamp (x : Nat) : Kv Unit := kvWr c (nodeAt p x + 152) 8 clock
      let r ← kvLookup c p node (ts.getD 0 0)
      let go (x : Nat) (made : Nat) : Kv (Nat × Nat) := do
        stamp x
        if n < 32 then return (32 * k + n, made) else kvIns c p s a l clock f x (k + 1) (32 * k + n) made
      match r with
      | none =>
        if e.testBit 24 then return (covered, made)
        else
          let x ← kvTake c p
          kvPut c .struct (nodeAt p x) (nodeBytes ts pg node)
          kvInsert c p node (ts.getD 0 0) x
          kvShare c p pg true
          go x (made + 1)
      | some x =>
        let v ← kvNode c p x
        let q := min n (nodeCount v)
        if (List.range q).any fun i => nodeTok v i != ts.getD i 0 then return (covered, made)
        else if nodeCount v < n then
          if nodePage v ≠ pg then
            let _ ← kvDrop c p (nodePage v) true
            kvShare c p pg true
            kvWr c (nodeAt p x + 132) 4 pg
          else kvWr c (nodeAt p x + 132) 4 pg
          kvPut c .struct (nodeAt p x) (ts.flatMap fun t => leBytes 4 t)
          kvWr c (nodeAt p x + 128) 4 n
          go x made
        else go x made

/-- PFXINS (R277). -/
def kvPfxins (c : KvCtx) (sa a n : Nat) : Kv (List Nat) := do
  let s ← kvSeq c sa
  let p ← kvPool c s.pool
  let clock ← kvRd c (p.addr + 56) 8
  let (x, y) ← kvIns c p s a (min n s.len) clock (n + 1) 0 0 0 0
  kvTick c p
  return [x, y]

/-- Pages `k` to `n - 1` of a sequence are dropped; how many had their last reference. -/
def kvDropFrom (c : KvCtx) (p : KvPool) (s : Seq) : Nat → Nat → Kv Nat
  | 0, _ => return 0
  | f + 1, k =>
    if s.npages ≤ k then return 0
    else do
      let pg ← kvPage c s k
      let z ← kvDrop c p pg false
      let r ← kvDropFrom c p s f (k + 1)
      return r + (if z then 1 else 0)

/-- PFXREL (R278). -/
def kvPfxrel (c : KvCtx) (sa : Nat) : Kv (List Nat) := do
  let s ← kvSeq c sa
  let p ← kvPool c s.pool
  let z ← kvDropFrom c p s s.npages 0
  kvPutSeq c s 0 0
  return [z]

/-- Pages below `n` of a source sequence are shared. -/
def kvFork (c : KvCtx) (p : KvPool) (s u : Seq) : Nat → Nat → Kv Unit
  | 0, _ => return ()
  | f + 1, k => do
    let pg ← kvPage c u k
    kvShare c p pg false
    kvPutPage c s k pg
    kvFork c p s u f (k + 1)

/-- KSEQ (R278). -/
def kvKseq (c : KvCtx) (sa ua n : Nat) : Kv (List Nat) := do
  let m := (n + 31) / 32
  if sa = ua then
    let s ← kvSeq c sa
    kvNeed (n ≤ s.len) 5
    let p ← kvPool c s.pool
    let z ← kvDropFrom c p s s.npages m
    kvPutSeq c s n m
    return [z]
  else
    kvEmpty c sa
    let s ← kvSeq c sa
    let u ← kvSeq c ua
    kvNeed (s.pool == u.pool && s.geom == u.geom) 10
    kvNeed (m ≤ s.maxpages) 3
    kvNeed (n ≤ u.len) 5
    let p ← kvPool c s.pool
    kvFork c p s u m 0
    kvPutSeq c s n m
    return [m]

/-- Every node below the ones given, with its parent's slot and contents. -/
def kvNodes (c : KvCtx) (p : KvPool) : Nat → List Nat → Kv (List (Nat × Nat))
  | 0, _ => return []
  | _, [] => return []
  | f + 1, x :: xs => do
    let v ← kvNode c p x
    let bs ← kvChain c p p.nnodes (nodeChild v)
    let kids ← bs.foldlM (fun (acc : List Nat) b => do
      let w ← kvNode c p b
      return acc ++ ((List.range 31).map fun e => blockNode w e).filter fun k => k < 0xFFFF_FFFE) []
    let r ← kvNodes c p f (xs ++ kids)
    return (x, v) :: r

/-- The candidate PFXEVICT takes: least STAMP, then lowest slot. -/
def kvCandidate (c : KvCtx) (p : KvPool) : Kv (Option (Nat × Nat)) := do
  let all ← kvNodes c p p.nnodes [0]
  all.foldlM (fun (best : Option (Nat × Nat)) (e : Nat × Nat) => do
    if e.1 = 0 ∨ nodeChildren e.2 ≠ 0 ∨ e.2.testBit 1184 then return best
    else
      let d ← kvPdt c p (nodePage e.2)
      if pdtRef d ≠ 1 ∨ !d.testBit 24 then return best
      else match best with
        | none => return some e
        | some b =>
          if nodeStamp e.2 < nodeStamp b.2 ∨ (nodeStamp e.2 = nodeStamp b.2 ∧ e.1 < b.1) then return some e
          else return best) none

/-- The loop of PFXEVICT while fewer than `n` pages have been freed: the pages dropped, which are also the nodes removed. A page
left draining is dropped and not yet freed (R267). -/
def kvEvictLoop (c : KvCtx) (p : KvPool) : Nat → Nat → Kv Nat
  | 0, _ => return 0
  | _, 0 => return 0
  | f + 1, n + 1 => do
    let r ← kvCandidate c p
    match r with
    | none => return 0
    | some (x, v) =>
      let d ← kvPdt c p (nodePage v)
      kvRemove c p (nodeParent v) (nodeTok v 0)
      kvGive c p x
      let _ ← kvDrop c p (nodePage v) true
      let k ← kvEvictLoop c p f (if pdtPins d = 0 then n else n + 1)
      return k + 1

/-- PFXEVICT (R279). -/
def kvPfxevict (c : KvCtx) (pa n : Nat) : Kv (List Nat) := do
  let p ← kvPool c pa
  let k ← kvEvictLoop c p p.nnodes n
  return [k, k]

/-- One rotated pair of bf16 elements at a position (R269). -/
def rotatePair (omega pos k0 k1 : Nat) : Nat × Nat :=
  let phase := pos * omega % 2 ^ 64
  let t := BitVec.ofNat 32 (roundNE (.fin false phase (-64)) .f32)
  let c := f32 (sfuResult .cost .rne false false t)
  let s := f32 (sfuResult .sint .rne false false t)
  let x := decodeF .bf16 k0
  let y := decodeF .bf16 k1
  (roundNE (sumExact .rne [x.mul c, (y.mul s).negate]) .bf16, roundNE (sumExact .rne [x.mul s, y.mul c]) .bf16)

/-- A K row with its leading dimensions rotated. -/
def rotateRow (omegas : List Nat) (pos : Nat) (row : List Byte) : List Byte :=
  ((List.range omegas.length).flatMap fun i =>
    let e (k : Nat) : Nat := leNat ((row.drop (4 * i + 2 * k)).take 2)
    let r := rotatePair (omegas.getD i 0) pos (e 0) (e 1)
    leBytes 2 r.1 ++ leBytes 2 r.2) ++ row.drop (4 * omegas.length)

/-- Bytes of a page. -/
def kvRow (c : KvCtx) (p : KvPool) (page off n : Nat) : Kv (List Byte) :=
  kvBytes c .page (p.pagebase + page * p.pagebytes + off) n

def kvPutRow (c : KvCtx) (p : KvPool) (page off : Nat) (data : List Byte) : Kv Unit :=
  kvPut c .page (p.pagebase + page * p.pagebytes + off) data

/-- The rows of slots below `s` are copied to a new page (R218). -/
def kvCopyRows (c : KvCtx) (p : KvPool) (g : Geom) (old new s : Nat) : Kv Unit :=
  (List.range (2 * g.heads)).forM fun h => (List.range s).forM fun r => do
    let off := (32 * h + r) * (2 * g.dhead)
    let b ← kvRow c p old off (2 * g.dhead)
    kvPutRow c p new off b

/-- KAPPEND (R280). -/
def kvKappend (c : KvCtx) (sa : Nat) (data : List Byte) : Kv (List Nat) := do
  let q ← kvSeq c sa
  let p ← kvPool c q.pool
  let g ← kvGeom c q.geom p
  let rb := 2 * g.dhead
  kvNeed (data.length == 4 * g.heads * g.dhead) 5
  let pos := q.len
  let k := pos / 32
  let s := pos % 32
  let (page, copied, alloc) ← if s = 0 then
      (do
        kvNeed (k != q.maxpages) 3
        let n ← kvAlloc c p
        kvPutPage c q k n
        return (n, 0, 1))
    else
      (do
        let old ← kvPage c q k
        let e ← kvLive c p old
        if 1 < pdtRef e then
          let n ← kvAlloc c p
          kvCopyRows c p g old n s
          kvPutPage c q k n
          let e ← kvPdt c p old
          kvPutPdt c p old (setBits e 23 0 (pdtRef e - 1))
          return (n, 1, 0)
        else return (old, 0, 0))
  let omegas ← (List.range (g.rdim / 2)).mapM fun i => do
    let b ← kvBytes c .any (g.omega + 8 * i) 8
    return leNat b
  (List.range (2 * g.heads)).forM fun h => do
    let row := (data.drop (h * rb)).take rb
    kvPutRow c p page ((32 * h + s) * rb) (if h < g.heads then rotateRow omegas pos row else row)
  kvPutSeq c q (pos + 1) ((pos + 32) / 32)
  return [pos, page, copied * 2 + alloc]

/-- One operation. -/
def kvRun (o : KvOp) : Kv (List Nat) :=
  let c : KvCtx := { ctx := o.ctx, core := o.core }
  match o.kind with
  | .look => kvPfxlook c o.addr o.arg o.n
  | .ins => kvPfxins c o.addr o.arg o.n
  | .rel => kvPfxrel c o.addr
  | .evict => kvPfxevict c o.addr o.n
  | .append => kvKappend c o.addr o.data
  | .seq => kvKseq c o.addr o.arg o.n

/-- Result registers beyond the status. -/
def KvKind.results : KvKind → Nat
  | .look => 2
  | .ins => 2
  | .rel => 1
  | .evict => 2
  | .append => 3
  | .seq => 1

/-- The result registers are written and the flag falls: an acquire for the issuer. -/
def State.kvEnd (s : State) (o : KvOp) (status : Nat) (rs : List Nat) : State :=
  let s := { s with kvq := s.kvq.filter fun x => x.op != o.op }
  match s.op o.op with
  | none => s
  | some x => match s.warp x.warp with
    | none => s.endOp o.op
    | some w =>
      let s := s.landWords x o.leader o.d (BitVec.ofNat 32 status ::
        (List.range o.kind.results).map fun k => BitVec.ofNat 32 (rs.getD k 0))
      (s.dropClean w.core).endOp o.op

/-- An uncorrectable error that a field's engine meets in a structure (R275). -/
def State.kvUe (s : State) (ctx field va wcb : Nat) : State :=
  let (q, s) := s.nextSeq (at_ 4 20 + field)
  s.errorRecord (some ctx) {
    kind := 0x21, src := 4, sseq := q.toNat, paddr := s.reportPa ctx va, vaddr := va, wcb := wcb }

/-- One attempt at an operation: all of it, its failure, or nothing while a fault is answered. -/
def State.kvTry (s : State) (o : KvOp) : State :=
  match (kvRun o).run s with
  | .ok (rs, s) => (s.kvEnd o 0 rs).clearFailed o.op
  | .error (.status n) => (s.kvEnd o n []).clearFailed o.op
  | .error (.ue _ va) => ((s.kvUe o.ctx o.field va o.wcb).kvEnd o 8 []).clearFailed o.op
  | .error (.fault f) => match s.engineFailed o.op 0 f with
    | some _ => (s.kvEnd o 7 []).clearFailed o.op
    | none => (s.engineFault o.ctx o.core 4 o.field o.wcb o.op 0 f).pend (.kvEngineStep o.field)

/-- An operation on a pool that a racing write has left undefined (R272): its results, the pool's counts, lists and tree, the
sequence table, and for KAPPEND the page it writes are open; no other pool is touched. -/
def State.kvUndefined (s : State) (o : KvOp) (p : KvPool) : State :=
  let ids := leNat ((s.physSegs o.ctx (o.addr + 24) 4).flatMap fun g => s.homeBytes g.1 g.2)
  let s := s.kvSpoil p
  let s := if o.kind = .evict then s else s.freeStore o.ctx ([o.addr, o.addr + 4] ++ wordsOf (o.addr + 32) (4 * ids))
  let s := if o.kind = .append ∧ p.npages ≠ 0 then
      let (w, s) := s.freeWord
      s.freeStore p.ctx (wordsOf (p.pagebase + w.toNat % p.npages * p.pagebytes) p.pagebytes)
    else s
  let (st, s) := s.freeWord
  let (a, s) := s.freeWord
  let (b, s) := s.freeWord
  let (c, s) := s.freeWord
  (s.kvEnd o st.toNat [a.toNat, b.toNat, c.toNat]).clearFailed o.op

/-- The pool an operation names, as far as its page is mapped. -/
def State.poolOf (s : State) (kind : KvKind) (ctx addr : Nat) : Option Nat :=
  if kind = .evict then some addr else (s.peekPa ctx (addr + 16)).map fun pa => s.physNat pa 8

/-- The physical ranges of the sequence tables an operation names (R272). -/
def State.kvTabs (s : State) (kind : KvKind) (ctx addr arg : Nat) : List (Nat × Nat) :=
  let tab (a : Nat) : List (Nat × Nat) :=
    s.physSegs ctx a (32 + 4 * min (((s.peekPa ctx (a + 24)).map fun pa => s.physNat pa 4).getD 0) (2 ^ 24))
  if kind = .evict then [] else tab addr ++ if kind = .seq then tab arg else []

/-- The field of a pool's engine (R264). Which field holds a home slice is given by the physical address in a way that R226
leaves open: here it is that of the stack the descriptor's first byte lies in (DESIGN CHOICE 102). -/
def State.poolField (s : State) (ctx pool : Nat) : Option Nat := (s.peekPa ctx pool).map fun pa => pa / 2 ^ 37

/-- An operation at its engine: carried to the pool's own engine, if it was sent before that could be told, or tried. -/
def State.kvServe (s : State) (o : KvOp) : State :=
  let pool := (s.poolOf o.kind o.ctx o.addr).getD o.pool
  let f := (s.poolField o.ctx pool).getD o.field
  if f ≠ o.field ∨ pool ≠ o.pool then
    ({ s with kvq := s.kvq.map fun (x : KvOp) => if x.op = o.op then { x with field := f, pool := pool } else x }.kvMeet o.ctx pool
      (s.kvTabs o.kind o.ctx o.addr o.arg)).pend (.kvEngineStep f)
  else match s.kvKnown o.ctx o.pool with
    | some p => if p.raced then s.kvUndefined o p else s.kvTry o
    | none => (s.kvMeet o.ctx o.pool (s.kvTabs o.kind o.ctx o.addr o.arg)).kvTry o

/-- The deterministic launch of a warp. -/
def State.detLaunch (s : State) (wk : Nat) : Option Nat := (s.teamOf wk).bind fun t => t.det.map fun _ => t.launch

/-- KV_ENGINE_STEP (R275): a field's engine performs one of its operations; those of one thread go in order of issue, and so do
those of a deterministic launch, which is the order of its gated operations (R349). -/
def execKvEngineStep (field : Nat) (s : State) : Res :=
  .next (
    let before (x o : KvOp) : Bool := (x.warp == o.warp && x.leader == o.leader) ||
      ((s.detLaunch x.warp).isSome && s.detLaunch x.warp == s.detLaunch o.warp)
    let first (o : KvOp) : Bool := match s.kvq.find? fun x => before x o with
      | some x => x.op == o.op
      | none => false
    let able := s.kvq.filter fun o => o.field == field && first o && !s.waits (.engine o.op 0)
    if able.isEmpty then (if s.kvq.any fun o => o.field == field then s.pend (.kvEngineStep field) else s)
    else
      let (k, s) := s.choose able.length
      match able[k]? with
      | none => s
      | some o => s.kvServe o)

/-! ### Issue (R273, R274) -/

/-- A KV word: its register checks, which mark the leader, and `k` with the first operand register. -/
def State.kvWord (s : State) (x z : Nat) (pairZ : Bool) (nz : Nat) (d n : Nat) (fsel : BitVec 1)
    (k : Issue → Warp → Team → Nat → State → State) : State :=
  match s.iss with
  | none => s
  | some i => match s.leader i with
    | none => s
    | some l =>
      let srcs := [x, x + 1] ++ regRange z nz
      let dsts := regRange d n
      if x % 2 ≠ 0 ∨ (pairZ ∧ z % 2 ≠ 0) ∨ (srcs ++ dsts).any (127 < ·) then s.illegal 3 [l]
      else match s.regError i srcs dsts with
        | some c => s.illegal c [l]
        | none =>
          if i.kind = .helper then s.illegal 0x24 [l]
          else if s.recruitHeld i [l] dsts ∨ s.engHeld i (s.flagOf i (some fsel)) [l] true then s.stall
          else match s.warp i.warp, s.teamOf i.warp with
            | some w, some t => k i w t l s
            | _, _ => s

/-- The operation is sent: a release by the leader at device scope. -/
def State.kvSend (s : State) (i : Issue) (w : Warp) (t : Team) (l : Nat) (fsel : BitVec 1) (kind : KvKind)
    (addr arg n d : Nat) (data : List Byte) : State :=
  let flag := s.flagOf i (some fsel)
  let s := (s.release i.warp l w.core 6).1
  let (id, s) := s.startOp { blankOp i.warp .engine with
    lanes := [l], flag := flag, vdests := (regRange d (kind.results + 1)).map fun r => (l, r) }
  let pool := (s.poolOf kind t.ctx addr).getD 0
  let f := (s.poolField t.ctx pool).getD 0
  let o : KvOp := {
    op := id, kind := kind, field := f, ctx := t.ctx, core := w.core, warp := i.warp, leader := l, wcb := t.twcb
    addr := addr, arg := arg, n := n, d := d, data := data, pool := pool }
  let s := s.kvMeet t.ctx pool (s.kvTabs kind t.ctx addr arg)
  { s with kvq := s.kvq ++ [o], pending := s.pending ++ [.kvEngineStep f] }

/-- Z with HI7[0] above it. -/
def Issue.zReg (i : Issue) (z : BitVec 6) : Nat := i.hi7.toNat % 2 * 64 + z.toNat

def State.zOf (s : State) (z : BitVec 6) : Nat := (s.iss.map fun i => i.zReg z).getD z.toNat

/-- The address checks of R274, in order: apertures, then alignments. -/
def State.kvAddrs (s : State) (l : Nat) (as : List (Nat × Nat)) (k : State → State) : State :=
  match as.find? fun a => apertureCode a.1 != 0 with
  | some a => s.raise 2 [l] a.1 (apertureCode a.1)
  | none => match as.find? fun a => a.1 % 2 ^ a.2 != 0 with
    | some a => s.badAlign l a.1 a.2
    | none => k s

/-- PFXLOOK and PFXINS. -/
def State.kvTokens (s : State) (f : FmtKv) (kind : KvKind) : State :=
  let z := s.zOf f.z
  s.kvWord f.x.toNat z true 3 f.d.toNat 3 f.fsel fun i w t l s =>
    let a := s.rdAddr i l f.x.toNat
    let b := s.rdAddr i l z
    let n := (s.rdV i l (z + 2)).toNat
    s.kvAddrs l [(a, 5), (b, 2)] fun s =>
      if n = 0 ∨ 2 ^ 24 < n then s.engineErr [l] 0x30 else s.kvSend i w t l f.fsel kind a b n f.d.toNat []

/-- PFXLOOK (R276). -/
def execPfxlook (f : FmtKv) (s : State) : Res := .next (s.kvTokens f .look)

/-- PFXINS (R277). -/
def execPfxins (f : FmtKv) (s : State) : Res := .next (s.kvTokens f .ins)

/-- PFXREL (R278). -/
def execPfxrel (x d : BitVec 7) (fsel : BitVec 1) (s : State) : Res :=
  .next (s.kvWord x.toNat 0 false 0 d.toNat 2 fsel fun i w t l s =>
    let a := s.rdAddr i l x.toNat
    s.kvAddrs l [(a, 5)] fun s => s.kvSend i w t l fsel .rel a 0 0 d.toNat [])

/-- PFXEVICT (R279). -/
def execPfxevict (f : FmtKv) (s : State) : Res :=
  .next (
    let z := s.zOf f.z
    s.kvWord f.x.toNat z false 1 f.d.toNat 3 f.fsel fun i w t l s =>
      let a := s.rdAddr i l f.x.toNat
      let n := (s.rdV i l z).toNat
      s.kvAddrs l [(a, 6)] fun s =>
        if n = 0 ∨ 2 ^ 24 < n then s.engineErr [l] 0x30 else s.kvSend i w t l f.fsel .evict a 0 n f.d.toNat [])

/-- KAPPEND (R274, R280): the bytes are captured at issue. -/
def execKappend (f : FmtKv) (s : State) : Res :=
  .next (
    let z := s.zOf f.z
    s.kvWord f.x.toNat z false 2 f.d.toNat 4 f.fsel fun i w t l s =>
      let a := s.rdAddr i l f.x.toNat
      let o := (s.rdV i l z).toNat
      let b := (s.rdV i l (z + 1)).toNat
      s.kvAddrs l [(a, 5)] fun s =>
        if b % 4 ≠ 0 ∨ b = 0 ∨ 65536 < b then s.engineErr [l] 0x30
        else match spadFail t.vals.spbytes [(o, b)] with
          | some e => s.raise e.1 [l] e.2.1 e.2.2
          | none =>
            let s := s.postThread i.warp l none
            s.kvSend i w t l f.fsel .append a 0 0 f.d.toNat (s.spadBytes w.core (t.spbase + o) b))

/-- KSEQ (R278). -/
def execKseq (f : FmtKv) (s : State) : Res :=
  .next (
    let z := s.zOf f.z
    s.kvWord f.x.toNat z true 3 f.d.toNat 2 f.fsel fun i w t l s =>
      let a := s.rdAddr i l f.x.toNat
      let u := s.rdAddr i l z
      s.kvAddrs l [(a, 5), (u, 5)] fun s => s.kvSend i w t l f.fsel .seq a u (s.rdV i l (z + 2)).toNat f.d.toNat [])

/-! ### Pins (R267) -/

/-- The physical address of the page descriptor entry a slot of a TGATHER pins, its fault, or the wait for it. -/
def State.pinEntry (s : State) (c : Copy) (slot : Nat) : EngXlate × State :=
  s.engineXlate (.core c.core) c.ctx (c.tlr.pdt + 16 * ((c.idxs[slot]?).join.getD 0)) c.leader .store

/-- PDT_PIN (R267): one atomic at the entry's home point; a full count makes it wait. -/
def execPdtPin (cmd slot : Nat) (s : State) : Res :=
  .next (match s.copy cmd with
    | none => s
    | some c =>
      let part := 2 ^ 20 + slot
      if !c.units.contains slot then s
      else if s.waits (.engine cmd part) then s.pend (.pdtPin cmd slot)
      else match s.pinEntry c slot with
        | (.at (.mem _ pa), s) =>
          let pin := s.physNat (pa + 6) 2
          if pin = 65535 then s.pend (.pdtPin cmd slot)
          else (s.physWrite (pa + 6) 2 (pin + 1)).modCopy cmd fun c => { c with pinned := c.pinned ++ [slot] }
        | (.at _, s) => s.copyFail c slot 1 (c.tlr.pdt + 16 * ((c.idxs[slot]?).join.getD 0)) 0
        | (.wait, s) => s.pend (.pdtPin cmd slot)
        | (.fault f, s) => match s.engineFailed cmd part f with
          | some r => s.copyFail c slot 1 f.addr r
          | none => (s.engineFault c.ctx c.core 2 c.core c.wcb cmd part f).pend (.pdtPin cmd slot))

/-- PDT_UNPIN (R267): the last unpin of a draining page hands it to the pool's engine. -/
def execPdtUnpin (cmd slot : Nat) (s : State) : Res :=
  .next (match s.copy cmd with
    | none => s
    | some c =>
      let part := 2 ^ 21 + slot
      if !c.pinned.contains slot then s
      else if s.waits (.engine cmd part) then s.pend (.pdtUnpin cmd slot)
      else
        let idx := (c.idxs[slot]?).join.getD 0
        let off (s : State) : State := s.modCopy cmd fun c => { c with pinned := c.pinned.filter (· != slot) }
        match s.pinEntry c slot with
        | (.at (.mem _ pa), s) =>
          let pin := s.physNat (pa + 6) 2
          let s := off (s.physWrite (pa + 6) 2 (pin - 1))
          let drained := pin = 1 ∧ pdtState (s.physNat pa 16) = 2
          match s.kvPools.find? fun p => p.ctx == c.ctx && p.pdt == c.tlr.pdt with
          | some p => if drained then s.pend (.pageFreePush c.ctx p.addr idx) else s
          | none => s
        | (.at _, s) => off s
        | (.wait, s) => s.pend (.pdtUnpin cmd slot)
        | (.fault f, s) => match s.engineFailed cmd part f with
          | some _ => off s
          | none => (s.engineFault c.ctx c.core 2 c.core c.wcb cmd part f).pend (.pdtUnpin cmd slot))

/-- The engine's step that frees a drained page. -/
def kvFreePage (c : KvCtx) (pool page : Nat) : Kv Unit := do
  let p ← kvPool c pool
  let e ← kvPdt c p page
  if pdtState e = 2 ∧ pdtPins e = 0 then kvPush c p page e else return ()

/-- The number under which the engine's step for a page of a pool waits for a batch. -/
def freeKey (ctx pool : Nat) : Nat := 2 ^ 80 + ctx * 2 ^ 64 + pool

/-- PAGE_FREE_PUSH (R267): a draining page without pins goes onto the free list; a faulting page enters a batch, and the engine
tries again after it (R381). A page that the driver marks unresolvable, or an uncorrectable error, leaves it draining
(DESIGN CHOICE 90). -/
def execPageFreePush (ctx pool page : Nat) (s : State) : Res :=
  .next (
    let key := freeKey ctx pool
    let field := (s.poolField ctx pool).getD 0
    if ((s.kvKnown ctx pool).map (·.raced)).getD false then s
    else if s.waits (.engine key page) then s.pend (.pageFreePush ctx pool page)
    else match (kvFreePage { ctx := ctx, core := 0 } pool page).run s with
      | .ok (_, s) => s
      | .error (.status _) => s
      | .error (.ue _ va) => s.kvUe ctx field va 0
      | .error (.fault f) => match s.engineFailed key page f with
        | some _ => s.clearFailed key
        | none => (s.engineFault ctx 0 4 field 0 key page f).pend (.pageFreePush ctx pool page))

end Sys2Proof.Machine
end

