-- ==== Sys2Proof/Machine/Nmem.lean ====
section
/-! DEFINITION. Near-memory commands (R314 to R334): the NMEM instructions, the row-steps of the Leats, the checks of the
stack sequencer and completion. -/

namespace Sys2Proof.Machine

/-! ### Descriptors (R316, R317, R332) -/

/-- The reason and byte offset of a command descriptor's first offending field. -/
def nmBad (v ctsize dcwin : Nat) : Option (Nat × Nat) :=
  let op := bits v 359 352
  let mat := op = 0 ∨ op = 1
  let tol := bits v 368 364
  let addr (a m : Nat) : Option Nat := if gapTop < a ∨ a % m ≠ 0 then some 0x43 else none
  let zero (x : Nat) : Option Nat := if x = 0 then none else some 0x40
  let kb := bits v 391 384
  let n := bits v 287 256
  let base := addr (bits v 63 0) (if mat then 65536 else 1024)
  let a0 := bits v 127 64
  let aux0 := match op with
    | 0 => addr a0 16
    | 2 => addr a0 16
    | 4 => addr a0 1024
    | _ => zero a0
  let aux1 := if op = 0 then addr (bits v 191 128) 16 else zero (bits v 191 128)
  let a2 := bits v 255 192
  let aux2 := if (op = 0 ∧ tol ≠ 0) ∨ op = 1 then addr a2 1024 else zero a2
  let rows := if n = 0 ∨ 2 ^ 20 < n ∨ (mat ∧ n % 64 ≠ 0) then some 0x44 else none
  let k0 := if op = 2 ∨ op = 3 then none else zero (bits v 319 288)
  let k1 := if op = 2 then none else zero (bits v 351 320)
  let opOk := if 4 < op then some 0x41 else none
  let top := match op with
    | 0 => 2
    | 1 => 2
    | 2 => 1
    | _ => 0
  let type := if top < bits v 363 360 then some 0x42 else none
  let tolOk := if op = 0 then none else zero tol
  let tk := bits v 370 369
  let tkind := if tk = 0 ∨ (tk = 1 ∧ ctsize ≤ dcwin + bits v 376 371) then some 0x45 else none
  let kbOk := if mat then (if kb = 0 ∨ 64 < kb then some 0x44 else none) else zero kb
  let checks : List (Nat × Option Nat) := [
    (0, base), (8, aux0), (16, aux1), (24, aux2), (32, rows), (36, k0), (40, k1), (44, opOk), (45, type), (45, tolOk),
    (46, tkind), (47, zero (bits v 383 377)), (48, kbOk), (49, zero (bits v 511 392))]
  checks.findSome? fun c => c.2.map fun r => (r, c.1)

def nmKind (op : Nat) : NmKind :=
  match op with
  | 0 => .gemv
  | 1 => .csum
  | 2 => .update
  | 3 => .fill
  | _ => .copy

/-- Elements of a row. -/
def NmCmd.e (c : NmCmd) : Nat := 256 * 2 ^ c.type

/-- Checksum rows that cover one segment. -/
def NmCmd.cb (c : NmCmd) : Nat := c.e / 256

def NmCmd.isMatrix (c : NmCmd) : Bool := c.kind == .gemv || c.kind == .csum

/-- The address of a row-step. -/
def NmCmd.stepVa (c : NmCmd) (row seg : Nat) : Nat :=
  if c.isMatrix then
    if row < c.nrows then c.base + 65536 * (row / 64 * c.kb + seg) + 1024 * (row % 64)
    else c.aux2 + 1024 * ((row - c.nrows) * c.kb * c.cb + seg)
  else if c.kind = .copy ∧ seg = 0 then c.aux0 + 1024 * row
  else c.base + 1024 * row

/-- Row-steps of a row. -/
def NmCmd.segs (c : NmCmd) (row : Nat) : Nat :=
  if c.isMatrix then (if row < c.nrows then c.kb else c.kb * c.cb) else if c.kind = .copy then 2 else 1

def NmCmd.seg (c : NmCmd) (row : Nat) : Nat := ((tget c.prog row).map (·.1)).getD 0

/-- The event of a row-step. -/
def NmCmd.event (c : NmCmd) (row : Nat) : Instr :=
  match c.kind with
  | .gemv => .nmGemv c.id row (c.seg row)
  | .csum => .nmCsum c.id row (c.seg row)
  | .update => .nmUpdate c.id row
  | .fill => .nmFill c.id row
  | .copy => .nmCopy c.id row (c.seg row == 1)

/-- The stack and channel of a mapped row. -/
def State.rowLeat (s : State) (c : NmCmd) (row : Nat) : Option Nat :=
  let va := c.stepVa row (if c.kind = .copy then 1 else c.seg row)
  (s.peekPa c.ctx va).map fun pa => pa / 2 ^ 36 * 32 + va / 1024 % 32

/-- The Leat that reaches a row no leaf maps (R315 names none; DESIGN CHOICE 101): the one that owns the nearest earlier row of
its channel, else the nearest later one, else that of stack 0. -/
def State.strayLeat (s : State) (c : NmCmd) (row : Nat) : Nat :=
  let ch (r : Nat) : Nat := c.stepVa r (if c.kind = .copy then 1 else c.seg r) / 1024 % 32
  let near (l : List Nat) : Option Nat := l.findSome? fun r => if ch r = ch row then s.rowLeat c r else none
  ((near (List.range row).reverse).or (near ((List.range (c.nrows - row)).map (row + ·)))).getD (ch row)

/-- The Leat of a row. A row parked, or not mapped since, stays with the part that reached it until the replay is applied
(R315). -/
def State.nmLeat (s : State) (c : NmCmd) (row : Nat) : Nat :=
  match tget c.parts row, s.rowLeat c row with
  | some p, some l => if s.waits (.engine c.id p) then p else l
  | some p, none => p
  | none, some l => l
  | none, none => s.strayLeat c row

/-- The bank a row-step is at. -/
def State.nmBank (s : State) (c : NmCmd) (row seg : Nat) : Option Nat :=
  (s.peekPa c.ctx (c.stepVa row seg)).map fun pa => rowBank (pa / 1024)

/-- Has a command a step left at a bank, or one not mapped yet that may come to lie there (R329)? -/
def State.nmLeft (s : State) (c : NmCmd) (bank : Nat) : Bool :=
  c.todo.any fun r => (List.range (c.segs r)).any fun q => decide (c.seg r ≤ q) && match s.nmBank c r q with
    | some b => b == bank
    | none => c.stepVa r q / 1024 % 64 == bank % 64

/-- Does a refresh restore of a bank wait for the end of a slice (R330)? -/
def State.restoreWaits (s : State) (bank : Nat) : Bool :=
  s.pending.any fun i => match i with
    | .restore b _ => b == bank
    | _ => false

/-- May a row take its next step: every row of its tile is done before its checksum rows, no earlier row of its Leat's part,
or of a copy (R323), is left, its part is not parked, no earlier command of the warp has a step left at its bank (R329), and
no postponed refresh restore awaits the bank before a new slice (R217, R330)? -/
def State.nmReady (s : State) (c : NmCmd) (row : Nat) : Bool :=
  let leat := s.nmLeat c row
  let tile := row - c.nrows
  (row < c.nrows || !(c.todo.any fun r => r < c.nrows && r / 64 == tile)) &&
  !(c.todo.any fun r => r < row && (row < c.nrows || c.nrows ≤ r) && (c.kind == .copy || s.nmLeat c r == leat)) &&
  !(s.waits (.engine c.id leat)) &&
  match s.nmBank c row (c.seg row) with
  | none => true
  | some b => !(s.nms.any fun d => d.id < c.id && d.warp == c.warp && s.nmLeft d b) &&
    ((tget c.slices b).isSome || !s.restoreWaits b)

/-- Stands a bank inside a slice: has a command taken row-steps of the slice there, has it more to take there, and can the
part they belong to go on (R217)? A part that cannot has ended its slice. -/
def State.midSlice (s : State) (bank : Nat) : Bool :=
  s.nms.any fun c => (tget c.slices bank).isSome && c.todo.any fun r =>
    s.nmBank c r (c.seg r) == some bank &&
    c.todo.any fun q => s.nmReady c q && (c.kind == .copy || s.nmLeat c q == s.nmLeat c r)

/-- A refresh restore ends the slices of its bank's channel: what a command does there next is of its next slice (R217). -/
def State.endSlices (s : State) (bank : Nat) : State :=
  let later (c : NmCmd) : NmCmd := { c with slices := c.slices.filter fun e => bankChannel e.1 != bankChannel bank }
  { s with nms := s.nms.map later }

/-- RESTORE (R216, R217, R238, R330): the refresh restore of a bank of a presented field. Inside a slice it is postponed to the
slice's end; those postponed in one channel are taken in increasing bank number. -/
def execRestore (bank cls : Nat) (s : State) : Res :=
  .next (
    if 8192 ≤ bank ∨ 4 ≤ cls ∨ !s.present (bankRow bank 0 * 1024) then s
    else if s.midSlice bank ∨ (s.pending.any fun i => match i with
        | .restore b _ => b < bank && bankChannel b == bankChannel bank
        | _ => false) then
      if s.pending.contains (.restore bank cls) then s else s.pend (.restore bank cls)
    else (s.endSlices bank).refresh bank cls)

/-- The next step of a command becomes pending, or its completion. -/
def State.nmNext (s : State) (id : Nat) : State :=
  match s.nms.find? fun c => c.id == id with
  | none => s
  | some c =>
    if c.todo.isEmpty then s.pend (.nmCommandComplete id)
    else
      let ready := c.todo.filter fun r => s.nmReady c r
      let l := if ready.isEmpty then c.todo else ready
      let (k, s) := s.choose l.length
      match l[k]? with
      | none => s
      | some r => s.pend (c.event r)

def State.modNm (s : State) (id : Nat) (f : NmCmd → NmCmd) : State :=
  { s with nms := s.nms.map fun (c : NmCmd) => if c.id = id then f c else c }

/-! ### Failures and vectors (R314, R325, R326) -/

/-- A part stops at a failing row: the rows its Leat has left do not run, and their tiles are unchecked. -/
def State.nmStop (s : State) (c : NmCmd) (row status va : Nat) (detail : Word) : State :=
  let leat := s.nmLeat c row
  let gone := c.todo.filter fun r => r == row || s.nmLeat c r == leat
  let tiles := gone.map fun r => c.nrows + r / 64
  s.modNm c.id fun c => { c with
    fails := c.fails ++ [(status, va, detail)]
    bad := c.bad ++ gone.filter fun r => r < c.nrows
    todo := c.todo.filter fun r => !gone.contains r && !(c.isMatrix && tiles.contains r) }

/-- A part parks at the row it has reached (R315). -/
def State.nmPark (s : State) (c : NmCmd) (row : Nat) (f : PageFault) : State :=
  let leat := s.nmLeat c row
  (s.engineFault c.ctx c.core 3 (leat % 256) c.wcb c.id leat f).modNm c.id fun c => { c with parts := tset c.parts row leat }

/-- A row meets an uncorrectable error: it is recorded and the command goes on. -/
def State.nmPoison (s : State) (c : NmCmd) (row va : Nat) : State :=
  s.modNm c.id fun c => { c with fails := c.fails ++ [(3, va, 0)], bad := c.bad ++ [row] }

inductive VecRes where
  | ok (bs : List Byte) (ue : Bool)
  | fault (f : PageFault)
  | wrong
  | wait
  deriving DecidableEq, Repr

/-- Pieces of at most 256 bytes, cut where a page ends. -/
def vecCut (va n : Nat) : List (Nat × Nat) :=
  let rec go (f va n : Nat) : List (Nat × Nat) :=
    match f with
    | 0 => []
    | f + 1 =>
      if n = 0 then []
      else
        let k := min n (min 256 (65536 - va % 65536))
        (va, k) :: go f (va + k) (n - k)
  go (n / 256 + 3) va n

/-- Pieces of a vector at home points; from another device they come by answers. -/
def State.vecPieces (s : State) (c : NmCmd) (leat : Nat) : List (Nat × Nat) → VecRes × State
  | [] => (.ok [] false, s)
  | (va, n) :: r =>
    if gapTop < va then (.wrong, s)
    else match s.engineXlate (.leat (leat % 256)) c.ctx va 0 .load with
      | (.fault f, s) => (.fault f, s)
      | (.wait, s) => (.wait, s)
      | (.at (.mem .sw _), s) => (.wrong, s)
      | (.at (.mem .kvp _), s) => (.wrong, s)
      | (.at _, s) =>
        let (x, s) : Option (List Byte × Bool) × State := match s.engineXlate (.leat (leat % 256)) c.ctx va 0 .load with
          | (.at (.peer _ _), s) =>
            let (b, s) := s.chunk c.core c.ctx va n (2 ^ 101 + c.id * 2 ^ 64 + va)
            (b.map fun b => if b.isEmpty then (List.replicate n 0, true) else (b, false), s)
          | (.at loc, s) => s.homeRead loc n c.ctx va
          | (_, s) => (none, s)
        match x with
        | none => (.wait, s)
        | some (b, u) => match s.vecPieces c leat r with
          | (.ok bs v, s) => (.ok (b ++ bs) (u || v), s)
          | (e, s) => (e, s)

def State.vecRead (s : State) (c : NmCmd) (leat va n : Nat) : VecRes × State :=
  match s.vecPieces c leat (vecCut va n) with
  | (.ok bs u, s) => (.ok bs u, { s with descs := s.descs.filter fun e => e.1 / 2 ^ 64 != 2 ^ 37 + c.id })
  | r => r

/-- f32 elements of bytes. -/
def f32s (bs : List Byte) : List Num := (leWords bs).map f32

/-- Row elements of a command's type. -/
def rowNums (type : Nat) : List Byte → List Num
  | a :: b :: c :: d :: t =>
    (match type with
      | 0 => [decodeF .f32 (leNat [a, b, c, d])]
      | 1 => [decodeF .bf16 (leNat [a, b]), decodeF .bf16 (leNat [c, d])]
      | _ => [a, b, c, d].map fun x => decodeF .e4m3 x.toNat) ++ rowNums type t
  | _ => []

/-! ### Row-steps (R216, R217, R326) -/

/-- A row-step that reads a row: its bytes, or none at an uncorrectable error. A row that is not live reads as zeros. -/
def State.stepRead (s : State) (row : Nat) (who : Nat × Nat) : Option (List Byte) × State :=
  let s := s.serveRow row
  if !s.liveRow row then (some (List.replicate 1024 0), s)
  else
    let bad := !(s.rowUe row).isEmpty
    let bs := s.rowBytes row
    let s := s.restoreRow row false (some who)
    (if bad then none else some bs, s)

/-- A row-step that reads a row, computes and writes it; false at an uncorrectable error. -/
def State.stepUpdate (s : State) (row : Nat) (who : Nat × Nat) (f : List Byte → List Byte) : Bool × State :=
  let s := s.serveRow row
  if !s.liveRow row then (true, s.millRecord 1 row (some who))
  else if !(s.rowUe row).isEmpty then (false, s.restoreRow row false (some who))
  else (true, (s.setRow row (f (s.rowBytes row))).restoreRow row false (some who))

/-- A row-step that overwrites a row whole. -/
def State.stepWrite (s : State) (row : Nat) (who : Nat × Nat) (bs : List Byte) : State :=
  let s := s.serveRow row
  if !s.liveRow row then s.millRecord 1 row (some who)
  else ((s.cleanRow row).setRow row bs).restoreRow row false (some who)

/-- The physical row of a step: `k` runs with it; a fault parks the part, and what is not SW memory stops it. -/
def State.nmRow (s : State) (c : NmCmd) (row va : Nat) (a : Access) (k : Nat → State → State) : State :=
  let leat := s.nmLeat c row
  if gapTop < va then s.nmStop c row 2 va 0
  else match s.engineXlate (.leat (leat % 256)) c.ctx va 0 a with
    | (.at (.mem .sw pa), s) => k (pa / 1024) s
    | (.at _, s) => s.nmStop c row 2 va 0
    | (.wait, s) => s
    | (.fault f, s) => match s.engineFailed c.id leat f with
      | some r => s.nmStop c row 1 va r
      | none => s.nmPark c row f

/-- Elements of the command's vector for a step at `va`, `n` groups of 256 from group `g`: a part reads each once, and keeps
it (R329). -/
def State.nmVec (s : State) (c : NmCmd) (row va g n : Nat) (k : List Byte → Bool → State → State) : State :=
  let leat := s.nmLeat c row
  let key (i : Nat) : Nat := leat * 2 ^ 32 + g + i
  let (r, s) := (List.range n).foldl (fun (p : VecRes × State) i =>
    match p.1 with
    | .ok bs u => (match tget c.vecs (key i) with
      | some (b, v) => (.ok (bs ++ b) (u || v), p.2)
      | none => match p.2.vecRead c leat (c.aux0 + 1024 * (g + i)) 1024 with
        | (.ok b v, s) => (.ok (bs ++ b) (u || v), s.modNm c.id fun c => { c with vecs := tset c.vecs (key i) (b, v) })
        | r => r)
    | _ => p) (VecRes.ok [] false, s)
  match r, s with
  | .ok bs u, s => k bs u s
  | .wrong, s => s.nmStop c row 2 va 0
  | .wait, s => s
  | .fault f, s => match s.engineFailed c.id leat f with
    | some r => s.nmStop c row 1 va r
    | none => s.nmPark c row f

/-- A row-step is taken at a bank: its slice ends with the sixteenth (R217). -/
def NmCmd.sliceStep (c : NmCmd) (bank : Option Nat) : NmCmd :=
  match bank with
  | none => c
  | some b =>
    let n := (tget c.slices b).getD 0 + 1
    { c with slices := if n = 16 then terase c.slices b else tset c.slices b n }

/-- A row moves to its next step, or is done; a row that failed is not counted, but for a result of NM.GEMV (R326, R334). -/
def State.nmAdvance (s : State) (c : NmCmd) (row : Nat) (v : Word) (last : Bool) : State :=
  let bank := s.nmBank c row (c.seg row)
  s.modNm c.id fun c =>
    let c := c.sliceStep bank
    if last then { c with
      todo := c.todo.filter (· != row), prog := terase c.prog row
      done := if row < c.nrows && (c.kind == .gemv || !c.bad.contains row) then c.done + 1 else c.done }
    else { c with prog := tset c.prog row (c.seg row + 1, v) }

/-- Where y_i goes: `k` runs with its location. -/
def State.nmOut (s : State) (c : NmCmd) (row va out : Nat) (k : Loc → State → State) : State :=
  let leat := s.nmLeat c row
  if gapTop < out then s.nmStop c row 2 va 0
  else match s.engineXlate (.leat (leat % 256)) c.ctx out 0 .store with
    | (.at (.mem .sw _), s) => s.nmStop c row 2 va 0
    | (.at (.mem .kvp _), s) => s.nmStop c row 2 va 0
    | (.at loc, s) => k loc s
    | (.wait, s) => s
    | (.fault f, s) => match s.engineFailed c.id leat f with
      | some r => s.nmStop c row 1 va r
      | none => s.nmPark c row f

/-- One 4-byte write at device scope. -/
def State.nmPut (s : State) (c : NmCmd) (loc : Loc) (va : Nat) (v : Word) : State :=
  match loc with
  | .mem _ pa => (s.kvRace pa 4).finalWrite pa (leBytes 4 v.toNat)
  | .host x ha => s.hostStore x ha (leBytes 4 v.toNat)
  | .peer d pa =>
    (s.skSend { blankMsg with paddr := pa, dst := d, size := 4, op := 1, data := leBytes 4 v.toNat } c.ctx va
      (.copy c.id 0)).1
  | _ => s

/-! ### NM.GEMV and NM.CSUM (R319 to R321) -/

def nmNaN : Word := 0x7FC0_0000

/-- The products of a row segment with x, and the sum so far. -/
def gemvStep (type : Nat) (y : Word) (w x : List Byte) : Word :=
  accumulateF y (List.zipWith Num.mul (rowNums type w) (f32s x)) 0 false

def f32Finite (w : Word) : Bool := match f32 w with
  | .fin _ _ _ => true
  | _ => false

/-- The comparison of R321 on the 64 results of a tile and z: does it mismatch? -/
def gemvMismatch (tol : Nat) (ys : List Word) (z : Word) : Bool :=
  let v (w : Word) : Int := (f32 w).scaled (-149)
  let sum := (ys.map v).foldl (· + ·) 0
  let mag := (ys.map fun w => ((v w).natAbs : Nat)).foldl (· + ·) 0 + (v z).natAbs
  mag < (sum - v z).natAbs * 2 ^ tol

/-- A tile's check is done: a mismatch is noted. -/
def State.gemvCheck (s : State) (c : NmCmd) (tile : Nat) (z : Word) : State :=
  let rows := regRange (64 * tile) 64
  let ys := rows.map fun r => (tget c.ys r).getD nmNaN
  let checked := !(c.bad.any fun r => r / 64 == tile || r == c.nrows + tile) && f32Finite z && ys.all f32Finite
  if checked && gemvMismatch c.tol ys z then
    s.modNm c.id fun c => { c with
      mismatch := c.mismatch ++ [tile], fails := c.fails ++ [(4, c.stepVa (64 * tile) 0, 0)] }
  else s

/-- The step of a matrix row, or of a tile's checksum row. -/
def State.gemvRow (s : State) (c : NmCmd) (row seg : Nat) : State :=
  let va := c.stepVa row seg
  let y := ((tget c.prog row).map (·.2)).getD 0
  if row < c.nrows then
    let last := seg + 1 = c.kb
    s.nmOut c row va (c.aux1 + 4 * row) fun loc s =>
      s.nmVec c row va (seg * c.cb) c.cb fun x u s =>
        s.nmRow c row va .load fun r s =>
          let (w, s) := s.stepRead r (c.ctx, va)
          let put (s : State) (v : Word) : State :=
            ((s.nmPut c loc (c.aux1 + 4 * row) v).modNm c.id fun c => { c with ys := tset c.ys row v }).nmAdvance c row v true
          match w with
          | none => put (s.nmPoison c row va) nmNaN
          | some w =>
            if u then put (s.nmPoison c row va) nmNaN
            else
              let v := gemvStep c.type y w x
              if last then put s v else s.nmAdvance c row v false
  else
    s.nmVec c row va (seg % (c.kb * c.cb)) 1 fun x u s =>
      s.nmRow c row va .load fun r s =>
        let (w, s) := s.stepRead r (c.ctx, va)
        let z := match w with
          | some w => gemvStep 0 y w x
          | none => nmNaN
        let s := if w.isNone || u then s.nmPoison c row va else s
        if seg + 1 = c.segs row then
          match s.nms.find? fun d => d.id == c.id with
          | some c => (s.gemvCheck c (row - c.nrows) z).nmAdvance c row z true
          | none => s
        else s.nmAdvance c row z false

/-- NM_GEMV (R319, R321): one row-step of a matrix row's segment, or of a checksum row. -/
def execNmGemv (cmd row seg : Nat) (s : State) : Res :=
  .next (match s.nms.find? fun c => c.id == cmd with
    | none => s
    | some c =>
      let s := if c.todo.contains row && c.seg row == seg && c.kind == .gemv && s.nmReady c row then
          (s.modNm cmd fun c => { c with started := true }).gemvRow c row seg
        else s
      s.nmNext cmd)

/-- A checksum row: the exact column sums of 64 matrix rows, rounded once. -/
def csumRow (type : Nat) (rows : List (List Byte)) (m : Nat) : List Byte :=
  let parts := rows.map fun w => ((rowNums type w).drop (256 * m)).take 256
  (List.range 256).flatMap fun k => leBytes 4 (roundNE (sumExact .rne (parts.map fun p => (p[k]?).getD .nan)) .f32)

/-- The step of a matrix row, which is read, or of a checksum row, which is written. -/
def State.csumStep (s : State) (c : NmCmd) (row seg : Nat) : State :=
  let va := c.stepVa row seg
  if row < c.nrows then
    s.nmRow c row va .load fun r s =>
      let (w, s) := s.stepRead r (c.ctx, va)
      match w with
      | none => (s.nmPoison c row va).nmAdvance c row 0 true
      | some w =>
        (s.modNm c.id fun c => { c with bytes := tset c.bytes (row * 64 + seg) w }).nmAdvance c row 0 (seg + 1 = c.kb)
  else
    let tile := row - c.nrows
    if c.bad.any fun r => r / 64 == tile then s.nmAdvance c row 0 true
    else
      s.nmRow c row va .store fun r s =>
        let j := seg / c.cb
        let rows := (regRange (64 * tile) 64).map fun i => (tget c.bytes (i * 64 + j)).getD []
        let (ok, s) := s.stepUpdate r (c.ctx, va) fun _ => csumRow c.type rows (seg % c.cb)
        let s := if ok then s else s.modNm c.id fun c => { c with fails := c.fails ++ [(3, va, 0)] }
        let last := seg + 1 = c.segs row
        let s := if last then s.modNm c.id fun c => { c with bytes := tclear c.bytes (tile * 4096) ((tile + 1) * 4096) } else s
        s.nmAdvance c row 0 last

/-- NM_CSUM (R320). -/
def execNmCsum (cmd row seg : Nat) (s : State) : Res :=
  .next (match s.nms.find? fun c => c.id == cmd with
    | none => s
    | some c =>
      let s := if c.todo.contains row && c.seg row == seg && c.kind == .csum && s.nmReady c row then
          (s.modNm cmd fun c => { c with started := true }).csumStep c row seg
        else s
      s.nmNext cmd)

/-! ### NM.UPDATE, NM.FILL and NM.COPY (R322, R323) -/

/-- The new bytes of a row under NM.UPDATE. -/
def updateRow (type : Nat) (a b : Word) (g : List Byte) (w : List Byte) : List Byte :=
  let t : FType := if type = 0 then .f32 else .bf16
  let n := if type = 0 then 4 else 2
  (List.zipWith (fun x y => leBytes n (roundNE (sumExact .rne [x.mul (f32 a), ((f32 b).mul y).negate]) t))
    (rowNums type w) (f32s g)).flatten

/-- NM_UPDATE (R322): a row is read, computed and written in one row-step. -/
def execNmUpdate (cmd row : Nat) (s : State) : Res :=
  .next (match s.nms.find? fun c => c.id == cmd with
    | none => s
    | some c =>
      let va := c.stepVa row 0
      let s := if c.todo.contains row && c.kind == .update && s.nmReady c row then
          (s.modNm cmd fun c => { c with started := true }).nmVec c row va (row * c.cb) c.cb fun g u s =>
            s.nmRow c row va .store fun r s =>
              if u then (s.nmPoison c row va).nmAdvance c row 0 true
              else
                let (ok, s) := s.stepUpdate r (c.ctx, va) fun w => updateRow c.type c.k0 c.k1 g w
                (if ok then s else s.nmPoison c row va).nmAdvance c row 0 true
        else s
      s.nmNext cmd)

/-- NM_FILL (R323). -/
def execNmFill (cmd row : Nat) (s : State) : Res :=
  .next (match s.nms.find? fun c => c.id == cmd with
    | none => s
    | some c =>
      let va := c.stepVa row 0
      let s := if c.todo.contains row && c.kind == .fill && s.nmReady c row then
          (s.modNm cmd fun c => { c with started := true }).nmRow c row va .store fun r s =>
            (s.stepWrite r (c.ctx, va) ((List.range 256).flatMap fun _ => leBytes 4 c.k0.toNat)).nmAdvance c row 0 true
        else s
      s.nmNext cmd)

/-- Bytes of a row that the spec leaves undefined. -/
def State.freeBytes (s : State) (words : Nat) : List Byte × State :=
  (List.range words).foldl (fun (p : List Byte × State) _ =>
    let (v, s) := p.2.freeWord
    (p.1 ++ leBytes 4 v.toNat, s)) ([], s)

/-- The read step of a NM.COPY row, or its write step. -/
def State.nmCopyStep (s : State) (c : NmCmd) (row : Nat) (write : Bool) : State :=
  let src := c.stepVa row 0
  let dst := c.stepVa row 1
  if write then
    s.nmRow c row dst .store fun r s =>
      let bs := (tget c.bytes (row * 64)).getD []
      let over_ := c.aux0 ≤ dst ∧ dst < c.aux0 + 1024 * c.nrows
      let (bs, s) := if over_ then s.freeBytes 256 else (bs, s)
      let s := s.stepWrite r (c.ctx, dst) bs
      (s.modNm c.id fun c => { c with bytes := terase c.bytes (row * 64) }).nmAdvance c row 0 true
  else
    s.nmRow c row dst .store fun rd s => s.nmRow c row src .load fun r s =>
      if r / 2 ^ 26 ≠ rd / 2 ^ 26 then s.nmStop c row 6 dst 0
      else
        let (w, s) := s.stepRead r (c.ctx, src)
        match w with
        | none => (s.nmPoison c row src).nmAdvance c row 0 true
        | some w => (s.modNm c.id fun c => { c with bytes := tset c.bytes (row * 64) w }).nmAdvance c row 0 false

/-- NM_COPY (R323). -/
def execNmCopy (cmd row : Nat) (write : Bool) (s : State) : Res :=
  .next (match s.nms.find? fun c => c.id == cmd with
    | none => s
    | some c =>
      let s := if c.todo.contains row && c.kind == .copy && (c.seg row == 1) == write && s.nmReady c row then
          (s.modNm cmd fun c => { c with started := true }).nmCopyStep c row write
        else s
      s.nmNext cmd)

/-! ### Completion (R324, R325, R327, R333) -/

/-- The status of a command. -/
def NmCmd.status (c : NmCmd) : Nat := (minNat? (c.fails.map (·.1))).getD 0

/-- The lowest address among the rows that failed with the command's status. -/
def NmCmd.firstRow (c : NmCmd) : Nat :=
  (minNat? ((c.fails.filter fun f => f.1 == c.status).map fun f => f.2.1)).getD 0

/-- The error record of a command (R327): its number, for statuses 0x03 and 0x04. -/
def State.nmRecord (s : State) (c : NmCmd) : Option Word × State :=
  let st := c.status
  if st ≠ 3 ∧ st ≠ 4 then (none, s)
  else
    let stack := ((s.peekPa c.ctx c.base).map fun pa => pa / 2 ^ 36).getD 0
    let (q, s) := s.nextSeq (at_ 10 20 + stack)
    let items := if st = 3 then sortNat (dedup ((c.fails.filter fun f => f.1 == 3).map fun f => f.2.1)) else sortNat c.mismatch
    (some q, s.errorRecord (some c.ctx) {
      kind := if st = 3 then 0x10 else 0x11, src := 10, sseq := q.toNat, tag := c.tag.toNat, count := items.length
      paddr := s.reportPa c.ctx c.firstRow, vaddr := c.firstRow, wcb := c.wcb, rows := items.take 8 })

/-- The deferred trap of a failed command without a counter or event target (R325). -/
def State.nmTrap (s : State) (c : NmCmd) (rec_ : Option Word) : State :=
  let st := c.status
  let reason := ((c.fails.find? fun f => f.1 == st).map fun f => f.2.2).getD 0
  let eng (r : Nat) : Word := BitVec.ofNat 32 (r + at_ (c.tag.toNat % 65536) 16)
  let (cause, info) : Nat × Word := match st with
    | 1 => (6, reason)
    | 2 => (0x12, eng 0x52)
    | 3 => (7, 0x800)
    | 4 => (0x12, eng 0x54)
    | _ => (0x12, eng 0x56)
  let d : Deferred := {
    cause := cause, lanes := [c.leader], addrs := [(c.leader, c.firstRow)], info := info
    uerec := if st = 3 then rec_ else none, dests := [], again := false }
  s.modWarp c.warp fun w => { w with deferred := w.deferred ++ [d] }

/-- The core whose queue takes a command's event record (R368). -/
def State.nmCore (s : State) (c : NmCmd) : Nat := s.forwardCore c.id c.core

/-- The event record of a command. -/
def State.nmEvent (s : State) (c : NmCmd) : EvRec × State :=
  let (q, s) := s.nextSeq (at_ 10 20 + 8)
  let detail := if c.status = 3 then (dedup ((c.fails.filter fun f => f.1 == 3).map fun f => f.2.1)).length
    else if c.status = 4 then c.mismatch.length else 0
  ({ detail := BitVec.ofNat 32 detail, team := BitVec.ofNat 32 c.teamIdx, status := BitVec.ofNat 8 c.status, minor := 0
     source := 3, id := c.target.id, ctx := c.ctx, seq := q, raw := [] }, s)

/-- It goes to the core's queue, to the save area of a context that has been saved or stopped (R395, R397), or nowhere in
a reset (R400). A resume that has pushed the saved records back takes it as a resident context does (R396). -/
def State.nmEventFor (s : State) (c : NmCmd) : State :=
  match tget s.ctxs c.ctx with
  | none => s
  | some x =>
    let (r, s) := s.nmEvent c
    if x.state < 2 ∨ x.pushed then s.modCore (s.nmCore c) fun k => { k with evq := k.evq ++ [r] }
    else if x.state < 5 then s.saveEvent c.ctx x (s.nmCore c) r
    else s

/-- The completion record of a command that has outlived its team joins the save area (R395, R398); its flag byte is open for
a command that counted on none. -/
def State.nmSaved (s : State) (c : NmCmd) : State :=
  match tget s.ctxs c.ctx with
  | none => s
  | some x =>
    let gone := x.state = 2 ∨ x.state = 3 ∨ x.state = 4 ∨ (x.state = 1 ∧ (s.team c.team).isNone)
    if !gone then s
    else
      let (f, s) := match c.flag with
        | some n => (BitVec.ofNat 32 n, s)
        | none => s.freeWord
      s.saveNmc c.ctx x (leBytes 32 (c.tag.toNat + at_ c.status 32 + at_ (f.toNat % 256) 40 + at_ c.done 64))

/-- A completed command is forgotten by the NMFENCEs that wait for it; their flags fall with the last (R333). -/
def State.nmFenced (s : State) (id : Nat) : State :=
  let fs := s.nmFences.map fun (f : Nat × List Nat) => (f.1, f.2.filter (· != id))
  let done := fs.filter fun (f : Nat × List Nat) => f.2.isEmpty
  let s := { s with nmFences := fs.filter fun (f : Nat × List Nat) => !f.2.isEmpty }
  done.foldl (fun (s : State) (f : Nat × List Nat) => s.endOpAcq f.1) s

/-- NM_COMMAND_COMPLETE (R324): every part has finished or failed, and the flag falls, an acquire at stack scope (R213); an event
record waits for a place in its queue. -/
def execNmCommandComplete (cmd : Nat) (s : State) : Res :=
  .next (match s.nms.find? fun c => c.id == cmd with
    | none => s
    | some c =>
      let st := ((tget s.ctxs c.ctx).map (·.state)).getD 6
      let full := c.target.kind = 2 ∧ st < 2 ∧ 256 ≤ ((tget s.cores (s.nmCore c)).map fun x => x.evq.length).getD 0
      let open_ := s.sk.reqs.any fun r => match r.who with
        | .copy x _ => x == cmd
        | _ => false
      if !c.todo.isEmpty then s.nmNext cmd
      else if full || open_ then s.pend (.nmCommandComplete cmd)
      else
        let st := c.status
        let (rec_, s) := s.nmRecord c
        let s := { s with nmLog := s.nmLog.map fun (e : NmLog) =>
          if e.cmd = cmd then { e with status := some st, done := c.done } else e }
        let s := match c.target.kind with
          | 1 => s.pend (.dcDecrement c.ctx c.target.entry (if st = 0 then 0 else BitVec.ofNat 16 (0x300 + st)))
          | 2 => s.nmEventFor c
          | _ => if st = 0 then s else s.nmTrap c rec_
        let s := ((((s.nmSaved c).endOpAcq cmd).clearFailed cmd).endFwd cmd).nmFenced cmd
        { s with nms := s.nms.filter fun x => x.id != cmd })

/-! ### The NMEM instructions (R331 to R334) -/

/-- The command a descriptor describes. -/
def nmCmdOf (v : Nat) (t : Team) (w : Warp) (i : Issue) (l : Nat) : NmCmd :=
  let kind := nmKind (bits v 359 352)
  let n := bits v 287 256
  let tol := bits v 368 364
  let tiles := if kind = .csum ∨ (kind = .gemv ∧ tol ≠ 0) then regRange n (n / 64) else []
  { id := 0, ctx := t.ctx, core := w.core, team := w.team, teamIdx := t.idx, warp := i.warp, leader := l, wcb := t.twcb
    tag := 0, kind := kind, type := bits v 363 360, kb := bits v 391 384, tol := tol
    target := { kind := bits v 370 369, id := bits v 376 371, entry := t.vals.dcwin + bits v 376 371 }
    base := bits v 63 0, aux0 := bits v 127 64, aux1 := bits v 191 128, aux2 := bits v 255 192
    k0 := BitVec.ofNat 32 (bits v 319 288), k1 := BitVec.ofNat 32 (bits v 351 320), nrows := n
    todo := List.range n ++ tiles, prog := [], bytes := [], ys := [], bad := [], mismatch := [], fails := [], done := 0
    started := false, flag := none, vecs := [], slices := [], parts := [] }

/-- The context's next command tag. -/
def State.nmTag (s : State) (c : Nat) : Word × State :=
  let t := ((tget s.ctxs c).map (·.nexttag)).getD 1
  let t := if t = 0 then 1 else t
  (t, s.modCtx c fun x => { x with
    nexttag := if t = 0xFFFF_FFFF then 1 else t + 1, tagsWrapped := x.tagsWrapped || t == 0xFFFF_FFFF })

/-- A command is accepted: it takes its tag, enters the context's log, and its steps begin. -/
def State.nmAccept (s : State) (c : NmCmd) (flag : Option Nat) (d : Nat) : State :=
  let (id, s) := s.startOp { blankOp c.warp .engine with lanes := [c.leader], flag := flag }
  let (tag, s) := s.nmTag c.ctx
  let s := s.setV c.warp c.leader d tag
  let mine := s.nmLog.filter fun e => e.ctx == c.ctx
  let log := if mine.length < 1024 then s.nmLog else match mine with
    | x :: _ => s.nmLog.erase x
    | [] => s.nmLog
  let e : NmLog := { ctx := c.ctx, tag := tag, cmd := id, status := none, done := 0 }
  { s with nms := s.nms ++ [{ c with id := id, tag := tag, flag := flag }], nmLog := log ++ [e] }.nmNext id

/-- NMC (R332). -/
def execNmc (a d : BitVec 7) (fsel : BitVec 1) (s : State) : Res :=
  .next (s.withThread [a.toNat, a.toNat + 1] [d.toNat] (who := State.leaderLanes) fun i s =>
    let flag := s.flagOf i (some fsel)
    match s.leader i with
    | none => s
    | some l =>
      let c := s.ctxOf i.warp
      if s.engHeld i flag [l] true || 4096 ≤ (s.nms.filter fun x => x.ctx == c).length then s.stall
      else s.fenced i (s.warpLanes i) fun s =>
        let va := s.rdAddr i l a.toNat
        s.structAddr l va 6 fun s => s.withDesc i l va (fun k => .nmcDescriptorRead k) fun w t bs s =>
          let v := leNat bs
          match nmBad v (((tget s.ctxs t.ctx).map (·.ctsize)).getD 0) t.vals.dcwin with
          | some (r, off) => s.engineErr [l] (r + 256 * off)
          | none => s.nmAccept (nmCmdOf v t w i l) flag d.toNat)

/-- NMC_DESCRIPTOR_READ (R332): the 64 bytes arrive; `op` names the held group and the address. -/
def execNmcDescriptorRead (op : Nat) (s : State) : Res := .next (s.readDesc op 64 true)

/-- NMFENCE (R333). -/
def execNmfence (fsel : BitVec 1) (s : State) : Res :=
  .next (s.withThread [] [] (who := State.leaderLanes) fun i s =>
    let flag := s.flagOf i (some fsel)
    match s.leader i, s.warp i.warp with
    | some l, some w =>
      if s.engHeld i flag [l] false then s.stall
      else
        let cmds := (s.nms.filter fun c => c.warp == i.warp).map (·.id)
        let (id, s) := s.startOp { blankOp i.warp .engine with lanes := [l], flag := flag }
        if cmds.isEmpty then (s.dropClean w.core).endOp id else { s with nmFences := s.nmFences ++ [(id, cmds)] }
    | _, _ => s)

/-- The two words of NMSTAT for a tag of a context. -/
def State.nmStatus (s : State) (ctx : Nat) (tag : Word) : List Word :=
  match s.nmLog.find? fun e => e.ctx == ctx && e.tag == tag with
  | some e => match e.status with
    | some 0 => [3, BitVec.ofNat 32 e.done]
    | some st => [BitVec.ofNat 32 (4 + at_ st 8), BitVec.ofNat 32 e.done]
    | none => match s.nms.find? fun c => c.id == e.cmd with
      | none => [0, 0]
      | some c =>
        let mine (w : Waiter) : Bool := match w with
          | .engine o _ => o == c.id
          | _ => false
        let parked := (s.tr.batches.any fun b => b.waiters.any mine) || s.tr.slotWaits.any fun x => mine x.waiter
        [if parked then 2 else if c.started then 1 else 0, BitVec.ofNat 32 c.done]
  | none => match tget s.ctxs ctx with
    | none => [6, 0]
    | some x => [if tag ≠ 0 ∧ (x.tagsWrapped ∨ tag.toNat < x.nexttag.toNat) then 5 else 6, 0]

/-- NMSTAT (R334). -/
def execNmstat (t d : BitVec 7) (fsel : BitVec 1) (s : State) : Res :=
  .next (s.withThread [t.toNat] [d.toNat, d.toNat + 1] (who := State.leaderLanes) fun i s =>
    let flag := s.flagOf i (some fsel)
    match s.leader i with
    | none => s
    | some l =>
      if s.engHeld i flag [l] false then s.stall
      else
        let ws := s.nmStatus (s.ctxOf i.warp) (s.rdV i l t.toNat)
        (s.setV i.warp l d.toNat (ws.getD 0 0)).setV i.warp l (d.toNat + 1) (ws.getD 1 0))

end Sys2Proof.Machine
end

