-- ==== Sys2Proof/Machine/Points.lean ====
section
/-! DEFINITION. The steps of R207 that move a write along its path and discard clean copies. -/

namespace Sys2Proof.Machine

/-- Is no older write to be posted before a buffered one (R154, R207, R219)? -/
def State.oldestWr (s : State) (w : Wr) : Bool := !((s.m.tbuf.takeWhile fun x => x.id != w.id).any fun x => x.leads w)

/-- POST (R207): the oldest write of a location moves from its buffer to the next point; another waits for the older ones. -/
def execPost (wr : Nat) (s : State) : Res :=
  .next (match s.m.tbuf.find? fun w => w.id == wr with
    | none => s
    | some w => if s.oldestWr w then s.postWr w (s.ctxOf w.warp) else s.pend (.post wr))

/-- PUSH (R207). -/
def execPush (core addr : Nat) (s : State) : Res := .next (s.pushByte core addr)

/-- SETTLE (R207). Where the write that the step was due for has settled already, an unsettled one of its block is due
instead. -/
def execSettle (addr : Nat) (s : State) : Res :=
  .next (match settleNext s.m.unsettled addr with
    | some w => s.settleWr w
    | none => match (s.m.unsettled.flatMap (·.bytes)).find? fun e => e.1 / 8 == addr / 8 with
      | some e => s.pend (.settle e.1)
      | none => s)

/-- DROP (R207); a clean copy of another device's memory is named by its key (`peerKey`). -/
def execDrop (point : CachePoint) (addr : Nat) (s : State) : Res :=
  .next (match point with
    | .core k => s.dropCore k (addr / 8)
    | .home => s.dropHome (addr / 8))

end Sys2Proof.Machine
end

