-- ==== Sys2Proof/Machine/Replay.lean ====
section
/-! DEFINITION. Page walks, replays (R387 to R391), page-table generations (R389) and migration (R392, R393). -/

namespace Sys2Proof.Machine

/-- PAGE_WALK (R379). -/
def execPageWalk (unit : XUnit) (ctx : Nat) (va : DWord) (acc : Access) (s : State) : Res :=
  .next (s.pageWalk unit ctx va.toNat acc).2

/-! ### Replay records -/

/-- A replay record as it stands in memory (R387); one that names another context is ignored as reserved. -/
def replayOf (ctx v : Nat) : Replay :=
  { addr := bits v 255 192, arg := bits v 191 128, gen := BitVec.ofNat 32 (bits v 127 96)
    bseq := BitVec.ofNat 32 (bits v 95 64), retry := bits v 23 16, ctx := bits v 15 8, action := bits v 7 0
    rsvd := bits v 15 8 != ctx }

def Replay.bytes (r : Replay) : List Byte :=
  leBytes 32 (r.action + at_ r.ctx 8 + at_ r.retry 16 + at_ r.bseq.toNat 64 + at_ r.gen.toNat 96 + at_ r.arg 128 +
    at_ r.addr 192)

/-- Has a record's generation come (R389)? -/
def Replay.passed (r : Replay) (c : Ctx) : Bool :=
  let d := (r.gen - c.ptgen).toNat
  !(1 ≤ d && d ≤ 2 ^ 31 - 1)

/-- The first buffered record that takes effect next: those whose generation has come do so in ring order (R388). -/
def Ctx.dueReplay (c : Ctx) : Option Replay := c.replays.find? fun r => r.passed c

/-- The event of a record. -/
def Replay.event (r : Replay) (c : Nat) : Instr :=
  if r.rsvd then .replayRetry c
  else match r.action with
    | 2 => .replayInvalidateRange c
    | 3 => .replayInvalidateContext c
    | 4 => .replayMigrate c
    | _ => .replayRetry c

/-- The record due next, if any, may take effect. -/
def State.pendReplay (s : State) (c : Nat) : State :=
  match (tget s.ctxs c).bind Ctx.dueReplay with
  | some r => s.pend (r.event c)
  | none => s

/-- A record leaves the buffer. -/
def State.dropReplay (s : State) (c : Nat) (r : Replay) : State :=
  s.modCtx c fun x => { x with replays := x.replays.erase r }

/-- Records take effect in a resident context, and in one that resumes (R391, R396). -/
def Ctx.replaysRun (c : Ctx) : Bool := c.state == 0 || c.state == 3

/-- The due record of a context, when its event is `kind`, leaves the buffer and acts; the next one follows. -/
def State.replayAct (s : State) (c : Nat) (kind : Instr) (f : Ctx → Replay → State → State) : State :=
  match tget s.ctxs c with
  | none => s
  | some x => match x.dueReplay with
    | none => s
    | some r => if !x.replaysRun || r.event c != kind then s else (f x r (s.dropReplay c r)).pendReplay c

/-- The field that acts on a record: one of those the device presents (DESIGN CHOICE 60). -/
def State.actingField (s : State) : Nat × State := s.choose s.mg.fence

/-- A kind-0x06 record (R386). -/
def State.actionDone (s : State) (c field : Nat) (bseq : Word) (reason addr : Nat) : State :=
  s.ctxRecord c { kind := 6, src := 8, unit := field, bseq := bseq.toNat, reason := reason, addr := addr }

/-- A kind-0x07 record (R386). -/
def State.replayIgnored (s : State) (c : Nat) (r : Replay) (reason : Nat) : State :=
  let (f, s) := s.actingField
  s.ctxRecord c { kind := 7, src := 8, unit := f, bseq := r.bseq.toNat, reason := reason }

/-- REPLAY_DOORBELL (R390): RDOOR writes RTAIL. -/
def execReplayDoorbell (ctx : Nat) (v : Word) (s : State) : Res :=
  .next (match tget s.ctxs ctx with
    | none => s
    | some x => if x.state = 6 then s else (s.physWrite (x.fq + 40) 4 v.toNat).pend (.replayConsume ctx))

/-- The n-th record of a save area's replay list. -/
def State.saveReplay (s : State) (save n : Nat) (r : Replay) : State :=
  s.finalWrite (save + 0x1000 + 32 * n) r.bytes

/-- A record of a context that is not resident is appended to its replay list, while that has room (R391). -/
def State.listReplay (s : State) (c : Nat) (x : Ctx) (r : Replay) : State :=
  let n := (((tget s.saves c).map (·.replays)).getD []).length
  let s := s.modSave c fun v => { v with replays := v.replays ++ [r] }
  let s := s.saveReplay x.save n r
  if x.state = 2 ∨ x.state = 4 then s.physWrite (x.save + 8) 4 (n + 1) else s

/-- Room for one more record: in the buffer, or in the list (R388, R391). -/
def State.replayRoom (s : State) (c : Nat) (x : Ctx) : Bool :=
  match x.state with
  | 0 => x.replays.length < 64
  | 3 => x.replays.length < 512
  | 5 => false
  | 6 => false
  | _ => (((tget s.saves c).map (·.replays)).getD []).length < 512

/-- REPLAY_CONSUME (R388, R391): the next record of the ring enters the buffer, or the list, and RHEAD advances. -/
def execReplayConsume (ctx : Nat) (s : State) : Res :=
  .next (match tget s.ctxs ctx with
    | none => s
    | some x =>
      let head := s.physNat (x.fq + 44) 4
      if x.state = 6 ∨ head = s.physNat (x.fq + 40) 4 then s
      else if !s.replayRoom ctx x then s.pend (.replayConsume ctx)
      else
        let r := replayOf ctx (s.physNat (s.physNat (x.fq + 24) 8 + 32 * (head % 2 ^ s.physNat (x.fq + 39) 1)) 32)
        let s := if x.replaysRun then (s.modCtx ctx fun y => { y with replays := y.replays ++ [r] }).pendReplay ctx
          else s.listReplay ctx x r
        (s.physWrite (x.fq + 44) 4 ((head + 1) % 2 ^ 32)).pend (.replayConsume ctx))

/-! ### Invalidation and retry -/

/-- Translations of a context that overlap [base, base + n) leave every TLB, and its cached upper-level entries leave the
walker caches. -/
def State.invalidate (s : State) (c base n : Nat) : State :=
  let hit (e : TlbEnt) : Bool := e.ctx == c && e.base < base + n && base < e.base + 2 ^ e.lg
  { s with tr := { s.tr with
    tlb := s.tr.tlb.filter fun e => !hit e
    wcache := s.tr.wcache.filter fun e => e.ctx != c } }

/-- Every translation of a context. -/
def State.invalidateCtx (s : State) (c : Nat) : State :=
  { s with tr := { s.tr with
    tlb := s.tr.tlb.filter fun e => e.ctx != c
    wcache := s.tr.wcache.filter fun e => e.ctx != c } }

/-- A held chunk's batch is answered: the chunk is unclaimed again, or its helper takes memory-fault (R305). -/
def State.releaseChunk (s : State) (wk chunk : Nat) (failed : List BatchPage) (reason : Word) : State :=
  match (s.warp wk).bind (·.recruit) with
  | none => s
  | some r => match r.heldFor.find? fun e => e.1 == chunk with
    | none => s
    | some (c, idx, base) =>
      let s := s.modRecruit wk fun r => { r with heldFor := r.heldFor.filter fun e => e.1 != c }
      match failed.find? fun p => p.base == base with
      | none => (s.modRecruit wk fun r => r.modChunk c fun x => { x with st := .unclaimed }).wakeHelpers wk
      | some p => s.helperTrapAt wk idx { cause := 6, pc := 0, mask := [idx], addr := p.addr, info := reason, uerec := none }

/-- A waiter of an answered batch goes on; the pages marked unresolvable are kept for its next access (R388). -/
def State.releaseWaiter (s : State) (b : Batch) (failed : List BatchPage) (reason : Word) (x : Waiter) : State :=
  match x with
  | .warp wk => s.modWarp wk fun w =>
    let fault := match w.fault with
      | .waiting ls ids => let r := ids.filter (· != b.id); if r.isEmpty then FaultSt.none else .waiting ls r
      | f => f
    { w with fault := fault, failed := w.failed ++ failed.map fun p => (w.fault.lanes, p.base, reason) }
  | .helper wk chunk => s.releaseChunk wk chunk failed reason
  | .engine _ _ => { s with tr := { s.tr with failed := s.tr.failed ++ failed.map fun p => (x, p.base, reason) } }

/-- A retry of an outstanding batch (R388). -/
def State.retryBatch (s : State) (c : Nat) (b : Batch) (r : Replay) : State :=
  let s := b.pages.foldl (fun s p => s.invalidate c p.base (2 ^ p.lg)) s
  let failed := ((List.range b.pages.length).zip b.pages).filterMap fun (e : Nat × BatchPage) =>
    if (r.arg % 2 ^ 32).testBit e.1 then some e.2 else none
  let s := { s with tr := { s.tr with batches := s.tr.batches.filter fun x => x.id != b.id } }
  let s := b.waiters.foldl (fun s x => s.releaseWaiter b failed (BitVec.ofNat 32 (r.arg / 2 ^ 32)) x) s
  let s := s.modCtx c fun x => { x with fpages := x.fpages - b.pages.length }
  let s := s.openDeferred b.core
  s.pendAll ((dedup ((s.tr.batches.filter fun x => x.ctx == c && !x.sent).map (·.core))).map fun k => .batchOpenDeferred k)

/-- REPLAY_RETRY (R388): a retry, or a record that is ignored. -/
def execReplayRetry (ctx : Nat) (s : State) : Res :=
  .next (s.replayAct ctx (.replayRetry ctx) fun _ r s =>
    if r.rsvd || r.action != 1 then s.replayIgnored ctx r 2
    else match s.tr.batches.find? fun b => b.ctx == ctx && b.sent && b.bseq == r.bseq with
      | none => s.replayIgnored ctx r 1
      | some b => s.retryBatch ctx b r)

/-- REPLAY_INVALIDATE_RANGE (R388). -/
def execReplayInvalidateRange (ctx : Nat) (s : State) : Res :=
  .next (s.replayAct ctx (.replayInvalidateRange ctx) fun _ r s =>
    let (f, s) := (s.invalidate ctx r.addr (65536 * (r.arg % 2 ^ 32))).actingField
    s.actionDone ctx f r.bseq 0 r.addr)

/-- REPLAY_INVALIDATE_CONTEXT (R388). -/
def execReplayInvalidateContext (ctx : Nat) (s : State) : Res :=
  .next (s.replayAct ctx (.replayInvalidateContext ctx) fun _ r s =>
    let (f, s) := (s.invalidateCtx ctx).actingField
    s.actionDone ctx f r.bseq 0 r.addr)

/-! ### Page-table generations (R389) -/

/-- PTWDATA_WRITE (R389): the store at PTWADDR, a host write of the function as any other. -/
def execPtwdataWrite (ctx : Nat) (v : DWord) (s : State) : Res :=
  .next (match tget s.ctxs ctx with
    | none => s
    | some x =>
      let a := alignDown x.ptwaddr.toNat 8
      (if s.present a then s.outsideWrite (some ctx) a (leBytes 8 v.toNat) true else s).pend (.ptgenIncrement ctx))

/-- Are host writes of a function still on their way to a row? -/
def State.hostWrites (s : State) (fn : Nat) : Bool := s.sw.bankq.any fun e => e.host && e.ctx == some fn

/-- PTGEN_INCREMENT (R389): once the store and every earlier host write of the function have been performed. -/
def execPtgenIncrement (ctx : Nat) (s : State) : Res :=
  .next (if s.hostWrites ctx then s.pend (.ptgenIncrement ctx)
    else (s.modCtx ctx fun x => { x with ptgen := x.ptgen + 1 }).pendReplay ctx)

/-! ### Migration (R392, R393) -/

def Migr.size (m : Migr) : Nat := 2 ^ m.lg

/-- Level of the leaf of a page. -/
def lgLevel (lg : Nat) : Nat :=
  match lg with
  | 33 => 1
  | 26 => 2
  | 21 => 3
  | _ => 4

/-- Why a move is refused, with the leaf it would replace: its address, its entry, log2 of its page. -/
def State.migrLeaf (s : State) (c : Nat) (r : Replay) : Option (Nat × Nat × Nat) :=
  match tget s.ctxs c with
  | none => none
  | some x =>
    let clean := { s with tr := { s.tr with wcache := [] } }
    match (clean.walkFrom 0 c r.addr walkLevels x.ptroot).1 with
    | .fail _ _ _ => none
    | .leaf addr e lg =>
      let base := alignDown r.addr (2 ^ lg)
      let region := s.sw.regions.any fun g => g.ctx == c && g.st == .registered && g.base < base + 2 ^ lg &&
        base < g.base + 1024 * g.rows
      if leafType e = 1 ∨ leafType r.arg = 1 ∨ region ∨ r.arg % 4 ≠ 3 ∨ malformed r.arg (lgLevel lg) lg then none
      else some (addr, e, lg)

/-- Buffered writes to a page leave their buffers: none of them may reach the old page after the commit. -/
def State.postPage (s : State) (m : Migr) : State := s.postWhere fun w => m.touches w.loc w.data.length

/-- Where an offset of the new page stands. -/
def Migr.place (m : Migr) (off : Nat) : Loc :=
  let leaf := m.newLeaf.toNat
  let a := leafFrame leaf + off
  match leafType leaf with
  | 0 => .mem .normal a
  | 2 => .mem .kvp a
  | 3 => .mem .uc a
  | 4 => .host m.ctx (m.newFrames.getD (off / 65536) 0 + off % 65536)
  | _ => .peer (bits leaf 27 20) a

/-- Entries of chunk buffers for the old page stand for the new one. -/
def State.moveChunkBuffers (s : State) (m : Migr) : State :=
  let move (e : BufEnt) : BufEnt := match m.offOf e.loc with
    | some o => { e with loc := m.place o }
    | none => e
  { s with warps := s.warps.map fun (e : Nat × Warp) =>
    (e.1, { e.2 with recruit := e.2.recruit.map fun r =>
      { r with helpers := r.helpers.map fun (h : Helper) => { h with buf := h.buf.map move } } }) }

/-- Dirty copies of a tier-0 page at every core go to the home point. -/
def State.pushPage (s : State) (leaf lg : Nat) : State :=
  if leafTier leaf ≠ 0 then s
  else
    let base := leafFrame leaf
    let ks := dedup ((s.m.cDirty.filter fun e => base ≤ e.1 % 2 ^ 50 && e.1 % 2 ^ 50 < base + 2 ^ lg).map
      fun e => e.1 / 8)
    ks.foldl (fun s k => s.pushBlock (k / 2 ^ 47) (k % 2 ^ 47)) s

/-- Has a write to the page reached its home point since the attempt began, or the host withdrawn a translation it uses? -/
def State.pageWritten (s : State) (m : Migr) : Bool :=
  let base := leafFrame m.oldLeaf.toNat
  m.touched || leafTier m.oldLeaf.toNat == 0 &&
    s.m.hStamp.any fun e => base / 8 ≤ e.1 && e.1 < (base + m.size) / 8 && e.2.any fun st => decide (m.stamp < st)

/-- Keys of the answers a migration awaits from other devices. -/
def Migr.key (m : Migr) (write : Bool) (line : Nat) : Nat :=
  2 ^ 200 + (2 * m.id + if write then 1 else 0) * 2 ^ 40 + line

def Migr.lines (m : Migr) : List Nat := List.range (m.size / 128)

/-- Has another device not done what a migration asked of it (R414)? An answer kept with no bytes says so. -/
def State.migrLost (s : State) (m : Migr) (write : Bool) : Bool :=
  m.lines.any fun i => s.descs.any fun e => e.1 == m.key write i && e.2.isEmpty


/-- Have all lines been answered? -/
def State.migrAnswered (s : State) (m : Migr) (write : Bool) : Bool :=
  m.lines.all fun i => s.descs.any fun e => e.1 == m.key write i

/-- Requests to another device for every line of a page, 128 bytes each. -/
def State.migrAsk (s : State) (m : Migr) (leaf : Nat) (data : Option (Nat → List Byte)) : State :=
  m.lines.foldl (fun s i =>
    let msg := { blankMsg with paddr := leafFrame leaf + 128 * i, dst := bits leaf 27 20, size := 128 }
    let msg : Msg := match data with
      | none => { msg with op := 0 }
      | some d => { msg with op := 4, data := d i }
    (s.skSend msg m.ctx m.va (.desc (m.key data.isSome i))).1) s

/-- The bytes of a tier-0 page that differ from zero, by offset, as the newest writes at the home points leave them. -/
def State.pageBytes (s : State) (base n : Nat) : List (Nat × Byte) :=
  let inside (a : Nat) : Bool := base ≤ a && a < base + n
  let t : Tab Byte := s.m.mem.filter fun e => inside e.1
  let t := (s.m.hClean.filter fun e => inside e.1).foldl (fun t e => tset t e.1 e.2) t
  let t := (s.m.unsettled.flatMap (·.bytes)).foldl (fun t e => if inside e.1 then tset t e.1 e.2 else t) t
  (t.filter fun e => e.2 != 0).map fun e => (e.1 - base, e.2)

/-- Where each 64 KiB of a HOST page stands on the host side, for reads of the old page and writes of the new one; none while a
translation waits for the host or is refused. -/
def State.hostFrames (s : State) (m : Migr) (leaf : Nat) (a : Access) : Option (List Nat) × State :=
  (List.range (m.size / 65536)).foldl (fun (p : Option (List Nat) × State) i =>
    match p.2.hostXlate m.ctx (leafFrame leaf + 65536 * i) m.va m.lg a with
    | (.at (.host _ a), s) => (p.1.map fun l => l ++ [a], s)
    | (_, s) => (none, s)) (some [], s)

/-- The bytes of the old page; none while they are awaited. -/
def State.migrSource (s : State) (m : Migr) : Option (List (Nat × Byte)) :=
  let leaf := m.oldLeaf.toNat
  match leafTier leaf with
  | 0 => some (s.pageBytes (leafFrame leaf) m.size)
  | 1 => some (((List.range m.frames.length).zip m.frames).flatMap fun (e : Nat × Nat) =>
      (s.m.host.filter fun b => hkey m.ctx e.2 ≤ b.1 && b.1 < hkey m.ctx e.2 + 65536).map
        fun b => (65536 * e.1 + b.1 - hkey m.ctx e.2, b.2))
  | _ =>
    if s.migrAnswered m false then
      some (m.lines.flatMap fun i => match s.descs.find? fun e => e.1 == m.key false i with
        | none => []
        | some e => (((List.range 128).zip e.2).filter fun b => b.2 != 0).map fun b => (128 * i + b.1, b.2))
    else none

/-- Uncorrectable code words of a page go with it. -/
def State.pageUe (s : State) (src dst n : Nat) : State :=
  let got := s.m.ue.filter fun e => src / 32 ≤ e.1 && e.1 < (src + n) / 32
  let ue := got.foldl (fun t e => tset t (e.1 - src / 32 + dst / 32) e.2) (tclear s.m.ue (dst / 32) ((dst + n) / 32))
  { s with m := { s.m with ue := ue } }

/-- The new frame takes the page's bytes. -/
def State.migrStore (s : State) (m : Migr) (bs : List (Nat × Byte)) : State :=
  let leaf := m.newLeaf.toNat
  let base := leafFrame leaf
  match leafTier leaf with
  | 0 =>
    let s := s.settleAll
    let mem := bs.foldl (fun t e => mset t (base + e.1) e.2) (tclear s.m.mem base (base + m.size))
    let s := { s with m := { s.m with
      mem := mem
      hClean := tclear s.m.hClean base (base + m.size)
      cClean := s.m.cClean.filter fun e => !(base ≤ e.1 % 2 ^ 50 && e.1 % 2 ^ 50 < base + m.size) } }
    if leafTier m.oldLeaf.toNat = 0 then s.pageUe (leafFrame m.oldLeaf.toNat) base m.size
    else { s with m := { s.m with ue := tclear s.m.ue (base / 32) ((base + m.size) / 32) } }
  | 1 =>
    let host := m.newFrames.foldl (fun t a => tclear t (hkey m.ctx a) (hkey m.ctx a + 65536)) s.m.host
    let host := bs.foldl (fun t e => mset t (hkey m.ctx (m.newFrames.getD (e.1 / 65536) 0) + e.1 % 65536) e.2) host
    { s with m := { s.m with host := host } }
  | _ =>
    let k := peerKey (bits leaf 27 20) base
    let s := { s with m := { s.m with cClean := s.m.cClean.filter fun e => !(k ≤ e.1 % 2 ^ 50 && e.1 % 2 ^ 50 < k + m.size) } }
    s.migrAsk m leaf (some fun i =>
      (List.range 128).map fun k => ((bs.find? fun e => e.1 == 128 * i + k).map (·.2)).getD 0)

def State.modMigr (s : State) (id : Nat) (f : Migr → Migr) : State :=
  { s with tr := { s.tr with migrs := s.tr.migrs.map fun m => if m.id = id then f m else m } }

/-- A migration ends: its watch entry and what it awaited are given up. -/
def State.endMigr (s : State) (m : Migr) : State :=
  let mine (k : Nat) : Bool := k / 2 ^ 41 == (2 ^ 200 + 2 * m.id * 2 ^ 40) / 2 ^ 41
  { s with
    tr := { s.tr with migrs := s.tr.migrs.filter fun x => x.id != m.id }
    descs := s.descs.filter fun e => !mine e.1 }

/-- The field that holds a leaf. -/
def Migr.field (m : Migr) : Nat := m.leafAddr / 2 ^ 37

/-- MIGRATION_TEST, first part (R392, step 1): the watch begins with every dirty copy pushed and the version at 0, once the
host has translated its pages. -/
def State.migrBegin (s : State) (m : Migr) : State :=
  let frames (leaf : Nat) (a : Access) (s : State) : Option (List Nat) × State :=
    if leafTier leaf = 1 then s.hostFrames m leaf a else (some [], s)
  let (old, s) := frames m.oldLeaf.toNat .load s
  let (new, s) := frames m.newLeaf.toNat .store s
  match old, new with
  | some fs, some gs =>
    let m := { m with phase := 1, touched := false, frames := fs, newFrames := gs }
    let s := (s.postPage m).pushPage m.oldLeaf.toNat m.lg
    let m := { m with stamp := s.stampCtr }
    let keys := m.lines
    let s := { s with descs := s.descs.filter fun e => !(keys.any fun i => e.1 == m.key false i || e.1 == m.key true i) }
    let s := s.modMigr m.id fun _ => m
    if leafTier m.oldLeaf.toNat = 2 then s.migrAsk m m.oldLeaf.toNat none else s
  | _, _ => s

/-- An attempt has failed: another begins, or after the last one the migration is abandoned (R392). -/
def State.migrAgain (s : State) (m : Migr) : State :=
  if m.tries ≤ 1 then (s.endMigr m).actionDone m.ctx m.field m.bseq 1 m.va
  else s.modMigr m.id fun m => { m with phase := 0, tries := m.tries - 1 }

/-- Second part (step 2): the copy, once its source can be read; a source that another device does not give fails the attempt
(R414, DESIGN CHOICE 106). -/
def State.migrCopy (s : State) (m : Migr) : State :=
  match s.migrSource m with
  | none => s
  | some bs =>
    if s.migrLost m false then s.migrAgain m
    else (s.migrStore m bs).modMigr m.id fun m => { m with phase := 2 }

/-- Third part (steps 3 and 4): the test, and the commit, another attempt or the end. -/
def State.migrTest (s : State) (m : Migr) : State :=
  if leafTier m.newLeaf.toNat = 2 ∧ !s.migrAnswered m true then s
  else
    let s := (s.postPage m).pushPage m.oldLeaf.toNat m.lg
    let m := (s.tr.migrs.find? fun x => x.id == m.id).getD m
    if s.pageWritten m || s.migrLost m true then s.migrAgain m
    else
      let s := s.physWrite m.leafAddr 8 m.newLeaf.toNat
      let s := (s.invalidate m.ctx (alignDown m.va m.size) m.size).moveChunkBuffers m
      (s.endMigr m).actionDone m.ctx m.field m.bseq 0 m.va

def State.migr (s : State) (id : Nat) : Option Migr := s.tr.migrs.find? fun m => m.id == id

/-- MIGRATION_TEST (R392): the walkers take a migration one step on; it comes again until the migration ends. -/
def execMigrationTest (mig : Nat) (s : State) : Res :=
  .next (
    let s := match s.migr mig with
      | none => s
      | some m => match m.phase with
        | 0 => s.migrBegin m
        | 1 => s.migrCopy m
        | _ => s.migrTest m
    if (s.migr mig).isSome then s.pend (.migrationTest mig) else s)

/-- REPLAY_MIGRATE (R392): refused, made to wait for a watch entry, or begun. -/
def execReplayMigrate (ctx : Nat) (s : State) : Res :=
  .next (
    match (tget s.ctxs ctx).bind Ctx.dueReplay with
    | none => s
    | some r =>
      if r.event ctx = .replayMigrate ctx ∧ (s.migrLeaf ctx r).isSome ∧ 64 ≤ s.tr.migrs.length then
        s.pend (.replayMigrate ctx)
      else s.replayAct ctx (.replayMigrate ctx) fun _ r s => match s.migrLeaf ctx r with
        | none =>
          let (f, s) := s.actingField
          s.actionDone ctx f r.bseq 2 r.addr
        | some (addr, e, lg) =>
          let (id, s) := s.fresh
          let m : Migr := {
            id := id, ctx := ctx, va := r.addr, lg := lg, leafAddr := addr, oldLeaf := BitVec.ofNat 64 e
            newLeaf := BitVec.ofNat 64 r.arg, bseq := r.bseq, tries := r.retry, phase := 0, stamp := 0, touched := false
            frames := [], newFrames := [] }
          if r.retry = 0 then s.actionDone ctx m.field r.bseq 1 r.addr
          else
            let s := { s with tr := { s.tr with migrs := s.tr.migrs ++ [m] } }
            (s.migrBegin m).pend (.migrationTest id))

end Sys2Proof.Machine
end

