-- ==== Sys2Proof/Machine/Preempt.lean ====
section
/-! DEFINITION. Pre-emption, stop, resume and reset of a context (R394 to R400). -/

namespace Sys2Proof.Machine

/-! ### Save areas (R398, R399) -/

/-- The 16 bytes of a thread (R399). -/
def Thread.record (t : Thread) : List Byte :=
  leBytes 16 (t.rpc % 2 ^ 23 + at_ (t.rdepth % 256) 23 + (if t.inside then 2 ^ 31 else 0) + at_ t.rdraws.toNat 32 +
    at_ (t.retired % 2 ^ 32) 64 + at_ (match t.st with | .exited => 1 | .killed => 2 | _ => 0) 96)

/-- A team record (R399); the threads of a warp that has ended stand as they ended. -/
def teamRecord (t : Team) (ws : List (Option Warp)) : List Byte :=
  let mask (l : List Nat) : Nat := (dedup l).foldl (fun m i => m + 2 ^ i) 0
  let exts := (List.range t.vals.warps).foldl (fun n k => n + at_ (mask (((t.recExt[k]?).getD []).map (·.1)) % 16) (4 * k)) 0
  let head := leBytes 256 (t.twcb + at_ (t.vals.warps * t.vals.w) 64 + at_ t.restarts.toNat 96 +
    at_ (mask t.recTiles % 2 ^ 256) 256 + at_ exts 512)
  let blank : Thread := { freshThread 0 0 with st := .exited }
  head ++ (List.range t.vals.warps).flatMap fun k =>
    let ts : List Thread := match (ws[k]?).join with
      | some w => w.threads
      | none => (tget t.ended k).getD []
    (List.range t.vals.w).flatMap fun l => ((ts[l]?).getD blank).record

/-- A launch record (R399). -/
def Launch.record (l : Launch) : List Byte :=
  leBytes 32 (l.vals.wcb + at_ l.id.toNat 64 + at_ l.next 96 + at_ l.endedTeams 128 + at_ (l.triggered % 2 ^ 32) 160 +
    at_ ((l.node.map (·.2)).getD 0xFFFF_FFFF) 192)

/-- The save area is written: lists, then the header with its counts. -/
def State.writeSave (s : State) (c : Nat) (x : Ctx) (sstate : Nat) : State :=
  let v := s.saved c
  let live := (s.placed c).map fun (e : Nat × Team) => (e.2, e.2.warps.map fun o => o.bind s.warp)
  let recs := (v.teams ++ live).map fun e => teamRecord e.1 e.2
  let ls := ((s.launches.filter fun e => e.2.ctx == c).map fun e => e.2.record).take 4096
  let s := s.finalWrite (x.save + 0x10_0000) (recs.flatMap id)
  let s := s.finalWrite (x.save + 0xA_0000) (ls.flatMap id)
  let (cp, s) := s.freeBytes (16 * min v.copies.length 4096)
  let s := s.finalWrite (x.save + 0x8000) cp
  let words : List Nat := [sstate, recs.length, v.replays.length, v.copies.length, v.nmc.length, v.events.length, x.visit,
    x.ptgen.toNat, x.nextbseq.toNat, x.nexttag.toNat, x.nextlaunch.toNat, x.fpages, ls.length]
  s.finalWrite x.save ((words.flatMap fun w => leBytes 4 w) ++ List.replicate 204 0)

/-! ### Copies and events -/

/-- The pages a squashed command holds are unpinned. -/
def State.unpinNow (s : State) (cmd slot : Nat) : State :=
  match execPdtUnpin cmd slot s with
  | .next s => s
  | _ => s

/-- The copies of a context leave their engines (R395): what they wait for forgets them. -/
def State.squash (s : State) (c : Nat) : List Copy × State :=
  let cs := s.copies.filter fun (x : Copy) => x.ctx == c
  let s := cs.foldl (fun s x => x.pinned.foldl (fun s k => s.unpinNow x.id k) s) s
  let keep (w : Waiter) : Bool := match w with
    | .engine op _ => !(cs.any fun x => x.id == op)
    | _ => true
  let bs := s.tr.batches.map fun (b : Batch) => { b with waiters := b.waiters.filter keep }
  let tr := { s.tr with
    batches := bs, slotWaits := s.tr.slotWaits.filter fun x => keep x.waiter, failed := s.tr.failed.filter fun e => keep e.1 }
  let reqs := s.sk.reqs.map fun (r : SkReq) => match r.who with
    | .copy id _ => if cs.any fun x => x.id == id then { r with who := .none } else r
    | _ => r
  let s := { s with copies := s.copies.filter fun (x : Copy) => x.ctx != c, tr := tr, sk := { s.sk with reqs := reqs } }
  (cs, cs.foldl (fun s x => s.endFwd x.id) s)

/-- Event records of a context leave the core queues; they are answered with their cores. -/
def State.takeEvents (s : State) (c : Nat) : List (Nat × EvRec) × State :=
  let mine (r : EvRec) : Bool := r.ctx == c
  (s.cores.flatMap fun (e : Nat × Core) => (e.2.evq.filter mine).map fun r => (e.1, r),
   { s with cores := s.cores.map fun (e : Nat × Core) => (e.1, { e.2 with evq := e.2.evq.filter fun r => !mine r }) })

/-- Buffered replays join the replay list (R391). -/
def State.listReplays (s : State) (c : Nat) : State :=
  match tget s.ctxs c with
  | none => s
  | some x => x.replays.foldl (fun s r => (s.dropReplay c r).listReplay c x r) s

/-! ### Pre-emption and stop (R394, R395, R397) -/

/-- PREEMPT (R394): command 1, from resident. -/
def execPreempt (ctx : Nat) (drain : Word) (s : State) : Res :=
  .next (match tget s.ctxs ctx with
    | none => s
    | some x =>
      let s := s.modCtx ctx fun x => { x with drain := drain }
      if x.state ≠ 0 ∨ x.goal = 4 then s
      else
        let s := s.modSave ctx fun _ => blankSave
        let s := s.modCtx ctx fun x => { x with goal := 2, draining := false }
        let s := (s.setCtxState ctx 1).listReplays ctx
        (s.preemptPoll ctx).pend (.preemptLimitExpire ctx))

/-- PREEMPT_LIMIT_EXPIRE (R394): with a team still not discarded the context stops, REASON 2. -/
def execPreemptLimitExpire (ctx : Nat) (s : State) : Res :=
  .next (match tget s.ctxs ctx with
    | none => s
    | some x =>
      if x.state = 1 ∧ x.goal = 2 ∧ !(s.placed ctx).isEmpty then s.stopContext ctx { kind := 3, src := 6, reason := 2 } else s)

/-- DRAIN_EXPIRE (R395, R397): the copies left are squashed and saved, the event records moved, the header written, and the
state becomes saved, or stopped. -/
def execDrainExpire (ctx : Nat) (s : State) : Res :=
  .next (match tget s.ctxs ctx with
    | none => s
    | some x =>
      if !x.draining ∨ ¬(x.state = 1 ∨ (x.goal = 4 ∧ x.state < 4)) then s
      else
        let s := if x.state = 1 then s else s.modSave ctx fun _ => blankSave
        let s := s.listReplays ctx
        let (cs, s) := s.squash ctx
        let s := s.modSave ctx fun v => { v with copies := v.copies ++ cs }
        let (es, s) := s.takeEvents ctx
        let s := es.foldl (fun s e => s.saveEvent ctx x e.1 e.2) s
        let s := (s.saved ctx).draining.foldl (fun s t => s.spadUndef t.core t.spbase t.vals.spbytes) s
        let s := s.modSave ctx fun v => { v with draining := [] }
        let stop := x.goal = 4
        let s := s.writeSave ctx ((tget s.ctxs ctx).getD x) (if stop then 2 else 1)
        (s.modCtx ctx fun x => { x with goal := 0, draining := false, pushed := false }).setCtxState ctx (if stop then 4 else 2))

/-! ### Resume (R396) -/

/-- A squashed copy is issued again from its start, in its team as it is placed now. -/
def State.reissue (s : State) (c : Copy) : State :=
  match s.teams.find? fun e => e.2.ctx == c.ctx && e.2.twcb == c.wcb && (tget s.launches e.2.launch).isSome with
  | none => s
  | some (tk, t) =>
    let sp (o : Nat) : Nat := if c.spbase ≤ o then t.spbase + (o - c.spbase) else o
    let (id, s) := s.fresh
    let c := { c with
      id := id, core := t.core, team := tk, spbase := t.spbase, sp := sp c.sp, bmp := sp c.bmp
      units := c.allUnits, got := [], bytes := 0, fails := [], pinned := [] }
    let s := { s with copies := s.copies ++ [c] }
    let pins := if c.minor = 2 ∧ c.tlr.pdt ≠ 0 then c.units.map fun u => Instr.pdtPin id u else []
    (s.pendAll pins).pend (.copyComplete id (.unit 0))

/-- The end of a resume (R396, steps 4 to 6): the copies are issued again, the held readyings launched, and the context is
resident. -/
def State.resumeEnd (s : State) (c : Nat) : State :=
  let s := (s.saved c).copies.foldl (fun s x => s.reissue x) s
  let s := (s.modSave c fun v => { v with copies := [] }).launchHeld c
  let s := (s.modCtx c fun x => { x with goal := 0, draining := false, pushed := false }).setCtxState c 0
  let due := s.graphs.flatMap fun (e : Nat × Graph) => if e.2.ctx = c then e.2.todo.map fun _ => Instr.frontEndLaunch c 8 else []
  ((s.pendQueues c).pendAll due).unpend (.resume c)

/-- The saved event records go back to the cores that held them (R396, step 2). -/
def State.pushEvents (s : State) (c : Nat) : State :=
  let s := (s.saved c).events.foldl (fun s e => s.modCore e.1 fun k => { k with evq := k.evq ++ [e.2] }) s
  (s.modSave c fun v => { v with events := [] }).modCtx c fun x => { x with pushed := true }

/-- A resume goes on: the events follow the replay list, and the end the last saved team placed. -/
def State.resumeNext (s : State) (c : Nat) : State :=
  match tget s.ctxs c with
  | none => s
  | some x =>
    if !x.pushed then (if x.replays.isEmpty then s.pushEvents c else s).pendOnce (.resume c)
    else if (s.saved c).teams.isEmpty then s.resumeEnd c
    else s.pendOnce (.resume c)

/-- RESUME (R396): command 2, from saved. It goes on, once more at a time, until the replay list has been applied and every
saved team has been placed; the command itself is ignored in any other state (R390). -/
def execResume (ctx : Nat) (s : State) : Res :=
  .next (match tget s.ctxs ctx with
    | none => s
    | some x =>
      if x.state = 2 then
        let v := s.saved ctx
        let s := s.setCtxState ctx 3
        let s := s.modCtx ctx fun x => { x with replays := v.replays, pushed := false }
        ((s.modSave ctx fun v => { v with replays := [] }).pendReplay ctx).pendOnce (.resume ctx)
      else if x.state = 3 ∧ x.goal ≠ 4 then s.resumeNext ctx
      else s)

/-! ### Reset (R400) -/

/-- Every team and the control threads of a context are killed; nothing of them is kept. -/
def State.killTeams (s : State) (c : Nat) : State :=
  let ts := s.teams.filter fun (e : Nat × Team) => e.2.ctx == c
  let s := ts.foldl (fun (s : State) (e : Nat × Team) =>
    (s.removeTeam e.1).spadUndef e.2.core e.2.spbase e.2.vals.spbytes) s
  let s := (s.saved c).draining.foldl (fun s t => s.spadUndef t.core t.spbase t.vals.spbytes) s
  { s with
    cores := s.cores.map fun (e : Nat × Core) =>
      if e.2.ccWcb ≠ 0 ∧ e.2.ccCtx = c then (e.1, { e.2 with cc := none, ccWcb := 0 }) else e
    launches := s.launches.filter fun (e : Nat × Launch) => e.2.ctx != c
    graphs := s.graphs.filter fun (e : Nat × Graph) => e.2.ctx != c
    kvq := s.kvq.filter fun (o : KvOp) => o.ctx != c
    kvPools := s.kvPools.filter fun (p : KvPool) => p.ctx != c }

/-- What the memory system and the translation hold of a context. -/
def State.forgetCtx (s : State) (c : Nat) : State :=
  let (_, s) := s.squash c
  let (_, s) := s.takeEvents c
  let s := (s.tr.migrs.filter fun (m : Migr) => m.ctx == c).foldl (fun s m => s.endMigr m) s
  let gone := s.tr.batches.filter fun b => b.ctx == c
  let tr := { s.tr with
    batches := s.tr.batches.filter fun b => b.ctx != c
    slotWaits := s.tr.slotWaits.filter fun x => x.ctx != c
    owners := s.tr.owners }
  let sw := { s.sw with regions := s.sw.regions.filter fun (r : Region) => r.ctx != c }
  let s := { s with tr := tr, sw := sw, saves := terase s.saves c }
  let s := (dedup (gone.map (·.core))).foldl (fun s k => s.openDeferred k) s
  s.invalidateCtx c

/-- Are counter decrements of a context still to be performed? -/
def State.decrementing (s : State) (c : Nat) : Bool := s.pending.any fun i => match i with
  | .dcDecrement k _ _ => k == c
  | _ => false

/-- A reset's one pass, and its end once the context's near-memory commands have completed and their counter decrements have
been performed: SSTATE and STATE are written then. -/
def State.resetCtx (s : State) (c : Nat) : State :=
  match tget s.ctxs c with
  | none => s
  | some x =>
    if x.state = 6 then s
    else if x.state = 5 then
      if (s.nms.any fun (n : NmCmd) => n.ctx == c) || s.decrementing c then s.pendOnce (.reset c)
      else (((s.physWrite x.save 4 0).modCtx c fun x => { x with waiting := [] }).setCtxState c 6).unpend (.reset c)
    else
      let s := s.setCtxState c 5
      let s := (s.killTeams c).forgetCtx c
      let s := s.modCtx c fun x => { x with
        replays := [], fpages := 0, waiting := [], goal := 0, draining := false, pushed := false, visit := 0 }
      s.pendOnce (.reset c)

/-- RESET (R400): command 3. -/
def execReset (ctx : Nat) (s : State) : Res := .next (s.resetCtx ctx)

/-- FLR (R405): as a reset command of context f. -/
def execFlr (fn : Nat) (s : State) : Res := .next (s.resetCtx fn)

end Sys2Proof.Machine
end

