-- ==== Sys2Proof/Machine/Host.lean ====
section
/-! DEFINITION. The host links (R404 to R409): doorbells, the control page, binding a context and a control-core task, MSI-X,
ATS and PRI, and accesses of host agents (R202). -/

namespace Sys2Proof.Machine

/-! ### Doorbells (R408) -/

/-- DOORBELL (R408): an acceptable count becomes the queue's TAIL, and the entries under it may be read. -/
def execDoorbell (ctx q : Nat) (v : Word) (s : State) : Res :=
  .next (match tget s.ctxs ctx with
    | none => s
    | some x =>
      let a := (x.qwcb[q]?).getD 0
      if x.state = 6 ∨ a = 0 then s
      else match s.readWcb ctx a, s.peekPa ctx a with
        | some w, some pa =>
          let tail := bits w 1695 1664
          let head := bits w 1663 1632
          let d := (v.toNat + 2 ^ 32 - tail) % 2 ^ 32
          let used := (v.toNat + 2 ^ 32 - head) % 2 ^ 32
          if d < 2 ^ 31 ∧ used ≤ 2 ^ bits w 1607 1600 then
            ((s.physWrite (pa + 208) 4 v.toNat).modCtx ctx fun x => { x with qtail := x.qtail.set q (some v.toNat) }).pend
              (.frontEndLaunch ctx q)
          else s
        | _, _ => s)

/-! ### The control page (R390, R407) -/

/-- CTXWCB_WRITE (R407): while the context is absent, its WCB is read and it becomes resident. -/
def execCtxwcbWrite (ctx : Nat) (v : DWord) (s : State) : Res :=
  .next (match tget s.ctxs ctx with
    | none => s
    | some x =>
      let pa := v.toNat
      if x.state ≠ 6 ∨ pa % 256 ≠ 0 ∨ !s.present pa then s
      else
        let w := s.physNat pa 256
        (s.modCtx ctx fun x => { x with
          wcb := pa, ptroot := bits w 1599 1536, ctbase := bits w 1663 1600, ctsize := bits w 1695 1664
          plimit := bits w 1727 1696, save := bits w 1791 1728, fq := bits w 1855 1792, err := bits w 1919 1856
          prio := bits w 19 16, recs := 1, fpages := 0, fqueue := [], replays := [], waiting := [], visit := 0, nextq := 0
          goal := 0, draining := false, pushed := false, qtail := List.replicate 8 none }).setCtxState ctx 0)

/-- The control core of a core is unbound: its thread ends with what it waits for. -/
def State.unbind (s : State) (core : Nat) : State :=
  match tget s.cores core with
  | none => s
  | some k =>
    let s := match k.cc.bind s.warp with
      | some w => s.removeTeam w.team
      | none => s
    s.modCore core fun k => { k with cc := none, ccWcb := 0 }

/-- A task is bound to a core's control core (R369): its one thread begins at ENTRY. -/
def State.bind (s : State) (ctx core : Nat) (v : TaskVals) : State :=
  let (tk, s) := s.fresh
  let (wk, s) := s.fresh
  let (e, s) := s.fresh
  let v := { v with w := 1, warps := 1, teams := 1, spbytes := 0, tiles := 0, xblk := 0, help := 0, det := false, ranges := [] }
  let t : Team := {
    ctx := ctx, launch := 0, idx := 0, vals := v, twcb := v.wcb, core := core, first := 0, spbase := 0, tiles := [], bars := []
    restarts := 0, dcstatus := 0, warps := [some wk], ended := [], det := none, recTiles := [], recExt := [], reserved := []
    tindex := 0 }
  let w := freshWarp .control tk core 0 0 0 1 v (e + 1)
  let s := { s with teams := tset s.teams tk t, warps := tset s.warps wk w }
  s.modCore core fun k => { k with cc := some wk, ccWcb := v.wcb, ccCtx := ctx }

/-- CCTASK_WRITE (R407): the control core named by CCCORE is bound or unbound, or the write is refused with a record. The
record's REASON is open where the table of R386 has none. -/
def execCctaskWrite (ctx : Nat) (v : DWord) (s : State) : Res :=
  .next (match tget s.ctxs ctx with
    | none => s
    | some x =>
      let core := x.cccore
      if x.state = 6 ∨ x.state = 5 then s
      else
        let refuse (s : State) (reason : Nat) : State := s.ctxRecord ctx { kind := 2, src := 6, reason := reason }
        match tget s.cores core with
        | none => let (r, s) := s.freeWord; refuse s r.toNat
        | some k =>
          if k.ccWcb ≠ 0 ∧ k.ccCtx ≠ ctx then let (r, s) := s.freeWord; refuse s r.toNat
          else if v = 0 then (if k.ccWcb ≠ 0 then s.unbind core else s)
          else match s.checkWcb ctx v.toNat false with
            | .task t => (s.unbind core).bind ctx core t
            | .refused r => refuse s r
            | .graph _ => refuse s 1)

/-! ### Registers without a behaviour of their own -/

/-- A word of a function's MSI-X table is written; a vector that is unmasked while pending sends its message. -/
def State.msixWrite (s : State) (fn word : Nat) (v : Word) : State :=
  if 64 ≤ fn ∨ 16 ≤ word then s
  else
    let s := { s with hl := { s.hl with msix := tset s.hl.msix (fn * 16 + word) v } }
    let vec := word / 4
    let pba := (tget s.hl.pba fn).getD 0
    if word % 4 = 3 ∧ v.getLsbD 0 = false ∧ pba.testBit vec then
      { s with hl := { s.hl with pba := tset s.hl.pba fn (pba ^^^ 2 ^ vec) } }.signal fn vec
    else s

/-- REGISTER_WRITE (R390, R407, R424): a value outside the register's range is ignored. -/
def execRegisterWrite (reg : HostReg) (v : DWord) (s : State) : Res :=
  .next (
    let n := v.toNat
    match reg with
    | .fldlim f => if f < 4 ∧ 2000 ≤ n ∧ n ≤ 9000 then { s with mg := { s.mg with fldlim := s.mg.fldlim.set f n } } else s
    | .pkglim => if 10000 ≤ n ∧ n ≤ 28000 then { s with mg := { s.mg with pkglim := n } } else s
    | .actcap => if 1024 ≤ n ∧ n ≤ 16384 then { s with mg := { s.mg with actcap := n } } else s
    | .drain c => if n < 2 ^ 32 then s.modCtx c fun x => { x with drain := BitVec.ofNat 32 n } else s
    | .ptwaddr c => if n % 8 = 0 then s.modCtx c fun x => { x with ptwaddr := v } else s
    | .pasid c =>
      if n < 2 ^ 32 ∧ bits n 30 20 = 0 then
        s.modCtx c fun x => { x with pasiden := n.testBit 31, pasid := BitVec.ofNat 20 (n % 2 ^ 20) }
      else s
    | .qwcb c q => s.modCtx c fun x => if x.state = 6 ∧ q < 8 then { x with qwcb := x.qwcb.set q n } else x
    | .cccore c => if n < 48 then s.modCtx c fun x => { x with cccore := n } else s
    | .msix fn w => if n < 2 ^ 32 then s.msixWrite fn w (BitVec.ofNat 32 n) else s)

/-! ### Links, ATS and PRI (R409) -/

/-- Buffered writes to host memory leave their buffers. -/
def State.postHost (s : State) : State :=
  (s.m.tbuf.filter fun w => match w.loc with
    | .host _ _ => true
    | _ => false).foldl (fun s w => s.postWr w (s.ctxOf w.warp)) s

/-- HOST_LINK_DOWN (R409): accesses use the other link; what the link's translation held or asked for is gone. -/
def execHostLinkDown (link : Nat) (s : State) : Res :=
  .next { s with hl := { s.hl with
    up := s.hl.up.set link false
    ats := s.hl.ats.filter fun e => e.link != link
    pri := s.hl.pri.filter fun e => e.1 != link
    refused := s.hl.refused.filter fun e => e.1 != link } }

/-- HOST_LINK_UP (R409); a device that its start left off the host links has none (R418). -/
def execHostLinkUp (link : Nat) (s : State) : Res :=
  .next (if s.mg.offLinks then s else { s with hl := { s.hl with up := s.hl.up.set link true } })

/-- Is an untranslated host frame part of the HOST page of a leaf? -/
def hostPage (leaf lg frame : Nat) : Bool :=
  leafTier leaf == 1 && leafFrame leaf / 65536 ≤ frame && frame < (leafFrame leaf + 2 ^ lg) / 65536

/-- Does a helper hold a write that a host translation has placed in this block? -/
def State.heldHost (s : State) (pasid : Option (BitVec 20)) (block : Nat) : Bool :=
  s.warps.any fun e => (e.2.recruit.map fun r => r.helpers.any fun (h : Helper) => h.buf.any fun b => match b.loc with
    | .host c a => s.pasidOf c == pasid && a / 65536 == block
    | _ => false).getD false

/-- ATS_INVALIDATE (R409): it completes once no access that uses the old translation is left, a helper's write not committed
yet among them; a migration that uses it begins its attempt again (DESIGN CHOICE 91). -/
def execAtsInvalidate (link : Nat) (pasid : Option (BitVec 20)) (frame : Nat) (s : State) : Res :=
  .next (
    let key := (link, pasid, frame)
    let s := s.postHost
    if s.hl.xlats.any fun e => e.of key && s.heldHost pasid e.host then s.pend (.atsInvalidate link pasid frame)
    else
      let s := s.noteMigr fun m => s.pasidOf m.ctx == pasid &&
        (hostPage m.oldLeaf.toNat m.lg frame || hostPage m.newLeaf.toNat m.lg frame)
      { s with hl := { s.hl with
        ats := s.hl.ats.filter fun e => !e.of key
        xlats := s.hl.xlats.filter fun e => !e.of key } })

/-- PRI_RESPONSE (R409): the translation, which grants reads and writes (DESIGN CHOICE 107), is cached, or its refusal kept for
the access that asked. -/
def execPriResponse (link : Nat) (pasid : Option (BitVec 20)) (frame : Nat) (granted : Option Nat) (s : State) : Res :=
  .next (
    let key := (link, pasid, frame)
    if !s.hl.pri.contains key then s
    else
      let hl := { s.hl with pri := s.hl.pri.erase key }
      match granted with
      | none => { s with hl := { hl with refused := hl.refused ++ [key] } }
      | some f =>
        let e : AtsEnt := { link := link, pasid := pasid, frame := frame, host := f, perm := 3 }
        { s with hl := (hl.learn e).fill e })

/-! ### Host agents (R202, R203) -/

/-- Work that host writes may have made possible: fault records that wait, and replays. -/
def State.afterHost (s : State) : State :=
  s.ctxs.foldl (fun (s : State) (e : Nat × Ctx) =>
    let s := s.flushFaults e.1
    if e.2.state = 6 then s else s.pend (.replayConsume e.1)) s

/-- Does an agent outside the device reach `n` bytes at `a`: all of them in stacks that the device presents (R2)? -/
def State.reachable (s : State) (a n : Nat) : Bool := s.present a && s.present (a + n - 1)

def State.answered (s : State) (data : List Byte) : State := { s with hl := { s.hl with answer := data } }

/-! ### The BAR (R406) -/

/-- The 64 bits of a function's BAR at offset `8 * k`: unassigned bytes, and registers that are only written, read as zero
(DESIGN CHOICE 79). -/
def State.barQword (s : State) (fn k : Nat) : Nat :=
  match tget s.ctxs fn with
  | none => 0
  | some x =>
    let off := 8 * k
    let word (i : Nat) : Nat := ((tget s.hl.msix (fn * 16 + i)).getD (if i % 4 = 3 then 1 else 0)).toNat
    if off = 0x008 then x.state
    else if off = 0x010 then x.ptgen.toNat
    else if off = 0x030 then x.wcb
    else if off = 0x038 then (if x.pasiden then 2 ^ 31 else 0) + x.pasid.toNat
    else if 0x040 ≤ off ∧ off < 0x080 then x.qwcb.getD (k - 8) 0
    else if 0x2000 ≤ off ∧ off < 0x2040 then word (2 * k - 0x800) + at_ (word (2 * k + 1 - 0x800)) 32
    else if off = 0x3000 then (tget s.hl.pba fn).getD 0
    else 0

/-- A byte of a function's BAR. -/
def State.barByte (s : State) (fn off : Nat) : Byte := BitVec.ofNat 8 (s.barQword fn (off / 8) / 2 ^ (off % 8 * 8))

/-- A write of CMD (R390). -/
def execCmd (fn cmd : Nat) (drain : Word) (s : State) : Res :=
  match cmd % 256 with
  | 1 => execPreempt fn drain s
  | 2 => execResume fn s
  | 3 => execReset fn s
  | _ => .next s

/-- What a write into a function's BAR does: 32-bit registers take aligned writes of 4 bytes or their half of one of 8, 64-bit
registers aligned writes of 8 (DESIGN CHOICE 79); every other write is dropped. -/
def execBarWrite (fn off : Nat) (data : List Byte) (s : State) : Res :=
  let n := data.length
  let v := leNat data
  let word : Word := BitVec.ofNat 32 v
  let high : Word := BitVec.ofNat 32 (v / 2 ^ 32)
  let dword : DWord := BitVec.ofNat 64 v
  let drain := ((tget s.ctxs fn).map (·.drain)).getD 0
  if off % n ≠ 0 ∨ (n ≠ 4 ∧ n ≠ 8) ∨ 64 ≤ fn then .next s
  else if off = 0x000 then
    (if n = 8 then execCmd fn v high (s.modCtx fn fun x => { x with drain := high }) else execCmd fn v drain s)
  else if off = 0x004 then execRegisterWrite (.drain fn) (word.zeroExtend 64) s
  else if off = 0x028 then execReplayDoorbell fn word s
  else if off = 0x038 then execRegisterWrite (.pasid fn) (word.zeroExtend 64) s
  else if off = 0x080 then execRegisterWrite (.cccore fn) (BitVec.ofNat 64 (v % 64)) s
  else if 0x1000 ≤ off ∧ off < 0x1040 ∧ off % 8 = 0 then execDoorbell fn ((off - 0x1000) / 8) word s
  else if 0x2000 ≤ off ∧ off < 0x2040 then
    let s := s.msixWrite fn ((off - 0x2000) / 4) word
    .next (if n = 8 then s.msixWrite fn ((off - 0x2000) / 4 + 1) high else s)
  else if n = 4 then .next s
  else if off = 0x018 then execRegisterWrite (.ptwaddr fn) dword s
  else if off = 0x020 then execPtwdataWrite fn dword s
  else if off = 0x030 then execCtxwcbWrite fn dword s
  else if off = 0x088 then execCctaskWrite fn dword s
  else if 0x040 ≤ off ∧ off < 0x080 then execRegisterWrite (.qwcb fn ((off - 0x040) / 8)) dword s
  else .next s

/-! ### Error reporting (R404; its registers PRESUMED 93) -/

/-- The reset value of an error reporting register. -/
def aerReset : Nat → Word
  | 1 => 0x0040_0000
  | 2 => 0x0046_2030
  | 4 => 0x0000_E000
  | _ => 0

/-- The bits of an error reporting register that a write reaches. -/
def aerBits : Nat → Word
  | 0 => 0x0057_F030
  | 1 => 0x0057_F030
  | 2 => 0x0057_F030
  | 3 => 0x0000_F1C1
  | 4 => 0x0000_F1C1
  | _ => 0

/-- An error reporting register of a function on a link. -/
def State.aerWord (s : State) (link fn k : Nat) : Word :=
  (tget s.hl.aer ((link * 64 + fn) * 16 + k)).getD (aerReset k)

def State.setAer (s : State) (link fn k : Nat) (v : Word) : State :=
  { s with hl := { s.hl with aer := tset s.hl.aer ((link * 64 + fn) * 16 + k) v } }

/-- A write of an error reporting register: status bits written with 1 clear, mask and severity bits take the value. -/
def State.aerPut (s : State) (link fn k : Nat) (v : Word) : State :=
  let old := s.aerWord link fn k
  let m := aerBits k
  s.setAer link fn k (if k = 0 ∨ k = 3 then old &&& ~~~(v &&& m) else (old &&& ~~~m) ||| (v &&& m))

/-- An error of a link sets its status bit; the first uncorrectable one that is not masked stays named in the control
register, with the header it came with. -/
def State.aerError (s : State) (link fn : Nat) (correctable : Bool) (bit : Nat) : State :=
  let k := if correctable then 3 else 0
  let b : Word := 1#32 <<< bit
  if b &&& aerBits k = 0 then s
  else
    let first := (s.aerWord link fn 5).toNat % 32
    let free := !(s.aerWord link fn 0).getLsbD first
    let s := s.setAer link fn k (s.aerWord link fn k ||| b)
    if correctable || !free || s.aerWord link fn 1 &&& b != 0 then s
    else
      let s := s.setAer link fn 5 (BitVec.ofNat 32 bit)
      (List.range 4).foldl (fun s j => let (h, s) := s.freeWord; s.setAer link fn (6 + j) h) s

/-- HOST_AGENT_ACCESS (R202, R404, R406). A function's error reporting registers are reached over its own link, while it is
up. -/
def execHostAgentAccess (acc : HostAccess) (s : State) : Res :=
  match acc with
  | .read c a n => .next (
      if s.reachable a n then let (bs, _, s) := s.outsideRead c a n; s.answered bs else s.answered (List.replicate n 0))
  | .write c a data => .next (
      if s.reachable a data.length then (s.outsideWrite c a data true).afterHost else s)
  | .hostWrite a data => .next { s with m := { s.m with host := mstore s.m.host a data } }
  | .peerWrite _ _ _ => .next s
  | .barRead fn off n => .next (s.answered ((List.range n).map fun i => s.barByte fn (off + i)))
  | .barWrite fn off data => execBarWrite fn off data s
  | .atsEnable link fn on => .next (
      let rest := s.hl.atsOn.filter (· != (link, fn))
      { s with hl := { s.hl with atsOn := if on then rest ++ [(link, fn)] else rest } })
  | .aerRead link fn k => .next (if s.hl.up.getD link false then s.answered (leBytes 4 (s.aerWord link fn k).toNat) else s)
  | .aerWrite link fn k v => .next (if s.hl.up.getD link false then s.aerPut link fn k v else s)
  | .linkError link fn cor b => .next (s.aerError link fn cor b)

end Sys2Proof.Machine
end

