-- ==== Sys2Proof/Machine/IntAlu.lean ====
section
/-! DEFINITION. Integer ALU2 (R105, R109 to R114, R120). -/

namespace Sys2Proof.Machine

/-- (sa × sb)[63:32]. -/
def mulHighS (a b : Word) : Word := BitVec.ofInt 32 (a.toInt * b.toInt / 2 ^ 32)

/-- (na × nb)[63:32]. -/
def mulHighN (a b : Word) : Word := BitVec.ofNat 32 (a.toNat * b.toNat / 2 ^ 32)

/-- Shifts by an unreduced count (R110). -/
def shiftLeft (a b : Word) : Word := if 32 ≤ b.toNat then 0 else a <<< b.toNat

def shiftRightN (a b : Word) : Word := if 32 ≤ b.toNat then 0 else a >>> b.toNat

def shiftRightS (a b : Word) : Word := a.sshiftRight (min b.toNat 31)

/-- Offset and width of a bit field's control word (R111). -/
def fieldOffset (b : Word) : Nat := (b.extractLsb' 0 5).toNat

def fieldWidth (b : Word) : Nat := min (b.extractLsb' 8 6).toNat (32 - fieldOffset b)

def bitExtract (a b : Word) : Word :=
  let w := fieldWidth b
  if w = 0 then 0
  else
    let f := (a >>> fieldOffset b).toNat % 2 ^ w
    if b.getLsbD 15 then BitVec.ofInt 32 (sext w f) else BitVec.ofNat 32 f

def bitInsert (a b c : Word) : Word :=
  let m : Word := BitVec.ofNat 32 ((2 ^ fieldWidth b - 1) * 2 ^ fieldOffset b)
  (c &&& ~~~m) ||| ((a <<< fieldOffset b) &&& m)

/-- The byte a selector nibble makes (R112). -/
def permByte (a : Word) (n : BitVec 4) : Byte :=
  let y : Byte := a.extractLsb' (8 * (n.extractLsb' 0 2).toNat) 8
  if n.getLsbD 2 then 0 else if n.getLsbD 3 then (if y.getLsbD 7 then 0xFF else 0) else y

def permBytes (a b : Word) : Word :=
  let y (k : Nat) : Byte := permByte a (b.extractLsb' (4 * k) 4)
  y 3 ++ y 2 ++ y 1 ++ y 0

/-- A two-source integer word: every active lane's D takes `op` of its operands. -/
def State.alu2 (s : State) (f : FmtA) (op : Word → Word → Word) : State :=
  s.withRegs (vregsOf f.ta f.a ++ vregsOf f.tb f.b) [f.d.toNat] fun i s =>
    s.writeLanes i f.d.toNat fun l => op (s.opnd i l f.ta f.a) (s.opnd i l f.tb f.b)

/-- A three-source integer word (R74). -/
def State.alu3 (s : State) (f : FmtA) (op : Word → Word → Word → Word) : State :=
  match s.iss with
  | none => s
  | some i =>
    let c := i.cOpnd f.d
    s.withRegs (vregsOf f.ta f.a ++ vregsOf f.tb f.b ++ vregsOf c.1 c.2) [f.d.toNat] fun i s =>
      s.writeLanes i f.d.toNat fun l => op (s.opnd i l f.ta f.a) (s.opnd i l f.tb f.b) (s.opnd i l c.1 c.2)

/-- IADD (R109). -/
def execIadd (f : FmtA) (s : State) : Res := .next (s.alu2 f (fun a b => a + b))

/-- ISUB (R109). -/
def execIsub (f : FmtA) (s : State) : Res := .next (s.alu2 f (fun a b => a - b))

/-- IMUL (R109). -/
def execImul (f : FmtA) (s : State) : Res := .next (s.alu2 f (fun a b => a * b))

/-- IMULHS (R109). -/
def execImulhs (f : FmtA) (s : State) : Res := .next (s.alu2 f mulHighS)

/-- IMULHN (R109). -/
def execImulhn (f : FmtA) (s : State) : Res := .next (s.alu2 f mulHighN)

/-- IMINS (R109). -/
def execImins (f : FmtA) (s : State) : Res := .next (s.alu2 f (fun a b => if a.slt b then a else b))

/-- IMINN (R109). -/
def execIminn (f : FmtA) (s : State) : Res := .next (s.alu2 f (fun a b => if a.ult b then a else b))

/-- IMAXS (R109). -/
def execImaxs (f : FmtA) (s : State) : Res := .next (s.alu2 f (fun a b => if b.slt a then a else b))

/-- IMAXN (R109). -/
def execImaxn (f : FmtA) (s : State) : Res := .next (s.alu2 f (fun a b => if b.ult a then a else b))

/-- IADDSAT (R109). -/
def execIaddsat (f : FmtA) (s : State) : Res := .next (s.alu2 f (fun a b => satS32 (a.toInt + b.toInt)))

/-- ISUBSAT (R109). -/
def execIsubsat (f : FmtA) (s : State) : Res := .next (s.alu2 f (fun a b => satS32 (a.toInt - b.toInt)))

/-- AND (R109). -/
def execAnd (f : FmtA) (s : State) : Res := .next (s.alu2 f (fun a b => a &&& b))

/-- OR (R109). -/
def execOr (f : FmtA) (s : State) : Res := .next (s.alu2 f (fun a b => a ||| b))

/-- XOR (R109). -/
def execXor (f : FmtA) (s : State) : Res := .next (s.alu2 f (fun a b => a ^^^ b))

/-- ANDN (R109). -/
def execAndn (f : FmtA) (s : State) : Res := .next (s.alu2 f (fun a b => a &&& ~~~b))

/-- SHL (R110). -/
def execShl (f : FmtA) (s : State) : Res := .next (s.alu2 f shiftLeft)

/-- SHRN (R110). -/
def execShrn (f : FmtA) (s : State) : Res := .next (s.alu2 f shiftRightN)

/-- SHRS (R110). -/
def execShrs (f : FmtA) (s : State) : Res := .next (s.alu2 f shiftRightS)

/-- BFX (R111). -/
def execBfx (f : FmtA) (s : State) : Res := .next (s.alu2 f bitExtract)

/-- PERM (R112). -/
def execPerm (f : FmtA) (s : State) : Res := .next (s.alu2 f permBytes)

/-- PACK2 (R120). -/
def execPack2 (f : FmtA) (s : State) : Res := .next (s.alu2 f (fun a b => packHalves (half b 0) (half a 0)))

/-- IMAD (R109). -/
def execImad (f : FmtA) (s : State) : Res := .next (s.alu3 f (fun a b c => a * b + c))

/-- BFI (R111). -/
def execBfi (f : FmtA) (s : State) : Res := .next (s.alu3 f bitInsert)

/-- SEL (R113): the old D is a third value. -/
def execSel (f : FmtA) (s : State) : Res :=
  .next (s.withRegs (vregsOf f.ta f.a ++ vregsOf f.tb f.b ++ [f.d.toNat]) [f.d.toNat] fun i s =>
    s.writeLanes i f.d.toNat fun l =>
      if s.opnd i l f.ta f.a = 0 then s.rdV i l f.d.toNat else s.opnd i l f.tb f.b)

/-- IADD64 (R114). -/
def execIadd64 (f : FmtA) (s : State) : Res :=
  .next (s.withRegs (vpairOf f.ta f.a ++ vpairOf f.tb f.b) [f.d.toNat, f.d.toNat + 1] fun i s =>
    s.writePairs i f.d.toNat fun l => s.opnd64 i l f.ta f.a + s.opnd64 i l f.tb f.b)

end Sys2Proof.Machine
end

