-- ==== Sys2Proof/Machine/Unary.lean ====
section
/-! DEFINITION. The unary family, conversions and compares (R121 to R128), and the return of a special function
(SFU_RESULT). -/

namespace Sys2Proof.Machine

/-- A unary integer word. -/
def State.alu1 (s : State) (f : FmtU) (op : Issue → Word → Word) : State :=
  s.withRegs (vregsOf f.ta f.a) [f.d.toNat] fun i s =>
    s.writeLanes i f.d.toNat fun l => op i (s.opnd i l f.ta f.a)

/-- A unary float word on the V pipe; `op` sees the source after its modifiers. -/
def State.falu1 (s : State) (f : FmtU) (op : Issue → Num → Word) : State :=
  s.withRegs (vregsOf f.ta f.a) [f.d.toNat] fun i s =>
    s.writeLanes i f.d.toNat fun l => op i (i.modA (f32 (s.opndF i l .f32 false f.ta f.a)))

def countBits (w : Word) : Nat := ((List.range 32).filter fun k => w.getLsbD k).length

/-- Zero bits above the highest set bit. -/
def leadingZeros (w : Word) : Nat := if w = 0 then 32 else 31 - Nat.log2 w.toNat

/-- MOV (R121). -/
def execMov (f : FmtU) (s : State) : Res := .next (s.alu1 f (fun _ a => a))

/-- NOT (R121). -/
def execNot (f : FmtU) (s : State) : Res := .next (s.alu1 f (fun _ a => ~~~a))

/-- INEG (R121). -/
def execIneg (f : FmtU) (s : State) : Res :=
  .next (s.alu1 f (fun i a => if i.sat then satS32 (-a.toInt) else -a))

/-- IABS (R121). -/
def execIabs (f : FmtU) (s : State) : Res :=
  .next (s.alu1 f (fun i a => if i.sat then satS32 a.toInt.natAbs else BitVec.ofInt 32 a.toInt.natAbs))

/-- CLZ (R121). -/
def execClz (f : FmtU) (s : State) : Res := .next (s.alu1 f (fun _ a => BitVec.ofNat 32 (leadingZeros a)))

/-- POPC (R121). -/
def execPopc (f : FmtU) (s : State) : Res := .next (s.alu1 f (fun _ a => BitVec.ofNat 32 (countBits a)))

/-- BREV (R121). -/
def execBrev (f : FmtU) (s : State) : Res := .next (s.alu1 f (fun _ a => a.reverse))

/-- MOV64 (R121). -/
def execMov64 (f : FmtU) (s : State) : Res :=
  .next (s.withRegs (vpairOf f.ta f.a) [f.d.toNat, f.d.toNat + 1] fun i s =>
    s.writePairs i f.d.toNat fun l => s.opnd64 i l f.ta f.a)

/-- A special function is computed at issue and returned by SFU_RESULT; until then it holds D and counts on its flag
(R122). A helper's counts on its own flags. -/
def State.sfu (s : State) (f : FmtU) (fn : SfuFn) : State :=
  s.withRegs (vregsOf f.ta f.a) [f.d.toNat] fun i s =>
    let flag := s.flagOf i none
    let res (l : Nat) : Word :=
      sfuResult fn i.mode ((i.pfx.map (·.nega)).getD 0 == 1) ((i.pfx.map (·.absa)).getD 0 == 1)
        (s.opndF i l .f32 false f.ta f.a)
    let start (t : State) (h : Option Nat) (ls : List Nat) : State :=
      let o := { blankOp i.warp (.sfu (ls.map fun l => (l, f.d.toNat, res l))) with
        helper := h, lanes := ls, flag := flag, vdests := ls.map fun l => (l, f.d.toNat) }
      let (id, t) := t.startOp o
      t.pend (.sfuResult id)
    let act := s.acting i
    match i.kind with
    | .thread =>
      if !s.flagRoom i.warp none flag then s.stall
      else if act.isEmpty then s else start s none act
    | .helper =>
      if act.any fun l => !s.flagRoom i.warp (some l) flag then s.stall
      else act.foldl (fun t l => start t (some l) [l]) s

/-- FRCP (R122 to R124). -/
def execFrcp (f : FmtU) (s : State) : Res := .next (s.sfu f .rcp)

/-- FRSQ (R122 to R124). -/
def execFrsq (f : FmtU) (s : State) : Res := .next (s.sfu f .rsq)

/-- FSQRT (R122 to R124). -/
def execFsqrt (f : FmtU) (s : State) : Res := .next (s.sfu f .sqrt)

/-- FEXP2 (R122 to R124). -/
def execFexp2 (f : FmtU) (s : State) : Res := .next (s.sfu f .exp2)

/-- FLOG2 (R122 to R124). -/
def execFlog2 (f : FmtU) (s : State) : Res := .next (s.sfu f .log2)

/-- FSINT (R122, R125). -/
def execFsint (f : FmtU) (s : State) : Res := .next (s.sfu f .sint)

/-- FCOST (R122, R125). -/
def execFcost (f : FmtU) (s : State) : Res := .next (s.sfu f .cost)

/-- FTANH (R122 to R124). -/
def execFtanh (f : FmtU) (s : State) : Res := .next (s.sfu f .tanh)

/-- SFU_RESULT (R122): the last pass writes D and the flag falls. -/
def execSfuResult (op : Nat) (s : State) : Res :=
  .next (match s.op op with
    | none => s
    | some o => match o.kind with
      | .sfu res => (res.foldl (fun t e => t.landV o e.1 e.2.1 e.2.2) s).endOp op
      | _ => s)

/-- The integer a value rounds to, keeping its sign at zero (R126). -/
def roundIntegral (mode : RMode) (v : Num) : Num :=
  match v with
  | .fin n m e => .fin n (roundInt mode n m e).natAbs 0
  | v => v

/-- FRND (R126). -/
def execFrnd (f : FmtU) (s : State) : Res :=
  .next (s.falu1 f (fun i a => toF32 (roundIntegral i.mode a) .rne false))

/-- FFRACT (R126). -/
def fractOf (a : Num) : Word :=
  match a with
  | .fin n m e => if m = 0 then 0 else
    toF32 (sumExact .rz [.fin n m e, (Num.ofInt (roundInt .rdn n m e)).negate]) .rz false
  | _ => 0x7FC0_0000

/-- FFRACT (R126). -/
def execFfract (f : FmtU) (s : State) : Res := .next (s.falu1 f (fun _ a => fractOf a))

/-- The class bit of a value (R126). -/
def classOf (a : Num) : Word :=
  match a with
  | .nan => 0x100
  | .inf n => if n then 1 else 0x80
  | .fin n m e =>
    let normal : Bool := (-126 : Int) ≤ (Nat.log2 m : Int) + e
    if m = 0 then (if n then 8 else 0x10)
    else if normal then (if n then 2 else 0x40) else (if n then 4 else 0x20)

/-- FCLASS (R126). -/
def execFclass (f : FmtU) (s : State) : Res := .next (s.falu1 f (fun _ a => classOf a))

/-- The exact value of the low bits of a word under a source type code (R127). -/
def cvtSource (x : BitVec 3) (a : Word) : Num :=
  if x = 6 then Num.ofInt a.toInt
  else if x = 7 then Num.ofInt a.toNat
  else decodeF (FType.ofCvt x.toNat) (a.toNat % 2 ^ ((FType.ofCvt x.toNat).mb + (FType.ofCvt x.toNat).eb + 1))

/-- Does every value of source type `x` have an encoding of its own in destination type `y`: the widenings of R97? -/
def widens (x y : BitVec 3) : Bool :=
  (decide (3 ≤ x.toNat ∧ x.toNat < 6) && decide (y.toNat < 3)) || ((x == 1 || x == 2) && y == 0)

/-- A conversion of the word `a`, of value `v` under its source type (R97, R127). -/
def cvtResult (x y : BitVec 3) (a : Word) (v : Num) (mode : RMode) (sat : Bool) : Word :=
  if 6 ≤ x.toNat ∧ 6 ≤ y.toNat ∧ !sat then a
  else if y = 6 then toInt32 v true mode sat
  else if y = 7 then toInt32 v false mode sat
  else BitVec.ofNat 32 (roundTo v (FType.ofCvt y.toNat) mode (sat && !widens x y))

/-- CVT (R127). -/
def execCvt (f : FmtCvt) (s : State) : Res :=
  .next (s.withRegs (vregsOf f.ta f.a) [f.d.toNat] fun i s =>
    s.writeLanes i f.d.toNat fun l =>
      let a := if f.x.toNat < 6 then s.opndF i l (FType.ofCvt f.x.toNat) false f.ta f.a else s.opnd i l f.ta f.a
      let v := cvtSource f.x a
      cvtResult f.x f.y a (if f.x.toNat < 6 then i.modA v else v) i.mode (f.s == 1))

/-- A condition of R128 on raw operands; the float conditions read them as f32, under `ma` and `mb`. -/
def condHolds (c : BitVec 4) (a b : Word) (ma mb : Num → Num) : Bool :=
  let x := ma (f32 a)
  let y := mb (f32 b)
  let nan := x.isNaN || y.isNaN
  match c with
  | 0 => a == b
  | 1 => a != b
  | 2 => a.slt b
  | 3 => a.sle b
  | 4 => b.slt a
  | 5 => b.sle a
  | 6 => a.ult b
  | 7 => a.ule b
  | 8 => b.ult a
  | 9 => b.ule a
  | 10 => !nan && x.cmp y < 0
  | 11 => !nan && x.cmp y ≤ 0
  | 12 => !nan && x.cmp y == 0
  | 13 => nan || x.cmp y != 0
  | 14 => nan
  | _ => !nan

/-- CMP (R128). -/
def execCmp (f : FmtC) (s : State) : Res :=
  .next (s.withRegs (vregsOf f.ta f.a ++ vregsOf f.tb f.b) [] fun i s =>
    let rd (l : Nat) (t : BitVec 2) (r : BitVec 7) : Word :=
      if f.cond.toNat < 10 then s.opnd i l t r else s.opndF i l .f32 false t r
    (s.acting i).foldl (fun t l =>
      t.wrP i l f.pd.toNat (condHolds f.cond (rd l f.ta f.a) (rd l f.tb f.b) i.modA i.modB)) s)

end Sys2Proof.Machine
end

