-- ==== Sys2Proof/Machine/Lane.lean ====
section
/-! DEFINITION. The cross-lane family (R132 to R136). -/

namespace Sys2Proof.Machine

/-- The lane operand of a reader: the immediate, or bits [4:0] of the third source (R132). -/
def State.laneOpnd (s : State) (i : Issue) (f : FmtL) (l : Nat) : Nat :=
  if f.lane.getLsbD 5 then
    let c := i.cOpnd f.d
    (s.opnd i l c.1 c.2).toNat % 32
  else f.lane.toNat % 32

/-- The registers of the per-thread lane operand. -/
def laneRegs (s : State) (f : FmtL) : List Nat :=
  match s.iss with
  | none => []
  | some i => if f.lane.getLsbD 5 then let c := i.cOpnd f.d; vregsOf c.1 c.2 else []

/-- a of source lane `src` of the reader's row, or the reader's own where that lane is not active (R132). -/
def State.fromLane (s : State) (i : Issue) (ta : BitVec 2) (a : BitVec 7) (l : Nat) (src : Int) : Word :=
  let t := if 0 ≤ src ∧ src < 32 then l / 32 * 32 + src.toNat else l
  s.opnd i (if (s.acting i).contains t then t else l) ta a

/-- A shuffle: `src` names the source lane of a reader's lane and operand (R133). -/
def State.shuffle (s : State) (f : FmtL) (src : Nat → Nat → Int) : State :=
  s.withThread (vregsOf f.ta f.a ++ laneRegs s f) [f.d.toNat] fun i s =>
    s.writeLanes i f.d.toNat fun l => s.fromLane i f.ta f.a l (src (l % 32) (s.laneOpnd i f l))

/-- SHFLI (R133). -/
def execShfli (f : FmtL) (s : State) : Res := .next (s.shuffle f (fun _ x => (x : Int)))

/-- SHFLU (R133). -/
def execShflu (f : FmtL) (s : State) : Res := .next (s.shuffle f (fun t x => (t : Int) - x))

/-- SHFLD (R133). -/
def execShfld (f : FmtL) (s : State) : Res := .next (s.shuffle f (fun t x => (t : Int) + x))

/-- SHFLX (R133). -/
def execShflx (f : FmtL) (s : State) : Res := .next (s.shuffle f (fun t x => ((t ^^^ x : Nat) : Int)))

/-- SWAPPAIR (R134). -/
def execSwappair (f : FmtL) (s : State) : Res :=
  .next (s.withThread (vregsOf f.ta f.a) [f.d.toNat] fun i s =>
    s.writeLanes i f.d.toNat fun l =>
      let u := l / 32 * 32 + (l % 32 ^^^ 2 ^ (f.lane.toNat % 8))
      let own := s.opnd i l f.ta f.a
      if !(s.acting i).contains u then own
      else
        let other := s.opnd i u f.ta f.a
        if l < u then packHalves (half other 0) (half own 0) else packHalves (half own 1) (half other 1))

/-- The active lanes of the reader's row. -/
def State.rowLanes (s : State) (i : Issue) (l : Nat) : List Nat := (s.acting i).filter fun t => t / 32 == l / 32

/-- BCASTL (R135). -/
def execBcastl (f : FmtU) (s : State) : Res :=
  .next (s.withThread (vregsOf f.ta f.a) [f.d.toNat] fun i s =>
    s.writeLanes i f.d.toNat fun l => s.opnd i ((minNat? (s.rowLanes i l)).getD l) f.ta f.a)

/-- A mask of lanes within their row. -/
def rowMask (ls : List Nat) : Word := BitVec.ofNat 32 (ls.foldl (fun m l => m ||| 2 ^ (l % 32)) 0)

/-- The census of VOTEB (R135) over `scope`, with `val` the a of a lane; `row` makes indices those of the row. -/
def voteResult (mode : Nat) (row : Bool) (scope : List Nat) (val : Nat → Word) : Word :=
  let cs := scope.filter fun l => val l != 0
  let ix (l : Nat) : Word := BitVec.ofNat 32 (if row then l % 32 else l)
  match mode with
  | 0 => rowMask cs
  | 1 => BitVec.ofNat 32 cs.length
  | 2 => ((minNat? cs).map ix).getD 0xFFFF_FFFF
  | 3 => (cs.max?.map ix).getD 0xFFFF_FFFF
  | 4 => if cs.length = scope.length then 1 else 0
  | 5 => if cs.isEmpty then 0 else 1
  | _ => match minNat? scope with
    | some l0 => rowMask (scope.filter fun l => val l == val l0)
    | none => 0

/-- VOTEB (R135). -/
def execVoteb (f : FmtL) (s : State) : Res :=
  .next (s.withThread (vregsOf f.ta f.a) [f.d.toNat] fun i s =>
    s.writeLanes i f.d.toNat fun l =>
      let bundle := f.lane.getLsbD 3
      voteResult (f.lane.toNat % 8) (!bundle) (if bundle then s.acting i else s.rowLanes i l) fun t => s.opnd i t f.ta f.a)

/-- One combination of REDUX (R136). -/
def reduxOp (op : Nat) (a b : Word) : Word :=
  match op with
  | 0 => a + b
  | 1 => if a.slt b then a else b
  | 2 => if b.slt a then a else b
  | 3 => if a.ult b then a else b
  | 4 => if b.ult a then a else b
  | 5 => a &&& b
  | 6 => a ||| b
  | _ => a ^^^ b

def reduxFold (op : Nat) : List Word → Word
  | [] => 0
  | [a] => a
  | a :: t => reduxOp op a (reduxFold op t)

/-- REDUX (R136). -/
def execRedux (f : FmtL) (s : State) : Res :=
  .next (s.withThread (vregsOf f.ta f.a) [f.d.toNat] fun i s =>
    s.writeLanes i f.d.toNat fun l =>
      reduxFold (f.lane.toNat % 8)
        ((if f.lane.getLsbD 3 then s.acting i else s.rowLanes i l).map fun t => s.opnd i t f.ta f.a))

end Sys2Proof.Machine
end

