-- ==== Sys2Proof/Machine/Matrix.lean ====
section
/-! DEFINITION. The matrix slices (R172 to R188). -/

namespace Sys2Proof.Machine

/-! ### Participation (R175) -/

/-- Lanes of quarter `q` of lane row `r`. -/
def quarterLanes (r q : Nat) : List Nat := (List.range 8).map fun k => 32 * r + 8 * q + k

def allQuarters : List (Nat × Nat) := (List.range 4).flatMap fun r => (List.range 4).map fun q => (r, q)

/-- Quarters that take part, and those only partly active, for a set of active lanes. -/
def quartersOf (act : List Nat) : List (Nat × Nat) × List (Nat × Nat) :=
  let n (e : Nat × Nat) : Nat := ((quarterLanes e.1 e.2).filter fun l => act.contains l).length
  (allQuarters.filter fun e => n e == 8, allQuarters.filter fun e => n e != 0 && n e != 8)

def lanesOf (qs : List (Nat × Nat)) : List Nat := qs.flatMap fun e => quarterLanes e.1 e.2

/-- Steps 2 and 3 of R176, then `k` on the quarters that take part; with none, nothing changes, but the word needs room on the
flag it `counts` on (R70, R175). -/
def State.mat (s : State) (regs : List Nat) (k : Issue → Warp → Team → List (Nat × Nat) → State → State)
    (counts : Bool := true) : State :=
  match s.iss with
  | none => s
  | some i =>
    if regs.any (127 < ·) then s.illegal 3 i.lanes
    else match s.regError i regs [] with
      | some c => s.forbid i c (s.acting i)
      | none => if i.kind = .helper then s.forbid i 0x24 (s.acting i) else match s.rdWarp i, s.rdTeam i with
        | some w, some t =>
          let act := s.acting i
          let (qs, part) := quartersOf act
          if !part.isEmpty then
            s.raise 8 ((lanesOf part).filter fun l => act.contains l) 0
              (part.foldl (fun m e => m + 2 ^ (4 * e.1 + e.2)) 0)
          else if qs.isEmpty then (if counts && !s.flagRoom i.warp none (s.flagOf i none) then s.stall else s)
          else k i w t qs s
        | _, _ => s

/-- Step 6 of R176: the core tiles of a quarter list, or the sub-cause. -/
def tileMap (t : Team) (base : Nat) (qs : List (Nat × Nat)) : Except Nat (List ((Nat × Nat) × Nat)) :=
  if qs.any fun e => 255 < base + e.2 + 4 * e.1 then .error 3
  else if qs.any fun e => (tget t.tiles (base + e.2 + 4 * e.1)).isNone then .error 0x20
  else .ok (qs.map fun e => (e, (tget t.tiles (base + e.2 + 4 * e.1)).getD 0))

/-! ### Planes -/

def blankPlane : Plane := { id := none, bytes := [] }

def blankQArray : QArray := { act := blankPlane, sh := blankPlane, nextAct := none, nextSh := none }

/-- Quarter-array `q` of a scheduler. -/
def State.qarray (s : State) (gs q : Nat) : QArray := (tget s.qarrays (gs * 4 + q)).getD blankQArray

def State.modQArray (s : State) (gs q : Nat) (f : QArray → QArray) : State :=
  { s with qarrays := tset s.qarrays (gs * 4 + q) (f (s.qarray gs q)) }

/-- Reasons 6 and 7 of R179 for a quarter. -/
def State.planeReason (s : State) (gs : Nat) (fw : Word) (e : Nat × Nat) : Option Nat :=
  match (s.qarray gs e.2).nextAct with
  | none => some (7 + at_ e.2 4 + at_ e.1 6)
  | some p => if p.word.setWidth 12 = fw.setWidth 12 then none else some (6 + at_ e.2 4 + at_ e.1 6)

/-- The format vote and the validity of its word (R178, R179): the word, or the state after the trap. -/
def State.vote (s : State) (i : Issue) (f : BitVec 7) (ls : List Nat) : Except State (Word × FmtWord) :=
  let low := (minNat? ls).getD 0
  let w := s.rdV i low f.toNat
  match ls.filter fun l => s.rdV i l f.toNat != w with
  | l :: r => .error (s.raise 9 (l :: r) 0 low)
  | [] => match fmtWordReason w, fmtWord w with
    | some c, _ => .error (s.raise 0x0A ls 0 c)
    | none, some fw => .ok (w, fw)
    | none, none => .error (s.raise 0x0A ls 0 4)

/-- A matrix operation is accepted (R174). -/
def State.acceptMop (s : State) (i : Issue) (w : Warp) (m : Mop) (vdests : List (Nat × Nat)) (counts : Bool) : State :=
  let flag := if counts then s.flagOf i none else none
  if !s.flagRoom i.warp none flag then s.stall
  else
    let (id, s) := s.startOp { blankOp i.warp .matrix with lanes := i.lanes, flag := flag, vdests := vdests }
    { s with
      mops := s.mops ++ [{ m with id := id, warp := i.warp, gs := w.gs, team := w.team, core := w.core }]
      pending := s.pending ++ [.matrixOpComplete id] }

def blankMop (kind : MKind) : Mop :=
  { id := 0, warp := 0, gs := 0, kind := kind, fw := 0, quarters := [], done := [], arrays := [], tiles := [], team := 0, core := 0, g := 0
    d := 0, srcs := [], loads := [] }

/-- The warp's scratchpad stores reach the scratchpad: its matrix operations see them (R188). -/
def State.spadPost (s : State) (wk : Nat) : State :=
  (s.m.tbuf.filter fun x => x.warp == wk && (match x.loc with | .spad _ _ => true | _ => false)).foldl
    (fun s x => s.postWr x (s.ctxOf wk)) s

/-- Quarter-arrays of a quarter list. -/
def arraysOf (qs : List (Nat × Nat)) : List Nat := dedup (qs.map (·.2))

/-- MMQ (R184, R185). Its scale register is known only from the format word, so a load into it still in flight is waited for
here (R188). Of several quarters that fail the plane checks, the first in row-major order gives sr.trapinfo
(DESIGN CHOICE 83). -/
def execMmq (f : FmtX) (s : State) : Res :=
  .next (
    let a := f.a.toNat
    s.mat (regRange a 16 ++ [f.f.toNat]) fun i w t qs s =>
      let ls := lanesOf qs
      match s.vote i f.f ls with
      | .error s => s
      | .ok (word, fw) =>
        if fw.scale = 1 ∧ 127 < a + 16 then s.illegal 3 i.lanes
        else if fw.scale = 1 ∧ (w.vkey 0 (a + 16)).isNone then s.illegal 0x20 ls
        else if fw.scale = 1 && ls.any fun l => s.vHeld i.warp none l (a + 16) then s.stall
        else match tileMap t f.tile.toNat qs with
          | .error c => s.forbid i c ls
          | .ok tm => match qs.findSome? fun e => s.planeReason w.gs word e with
            | some r => s.raise 0x0A ls 0 r
            | none =>
              let row (q : Nat) (ct : Nat) (l : Nat) : MRow :=
                { lane := l, bytes := wordsBytes ((regRange a 16).map fun r => s.rdV i l r)
                  scale := if fw.scale = 1 then s.rdV i l (a + 16) else 0, off := 0, tile := ct, row := l % 8, q := q, undef := false }
              let quarters := tm.map fun e =>
                QOp.mk e.1.1 e.1.2 e.2 ((quarterLanes e.1.1 e.1.2).map (row e.1.2 e.2))
              s.acceptMop i w { blankMop .mmq with
                fw := word, quarters := quarters, arrays := arraysOf qs, tiles := dedup (tm.map (·.2))
                srcs := regRange a (if fw.scale = 1 then 17 else 16) } [] true)

/-- MMG (R186). The whole word v[A+1] is the row number: one above 255 is taken as it is, its tile checked as any other
(DESIGN CHOICE 83). The row is read when the MMG issues (DESIGN CHOICE 110). -/
def execMmg (f : FmtX) (s : State) : Res :=
  .next (
    let a := f.a.toNat
    s.mat (regRange a 3 ++ [f.f.toNat]) fun i w t qs s =>
      let ls := lanesOf qs
      match s.vote i f.f ls with
      | .error s => s
      | .ok (word, fw) =>
        let off (l : Nat) : Nat := (s.rdV i l a).toNat
        let j (l : Nat) : Nat := (s.rdV i l (a + 1)).toNat
        let tile (l : Nat) : Nat := f.tile.toNat + j l / 8
        let at0 (xs : List Nat) : Nat := 0xFE00_0000_0000_0000 + (xs.head?.map off).getD 0
        match ls.filter fun l => off l % 64 != 0 with
        | l :: r => s.raise 4 (l :: r) (at0 [l]) (at_ 6 4)
        | [] => match ls.filter fun l => decide (t.vals.spbytes < off l + 64) with
          | l :: r => s.raise 5 (l :: r) (at0 [l]) t.vals.spbytes
          | [] => match ls.filter fun l => decide (255 < tile l) with
            | l :: r => s.raise 0x10 (l :: r) 0 0
            | [] => match ls.filter fun l => (tget t.tiles (tile l)).isNone with
              | l :: r => s.illegal 0x20 (l :: r)
              | [] => match qs.findSome? fun e => s.planeReason w.gs word e with
                | some r => s.raise 0x0A ls 0 r
                | none =>
                  let (rows, s) := ls.foldl (fun (p : List MRow × State) l =>
                    let (bs, s) := p.2.matBytes i.warp w.core (t.spbase + off l) 64
                    (p.1 ++ [{ lane := l, bytes := bs, scale := if fw.scale = 1 then s.rdV i l (a + 2) else 0
                               off := t.spbase + off l, tile := (tget t.tiles (tile l)).getD 0, row := j l % 8, q := l % 32 / 8
                               undef := false }], s)) ([], s.spadPost i.warp)
                  s.acceptMop i w { blankMop .mmg with
                    fw := word, quarters := [QOp.mk 0 0 0 rows], arrays := arraysOf qs
                    tiles := dedup (rows.map (·.tile)) } [] true)

/-- Bytes of a plane (R181). -/
def planeSize (fw : FmtWord) : Nat :=
  match fw.btype with
  | .e2m1 => 4352
  | .cb2 => if fw.atype.k = 64 then 1152 else 576
  | _ => if fw.scale = 1 then 4224 else 4096

/-- MLDS (R180). A team without tiles, which placement does not keep apart (R173), replaces what planes it finds
(DESIGN CHOICE 83). -/
def execMlds (a f : BitVec 7) (s : State) : Res :=
  .next (s.mat [a.toNat, f.toNat] fun i w t qs s =>
    let ls := lanesOf qs
    let arr := arraysOf qs
    let src (q : Nat) : Nat := match qs.find? fun e => e.2 == q with
      | some e => 32 * e.1 + 8 * q
      | none => 0
    let word (q : Nat) : Word := s.rdV i (src q) f.toNat
    let off (q : Nat) : Nat := (s.rdV i (src q) a.toNat).toNat
    let size (q : Nat) : Nat := ((fmtWord (word q)).map planeSize).getD 0
    let ap (q : Nat) : Nat := 0xFE00_0000_0000_0000 + off q
    match arr.findSome? fun q => fmtWordReason (word q) with
    | some c => s.raise 0x0A ls 0 c
    | none => match arr.filter fun q => off q % 128 != 0 with
      | q :: r => s.raise 4 (sortNat ((q :: r).map src)) (ap q) (at_ 7 4)
      | [] => match arr.filter fun q => decide (t.vals.spbytes < off q + size q) with
        | q :: r => s.raise 5 (sortNat ((q :: r).map src)) (ap q) t.vals.spbytes
        | [] =>
          let flag := s.flagOf i none
          if !s.flagRoom i.warp none flag then s.stall
          else
            let s := s.spadPost i.warp
            let ml := s.nextId
            let pid (q : Nat) : PlaneId := { word := word q, off := off q, mlds := ml }
            let s := arr.foldl (fun s q => s.modQArray w.gs q fun x => { x with nextSh := some (pid q) }) s
            s.acceptMop i w { blankMop .mlds with
              quarters := arr.map fun q => QOp.mk 0 q 0 [], arrays := arr
              loads := arr.map fun q => (q, pid q, t.spbase + off q, size q) } [] true)

/-- MSWAP (R182). -/
def execMswap (s : State) : Res :=
  .next (s.mat [] (counts := false) fun i w _ qs s =>
    let arr := arraysOf qs
    let s := arr.foldl (fun s q => s.modQArray w.gs q fun x => { x with nextAct := x.nextSh, nextSh := x.nextAct }) s
    s.acceptMop i w { blankMop .mswap with quarters := arr.map fun q => QOp.mk 0 q 0 [], arrays := arr } [] false)

/-- MRD and MWR (R187). -/
def State.tileMove (s : State) (tile : BitVec 8) (a : BitVec 7) (g : BitVec 2) (read : Bool) : State :=
  s.mat (regRange a.toNat 16) fun i w t qs s =>
    if read && s.recruitHeld i (lanesOf qs) (regRange a.toNat 16) then s.stall
    else match tileMap t tile.toNat qs with
      | .error c => s.forbid i c (lanesOf qs)
      | .ok tm =>
        let row (q ct l : Nat) : MRow :=
          { lane := l, bytes := if read then [] else wordsBytes ((regRange a.toNat 16).map fun r => s.rdV i l r), scale := 0
            off := 0, tile := ct, row := l % 8, q := q, undef := false }
        let quarters := tm.map fun e => QOp.mk e.1.1 e.1.2 e.2 ((quarterLanes e.1.1 e.1.2).map (row e.1.2 e.2))
        let vd := if read then (lanesOf qs).flatMap fun l => (regRange a.toNat 16).map fun r => (l, r) else []
        s.acceptMop i w { blankMop (if read then .mrd else .mwr) with
          quarters := quarters, arrays := arraysOf qs, tiles := dedup (tm.map (·.2)), g := g.toNat, d := a.toNat
          srcs := if read then [] else regRange a.toNat 16 } vd true

/-- MRD (R187). -/
def execMrd (tile : BitVec 8) (a : BitVec 7) (g : BitVec 2) (s : State) : Res := .next (s.tileMove tile a g true)

/-- MWR (R187). -/
def execMwr (tile : BitVec 8) (a : BitVec 7) (g : BitVec 2) (s : State) : Res := .next (s.tileMove tile a g false)

/-- MCLR (R175, R187): once per bundle; `n` is the number of tiles less one. -/
def execMclr (tile : BitVec 8) (n : BitVec 7) (s : State) : Res :=
  .next (match s.iss with
    | none => s
    | some i =>
      if 255 < tile.toNat + n.toNat then s.illegal 3 i.lanes
      else if i.kind = .helper then s.forbid i 0x24 (s.onceLanes i)
      else if s.onControl i then s.forbid i 0x25 (s.onceLanes i)
      else match s.warp i.warp, s.teamOf i.warp with
        | some w, some t =>
          if !s.bundleActs i then s
          else
            let ts := regRange tile.toNat (n.toNat + 1)
            if ts.any fun x => (tget t.tiles x).isNone then s.illegal 0x20 [i.lowest]
            else
              let cts := ts.map fun x => (tget t.tiles x).getD 0
              s.acceptMop i w { blankMop .mclr with
                quarters := [QOp.mk 0 0 0 []], arrays := [0, 1, 2, 3], tiles := cts } [] true
        | _, _ => s)

/-! ### Performing (R101, R174, R184) -/

/-- Column element k of a plane with its scale (R181). -/
def planeElem (fw : FmtWord) (p : Nat → Byte) (n k : Nat) : Num × Num :=
  let one : Num := .fin false 1 0
  let half16 (o : Nat) : Nat := (p o).toNat + 256 * (p (o + 1)).toNat
  match fw.btype with
  | .cb2 =>
    if fw.atype.k = 64 then (cb2Weight (half16 (16 * n + 2 * (k / 8))) (p (1024 + 2 * n + k / 32)).toNat (k % 8), one)
    else (cb2Weight (half16 (8 * n + 2 * (k / 8))) (p (512 + n)).toNat (k % 8), one)
  | .e2m1 => (rowElem .e2m1 (fun b => p (64 * n + b)) k, decodeE8m0 (p (4096 + 4 * n + k / 32)).toNat)
  | b => (rowElem b (fun x => p (64 * n + x)) k,
      if fw.scale = 1 then decodeE8m0 (p (4096 + 2 * n + k / 32)).toNat else one)

/-- accumulateChunk for column n of a row (R101). -/
def chunkSum (fw : FmtWord) (acc : Nat) (row : List Byte) (scale : Word) (p : List Byte) (c : Word) (n : Nat) : Word :=
  let pb (o : Nat) : Byte := p.getD o 0
  let rb (o : Nat) : Byte := row.getD o 0
  if fw.atype = .s8 then
    accumulateI c (((List.range 64).map fun k => (rb k).toInt * (pb (64 * n + k)).toInt).foldl (· + ·) 0) acc
  else
    let sa (k : Nat) : Num :=
      if fw.scale = 1 then decodeE8m0 (bits scale.toNat (8 * (k / 32) + 7) (8 * (k / 32))) else .fin false 1 0
    let terms := (List.range fw.atype.k).map fun k =>
      let (b, sb) := planeElem fw pb n k
      groupTerm (acc == 2) (fw.btype == .cb2) (rowElem fw.atype rb k) (sa k) b sb
    accumulateF c terms acc fw.sat

/-- One product row into a tile; an undefined row leaves free values. -/
def State.productRow (s : State) (core gs : Nat) (fw : FmtWord) (acc : Nat) (r : MRow) : State :=
  let p := (s.qarray gs r.q).act.bytes
  (List.range 64).foldl (fun s n =>
    let k := accKey core r.tile r.row n
    if r.undef then let (v, s) := s.freeWord; s.setAcc k v
    else s.setAcc k (chunkSum fw acc r.bytes r.scale p (s.accWord k) n)) s

/-- One quarter operation is performed. -/
def State.performQuarter (s : State) (m : Mop) (q : QOp) : State :=
  match m.kind with
  | .mmq => match fmtWord m.fw with
    | none => s
    | some fw => q.rows.foldl (fun s r => s.productRow m.core m.gs fw fw.acc r) s
  | .mmg => match fmtWord m.fw with
    | none => s
    | some fw =>
      (q.rows.foldl (fun (p : List (Nat × Nat) × State) r =>
        let first := !p.1.contains (r.tile, r.row)
        ((r.tile, r.row) :: p.1, p.2.productRow m.core m.gs fw (if fw.acc = 1 ∧ !first then 0 else fw.acc) r)) ([], s)).2
  | .mlds => match m.loads.find? fun l => l.1 == q.q with
    | none => s
    | some (_, pid, off, size) =>
      let (bs, s) := s.matBytes m.warp m.core off size
      s.modQArray m.gs q.q fun x => { x with sh := { id := some pid, bytes := bs } }
  | .mswap => s.modQArray m.gs q.q fun x => { x with act := x.sh, sh := x.act }
  | .mrd => match s.op m.id with
    | none => s
    | some o => q.rows.foldl (fun s r => (List.range 16).foldl (fun s k =>
        s.landV o r.lane (m.d + k) (s.accWord (accKey m.core r.tile r.row (16 * m.g + k)))) s) s
  | .mwr => q.rows.foldl (fun s r => (List.range 16).foldl (fun s k =>
      let key := accKey m.core r.tile r.row (16 * m.g + k)
      if r.undef then let (v, s) := s.freeWord; s.setAcc key v
      else s.setAcc key (((leWords r.bytes)[k]?).getD 0)) s) s
  | .mclr => m.tiles.foldl (fun s t => s.tileZero m.core t) s

/-- Does an operation still have work on a quarter-array? -/
def Mop.busyOn (m : Mop) (q : Nat) : Bool :=
  match m.kind with
  | .mmg => !m.quarters.isEmpty && m.arrays.contains q
  | .mclr => !m.quarters.isEmpty && m.arrays.contains q
  | _ => m.quarters.any fun x => x.q == q

/-- The core tiles a quarter operation touches. -/
def Mop.tilesOf (m : Mop) (q : QOp) : List Nat :=
  match m.kind with
  | .mmq => [q.tile]
  | .mrd => [q.tile]
  | .mwr => [q.tile]
  | .mmg => q.rows.map (·.tile)
  | .mclr => m.tiles
  | .mlds => []
  | .mswap => []

/-- Must an operation accepted earlier come first at a core tile: one of the same warp until it is complete, so that issue
order holds and a source that changes late still makes its row undefined (R103, R185); one of another warp until it has been
performed there (R174, R187)? -/
def Mop.holds (b m : Mop) (t : Nat) : Bool :=
  if b.warp = m.warp then b.tiles.contains t else b.quarters.any fun q => (b.tilesOf q).contains t

/-- May a quarter operation be performed: have all accepted before it on its quarter-arrays and tiles been? -/
def Mop.free (m : Mop) (before : List Mop) (q : QOp) : Bool :=
  let arrays := match m.kind with
    | .mmg => m.arrays
    | .mclr => m.arrays
    | _ => [q.q]
  before.all fun b => b.gs != m.gs || ((arrays.all fun a => !b.busyOn a) && (m.tilesOf q).all fun t => !b.holds m t)

/-- A quarter operation has been performed. -/
def Mop.perform (m : Mop) (q : QOp) : Mop :=
  { m with
    quarters := m.quarters.erase q
    done := m.done ++ [{ q with rows := q.rows.map fun (r : MRow) => { r with undef := false } }] }

/-- A row whose source changed after it was performed, and before the flag fell, is undefined (R185, R186). -/
def State.undefRow (s : State) (m : Mop) (r : MRow) : State :=
  let put (s : State) (n : Nat) : State := let (v, s) := s.freeWord; s.setAcc (accKey m.core r.tile r.row n) v
  match m.kind with
  | .mmq => (List.range 64).foldl put s
  | .mmg => (List.range 64).foldl put s
  | .mwr => (List.range 16).foldl (fun s k => put s (16 * m.g + k)) s
  | _ => s

/-- MATRIX_OP_COMPLETE (R174, R187, R188): one of the operation's quarter operations, in the order of its quarter-arrays and
tiles, of several free ones the first in row-major order (DESIGN CHOICE 83); after the last, and after the warp's earlier matrix
operations, the flag falls. -/
def execMatrixOpComplete (op : Nat) (s : State) : Res :=
  .next (match s.mops.find? fun m => m.id == op with
    | none => s.endOp op
    | some m =>
      let before := s.mops.takeWhile fun x => x.id != op
      match m.quarters.find? fun q => m.free before q with
      | some q =>
        let s := s.performQuarter m q
        { s with
          mops := s.mops.map fun x => if x.id = op then x.perform q else x
          pending := s.pending ++ [.matrixOpComplete op] }
      | none =>
        if m.quarters.isEmpty && !(before.any fun b => b.warp == m.warp) then
          let s := ((m.done.flatMap (·.rows)).filter fun r => r.undef).foldl (fun s r => s.undefRow m r) s
          { s with mops := s.mops.filter fun x => x.id != op }.endOp op
        else s.pend (.matrixOpComplete op))

end Sys2Proof.Machine
end

