-- ==== Sys2Proof/Machine/Skov.lean ====
section
/-! DEFINITION. Skovlink (R410 to R414): ports and flits, requests of other devices in stream order, and responses. -/

namespace Sys2Proof.Machine

def State.modPort (s : State) (p : Nat) (f : Port → Port) : State :=
  { s with sk := { s.sk with ports := s.sk.ports.modify p f } }

/-! ### Ports and flits (R411) -/

/-- A flit that carries no message: idle, which acknowledges, or NAK. -/
def Port.control (p : Port) (type : Byte) : Flit :=
  { type := type, ack := p.rxSeq, lseq := p.txSeq, payload := [] }

/-- The flit that 256 bytes carry (R411); none when its CRC fails. -/
def flitOf (bs : List Byte) : Option Flit :=
  if bs.length = 256 ∧ bs.drop 248 = leBytes 8 (Config.crc64 (bs.take 248)).toNat then
    let v := leNat (bs.take 4)
    some { type := BitVec.ofNat 8 (bits v 31 24), ack := BitVec.ofNat 12 (bits v 23 12), lseq := BitVec.ofNat 12 (bits v 11 0)
           payload := (bs.drop 4).take 240 }
  else none

/-- The message that a header and its data are (R412). -/
def msgOf (header data : List Byte) : Msg :=
  let v := leNat header
  { paddr := bits v 127 89, tag := bits v 88 77, sseq := bits v 76 61, dst := bits v 60 53, src := bits v 52 45
    scope := BitVec.ofNat 4 (bits v 44 41), order := BitVec.ofNat 2 (bits v 40 39), atop := BitVec.ofNat 4 (bits v 38 35)
    w64 := v.testBit 34, size := bits v 33 16, status := BitVec.ofNat 8 (bits v 15 8), op := BitVec.ofNat 8 (bits v 7 0)
    data := data }

/-- The whole messages in received bytes, and what is left of one that goes on in the next flit. A unit of zeros is no header;
what follows a header with SIZE above 256 is dropped (DESIGN CHOICE 78). -/
def parseMsgs : Nat → List Byte → List Msg × List Byte
  | 0, _ => ([], [])
  | n + 1, bs =>
    let h := bs.take 16
    if h.length < 16 then ([], [])
    else if h.all (· == 0) then parseMsgs n (bs.drop 16)
    else
      let size := bits (leNat h) 33 16
      let len := if bits (leNat h) 7 0 = 0 then 0 else size
      let units := (len + 15) / 16 * 16
      if 256 < size then ([], [])
      else if (bs.drop 16).length < units then ([], bs)
      else
        let (ms, rest) := parseMsgs n (bs.drop (16 + units))
        (msgOf h ((bs.drop 16).take len) :: ms, rest)

/-- Flits of the replay buffer after the one with sequence number `a`. -/
def afterAck (l : List (Flit × List Msg)) (a : BitVec 12) : List (Flit × List Msg) :=
  l.filter fun f => 2048 ≤ (a - f.1.lseq).toNat

/-- The outstanding requests whose destination has become unreachable fail (R414). -/
def State.failUnreachable (s : State) : State :=
  (s.sk.reqs.filter fun r => (s.skPort r.dst 0).isNone).foldl (fun s r => s.skUnreachable r) s

/-- PORT_DOWN (R411): messages it has not sent or not had acknowledged leave by the ports that are up (DEDUCED 61), and requests to
devices that no port reaches now fail. -/
def State.portDown (s : State) (port : Nat) : State :=
  match s.sk.ports[port]? with
  | none => s
  | some p =>
    if !p.up then s
    else
      let ms := p.replay.flatMap (·.2) ++ p.wait.flatMap (·.2)
      let s := s.modPort port fun p => { p with up := false, replay := [], wait := [], fails := 0, rx := [] }
      let s := ms.foldl (fun s m => match s.skPort m.dst m.paddr with
        | some q => s.skTransmit q m
        | none => s) s
      s.failUnreachable

def execPortDown (port : Nat) (s : State) : Res := .next (s.portDown port)

/-- PORT_UP (R410): the link begins anew. -/
def execPortUp (port : Nat) (s : State) : Res :=
  .next (s.modPort port fun p =>
    if p.up then p else { p with up := true, txSeq := 0, replay := [], wait := [], fails := 0, rxSeq := 0xFFF, rx := [] })

/-- The event of a request. -/
def msgEvent (m : Msg) : Instr :=
  match m.op.toNat with
  | 0 => .skovRead m.src
  | 1 => .skovWrite m.src
  | 2 => .skovAtomic m.src
  | _ => .skovBulkWrite m.src

/-- A message that has arrived: a response, or a request that is neither reserved nor performed before. -/
def State.arriveMsg (s : State) (m : Msg) : State :=
  if m.op = 3 then { s with sk := { s.sk with resps := s.sk.resps ++ [m] } }.pend (.skovResponse m.src)
  else if 4 < m.op.toNat then s
  else
    let next := (tget s.sk.seqIn m.src).getD 0
    let ahead := (m.sseq + 65536 - next) % 65536
    if 32768 ≤ ahead ∨ (s.sk.held.any fun h => h.src == m.src && h.sseq == m.sseq) then s
    else { s with sk := { s.sk with held := s.sk.held ++ [m] } }.pend (msgEvent m)

/-- The payload of a flit that is next in sequence: its messages arrive, and the flit is acknowledged. -/
def State.takeData (s : State) (port : Nat) (p : Port) (f : Flit) : State :=
  let (ms, rest) := parseMsgs 64 (p.rx ++ f.payload)
  let s := s.modPort port fun p => { p with rxSeq := f.lseq, rx := rest }
  ms.foldl State.arriveMsg (s.modPort port fun p =>
    ({ p with out := p.out ++ [(p.control 0).bytes] } : Port).refill)

/-- FLIT_RECEIVE (R411): a flit with a bad CRC is discarded and answered by a NAK; a good one acknowledges; a NAK asks for a
replay, or takes the port down when 8 replays in a row have failed (DESIGN CHOICE 63); a data flit in sequence is taken and
acknowledged. -/
def execFlitReceive (port : Nat) (flit : List Byte) (s : State) : Res :=
  .next (match s.sk.ports[port]? with
    | none => s
    | some p =>
      if !p.up then s
      else match flitOf flit with
        | none => s.modPort port fun p => { p with out := p.out ++ [(p.control 2).bytes] }
        | some f =>
          if 3 ≤ f.type.toNat then s
          else
            let rest := afterAck p.replay f.ack
            let fails := if rest.length < p.replay.length then 0 else p.fails
            let s := s.modPort port fun p => { p with replay := rest, fails := fails }
            match f.type.toNat with
            | 2 =>
              if 8 ≤ fails then s.portDown port
              else s.modPort port fun p =>
                ({ p with fails := fails + 1, out := p.out ++ p.replay.map fun e => e.1.bytes } : Port).refill
            | 1 => if f.lseq = p.rxSeq + 1 then s.takeData port p f else s.modPort port Port.refill
            | _ => s.modPort port Port.refill)

/-! ### Requests of other devices (R413) -/

/-- The response to a request. -/
def State.respond (s : State) (m : Msg) (status : Byte) (data : List Byte) : State :=
  match s.skPort m.src m.paddr with
  | none => s
  | some p => s.skTransmit p { m with
      dst := m.src, src := s.sk.skdev, op := 3, status := status, data := data, size := data.length }

/-- The request of a source that is next in its stream, when it is of the event's kind: it is performed by `f`. -/
def State.inOrder (s : State) (src : Nat) (ev : Instr) (f : Msg → State → State) : State :=
  let next := (tget s.sk.seqIn src).getD 0
  match s.sk.held.find? fun m => m.src == src && m.sseq == next with
  | some m =>
    if msgEvent m ≠ ev then s.pend (msgEvent m)
    else
      let s := { s with sk := { s.sk with
        held := s.sk.held.erase m, seqIn := tset s.sk.seqIn src ((next + 1) % 65536) } }
      let s := f m s
      match s.sk.held.find? fun m => m.src == src && m.sseq == (next + 1) % 65536 with
      | some m => s.pend (msgEvent m)
      | none => s
  | none => s

/-- SKOV_READ (R413): at the home point. -/
def execSkovRead (src : Nat) (s : State) : Res :=
  .next (s.inOrder src (.skovRead src) fun m s =>
    if !s.presentAll m.paddr m.size then s.respond m 3 (List.replicate m.size 0)
    else
      let (bs, bad, s) := s.outsideRead none m.paddr m.size
      s.respond m (if bad then 3 else 0) bs)

/-- The bytes of a request are written and performed; rows of SW memory are served at once. -/
def State.skovPut (s : State) (m : Msg) : State :=
  if !s.presentAll m.paddr m.data.length then s.respond m 3 []
  else
    let s := (s.kvRace m.paddr m.data.length).outsideWrite none m.paddr m.data false
    let s := (rowsOf m.paddr m.data.length).foldl (fun s r => if s.swRow r then s.serveRow r else s) s
    s.respond m 0 []

/-- SKOV_WRITE (R413). -/
def execSkovWrite (src : Nat) (s : State) : Res := .next (s.inOrder src (.skovWrite src) fun m s => s.skovPut m)

/-- SKOV_BULK_WRITE (R413). -/
def execSkovBulkWrite (src : Nat) (s : State) : Res := .next (s.inOrder src (.skovBulkWrite src) fun m s => s.skovPut m)

/-- SKOV_ATOMIC (R413): one step at the owner's home point; its operands stand in the data, D first. -/
def execSkovAtomic (src : Nat) (s : State) : Res :=
  .next (s.inOrder src (.skovAtomic src) fun m s =>
    let n := if m.w64 then 8 else 4
    if !s.presentAll m.paddr n then s.respond m 3 (List.replicate n 0)
    else
      let d := leNat (m.data.take n)
      let e := leNat ((m.data.drop n).take n)
      let code := m.atop.toNat
      let row := m.paddr / 1024
      if s.swRow row then
        let s := s.serveRow row
        let old := if s.liveRow row then mbytes s.m.mem m.paddr n else List.replicate n 0
        let bad := s.liveRow row && s.ueAt m.paddr n
        let s := s.serveEnt { id := 0, host := false, pa := m.paddr, len := n, ctx := none, va := 0, act := .rmw 0 0 code m.w64 d e }
        s.respond m (if bad then 3 else 0) old
      else
        let old := s.homeBytes m.paddr n
        let bad := s.homeBadAt m.paddr n
        let new := leBytes n (atomNew code m.w64 (leNat old) d e)
        let s := if bad ∨ code = 15 then s
          else (s.kvRace m.paddr n).homeWrite (((List.range n).zip new).map fun x => (m.paddr + x.1, x.2))
        s.respond m (if bad then 3 else 0) old)

/-! ### Responses (R414) -/

/-- A record of kind 0x21 for a write that did not reach another device. -/
def State.lostWrite (s : State) (r : SkReq) (src unit wcb : Nat) : State :=
  let (q, s) := s.nextSeq (at_ src 20 + unit)
  s.errorRecord (some r.ctx) { kind := 0x21, src := src, sseq := q.toNat, paddr := alignDown r.pa 128, vaddr := r.va, wcb := wcb }

/-- The record of a line that a migration could not read from another device or write there (R414): the walkers', with the
context's own record count (R385). -/
def State.walkerLost (s : State) (r : SkReq) (write : Bool) : State :=
  match tget s.ctxs r.ctx with
  | none => s
  | some x =>
    let n := if x.recs = 0 then 1 else x.recs
    (s.modCtx r.ctx fun y => { y with recs := if n = 0xFFFF_FFFF then 1 else n + 1 }).errorRecord (some r.ctx)
      { kind := if write then 0x21 else 0x20, src := 8, sseq := n.toNat, paddr := alignDown r.pa 128, vaddr := r.va }

/-- What a response does for the one that awaits it. -/
def State.answer (s : State) (r : SkReq) (m : Msg) : State :=
  let ok := m.status = 0
  match r.who with
  | .part op lane _ => match s.op op with
    | none => s
    | some o =>
      let n := ((o.parts.find? fun p => p.lane == lane).map fun p => p.bytes.length).getD 0
      let s := match s.warp o.warp with
        | some w => if ok && o.kind == OpKind.load then s.fillPeer w.core r.dst r.pa r.stamp m.data else s
        | none => s
      s.fillPart op lane (if ok then (m.data ++ List.replicate n 0).take n else List.replicate n 0) (!ok)
  | .store _ w _ =>
    if ok then s
    else match s.warp w, s.teamOf w with
      | some x, some t => s.lostWrite r x.src x.unit t.twcb
      | _, _ => s.lostWrite r 0 0 0
  | .copy cmd key => match s.copy cmd with
    | some c =>
      if ok then (s.fillPeer c.core r.dst r.pa r.stamp m.data).modCopy cmd fun c => { c with got := tset c.got key m.data }
      else s.copyUe c (key / 2 ^ 64) (alignDown r.pa 128) r.va
    | none =>
      if ok then s
      else match s.nms.find? fun c => c.id == cmd with
        | some c => s.lostWrite r 3 0 c.wcb
        | none => s
  | .desc key =>
    let s := { s with descs := s.descs ++ [(key, if !ok then [] else if m.data.isEmpty then [0] else m.data)] }
    if ok || key < 2 ^ 200 then s else s.walkerLost r (key / 2 ^ 40 % 2 = 1)
  | .none => s

/-- SKOV_RESPONSE (R414): the oldest response of a source is taken by its request. -/
def execSkovResponse (src : Nat) (s : State) : Res :=
  .next (match s.sk.resps.find? fun m => m.src == src with
    | none => s
    | some m =>
      let s := { s with sk := { s.sk with resps := s.sk.resps.erase m } }
      match s.sk.reqs.find? fun r => r.dst == src && r.tag == m.tag with
      | none => s
      | some r => ({ s with sk := { s.sk with reqs := s.sk.reqs.erase r } }).answer r m)

end Sys2Proof.Machine
end

