-- ==== Sys2Proof/Machine/Mgmt.lean ====
section
/-! DEFINITION. The management controller: bring-up and its records (R416 to R418), current, clock and activation limits (R419,
R420), the scrubber (R421), the history and telemetry (R422, R423), soft errors (R253) and the loss of power. -/

namespace Sys2Proof.Machine

/-! ### Bring-up (R416 to R418) -/

/-- The steps in order. -/
def bootSteps : List Nat := [0x01, 0x02, 0x03, 0x11, 0x04, 0x05, 0x12, 0x06, 0x07, 0x13, 0x08, 0x09]

/-- Is a step a stack's? -/
def stackStep (st : Nat) : Bool := 2 ≤ st && st ≤ 9

/-- The field of a step. -/
def stepField (st : Nat) : Nat := if st = 1 then 0 else if stackStep st then (st - 2) / 2 else st - 0x10

/-- Cores presented: 12 for each field whose field step is done and that is not fenced (R417). -/
def MgmtSt.cores (m : MgmtSt) : Nat := 12 * (m.doneFields.filter fun f => f < m.fence).length

/-- The layout of a boot-step record (R417): from the top, zeros, SEQ, RATE, CORES, OUTCOME and STEP. -/
def BootRec.bits (r : BootRec) : BitVec 128 := 0#64 ++ r.seq ++ r.rate ++ r.cores ++ r.outcome ++ r.step

/-- What a boot-step record of the flash says. -/
def BootRec.ofBits (b : BitVec 128) : BootRec :=
  { seq := b.extractLsb' 32 32, rate := b.extractLsb' 24 8, cores := b.extractLsb' 16 8, outcome := b.extractLsb' 8 8
    step := b.extractLsb' 0 8 }

/-- The boot-step records of the flash, oldest first. -/
def MgmtSt.records (m : MgmtSt) : List BootRec := m.boot.map BootRec.ofBits

/-- Append a boot-step record. -/
def State.bootRecord (s : State) (step rate outcome cores : Nat) : State :=
  let top := (s.mg.records.map fun r => r.seq.toNat).foldl max 0
  let r : BootRec := {
    seq := BitVec.ofNat 32 (top + 1), rate := BitVec.ofNat 8 rate, cores := BitVec.ofNat 8 cores
    outcome := BitVec.ofNat 8 outcome, step := BitVec.ofNat 8 step }
  { s with mg := { s.mg with boot := s.mg.boot ++ [r.bits] } }

/-- The latest record of a step. -/
def MgmtSt.latest (m : MgmtSt) (step : Nat) : Option BootRec := m.records.reverse.find? fun r => r.step == BitVec.ofNat 8 step

/-- The rate a step runs at; none when its latest outcome leaves its field fenced. A record that still reads started counts
as a failure at its rate (R417). -/
def MgmtSt.rate (m : MgmtSt) (step : Nat) : Option Nat :=
  match m.latest step with
  | none => some (if stackStep step then 10 else 0)
  | some r =>
    if r.outcome = 1 then some r.rate.toNat
    else if r.outcome = 3 then none
    else match r.rate.toNat with
      | 10 => some 8
      | 8 => some 6
      | _ => none

/-- The lowest field that the flash leaves fenced; 4 for none. -/
def MgmtSt.fenced (m : MgmtSt) : Nat :=
  (bootSteps.filter fun st => (m.rate st).isNone).foldl (fun f st => min f (stepField st)) 4

def blankCore : Core :=
  { clock := 0, unpromoted := [], evq := [], copySeq := 0, swSeq := 0, cc := none, ccWcb := 0, ccCtx := 0
    fwds := [] }

def blankSched : Sched := { cycle := 0, rr := [], sel := [], pins := [] }

/-- The cores of a field that has come up. -/
def State.presentField (s : State) (f : Nat) : State :=
  (List.range 12).foldl (fun (s : State) i =>
    let k := 12 * f + i
    { s with
      cores := tset s.cores k blankCore
      scheds := (List.range 6).foldl (fun t j => tset t (6 * k + j) blankSched) s.scheds }) s

/-- Firmware sets the device's Skovlink number and the port masks of all 256 destinations (R410). Their values are the
fleet's, free in the model (DESIGN CHOICE 64). -/
def State.setRoutes (s : State) : State :=
  let (b, s) := s.freeBytes 65
  { s with sk := { s.sk with skdev := (b.getD 256 0).toNat, routes := (List.range 256).zip (b.map (·.toNat)) } }

/-- The next step begins: those of fenced fields are recorded as skipped. At the end firmware sets up Skovlink, and the fields'
cores are presented. -/
def State.bootNext (s : State) : List Nat → State
  | [] =>
    let s := { s with mg := { s.mg with todo := [], running := none } }.setRoutes
    (s.mg.doneFields.filter fun f => f < s.mg.fence).foldl State.presentField s
  | st :: rest =>
    if s.mg.fence ≤ stepField st then (s.bootRecord st 0 3 s.mg.cores).bootNext rest
    else
      let rate := (s.mg.rate st).getD 0
      let s := s.bootRecord st rate 0 s.mg.cores
      { s with mg := { s.mg with todo := rest, running := some (st, rate) } }

/-- A record of the history whose contents the spec does not give but for the SEQ of the unit it comes from, the field that is
fenced or the stack whose CAP changes (R422); it stands as in an error record (DESIGN CHOICE 92). -/
def State.openHistory (s : State) (unit : Nat) : State :=
  let (q, s) := s.nextSeq (at_ 12 20 + unit)
  let (b, s) := s.freeBytes 32
  s.history (b.take 4 ++ leBytes 4 q.toNat ++ b.drop 8)

/-- Steps that the last start left under way at their lowest rate: they count as failed (R417), and fence. -/
def MgmtSt.cutShort (m : MgmtSt) : List Nat :=
  bootSteps.filter fun st => (m.rate st).isNone && (m.latest st).any fun r => r.outcome == 0

/-- A start: what the flash fences, which the history records where no earlier start has (R422), and the first step. -/
def State.bootStart (s : State) : State :=
  let f := s.mg.fenced
  let s := s.mg.cutShort.foldl (fun s st => s.openHistory (stepField st)) s
  let s := { s with mg := { s.mg with fence := f, doneFields := [], offLinks := f = 0 } }
  s.bootNext bootSteps

/-- BRINGUP (R416). -/
def execBringup (s : State) : Res := .next s.bootStart

/-- A step fails (R418). -/
def State.bootFail (s : State) (st rate : Nat) : State :=
  if stackStep st ∧ 6 < rate then (s.bootRecord st rate 2 0).bootStart
  else
    let s := { s with mg := { s.mg with fence := min s.mg.fence (stepField st) } }
    let s := (s.bootRecord st rate 2 s.mg.cores).openHistory (stepField st)
    let s := if st ≤ 3 then
      { s with mg := { s.mg with offLinks := true }, hl := { s.hl with up := [false, false] } } else s
    s.bootNext s.mg.todo

/-- BRINGUP_STEP_END (R417): the step under way is done, or has failed. -/
def execBringupStepEnd (ok : Bool) (s : State) : Res :=
  .next (match s.mg.running with
    | none => s
    | some (st, rate) =>
      if !ok then s.bootFail st rate
      else
        let s := if stackStep st then s else { s with mg := { s.mg with doneFields := s.mg.doneFields ++ [stepField st] } }
        let s := if st = 1 then { s with hl := { s.hl with up := [true, true] } } else s
        (s.bootRecord st rate 1 s.mg.cores).bootNext s.mg.todo)

/-- BRINGUP_STEP_TIMEOUT (R416): a step that has not ended in 50 ms has failed. -/
def execBringupStepTimeout (s : State) : Res :=
  .next (match s.mg.running with
    | none => s
    | some (st, rate) => s.bootFail st rate)

/-- BOOTCLR (R424): every boot-step record is erased; fences go at the next start. -/
def execBootclr (s : State) : Res := .next { s with mg := { s.mg with boot := [] } }

/-- POWER_LOSS (R417): all is lost but the flash and host memory. -/
def execPowerLoss (s : State) : Res :=
  .next { State.reset with
    oracle := s.oracle, freeCount := s.freeCount, nextId := s.nextId, stepNo := s.stepNo
    m := { MemSt.reset with host := s.m.host }
    mg := { MgmtSt.reset with boot := s.mg.boot, history := s.mg.history, images := s.mg.images } }

/-! ### Current, clock, activations (R419, R420) -/

/-- FIELD_CURRENT_AVERAGE (R419). -/
def execFieldCurrentAverage (field tenthsAmp : Nat) (s : State) : Res :=
  .next { s with mg := { s.mg with current := s.mg.current.set field tenthsAmp } }

/-- CLOCK_THROTTLE_STEP (R419): above its limit a field slows by 150 MHz, down to 600; below 15/16 of it, it speeds up. -/
def execClockThrottleStep (field : Nat) (s : State) : Res :=
  .next (
    let cur := s.mg.current.getD field 0
    let lim := s.mg.fldlim.getD field 0
    let clk := s.mg.clock.getD field 2400
    let clk := if lim < cur then max 600 (clk - 150) else if 16 * cur < 15 * lim then min 2400 (clk + 150) else clk
    { s with mg := { s.mg with clock := s.mg.clock.set field clk } })

/-- CAP by R420, from powers in tenths of a watt. -/
def capOf (pkglim actcap power io : Nat) : Nat :=
  let num := min (pkglim - power - io) 4800
  min actcap (max 1024 (actcap * num / 4800 / 64 * 64))

/-- CAP_UPDATE (R420); a change by more than half goes to the history (R422). -/
def execCapUpdate (fieldPower ioPower : Nat) (s : State) : Res :=
  .next (
    let new := capOf s.mg.pkglim s.mg.actcap fieldPower ioPower
    let big := (List.range s.mg.cap.length).filter fun i =>
      let c := s.mg.cap.getD i 0
      c < 2 * (max c new - min c new)
    let s := { s with mg := { s.mg with cap := s.mg.cap.map fun _ => new } }
    big.foldl (fun s i => s.openHistory (16 + i)) s)

/-! ### The scrubber (R421) -/

/-- The bank of a channel's place `n`. -/
def scrubBank (channel n : Nat) : Nat := channel / 32 * 1024 + n / 65536 * 32 + channel % 32

/-- The row at a channel's place. -/
def scrubRow (channel n : Nat) : Nat := bankRow (scrubBank channel n) (n % 65536)

/-- The next place at or after `n` whose row the scrubber restores, with `k` places to look at. -/
def State.nextScrub (s : State) (channel : Nat) : Nat → Nat → Option Nat
  | 0, _ => none
  | k + 1, n =>
    let n := n % 2 ^ 21
    let row := scrubRow channel n
    if (s.bankRegion row).isNone ∧ s.liveRow row then some n else s.nextScrub channel k (n + 1)

/-- SCRUB (R421): one SERVE step with no access, while the channel's queue holds fewer than 4 entries or the scrubber is
escalated. -/
def execScrub (channel : Nat) (s : State) : Res :=
  .next (
    let busy := 4 ≤ (s.sw.bankq.filter fun e => bankChannel (rowBank (e.pa / 1024)) == channel).length
    if 256 ≤ channel ∨ 2 * s.mg.fence ≤ channel / 32 ∨ (busy ∧ !s.mg.escalated.contains channel) then s
    else match s.nextScrub channel (2 ^ 21) ((tget s.mg.scrub channel).getD 0) with
      | none => s
      | some n =>
        let s := s.restoreRow (scrubRow channel n) false none
        { s with mg := { s.mg with scrub := tset s.mg.scrub channel ((n + 1) % 2 ^ 21) } })

/-- SCRUB_ESCALATE (R421). -/
def execScrubEscalate (channel : Nat) (on : Bool) (s : State) : Res :=
  .next (
    let rest := s.mg.escalated.filter (· != channel)
    { s with mg := { s.mg with escalated := if on then rest ++ [channel] else rest } })

/-! ### Telemetry (R423) -/

/-- TELEMETRY_CAPTURE (R423), by a write of TSEL: a record of field f or stack s; what sensors measure without an event of its
own is open, but for a stack's being above 85 °C, which TEMP and FLAGS agree on. -/
def execTelemetryCapture (src : Byte) (s : State) : Res :=
  .next (
    let n := src.toNat
    let f := n % 16
    let isField := n / 16 = 0
    if ¬((isField ∧ f < 4) ∨ (n / 16 = 1 ∧ f < 8)) then s
    else
      let (power, s) := s.freeWord
      let (temp, s) := s.freeWord
      let seq := (tget s.mg.tseq n).getD 0 + 1
      let fenced := if isField then s.mg.fence ≤ f else 2 * s.mg.fence ≤ f
      let any := temp.toNat % 65536
      let deg := if isField then any else if s.sw.hot.contains f then 851 + any % 64685 else any % 851
      let slow := if isField then s.mg.clock.getD f 2400 < 2400 else s.mg.cap.getD f 0 < s.mg.actcap
      let esc := !isField && s.mg.escalated.any fun c => c / 32 == f
      let flag (b : Bool) (i : Nat) : Nat := if b then 2 ^ i else 0
      let scrubbed := if isField then 0
        else ((List.range 32).map fun c => (tget s.mg.scrub (f * 32 + c)).getD 0).sum / 1024
      let rec_ := leBytes 32 (n + at_ (flag slow 0 + flag esc 1 + flag fenced 2 + flag (decide (850 < deg)) 3) 8 + at_ seq.toNat 16 +
        at_ deg 48 + at_ (if isField then s.mg.current.getD f 0 else 0) 64 + at_ power.toNat 96 +
        at_ (if isField then s.mg.clock.getD f 0 else s.mg.cap.getD f 0) 128 + at_ (scrubbed % 2 ^ 32) 160)
      { s with mg := { s.mg with telem := tset s.mg.telem n rec_, tseq := tset s.mg.tseq n seq } })

/-! ### Errors of the cells (R253) -/

/-- SOFT_ERROR (R253): a code word's next decode finds an error that the ECC corrects, or one it does not. -/
def execSoftError (addr : Nat) (correctable : Bool) (s : State) : Res :=
  .next (
    let c := addr / 32
    if !s.present addr then s
    else if correctable then { s with m := { s.m with soft := if s.m.soft.contains c then s.m.soft else s.m.soft ++ [c] } }
    else { s with m := { s.m with ue := tset s.m.ue c { syndrome := false, written := 0 } } })

end Sys2Proof.Machine
end

