-- ==== Sys2Proof/Machine/Scalar.lean ====
section
/-! DEFINITION. The scalar ALU (R20, R78, R129 to R131). -/

namespace Sys2Proof.Machine

/-- The B operand of a scalar word reads vectors in the lowest active lane: its registers, checked as any vector
register; the control core names none. -/
def State.withScalar (s : State) (tb : BitVec 2) (b : BitVec 6) (pair : Bool) (k : Issue → BitVec 7 → State → State) :
    State :=
  match s.iss with
  | none => s
  | some i =>
    let b' := i.scalarB tb b
    let rs := if pair then vpairOf tb b' else vregsOf tb b'
    match if rs.isEmpty then none else s.regError i rs [] with
    | some c => s.forbid i c (s.onceLanes i)
    | none => k i b' s

/-- A scalar word that writes s[SD]: once, when the guard holds in the lowest lane; held while a recruitment of the warp
is open (R296); forbidden in a helper (R297). -/
def State.salu (s : State) (tb : BitVec 2) (b : BitVec 6) (pair : Bool) (k : Issue → BitVec 7 → State → State) : State :=
  s.withScalar tb b pair fun i b' s =>
    if i.kind = .helper then s.forbid i 0x24 (s.onceLanes i)
    else if !s.bundleActs i then s
    else if (s.recruiter i).isSome then s.stall
    else k i b' s

/-- A two-source scalar word (R129). -/
def State.salu2 (s : State) (f : FmtS) (op : Word → Word → Word) : State :=
  s.salu f.tb f.b false fun i b' s =>
    s.setS i.warp f.sd.toNat (op (s.rdS i f.sa.toNat) (s.opnd i i.lowest f.tb b'))

/-- Write a scalar pair. -/
def State.setS64 (s : State) (wk n : Nat) (v : DWord) : State :=
  (s.setS wk n (v.setWidth 32)).setS wk (n + 1) (v.extractLsb' 32 32)

def State.rdS64 (s : State) (i : Issue) (n : Nat) : DWord := s.rdS i (n + 1) ++ s.rdS i n

/-- SADD (R129). -/
def execSadd (f : FmtS) (s : State) : Res := .next (s.salu2 f (fun a b => a + b))

/-- SSUB (R129). -/
def execSsub (f : FmtS) (s : State) : Res := .next (s.salu2 f (fun a b => a - b))

/-- SMUL (R129). -/
def execSmul (f : FmtS) (s : State) : Res := .next (s.salu2 f (fun a b => a * b))

/-- SAND (R129). -/
def execSand (f : FmtS) (s : State) : Res := .next (s.salu2 f (fun a b => a &&& b))

/-- SOR (R129). -/
def execSor (f : FmtS) (s : State) : Res := .next (s.salu2 f (fun a b => a ||| b))

/-- SXOR (R129). -/
def execSxor (f : FmtS) (s : State) : Res := .next (s.salu2 f (fun a b => a ^^^ b))

/-- SSHL (R129). -/
def execSshl (f : FmtS) (s : State) : Res := .next (s.salu2 f shiftLeft)

/-- SSHRN (R129). -/
def execSshrn (f : FmtS) (s : State) : Res := .next (s.salu2 f shiftRightN)

/-- SSHRS (R129). -/
def execSshrs (f : FmtS) (s : State) : Res := .next (s.salu2 f shiftRightS)

/-- SMINS (R129). -/
def execSmins (f : FmtS) (s : State) : Res := .next (s.salu2 f (fun a b => if a.slt b then a else b))

/-- SMAXS (R129). -/
def execSmaxs (f : FmtS) (s : State) : Res := .next (s.salu2 f (fun a b => if b.slt a then a else b))

/-- SMINN (R129). -/
def execSminn (f : FmtS) (s : State) : Res := .next (s.salu2 f (fun a b => if a.ult b then a else b))

/-- SMAXN (R129). -/
def execSmaxn (f : FmtS) (s : State) : Res := .next (s.salu2 f (fun a b => if b.ult a then a else b))

/-- SADD64 (R130). -/
def execSadd64 (f : FmtS) (s : State) : Res :=
  .next (s.salu f.tb f.b true fun i b' s =>
    s.setS64 i.warp f.sd.toNat (s.rdS64 i f.sa.toNat + s.opnd64 i i.lowest f.tb b'))

/-- SMOV (R130). -/
def execSmov (f : FmtSmov) (s : State) : Res :=
  .next (s.salu f.tb f.b false fun i b' s => s.setS i.warp f.sd.toNat (s.opnd i i.lowest f.tb b'))

/-- SMOV64 (R130). -/
def execSmov64 (f : FmtSmov) (s : State) : Res :=
  .next (s.salu f.tb f.b true fun i b' s => s.setS64 i.warp f.sd.toNat (s.opnd64 i i.lowest f.tb b'))

/-- SCMP (R131): one evaluation, written to every thread of the bundle; a helper writes its own predicate (R297). -/
def execScmp (f : FmtScmp) (s : State) : Res :=
  .next (s.withScalar f.tb f.b false fun i b' s =>
    if !s.bundleActs i then s
    else
      let b := if f.cond.toNat < 10 then s.opnd i i.lowest f.tb b' else s.opndF i i.lowest .f32 false f.tb b'
      let v := condHolds f.cond (s.rdS i f.sa.toNat) b id id
      i.lanes.foldl (fun t l => t.wrP i l f.pd.toNat v) s)

end Sys2Proof.Machine
end

