-- ==== Sys2Proof/Machine/Dispatch.lean ====
section
/-! DEFINITION. The dispatcher: one arm per operation and event of the opcode table. -/

namespace Sys2Proof.Machine

def exec (i : Instr) (s : State) : Host.Outcome State Fault Refusal :=
  match i with
  | .iadd f => Sys2Proof.Machine.execIadd f s
  | .isub f => Sys2Proof.Machine.execIsub f s
  | .imul f => Sys2Proof.Machine.execImul f s
  | .imulhs f => Sys2Proof.Machine.execImulhs f s
  | .imulhn f => Sys2Proof.Machine.execImulhn f s
  | .imad f => Sys2Proof.Machine.execImad f s
  | .imins f => Sys2Proof.Machine.execImins f s
  | .iminn f => Sys2Proof.Machine.execIminn f s
  | .imaxs f => Sys2Proof.Machine.execImaxs f s
  | .imaxn f => Sys2Proof.Machine.execImaxn f s
  | .iaddsat f => Sys2Proof.Machine.execIaddsat f s
  | .isubsat f => Sys2Proof.Machine.execIsubsat f s
  | .and f => Sys2Proof.Machine.execAnd f s
  | .or f => Sys2Proof.Machine.execOr f s
  | .xor f => Sys2Proof.Machine.execXor f s
  | .andn f => Sys2Proof.Machine.execAndn f s
  | .shl f => Sys2Proof.Machine.execShl f s
  | .shrn f => Sys2Proof.Machine.execShrn f s
  | .shrs f => Sys2Proof.Machine.execShrs f s
  | .bfx f => Sys2Proof.Machine.execBfx f s
  | .bfi f => Sys2Proof.Machine.execBfi f s
  | .iadd64 f => Sys2Proof.Machine.execIadd64 f s
  | .perm f => Sys2Proof.Machine.execPerm f s
  | .sel f => Sys2Proof.Machine.execSel f s
  | .fadd f => Sys2Proof.Machine.execFadd f s
  | .fsub f => Sys2Proof.Machine.execFsub f s
  | .fmul f => Sys2Proof.Machine.execFmul f s
  | .ffma f => Sys2Proof.Machine.execFfma f s
  | .fmin f => Sys2Proof.Machine.execFmin f s
  | .fmax f => Sys2Proof.Machine.execFmax f s
  | .fscale f => Sys2Proof.Machine.execFscale f s
  | .badd2 f => Sys2Proof.Machine.execBadd2 f s
  | .bmul2 f => Sys2Proof.Machine.execBmul2 f s
  | .bfma2 f => Sys2Proof.Machine.execBfma2 f s
  | .hadd2 f => Sys2Proof.Machine.execHadd2 f s
  | .hmul2 f => Sys2Proof.Machine.execHmul2 f s
  | .hfma2 f => Sys2Proof.Machine.execHfma2 f s
  | .pack2 f => Sys2Proof.Machine.execPack2 f s
  | .bdot2 f => Sys2Proof.Machine.execBdot2 f s
  | .hdot2 f => Sys2Proof.Machine.execHdot2 f s
  | .mov f => Sys2Proof.Machine.execMov f s
  | .not f => Sys2Proof.Machine.execNot f s
  | .ineg f => Sys2Proof.Machine.execIneg f s
  | .iabs f => Sys2Proof.Machine.execIabs f s
  | .clz f => Sys2Proof.Machine.execClz f s
  | .popc f => Sys2Proof.Machine.execPopc f s
  | .brev f => Sys2Proof.Machine.execBrev f s
  | .mov64 f => Sys2Proof.Machine.execMov64 f s
  | .frcp f => Sys2Proof.Machine.execFrcp f s
  | .frsq f => Sys2Proof.Machine.execFrsq f s
  | .fsqrt f => Sys2Proof.Machine.execFsqrt f s
  | .fexp2 f => Sys2Proof.Machine.execFexp2 f s
  | .flog2 f => Sys2Proof.Machine.execFlog2 f s
  | .fsint f => Sys2Proof.Machine.execFsint f s
  | .fcost f => Sys2Proof.Machine.execFcost f s
  | .ftanh f => Sys2Proof.Machine.execFtanh f s
  | .frnd f => Sys2Proof.Machine.execFrnd f s
  | .ffract f => Sys2Proof.Machine.execFfract f s
  | .fclass f => Sys2Proof.Machine.execFclass f s
  | .cvt f => Sys2Proof.Machine.execCvt f s
  | .cmp f => Sys2Proof.Machine.execCmp f s
  | .sadd f => Sys2Proof.Machine.execSadd f s
  | .ssub f => Sys2Proof.Machine.execSsub f s
  | .smul f => Sys2Proof.Machine.execSmul f s
  | .sand f => Sys2Proof.Machine.execSand f s
  | .sor f => Sys2Proof.Machine.execSor f s
  | .sxor f => Sys2Proof.Machine.execSxor f s
  | .sshl f => Sys2Proof.Machine.execSshl f s
  | .sshrn f => Sys2Proof.Machine.execSshrn f s
  | .sshrs f => Sys2Proof.Machine.execSshrs f s
  | .smins f => Sys2Proof.Machine.execSmins f s
  | .smaxs f => Sys2Proof.Machine.execSmaxs f s
  | .sminn f => Sys2Proof.Machine.execSminn f s
  | .smaxn f => Sys2Proof.Machine.execSmaxn f s
  | .sadd64 f => Sys2Proof.Machine.execSadd64 f s
  | .smov f => Sys2Proof.Machine.execSmov f s
  | .smov64 f => Sys2Proof.Machine.execSmov64 f s
  | .scmp f => Sys2Proof.Machine.execScmp f s
  | .bra f => Sys2Proof.Machine.execBra f s
  | .brx f => Sys2Proof.Machine.execBrx f s
  | .call f => Sys2Proof.Machine.execCall f s
  | .calli f => Sys2Proof.Machine.execCalli f s
  | .ret f => Sys2Proof.Machine.execRet f s
  | .jmpi f => Sys2Proof.Machine.execJmpi f s
  | .meet f => Sys2Proof.Machine.execMeet f s
  | .meetx f => Sys2Proof.Machine.execMeetx f s
  | .exit f => Sys2Proof.Machine.execExit f s
  | .bar f => Sys2Proof.Machine.execBar f s
  | .bara f => Sys2Proof.Machine.execBara f s
  | .trap f => Sys2Proof.Machine.execTrap f s
  | .brkpt f => Sys2Proof.Machine.execBrkpt f s
  | .idemb f => Sys2Proof.Machine.execIdemb f s
  | .ideme f => Sys2Proof.Machine.execIdeme f s
  | .trig f => Sys2Proof.Machine.execTrig f s
  | .ldVbase f => Sys2Proof.Machine.execLdVbase f s
  | .ldSbase f => Sys2Proof.Machine.execLdSbase f s
  | .stVbase f => Sys2Proof.Machine.execStVbase f s
  | .stSbase f => Sys2Proof.Machine.execStSbase f s
  | .atomAdd f => Sys2Proof.Machine.execAtomAdd f s
  | .atomMins f => Sys2Proof.Machine.execAtomMins f s
  | .atomMaxs f => Sys2Proof.Machine.execAtomMaxs f s
  | .atomMinn f => Sys2Proof.Machine.execAtomMinn f s
  | .atomMaxn f => Sys2Proof.Machine.execAtomMaxn f s
  | .atomAnd f => Sys2Proof.Machine.execAtomAnd f s
  | .atomOr f => Sys2Proof.Machine.execAtomOr f s
  | .atomXor f => Sys2Proof.Machine.execAtomXor f s
  | .atomXchg f => Sys2Proof.Machine.execAtomXchg f s
  | .atomCas f => Sys2Proof.Machine.execAtomCas f s
  | .atomFadd f => Sys2Proof.Machine.execAtomFadd f s
  | .atomBadd2 f => Sys2Proof.Machine.execAtomBadd2 f s
  | .atomInc f => Sys2Proof.Machine.execAtomInc f s
  | .atomDec f => Sys2Proof.Machine.execAtomDec f s
  | .atomStrel f => Sys2Proof.Machine.execAtomStrel f s
  | .atomLdacq f => Sys2Proof.Machine.execAtomLdacq f s
  | .fence order scope => Sys2Proof.Machine.execFence order scope s
  | .waitf mask => Sys2Proof.Machine.execWaitf mask s
  | .tlrflush x fsel => Sys2Proof.Machine.execTlrflush x fsel s
  | .ipref f => Sys2Proof.Machine.execIpref f s
  | .ipin x y => Sys2Proof.Machine.execIpin x y s
  | .iunpin x y => Sys2Proof.Machine.execIunpin x y s
  | .cinv f => Sys2Proof.Machine.execCinv f s
  | .cwb f => Sys2Proof.Machine.execCwb f s
  | .mmq f => Sys2Proof.Machine.execMmq f s
  | .mmg f => Sys2Proof.Machine.execMmg f s
  | .mlds a f => Sys2Proof.Machine.execMlds a f s
  | .mrd tile a g => Sys2Proof.Machine.execMrd tile a g s
  | .mwr tile a g => Sys2Proof.Machine.execMwr tile a g s
  | .mclr tile n => Sys2Proof.Machine.execMclr tile n s
  | .shfli f => Sys2Proof.Machine.execShfli f s
  | .shflu f => Sys2Proof.Machine.execShflu f s
  | .shfld f => Sys2Proof.Machine.execShfld f s
  | .shflx f => Sys2Proof.Machine.execShflx f s
  | .swappair f => Sys2Proof.Machine.execSwappair f s
  | .bcastl f => Sys2Proof.Machine.execBcastl f s
  | .voteb f => Sys2Proof.Machine.execVoteb f s
  | .redux f => Sys2Proof.Machine.execRedux f s
  | .tcopy f => Sys2Proof.Machine.execTcopy f s
  | .tstore f => Sys2Proof.Machine.execTstore f s
  | .tgather f => Sys2Proof.Machine.execTgather f s
  | .tscatter f => Sys2Proof.Machine.execTscatter f s
  | .txfer f => Sys2Proof.Machine.execTxfer f s
  | .xacq mask tryIt p => Sys2Proof.Machine.execXacq mask tryIt p s
  | .xrel mask => Sys2Proof.Machine.execXrel mask s
  | .aacq t n tryIt p => Sys2Proof.Machine.execAacq t n tryIt p s
  | .arel t n => Sys2Proof.Machine.execArel t n s
  | .recruit d b n => Sys2Proof.Machine.execRecruit d b n s
  | .hreduce r k => Sys2Proof.Machine.execHreduce r k s
  | .hjoin d w => Sys2Proof.Machine.execHjoin d w s
  | .swreg x d fsel => Sys2Proof.Machine.execSwreg x d fsel s
  | .swdereg h fsel => Sys2Proof.Machine.execSwdereg h fsel s
  | .swq x y fsel => Sys2Proof.Machine.execSwq x y fsel s
  | .swurge x fsel => Sys2Proof.Machine.execSwurge x fsel s
  | .swstat x d fsel => Sys2Proof.Machine.execSwstat x d fsel s
  | .swliveDead x n fsel => Sys2Proof.Machine.execSwliveDead x n fsel s
  | .swliveLive x n fsel => Sys2Proof.Machine.execSwliveLive x n fsel s
  | .pfxlook f => Sys2Proof.Machine.execPfxlook f s
  | .pfxins f => Sys2Proof.Machine.execPfxins f s
  | .pfxrel x d fsel => Sys2Proof.Machine.execPfxrel x d fsel s
  | .pfxevict f => Sys2Proof.Machine.execPfxevict f s
  | .kappend f => Sys2Proof.Machine.execKappend f s
  | .kseq f => Sys2Proof.Machine.execKseq f s
  | .nmc a d fsel => Sys2Proof.Machine.execNmc a d fsel s
  | .nmfence fsel => Sys2Proof.Machine.execNmfence fsel s
  | .nmstat t d fsel => Sys2Proof.Machine.execNmstat t d fsel s
  | .launch a d k => Sys2Proof.Machine.execLaunch a d k s
  | .dcdec f => Sys2Proof.Machine.execDcdec f s
  | .dcadd f => Sys2Proof.Machine.execDcadd f s
  | .taskrdy f => Sys2Proof.Machine.execTaskrdy f s
  | .evpop d k tryIt fsel => Sys2Proof.Machine.execEvpop d k tryIt fsel s
  | .evpush r k => Sys2Proof.Machine.execEvpush r k s
  | .getsr x y k => Sys2Proof.Machine.execGetsr x y k s
  | .setsr x y k => Sys2Proof.Machine.execSetsr x y k s
  | .rand d w => Sys2Proof.Machine.execRand d w s
  | .clock d k => Sys2Proof.Machine.execClock d k s
  | .cwin a => Sys2Proof.Machine.execCwin a s
  | .uerpl r k => Sys2Proof.Machine.execUerpl r k s
  | .clause wait seta setb yld => Sys2Proof.Machine.execClause wait seta setb yld s
  | .bolterReform warp => Sys2Proof.Machine.execBolterReform warp s
  | .forcedReleaseReturn warp helper => Sys2Proof.Machine.execForcedReleaseReturn warp helper s
  | .helperReplacement warp => Sys2Proof.Machine.execHelperReplacement warp s
  | .hchunkWake warp helper => Sys2Proof.Machine.execHchunkWake warp helper s
  | .hjoinComplete warp => Sys2Proof.Machine.execHjoinComplete warp s
  | .handlerStart warp => Sys2Proof.Machine.execHandlerStart warp s
  | .loadDataReturn op => Sys2Proof.Machine.execLoadDataReturn op s
  | .storePerformed op => Sys2Proof.Machine.execStorePerformed op s
  | .sfuResult op => Sys2Proof.Machine.execSfuResult op s
  | .matrixOpComplete op => Sys2Proof.Machine.execMatrixOpComplete op s
  | .cacheOpDone op => Sys2Proof.Machine.execCacheOpDone op s
  | .tlrflushDone op => Sys2Proof.Machine.execTlrflushDone op s
  | .resourceGrant req => Sys2Proof.Machine.execResourceGrant req s
  | .warpEnd warp => Sys2Proof.Machine.execWarpEnd warp s
  | .tlrFill core ctx addr => Sys2Proof.Machine.execTlrFill core ctx addr s
  | .copyComplete cmd part => Sys2Proof.Machine.execCopyComplete cmd part s
  | .pdtPin cmd slot => Sys2Proof.Machine.execPdtPin cmd slot s
  | .pdtUnpin cmd slot => Sys2Proof.Machine.execPdtUnpin cmd slot s
  | .pageFreePush ctx pool page => Sys2Proof.Machine.execPageFreePush ctx pool page s
  | .kvEngineStep field => Sys2Proof.Machine.execKvEngineStep field s
  | .post wr => Sys2Proof.Machine.execPost wr s
  | .push core addr => Sys2Proof.Machine.execPush core addr s
  | .settle addr => Sys2Proof.Machine.execSettle addr s
  | .resume ctx => Sys2Proof.Machine.execResume ctx s
  | .serve ent => Sys2Proof.Machine.execServe ent s
  | .restore bank cls => Sys2Proof.Machine.execRestore bank cls s
  | .swqArrival req => Sys2Proof.Machine.execSwqArrival req s
  | .swurgeActivation ent => Sys2Proof.Machine.execSwurgeActivation ent s
  | .swstatSnapshot op lane => Sys2Proof.Machine.execSwstatSnapshot op lane s
  | .sweepRegArrive handle bank => Sys2Proof.Machine.execSweepRegArrive handle bank s
  | .sweepDeregArrive handle bank => Sys2Proof.Machine.execSweepDeregArrive handle bank s
  | .swregDescriptorRead op => Sys2Proof.Machine.execSwregDescriptorRead op s
  | .swregComplete op => Sys2Proof.Machine.execSwregComplete op s
  | .swliveArrive op granule => Sys2Proof.Machine.execSwliveArrive op granule s
  | .scrub channel => Sys2Proof.Machine.execScrub channel s
  | .nmcDescriptorRead op => Sys2Proof.Machine.execNmcDescriptorRead op s
  | .nmGemv cmd row seg => Sys2Proof.Machine.execNmGemv cmd row seg s
  | .nmCsum cmd row seg => Sys2Proof.Machine.execNmCsum cmd row seg s
  | .nmUpdate cmd row => Sys2Proof.Machine.execNmUpdate cmd row s
  | .nmFill cmd row => Sys2Proof.Machine.execNmFill cmd row s
  | .nmCopy cmd row write => Sys2Proof.Machine.execNmCopy cmd row write s
  | .nmCommandComplete cmd => Sys2Proof.Machine.execNmCommandComplete cmd s
  | .dcDecrement ctx entry status => Sys2Proof.Machine.execDcDecrement ctx entry status s
  | .evpopWake op => Sys2Proof.Machine.execEvpopWake op s
  | .frontEndLaunch ctx q => Sys2Proof.Machine.execFrontEndLaunch ctx q s
  | .teamPlace launch team core first => Sys2Proof.Machine.execTeamPlace launch team core first s
  | .teamMove team core first => Sys2Proof.Machine.execTeamMove team core first s
  | .reset ctx => Sys2Proof.Machine.execReset ctx s
  | .runaheadEnd warp => Sys2Proof.Machine.execRunaheadEnd warp s
  | .batchOpenDeferred core => Sys2Proof.Machine.execBatchOpenDeferred core s
  | .replayConsume ctx => Sys2Proof.Machine.execReplayConsume ctx s
  | .replayRetry ctx => Sys2Proof.Machine.execReplayRetry ctx s
  | .replayInvalidateRange ctx => Sys2Proof.Machine.execReplayInvalidateRange ctx s
  | .replayInvalidateContext ctx => Sys2Proof.Machine.execReplayInvalidateContext ctx s
  | .replayMigrate ctx => Sys2Proof.Machine.execReplayMigrate ctx s
  | .migrationTest mig => Sys2Proof.Machine.execMigrationTest mig s
  | .ptgenIncrement ctx => Sys2Proof.Machine.execPtgenIncrement ctx s
  | .drainExpire ctx => Sys2Proof.Machine.execDrainExpire ctx s
  | .preemptLimitExpire ctx => Sys2Proof.Machine.execPreemptLimitExpire ctx s
  | .skovRead src => Sys2Proof.Machine.execSkovRead src s
  | .skovWrite src => Sys2Proof.Machine.execSkovWrite src s
  | .skovAtomic src => Sys2Proof.Machine.execSkovAtomic src s
  | .skovResponse src => Sys2Proof.Machine.execSkovResponse src s
  | .skovBulkWrite src => Sys2Proof.Machine.execSkovBulkWrite src s
  | .atomicReturn op => Sys2Proof.Machine.execAtomicReturn op s
  | .temperatureThreshold stack hot => Sys2Proof.Machine.execTemperatureThreshold stack hot s
  | .scrubEscalate channel on => Sys2Proof.Machine.execScrubEscalate channel on s
  | .doorbell ctx q v => Sys2Proof.Machine.execDoorbell ctx q v s
  | .replayDoorbell ctx v => Sys2Proof.Machine.execReplayDoorbell ctx v s
  | .ptwdataWrite ctx v => Sys2Proof.Machine.execPtwdataWrite ctx v s
  | .preempt ctx drain => Sys2Proof.Machine.execPreempt ctx drain s
  | .drop point addr => Sys2Proof.Machine.execDrop point addr s
  | .pageWalk unit ctx va acc => Sys2Proof.Machine.execPageWalk unit ctx va acc s
  | .ctxwcbWrite ctx v => Sys2Proof.Machine.execCtxwcbWrite ctx v s
  | .cctaskWrite ctx v => Sys2Proof.Machine.execCctaskWrite ctx v s
  | .flr fn => Sys2Proof.Machine.execFlr fn s
  | .registerWrite reg v => Sys2Proof.Machine.execRegisterWrite reg v s
  | .hostLinkDown link => Sys2Proof.Machine.execHostLinkDown link s
  | .atsInvalidate link pasid frame => Sys2Proof.Machine.execAtsInvalidate link pasid frame s
  | .priResponse link pasid frame granted => Sys2Proof.Machine.execPriResponse link pasid frame granted s
  | .flitReceive port flit => Sys2Proof.Machine.execFlitReceive port flit s
  | .portDown port => Sys2Proof.Machine.execPortDown port s
  | .bringupStepEnd ok => Sys2Proof.Machine.execBringupStepEnd ok s
  | .fieldCurrentAverage field tenthsAmp => Sys2Proof.Machine.execFieldCurrentAverage field tenthsAmp s
  | .clockThrottleStep field => Sys2Proof.Machine.execClockThrottleStep field s
  | .capUpdate fieldPower ioPower => Sys2Proof.Machine.execCapUpdate fieldPower ioPower s
  | .telemetryCapture src => Sys2Proof.Machine.execTelemetryCapture src s
  | .hostAgentAccess acc => Sys2Proof.Machine.execHostAgentAccess acc s
  | .hostLinkUp link => Sys2Proof.Machine.execHostLinkUp link s
  | .portUp port => Sys2Proof.Machine.execPortUp port s
  | .softError addr correctable => Sys2Proof.Machine.execSoftError addr correctable s
  | .yield => Sys2Proof.Machine.execYield s
  | .priopass => Sys2Proof.Machine.execPriopass s
  | .nop => Sys2Proof.Machine.execNop s
  | .trapret => Sys2Proof.Machine.execTrapret s
  | .opfence => Sys2Proof.Machine.execOpfence s
  | .mswap => Sys2Proof.Machine.execMswap s
  | .hchunk => Sys2Proof.Machine.execHchunk s
  | .hcommit => Sys2Proof.Machine.execHcommit s
  | .hexit => Sys2Proof.Machine.execHexit s
  | .cwinArgs => Sys2Proof.Machine.execCwinArgs s
  | .bringup => Sys2Proof.Machine.execBringup s
  | .bringupStepTimeout => Sys2Proof.Machine.execBringupStepTimeout s
  | .bootclr => Sys2Proof.Machine.execBootclr s
  | .powerLoss => Sys2Proof.Machine.execPowerLoss s

end Sys2Proof.Machine
end

