-- ==== Sys2Proof/Machine/Packet.lean ====
section
/-! DEFINITION. Packets and their groups (R60 to R86): what each word uses (its pipe, its PFX fields, the registers it reads
and writes), the arrangement checks of R85, and the group a bundle stands at. -/

namespace Sys2Proof.Machine

/-- The pipes of R66. -/
inductive Pipe where
  | v
  | t
  | s
  | b
  | m
  | x
  | a
  | none
  deriving DecidableEq, Repr

/-- What a word uses: its pipe and PFX kind (R66), the registers it names (R64, R70), the constant words, accumulator tiles
and special registers, whether it owns a literal word (R79), and the PFX fields it takes (R74, R106). -/
structure Uses where
  pipe : Pipe
  kind : BitVec 1
  lit : Bool := false
  badTag : Bool := false
  srcV : List Nat := []
  dstV : List Nat := []
  srcS : List Nat := []
  dstS : List Nat := []
  srcP : List Nat := []
  dstP : List Nat := []
  consts : List Nat := []
  tiles : List Nat := []
  /-- The first of the tiles that the quarters reach, one each (R184). -/
  spread : Option Nat := none
  srs : List Nat := []
  cc : Bool := false
  guard : Bool := true
  round : Bool := false
  sat : Bool := false
  nega : Bool := false
  negb : Bool := false
  c : Bool := false
  redir : Bool := false
  hib : Bool := false
  cache : Bool := false
  w64 : Bool := false
  rp : Bool := false
  hi7 : Bool := false
  /-- HI7[0] as bit 6 of Z (R80). -/
  hi7z : Bool := false
  deriving DecidableEq, Repr

def uses (pipe : Pipe) (kind : BitVec 1) : Uses := { pipe := pipe, kind := kind }

/-- A tagged source of `n` words (R77). -/
def Uses.src (u : Uses) (tag : BitVec 2) (f : BitVec 7) (n : Nat) : Uses :=
  if tag = 0 then { u with srcV := u.srcV ++ regRange f.toNat n }
  else if tag = 1 then { u with srcS := u.srcS ++ regRange f.toNat n, badTag := u.badTag || decide (64 ≤ f.toNat) }
  else if tag = 2 then { u with consts := u.consts ++ regRange f.toNat n }
  else if f = 0x40 then { u with lit := true }
  else u

def Uses.readV (u : Uses) (r : BitVec 7) (n : Nat) : Uses := { u with srcV := u.srcV ++ regRange r.toNat n }

def Uses.readS (u : Uses) (r n : Nat) : Uses := { u with srcS := u.srcS ++ regRange r n }

def Uses.dst (u : Uses) (r : BitVec 7) (n : Nat) : Uses := { u with dstV := u.dstV ++ regRange r.toNat n }

def Uses.dstSc (u : Uses) (r n : Nat) : Uses := { u with dstS := u.dstS ++ regRange r n }

/-- A register of the kind bit (R161, R372). -/
def Uses.readK (u : Uses) (k : BitVec 1) (r : BitVec 7) (n : Nat) : Uses := if k = 0 then u.readV r n else u.readS r.toNat n

def Uses.dstK (u : Uses) (k : BitVec 1) (r : BitVec 7) (n : Nat) : Uses := if k = 0 then u.dst r n else u.dstSc r.toNat n

/-- Registers of a memory word: vectors, or scalars on the control core (R370). -/
def Uses.dat (u : Uses) (r : BitVec 7) (n : Nat) : Uses := if u.cc then u.readS r.toNat n else u.readV r n

def Uses.ret (u : Uses) (r : BitVec 7) (n : Nat) : Uses := if u.cc then u.dstSc r.toNat n else u.dst r n

/-- The third source (R74). -/
def Uses.third (u : Uses) (p : Option Pfx) (d : BitVec 7) : Uses :=
  match p with
  | none => { u.readV d 1 with c := true }
  | some p => { u.src p.tc p.cfield 1 with c := true }

def intA (f : FmtA) : Uses := (((uses .v 0).src f.ta f.a 1).src f.tb f.b 1).dst f.d 1

def fltA (f : FmtA) : Uses := { intA f with round := true, sat := true, nega := true, negb := true }

def unary (pipe : Pipe) (f : FmtU) : Uses := ((uses pipe 0).src f.ta f.a 1).dst f.d 1

def lanes (d : BitVec 7) (ta : BitVec 2) (a : BitVec 7) : Uses := ((uses .v 0).src ta a 1).dst d 1

/-- Format S with its operand B' (R78). -/
def scalar (p : Option Pfx) (tb : BitVec 2) (b : BitVec 6) (n : Nat) : Uses :=
  let f : BitVec 7 := match p with
    | some p => p.hib ++ b
    | none => if tb = 3 then b.signExtend 7 else b.setWidth 7
  { (uses .s 0).src tb f n with hib := true }

/-- Format B: no guard, its own predicate (R74, R137). -/
def ctrl (pred : BitVec 3) : Uses := { uses .b 1 with guard := false, srcP := [pred.toNat] }

def memory (cc : Bool) : Uses := { uses .m 1 with cc := cc }

/-- Data registers of a size code. -/
def dataWords (size : BitVec 3) : Nat := if size = 6 then 4 else if size = 5 then 2 else 1

def atomWords (p : Option Pfx) : Nat := match p with
  | some p => if p.w64 = 1 then 2 else 1
  | none => 1

/-- ATOM with `n` operands in D (R155). CACHE has a check of its own. -/
def atomic (cc : Bool) (p : Option Pfx) (a d : BitVec 7) (n : Nat) (returns : Bool) : Uses :=
  let u := ((memory cc).dat a 2).dat d (n * atomWords p)
  let u := if returns then u.ret d (atomWords p) else u
  { u with redir := true, w64 := true, rp := true, cache := true }

def matrix : Uses := { uses .x 0 with redir := true }

def engine : Uses := { uses .a 1 with redir := true }

/-- Z with bit 6 from HI7[0] (R80). -/
def zReg (p : Option Pfx) (z : BitVec 6) : BitVec 7 := match p with
  | some p => p.hi7.extractLsb' 0 1 ++ z
  | none => z.setWidth 7

/-- What an instruction uses, under its PFX; `cc` says that it runs on the control core. -/
def usesOf (i : Instr) (p : Option Pfx) (cc : Bool) : Uses :=
  match i with
  | .iadd f => intA f
  | .isub f => intA f
  | .imul f => intA f
  | .imulhs f => intA f
  | .imulhn f => intA f
  | .imad f => (intA f).third p f.d
  | .imins f => intA f
  | .iminn f => intA f
  | .imaxs f => intA f
  | .imaxn f => intA f
  | .iaddsat f => intA f
  | .isubsat f => intA f
  | .and f => intA f
  | .or f => intA f
  | .xor f => intA f
  | .andn f => intA f
  | .shl f => intA f
  | .shrn f => intA f
  | .shrs f => intA f
  | .bfx f => intA f
  | .bfi f => (intA f).third p f.d
  | .iadd64 f => ((uses .v 0).src f.ta f.a 2 |>.src f.tb f.b 2).dst f.d 2
  | .perm f => intA f
  | .sel f => (intA f).readV f.d 1
  | .fadd f => fltA f
  | .fsub f => fltA f
  | .fmul f => fltA f
  | .ffma f => (fltA f).third p f.d
  | .fmin f => { intA f with nega := true, negb := true }
  | .fmax f => { intA f with nega := true, negb := true }
  | .fscale f => { intA f with round := true, sat := true, nega := true }
  | .badd2 f => fltA f
  | .bmul2 f => fltA f
  | .bfma2 f => (fltA f).third p f.d
  | .hadd2 f => fltA f
  | .hmul2 f => fltA f
  | .hfma2 f => (fltA f).third p f.d
  | .pack2 f => intA f
  | .bdot2 f => (fltA f).third p f.d
  | .hdot2 f => (fltA f).third p f.d
  | .mov f => unary .v f
  | .not f => unary .v f
  | .ineg f => { unary .v f with sat := true }
  | .iabs f => { unary .v f with sat := true }
  | .clz f => unary .v f
  | .popc f => unary .v f
  | .brev f => unary .v f
  | .mov64 f => ((uses .v 0).src f.ta f.a 2).dst f.d 2
  | .frcp f => { unary .t f with nega := true, redir := true }
  | .frsq f => { unary .t f with nega := true, redir := true }
  | .fsqrt f => { unary .t f with round := true, nega := true, redir := true }
  | .fexp2 f => { unary .t f with nega := true, redir := true }
  | .flog2 f => { unary .t f with nega := true, redir := true }
  | .fsint f => { unary .t f with nega := true, redir := true }
  | .fcost f => { unary .t f with nega := true, redir := true }
  | .ftanh f => { unary .t f with nega := true, redir := true }
  | .frnd f => { unary .v f with round := true, nega := true }
  | .ffract f => { unary .v f with nega := true }
  | .fclass f => { unary .v f with nega := true }
  | .cvt f => { ((uses .v 0).src f.ta f.a 1).dst f.d 1 with round := true, nega := decide (f.x.toNat < 6) }
  | .cmp f => { ((uses .v 0).src f.ta f.a 1).src f.tb f.b 1 with
      dstP := [f.pd.toNat], nega := decide (10 ≤ f.cond.toNat), negb := decide (10 ≤ f.cond.toNat) }
  | .sadd f => ((scalar p f.tb f.b 1).readS f.sa.toNat 1).dstSc f.sd.toNat 1
  | .ssub f => ((scalar p f.tb f.b 1).readS f.sa.toNat 1).dstSc f.sd.toNat 1
  | .smul f => ((scalar p f.tb f.b 1).readS f.sa.toNat 1).dstSc f.sd.toNat 1
  | .sand f => ((scalar p f.tb f.b 1).readS f.sa.toNat 1).dstSc f.sd.toNat 1
  | .sor f => ((scalar p f.tb f.b 1).readS f.sa.toNat 1).dstSc f.sd.toNat 1
  | .sxor f => ((scalar p f.tb f.b 1).readS f.sa.toNat 1).dstSc f.sd.toNat 1
  | .sshl f => ((scalar p f.tb f.b 1).readS f.sa.toNat 1).dstSc f.sd.toNat 1
  | .sshrn f => ((scalar p f.tb f.b 1).readS f.sa.toNat 1).dstSc f.sd.toNat 1
  | .sshrs f => ((scalar p f.tb f.b 1).readS f.sa.toNat 1).dstSc f.sd.toNat 1
  | .smins f => ((scalar p f.tb f.b 1).readS f.sa.toNat 1).dstSc f.sd.toNat 1
  | .smaxs f => ((scalar p f.tb f.b 1).readS f.sa.toNat 1).dstSc f.sd.toNat 1
  | .sminn f => ((scalar p f.tb f.b 1).readS f.sa.toNat 1).dstSc f.sd.toNat 1
  | .smaxn f => ((scalar p f.tb f.b 1).readS f.sa.toNat 1).dstSc f.sd.toNat 1
  | .sadd64 f => ((scalar p f.tb f.b 2).readS f.sa.toNat 2).dstSc f.sd.toNat 2
  | .smov f => (scalar p f.tb f.b 1).dstSc f.sd.toNat 1
  | .smov64 f => (scalar p f.tb f.b 2).dstSc f.sd.toNat 2
  | .scmp f => { (scalar p f.tb f.b 1).readS f.sa.toNat 1 with dstP := [f.pd.toNat] }
  | .bra f => { ctrl f.pred with hi7 := true }
  | .brx f => (ctrl f.pred).src f.tag f.reg 1
  | .call f => { ctrl f.pred with hi7 := true }
  | .calli f => (ctrl f.pred).src f.tag f.reg 1
  | .ret f => ctrl f.pred
  | .jmpi f => (ctrl f.pred).src f.tag f.reg 1
  | .meet f => { ctrl f.pred with hi7 := true, srs := [17, 18] }
  | .meetx f => { (ctrl f.pred).src f.tag f.reg 1 with srs := [if f.sel = 1 then 17 else 18] }
  | .exit f => ctrl f.pred
  | .bar f => ctrl f.pred
  | .bara f => ctrl f.pred
  | .trap f => ctrl f.pred
  | .brkpt f => ctrl f.pred
  | .idemb f => ctrl f.pred
  | .ideme f => ctrl f.pred
  | .trig f => ctrl f.pred
  | .ldVbase f => { ((memory cc).dat f.a 2).ret f.d (dataWords f.size) with cache := true, redir := true }
  | .ldSbase f => { (((memory cc).readS (2 * f.pair.toNat) 2).dat f.v (if f.nov = 1 then 0 else 1)).ret f.d (dataWords f.size) with
      cache := true, redir := true, hi7 := true }
  | .stVbase f => { ((memory cc).dat f.a 2).dat f.d (dataWords f.size) with cache := true, redir := true }
  | .stSbase f => { (((memory cc).readS (2 * f.pair.toNat) 2).dat f.v (if f.nov = 1 then 0 else 1)).dat f.d (dataWords f.size) with
      cache := true, redir := true, hi7 := true }
  | .atomAdd f => atomic cc p f.a f.d 1 true
  | .atomMins f => atomic cc p f.a f.d 1 true
  | .atomMaxs f => atomic cc p f.a f.d 1 true
  | .atomMinn f => atomic cc p f.a f.d 1 true
  | .atomMaxn f => atomic cc p f.a f.d 1 true
  | .atomAnd f => atomic cc p f.a f.d 1 true
  | .atomOr f => atomic cc p f.a f.d 1 true
  | .atomXor f => atomic cc p f.a f.d 1 true
  | .atomXchg f => atomic cc p f.a f.d 1 true
  | .atomCas f => atomic cc p f.a f.d 2 true
  | .atomFadd f => atomic cc p f.a f.d 1 true
  | .atomBadd2 f => atomic cc p f.a f.d 1 true
  | .atomInc f => atomic cc p f.a f.d 1 true
  | .atomDec f => atomic cc p f.a f.d 1 true
  | .atomStrel f => atomic cc p f.a f.d 1 false
  | .atomLdacq f => { (memory cc).dat f.a 2 |>.ret f.d (atomWords p) with redir := true, w64 := true, rp := true, cache := true }
  | .fence _ _ => uses .m 1
  | .waitf _ => uses .b 1
  | .tlrflush x _ => { (uses .a 1).readV x 2 with redir := true }
  | .ipref f => { ((uses .b 1).readS f.x.toNat 1).readS f.y.toNat 1 with redir := true }
  | .ipin x y => ((uses .b 1).readS x.toNat 1).readS y.toNat 1
  | .iunpin x y => ((uses .b 1).readS x.toNat 1).readS y.toNat 1
  | .cinv f => { ((memory cc).dat f.x 2).readS f.y.toNat 1 with redir := true }
  | .cwb f => { ((memory cc).dat f.x 2).readS f.y.toNat 1 with redir := true }
  | .mmq f => { ((matrix.readV f.f 1).readV f.a 16) with spread := some f.tile.toNat }
  | .mmg f => { ((matrix.readV f.f 1).readV f.a 3) with spread := some f.tile.toNat }
  | .mlds a f => (matrix.readV a 1).readV f 1
  | .mrd _ a _ => matrix.dst a 16
  | .mwr tile a _ => { matrix.readV a 16 with spread := some tile.toNat }
  | .mclr tile n => { matrix with tiles := regRange tile.toNat (n.toNat + 1) }
  | .shfli f => if f.lane.getLsbD 5 then (lanes f.d f.ta f.a).third p f.d else lanes f.d f.ta f.a
  | .shflu f => if f.lane.getLsbD 5 then (lanes f.d f.ta f.a).third p f.d else lanes f.d f.ta f.a
  | .shfld f => if f.lane.getLsbD 5 then (lanes f.d f.ta f.a).third p f.d else lanes f.d f.ta f.a
  | .shflx f => if f.lane.getLsbD 5 then (lanes f.d f.ta f.a).third p f.d else lanes f.d f.ta f.a
  | .swappair f => lanes f.d f.ta f.a
  | .bcastl f => lanes f.d f.ta f.a
  | .voteb f => lanes f.d f.ta f.a
  | .redux f => lanes f.d f.ta f.a
  | .tcopy f => ((uses .a 1).readV f.handle 2).readV f.coord 6
  | .tstore f => ((uses .a 1).readV f.handle 2).readV f.coord 6
  | .tgather f => ((uses .a 1).readV f.handle 2).readV f.coord 3
  | .tscatter f => ((uses .a 1).readV f.handle 2).readV f.coord 2
  | .txfer f => ((uses .a 1).readV f.handle 2).readV f.coord 3
  | .xacq _ tryIt p' => { uses .b 1 with dstP := if tryIt = 1 then [p'.toNat] else [] }
  | .xrel _ => uses .b 1
  | .aacq t n tryIt p' => { uses .b 1 with dstP := if tryIt = 1 then [p'.toNat] else [], tiles := regRange t.toNat (n.toNat + 1) }
  | .arel _ _ => uses .b 1
  | .recruit d b _ => ((uses .b 1).readV b 4).dstSc d.toNat 1
  | .hreduce r _ => (uses .b 1).readV r 1
  | .hjoin d w => if w = 1 then (uses .b 1).dst d 4 else uses .b 1
  | .swreg x d _ => (engine.readV x 2).dst d 1
  | .swdereg h _ => engine.readV h 1
  | .swq x y _ => (engine.readV x 2).readV y 3
  | .swurge x _ => engine.readV x 2
  | .swstat x d _ => (engine.readV x 2).dst d 3
  | .swliveDead x n _ => (engine.readV x 2).readV n 1
  | .swliveLive x n _ => (engine.readV x 2).readV n 1
  | .pfxlook f => { ((engine.readV f.x 2).readV (zReg p f.z) 3).dst f.d 3 with hi7z := true }
  | .pfxins f => { ((engine.readV f.x 2).readV (zReg p f.z) 3).dst f.d 3 with hi7z := true }
  | .pfxrel x d _ => (engine.readV x 2).dst d 2
  | .pfxevict f => { ((engine.readV f.x 2).readV (zReg p f.z) 1).dst f.d 3 with hi7z := true }
  | .kappend f => { ((engine.readV f.x 2).readV (zReg p f.z) 2).dst f.d 4 with hi7z := true }
  | .kseq f => { ((engine.readV f.x 2).readV (zReg p f.z) 3).dst f.d 2 with hi7z := true }
  | .nmc a d _ => (engine.readV a 2).dst d 1
  | .nmfence _ => engine
  | .nmstat t d _ => (engine.readV t 1).dst d 2
  | .launch a d k => ((uses .a 1).readK k a 2).dstK k d 1
  | .dcdec f => if f.g = 1 then (uses .a 1).readK f.k f.m 1 else uses .a 1
  | .dcadd f => if f.g = 1 then (uses .a 1).readK f.k f.m 1 else uses .a 1
  | .taskrdy f => if f.g = 1 then (uses .a 1).readK f.k f.m 1 else uses .a 1
  | .evpop d k _ _ => { (uses .a 1).dstK k d 4 with redir := true }
  | .evpush r k => (uses .a 1).readK k r 4
  | .getsr x _ k => (uses .s 1).dstK k x 1
  | .setsr x y k => { (uses .s 1).readK k x 1 with srs := [y.toNat] }
  | .rand d w => { (uses .v 1).dst d (2 ^ w.toNat) with srs := [19] }
  | .clock d k => (uses .s 1).dstK k d 2
  | .cwin a => { (uses .s 1).readS a.toNat 2 with srs := [22] }
  | .uerpl r _ => (uses .m 1).readV r 1
  | .clause _ _ _ _ => uses .none 0
  | .bolterReform _ => uses .none 0
  | .forcedReleaseReturn _ _ => uses .none 0
  | .helperReplacement _ => uses .none 0
  | .hchunkWake _ _ => uses .none 0
  | .hjoinComplete _ => uses .none 0
  | .handlerStart _ => uses .none 0
  | .loadDataReturn _ => uses .none 0
  | .storePerformed _ => uses .none 0
  | .sfuResult _ => uses .none 0
  | .matrixOpComplete _ => uses .none 0
  | .cacheOpDone _ => uses .none 0
  | .tlrflushDone _ => uses .none 0
  | .resourceGrant _ => uses .none 0
  | .warpEnd _ => uses .none 0
  | .tlrFill _ _ _ => uses .none 0
  | .copyComplete _ _ => uses .none 0
  | .pdtPin _ _ => uses .none 0
  | .pdtUnpin _ _ => uses .none 0
  | .pageFreePush _ _ _ => uses .none 0
  | .kvEngineStep _ => uses .none 0
  | .post _ => uses .none 0
  | .push _ _ => uses .none 0
  | .settle _ => uses .none 0
  | .resume _ => uses .none 0
  | .serve _ => uses .none 0
  | .restore _ _ => uses .none 0
  | .swqArrival _ => uses .none 0
  | .swurgeActivation _ => uses .none 0
  | .swstatSnapshot _ _ => uses .none 0
  | .sweepRegArrive _ _ => uses .none 0
  | .sweepDeregArrive _ _ => uses .none 0
  | .swregDescriptorRead _ => uses .none 0
  | .swregComplete _ => uses .none 0
  | .swliveArrive _ _ => uses .none 0
  | .scrub _ => uses .none 0
  | .nmcDescriptorRead _ => uses .none 0
  | .nmGemv _ _ _ => uses .none 0
  | .nmCsum _ _ _ => uses .none 0
  | .nmUpdate _ _ => uses .none 0
  | .nmFill _ _ => uses .none 0
  | .nmCopy _ _ _ => uses .none 0
  | .nmCommandComplete _ => uses .none 0
  | .dcDecrement _ _ _ => uses .none 0
  | .evpopWake _ => uses .none 0
  | .frontEndLaunch _ _ => uses .none 0
  | .teamPlace _ _ _ _ => uses .none 0
  | .teamMove _ _ _ => uses .none 0
  | .reset _ => uses .none 0
  | .runaheadEnd _ => uses .none 0
  | .batchOpenDeferred _ => uses .none 0
  | .replayConsume _ => uses .none 0
  | .replayRetry _ => uses .none 0
  | .replayInvalidateRange _ => uses .none 0
  | .replayInvalidateContext _ => uses .none 0
  | .replayMigrate _ => uses .none 0
  | .migrationTest _ => uses .none 0
  | .ptgenIncrement _ => uses .none 0
  | .drainExpire _ => uses .none 0
  | .preemptLimitExpire _ => uses .none 0
  | .skovRead _ => uses .none 0
  | .skovWrite _ => uses .none 0
  | .skovAtomic _ => uses .none 0
  | .skovResponse _ => uses .none 0
  | .skovBulkWrite _ => uses .none 0
  | .atomicReturn _ => uses .none 0
  | .temperatureThreshold _ _ => uses .none 0
  | .scrubEscalate _ _ => uses .none 0
  | .doorbell _ _ _ => uses .none 0
  | .replayDoorbell _ _ => uses .none 0
  | .ptwdataWrite _ _ => uses .none 0
  | .preempt _ _ => uses .none 0
  | .drop _ _ => uses .none 0
  | .pageWalk _ _ _ _ => uses .none 0
  | .ctxwcbWrite _ _ => uses .none 0
  | .cctaskWrite _ _ => uses .none 0
  | .flr _ => uses .none 0
  | .registerWrite _ _ => uses .none 0
  | .hostLinkDown _ => uses .none 0
  | .atsInvalidate _ _ _ => uses .none 0
  | .priResponse _ _ _ _ => uses .none 0
  | .flitReceive _ _ => uses .none 0
  | .portDown _ => uses .none 0
  | .bringupStepEnd _ => uses .none 0
  | .fieldCurrentAverage _ _ => uses .none 0
  | .clockThrottleStep _ => uses .none 0
  | .capUpdate _ _ => uses .none 0
  | .telemetryCapture _ => uses .none 0
  | .hostAgentAccess _ => uses .none 0
  | .hostLinkUp _ => uses .none 0
  | .portUp _ => uses .none 0
  | .softError _ _ => uses .none 0
  | .yield => ctrl 7
  | .priopass => ctrl 7
  | .nop => ctrl 7
  | .trapret => ctrl 7
  | .opfence => uses .m 1
  | .mswap => uses .x 0
  | .hchunk => { ((uses .b 1).dst 64 1).dst 65 1 with dstP := [0] }
  | .hcommit => uses .b 1
  | .hexit => uses .b 1
  | .cwinArgs => { uses .s 1 with srs := [22] }
  | .bringup => uses .none 0
  | .bringupStepTimeout => uses .none 0
  | .bootclr => uses .none 0
  | .powerLoss => uses .none 0

/-! ### The PFX word -/

def parsePfx (w : Word) : Pfx :=
  let k := w.extractLsb' 24 1
  { kind := k, guard := w.extractLsb' 21 3, gneg := w.extractLsb' 20 1, redirect := w.extractLsb' 18 2
    tc := if k = 0 then w.extractLsb' 16 2 else 0
    cfield := if k = 0 then w.extractLsb' 9 7 else 0
    round := if k = 0 then w.extractLsb' 7 2 else 0
    sat := if k = 0 then w.extractLsb' 6 1 else 0
    nega := if k = 0 then w.extractLsb' 5 1 else 0
    absa := if k = 0 then w.extractLsb' 4 1 else 0
    negb := if k = 0 then w.extractLsb' 3 1 else 0
    absb := if k = 0 then w.extractLsb' 2 1 else 0
    hib := if k = 0 then w.extractLsb' 0 1 else 0
    cache := if k = 1 then w.extractLsb' 16 2 else 0
    w64 := if k = 1 then w.extractLsb' 15 1 else 0
    rp := if k = 1 then w.extractLsb' 14 1 else 0
    hi7 := if k = 1 then w.extractLsb' 7 7 else 0
    rsvd := if k = 0 then (w.extractLsb' 1 1).setWidth 7 else w.extractLsb' 0 7 }

/-- Reserved bits and values of a PFX (R85). -/
def Pfx.fieldsOk (p : Pfx) : Bool := p.rsvd == 0 && !(p.guard == 7 && p.gneg == 1) && tagOk p.tc p.cfield

/-- Does the word use every PFX field that is not at its default (R74)? -/
def Pfx.unusedOk (p : Pfx) (u : Uses) : Bool :=
  (u.guard || p.guard == 7) && (u.redir || p.redirect == 0) && (u.c || (p.tc == 0 && p.cfield == 0)) &&
  (u.round || p.round == 0) && (u.sat || p.sat == 0) && (u.nega || (p.nega == 0 && p.absa == 0)) &&
  (u.negb || (p.negb == 0 && p.absb == 0)) && (u.hib || p.hib == 0) && (u.cache || p.cache == 0) &&
  (u.w64 || p.w64 == 0) && (u.rp || p.rp == 0) &&
  (u.hi7 || (u.hi7z && p.hi7.extractLsb' 1 6 == 0) || p.hi7 == 0)

/-- The order and op of an ATOM, and its data register (R155). -/
def atomParts (i : Instr) : Option (BitVec 2 × Nat × BitVec 7) :=
  match i with
  | .atomAdd f => some (f.order, 0, f.d)
  | .atomMins f => some (f.order, 1, f.d)
  | .atomMaxs f => some (f.order, 2, f.d)
  | .atomMinn f => some (f.order, 3, f.d)
  | .atomMaxn f => some (f.order, 4, f.d)
  | .atomAnd f => some (f.order, 5, f.d)
  | .atomOr f => some (f.order, 6, f.d)
  | .atomXor f => some (f.order, 7, f.d)
  | .atomXchg f => some (f.order, 8, f.d)
  | .atomCas f => some (f.order, 9, f.d)
  | .atomFadd f => some (f.order, 10, f.d)
  | .atomBadd2 f => some (f.order, 11, f.d)
  | .atomInc f => some (f.order, 12, f.d)
  | .atomDec f => some (f.order, 13, f.d)
  | .atomStrel f => some (2, 14, f.d)
  | .atomLdacq f => some (1, 15, f.d)
  | _ => none

/-- The sub-causes an ATOM's PFX raises at the ATOM (R85, R155). -/
def atomErrors (i : Instr) (p : Pfx) : List Nat :=
  match atomParts i with
  | none => []
  | some (order, op, d) =>
    (if p.cache != 0 then [3] else []) ++
    (if p.w64 = 1 ∧ d.toNat % (if op = 9 then 4 else 2) ≠ 0 then [3] else []) ++
    (if p.w64 = 1 ∧ (op = 10 ∨ op = 11) then [0x11] else []) ++
    (if p.rp = 1 ∧ (order = 0 ∨ order = 2) then [0x11] else [])

/-! ### Groups -/

def major (w : Word) : Nat := (w.extractLsb' 25 6).toNat

def chained (w : Word) : Bool := w.getLsbD 31

/-- The PFX kind a major accepts (R66); none for a reserved one. -/
def pfxKind (maj : Nat) : Option (BitVec 1) :=
  if maj ≤ 0x2A ∨ maj = 0x30 ∨ maj = 0x31 then some 0 else if maj ≤ 0x39 then some 1 else none

/-- One member of a group. -/
structure Member where
  slot : Nat
  instr : Instr
  uses : Uses
  lit : Word
  deriving DecidableEq, Repr

/-- An encoding trap: sub-cause, slot, and the major of the word. -/
structure EncErr where
  code : Nat
  slot : Nat
  /-- The offending word, 0 where that is no matter. -/
  word : Word
  deriving DecidableEq, Repr

/-- What stands at a slot: a header, a group with the slot after it, or an encoding trap. -/
inductive Scan where
  | header (i : Instr)
  | group (p : Option Pfx) (ms : List Member) (after : Nat)
  /-- With what is left of the group, whose words may raise a lower sub-cause still. -/
  | bad (e : EncErr) (p : Option Pfx) (ms : List Member) (after : Nat)
  deriving DecidableEq, Repr

/-- The lowest sub-cause, at the earliest slot (R85). -/
def worst : List EncErr → Option EncErr
  | [] => none
  | e :: r => match worst r with
    | none => some e
    | some f => if f.code < e.code then some f else some e

/-- A word's own error, if it still has the shape of an instruction, and that instruction: a CVT of one type to itself is
looked at as the CVT of its source type to another. -/
def decodeShape (w : Word) : Option DecodeErr × Except DecodeErr Instr :=
  match decodeWord w with
  | .error .cvtSameType => (some .cvtSameType, decodeWord (w ^^^ 0x10))
  | r => (none, r)

/-- The tiles of a matrix word, one for each quarter of the bundle (R184): `reach` holds `q + 4 r`. -/
def Uses.reaches (u : Uses) (reach : List Nat) : Uses :=
  match u.spread with
  | none => u
  | some t => { u with tiles := reach.map (t + ·) }

/-- Does a word own a literal by its operand fields (R79), whatever else is wrong with it? -/
def ownsLiteral (w : Word) (p : Option Pfx) : Bool :=
  let m := major w
  let a := w.extractLsb' 16 2 == 3 && w.extractLsb' 9 7 == 0x40
  let b := w.extractLsb' 7 2 == 3 && w.extractLsb' 0 7 == 0x40
  let s := w.extractLsb' 6 2 == 3 && w.extractLsb' 0 6 == 0 && (p.map fun x => x.kind == 0 && x.hib == 1).getD false
  let c := (p.map fun x => x.kind == 0 && x.tc == 3 && x.cfield == 0x40).getD false
  (decide (m < 0x28 ∨ m = 0x29) && (a || b)) || (decide (m = 0x28 ∨ m = 0x31) && a) || (decide (m = 0x2A) && s) || c

/-- What a PFX raises in slot `q`, but for what stands after it (R76, R85). -/
def pfxErrors (w : Word) (q : Nat) : List Nat :=
  (if (parsePfx w).fieldsOk then [] else [3]) ++ (if chained w then (if 2 ≤ q then [4, 8] else [8]) else []) ++
    (if 2 ≤ q then [6] else [])

/-- What a PFX raises because of the word after it: a PFX, a header, or a word of the other kind (R76). -/
def pfxNext (w next : Word) : List Nat :=
  if 0x3E ≤ major next then [7]
  else match pfxKind (major next) with
    | some k => if k = (parsePfx w).kind then [] else [8]
    | none => []

/-- What a CLAUSE header raises in slot `q`, `placed` when it may stand there (R67, R85). -/
def headErrors (w : Word) (q : Nat) (placed : Bool) : List Nat :=
  (match decodeWord w with
    | .error e => [e.code]
    | .ok _ => []) ++
  (if chained w ∧ 2 ≤ q then [4] else []) ++ (if placed && !chained w then [] else [0x0B])

/-- The members from slot `q`, the first under the PFX `p` when `first`: errors, members, and the slot after them. A PFX or
a header behind a chained word is no member (R67, R76). `reach` holds the tiles, from its first one, that a matrix word of the
bundle reaches (R184). -/
def gather (ws : Nat → Word) (p : Option Pfx) (cc : Bool) (reach : List Nat) :
    Nat → Nat → Bool → List EncErr × List Member × Nat
  | 0, q, _ => ([], [], q)
  | n + 1, q, first =>
    let w := ws q
    let maj := major w
    let err (c : Nat) : EncErr := { code := c, slot := q, word := w }
    let more (lit : Bool) : List EncErr × List Member × Nat :=
      if chained w && q < 2 && !lit then gather ws p cc reach n (q + 1) false else ([], [], if lit then q + 2 else q + 1)
    if !first && maj == 0x3E then
      let r := more false
      ((pfxErrors w q ++ [7]).map err ++ r.1, r.2)
    else if !first && maj == 0x3F then
      let r := more false
      ((headErrors w q false).map err ++ r.1, r.2)
    else
      let shape := decodeShape w
      match shape.2 with
      | .error e =>
        let r := more (ownsLiteral w (if first then p else none))
        (err e.code :: (if chained w ∧ 2 ≤ q then [err 4] else []) ++ r.1, r.2.1, r.2.2)
      | .ok i =>
        let pf := if first then p else none
        let u := (usesOf i pf cc).reaches reach
        let r := more u.lit
        let own := (shape.1.toList.map DecodeErr.code) ++ (if u.badTag then [3] else []) ++
          (if chained w ∧ (2 ≤ q ∨ (u.lit ∧ q = 1)) then [4] else []) ++
          (if u.lit ∧ (2 ≤ q ∨ chained w) then [0x0A] else []) ++ (match pf with
            | some x => atomErrors i x ++ (if x.unusedOk u then [] else [9])
            | none => [])
        (own.map err ++ r.1, { slot := q, instr := i, uses := u, lit := ws (q + 1) } :: r.2.1, r.2.2)

/-- Do two members write the same destination (R64)? -/
def Uses.clash (a b : Uses) : Bool :=
  (a.dstV.any fun r => b.dstV.contains r) || (a.dstS.any fun r => b.dstS.contains r) ||
  (a.dstP.any fun r => b.dstP.contains r) || (a.tiles.any fun r => b.tiles.contains r) || a.srs.any fun r => b.srs.contains r

/-- Pipes and destinations that two members of a group share (R64): the offending word is the later one (DESIGN CHOICE 73). -/
def pairErrors : List Member → List EncErr
  | [] => []
  | m :: r =>
    (r.filter fun x => x.uses.pipe == m.uses.pipe).map (fun x => { code := 5, slot := x.slot, word := 0 }) ++
    (r.filter fun x => m.uses.clash x.uses).map (fun x => { code := 0x0F, slot := x.slot, word := 0 }) ++ pairErrors r

/-- The group at a slot of a packet (R63, R76, R85, R86). -/
def scan (ws : Nat → Word) (slot : Nat) (cc : Bool) (reach : List Nat) : Scan :=
  let w := ws slot
  let err (c : Nat) : EncErr := { code := c, slot := slot, word := w }
  let close (es : List EncErr) (p : Option Pfx) (r : List EncErr × List Member × Nat) : Scan :=
    match worst (es ++ r.1 ++ pairErrors r.2.1) with
    | none => .group p r.2.1 r.2.2
    | some e => .bad e p r.2.1 r.2.2
  let next (first : Bool) (p : Option Pfx) : List EncErr × List Member × Nat := gather ws p cc reach 3 (slot + 1) first
  let none' : List EncErr × List Member × Nat := ([], [], slot + 1)
  if major w = 0x3F then
    let own := (headErrors w slot (slot == 0)).map err
    match own, decodeWord w with
    | [], .ok i => .header i
    | _, _ => close own none (if chained w ∧ slot < 2 then next false none else none')
  else if major w = 0x3E then
    let p := parsePfx w
    let own := pfxErrors w slot
    if 2 ≤ slot then close (own.map err) (some p) none'
    else
      let nxt := ws (slot + 1)
      close ((own ++ pfxNext w nxt).map err) (some p) (next (decide (major nxt < 0x3E)) (some p))
  else close [] none (gather ws none cc reach 3 slot true)

/-! ### The scoreboard (R70) -/

/-- Registers that a deferred or delivered uncorrectable error still holds: lane, first, words (R166, R425). -/
def Warp.errorHeld (w : Warp) (l n : Nat) : Bool :=
  let names (x : Nat × Nat × Nat) : Bool := x.1 == l && x.2.1 ≤ n && n < x.2.1 + x.2.2
  (w.deferred.any fun d => d.dests.any names) || w.uedests.any names

/-- Is a predicate of a lane held by an operation? -/
def State.pHeld (s : State) (wk : Nat) (h : Option Nat) (l n : Nat) : Bool :=
  s.ops.any fun o => o.warp == wk && o.helper == h && o.pdests.contains (l, n)

/-- Are the registers that a member names free of pending results? -/
def State.regsFree (s : State) (i : Issue) (u : Uses) : Bool :=
  match s.warp i.warp with
  | none => false
  | some w =>
    let vs := u.srcV ++ u.dstV
    let ss := u.srcS ++ u.dstS
    let gp : List Nat := match i.pfx with
      | some p => [p.guard.toNat]
      | none => []
    let ps := u.srcP ++ u.dstP ++ gp
    let rl := (w.recruit.map (·.lane)).getD 0
    let vOk (l n : Nat) : Bool := match i.kind with
      | .thread => !s.vHeld i.warp none l n && !w.errorHeld l n
      | .helper => if n < 64 then !s.vHeld i.warp none rl n && !w.errorHeld rl n else !s.vHeld i.warp (some l) l n
    let h (l : Nat) : Option Nat := match i.kind with
      | .thread => none
      | .helper => some l
    (i.lanes.all fun l => (vs.all fun n => vOk l n) && ps.all fun n => !s.pHeld i.warp (h l) l n) &&
      ss.all fun n => !s.sHeld i.warp n

end Sys2Proof.Machine
end

