-- ==== Sys2Proof/Machine/Issue.lean ====
section
/-! DEFINITION. Issuing one group of a bundle (R60 to R76, R85, R139, R164, R167, R305, R381): fetching its packet, reading
its constant words, running its members, and what follows. The meaning of an instruction is a parameter. -/

namespace Sys2Proof.Machine

/-! ### Fetching -/

/-- A word brought through translation; `lost` where it met an uncorrectable error or another device did not answer. -/
inductive Got where
  | word (w : Word)
  | fault (f : PageFault)
  | lost (va : Nat)
  | wait
  deriving DecidableEq, Repr

/-- The code word at a virtual address (R60, R62): a code page of another device answers later. -/
def State.wordAt (s : State) (wk core ctx va lane : Nat) : Got × State :=
  match s.translate (.core core) ctx va .fetch with
  | (.fault r base lg, s) => (.fault { lane := lane, addr := va, reason := r, acc := 8, base := base, lg := lg }, s)
  | (.wait, s) => (.wait, s)
  | (.at (.peer dv pa), s) =>
    let key := descKey wk lane va
    match s.descs.find? fun e => e.1 == key with
    | some e => (if e.2.isEmpty then .lost va else .word (BitVec.ofNat 32 (leNat (e.2.take 4))), s)
    | none =>
      if s.sk.reqs.any fun r => r.who == .desc key then (.wait, s)
      else (.wait, (s.skSend { blankMsg with paddr := pa, dst := dv, size := 4, op := 0 } ctx va (.desc key)).1)
  | (.at loc, s) => match s.homeRead loc 4 ctx va with
    | (some (b, bad), s) => (if bad then .lost va else .word (BitVec.ofNat 32 (leNat b)), s)
    | (none, s) => (.wait, s)

/-- The words of a packet from slot `q` on: those before it are not looked at. -/
def State.fetchFrom (s : State) (wk core ctx base lane : Nat) : Nat → Nat → List Word → Got × List Word × State
  | 0, _, ws => (.word 0, ws, s)
  | n + 1, q, ws => match s.wordAt wk core ctx (base + 4 * q) lane with
    | (.word w, s) => s.fetchFrom wk core ctx base lane n (q + 1) (ws ++ [w])
    | (g, s) => (g, ws, s)

/-! ### Constant words (R165) -/

/-- uncorrectable-error of a group that cannot read a code or constant word (R165, R253, R414): all its threads need the word. It
names no destination register: that field is free (DESIGN CHOICE 105). -/
def State.lostWord (s : State) (i : Issue) (va : Nat) : TrapRec × State :=
  let (d, s) := s.freeWord
  ({ cause := 7, pc := i.gpc, mask := i.lanes, addr := va, info := BitVec.ofNat 32 (d.toNat % 128 + at_ 4 7), uerec := none }, s)

/-- The group's constant words are read as loads of its lowest lane; a word of another device's memory comes later. -/
def State.readConsts (s : State) (i : Issue) (ns : List Nat) : State :=
  match s.warp i.warp with
  | none => s
  | some w0 =>
    let ns := dedup ns
    let va (n : Nat) : Nat := (w0.cwin + 4 * n) % 2 ^ 64
    if ns.isEmpty then s
    else s.access i 4 .load (ns.map fun n => (i.lowest, va n)) fun w t accs s =>
      (ns.zip accs).foldl (fun (s : State) (e : Nat × LaneAcc) =>
        let put (s : State) (b : List Byte) : State :=
          s.modIss fun i => { i with consts := tset i.consts e.1 (BitVec.ofNat 32 (leNat b)) }
        let lost (s : State) (va : Nat) : State := let (r, s) := s.lostWord i va; s.modIss fun i => { i with trap := some r }
        match e.2.loc with
        | .peer dv pa =>
          let key := descKey i.warp i.lowest e.2.va
          match s.descs.find? fun d => d.1 == key with
          | some d => if d.2.isEmpty then lost s e.2.va else put s (d.2.take 4)
          | none =>
            if s.sk.reqs.any fun r => r.who == .desc key then s
            else (s.skSend { blankMsg with paddr := pa, dst := dv, size := 4, op := 0 } t.ctx e.2.va (.desc key)).1
        | .mem .sw pa =>
          let (b, bad, s) := s.swRead pa 4 (some (t.ctx, e.2.va))
          if bad then lost s e.2.va else put s b
        | loc =>
          let (bs, bad, s) := s.readPart (i.agent w.core i.lowest) loc 4 none
          if bad then lost s e.2.va else put s (bs.map fun b => b.getD 0)) s

/-! ### Members -/

/-- The operations that a member started keep the vector registers it reads (R201). -/
def State.noteSrcs (s : State) (wk first : Nat) (rs : List Nat) : State :=
  { s with ops := s.ops.map fun o => if o.warp = wk ∧ first ≤ o.id ∧ o.helper.isNone then { o with srcs := rs } else o }

/-- The members run in slot order; one that traps leaves no trace but its trap (R85, R167). -/
def State.runMembers (ex : Instr → State → State) (pfx : Option Pfx) (s : State) : List Member → List TrapRec × State
  | [] => ([], s)
  | m :: ms =>
    let s0 := s.modIss fun i => { i with slot := m.slot, lit := m.lit, pfx := pfx }
    let s1 := ex m.instr s0
    match s1.iss.bind (·.trap) with
    | some r => let (rs, s) := s0.runMembers ex none ms; (r :: rs, s)
    | none => (s1.noteSrcs ((s0.iss.map (·.warp)).getD 0) s0.nextId m.uses.srcV).runMembers ex none ms

/-- The trap of a group: the lowest sub-cause when one is an illegal instruction, else the first (R85). -/
def pickTrap : List TrapRec → Option TrapRec
  | [] => none
  | r :: rs => match pickTrap rs with
    | none => some r
    | some q =>
      if q.cause = 1 ∧ (r.cause ≠ 1 ∨ q.info.toNat % 256 < r.info.toNat % 256) then some q else some r

/-- The predicate of a CTRL word, tested per thread (R138). -/
def ctrlPred (i : Instr) : Option (BitVec 1 × BitVec 3) :=
  match i with
  | .bra f => some (f.neg, f.pred)
  | .brx f => some (f.neg, f.pred)
  | .call f => some (f.neg, f.pred)
  | .calli f => some (f.neg, f.pred)
  | .ret f => some (f.neg, f.pred)
  | .jmpi f => some (f.neg, f.pred)
  | .meet f => some (f.neg, f.pred)
  | .meetx f => some (f.neg, f.pred)
  | .exit f => some (f.neg, f.pred)
  | .bar f => some (f.neg, f.pred)
  | .bara f => some (f.neg, f.pred)
  | .trap f => some (f.neg, f.pred)
  | .brkpt f => some (f.neg, f.pred)
  | .idemb f => some (f.neg, f.pred)
  | .ideme f => some (f.neg, f.pred)
  | .trig f => some (f.neg, f.pred)
  | _ => none

/-- Instructions a group retires for a lane: its members, but for a word whose guard, or a CTRL word whose own predicate, is
false there (R75, R164, R352). The PFX belongs to the first member (R73); `before` holds the predicates as the group read
them. -/
def State.retires (before : State) (i : Issue) (ms : List Member) (l : Nat) : Nat :=
  (ms.filter fun m => match ctrlPred m.instr with
    | some (neg, pred) => before.rdP i l pred.toNat != (neg == 1)
    | none => (ms.head?.map (·.slot)) != some m.slot || (before.acting i).contains l).length

/-- Threads count what they retired; an IDEMB of the group is the latest instruction (R164, R367). -/
def State.retire (s before : State) (i : Issue) (ms : List Member) : State :=
  i.lanes.foldl (fun s l =>
    let n := before.retires i ms l
    s.modThread i.warp l fun t =>
      { t with retired := t.retired + n, idemAt := if t.idemAt = t.retired + 1 then t.retired + n else t.idemAt }) s

/-! ### Bundles -/

/-- The lanes of a bundle that has just issued stand in bundles by PC (R15). -/
def State.splitBundle (s : State) (wk : Nat) (lanes : List Nat) : State :=
  match s.warp wk with
  | none => s
  | some w => lanes.foldl (fun s' l => s'.modThread wk l fun t => { t with bundle := s.bundleOf wk w lanes l }) s

/-- The same for helpers. -/
def State.splitHelpers (s : State) (wk : Nat) (hs : List Nat) : State :=
  match s.warp wk with
  | none => s
  | some w =>
    let free (x : Nat) : Bool := ((w.helper x).map fun h => h.st != .wait && h.st != .reclaim).getD false
    let rs := hs.filter free
    let pc (x : Nat) : Nat := ((w.helper x).map (·.pc)).getD 0
    let label (x : Nat) : Nat := if free x then (rs.find? fun y => pc y == pc x).getD x else x
    hs.foldl (fun s x => s.modHelper wk x fun h => { h with bundle := label x }) s

/-- Pass-over counts after a selection: the issuing threads' fall to 0, the others' grow when the selection counts (R17). -/
def State.passOver (s : State) (wk : Nat) (kind : IssKind) (lanes : List Nat) (count : Bool) : State :=
  match kind with
  | .thread =>
    let one (l : Nat) (t : Thread) : Thread :=
      if lanes.contains l then { t with passover := 0 }
      else if count && t.runs then { t with passover := t.passover + 1 }
      else t
    s.modWarp wk fun w => { w with threads := w.threads.mapIdx one }
  | .helper =>
    let one (h : Helper) : Helper :=
      if lanes.contains h.idx then { h with passover := 0 }
      else if count then { h with passover := h.passover + 1 }
      else h
    s.modWarp wk fun w => { w with recruit := w.recruit.map fun r => { r with helpers := r.helpers.map one } }

/-! ### What follows a group -/

/-- Descriptors read for the lanes of a group are dropped with it. -/
def State.dropDescs (s : State) (wk : Nat) (lanes : List Nat) : State :=
  { s with descs := s.descs.filter fun e => !(e.1 / 2 ^ 64 / 128 == wk && lanes.contains (e.1 / 2 ^ 64 % 128)) }

/-- Events a stalled group waits for become steps of the device. -/
def State.pendWants (s : State) (l : List Instr) : State :=
  l.foldl (fun s e => if s.pending.contains e || s.agenda.contains e then s else s.pend e) s

/-- The faulting group has been issued again: what the driver marked for it is done with (R388). -/
def State.dropFailed (s : State) (i : Issue) : State :=
  match i.kind with
  | .thread => s.modWarp i.warp fun w => { w with failed := w.failed.filter fun e => !(e.1.any i.lanes.contains) }
  | .helper => s

/-- An uncorrectable error that a group meets at its own issue has its record (R401, R414). -/
def State.groupError (s : State) (i : Issue) (r : TrapRec) : TrapRec × State :=
  match s.warp i.warp, s.teamOf i.warp with
  | some w, some t =>
    if r.cause = 7 ∧ r.uerec.isNone then
      let (q, s) := s.readError w t ((minNat? r.mask).getD 0) r.addr r.info.toNat
      ({ r with uerec := some q }, s)
    else (r, s)
  | _, _ => (r, s)

/-- The group's trap, taken on the state before it (R167). -/
def State.takeGroupTrap (s : State) (i : Issue) (r : TrapRec) : State :=
  let s := (s.dropDescs i.warp i.lanes).dropFailed i
  let (r, s) := s.groupError i r
  match i.kind with
  | .thread =>
    let s := if r.cause = 0x0D then s.closeTrapped i.warp else s
    s.takeTrap i.warp i.lanes r
  | .helper => s.helperTrap i r

/-- A helper's page enters the batch that its recruiter's warp is collecting, while that has room, or one of its own
(R305). -/
def State.enterHelper (s : State) (w : Warp) (x : SlotWait) (p : BatchPage) : State :=
  let open_ : Option Batch := match w.fault with
    | .ahead a => s.tr.batches.find? fun b => b.id == a.batch && decide (b.pages.length < 32)
    | _ => none
  match s.batchWith x.core x.ctx p, open_ with
  | none, some b => (s.modBatch b.id fun b => { b with pages := b.pages ++ [p] }).joinBatch b.id x.waiter
  | _, _ => (s.enterBatch x false).2

/-- A helper's translation faults (R305): its chunk is aborted and held, its page enters a batch, and it starts again at
the body with no chunk. A helper that holds none waits under a number of its own. -/
def State.helperFault (s : State) (wk : Nat) (f : PageFault) : State :=
  match s.warp wk, s.teamOf wk with
  | some w, some t => match w.recruit, w.helper f.lane with
    | some rc, some h =>
      let key := match h.st with
        | .chunk c => c
        | _ => rc.chunks.length + f.lane
      let s := s.abortChunk wk f.lane .held
      let s := s.modRecruit wk fun r => { r with heldFor := r.heldFor.filter (fun e => e.1 != key) ++ [(key, f.lane, f.base)] }
      let s := s.modHelper wk f.lane fun h => { h with pc := 12 * rc.body, bundle := h.idx, st := .free, buf := [] }
      s.enterHelper w { ctx := t.ctx, core := w.core, pages := [f.page], waiter := .helper wk key, src := 1, unit := w.unit
                        seqKey := w.seqKey, wcb := t.twcb } f.page
    | _, _ => s
  | _, _ => s

/-- The group's translation faults, on the state before it (R305, R381, R382); `run` says that a warp may run ahead. -/
def State.takeFaults (s : State) (i : Issue) (fs : List PageFault) (run : Bool) : State :=
  match i.kind with
  | .thread =>
    let cc := ((s.warp i.warp).map fun w => w.kind == .control).getD false
    s.warpFault i.warp i.lanes fs (run && !cc)
  | .helper => fs.foldl (fun s f => s.helperFault i.warp f) s

/-- A group has issued: what its threads or helpers do next. -/
def State.afterGroup (s before : State) (i : Issue) (ms : List Member) (count : Bool) : State :=
  let ended := (s.iss.map (·.turnOver)).getD false
  let s := { s with iss := none }
  let s := (s.dropDescs i.warp i.lanes).dropFailed i
  let s := s.passOver i.warp i.kind i.lanes count
  match i.kind with
  | .helper => s.splitHelpers i.warp i.lanes
  | .thread =>
    let s := s.retire before i ms
    let here := i.lanes.filter fun l => !s.returning i.warp l && ((s.thread i.warp l).map fun t => t.pc % 12 == 0).getD false
    let s := (s.arrive i.warp here).splitBundle i.warp i.lanes
    let s := match before.warp i.warp with
      | some w => if ended then s.modSched w.gs fun g => { g with sel := [] } else s
      | none => s
    let c := before.ctxOf i.warp
    let s := match before.teamOf i.warp with
      | some t => if t.vals.det then s.soon (.bolterReform i.warp) else s
      | none => s
    if ((tget s.ctxs c).map fun x => x.state == 1).getD false then s.preemptPoll c else s

/-! ### The group -/

def blankIssue (wk : Nat) (kind : IssKind) (lanes : List Nat) (pc : Nat) : Issue :=
  { warp := wk, kind := kind, lanes := lanes, p := pc / 12, slot := pc % 12 / 4, gpc := pc, pfx := none, lit := 0, consts := []
    view := none, stalled := false, trap := none, faults := [], turnOver := false, want := [], enlist := none }

/-- The actors of a group stand at byte offset `pc`; the wait of the header before it has been met. -/
def State.setPcs (s : State) (i : Issue) (pc : Nat) : State :=
  match i.kind with
  | .thread => s.modThreads i.warp i.lanes fun t => { t with pc := pc, wait := 0 }
  | .helper => i.lanes.foldl (fun s l => s.modHelper i.warp l fun h => { h with pc := pc, wait := 0 }) s

/-- Do the flags that the first word after a header waits for read zero now (R69)? -/
def State.waitsMet (s : State) (i : Issue) : Bool :=
  i.lanes.all fun l => match i.kind with
    | .thread => s.flagsClear i.warp none (((s.thread i.warp l).map (·.wait)).getD 0)
    | .helper => s.flagsClear i.warp (some l) ((((s.warp i.warp).bind fun w => w.helper l).map (·.wait)).getD 0)

/-- The outcome of a run group: its trap, its faults, its stall, or what follows it. `pre` is the state before it; the
answer says whether the bundle issued or took its trap or fault. A group that takes a trap is not counted as retired, that
of a TRAP, which is not issued again, included (R164; DESIGN CHOICE 82); and a selection that ends in a trap or a fault
leaves every pass-over count as it was (R17; DESIGN CHOICE 99). -/
def State.settleGroup (pre post : State) (i : Issue) (traps : List TrapRec) (ms : List Member) (count : Bool) : Bool × State :=
  match pickTrap traps with
  | some r => (true, { pre with iss := none }.takeGroupTrap i r)
  | none => match post.iss with
    | none => (true, post)
    | some j =>
      if !j.faults.isEmpty then (true, { pre with iss := none }.takeFaults i j.faults (j.faults.all fun f => f.acc != 8))
      else if j.stalled then
        let s := { pre with iss := none }.pendWants j.want
        (false, match j.enlist with
          | some (c, w) => s.enlist c w
          | none => s)
      else (true, post.afterGroup pre i ms count)

/-- The members of a group, whose registers are free and whose constant words are read, run (R63, R64). `enc` is the trap of
an encoding that the group breaks: a member may raise a lower sub-cause (R85). -/
def State.runGroup (ex : Instr → State → State) (pre : State) (i : Issue) (pfx : Option Pfx) (ms : List Member) (next : Nat)
    (count : Bool) (enc : List TrapRec := []) : Bool × State :=
  match pre.warp i.warp with
  | none => (false, pre)
  | some w =>
    let chain := decide (1 < ms.length)
    let start := (pre.setPcs i next).modIss fun j =>
      { j with view := if chain then some { warp := w, team := pre.teamOf i.warp, rf := pre.reg.rf, ids := pre.nextId } else none }
    let (traps, post) := start.runMembers ex pfx ms
    pre.settleGroup post i (enc ++ traps) ms count

/-- The trap of an encoding that breaks a rule of R85. -/
def EncErr.trapRec (e : EncErr) (i : Issue) (mask : List Nat) : TrapRec :=
  { cause := 1, pc := i.gpc, mask := mask, addr := 0, info := BitVec.ofNat 32 (e.code + 256 * e.slot), uerec := none }

/-- An encoding trap (R85): a KV word or an NMC marks its leader (R274, R332); a word of a copy, prefix or near-memory engine
that has none does nothing (R193, R274, R331). The PFX of the group is its first member's (R73). -/
def State.encodingTrap (s : State) (i : Issue) (pfx : Option Pfx) (e : EncErr) (count : Bool) : Bool × State :=
  let first := e.slot = i.slot ∨ (pfx.isSome ∧ e.slot = i.slot + 1)
  let ls := s.acting { i with pfx := if first then pfx else none }
  let maj := major e.word
  let led := (maj = 0x32 ∨ maj = 0x36 ∨ maj = 0x37) ∧ e.code = 3
  let leads := led ∧ (maj = 0x36 ∨ (maj = 0x37 ∧ bits e.word.toNat 24 21 = 0))
  if led ∧ ls.isEmpty then
    let s := s.setPcs i (12 * i.p + 4 * (e.slot + 1))
    (true, ({ s with iss := some i }).afterGroup s i [] count)
  else (true, s.takeGroupTrap i (e.trapRec i (if leads then ls.take 1 else i.lanes)))

/-- A CLAUSE header: its actors go on at slot 1 once its wait is satisfied (R68, R69); it retires nothing. -/
def State.runHeader (ex : Instr → State → State) (pre : State) (i : Issue) (h : Instr) (count : Bool) : Bool × State :=
  let post := ex h ((pre.setPcs i (i.gpc + 4)).modIss id)
  pre.settleGroup post i ((post.iss.bind (·.trap)).toList) [] count

/-- Is the bundle at its task's entry, which is no clause start (R68)? A handler that stands there has the report of R167. -/
def badEntry (i : Issue) (w : Warp) (t : Team) (w0 : Word) : Bool :=
  i.kind == .thread && i.slot == 0 && i.p == t.vals.entry && major w0 != 0x3F &&
    ((w.threads[i.lowest]?).map fun x => !x.handling).getD false

/-- Do the threads of a handler stand at its entry, which is no clause start (R167)? -/
def badHandler (i : Issue) (w : Warp) (t : Team) (w0 : Word) : Bool :=
  i.kind == .thread && i.slot == 0 && i.p == t.vals.hpc && w.trap == .handling && major w0 != 0x3F

/-- Threads of a bundle at a header whose parking test could not be made when they came: those that are at their meeting
point park, and do not issue the clause (R21). -/
def State.parkDue (s : State) (i : Issue) : Option State :=
  let due (l : Nat) : Bool := ((s.thread i.warp l).map fun t => t.due && (t.arrived (some true)).st == .parked).getD false
  match i.kind, i.lanes.filter due with
  | .thread, l :: r => some (s.modThreads i.warp (l :: r) fun t => t.arrived (some true))
  | _, _ => none

/-- The packets that a group's words ask about are looked at: `wait` while another device's answer has not come, `lost` where
one cannot be read. -/
def State.lookEntries (s : State) (i : Issue) (w : Warp) (t : Team) (idxs : List Nat) : Got × State :=
  ((dedup idxs).filter fun x => x < t.vals.codelen).foldl (fun p x =>
    match p.2.wordAt i.warp w.core t.ctx (t.vals.code + 12 * x) i.lowest with
    | (.wait, s) => (.wait, s)
    | (.lost va, s) => (if p.1 = .wait then .wait else .lost va, s)
    | (_, s) => (p.1, s)) (.word 0, s)

/-- A group's members under the PFX of its first (R73). -/
def Issue.under (i : Issue) (pfx : Option Pfx) (ms : List Member) (m : Member) : Issue :=
  { i with pfx := if m.slot = (ms.head?.map (·.slot)).getD 0 then pfx else none }

/-- ISSUE of a scanned group: it waits while a register it names is pending or a constant or code word has not come; `s` is
the state before its packet was fetched, `s1` after. -/
def State.issueGroup (ex : Instr → State → State) (s s1 : State) (i : Issue) (w : Warp) (t : Team) (pfx : Option Pfx)
    (ms : List Member) (after : Nat) (count : Bool) (enc : List TrapRec) : Bool × State :=
  let drop (r : Bool × State) : Bool × State := (r.1, { r.2 with iss := none })
  let i := { i with pfx := pfx }
  let s1 := { s1 with iss := some i }
  if !(ms.all fun m => s1.regsFree (i.under pfx ms m) m.uses) then (false, s)
  else
    let ns := ms.flatMap fun m => m.uses.consts
    let s2 := s1.readConsts i ns
    match s2.iss with
    | none => (false, s)
    | some j =>
      let look (s : State) (go : State → Bool × State) : Bool × State :=
        match s.lookEntries i w t (ms.flatMap fun m => s.entriesOf (j.under pfx ms m) m.instr) with
        | (.wait, s) => drop (false, s)
        | (.lost va, s) => let (r, s) := s.lostWord i va; drop (true, s.takeGroupTrap i r)
        | (_, s) => drop (go s)
      match pickTrap (enc ++ j.trap.toList) with
      | some r =>
        if j.trap.isNone && j.faults.isEmpty && !j.stalled && ns.all fun n => (tget j.consts n).isSome then
          look s2 fun s3 => s3.runGroup ex j pfx ms 0 count enc
        else drop (true, s1.takeGroupTrap i r)
      | none =>
        if !j.faults.isEmpty then drop (true, s1.takeFaults i j.faults false)
        else if j.stalled then (false, s)
        else if !(ns.all fun n => (tget j.consts n).isSome) then drop (false, s2)
        else look s2 fun s3 => s3.runGroup ex j pfx ms (if 3 ≤ after then 12 * (i.p + 1) else 12 * i.p + 4 * after) count

/-- The tiles, from a matrix word's first one, that the quarters of a bundle reach: `q + 4 r` (R184). -/
def reachOf (lanes : List Nat) : List Nat := dedup (lanes.map (· / 8))

/-- What stands at a slot, `missing` where an entry packet is no clause start (R68): its sub-cause, unless a lower one applies
(R85). -/
def scanAt (missing : Bool) (ws : Nat → Word) (slot : Nat) (cc : Bool) (reach : List Nat) : Scan :=
  let e : EncErr := { code := 0x0C, slot := slot, word := 0 }
  match scan ws slot cc reach with
  | .group p ms after => if missing then .bad e p ms after else .group p ms after
  | .bad x p ms after => .bad (if missing ∧ 0x0C < x.code then e else x) p ms after
  | .header h => .header h

/-- ISSUE of the group at which a bundle stands: whether it did anything, and the state. A packet index at or beyond the end
of the segment has the fall-through's report, however it was reached (R62, DESIGN CHOICE 74). -/
def State.issueWith (ex : Instr → State → State) (s : State) (wk : Nat) (kind : IssKind) (lanes : List Nat) (pc : Nat)
    (count : Bool) : Bool × State :=
  match s.warp wk, s.teamOf wk with
  | some w, some t =>
    let i := blankIssue wk kind lanes pc
    let s0 := { s with iss := some i }
    let drop (r : Bool × State) : Bool × State := (r.1, { r.2 with iss := none })
    if !s.waitsMet i then (false, s)
    else if t.vals.codelen ≤ i.p then
      drop (true, s.takeGroupTrap i { cause := 1, pc := 12 * (t.vals.codelen - 1), mask := lanes, addr := 0, info := 0x10, uerec := none })
    else match s0.fetchFrom wk w.core t.ctx (t.vals.code + 12 * i.p) i.lowest (3 - i.slot) i.slot [] with
      | (.fault f, _, s1) => match w.failedPage f with
        | some r => drop (true, s1.takeGroupTrap i { cause := 6, pc := pc, mask := lanes, addr := f.addr, info := r, uerec := none })
        | none => drop (true, s1.takeFaults i [f] false)
      | (.wait, _, s1) => drop (false, s1)
      | (.lost va, _, s1) => let (r, s2) := s1.lostWord i va; drop (true, s2.takeGroupTrap i r)
      | (.word _, ws, s1) =>
        let word (q : Nat) : Word := ws.getD (q - i.slot) 0
        if badHandler i w t (word 0) then drop (true, s1.warpStops wk 3 w.trappc.toNat)
        else match scanAt (badEntry i w t (word 0)) word i.slot (w.kind == .control) (reachOf lanes) with
          | .header h => match s1.parkDue i with
            | some s2 => drop (false, s2)
            | none => drop (s1.runHeader ex i h count)
          | .bad e pfx ms after =>
            if e.code ≤ 3 ∨ ms.isEmpty then drop (s1.encodingTrap i pfx e count)
            else s.issueGroup ex s1 i w t pfx ms after count [e.trapRec i lanes]
          | .group pfx ms after => s.issueGroup ex s1 i w t pfx ms after count []
  | _, _ => (false, s)

end Sys2Proof.Machine
end

