-- ==== Sys2Proof/Machine/Ahead.lean ====
section
/-! DEFINITION. Running ahead of a translation fault (R382): speculative groups on copies of the warp's threads, scalars and
registers, to find more faulting pages. Nothing else of the state changes. -/

namespace Sys2Proof.Machine

/-- What a word does to a run-ahead. -/
inductive AheadKind where
  /-- It runs on the copies. -/
  | run
  | load
  | branch
  /-- It goes by: what it does reaches no register of the bundle, and waits are not tested (R382). -/
  | skip
  /-- It ends the run-ahead. -/
  | ends
  deriving DecidableEq, Repr

/-- What R382 has a word do: stores, atomics, barriers, fences, asynchronous issues (matrix and cache operations and
recruitments among them, DEDUCED 10), calls, returns, EXIT and traps end the run-ahead, but not the access that faulted. -/
def aheadKind (i : Instr) (u : Uses) : AheadKind :=
  match i with
  | .ldVbase _ => .load
  | .ldSbase _ => .load
  | .bra _ => .branch
  | .brx _ => .branch
  | .jmpi _ => .branch
  | .ideme _ => .run
  | .idemb _ => .run
  | .xacq _ _ _ => .run
  | .aacq _ _ _ _ => .run
  | .setsr _ _ _ => .run
  | .waitf _ => .skip
  | .priopass => .skip
  | .trig _ => .skip
  | .ipin _ _ => .skip
  | .iunpin _ _ => .skip
  | .xrel _ => .skip
  | .arel _ _ => .skip
  | .uerpl _ _ => .run
  | .meet _ => .run
  | .meetx _ => .run
  | .nop => .run
  | .yield => .run
  | .cwin _ => .run
  | .cwinArgs => .run
  | .getsr _ _ _ => .run
  | .rand _ _ => .run
  | .clock _ _ => .run
  | _ => match u.pipe with
    | .v => .run
    | .t => .run
    | .s => .run
    | _ => .ends

/-- What a word names, with the destination that UERPL writes, which no field of it holds (R166). -/
def State.aheadUses (s : State) (i : Issue) (m : Member) : Uses :=
  match m.instr, s.warp i.warp with
  | .uerpl _ k, some w => m.uses.dst (bits w.trapinfo.toNat 6 0 + k.toNat) 1
  | _, _ => m.uses

/-- The lanes in which a word writes its destinations. -/
def State.aheadWrites (s : State) (i : Issue) (m : Member) : List Nat :=
  match m.instr with
  | .uerpl _ _ => (s.acting i).filter fun l => ((s.thread i.warp l).map (·.marked)).getD false
  | .getsr _ _ _ => s.acting i
  | .clock _ _ => s.acting i
  | _ => if m.uses.pipe == .s then s.onceLanes i else s.acting i

/-- Does a word of the faulting group pass, its access not performed and its destinations poisoned: a store, an atomic, or an
asynchronous issue (R382, DEDUCED 10)? -/
def passesFault (m : Member) : Bool :=
  match m.instr with
  | .fence _ _ => false
  | .opfence => false
  | _ => m.uses.pipe == .m || m.uses.pipe == .a

/-- The state a speculative group sees: the copies stand for the warp's own. -/
def State.aheadView (s : State) (wk : Nat) (a : Ahead) : State :=
  let rf := a.rf.foldl (fun t e => tset t e.1 e.2) s.reg.rf
  let seen := a.rf.foldl (fun t e => tclear t (4 * e.1) (4 * e.1 + 4)) s.reg.shadow
  { s with reg := { s.reg with rf := rf, shadow := seen } }.modWarp wk fun w =>
    { w with threads := a.threads, sregs := a.sregs, cwin := a.cwin, fault := .none, failed := [] }

/-- The copies after a speculative group: threads, scalars, window, and the registers it changed. -/
def Ahead.take (a : Ahead) (s t : State) (wk : Nat) (regs : List Nat) : Ahead :=
  match t.warp wk with
  | none => a
  | some w =>
    let keys := a.lanes.flatMap fun l => regs.filterMap fun n => w.vkey l n
    let put (r : Tab Word) (k : Nat) : Tab Word := match tget t.reg.rf k with
      | some v => if tget s.reg.rf k = some v then r else tset r k v
      | none => r
    { a with threads := w.threads, sregs := w.sregs, cwin := w.cwin, rf := keys.foldl put a.rf }

def vPoison (l n : Nat) : Nat := l * 1024 + n

def pPoison (l n : Nat) : Nat := l * 1024 + 192 + n

def sPoison (n : Nat) : Nat := 128 + n

/-- Does a lane read a poisoned register? Scalars are the warp's. -/
def Ahead.poisoned (a : Ahead) (u : Uses) (guard : Nat) (l : Nat) : Bool :=
  (u.srcV.any fun n => a.poison.contains (vPoison l n)) || (u.srcS.any fun n => a.poison.contains (sPoison n)) ||
  (u.srcP.any fun n => a.poison.contains (pPoison l n)) || a.poison.contains (pPoison l guard)

/-- The poison of a lane's destinations. -/
def destPoison (u : Uses) (l : Nat) : List Nat := u.dstV.map (vPoison l) ++ u.dstP.map (pPoison l) ++ u.dstS.map sPoison

/-- The poison after a word ran: the destinations of the lanes `bad` are poisoned, those of the others are not. -/
def Ahead.mark (a : Ahead) (u : Uses) (good bad : List Nat) : Ahead :=
  let on := bad.flatMap (destPoison u)
  let off := (good.flatMap (destPoison u)).filter fun k => !on.contains k
  { a with poison := (a.poison.filter fun k => !off.contains k) ++ on.filter fun k => !a.poison.contains k }

/-- Pages join the open batch, up to 32, each marked as found by run-ahead (R385). -/
def State.addPages (s : State) (id : Nat) (fs : List PageFault) : State :=
  s.modBatch id fun b =>
    let new := (fs.map fun f => { f.page with acc := f.page.acc ||| 16 }).filter fun p => !b.holds p
    { b with pages := (dedupPages (b.pages ++ new)).take 32 }

def State.batchPages (s : State) (id : Nat) : Nat := ((s.tr.batches.find? fun b => b.id == id).map fun b => b.pages.length).getD 32

/-- The outcome of one word run ahead: the copies and the speculative state, or none when it ends the run-ahead; and the
pages its access found. -/
structure AheadOut where
  step : Option (Ahead × State)
  faults : List PageFault

/-- A load run ahead (R382). -/
def Ahead.load (a : Ahead) (t : State) (i : Issue) (u : Uses) (d : Nat) (size : BitVec 3) (addr : Nat → Nat)
    (guard : Nat) : AheadOut :=
  let ls := t.acting i
  let bad := ls.filter fun l => a.poisoned u guard l
  let good := ls.filter fun l => !bad.contains l
  match t.warp i.warp, t.teamOf i.warp with
  | some w, some tm =>
    let acc := good.map fun l => (l, addr l)
    if !ls.isEmpty && (t.regError i (u.srcV ++ u.dstV) []).isSome then { step := none, faults := [] }
    else match t.accessTrap w tm false (sizeBytes size) false false acc with
    | some _ => { step := none, faults := [] }
    | none =>
      let (xs, fs, _, t1) := t.locate w tm .load acc
      let plain (x : LaneAcc) : Bool := match x.loc with
        | .mem .normal _ => true
        | .mem .kvp _ => true
        | .spad _ _ => true
        | _ => false
      let t2 := (xs.filter plain).foldl (fun (t : State) x =>
        let (got, t) := t.readShared i w.core [x.lane] x.loc (sizeBytes size)
        let bs := got.flatMap (·.2.1)
        let ws := loadWords size (bs.map fun b => b.getD 0)
        ((List.range ws.length).zip ws).foldl (fun (t : State) e => t.setV i.warp x.lane (d + e.1) e.2) t) t1
      let ok := (xs.filter plain).map (·.lane)
      { step := some (a.mark u ok (ls.filter fun l => !ok.contains l), t2), faults := fs }
  | _, _ => { step := none, faults := [] }

/-- A branch run ahead goes on only when its bundle stays whole and nothing it reads is poisoned (R382). -/
def Ahead.branch (ex : Instr → State → State) (a : Ahead) (t : State) (i : Issue) (m : Member) : AheadOut :=
  let (neg, pred) := (ctrlPred m.instr).getD (0, 7)
  let ls := t.actingP i neg pred
  if (i.lanes.any fun l => a.poisoned m.uses 7 l) || !(ls.isEmpty || ls.length == i.lanes.length) then { step := none, faults := [] }
  else
    let t := ex m.instr t
    let pc (l : Nat) : Nat := ((t.thread i.warp l).map (·.pc)).getD 0
    if i.lanes.all fun l => pc l == pc i.lowest then { step := some (a, t), faults := [] } else { step := none, faults := [] }

/-- One word run ahead; one with a constant word that could not be read reads poison. -/
def Ahead.word (ex : Instr → State → State) (a : Ahead) (t : State) (i : Issue) (m : Member) : AheadOut :=
  let guard := (i.pfx.map fun p => p.guard.toNat).getD 7
  let t := t.modIss fun j => { j with slot := m.slot, lit := m.lit, pfx := i.pfx, trap := none, stalled := false, faults := [] }
  let stop : AheadOut := { step := none, faults := [] }
  let missing := m.uses.consts.any fun n => (t.iss.bind fun j => tget j.consts n).isNone
  let r : AheadOut := match aheadKind m.instr m.uses with
    | .ends =>
      if a.count = 0 ∧ passesFault m then { step := some (a.mark m.uses [] (t.acting i), t), faults := [] } else stop
    | .skip => { step := if ((ex m.instr t).iss.bind (·.trap)).isSome then none else some (a, t), faults := [] }
    | .branch => if missing then stop else a.branch ex t i m
    | .load => match m.instr with
      | .ldVbase f => a.load t i m.uses f.d.toNat f.size (fun l => t.addrV i f l) guard
      | .ldSbase f => a.load t i m.uses f.d.toNat f.size (fun l => t.addrS i f l) guard
      | _ => stop
    | .run =>
      let some_ := i.lanes.filter fun l => missing || a.poisoned m.uses guard l
      let cross := match m.instr with
        | .shfli _ | .shflu _ | .shfld _ | .shflx _ | .swappair _ | .bcastl _ | .voteb _ | .redux _ => true
        | _ => !m.uses.dstS.isEmpty
      let bad := if cross && !some_.isEmpty then i.lanes else some_
      let t1 : State := ex m.instr t
      let new := t1.ops.filter fun (o : Op) => o.warp == i.warp && (t.op o.id).isNone
      let t2 : State := new.foldl (fun (t : State) (o : Op) => ex (.sfuResult o.id) t) t1
      { step := some (a.mark m.uses ((t.aheadWrites i m).filter fun l => !bad.contains l) bad, t2), faults := [] }
  match r.step with
  | none => r
  | some (a, t) => match t.iss with
    | none => { r with step := none }
    | some j =>
      let runs (l : Nat) : Bool := ((t.thread i.warp l).map Thread.runs).getD false
      if j.trap.isSome || j.stalled || !j.faults.isEmpty || !(i.lanes.all runs) then { r with step := none }
      else { r with step := some (a.take t t i.warp [], t) }

/-- The members of a group run ahead in slot order. -/
def Ahead.words (ex : Instr → State → State) (i : Issue) : List Member → Ahead → State → AheadOut
  | [], a, t => { step := some (a, t), faults := [] }
  | m :: ms, a, t =>
    let r := a.word ex t i m
    match r.step with
    | none => r
    | some (a, t) =>
      let q := Ahead.words ex { i with pfx := none } ms a t
      { q with faults := r.faults ++ q.faults }

/-- The run-ahead ends: RUNAHEAD_END follows. -/
def State.aheadDone (s : State) (wk : Nat) (a : Ahead) : State :=
  (s.modWarp wk fun w => { w with fault := .ahead { a with done := true } }).pend (.runaheadEnd wk)

/-- One turn of a run-ahead: a header, or one group. -/
def State.aheadTurn (ex : Instr → State → State) (s : State) (wk : Nat) (a : Ahead) : State :=
  let t0 := s.aheadView wk a
  match t0.warp wk, t0.teamOf wk with
  | some w, some tm =>
    let l0 := (minNat? a.lanes).getD 0
    let pc := ((w.threads[l0]?).map (·.pc)).getD 0
    let i := blankIssue wk .thread a.lanes pc
    if a.done then s
    else if tm.vals.codelen ≤ i.p then s.aheadDone wk a
    else match (({ t0 with iss := some i } : State)).fetchFrom wk w.core tm.ctx (tm.vals.code + 12 * i.p) l0 (3 - i.slot) i.slot [] with
      | (.word _, ws, t1) =>
        let word (q : Nat) : Word := ws.getD (q - i.slot) 0
        match scan word i.slot false (reachOf a.lanes) with
        | .bad _ _ _ _ => s.aheadDone wk a
        | .header (.clause _ seta setb _) =>
          let th := a.threads.mapIdx fun l (x : Thread) =>
            if a.lanes.contains l then { x with pc := pc + 4, seta := seta, setb := setb } else x
          s.modWarp wk fun w => { w with fault := .ahead { a with threads := th } }
        | .header _ => s.aheadDone wk a
        | .group pfx ms after =>
          let i := { i with pfx := pfx }
          let ms : List Member := ms.map fun (m : Member) => ({ m with uses := t1.aheadUses i m } : Member)
          let next := if 3 ≤ after then 12 * (i.p + 1) else 12 * i.p + 4 * after
          let t1 : State := ({ t1 with iss := some i } : State).readConsts i (ms.flatMap fun (m : Member) => m.uses.consts)
          let s := s.addPages a.batch ((t1.iss.map (·.faults)).getD [])
          if (t1.iss.bind (·.trap)).isSome then s.aheadDone wk a
          else
            let chain := decide (1 < ms.length)
            let t2 := (t1.setPcs i next).modIss fun j => { j with
              view := if chain then some { warp := w, team := t1.teamOf wk, rf := t1.reg.rf, ids := t1.nextId } else none }
            let r := Ahead.words ex i ms a t2
            let s : State := s.addPages a.batch r.faults
            match r.step with
            | none => s.aheadDone wk a
            | some (b, t3) =>
              let b : Ahead := Ahead.take b t0 t3 wk (ms.flatMap fun (m : Member) => m.uses.dstV)
              let b : Ahead := { b with count := b.count + ms.length }
              let s : State := { s with freeCount := t3.freeCount, oracle := t3.oracle }
              if 256 ≤ b.count ∨ 32 ≤ s.batchPages a.batch then s.aheadDone wk b
              else s.modWarp wk fun w => { w with fault := .ahead b }
      | _ => s.aheadDone wk a
  | _, _ => s

end Sys2Proof.Machine
end

