-- ==== Sys2Proof/Machine/Select.lean ====
section
/-! DEFINITION. What a scheduler and a control core issue (R15, R17 to R19, R72, R294, R341 to R343): which warps and
helpers may, in which order their bundles are tried, and one selection. -/

namespace Sys2Proof.Machine

/-- A bundle that may be tried: its largest pass-over count, its PC, its actors. -/
structure Cand where
  passover : Nat
  pc : Nat
  lanes : List Nat
  deriving DecidableEq, Repr

/-- Higher counts first, then lower PCs (R17). -/
def insertCand (c : Cand) : List Cand → List Cand
  | [] => [c]
  | d :: r =>
    if d.passover < c.passover ∨ (d.passover = c.passover ∧ c.pc < d.pc) then c :: d :: r else d :: insertCand c r

def rankCands : List Cand → List Cand
  | [] => []
  | c :: r => insertCand c (rankCands r)

/-- The bundles of a warp's threads: in a handler, those of the threads that run it (R167). -/
def State.warpCands (s : State) (wk : Nat) (w : Warp) : List Cand :=
  let rs := (w.lanesWhere fun t => t.runs && (w.trap != .handling || t.handling)).filter fun l => !s.returning wk l
  let th (l : Nat) : Nat × Nat × Nat := ((w.threads[l]?).map fun t => (t.bundle, t.pc, t.passover)).getD (0, 0, 0)
  let firsts := rs.filter fun l => (rs.find? fun x => (th x).1 == (th l).1 && (th x).2.1 == (th l).2.1) == some l
  firsts.map fun l =>
    let ls := rs.filter fun x => (th x).1 == (th l).1 && (th x).2.1 == (th l).2.1
    { passover := ls.foldl (fun m x => max m (th x).2.2) 0, pc := (th l).2.1, lanes := ls }

/-- The bundles of a recruitment's helpers (R294). -/
def Recruit.cands (r : Recruit) : List Cand :=
  let hs := r.helpers.filter fun h => h.st != .wait && h.st != .reclaim
  let same (h x : Helper) : Bool := h.bundle == x.bundle && h.pc == x.pc
  let firsts := hs.filter fun h => ((hs.find? (same h)).map (·.idx)) == some h.idx
  firsts.map fun h =>
    let g := hs.filter (same h)
    { passover := g.foldl (fun m x => max m x.passover) 0, pc := h.pc, lanes := g.map (·.idx) }

/-- May warps of a context issue: it is resident or being pre-empted, and not stopped (R390, R397)? -/
def State.ctxRuns (s : State) (c : Nat) : Bool :=
  ((tget s.ctxs c).map fun x => (x.state == 0 || x.state == 1) && x.goal != 4).getD false

/-- Has a warp the trap of a failed command to take? Such a trap comes before the warp's next issue (R284, R325's stops in
R337), although its delivery is at a re-formation (R425): until then the warp holds (DEDUCED 104). -/
def Warp.trapDue (w : Warp) : Bool := w.deferred.any fun d =>
  d.dests.isEmpty && (w.trap != .handling || !d.again) &&
  match minNat? (d.lanes.filter fun l => ((w.threads[l]?).map Thread.live).getD false) with
  | some l => ((w.threads[l]?).map Thread.runs).getD false
  | none => false

/-- May the threads of a warp issue now? -/
def State.mayIssue (s : State) (w : Warp) (t : Team) : Bool :=
  s.ctxRuns t.ctx && (match w.trap with
    | .entering _ => false
    | _ => true) && !w.trapDue && (match t.det with
    | none => true
    | some d => d.running == w.k && s.mayRun t)

/-- The bundle whose turn it is in deterministic mode (R342): the next by PC after the one that issued last, which comes
again only when no other has a turn. -/
def detPick (turn : Option (Nat × List Nat)) (cs : List Cand) : Option Cand :=
  let low (l : List Cand) : Option Cand := (rankCands (l.map fun c => { c with passover := 0 })).head?
  match turn with
  | none => low cs
  | some (pc, ls) =>
    match low (cs.filter fun c => pc < c.pc && !(c.lanes.any ls.contains)) with
    | some c => some c
    | none => low cs

/-- Try bundles in order until one issues; the bundles after it are answered too. -/
def State.tryCands (ex : Instr → State → State) (wk : Nat) (kind : IssKind) (count : Bool) (s : State) :
    List Cand → Option (Cand × List Cand) × State
  | [] => (none, s)
  | c :: r => match s.issueWith ex wk kind c.lanes c.pc count with
    | (true, s) => (some (c, r), s)
    | (false, s) => s.tryCands ex wk kind count r

/-- The trap of a task whose counter carried fault status, before its first instruction (R170, code 0x14). -/
def State.statusTrap (s : State) (wk : Nat) (w : Warp) (t : Team) : State :=
  (s.modWarp wk fun w => { w with dcPending := false }).takeTrap wk w.liveLanes {
    cause := 0x14, pc := 12 * t.vals.entry, mask := w.lanes, addr := 0, info := t.dcstatus, uerec := none }

/-- The bundle whose turn it is has issued its group: the next one's turn comes (R342). A group that only met a translation
fault keeps its turn. -/
def State.detTurn (s : State) (wk : Nat) (c : Cand) (t : Team) (d : DetTeam) : State :=
  if ((s.warp wk).map fun w => w.fault == .none).getD true then
    let s := s.modWarp wk fun w => { w with turn := some (c.pc, c.lanes) }
    let t := (s.teamOf wk).getD t
    s.modTeam (((s.warp wk).map (·.team)).getD 0) fun t' => { t' with det := t.det.map fun x =>
      { x with fresh := x.fresh && x.round != d.round } }
  else s

/-- The bundles a deterministic warp may issue now: the one whose turn it is, once no return record is awaited, so that its
order does not depend on when the record comes (R342). -/
def State.detCands (s : State) (wk : Nat) (w : Warp) : List Cand :=
  if w.lanes.any fun l => s.returning wk l then [] else (detPick w.turn (s.warpCands wk w)).toList

/-- One selection of a warp's threads: whether anything issued, and the bundles that may issue in the same selection. -/
def State.tryWarp (ex : Instr → State → State) (s : State) (wk : Nat) : Option (List Cand) × State :=
  match s.warp wk, s.teamOf wk with
  | some w, some t =>
    if !s.mayIssue w t then (none, s)
    else match w.fault with
      | .ahead a => if a.done then (none, s) else (some [], s.aheadTurn ex wk a)
      | .none =>
        if w.dcPending then (some [], s.statusTrap wk w t)
        else match t.det with
          | none => match s.tryCands ex wk .thread true (rankCands (s.warpCands wk w)) with
            | (some (_, r), s) => (some r, s)
            | (none, s) => (none, s)
          | some d => match s.tryCands ex wk .thread true (s.detCands wk w) with
            | (some (c, _), s) =>
              let s := s.detTurn wk c t d
              (some (((s.warp wk).map fun w => s.detCands wk w).getD []), s)
            | (none, s) => (none, s)
      | _ => (none, s)
  | _, _ => (none, s)

/-- One selection of a recruitment's helpers. -/
def State.tryHelpers (ex : Instr → State → State) (s : State) (wk : Nat) : Option (List Cand) × State :=
  match s.warp wk, s.teamOf wk with
  | some w, some t => match w.recruit with
    | none => (none, s)
    | some r =>
      if !s.ctxRuns t.ctx then (none, s)
      else match s.tryCands ex wk .helper true (rankCands r.cands) with
        | (some _, s) => (some [], s)
        | (none, s) => (none, s)
  | _, _ => (none, s)

/-- What takes part in a scheduler's rotation: a warp `2 w`, or the helpers of its recruitment `2 w + 1` (R19, R294). -/
def State.tryEntity (ex : Instr → State → State) (s : State) (e : Nat) : Option (List Cand) × State :=
  if e % 2 = 0 then s.tryWarp ex (e / 2) else s.tryHelpers ex (e / 2)

/-- The normal warps of a scheduler. -/
def State.schedWarps (s : State) (g : Nat) : List (Nat × Warp) :=
  s.warps.filter fun (e : Nat × Warp) => e.2.kind == .normal && e.2.gs == g

/-- The rotation of a priority class, the entity after the last selected first; a warp that gave up its turn comes after
the others (R19, R72, R145). -/
def State.classOrder (s : State) (g cls last : Nat) : List Nat :=
  let ws := (s.schedWarps g).filter fun (e : Nat × Warp) => e.2.prio == cls
  let ents := ws.flatMap fun (e : Nat × Warp) => if e.2.recruit.isSome then [2 * e.1, 2 * e.1 + 1] else [2 * e.1]
  let later := ents.filter fun e => last < e
  let order := later ++ ents.filter fun e => e ≤ last
  let yields (e : Nat) : Bool := e % 2 == 0 && ((s.warp (e / 2)).map (·.yielded)).getD false
  (order.filter fun e => !yields e) ++ order.filter yields

/-- The rotation of every class, highest first: class and entity. -/
def State.rotation (s : State) (g : Nat) (sc : Sched) : List (Nat × Nat) :=
  ((List.range 16).map fun k => 15 - k).flatMap fun cls =>
    (s.classOrder g cls ((tget sc.rr cls).getD 0)).map fun e => (cls, e)

/-- Try the rotation in order: the first entity with an eligible bundle is selected. A 128-thread warp may issue a second
bundle in the same selection (R17). -/
def State.tryRotation (ex : Instr → State → State) (g : Nat) (s : State) : List (Nat × Nat) → State
  | [] => s
  | (cls, e) :: r => match s.tryEntity ex e with
    | (none, s) => s.tryRotation ex g r
    | (some more, s) =>
      let wide := e % 2 == 0 && ((s.warp (e / 2)).map fun w => w.w == 128 && w.fault == .none).getD false
      let sel := if wide then more.filterMap fun c => (minNat? c.lanes).map fun l => (e / 2, l) else []
      let s := s.modSched g fun x => { x with rr := tset x.rr cls e, sel := sel }
      let others := (s.schedWarps g).filter fun (x : Nat × Warp) => x.2.prio == cls && x.1 != e / 2
      others.foldl (fun s x => s.modWarp x.1 fun w => { w with yielded := false }) s

/-- The second bundle of a selection: the first of those left that can issue. -/
def State.trySecond (ex : Instr → State → State) (s : State) : List (Nat × Nat) → Option State
  | [] => none
  | (wk, l) :: r =>
    let here : Option (Cand × Team) := match s.warp wk, s.teamOf wk with
      | some w, some t =>
        if s.mayIssue w t && w.fault == .none then
          ((if t.det.isSome then s.detCands wk w else s.warpCands wk w).find? fun c => c.lanes.contains l).map fun c => (c, t)
        else none
      | _, _ => none
    match here with
    | none => s.trySecond ex r
    | some (c, t) => match s.issueWith ex wk .thread c.lanes c.pc false with
      | (true, s) => some (match t.det with
        | some d => s.detTurn wk c t d
        | none => s)
      | (false, s) => s.trySecond ex r

/-- Deterministic teams of a scheduler's core at a switching point turn to a warp that can run (R341). -/
def State.detRetry (s : State) (g : Nat) : State :=
  let ts := s.teams.filter fun (e : Nat × Team) => e.2.core == g / 6 && (e.2.det.map (·.switching)).getD false
  ts.foldl (fun s e => s.detSwitch e.1) s

/-- One cycle of a scheduler. A pre-emption that waits looks for its moment first (R348, R394). Every fourth cycle the Bolter
re-forms its warps' bundles (R15). -/
def State.schedTurn (ex : Instr → State → State) (s : State) (g : Nat) : State :=
  match tget s.scheds g with
  | none => s
  | some sc =>
    let s := s.modSched g fun x => { x with cycle := x.cycle + 1, sel := [] }
    let s := s.detRetry g
    let s := (s.ctxs.filter fun (e : Nat × Ctx) => e.2.state == 1).foldl (fun s e => s.preemptPoll e.1) s
    let s := match s.trySecond ex sc.sel with
      | some s => s
      | none => s.tryRotation ex g (s.rotation g sc)
    if (sc.cycle + 1) % 4 = 0 then (s.schedWarps g).foldl (fun s e => s.soon (.bolterReform e.1)) s else s

/-- One cycle of a control core's thread (R369): its deferred traps are delivered between its groups. -/
def State.controlTurn (ex : Instr → State → State) (s : State) (wk : Nat) : State :=
  let s := (s.tryWarp ex wk).2
  if ((s.warp wk).map fun w => !w.deferred.isEmpty).getD false then s.soon (.bolterReform wk) else s

end Sys2Proof.Machine
end

