-- ==== Sys2Proof/Machine/Turn.lean ====
section
/-! DEFINITION. One turn of the device: which of its agents takes the next step. The choice is the device's (R164, R207):
schedulers, control cores, the steps under way, and what the device does of its own accord. -/

namespace Sys2Proof.Machine

/-- The next state of an outcome; every meaning answers one. -/
def Res.nextOr (o : Res) (s : State) : State :=
  match o with
  | .next t => t
  | .fault _ => s
  | .refused _ => s

/-- Each core counts the cycles of a turn that pass on its own clock (R3, R164). -/
def State.passCycles (s : State) : State :=
  { s with
    stepNo := s.stepNo + 1
    cores := s.cores.map fun e => (e.1, { e.2 with clock := e.2.clock + Config.stepCycles s.stepNo e.1 }) }

/-- Schedulers that hold warps. -/
def State.busyScheds (s : State) : List Nat := (s.scheds.map (·.1)).filter fun g => !(s.schedWarps g).isEmpty

/-- Warps of control cores. -/
def State.controlWarps (s : State) : List Nat := (s.warps.filter fun (e : Nat × Warp) => e.2.kind == .control).map (·.1)

/-- A step under way takes place: it leaves the list first. -/
def State.takePending (ex : Instr → State → State) (s : State) (k : Nat) : State :=
  match s.pending[k]? with
  | none => s
  | some e => ex e { s with pending := s.pending.eraseIdx k }

/-- What the device may do of its own accord: place a team (R366), restore a row (R238), scrub (R421), drop a clean copy
(R207) or move a team (R367); or nothing. -/
def State.ownAccord (ex : Instr → State → State) (s : State) : State :=
  let (k, s) := s.choose 7
  match k with
  | 0 => match s.placement with
    | some (l, t, c, f) => ex (.teamPlace l t c f) s
    | none => s
  | 1 => let (b, s) := s.choose 8192; let (c, s) := s.choose 4; ex (.restore b c) s
  | 2 => let (c, s) := s.choose 256; ex (.scrub c) s
  | 3 =>
    let (i, s) := s.choose s.m.cClean.length
    match s.m.cClean[i]? with
    | some (a, _) => (execDrop (.core (a / 2 ^ 50)) (a % 2 ^ 50) s).nextOr s
    | none => s
  | 4 =>
    let (i, s) := s.choose s.m.hClean.length
    match s.m.hClean[i]? with
    | some (a, _) => (execDrop .home a s).nextOr s
    | none => s
  | 5 =>
    let (i, s) := s.choose s.teams.length
    let (c, s) := s.choose 48
    let (f, s) := s.choose 6
    match s.teams[i]? with
    | some (t, _) => ex (.teamMove t c f) s
    | none => s
  | _ => s

/-- One turn. -/
def State.turn (ex : Instr → State → State) (s : State) : State :=
  let s := s.passCycles
  let gs := s.busyScheds
  let cs := s.controlWarps
  let (k, s) := s.choose (gs.length + cs.length + s.pending.length + 1)
  match gs[k]? with
  | some g => s.schedTurn ex g
  | none => match cs[k - gs.length]? with
    | some w => s.controlTurn ex w
    | none =>
      if k < gs.length + cs.length + s.pending.length then s.takePending ex (k - gs.length - cs.length)
      else s.ownAccord ex

/-! ### Placing one word where it is fetched next -/

/-- The values of the launch that `State.place` sets up: one team of one 32-thread warp. -/
def wordVals : TaskVals :=
  { wcb := 0x2_0000, w := 32, warps := 1, teams := 1, code := 0x3_0000, codelen := 32, entry := 0, hpc := 0, fpol := 0, prio := 0
    xblk := 0, help := 0, spbytes := 0, tiles := 0, cores := 1, cur := 0, args := 0, seed := 0, stkbase := 0, stkstride := 0
    det := false, grant := false, dctrap := false, dcwin := 0, donedc := 0xFFFF_FFFF, trigdc := 0xFFFF_FFFF, ranges := []
    teamwcb := 0 }

/-- A 32-thread warp on scheduler 0 of core 0, standing at byte offset `pc`. -/
def wordWarp (pc : Nat) : Warp :=
  { freshWarp .normal 1 0 0 0 0 32 wordVals 0 with threads := List.replicate 32 (freshThread pc 0) }

def wordTeam : Team :=
  { ctx := 0, launch := 1, idx := 0, vals := wordVals, twcb := 0, core := 0, first := 0, spbase := 0, tiles := [], bars := []
    restarts := 0, dcstatus := 0, warps := [some 1], ended := [], det := none, recTiles := [], recExt := [], reserved := []
    tindex := 0 }

def wordLaunch : Launch :=
  { ctx := 0, id := 1, vals := wordVals, dcstatus := 0, next := 1, endedTeams := 0, triggered := 0
    trigSent := false, node := none, queue := none, token := none }

/-- The packet that holds a word: a header that waits for nothing and the word after it, or the word itself when it is a
header. -/
def wordPacket (w : Word) : List Byte :=
  if major w = 0x3F then wordBytes w ++ List.replicate 8 0
  else wordBytes 0x7E001FE0 ++ wordBytes w ++ List.replicate 4 0

/-- The state with one resident context and one warp that stands at word `w`, and the next choice the warp's scheduler: what
a driver's launch would bring about (log entry 2). -/
def State.place (s : State) (w : Word) : State :=
  let pc := if major w = 0x3F then 0 else 4
  let leaf : DWord := 0x0000_0001_0000_0703
  let s := s.finalWrite 0x1_0000 (wordPacket w)
  { s with
    agenda := [], pending := [], oracle := [0], iss := none
    cores := [(0, blankCore)], scheds := [(0, blankSched)], warps := [(1, wordWarp pc)], teams := [(1, wordTeam)]
    launches := [(1, wordLaunch)], ctxs := tset s.ctxs 0 { Ctx.reset with state := 0 }
    tr := { s.tr with tlb := [TlbEnt.mk (.core 0) 0 0x3_0000 16 leaf] }, nextId := max s.nextId 2 }

end Sys2Proof.Machine
end

