-- ==== Sys2Proof/Machine/Step.lean ====
section
/-! DEFINITION. One step of the device. -/

namespace Sys2Proof.Machine

/-- The state a meaning leaves; every meaning answers one. -/
def run (i : Instr) (s : State) : State := Res.nextOr (exec i s) s

/-- One step: an input or an event that is due, else one turn of the device. -/
def step (s : State) : Host.Outcome State Fault Refusal :=
  match s.agenda with
  | i :: rest => exec i { s with agenda := rest }
  | [] => .next (s.turn run)

/-- The state in which the word `w` is the next instruction that `step` fetches and runs. -/
def State.withFetchWord (s : State) (_nbits w : Nat) : State := s.place (BitVec.ofNat 32 w)

end Sys2Proof.Machine
end

