-- ==== Sys2Proof/Safety.lean ====
section
/-! DEFINITION. The terms in which claims are made: the forms a state keeps, when a group may run a word, and what a word
leaves as it was. -/

namespace Sys2Proof.Machine

/-! ### Forms a state keeps -/

/-- The memories of a state are in canonical form: addresses strictly rising, no listed zero. -/
def State.memOk (s : State) : Bool := Memory.wf s.m.mem && Memory.wf s.m.host

/-- Every write at a home point lies in one block of eight bytes and names each byte once (R207). -/
def State.unsettledOk (s : State) : Bool :=
  s.m.unsettled.all fun w => decide (w.bytes.map (·.1)).Nodup && w.bytes.all fun e => w.bytes.all fun f => e.1 / 8 == f.1 / 8

/-- The tables by which a state names its warps, teams, launches, contexts, cores and schedulers have rising keys. -/
def State.tablesOk (s : State) : Bool :=
  tsorted s.warps && tsorted s.teams && tsorted s.launches && tsorted s.ctxs && tsorted s.cores && tsorted s.scheds

/-! ### When a group may run a word -/

/-- The group `i` is issuing and nothing traps or holds a word of it that reads the vector registers `srcs` and writes
`dsts`: the actors may name them, and no open recruitment of the warp holds the write of one that acts (R30, R295, R296). -/
structure State.Ready (s : State) (i : Issue) (srcs dsts : List Nat) : Prop where
  issuing : s.iss = some i
  named : s.regError i srcs dsts = none
  unheld : s.recruitHeld i (s.acting i) dsts = false

/-- The same for threads of a warp `w` that is no control core's. -/
structure State.ReadyT (s : State) (i : Issue) (w : Warp) (srcs dsts : List Nat) : Prop extends s.Ready i srcs dsts where
  threads : i.kind = .thread
  warp : s.warp i.warp = some w

/-- A CTRL word of threads finds its warp `w` and team `t`, and may be issued there (R138). -/
structure State.ReadyC (s : State) (i : Issue) (w : Warp) (t : Team) : Prop where
  issuing : s.iss = some i
  threads : i.kind = .thread
  normal : w.kind = .normal
  warp : s.warp i.warp = some w
  team : s.teamOf i.warp = some t

/-- The bundle of a word that acts once per bundle, on no control core, its guard true at the lowest lane. -/
structure State.ReadyOnce (s : State) (i : Issue) (w : Warp) (t : Team) : Prop where
  issuing : s.iss = some i
  threads : i.kind = .thread
  view : i.view = none
  warp : s.warp i.warp = some w
  normal : w.kind = .normal
  team : s.team w.team = some t
  acts : s.bundleActs i = true

/-- A matrix word of threads whose guard is true for whole quarters `qs` of lane rows, and for no part of another (R175,
R176). -/
structure State.ReadyMatrix (s : State) (i : Issue) (w : Warp) (t : Team) (regs : List Nat) (qs : List (Nat × Nat)) :
    Prop where
  issuing : s.iss = some i
  threads : i.kind = .thread
  view : i.view = none
  warp : s.warp i.warp = some w
  normal : w.kind = .normal
  team : s.team w.team = some t
  inRange : ∀ r ∈ regs, r < 128
  named : s.regError i regs [] = none
  whole : quartersOf (s.acting i) = (qs, [])
  some_quarter : qs ≠ []

/-- Every target packet lies in the segment, on a translated page, at a clause start (R62, R68). -/
def State.TargetsOk (s : State) (i : Issue) (w : Warp) (t : Team) (xs : List Nat) : Prop :=
  ∀ x ∈ xs, s.targetCheck i w t x = (.ok, s)

/-- The actors `ls` go to their targets, the others of the group to the next packet; threads there may park (R21, R138). -/
def State.branched (s : State) (i : Issue) (ls : List Nat) (target : Nat → Nat) : State :=
  ls.foldl (fun s l => s.goto i [l] (12 * target l)) (s.goto i (i.lanes.filter fun l => !ls.contains l) (12 * (i.p + 1)))

/-- The access of a word's lanes passes the checks of R152 and every lane is located without a fault; `s1` is the machine
after the translations. `writes` says whether the access may write, which an ATOM.ldacq does not (R227). -/
def State.Reaches (s : State) (i : Issue) (w : Warp) (t : Team) (n : Nat) (a : Access) (acc : List (Nat × Nat))
    (accs : List LaneAcc) (s1 : State) (writes : Bool := a != .load) : Prop :=
  s.accessTrap w t (i.kind == .helper) n (a != .load) (a == .atomic) acc writes = none ∧
    s.locate w t a acc = (accs, [], false, s1)

/-- A word of memory's actors may go on (R70, R158): its flag has room and no acquire of a thread is awaited. -/
def State.MemoryFree (s : State) (i : Issue) (flag : Option Nat) : Prop :=
  s.roomFor i flag (s.acting i) = true ∧ s.acqWait i (s.acting i) = false

/-! ### What a word leaves as it was -/

/-- Every byte of storage reads as before, at every point: thread buffers, copies at cores and home points, memory, host
memory, scratchpads and accumulators. -/
def SameBytes (s t : State) : Prop := t.m = s.m

/-- `t` differs from `s` at most in words of the register files, in what commands in flight hide of them (R197), and in the
marks of matrix operations whose sources were overwritten (R185). -/
def OnlyVectors (s t : State) : Prop :=
  t = { s with reg := { s.reg with rf := t.reg.rf, shadow := t.reg.shadow }, mops := t.mops } ∧ t.mops.map (·.id) = s.mops.map (·.id)

/-- `t` differs from `s` at most in its warps: their threads, scalars, special registers and helpers. -/
def OnlyWarps (s t : State) : Prop := t = { s with warps := t.warps }

/-- Nothing hides a word of the register files from its owner (R197). -/
def RegSt.Seen (r : RegSt) (k : Nat) : Prop := ∀ j < 4, tget r.shadow (4 * k + j) = none

/-- A word of the register files, and what hides it from its owner, are as they were. -/
def RegSt.SameAt (r q : RegSt) (k : Nat) : Prop :=
  tget q.rf k = tget r.rf k ∧ ∀ j < 4, tget q.shadow (4 * k + j) = tget r.shadow (4 * k + j)

/-- Threads of warp `w` in the lanes `ls` hold and see `val` in v[d], every other word of the register files is as it was,
and nothing else of the machine differs. -/
def ThreadsTake (s : State) (w : Warp) (ls : List Nat) (d : Nat) (val : Nat → Word) (t : State) : Prop :=
  OnlyVectors s t ∧
  (∀ l ∈ ls, ∀ k, w.vkey l d = some k → tget t.reg.rf k = some (val l) ∧ t.reg.Seen k) ∧
  ∀ k, (∀ l ∈ ls, w.vkey l d ≠ some k) → s.reg.SameAt t.reg k

/-- `t` differs from `s` at most in the threads of its warps. -/
def OnlyThreads (s t : State) : Prop :=
  OnlyWarps s t ∧ ∀ k, (t.warp k).map (fun w => { w with threads := [] }) = (s.warp k).map fun w => { w with threads := [] }

/-- The threads of warp `wk` in the lanes `ls` are changed by `f`; every other thread and everything else is as it was. -/
def ThreadsBecome (s : State) (wk : Nat) (ls : List Nat) (f : Nat → Thread → Thread) (t : State) : Prop :=
  OnlyThreads s t ∧ ∀ k l, t.thread k l = (s.thread k l).map fun th => if k = wk ∧ l ∈ ls then f l th else th

/-- A warp without its helpers. -/
def Warp.bare (w : Warp) : Warp := { w with recruit := w.recruit.map fun r => { r with helpers := [] } }

/-- The helpers of warp `wk` with the indices `ls` are changed by `f`; every other helper, every thread and everything else
is as it was. -/
def HelpersBecome (s : State) (wk : Nat) (ls : List Nat) (f : Nat → Helper → Helper) (t : State) : Prop :=
  OnlyWarps s t ∧ (∀ k, k ≠ wk → t.warp k = s.warp k) ∧
  (t.warp wk).map Warp.bare = (s.warp wk).map Warp.bare ∧
  ∀ l, ((t.warp wk).bind fun w => w.helper l) = ((s.warp wk).bind fun w => w.helper l).map fun h =>
    if l ∈ ls then f l h else h

/-- Helpers hold `val` in their private v[d]. -/
def HelpersTake (s : State) (wk : Nat) (ls : List Nat) (d : Nat) (val : Nat → Word) (t : State) : Prop :=
  HelpersBecome s wk ls (fun l h => { h with vregs := tset h.vregs d (val l) }) t

/-- The actors `s.acting i` of the group hold `val` in v[d]: threads in the register file, helpers in their private
registers; nothing else differs (R295). -/
def ActorsTake (s : State) (i : Issue) (d : Nat) (val : Nat → Word) (t : State) : Prop :=
  match i.kind with
  | .thread => ∀ w, s.warp i.warp = some w → ThreadsTake s w (s.acting i) d val t
  | .helper => 64 ≤ d → HelpersTake s i.warp (s.acting i) d val t

/-- The actors `s.acting i` of the group hold `val` in p[n]; nothing else differs. -/
def ActorsTest (s : State) (i : Issue) (n : Nat) (ls : List Nat) (val : Nat → Bool) (t : State) : Prop :=
  match i.kind with
  | .thread => ThreadsBecome s i.warp ls (fun l th => { th with preds := setPredBit th.preds n (val l) }) t
  | .helper => HelpersBecome s i.warp ls (fun l h => { h with preds := setPredBit h.preds n (val l) }) t

/-- An operation that acts once for the bundle, under the flag its FSEL chooses. -/
def onceOpOf (i : Issue) (flag : Option Nat) (kind : OpKind) : Op :=
  { blankOp i.warp kind with lanes := [i.lowest], flag := flag }

/-- `t` is `s` with one more operation in flight: it counts on its flag and `ev` may complete it (R70). -/
def State.started (s : State) (o : Op) (ev : Nat → Instr) : State := ((s.startOp o).2).pend (ev s.nextId)

/-- The state after a matrix operation is accepted: its operation counts on its flag, it queues behind the others, and it may
be performed (R174). -/
def State.accepted (s : State) (i : Issue) (w : Warp) (m : Mop) (flag : Option Nat) (vdests : List (Nat × Nat)) : State :=
  let u := (s.startOp { blankOp i.warp .matrix with lanes := i.lanes, flag := flag, vdests := vdests }).2
  { u with
    mops := u.mops ++ [{ m with id := s.nextId, warp := i.warp, gs := w.gs, team := w.team, core := w.core }]
    pending := u.pending ++ [.matrixOpComplete s.nextId] }

end Sys2Proof.Machine
end

