-- ==== Sys2Proof/Certificates/Slice0/Obligations.lean ====
section
/-! DEFINITION. The statements, family by family: the parts of each stand in Sys2Proof.Claims, in the order of the families;
the statement itself, under its own name, is their conjunction. -/

open Sys2Proof Sys2Proof.Machine

namespace Sys2Proof.Claims

/-! ### Arithmetic in the lanes (R105 to R131) -/

/-- A two-source word of Format A: every actor's v[D] takes a value that `spec` allows for its operands, each read before
any is written, and nothing else differs (R105). -/
def TwoSource (mk : FmtA → Instr) (spec : Word → Word → Word → Prop) : Prop :=
  ∀ (s : State) (i : Issue) (f : FmtA), i.lanes.Nodup → s.Ready i (vregsOf f.ta f.a ++ vregsOf f.tb f.b) [f.d.toNat] →
    ∃ t val, exec (mk f) s = .next t ∧ (∀ l, spec (s.opnd i l f.ta f.a) (s.opnd i l f.tb f.b) (val l)) ∧
      ActorsTake s i f.d.toNat val t

/-- A three-source word of Format A: C is the PFX's source, or the old v[D] (R74, R105). -/
def ThreeSource (mk : FmtA → Instr) (spec : Word → Word → Word → Word → Prop) : Prop :=
  ∀ (s : State) (i : Issue) (f : FmtA), i.lanes.Nodup →
    s.Ready i (vregsOf f.ta f.a ++ vregsOf f.tb f.b ++ vregsOf (i.cOpnd f.d).1 (i.cOpnd f.d).2) [f.d.toNat] →
    ∃ t val, exec (mk f) s = .next t ∧
      (∀ l, spec (s.opnd i l f.ta f.a) (s.opnd i l f.tb f.b) (s.opnd i l (i.cOpnd f.d).1 (i.cOpnd f.d).2) (val l)) ∧
      ActorsTake s i f.d.toNat val t

/-- A unary word: `spec` sees the group, for its PFX, and the operand. -/
def OneSource (mk : FmtU → Instr) (spec : Issue → Word → Word → Prop) : Prop :=
  ∀ (s : State) (i : Issue) (f : FmtU), i.lanes.Nodup → s.Ready i (vregsOf f.ta f.a) [f.d.toNat] →
    ∃ t val, exec (mk f) s = .next t ∧ (∀ l, spec i (s.opnd i l f.ta f.a) (val l)) ∧ ActorsTake s i f.d.toNat val t

/-- R109: the results of the two-source integer majors. -/
def IntegerTwoSource : Prop :=
  TwoSource .iadd (fun a b r => r.toNat = (a.toNat + b.toNat) % 2 ^ 32) ∧
  TwoSource .isub (fun a b r => (r.toNat : Int) = ((a.toNat : Int) - b.toNat) % 2 ^ 32) ∧
  TwoSource .imul (fun a b r => r.toNat = a.toNat * b.toNat % 2 ^ 32) ∧
  TwoSource .imulhs (fun a b r => r.toInt = a.toInt * b.toInt / 2 ^ 32) ∧
  TwoSource .imulhn (fun a b r => r.toNat = a.toNat * b.toNat / 2 ^ 32) ∧
  TwoSource .imins (fun a b r => r = if a.toInt < b.toInt then a else b) ∧
  TwoSource .iminn (fun a b r => r = if a.toNat < b.toNat then a else b) ∧
  TwoSource .imaxs (fun a b r => r = if a.toInt > b.toInt then a else b) ∧
  TwoSource .imaxn (fun a b r => r = if a.toNat > b.toNat then a else b) ∧
  TwoSource .iaddsat (fun a b r => r.toInt = max (-2 ^ 31) (min (2 ^ 31 - 1) (a.toInt + b.toInt))) ∧
  TwoSource .isubsat (fun a b r => r.toInt = max (-2 ^ 31) (min (2 ^ 31 - 1) (a.toInt - b.toInt))) ∧
  TwoSource .and (fun a b r => ∀ k < 32, r.getLsbD k = (a.getLsbD k && b.getLsbD k)) ∧
  TwoSource .or (fun a b r => ∀ k < 32, r.getLsbD k = (a.getLsbD k || b.getLsbD k)) ∧
  TwoSource .xor (fun a b r => ∀ k < 32, r.getLsbD k = (a.getLsbD k != b.getLsbD k)) ∧
  TwoSource .andn (fun a b r => ∀ k < 32, r.getLsbD k = (a.getLsbD k && !b.getLsbD k)) ∧
  ThreeSource .imad (fun a b c r => r.toNat = (a.toNat * b.toNat + c.toNat) % 2 ^ 32)

/-- R110: the shift count is not reduced. -/
def Shifts : Prop :=
  TwoSource .shl (fun a b r => r.toNat = a.toNat * 2 ^ b.toNat % 2 ^ 32) ∧
  TwoSource .shrn (fun a b r => r.toNat = a.toNat / 2 ^ b.toNat) ∧
  TwoSource .shrs (fun a b r => r.toInt = a.toInt / 2 ^ b.toNat)

/-- Offset and width of a field (R111): a field that would reach past bit 31 stops there. -/
def fieldAt (b : Word) : Nat × Nat := (b.toNat % 32, min (b.toNat / 256 % 64) (32 - b.toNat % 32))

/-- R111, R112, R113, R120: bit fields, bytes, selection and packing. -/
def FieldsAndBytes : Prop :=
  TwoSource .bfx (fun a b r => ∀ k < 32, r.getLsbD k =
    if k < (fieldAt b).2 then a.getLsbD ((fieldAt b).1 + k)
    else b.getLsbD 15 && (fieldAt b).2 != 0 && a.getLsbD ((fieldAt b).1 + (fieldAt b).2 - 1)) ∧
  ThreeSource .bfi (fun a b c r => ∀ k < 32, r.getLsbD k =
    if (fieldAt b).1 ≤ k ∧ k < (fieldAt b).1 + (fieldAt b).2 then a.getLsbD (k - (fieldAt b).1) else c.getLsbD k) ∧
  TwoSource .perm (fun a b r => ∀ y < 4, ∀ k < 8, r.getLsbD (8 * y + k) =
    (!b.getLsbD (4 * y + 2) &&
      a.getLsbD (8 * ((b.getLsbD (4 * y)).toNat + 2 * (b.getLsbD (4 * y + 1)).toNat) +
        (if b.getLsbD (4 * y + 3) then 7 else k)))) ∧
  TwoSource .pack2 (fun a b r => r = b.extractLsb' 0 16 ++ a.extractLsb' 0 16) ∧
  ∀ (s : State) (i : Issue) (f : FmtA), i.lanes.Nodup →
    s.Ready i (vregsOf f.ta f.a ++ vregsOf f.tb f.b ++ [f.d.toNat]) [f.d.toNat] →
    ∃ t, exec (.sel f) s = .next t ∧ ActorsTake s i f.d.toNat
      (fun l => if s.opnd i l f.ta f.a ≠ 0 then s.opnd i l f.tb f.b else s.rdV i l f.d.toNat) t

/-- Threads of warp `w` in the lanes `ls` hold and see the pairs `val` in v[d] and v[d + 1], low word first; nothing else
differs. -/
def PairsTaken (s : State) (w : Warp) (ls : List Nat) (d : Nat) (val : Nat → DWord) (t : State) : Prop :=
  OnlyVectors s t ∧
  (∀ l ∈ ls, ∀ k, (w.vkey l d = some k → tget t.reg.rf k = some ((val l).extractLsb' 0 32) ∧ t.reg.Seen k) ∧
    (w.vkey l (d + 1) = some k → tget t.reg.rf k = some ((val l).extractLsb' 32 32) ∧ t.reg.Seen k)) ∧
  ∀ k, (∀ l ∈ ls, w.vkey l d ≠ some k ∧ w.vkey l (d + 1) ≠ some k) → s.reg.SameAt t.reg k

/-- R114, R121: the pair forms, for threads; an even D names the pair. -/
def PairResults : Prop :=
  (∀ (s : State) (i : Issue) (w : Warp) (f : FmtA), f.d.toNat % 2 = 0 →
    s.ReadyT i w (vpairOf f.ta f.a ++ vpairOf f.tb f.b) [f.d.toNat, f.d.toNat + 1] →
    ∃ t, exec (.iadd64 f) s = .next t ∧ PairsTaken s w (s.acting i) f.d.toNat
      (fun l => s.opnd64 i l f.ta f.a + s.opnd64 i l f.tb f.b) t) ∧
  ∀ (s : State) (i : Issue) (w : Warp) (f : FmtU), f.d.toNat % 2 = 0 →
    s.ReadyT i w (vpairOf f.ta f.a) [f.d.toNat, f.d.toNat + 1] →
    ∃ t, exec (.mov64 f) s = .next t ∧ PairsTaken s w (s.acting i) f.d.toNat (fun l => s.opnd64 i l f.ta f.a) t

/-- R121: the integer and move minors. -/
def IntegerUnary : Prop :=
  OneSource .mov (fun _ a r => r = a) ∧
  OneSource .not (fun _ a r => ∀ k < 32, r.getLsbD k = !a.getLsbD k) ∧
  OneSource .ineg (fun i a r => if i.sat then r.toInt = min (2 ^ 31 - 1) (-a.toInt) else (r.toNat : Int) = (-a.toInt) % 2 ^ 32) ∧
  OneSource .iabs (fun i a r => if i.sat then r.toInt = min (2 ^ 31 - 1) (a.toInt.natAbs : Int) else r.toNat = a.toInt.natAbs) ∧
  OneSource .clz (fun _ a r => r.toNat ≤ 32 ∧ (∀ k < r.toNat, a.getLsbD (31 - k) = false) ∧
    (r.toNat < 32 → a.getLsbD (31 - r.toNat) = true)) ∧
  OneSource .popc (fun _ a r => r.toNat = ((List.range 32).filter fun k => a.getLsbD k).length) ∧
  OneSource .brev (fun _ a r => ∀ k < 32, r.getLsbD (31 - k) = a.getLsbD k)

end Sys2Proof.Claims

/-- Integer words write the results of R109 and shifts those of R110, and change nothing else. (R109, R110) -/
def Obligations.IntegerWordResults : Prop := Sys2Proof.Claims.IntegerTwoSource ∧ Sys2Proof.Claims.Shifts

/-- Bit fields, bytes, selection, packing, pairs and the unary integer words write their results and change nothing else.
(R111, R112) -/
def Obligations.FieldPairAndUnaryResults : Prop :=
  Sys2Proof.Claims.FieldsAndBytes ∧
  Sys2Proof.Claims.PairResults ∧
  Sys2Proof.Claims.IntegerUnary

namespace Sys2Proof.Claims

/-- A word of two f32 sources of Format A: `spec` sees the group, for its mode, and the operands after their modifiers. -/
def FloatTwo (mk : FmtA → Instr) (spec : Issue → Machine.Num → Machine.Num → Word → Prop) : Prop :=
  ∀ (s : State) (i : Issue) (f : FmtA), i.lanes.Nodup → s.Ready i (vregsOf f.ta f.a ++ vregsOf f.tb f.b) [f.d.toNat] →
    ∃ t val, exec (mk f) s = .next t ∧
      (∀ l, spec i (i.modA (f32 (s.opndF i l .f32 false f.ta f.a))) (i.modB (f32 (s.opndF i l .f32 false f.tb f.b))) (val l)) ∧
      ActorsTake s i f.d.toNat val t

/-- Is `a` below `b`, with −0 below +0 (R116)? -/
def below (a b : Machine.Num) : Bool := a.cmp b < 0 || (a.isNegZero && b.isPosZero)

/-- R115, R116, R117: one rounding of the exact result; FMIN and FMAX return an operand; FSCALE reads B as an integer. -/
def FloatResults : Prop :=
  FloatTwo .fadd (fun i a b r => r.toNat = roundTo (sumExact i.mode [a, b]) .f32 i.mode i.sat % 2 ^ 32) ∧
  FloatTwo .fsub (fun i a b r => r.toNat = roundTo (sumExact i.mode [a, b.negate]) .f32 i.mode i.sat % 2 ^ 32) ∧
  FloatTwo .fmul (fun i a b r => r.toNat = roundTo (a.mul b) .f32 i.mode i.sat % 2 ^ 32) ∧
  FloatTwo .fmin (fun _ a b r => (a.isNaN ∧ b.isNaN → r = 0x7FC0_0000) ∧ (a.isNaN ∧ ¬b.isNaN → r = toF32 b .rne false) ∧
    (¬a.isNaN ∧ (b.isNaN ∨ below a b) → r = toF32 a .rne false) ∧
    (¬a.isNaN ∧ ¬b.isNaN ∧ ¬below a b → r = toF32 b .rne false)) ∧
  FloatTwo .fmax (fun _ a b r => (a.isNaN ∧ b.isNaN → r = 0x7FC0_0000) ∧ (a.isNaN ∧ ¬b.isNaN → r = toF32 b .rne false) ∧
    (¬a.isNaN ∧ (b.isNaN ∨ ¬below a b) → r = toF32 a .rne false) ∧
    (¬a.isNaN ∧ ¬b.isNaN ∧ below a b → r = toF32 b .rne false)) ∧
  (∀ (s : State) (i : Issue) (f : FmtA), i.lanes.Nodup →
    s.Ready i (vregsOf f.ta f.a ++ vregsOf f.tb f.b) [f.d.toNat] → ∃ t, exec (.fscale f) s = .next t ∧
      ActorsTake s i f.d.toNat (fun l =>
        toF32 ((i.modA (f32 (s.opndF i l .f32 false f.ta f.a))).scale (s.opnd i l f.tb f.b).toInt) i.mode i.sat) t) ∧
  ∀ (s : State) (i : Issue) (f : FmtA), i.lanes.Nodup →
    s.Ready i (vregsOf f.ta f.a ++ vregsOf f.tb f.b ++ vregsOf (i.cOpnd f.d).1 (i.cOpnd f.d).2) [f.d.toNat] →
    ∃ t, exec (.ffma f) s = .next t ∧ ActorsTake s i f.d.toNat (fun l => toF32 (sumExact i.mode
      [(i.modA (f32 (s.opndF i l .f32 false f.ta f.a))).mul (i.modB (f32 (s.opndF i l .f32 false f.tb f.b))),
       f32 (s.opndF i l .f32 false (i.cOpnd f.d).1 (i.cOpnd f.d).2)]) i.mode i.sat) t

/-- A packed word: element `e` of the result is `op` of the elements of the sources, each rounded once in its type. -/
def PackedWord (mk : FmtA → Instr) (ty : FType) (three : Bool) (op : RMode → Machine.Num → Machine.Num → Machine.Num → Machine.Num) : Prop :=
  ∀ (s : State) (i : Issue) (f : FmtA), i.lanes.Nodup →
    s.Ready i (vregsOf f.ta f.a ++ vregsOf f.tb f.b ++
      (if three then vregsOf (i.cOpnd f.d).1 (i.cOpnd f.d).2 else [])) [f.d.toNat] →
    ∃ t val, exec (mk f) s = .next t ∧ ActorsTake s i f.d.toNat val t ∧ ∀ l, ∀ e < 2,
      (half (val l) e).toNat = roundTo (op i.mode
        (i.modA (decodeF ty (half (s.opndF i l ty true f.ta f.a) e).toNat))
        (i.modB (decodeF ty (half (s.opndF i l ty true f.tb f.b) e).toNat))
        (decodeF ty (half (s.opndF i l ty true (i.cOpnd f.d).1 (i.cOpnd f.d).2) e).toNat)) ty i.mode i.sat % 2 ^ 16

/-- A packed dot product: the exact sum of both products and of the f32 source C, rounded once to f32. -/
def DotWord (mk : FmtA → Instr) (ty : FType) : Prop :=
  ∀ (s : State) (i : Issue) (f : FmtA), i.lanes.Nodup →
    s.Ready i (vregsOf f.ta f.a ++ vregsOf f.tb f.b ++ vregsOf (i.cOpnd f.d).1 (i.cOpnd f.d).2) [f.d.toNat] →
    ∃ t, exec (mk f) s = .next t ∧ ActorsTake s i f.d.toNat (fun l =>
      let p (e : Nat) : Machine.Num := (i.modA (decodeF ty (half (s.opndF i l ty true f.ta f.a) e).toNat)).mul
        (i.modB (decodeF ty (half (s.opndF i l ty true f.tb f.b) e).toNat))
      toF32 (sumExact i.mode [p 0, p 1, f32 (s.opndF i l .f32 false (i.cOpnd f.d).1 (i.cOpnd f.d).2)]) i.mode i.sat) t

/-- R118, R119: packed bf16 and f16. -/
def PackedResults : Prop :=
  PackedWord .badd2 .bf16 false (fun m a b _ => sumExact m [a, b]) ∧ PackedWord .bmul2 .bf16 false (fun _ a b _ => a.mul b) ∧
  PackedWord .bfma2 .bf16 true (fun m a b c => sumExact m [a.mul b, c]) ∧
  PackedWord .hadd2 .f16 false (fun m a b _ => sumExact m [a, b]) ∧ PackedWord .hmul2 .f16 false (fun _ a b _ => a.mul b) ∧
  PackedWord .hfma2 .f16 true (fun m a b c => sumExact m [a.mul b, c]) ∧ DotWord .bdot2 .bf16 ∧ DotWord .hdot2 .f16

/-- The class bit of an f32 pattern (R126), read from its fields. -/
def classBit (a : Word) : Nat :=
  let e := (a.extractLsb' 23 8).toNat
  let z := a.extractLsb' 0 23 == 0
  let n := a.getLsbD 31
  if e = 255 then (if z then (if n then 0 else 7) else 8)
  else if e = 0 then (if z then (if n then 3 else 4) else (if n then 2 else 5))
  else if n then 1 else 6

/-- R126, R127: FRND, FFRACT, FCLASS and CVT. FCLASS is stated by the bits of a source without modifiers. -/
def FloatUnary : Prop :=
  (∀ (s : State) (i : Issue) (f : FmtU), i.lanes.Nodup → s.Ready i (vregsOf f.ta f.a) [f.d.toNat] →
    ∃ t, exec (.frnd f) s = .next t ∧ ActorsTake s i f.d.toNat
      (fun l => toF32 (roundIntegral i.mode (i.modA (f32 (s.opndF i l .f32 false f.ta f.a)))) .rne false) t) ∧
  (∀ (s : State) (i : Issue) (f : FmtU), i.lanes.Nodup → s.Ready i (vregsOf f.ta f.a) [f.d.toNat] →
    ∃ t, exec (.ffract f) s = .next t ∧ ActorsTake s i f.d.toNat
      (fun l => fractOf (i.modA (f32 (s.opndF i l .f32 false f.ta f.a)))) t) ∧
  (∀ (s : State) (i : Issue) (f : FmtU), i.lanes.Nodup → s.Ready i (vregsOf f.ta f.a) [f.d.toNat] →
    ∃ t val, exec (.fclass f) s = .next t ∧ ActorsTake s i f.d.toNat val t ∧
      ∀ l, (i.pfx = none → (val l).toNat = 2 ^ classBit (s.opndF i l .f32 false f.ta f.a)) ∧
        val l = classOf (i.modA (f32 (s.opndF i l .f32 false f.ta f.a)))) ∧
  ∀ (s : State) (i : Issue) (f : FmtCvt), i.lanes.Nodup → s.Ready i (vregsOf f.ta f.a) [f.d.toNat] →
    ∃ t, exec (.cvt f) s = .next t ∧ ActorsTake s i f.d.toNat (fun l =>
      if f.x.toNat < 6 then
        let a := s.opndF i l (FType.ofCvt f.x.toNat) false f.ta f.a
        cvtResult f.x f.y a (i.modA (cvtSource f.x a)) i.mode (f.s == 1)
      else cvtResult f.x f.y (s.opnd i l f.ta f.a) (cvtSource f.x (s.opnd i l f.ta f.a)) i.mode (f.s == 1)) t

/-- R95, R97: a result that the type holds is delivered unchanged, in every mode. -/
def RoundingIsExact : Prop :=
  (∀ a : Word, ∀ m, (f32 a).isNaN = false → toF32 (f32 a) m false = a) ∧
  (∀ a : BitVec 16, ∀ m, (decodeF .bf16 a.toNat).isNaN = false → roundTo (decodeF .bf16 a.toNat) .bf16 m false = a.toNat) ∧
  ∀ a : BitVec 16, ∀ m, (decodeF .f16 a.toNat).isNaN = false → roundTo (decodeF .f16 a.toNat) .f16 m false = a.toNat

/-- R122: a special function starts an operation that holds D and counts on its flag, with the function's result for each
acting lane; D is written when it returns. -/
def SpecialStarts (mk : FmtU → Instr) (fn : SfuFn) : Prop :=
  ∀ (s : State) (i : Issue) (w : Warp) (f : FmtU), s.ReadyT i w (vregsOf f.ta f.a) [f.d.toNat] → s.acting i ≠ [] →
    s.flagRoom i.warp none (s.flagOf i none) →
    exec (mk f) s = .next (s.started { blankOp i.warp (.sfu ((s.acting i).map fun l => (l, f.d.toNat,
        sfuResult fn i.mode ((i.pfx.map (·.nega)).getD 0 == 1) ((i.pfx.map (·.absa)).getD 0 == 1)
          (s.opndF i l .f32 false f.ta f.a)))) with
      lanes := s.acting i, flag := s.flagOf i none, vdests := (s.acting i).map fun l => (l, f.d.toNat) } .sfuResult)

/-- R122: issue and return of the special functions. -/
def SpecialFunctions : Prop :=
  SpecialStarts .frcp .rcp ∧ SpecialStarts .frsq .rsq ∧ SpecialStarts .fsqrt .sqrt ∧ SpecialStarts .fexp2 .exp2 ∧
  SpecialStarts .flog2 .log2 ∧ SpecialStarts .fsint .sint ∧ SpecialStarts .fcost .cost ∧ SpecialStarts .ftanh .tanh ∧
  ∀ (s : State) (id : Nat) (o : Op) (res : List (Nat × Nat × Word)), s.op id = some o → o.kind = .sfu res →
    exec (.sfuResult id) s = .next ((res.foldl (fun t e => t.landV o e.1 e.2.1 e.2.2) s).endOp id)

/-- R124, R125: inputs whose special-function results are fixed. -/
def SpecialExact : Prop :=
  ∀ m, sfuResult .rcp m false false 0 = 0x7F80_0000 ∧ sfuResult .rcp m false false 0x8000_0000 = 0xFF80_0000 ∧
    sfuResult .rcp m false false 0x4000_0000 = 0x3F00_0000 ∧ sfuResult .rsq m false false 0x8000_0000 = 0xFF80_0000 ∧
    sfuResult .rsq m false false 0x4080_0000 = 0x3F00_0000 ∧ sfuResult .rsq m false false 0xBF80_0000 = 0x7FC0_0000 ∧
    sfuResult .sqrt m false false 0x8000_0000 = 0x8000_0000 ∧ sfuResult .sqrt m false false 0xFF80_0000 = 0x7FC0_0000 ∧
    sfuResult .exp2 m false false 0x4000_0000 = 0x4080_0000 ∧ sfuResult .exp2 m false false 0xFF80_0000 = 0 ∧
    sfuResult .log2 m false false 0x3F80_0000 = 0 ∧ sfuResult .log2 m false false 0x4100_0000 = 0x4040_0000 ∧
    sfuResult .tanh m false false 0x7F80_0000 = 0x3F80_0000 ∧ sfuResult .sint m false false 0x4030_0000 = 0xBF80_0000 ∧
    sfuResult .cost m false false 0x4030_0000 = 0 ∧ sfuResult .cost m false false 0x3F00_0000 = 0xBF80_0000

/-- The truth of a condition of R128 on raw operands `a` and `b`; the float conditions read `x` and `y`. -/
def condTrue (c : Nat) (a b : Word) (x y : Machine.Num) : Prop :=
  let nan : Prop := x.isNaN ∨ y.isNaN
  (c = 0 → a = b) ∧ (c = 1 → a ≠ b) ∧ (c = 2 → a.toInt < b.toInt) ∧ (c = 3 → a.toInt ≤ b.toInt) ∧ (c = 4 → a.toInt > b.toInt) ∧
  (c = 5 → a.toInt ≥ b.toInt) ∧ (c = 6 → a.toNat < b.toNat) ∧ (c = 7 → a.toNat ≤ b.toNat) ∧ (c = 8 → a.toNat > b.toNat) ∧
  (c = 9 → a.toNat ≥ b.toNat) ∧ (c = 10 → ¬nan ∧ x.cmp y < 0) ∧ (c = 11 → ¬nan ∧ x.cmp y ≤ 0) ∧ (c = 12 → ¬nan ∧ x.cmp y = 0) ∧
  (c = 13 → nan ∨ x.cmp y ≠ 0) ∧ (c = 14 → nan) ∧ (c = 15 → ¬nan)

/-- R128: CMP sets p[PD] of every actor to the truth of its condition, and nothing else. -/
def Compare : Prop :=
  ∀ (s : State) (i : Issue) (f : FmtC), i.lanes.Nodup → s.Ready i (vregsOf f.ta f.a ++ vregsOf f.tb f.b) [] →
    ∃ t val, exec (.cmp f) s = .next t ∧ ActorsTest s i f.pd.toNat (s.acting i) val t ∧ ∀ l, val l ↔
      if f.cond.toNat < 10 then condTrue f.cond.toNat (s.opnd i l f.ta f.a) (s.opnd i l f.tb f.b) .nan .nan
      else condTrue f.cond.toNat 0 0 (i.modA (f32 (s.opndF i l .f32 false f.ta f.a)))
        (i.modB (f32 (s.opndF i l .f32 false f.tb f.b)))

end Sys2Proof.Claims

/-- Float and packed words round one exact result once; FMIN and FMAX return an operand. (R74, R107, R115, R116, R117,
R118, R119) -/
def Obligations.FloatAndPackedResults : Prop := Sys2Proof.Claims.FloatResults ∧ Sys2Proof.Claims.PackedResults

/-- FRND, FFRACT, FCLASS and CVT write their results; CMP writes the truth of its condition. (R97, R126, R127, R128)
Where the spec leaves a point open it rests on the model's choice or reading of log entry 18. -/
def Obligations.FloatUnaryAndCompareResults : Prop := Sys2Proof.Claims.FloatUnary ∧ Sys2Proof.Claims.Compare

/-- A value that f32, bf16 or f16 holds is rounded to itself in every mode. (R95, R97) -/
def Obligations.RoundingKeepsHeldValues : Prop := Sys2Proof.Claims.RoundingIsExact

/-- Special functions start an operation that delivers a fixed result; the exact inputs give the exact results. (R70,
R122, R124, R125)
Where the spec leaves a point open it rests on the model's choice or reading of log entry 39. -/
def Obligations.SpecialFunctionResults : Prop := Sys2Proof.Claims.SpecialFunctions ∧ Sys2Proof.Claims.SpecialExact

namespace Sys2Proof.Claims

/-- A scalar word of the bundle may run: its B operand may be named, its guard holds in the lowest lane, and no open
recruitment of the warp holds scalar writes (R20, R75, R296). -/
structure ScalarReady (s : State) (i : Issue) (srcs : List Nat) : Prop where
  issuing : s.iss = some i
  threads : i.kind = .thread
  named : srcs = [] ∨ s.regError i srcs [] = none
  acts : s.bundleActs i = true
  closed : s.recruiter i = none

/-- A two-source scalar word writes s[SD] once, and nothing else. -/
def ScalarWord (mk : FmtS → Instr) (spec : Word → Word → Word → Prop) : Prop :=
  ∀ (s : State) (i : Issue) (f : FmtS), ScalarReady s i (vregsOf f.tb (i.scalarB f.tb f.b)) →
    ∃ v, spec (s.rdS i f.sa.toNat) (s.opnd i i.lowest f.tb (i.scalarB f.tb f.b)) v ∧
      exec (mk f) s = .next (s.setS i.warp f.sd.toNat v)

/-- R129, R130: the scalar words, with the results of their vector counterparts. -/
def ScalarResults : Prop :=
  ScalarWord .sadd (fun a b r => r.toNat = (a.toNat + b.toNat) % 2 ^ 32) ∧
  ScalarWord .ssub (fun a b r => (r.toNat : Int) = ((a.toNat : Int) - b.toNat) % 2 ^ 32) ∧
  ScalarWord .smul (fun a b r => r.toNat = a.toNat * b.toNat % 2 ^ 32) ∧
  ScalarWord .sand (fun a b r => ∀ k < 32, r.getLsbD k = (a.getLsbD k && b.getLsbD k)) ∧
  ScalarWord .sor (fun a b r => ∀ k < 32, r.getLsbD k = (a.getLsbD k || b.getLsbD k)) ∧
  ScalarWord .sxor (fun a b r => ∀ k < 32, r.getLsbD k = (a.getLsbD k != b.getLsbD k)) ∧
  ScalarWord .sshl (fun a b r => r.toNat = a.toNat * 2 ^ b.toNat % 2 ^ 32) ∧
  ScalarWord .sshrn (fun a b r => r.toNat = a.toNat / 2 ^ b.toNat) ∧
  ScalarWord .sshrs (fun a b r => r.toInt = a.toInt / 2 ^ b.toNat) ∧
  ScalarWord .smins (fun a b r => r = if a.toInt < b.toInt then a else b) ∧
  ScalarWord .smaxs (fun a b r => r = if a.toInt > b.toInt then a else b) ∧
  ScalarWord .sminn (fun a b r => r = if a.toNat < b.toNat then a else b) ∧
  ScalarWord .smaxn (fun a b r => r = if a.toNat > b.toNat then a else b) ∧
  (∀ (s : State) (i : Issue) (f : FmtSmov), ScalarReady s i (vregsOf f.tb (i.scalarB f.tb f.b)) →
    exec (.smov f) s = .next (s.setS i.warp f.sd.toNat (s.opnd i i.lowest f.tb (i.scalarB f.tb f.b)))) ∧
  (∀ (s : State) (i : Issue) (f : FmtSmov), ScalarReady s i (vpairOf f.tb (i.scalarB f.tb f.b)) →
    ∃ v, v = s.opnd64 i i.lowest f.tb (i.scalarB f.tb f.b) ∧ exec (.smov64 f) s =
      .next ((s.setS i.warp f.sd.toNat (v.extractLsb' 0 32)).setS i.warp (f.sd.toNat + 1) (v.extractLsb' 32 32))) ∧
  ∀ (s : State) (i : Issue) (f : FmtS), ScalarReady s i (vpairOf f.tb (i.scalarB f.tb f.b)) →
    ∃ v, v = (s.rdS i (f.sa.toNat + 1) ++ s.rdS i f.sa.toNat) + s.opnd64 i i.lowest f.tb (i.scalarB f.tb f.b) ∧
      exec (.sadd64 f) s =
        .next ((s.setS i.warp f.sd.toNat (v.extractLsb' 0 32)).setS i.warp (f.sd.toNat + 1) (v.extractLsb' 32 32))

/-- R75, R297, R296: a scalar word changes nothing when its guard is false in the lowest lane, traps that lane in a helper with
sub-cause 0x24, and is held while a recruitment of its warp is open. -/
def ScalarForms : Prop :=
  ∀ (s : State) (i : Issue) (f : FmtS) (mk : FmtS → Instr),
    mk ∈ [Instr.sadd, .ssub, .smul, .sand, .sor, .sxor, .sshl, .sshrn, .sshrs, .smins, .smaxs, .sminn, .smaxn] →
    s.iss = some i → (vregsOf f.tb (i.scalarB f.tb f.b) = [] ∨ s.regError i (vregsOf f.tb (i.scalarB f.tb f.b)) [] = none) →
    (i.kind = .helper → s.bundleActs i = true → ∃ ls, i.lowest ∈ ls ∧ exec (mk f) s = .next (s.illegal 0x24 ls)) ∧
    (s.bundleActs i = false → exec (mk f) s = .next s) ∧
    (i.kind = .thread → s.bundleActs i = true → s.recruiter i ≠ none → exec (mk f) s = .next s.stall)

/-- R131: SCMP evaluates once and writes every thread of the bundle. -/
def ScalarCompare : Prop :=
  ∀ (s : State) (i : Issue) (f : FmtScmp), i.lanes.Nodup → s.iss = some i → s.bundleActs i = true →
    (vregsOf f.tb (i.scalarB f.tb f.b) = [] ∨ s.regError i (vregsOf f.tb (i.scalarB f.tb f.b)) [] = none) →
    ∃ t v, exec (.scmp f) s = .next t ∧ ActorsTest s i f.pd.toNat i.lanes (fun _ => v) t ∧ (v ↔
      if f.cond.toNat < 10 then
        condTrue f.cond.toNat (s.rdS i f.sa.toNat) (s.opnd i i.lowest f.tb (i.scalarB f.tb f.b)) .nan .nan
      else condTrue f.cond.toNat 0 0 (f32 (s.rdS i f.sa.toNat))
        (f32 (s.opndF i i.lowest .f32 false f.tb (i.scalarB f.tb f.b))))

/-! ### Cross-lane words (R132 to R136) -/

/-- The lane of the reader's row that `src` names, or the reader itself where that lane is not active (R132). -/
def servedBy (act : List Nat) (t : Nat) (src : Int) : Nat :=
  if 0 ≤ src ∧ src < 32 ∧ t / 32 * 32 + src.toNat ∈ act then t / 32 * 32 + src.toNat else t

/-- A shuffle of threads: v[D](t) := a(s), each read before any write. -/
def Shuffle (mk : FmtL → Instr) (src : Nat → Nat → Int) : Prop :=
  ∀ (s : State) (i : Issue) (w : Warp) (f : FmtL),
    s.ReadyT i w (vregsOf f.ta f.a ++ (if f.lane.getLsbD 5 then vregsOf (i.cOpnd f.d).1 (i.cOpnd f.d).2 else []))
      [f.d.toNat] →
    ∃ t, exec (mk f) s = .next t ∧ ThreadsTake s w (s.acting i) f.d.toNat (fun l =>
      let x := if f.lane.getLsbD 5 then (s.opnd i l (i.cOpnd f.d).1 (i.cOpnd f.d).2).toNat % 32 else f.lane.toNat % 32
      s.opnd i (servedBy (s.acting i) l (src (l % 32) x)) f.ta f.a) t

/-- The lowest active lane of a reader's row. -/
def rowLowest (act : List Nat) (t : Nat) : Nat := ((act.filter fun l => l / 32 == t / 32).min?).getD t

/-- R133, R134, R135: the shuffles, SWAPPAIR and BCASTL. -/
def Shuffles : Prop :=
  Shuffle .shfli (fun _ x => x) ∧ Shuffle .shflu (fun t x => (t : Int) - x) ∧ Shuffle .shfld (fun t x => (t : Int) + x) ∧
  Shuffle .shflx (fun t x => ((t ^^^ x : Nat) : Int)) ∧
  (∀ (s : State) (i : Issue) (w : Warp) (f : FmtL), s.ReadyT i w (vregsOf f.ta f.a) [f.d.toNat] → f.lane.toNat ≤ 4 →
    ∃ t, exec (.swappair f) s = .next t ∧ ThreadsTake s w (s.acting i) f.d.toNat (fun l =>
      let u := l ^^^ 2 ^ f.lane.toNat
      let own := s.opnd i l f.ta f.a
      let far := s.opnd i u f.ta f.a
      if u ∉ s.acting i then own
      else if l < u then far.extractLsb' 0 16 ++ own.extractLsb' 0 16
      else own.extractLsb' 16 16 ++ far.extractLsb' 16 16) t) ∧
  ∀ (s : State) (i : Issue) (w : Warp) (f : FmtU), s.ReadyT i w (vregsOf f.ta f.a) [f.d.toNat] →
    ∃ t, exec (.bcastl f) s = .next t ∧ ThreadsTake s w (s.acting i) f.d.toNat
      (fun l => s.opnd i (rowLowest (s.acting i) l) f.ta f.a) t

/-- R135, R136: VOTEB's censuses of the row or the bundle, and the operations of REDUX over it. -/
def Censuses : Prop :=
  (∀ (s : State) (i : Issue) (w : Warp) (f : FmtL), s.ReadyT i w (vregsOf f.ta f.a) [f.d.toNat] →
    ∃ t val, exec (.voteb f) s = .next t ∧ ThreadsTake s w (s.acting i) f.d.toNat val t ∧
      ∀ l ∈ s.acting i,
        let a (k : Nat) : Word := s.opnd i k f.ta f.a
        let row : Bool := !f.lane.getLsbD 3
        let scope := (s.acting i).filter fun k => !row || k / 32 == l / 32
        let counts := scope.filter fun k => a k != 0
        let index (k : Nat) : Word := BitVec.ofNat 32 (if row then k % 32 else k)
        (f.lane.toNat % 8 = 0 → row → ∀ b < 32, (val l).getLsbD b = decide (l / 32 * 32 + b ∈ counts)) ∧
        (f.lane.toNat % 8 = 1 → (val l).toNat = counts.length % 2 ^ 32) ∧
        (f.lane.toNat % 8 = 2 → counts = [] → val l = 0xFFFF_FFFF) ∧
        (f.lane.toNat % 8 = 2 → counts ≠ [] → ∃ k ∈ counts, (∀ j ∈ counts, k ≤ j) ∧ val l = index k) ∧
        (f.lane.toNat % 8 = 3 → counts = [] → val l = 0xFFFF_FFFF) ∧
        (f.lane.toNat % 8 = 3 → counts ≠ [] → ∃ k ∈ counts, (∀ j ∈ counts, j ≤ k) ∧ val l = index k) ∧
        (f.lane.toNat % 8 = 4 → (val l = 1 ↔ ∀ k ∈ scope, a k ≠ 0) ∧ (val l = 0 ↔ ∃ k ∈ scope, a k = 0)) ∧
        (f.lane.toNat % 8 = 5 → (val l = 1 ↔ ∃ k ∈ scope, a k ≠ 0) ∧ (val l = 0 ↔ ∀ k ∈ scope, a k = 0)) ∧
        (f.lane.toNat % 8 = 6 → row → ∀ b < 32, (val l).getLsbD b =
          (decide (l / 32 * 32 + b ∈ scope) && a (l / 32 * 32 + b) == a (rowLowest (s.acting i) l)))) ∧
  ∀ (s : State) (i : Issue) (w : Warp) (f : FmtL), s.ReadyT i w (vregsOf f.ta f.a) [f.d.toNat] →
    ∃ t val, exec (.redux f) s = .next t ∧ ThreadsTake s w (s.acting i) f.d.toNat val t ∧
      ∀ l ∈ s.acting i,
        let a (k : Nat) : Word := s.opnd i k f.ta f.a
        let scope := (s.acting i).filter fun k => f.lane.getLsbD 3 || k / 32 == l / 32
        (f.lane.toNat % 8 = 0 → (val l).toNat = (scope.map fun k => (a k).toNat).sum % 2 ^ 32) ∧
        (f.lane.toNat % 8 = 1 → (∃ k ∈ scope, val l = a k) ∧ ∀ k ∈ scope, (val l).toInt ≤ (a k).toInt) ∧
        (f.lane.toNat % 8 = 2 → (∃ k ∈ scope, val l = a k) ∧ ∀ k ∈ scope, (a k).toInt ≤ (val l).toInt) ∧
        (f.lane.toNat % 8 = 3 → (∃ k ∈ scope, val l = a k) ∧ ∀ k ∈ scope, (val l).toNat ≤ (a k).toNat) ∧
        (f.lane.toNat % 8 = 4 → (∃ k ∈ scope, val l = a k) ∧ ∀ k ∈ scope, (a k).toNat ≤ (val l).toNat) ∧
        (f.lane.toNat % 8 = 5 → ∀ b < 32, (val l).getLsbD b = scope.all fun k => (a k).getLsbD b) ∧
        (f.lane.toNat % 8 = 6 → ∀ b < 32, (val l).getLsbD b = scope.any fun k => (a k).getLsbD b) ∧
        (f.lane.toNat % 8 = 7 → ∀ b < 32, (val l).getLsbD b = ((scope.filter fun k => (a k).getLsbD b).length % 2 == 1))

/-! ### System words (R36, R161 to R166) -/

/-- R162: GETSR writes the special register to every acting lane's vector register, or once, from the leader, to a scalar;
a number outside the table traps with sub-cause 0x21. -/
def ReadSpecial : Prop :=
  (∀ (s : State) (i : Issue) (x y : BitVec 7), i.lanes.Nodup → s.Ready i [] [x.toNat] → s.srOf i i.lowest y.toNat ≠ none →
    ∃ t, exec (.getsr x y 0) s = .next t ∧ ActorsTake s i x.toNat (fun l => (s.srOf i l y.toNat).getD 0) t) ∧
  (∀ (s : State) (i : Issue) (x y : BitVec 7) (l : Nat), s.iss = some i → i.kind = .thread → s.recruiter i = none →
    s.srOf i i.lowest y.toNat ≠ none → s.leader i = some l →
    exec (.getsr x y 1) s = .next (s.setS i.warp x.toNat ((s.srOf i l y.toNat).getD 0))) ∧
  ∀ (s : State) (i : Issue) (x y : BitVec 7), s.Ready i [] [x.toNat] → s.srOf i i.lowest y.toNat = none →
    exec (.getsr x y 0) s = .next (if s.acting i = [] then s else s.illegal 0x21 (s.acting i))

/-- A SETSR of threads, of a vector (`k` = 0) or a scalar source, may run. -/
def SetReady (s : State) (i : Issue) (w : Warp) (k : BitVec 1) (x : BitVec 7) : Prop :=
  s.iss = some i ∧ i.kind = .thread ∧ s.warp i.warp = some w ∧ (k = 0 → s.regError i [x.toNat] [] = none)

/-- SETSR's source as a lane gives it: its own vector register, or the one scalar (R162). -/
def setSource (s : State) (i : Issue) (k : BitVec 1) (x : BitVec 7) (l : Nat) : Word :=
  if k = 0 then s.rdV i l x.toNat else s.rdS i x.toNat

/-- R36, R162: SETSR writes sr.drawcount in each acting thread, from its own vector register or from one scalar; in a handler
it writes sr.trappc, word aligned, once. Outside a handler sr.trappc, and anywhere any other register, cannot be written and
traps with sub-cause 0x22; a number outside the table traps with 0x21; a helper traps with 0x24. Nothing is written then. -/
def WriteSpecial : Prop :=
  (∀ (s : State) (i : Issue) (w : Warp) (k : BitVec 1) (x : BitVec 7), i.lanes.Nodup → SetReady s i w k x →
    ∃ t, exec (.setsr x 19 k) s = .next t ∧
      ThreadsBecome s i.warp (s.acting i) (fun l th => { th with draws := setSource s i k x l }) t) ∧
  (∀ (s : State) (i : Issue) (w v : Warp) (k : BitVec 1) (x : BitVec 7) (l : Nat), SetReady s i w k x →
    s.rdWarp i = some v → v.trap = .handling → s.leader i = some l →
    exec (.setsr x 33 k) s = .next (s.modWarp i.warp fun w => { w with trappc := setSource s i k x l &&& 0xFFFF_FFFC })) ∧
  (∀ (s : State) (i : Issue) (w v : Warp) (k : BitVec 1) (x y : BitVec 7), SetReady s i w k x → y ≠ 19 →
    s.rdWarp i = some v → (y = 33 → v.trap ≠ .handling) →
    (s.srOf i i.lowest y.toNat ≠ none →
      exec (.setsr x y k) s = .next (if s.acting i = [] then s else s.illegal 0x22 (s.acting i))) ∧
    (s.srOf i i.lowest y.toNat = none →
      exec (.setsr x y k) s = .next (if s.acting i = [] then s else s.illegal 0x21 (s.acting i)))) ∧
  ∀ (s : State) (i : Issue) (k : BitVec 1) (x y : BitVec 7), s.iss = some i → i.kind = .helper →
    exec (.setsr x y k) s = .next (if s.acting i = [] then s else s.illegal 0x24 (s.acting i))

/-- R163, R347: RAND writes the first one, two or four words of its draw to each acting thread, whose draw count rises by
one whatever the number of words. -/
def RandomDraw : Prop :=
  ∀ (s : State) (i : Issue) (w : Warp) (d : BitVec 7) (z : BitVec 2),
    let n := if z = 0 then 1 else if z = 1 then 2 else 4
    i.lanes.Nodup → s.ReadyT i w [] (regRange d.toNat n) → d.toNat % n = 0 →
    let draw (l : Nat) : Word × Word × Word × Word :=
      philox ((s.srOf i l 19).getD 0, (s.srOf i l 6).getD 0, (s.srOf i l 2).getD 0, (s.srOf i l 10).getD 0)
        ((s.srOf i l 13).getD 0, (s.srOf i l 14).getD 0)
    ∃ t, exec (.rand d z) s = .next t ∧
      (∀ l ∈ s.acting i, ∀ j < n, ∀ k, w.vkey l (d.toNat + j) = some k →
        tget t.reg.rf k = [(draw l).1, (draw l).2.1, (draw l).2.2.1, (draw l).2.2.2][j]? ∧ t.reg.Seen k) ∧
      (∀ k, (∀ l ∈ s.acting i, ∀ j < n, w.vkey l (d.toNat + j) ≠ some k) → s.reg.SameAt t.reg k) ∧
      (∀ k l, t.thread k l = (s.thread k l).map fun th =>
        if k = i.warp ∧ l ∈ s.acting i then { th with draws := th.draws + 1 } else th) ∧
      t = { s with reg := { s.reg with rf := t.reg.rf, shadow := t.reg.shadow }, mops := t.mops, warps := t.warps }

/-- R164, R165: CLOCK reads the core's cycles, or in deterministic mode the thread's retired instructions; CWIN sets the
window of the whole warp at a 512-byte boundary, else the group traps; CWIN.args returns to the arguments. -/
def ClockAndWindow : Prop :=
  (∀ (s : State) (i : Issue) (w : Warp) (d : BitVec 7), s.ReadyT i w [] [d.toNat, d.toNat + 1] → d.toNat % 2 = 0 →
    ∃ t, exec (.clock d 0) s = .next t ∧ PairsTaken s w (s.acting i) d.toNat (fun l => s.clockOf i l) t) ∧
  (∀ (s : State) (i : Issue) (w : Warp) (t : Team) (l : Nat) (th : Thread), s.rdWarp i = some w → s.teamOf i.warp = some t →
    w.threads[l]? = some th → s.clockOf i l = BitVec.ofNat 64 (if t.vals.det then th.retired
      else ((tget s.cores w.core).map (·.clock)).getD 0)) ∧
  (∀ (s : State) (i : Issue) (a : BitVec 7), s.iss = some i → i.kind = .thread → s.bundleActs i = true →
    let v := (s.rdS i (a.toNat + 1) ++ s.rdS i a.toNat).toNat
    (v % 512 = 0 → exec (.cwin a) s = .next (s.modWarp i.warp fun w => { w with cwin := v })) ∧
    (v % 512 ≠ 0 → exec (.cwin a) s = .next (s.raise 4 (s.acting i) v 0x90))) ∧
  ∀ (s : State) (i : Issue), s.iss = some i → i.kind = .thread → s.bundleActs i = true →
    exec .cwinArgs s = .next (s.modWarp i.warp fun w => { w with cwin := w.args })

/-- R166: outside a handler that runs for an uncorrectable error, UERPL traps with sub-cause 0x27; in one, each marked
acting lane's destination word K takes the replacement, and a K at or beyond the destination's words traps with
sub-cause 3. -/
def Replacement : Prop :=
  (∀ (s : State) (i : Issue) (w : Warp) (r : BitVec 7) (k : BitVec 2), s.ReadyT i w [r.toNat] [] →
    s.rdWarp i = some w → (w.trap ≠ .handling ∨ w.trapcause ≠ 7) →
      exec (.uerpl r k) s = .next (if s.acting i = [] then s else s.illegal 0x27 (s.acting i))) ∧
  ∀ (s : State) (i : Issue) (w : Warp) (r : BitVec 7) (k : BitVec 2), i.lanes.Nodup → s.ReadyT i w [r.toNat] [] →
    s.rdWarp i = some w → w.trap = .handling → w.trapcause = 7 →
    let d := bits w.trapinfo.toNat 6 0
    let n := if w.trapinfo.getLsbD 11 ∨ w.uedests = [] then 0
      else sizeWords (sizeBytes (BitVec.ofNat 3 (bits w.trapinfo.toNat 9 7)))
    let ls := (s.acting i).filter fun l => ((w.threads[l]?).map (·.marked)).getD false
    (n ≤ k.toNat → exec (.uerpl r k) s = .next (s.illegal 3 i.lanes)) ∧
    (k.toNat < n → s.recruitHeld i ls [d + k.toNat] = false → ∃ t, exec (.uerpl r k) s = .next t ∧
      (∀ l ∈ ls, ∀ j, w.vkey l (d + k.toNat) = some j → tget t.reg.rf j = some (s.rdV i l r.toNat) ∧ t.reg.Seen j) ∧
      (∀ j, (∀ l ∈ ls, w.vkey l (d + k.toNat) ≠ some j) → s.reg.SameAt t.reg j) ∧
      t.warp i.warp = some { w with uerpl := (ls.map fun l => (l, k.toNat)).reverse ++ w.uerpl } ∧
      (∀ j, j ≠ i.warp → t.warp j = s.warp j) ∧
      t = { s with reg := { s.reg with rf := t.reg.rf, shadow := t.reg.shadow }, mops := t.mops, warps := t.warps })

end Sys2Proof.Claims

/-- Scalar words write s[SD] once per bundle; a helper traps, a false guard changes nothing, an open recruitment holds
them. (R75, R129, R130, R131, R296, R297)
Where the spec leaves a point open it rests on the model's choice or reading of log entry 69. -/
def Obligations.ScalarWordResults : Prop :=
  Sys2Proof.Claims.ScalarResults ∧
  Sys2Proof.Claims.ScalarForms ∧
  Sys2Proof.Claims.ScalarCompare

/-- Shuffles, SWAPPAIR, BCASTL, VOTEB and REDUX combine the active lanes of a row or bundle. (R132, R133, R134, R135,
R136) -/
def Obligations.CrossLaneResults : Prop := Sys2Proof.Claims.Shuffles ∧ Sys2Proof.Claims.Censuses

/-- GETSR and SETSR read and write the special registers, and trap where the register or the access does not exist. (R36,
R162)
Where the spec leaves a point open it rests on the model's choice or reading of log entries 18, 69. -/
def Obligations.SpecialRegisterWords : Prop := Sys2Proof.Claims.ReadSpecial ∧ Sys2Proof.Claims.WriteSpecial

/-- RAND, CLOCK, CWIN and UERPL write their results and change nothing else. (R37, R163, R164, R165, R166, R347)
Where the spec leaves a point open it rests on the model's choice or reading of log entries 16, 18, 69, 96, 97. -/
def Obligations.DrawClockWindowAndReplacement : Prop :=
  Sys2Proof.Claims.RandomDraw ∧
  Sys2Proof.Claims.ClockAndWindow ∧
  Sys2Proof.Claims.Replacement

namespace Sys2Proof.Claims

/-! ### Control flow (R137 to R149) -/

/-- The group's actors may name the register of a branch's register form. -/
def FormOk (s : State) (i : Issue) (w : Warp) (rs : List Nat) : Prop :=
  rs = [] ∨ (w.kind = .normal ∧ s.regError i rs [] = none)

/-- R138, R139: the branches, in threads and helpers, when no target traps: BRA's offset counts packets from its own and is
taken modulo 2^23; BRX adds the register to its packet; JMPI takes bits 22 to 0 of the register. -/
def Branches : Prop :=
  (∀ (s : State) (i : Issue) (w : Warp) (t : Team) (f : FmtB), s.iss = some i → s.warp i.warp = some w →
    s.teamOf i.warp = some t →
    let ls := s.actingP i f.neg f.pred
    let x := i.offTarget f.off
    (ls ≠ [] → s.TargetsOk i w t [x]) → exec (.bra f) s = .next (s.branched i ls fun _ => x)) ∧
  (∀ (s : State) (i : Issue) (w : Warp) (t : Team) (f : FmtBr), s.iss = some i → s.warp i.warp = some w →
    s.teamOf i.warp = some t → FormOk s i w (formRegs f.tag f.reg) →
    let ls := s.actingP i f.neg f.pred
    let x (l : Nat) : Nat := (((i.p : Int) + (s.regForm i l f.tag f.reg).toInt) % 2 ^ 23).toNat
    s.TargetsOk i w t (ls.map x) → exec (.brx f) s = .next (s.branched i ls x)) ∧
  (∀ (s : State) (i : Issue) (w : Warp) (t : Team) (f : FmtBr), s.iss = some i → s.warp i.warp = some w →
    s.teamOf i.warp = some t → FormOk s i w (formRegs f.tag f.reg) →
    let ls := s.actingP i f.neg f.pred
    let x (l : Nat) : Nat := (s.regForm i l f.tag f.reg).toNat % 2 ^ 23
    s.TargetsOk i w t (ls.map x) → exec (.jmpi f) s = .next (s.branched i ls x)) ∧
  ∀ (i : Issue) (off : BitVec 16), i.pfx = none → i.p < 2 ^ 23 →
    (i.offTarget off : Int) % 2 ^ 23 = ((i.p : Int) + off.toInt) % 2 ^ 23 ∧ i.offTarget off < 2 ^ 23

/-- Every target packet of the actors is a clause start or has a sub-cause, and `c` is the lowest of these. -/
def BadTargets (s : State) (i : Issue) (w : Warp) (t : Team) (xs : List Nat) (c : Nat) : Prop :=
  (∀ x ∈ xs, s.targetCheck i w t x = (.ok, s) ∨ ∃ c', c ≤ c' ∧ s.targetCheck i w t x = (.bad c', s)) ∧
  ∃ x ∈ xs, s.targetCheck i w t x = (.bad c, s)

/-- R139, R62, R68: a branch, by any of its words, that some thread takes to a packet outside the segment (sub-cause 0x10) or
to one that is no clause start (0x0C) traps the whole group as an illegal instruction, with the lowest sub-cause, and no
thread moves. -/
def BranchTraps : Prop :=
  ∀ (s : State) (i : Issue) (w : Warp) (t : Team), s.iss = some i → s.warp i.warp = some w → s.teamOf i.warp = some t →
    (∀ x, t.vals.codelen ≤ x → s.targetCheck i w t x = (.bad 0x10, s)) ∧
    (∀ x, t.vals.codelen > x → ∀ c, (s.targetCheck i w t x).1 = .bad c → c = 0x0C) ∧
    (∀ (f : FmtB) (c : Nat), s.actingP i f.neg f.pred ≠ [] → BadTargets s i w t [i.offTarget f.off] c →
      exec (.bra f) s = .next (s.illegal c i.lanes)) ∧
    ∀ (f : FmtBr) (c : Nat), FormOk s i w (formRegs f.tag f.reg) →
      let ls := s.actingP i f.neg f.pred
      (BadTargets s i w t (ls.map fun l => (((i.p : Int) + (s.regForm i l f.tag f.reg).toInt) % 2 ^ 23).toNat) c →
        exec (.brx f) s = .next (s.illegal c i.lanes)) ∧
      (BadTargets s i w t (ls.map fun l => (s.regForm i l f.tag f.reg).toNat % 2 ^ 23) c →
        exec (.jmpi f) s = .next (s.illegal c i.lanes))

/-- R21, R22: a runnable thread that reaches the packet and depth of its meeting point parks there, when it is a clause
start and the thread runs no handler; any other goes on, and one that must wait for the fetch to tell is due to park. A
blocked thread that has its meeting point before it is due to park when it runs again; others do not move by it. -/
def Parking : Prop :=
  ∀ (s : State) (i : Issue) (w : Warp) (t : Team) (l pc : Nat) (th : Thread), i.kind = .thread → s.warp i.warp = some w →
    s.teamOf i.warp = some t → s.thread i.warp l = some th → pc % 12 = 0 →
    let meets : Prop := th.handling = false ∧ th.meet.getLsbD 31 = true ∧
      th.meet.toNat % 2 ^ 23 = pc / 12 ∧ th.meet.toNat / 2 ^ 23 % 256 = th.depth
    let look := s.clauseLook i.warp t (pc / 12)
    let u := (s.goto i [l] pc).thread i.warp l
    (th.st = .runnable → meets → look = some true → u = some { th with pc := pc, st := .parked, due := false }) ∧
    (th.st = .runnable → ¬meets ∨ look = some false → u = some { th with pc := pc, due := false }) ∧
    (th.st = .runnable → meets → look = none → u = some { th with pc := pc, due := true }) ∧
    (∀ b, th.st = .blocked b → meets → look ≠ some false → u = some { th with pc := pc, due := true }) ∧
    (∀ b, th.st = .blocked b → ¬meets ∨ look = some false → u = some { th with pc := pc, due := false }) ∧
    ((th.st = .parked ∨ th.st = .exited ∨ th.st = .killed) → u = some { th with pc := pc })

/-- R21: a blocked thread that runs again parks if it is due to and its packet is a clause start by then. -/
def Waking : Prop :=
  ∀ (s : State) (wk l : Nat) (t : Team) (th : Thread), s.teamOf wk = some t → s.thread wk l = some th →
    let look := s.clauseLook wk t (th.pc / 12)
    (th.due = false → (s.wake wk [l]).thread wk l = some { th with st := .runnable }) ∧
    (th.due = true → th.handling = false → th.parksAt = true → look = some true →
      (s.wake wk [l]).thread wk l = some { th with st := .parked, due := false })

/-- R9, R71, R140: CALL and CALLI push a return record of eight bytes on each acting thread's stack (the next packet and
both flag names), raise its depth and branch; at depth 255 they trap. -/
def Calls : Prop :=
  (∀ (s : State) (i : Issue) (w : Warp) (t : Team) (f : FmtB) (accs : List LaneAcc) (s1 s2 : State), s.ReadyC i w t →
    let ls := s.actingP i f.neg f.pred
    let depth (l : Nat) : Nat := ((w.threads[l]?).getD (freshThread 0 0)).depth
    let rec_ : Nat := (i.p + 1) % 2 ^ 23 + (s.clauseSets i).1.toNat * 2 ^ 23 + (s.clauseSets i).2.toNat * 2 ^ 27
    (∀ l ∈ ls, depth l ≠ 255) → s.acqWait i ls = false → (ls ≠ [] → s.TargetsOk i w t [i.offTarget f.off]) →
    s.Reaches i w t 8 .store (ls.map fun l => (l, 0xFD00_0000_0000_0000 + 8 * depth l)) accs s1 →
    s1.relFences i w.core ls = (s2, true) →
    exec (.call f) s = .next (((accs.foldl (fun (s : State) (x : LaneAcc) =>
      s.bufferWrite i.warp x.lane w.core 0 x.va x.loc (leBytes 8 rec_)) s2).modThreads i.warp ls
        fun x => { x with depth := x.depth + 1 }).branched i ls fun _ => i.offTarget f.off)) ∧
  (∀ (s : State) (i : Issue) (w : Warp) (t : Team) (f : FmtBr) (accs : List LaneAcc) (s1 s2 : State), s.ReadyC i w t →
    FormOk s i w (formRegs f.tag f.reg) →
    let ls := s.actingP i f.neg f.pred
    let depth (l : Nat) : Nat := ((w.threads[l]?).getD (freshThread 0 0)).depth
    let x (l : Nat) : Nat := (s.regForm i l f.tag f.reg).toNat % 2 ^ 23
    let rec_ : Nat := (i.p + 1) % 2 ^ 23 + (s.clauseSets i).1.toNat * 2 ^ 23 + (s.clauseSets i).2.toNat * 2 ^ 27
    (∀ l ∈ ls, depth l ≠ 255) → s.acqWait i ls = false → s.TargetsOk i w t (ls.map x) →
    s.Reaches i w t 8 .store (ls.map fun l => (l, 0xFD00_0000_0000_0000 + 8 * depth l)) accs s1 →
    s1.relFences i w.core ls = (s2, true) →
    exec (.calli f) s = .next (((accs.foldl (fun (s : State) (x : LaneAcc) =>
      s.bufferWrite i.warp x.lane w.core 0 x.va x.loc (leBytes 8 rec_)) s2).modThreads i.warp ls
        fun x => { x with depth := x.depth + 1 }).branched i ls x)) ∧
  ∀ (s : State) (i : Issue) (w : Warp) (t : Team) (l : Nat) (r : List Nat), s.ReadyC i w t →
    let full (ls : List Nat) : List Nat := ls.filter fun l => ((w.threads[l]?).getD (freshThread 0 0)).depth == 255
    (∀ f : FmtB, full (s.actingP i f.neg f.pred) = l :: r → exec (.call f) s = .next (s.raise 0x0E (l :: r) 0 0)) ∧
    ∀ f : FmtBr, FormOk s i w (formRegs f.tag f.reg) → full (s.actingP i f.neg f.pred) = l :: r →
      exec (.calli f) s = .next (s.raise 0x0E (l :: r) 0 0)

/-- R9, R140: RET loads each acting thread's record and lowers its depth; the thread waits for the record. At depth 0 it
traps. -/
def Returns : Prop :=
  (∀ (s s1 s2 : State) (i : Issue) (w : Warp) (t : Team) (f : FmtP) (accs : List LaneAcc) (ps : List LanePart), s.ReadyC i w t →
    let ls := s.actingP i f.neg f.pred
    let depth (l : Nat) : Nat := ((w.threads[l]?).getD (freshThread 0 0)).depth
    ls ≠ [] → (∀ l ∈ ls, depth l ≠ 0) → s.acqWait i ls = false →
    s.Reaches i w t 8 .load (ls.map fun l => (l, 0xFD00_0000_0000_0000 + 8 * (depth l - 1))) accs s1 →
    (s1.startOp { blankOp i.warp .ret with lanes := ls }).2.readLanes i w i.gpc 5 s1.nextId t.ctx accs = (ps, s2) →
    (∀ p ∈ ps, leNat (p.bytes.map fun b => b.getD 0) % 2 ^ 23 < t.vals.codelen) →
    exec (.ret f) s = .next ((((s2.goto i (i.lanes.filter fun l => !ls.contains l) (12 * (i.p + 1))).modThreads i.warp ls
      fun x => { x with depth := x.depth - 1 }).modOp s1.nextId fun o => { o with parts := ps }).pend
        (.loadDataReturn s1.nextId))) ∧
  ∀ (s : State) (i : Issue) (w : Warp) (t : Team) (f : FmtP) (l : Nat) (r : List Nat), s.ReadyC i w t →
    (s.actingP i f.neg f.pred).filter (fun l => ((w.threads[l]?).getD (freshThread 0 0)).depth == 0) = l :: r →
    exec (.ret f) s = .next (s.raise 0x0F (l :: r) 0 0)

/-- R11, R141: MEET moves the meeting entry to the outer one and sets a new entry at the thread's depth; MEETX writes either
entry from a register. -/
def Meetings : Prop :=
  (∀ (s : State) (i : Issue) (w : Warp) (t : Team) (f : FmtB), i.lanes.Nodup → s.ReadyC i w t →
    ∃ u, exec (.meet f) s = .next u ∧ ThreadsBecome s i.warp (s.actingP i f.neg f.pred) (fun _ th =>
      { th with meetout := th.meet
                meet := BitVec.ofNat 32 (2 ^ 31 + th.depth % 256 * 2 ^ 23 + i.offTarget f.off % 2 ^ 23) }) u) ∧
  ∀ (s : State) (i : Issue) (w : Warp) (t : Team) (f : FmtMeetx), i.lanes.Nodup → s.ReadyC i w t →
    FormOk s i w (formRegs f.tag f.reg) →
    ∃ u, exec (.meetx f) s = .next u ∧ ThreadsBecome s i.warp (s.actingP i f.neg f.pred) (fun l th =>
      if f.sel = 1 then { th with meet := s.regForm i l f.tag f.reg }
      else { th with meetout := s.regForm i l f.tag f.reg }) u

/-- R142: EXIT ends the acting threads, when none is the recruiter of an open recruitment; the rest goes on; the recruiter's
EXIT traps with sub-cause 0x28. Ended threads are EXITED. -/
def Exits : Prop :=
  (∀ (s : State) (i : Issue) (w : Warp) (t : Team) (f : FmtP), s.ReadyC i w t →
    (∀ r, w.recruit = some r → r.lane ∉ s.actingP i f.neg f.pred) →
    let ls := s.actingP i f.neg f.pred
    let u := s.goto i (i.lanes.filter fun l => !ls.contains l) (12 * (i.p + 1))
    exec (.exit f) s = .next ((((u.endThreads i.warp ls .exited).trapCheck i.warp (u.trapPc i)).launchTrig t.launch).detExit
      i.warp)) ∧
  ∀ (s : State) (i : Issue) (w : Warp) (t : Team) (f : FmtP) (r : Recruit), s.ReadyC i w t → w.recruit = some r →
    r.lane ∈ s.actingP i f.neg f.pred → exec (.exit f) s = .next (s.illegal 0x28 [r.lane])

/-- R143: BAR and BARA. The acting threads arrive at the barrier; a COUNT that differs from that of the phase traps the
threads that have not arrived with sub-cause 0x26; no acting thread, no effect. -/
def Barriers : Prop :=
  ∀ (s : State) (i : Issue) (w : Warp) (t : Team) (f : FmtBar) (mk : FmtBar → Instr) (block : Bool), s.ReadyC i w t →
    ((mk, block) = (Instr.bar, true) ∨ (mk, block) = (Instr.bara, false)) →
    let ls := s.actingP i f.neg f.pred
    let b := f.bar.toNat
    let fresh := ls.filter fun l => !(s.bar w.team b).arrived.contains (w.k * w.w + l)
    (ls = [] → exec (mk f) s = .next s) ∧
    (fresh ≠ [] → (∃ c, (s.bar w.team b).expect = some c ∧ c ≠ f.count) → exec (mk f) s = .next (s.illegal 0x26 fresh)) ∧
    (ls ≠ [] → (fresh = [] ∨ (s.bar w.team b).expect = none ∨ (s.bar w.team b).expect = some f.count) →
      exec (mk f) s = .next ((((ls.foldl (fun s l => s.postThread i.warp l none) s).barArrive w.team i.warp ls b f.count block
        i.gpc).switchPoint i.warp).endTurn i.warp))

/-- R143: one arrival of a thread that has not arrived in the phase: the count rises by one, and the thread of a BAR waits. -/
def Arrivals : Prop :=
  ∀ (s : State) (tk wk l b gpc : Nat) (w : Warp) (t : Team) (th : Thread) (count : BitVec 12) (block : Bool),
    s.warp wk = some w → s.team tk = some t → w.threads[l]? = some th →
    (s.bar tk b).arrived.contains (w.k * w.w + l) = false →
    let u := s.barArriveOne tk wk l b count block gpc
    (u.bar tk b).count = (s.bar tk b).count + 1 ∧ (u.bar tk b).phase = (s.bar tk b).phase ∧
    u.thread wk l = some (if block then { th with st := .blocked (.bar b none) } else th) ∧ SameBytes s u

/-- R72, R84, R145, R146, R149: YIELD ends the warp's turn, PRIOPASS moves the lead on, NOP changes nothing. -/
def TurnWords : Prop :=
  (∀ s : State, exec .nop s = .next s) ∧
  (∀ (s : State) (i : Issue) (w : Warp) (t : Team), s.ReadyC i w t → t.vals.det = false →
    exec .yield s = .next (((s.modWarp i.warp fun w => { w with yielded := true }).switchPoint i.warp).endTurn i.warp)) ∧
  (∀ (s : State) (i : Issue) (w : Warp) (t : Team), s.ReadyC i w t → t.vals.det = true →
    exec .yield s = .next ((s.switchPoint i.warp).endTurn i.warp)) ∧
  (∀ (s : State) (i : Issue) (w : Warp) (t : Team), s.ReadyC i w t → (w.lead = false ∨ t.vals.det = true) →
    exec .priopass s = .next s) ∧
  ∀ (s : State) (i : Issue) (w v : Warp) (t : Team) (k : Nat), s.ReadyC i w t → w.lead = true → t.vals.det = false →
    s.teamWarps t = [i.warp, k] → k ≠ i.warp → s.warp k = some v → v.sched = w.sched →
    exec .priopass s = .next ((s.modWarp i.warp fun x => { x with lead := false }).modWarp k fun x => { x with lead := true })

/-- R149: TRAP takes software-trap in the acting threads, which resume at the next packet; BRKPT takes breakpoint at its own
word; with no acting thread neither has an effect. -/
def SoftwareTraps : Prop :=
  (∀ (s : State) (i : Issue) (w : Warp) (t : Team) (f : FmtTrap), s.ReadyC i w t → s.actingP i f.neg f.pred ≠ [] →
    ∃ r : TrapRec, r.cause = 0x0B ∧ r.pc = 12 * (i.p + 1) ∧ r.mask = s.actingP i f.neg f.pred ∧ r.addr = 0 ∧
      r.info = f.code.setWidth 32 ∧ r.uerec = none ∧
      exec (.trap f) s = .next ((s.modIss fun i => { i with trap := some r }).takeTrap i.warp i.lanes r)) ∧
  (∀ (s : State) (i : Issue) (w : Warp) (t : Team) (f : FmtP), s.ReadyC i w t → s.actingP i f.neg f.pred ≠ [] →
    exec (.brkpt f) s = .next (s.raise 0x0C (s.actingP i f.neg f.pred) 0 0)) ∧
  (∀ (s : State) (i : Issue) (w : Warp) (t : Team) (f : FmtTrap), s.ReadyC i w t → s.actingP i f.neg f.pred = [] →
    exec (.trap f) s = .next s) ∧
  ∀ (s : State) (i : Issue) (w : Warp) (t : Team) (f : FmtP), s.ReadyC i w t → s.actingP i f.neg f.pred = [] →
    exec (.brkpt f) s = .next s

/-- R32, R147, R148: IDEMB opens the restart record of its threads at its packet, a clause start, IDEME closes it, and
neither changes anything else of them; TRIG marks the trigger point of each acting thread. -/
def RestartWords : Prop :=
  (∀ (s : State) (i : Issue) (w : Warp) (t : Team) (f : FmtP), i.lanes.Nodup → s.ReadyC i w t →
    s.targetCheck i w t i.p = (.ok, s) →
    ∃ u v, exec (.idemb f) s = .next v ∧ ThreadsBecome s i.warp (s.actingP i f.neg f.pred) (fun _ x =>
      { x with inside := true, rpc := i.p, rdepth := x.depth, rdraws := x.draws, idemAt := x.retired + 1 }) u ∧
      (v = u ∨ v = u.recordHoldings w.team)) ∧
  (∀ (s : State) (i : Issue) (w : Warp) (t : Team) (f : FmtP), i.lanes.Nodup → s.ReadyC i w t →
    ∃ u, exec (.ideme f) s = .next u ∧
      ThreadsBecome s i.warp (s.actingP i f.neg f.pred) (fun _ x => { x with inside := false }) u) ∧
  ∀ (s : State) (i : Issue) (w : Warp) (t : Team) (f : FmtP), s.ReadyC i w t →
    exec (.trig f) s = .next (((s.actingP i f.neg f.pred).foldl (fun s l => s.triggerThread i.warp l) s).launchTrig t.launch)

/-- R69, R71, R72: a CLAUSE header holds its bundle until the flags of its wait mask read zero, names the clause's flags, and
under YIELD ends the warp's turn but for a deterministic team; a wait is an acquire of the warp's registers; a helper waits
on its own flags. The first word after it tests the mask again: its group stands until the flags read zero. -/
def ClauseHeaders : Prop :=
  (∀ (s : State) (i : Issue) (wait : BitVec 12) (a b : BitVec 4) (yld : BitVec 1), i.lanes.Nodup → s.iss = some i →
    let s' := if wait = 0 then s else s.regsAcquired i.warp
    let det := ∃ t, s.teamOf i.warp = some t ∧ t.vals.det = true
    (i.kind = .thread → s.flagsClear i.warp none wait = true → ∃ u,
      ThreadsBecome s' i.warp i.lanes (fun _ th => { th with seta := a, setb := b, wait := wait }) u ∧
      (yld = 0 ∨ det → exec (.clause wait a b yld) s = .next u) ∧
      (yld = 1 → ¬det → exec (.clause wait a b yld) s =
        .next ((u.modWarp i.warp fun w => { w with yielded := true }).endTurn i.warp))) ∧
    (i.kind = .helper → (∀ l ∈ i.lanes, s.flagsClear i.warp (some l) wait = true) → ∃ u,
      exec (.clause wait a b yld) s = .next u ∧
      HelpersBecome s i.warp i.lanes (fun _ h => { h with seta := a, setb := b, wait := wait }) u) ∧
    (i.kind = .thread → s.flagsClear i.warp none wait = false → exec (.clause wait a b yld) s = .next s.stall) ∧
    (i.kind = .helper → (∃ l ∈ i.lanes, s.flagsClear i.warp (some l) wait = false) →
      exec (.clause wait a b yld) s = .next s.stall)) ∧
  ∀ (s : State) (ex : Instr → State → State) (wk : Nat) (w : Warp) (t : Team) (lanes : List Nat) (pc : Nat) (count : Bool),
    s.warp wk = some w → s.teamOf wk = some t →
    ((∃ l ∈ lanes, ∃ th, s.thread wk l = some th ∧ s.flagsClear wk none th.wait = false) →
      s.issueWith ex wk .thread lanes pc count = (false, s)) ∧
    ((∃ l ∈ lanes, ∃ h, w.helper l = some h ∧ s.flagsClear wk (some l) h.wait = false) →
      s.issueWith ex wk .helper lanes pc count = (false, s))

end Sys2Proof.Claims

/-- Branches send the acting threads to their targets and the others on; a bad target traps the whole group. (R62, R68,
R80, R138, R139) -/
def Obligations.BranchWordTargets : Prop := Sys2Proof.Claims.Branches ∧ Sys2Proof.Claims.BranchTraps

/-- MEET and MEETX set the meeting entries; a thread that reaches its meeting point parks there. (R11, R21, R22, R141) -/
def Obligations.MeetingWordsAndParking : Prop :=
  Sys2Proof.Claims.Parking ∧ Sys2Proof.Claims.Waking ∧ Sys2Proof.Claims.Meetings

/-- CALL and CALLI push a return record and branch; RET loads it and lowers the depth; the depth limits trap. (R9, R71,
R140)
Where the spec leaves a point open it rests on the model's choice or reading of log entry 18. -/
def Obligations.CallsAndReturns : Prop := Sys2Proof.Claims.Calls ∧ Sys2Proof.Claims.Returns

/-- EXIT ends its threads unless one recruits; IDEMB, IDEME and TRIG mark them. (R32, R142, R147, R148) -/
def Obligations.ExitAndRestartWords : Prop := Sys2Proof.Claims.Exits ∧ Sys2Proof.Claims.RestartWords

/-- BAR and BARA arrive at their barrier, once per phase; a differing COUNT traps. (R143)
Where the spec leaves a point open it rests on the model's choice or reading of log entry 53. -/
def Obligations.BarrierArrivals : Prop := Sys2Proof.Claims.Barriers ∧ Sys2Proof.Claims.Arrivals

/-- NOP, YIELD and PRIOPASS act on the turn; a CLAUSE header waits for its flags and names the clause's. (R69, R71, R72,
R84, R145, R146, R149)
Where the spec leaves a point open it rests on the model's choice or reading of log entry 77. -/
def Obligations.TurnAndClauseWords : Prop := Sys2Proof.Claims.TurnWords ∧ Sys2Proof.Claims.ClauseHeaders

namespace Sys2Proof.Claims

/-! ### Loads, stores and atomics (R150 to R158) -/

/-- The address of the pair form: the pair at A plus the displacement in units of the access size, modulo 2^64 (R150). -/
def pairAddr (s : State) (i : Issue) (f : FmtMv) (l : Nat) : Nat :=
  ((((s.rdV i l (f.a.toNat + 1)).toNat * 2 ^ 32 + (s.rdV i l f.a.toNat).toNat : Nat) : Int) +
    f.imm.toInt * sizeBytes f.size) % 2 ^ 64 |>.toNat

/-- The address of the scalar form: the scalar pair, the vector unless NOV, and HI7 in units of the size (R150). -/
def scalarAddr (s : State) (i : Issue) (f : FmtMs) (l : Nat) : Nat :=
  ((((s.rdS i (2 * f.pair.toNat + 1)).toNat * 2 ^ 32 + (s.rdS i (2 * f.pair.toNat)).toNat +
    (if f.nov = 1 then 0 else (s.rdV i l f.v.toNat).toNat) : Nat) : Int) +
    (match i.pfx with | some p => p.hi7.toInt | none => 0) * sizeBytes f.size) % 2 ^ 64 |>.toNat

/-- What a load that may go on does: an operation starts that holds its destinations and counts on its flag, the bytes at
the lanes' addresses are read or asked for, and its return may follow. -/
def LoadWord (word : Instr) (srcs : List Nat) (d : Nat) (size : BitVec 3) (addr : State → Issue → Nat → Nat) : Prop :=
  ∀ (s s1 : State) (i : Issue) (w : Warp) (t : Team) (accs : List LaneAcc),
    let n := sizeBytes size
    let dsts := regRange d (sizeWords n)
    let acc := (s.acting i).map fun l => (l, addr s i l)
    s.Ready i srcs dsts → s.warp i.warp = some w → w.kind = .normal → s.teamOf i.warp = some t → acc ≠ [] →
    s.MemoryFree i (s.flagOf i none) → s.Reaches i w t n .load acc accs s1 →
    let op (ls : List Nat) : Op := { blankOp i.warp .load with
      lanes := ls, flag := s.flagOf i none, vdests := ls.flatMap fun l => dsts.map fun r => (l, r) }
    s.gated w t true n acc = false →
    (i.kind = .thread → ∀ ps s2, ((s1.startOp (op (s.acting i))).2.detLoad w t).readLanes i w d size s1.nextId t.ctx accs = (ps, s2) →
      exec word s = .next ((s2.modOp s1.nextId fun o => { o with parts := s2.detParts t accs ps }).pend (.loadDataReturn s1.nextId))) ∧
    (i.kind = .helper → helperPlaces acc = true → ∀ l x ps s2, s.acting i = [l] → accs = [x] →
      ((s1.startOp { op [l] with helper := some l }).2.detLoad w t).readLanes i w d size s1.nextId t.ctx [x] = (ps, s2) →
      exec word s = .next ((s2.modOp s1.nextId fun o => { o with parts := s2.detParts t accs ps }).pend (.loadDataReturn s1.nextId)))

/-- R45, R150: LD. -/
def Loads : Prop :=
  (∀ f : FmtMv, LoadWord (.ldVbase f) [f.a.toNat, f.a.toNat + 1] f.d.toNat f.size fun s i l => pairAddr s i f l) ∧
  ∀ f : FmtMs, LoadWord (.ldSbase f) (if f.nov = 1 then [] else [f.v.toNat]) f.d.toNat f.size fun s i l =>
    scalarAddr s i f l

/-- The bytes a store writes: the low bytes of its registers, little-endian (R150). -/
def storeBytes (s : State) (i : Issue) (d n l : Nat) : List Byte :=
  (wordsBytes ((regRange d (sizeWords n)).map fun r => s.rdV i l r)).take n

/-- What a store that may go on does: in threads each lane's bytes enter its thread buffer for its address, in lane order;
in helpers they enter the chunk buffer. -/
def StoreWord (word : Instr) (srcs : List Nat) (d : Nat) (size : BitVec 3) (addr : State → Issue → Nat → Nat) : Prop :=
  ∀ (s s1 : State) (i : Issue) (w : Warp) (t : Team) (accs : List LaneAcc),
    let n := sizeBytes size
    let acc := (s.acting i).map fun l => (l, addr s i l)
    s.Ready i (srcs ++ regRange d (sizeWords n)) [] → s.warp i.warp = some w → w.kind = .normal →
    s.teamOf i.warp = some t → acc ≠ [] →
    s.MemoryFree i (s.flagOf i none) → s.Reaches i w t n .store acc accs s1 →
    let op (ls : List Nat) : Op := { blankOp i.warp .store with lanes := ls, flag := s.flagOf i none }
    (i.kind = .thread → s.gated w t false n acc = false → ∀ s2, s1.relFences i w.core (s.acting i) = (s2, true) →
      exec word s = .next (((accs.foldl (fun (s' : State) (x : LaneAcc) =>
        s'.bufferWrite i.warp x.lane w.core s2.nextId x.va x.loc (storeBytes s i d n x.lane))
          (s2.startOp (op (s.acting i))).2).detStore i.warp t).pend (.storePerformed s2.nextId))) ∧
    (i.kind = .helper → helperPlaces acc = true →
      (t.vals.det = true → ∀ e ∈ acc, ∀ va, steer e.2 = .global va → inRanges t w va n true false = true) →
      ∀ l x h, s.acting i = [l] → accs = [x] → x.lane = l → w.helper l = some h →
      (h.store x.va x.loc (storeBytes s i d n l)).buf.length ≤ 32 →
      exec word s = .next ((((s1.modHelper i.warp l fun _ => h.store x.va x.loc (storeBytes s i d n l)).startOp
        { op [l] with helper := some l }).2).pend (.storePerformed s1.nextId)))

/-- R45, R150, R299: ST. -/
def Stores : Prop :=
  (∀ f : FmtMv, StoreWord (.stVbase f) [f.a.toNat, f.a.toNat + 1] f.d.toNat f.size fun s i l => pairAddr s i f l) ∧
  ∀ f : FmtMs, StoreWord (.stSbase f) (if f.nov = 1 then [] else [f.v.toNat]) f.d.toNat f.size fun s i l =>
    scalarAddr s i f l

/-- R154, R208: a thread's load of bytes its own buffer holds reads them, whatever any other point holds, and the newest of
its writes to a byte is the one read; the storage is as it was for scratchpads. -/
def OwnStoresRead : Prop :=
  (∀ (s : State) (wk l core op va c o : Nat) (data : List Byte) (k : Nat), data.length ≤ 8 → k < data.length →
    let ag : Agent := { warp := wk, lane := l, helper := none, core := core }
    (s.bufferWrite wk l core op va (.spad c o) data).ownByte ag (.spad c (o + k)) = data[k]?) ∧
  (∀ (s : State) (wk l core op va pa : Nat) (mt : MemType) (data : List Byte) (k : Nat), data.length ≤ 8 → k < data.length →
    let ag : Agent := { warp := wk, lane := l, helper := none, core := core }
    (s.bufferWrite wk l core op va (.mem mt pa) data).ownByte ag (.mem mt (pa + k)) = data[k]?) ∧
  ∀ (s : State) (ag : Agent) (c o n : Nat) (p : Option Bool),
    s.readPart ag (.spad c o) n p =
      ((List.range n).map fun k => some ((s.ownByte ag (.spad c (o + k))).getD (s.spadByte c (o + k))), false, s)

/-- Words land in a lane's consecutive registers, from `d`. -/
def landed (wk l d : Nat) (ws : List Word) (s : State) : State :=
  ((List.range ws.length).zip ws).foldl (fun s e => s.setV wk l (d + e.1) e.2) s

/-- R150: LOAD_DATA_RETURN of a thread's load, all read and no error in it: the destinations of every live lane take the
bytes, little-endian, sign-extended for .s8 and .s16 and zero-extended for .n8 and .n16; the flag falls. -/
def LoadsReturn : Prop :=
  (∀ (s : State) (op : Nat) (o : Op) (w : Warp), s.op op = some o → o.kind = .load → o.helper = none → o.performed = true →
    (∀ p ∈ o.parts, p.bad = false) → s.warp o.warp = some w → w.kind = .normal →
    (∀ p ∈ o.parts, ∃ th, w.threads[p.lane]? = some th ∧ th.live = true) →
    exec (.loadDataReturn op) s = .next (o.parts.foldl (fun s p =>
      landed o.warp p.lane p.d (loadWords (BitVec.ofNat 3 p.size) (p.bytes.map fun b => b.getD 0)) s) (s.endOp op))) ∧
  (∀ b : Byte, (loadWords 0 [b]).map (·.toInt) = [b.toInt] ∧ (loadWords 1 [b]).map (·.toNat) = [b.toNat]) ∧
  (∀ a b : Byte, (loadWords 2 [a, b]).map (·.toInt) = [(b ++ a).toInt] ∧ (loadWords 3 [a, b]) = [(b ++ a).setWidth 32]) ∧
  ∀ a b c d : Byte, loadWords 4 [a, b, c, d] = [d ++ c ++ b ++ a]

/-- R70, R71: an operation that starts raises its flag's count by one and one that completes lowers it, and no other count
of the warp changes. -/
def FlagsCount : Prop :=
  (∀ (s : State) (o : Op) (w : Warp) (f g : Nat), o.flag = some f → o.helper = none → s.warp o.warp = some w →
    f < w.flags.length →
    (s.startOp o).2.flagCount o.warp none g = s.flagCount o.warp none g + (if g = f then 1 else 0)) ∧
  ∀ (s : State) (id : Nat) (o : Op) (f g : Nat), s.op id = some o → o.flag = some f → o.helper = none →
    (s.endOp id).flagCount o.warp none g = s.flagCount o.warp none g - (if g = f then 1 else 0) ∧
    (s.endOp id).ops = s.ops.filter (fun x => x.id != id)

/-- R150: STORE_PERFORMED when none of the store's bytes is left in a thread buffer and no device's answer is awaited: the
store completes. Until then it stays among the steps to come. -/
def StoresPerform : Prop :=
  ∀ (s : State) (op : Nat) (o : Op), s.op op = some o →
    let waits := (s.m.tbuf.any fun w => w.op == op) || (s.sk.reqs.any fun r => match r.who with
      | .store x _ _ => x == op
      | _ => false)
    (waits = false → exec (.storePerformed op) s = .next ((s.fenceEnd op).endOp op)) ∧
    (waits = true → exec (.storePerformed op) s = .next (s.pend (.storePerformed op)))

/-- R155: what each op makes of the old value, on 32 bits and, under .64, on 64; INC and DEC wrap at their operand. -/
def AtomicResults : Prop :=
  ∀ (w64 : Bool) (old d e : Nat), let n := if w64 then 64 else 32
    old < 2 ^ n → d < 2 ^ n → e < 2 ^ n →
    atomNew 0 w64 old d e = (old + d) % 2 ^ n ∧
    (atomNew 1 w64 old d e = old ∨ atomNew 1 w64 old d e = d) ∧
    (BitVec.ofNat n (atomNew 1 w64 old d e)).toInt = min (BitVec.ofNat n old).toInt (BitVec.ofNat n d).toInt ∧
    (atomNew 2 w64 old d e = old ∨ atomNew 2 w64 old d e = d) ∧
    (BitVec.ofNat n (atomNew 2 w64 old d e)).toInt = max (BitVec.ofNat n old).toInt (BitVec.ofNat n d).toInt ∧
    atomNew 3 w64 old d e = min old d ∧ atomNew 4 w64 old d e = max old d ∧
    (∀ k, (atomNew 5 w64 old d e).testBit k = (old.testBit k && d.testBit k)) ∧
    (∀ k, (atomNew 6 w64 old d e).testBit k = (old.testBit k || d.testBit k)) ∧
    (∀ k, (atomNew 7 w64 old d e).testBit k = (old.testBit k != d.testBit k)) ∧
    atomNew 8 w64 old d e = d ∧ atomNew 9 w64 old d e = (if old = e then d else old) ∧
    (w64 = false → atomNew 10 w64 old d e =
      roundTo (sumExact .rne [decodeF .f32 old, decodeF .f32 d]) .f32 .rne false) ∧
    (w64 = false → ∀ k < 2, atomNew 11 w64 old d e / 2 ^ (16 * k) % 2 ^ 16 =
      roundTo (sumExact .rne [decodeF .bf16 (old / 2 ^ (16 * k) % 2 ^ 16), decodeF .bf16 (d / 2 ^ (16 * k) % 2 ^ 16)])
        .bf16 .rne false) ∧
    (w64 = false → atomNew 10 w64 old d e < 2 ^ 32 ∧ atomNew 11 w64 old d e < 2 ^ 32) ∧
    atomNew 12 w64 old d e = (if old ≥ d then 0 else old + 1) ∧
    atomNew 13 w64 old d e = (if old = 0 ∨ old > d then d else old - 1) ∧
    atomNew 14 w64 old d e = d ∧ atomNew 15 w64 old d e = old

/-- The group's ATOM word: 64-bit under .64. -/
def atomBytes (i : Issue) : Nat := if (i.pfx.map (·.w64)).getD 0 = 1 then 8 else 4

/-- Operand words of an atomic: D, then E after it. -/
def atomWord (s : State) (i : Issue) (d l : Nat) : Nat :=
  leNat (wordsBytes ((regRange d (atomBytes i / 4)).map fun r => s.rdV i l r))

/-- The fences and the release an atomic needs before it: `rel` its release. -/
def Released (s : State) (i : Issue) (core scope : Nat) (rel : Bool) (ls : List Nat) (t : State) : Prop :=
  ∃ u, s.relFences i core ls = (u, true) ∧ (if rel then ls.foldl (fun p l =>
    let (v, ok) := p.1.release i.warp l core scope
    (v, p.2 && ok)) (u, true) else (u, true)) = (t, true)

/-- What an atomic that may go on does: its release is brought about, each lane's op is performed at its point or sent
there, in lane order, and its return may follow; a release, or a write after a release fence, is noted at its scope (R206);
an acquire holds the threads' later accesses. -/
def AtomWord (word : Instr) (code : Nat) (d a : BitVec 7) (scope : BitVec 4) (order : BitVec 2) (fsel : BitVec 1) : Prop :=
  ∀ (s s1 s2 : State) (i : Issue) (w : Warp) (t : Team) (accs : List LaneAcc) (ps : List LanePart) (s3 : State),
    let n := atomBytes i
    let w64 := n == 8
    let dsts := if code = 14 then [] else regRange d.toNat (n / 4)
    let srcs := [a.toNat, a.toNat + 1] ++
      (if code = 15 then [] else regRange d.toNat (if code = 9 then 2 * (n / 4) else n / 4))
    let ls := s.acting i
    let acc := ls.map fun l => (l, (s.rdV i l (a.toNat + 1)).toNat * 2 ^ 32 + (s.rdV i l a.toNat).toNat)
    let acq := order.getLsbD 0
    let rel := order.getLsbD 1
    let flag := s.flagOf i (some fsel)
    s.ReadyT i w srcs dsts → w.kind = .normal → s.teamOf i.warp = some t → acc ≠ [] → (n = 8 → d.toNat % 2 = 0) →
    (n = 8 ∧ code = 9 → d.toNat % 4 = 0) →
    s.MemoryFree i flag → (t.vals.det = true → s.holdsToken w t = true) →
    (rel = true → ∀ l ∈ ls, s.unperformed i.warp l = false) →
    s.Reaches i w t n .atomic acc accs s1 (code != 15) →
    (∀ x ∈ accs, ∀ c ha, x.loc = .host c ha → code = 0 ∨ code = 8 ∨ code = 9) →
    Released s1 i w.core scope.toNat rel ls s2 →
    let o : Op := { blankOp i.warp .atomic with
      lanes := ls, flag := flag, vdests := ls.flatMap fun l => dsts.map fun r => (l, r) }
    (accs.foldl (fun (p : List LanePart × State) x =>
      let relSc := if code = 15 then 0 else if rel then scope.toNat else
        ((p.2.thread i.warp x.lane).bind fun th => th.relHold).getD 0
      let (q, s') := p.2.atomLane i w s2.nextId t.ctx code scope.toNat w64 acq ((i.pfx.map (·.rp)).getD 0 == 1) order relSc
        (atomWord s i d.toNat x.lane) (atomWord s i (d.toNat + n / 4) x.lane) x d.toNat
      (q :: p.1, s')) ([], (s2.startOp o).2)) = (ps, s3) →
    let s4 := s3.modOp s2.nextId fun o => { o with parts := if code = 15 then s3.detParts t accs ps.reverse else ps.reverse }
    exec word s = .next ((if acq then s4.modThreads i.warp ls fun th =>
        { th with acqOps := th.acqOps ++ [(s2.nextId, decide (5 ≤ scope.toNat))] }
      else s4).pend (.atomicReturn s2.nextId))

/-- R155 to R158: ATOM. -/
def Atomics : Prop :=
  (∀ f : FmtAtom,
    AtomWord (.atomAdd f) 0 f.d f.a f.scope f.order f.fsel ∧ AtomWord (.atomMins f) 1 f.d f.a f.scope f.order f.fsel ∧
    AtomWord (.atomMaxs f) 2 f.d f.a f.scope f.order f.fsel ∧ AtomWord (.atomMinn f) 3 f.d f.a f.scope f.order f.fsel ∧
    AtomWord (.atomMaxn f) 4 f.d f.a f.scope f.order f.fsel ∧ AtomWord (.atomAnd f) 5 f.d f.a f.scope f.order f.fsel ∧
    AtomWord (.atomOr f) 6 f.d f.a f.scope f.order f.fsel ∧ AtomWord (.atomXor f) 7 f.d f.a f.scope f.order f.fsel ∧
    AtomWord (.atomXchg f) 8 f.d f.a f.scope f.order f.fsel ∧ AtomWord (.atomCas f) 9 f.d f.a f.scope f.order f.fsel ∧
    AtomWord (.atomFadd f) 10 f.d f.a f.scope f.order f.fsel ∧
    AtomWord (.atomBadd2 f) 11 f.d f.a f.scope f.order f.fsel ∧
    AtomWord (.atomInc f) 12 f.d f.a f.scope f.order f.fsel ∧ AtomWord (.atomDec f) 13 f.d f.a f.scope f.order f.fsel) ∧
  ∀ f : FmtAtomS,
    AtomWord (.atomStrel f) 14 f.d f.a f.scope 2 f.fsel ∧ AtomWord (.atomLdacq f) 15 f.d f.a f.scope 1 f.fsel

/-- R157, R207: an atomic on a scratchpad location reads it and writes its result there in one step, after the thread's
buffered writes of it have been posted; every other byte of the scratchpads is as it was then. -/
def ScratchpadAtomics : Prop :=
  ∀ (s : State) (ag : Agent) (c o scope code : Nat) (w64 : Bool) (d e : Nat),
    let n := if w64 then 8 else 4
    let u := s.postWhere fun b => b.warp == ag.warp && b.lane == ag.lane && b.helper == ag.helper &&
      b.loc.meets b.data.length (.spad c o) n
    let r := s.rmwNow ag (.spad c o) scope code w64 d e
    o + n ≤ 2 ^ 21 → r.1.old = u.spadBytes c o n ∧ r.1.bad = false ∧
    (∀ k < n, some (r.2.spadByte c (o + k)) = (leBytes n (atomNew code w64 (leNat (u.spadBytes c o n)) d e))[k]?) ∧
    ∀ k q, q < 2 ^ 21 → (k ≠ c ∨ q < o ∨ o + n ≤ q) → r.2.spadByte k q = u.spadByte k q

/-- R155: ATOMIC_RETURN when every lane's op has been performed without error: a live lane's destinations take the old
value, the flag falls. -/
def AtomicsReturn : Prop :=
  ∀ (s : State) (op : Nat) (o : Op) (w : Warp), s.op op = some o → o.helper = none → o.performed = true →
    (∀ p ∈ o.parts, p.bad = false) → s.warp o.warp = some w → w.kind = .normal →
    (∀ p ∈ o.parts, ∃ th, w.threads[p.lane]? = some th ∧ th.live = true) →
    (o.vdests ≠ [] → exec (.atomicReturn op) s = .next (o.parts.foldl (fun s p =>
      landed o.warp p.lane p.d (leWords (p.bytes.map fun b => b.getD 0)) s) (s.endOp op))) ∧
    (o.vdests = [] → o.sdests = [] → exec (.atomicReturn op) s = .next (s.endOp op))

end Sys2Proof.Claims

/-- LD starts a load of the lanes' addresses; ST puts the lanes' bytes into thread buffers, of helpers into chunk buffers.
(R45, R70, R150, R152, R299)
Where the spec leaves a point open it rests on the model's choice or reading of log entry 49. -/
def Obligations.LoadAndStoreWords : Prop := Sys2Proof.Claims.Loads ∧ Sys2Proof.Claims.Stores

/-- A thread reads its own newest buffered bytes, and the scratchpad elsewhere. (R154, R208)
Where the spec leaves a point open it rests on the model's choice or reading of log entry 55. -/
def Obligations.OwnStoresAreRead : Prop := Sys2Proof.Claims.OwnStoresRead

/-- Returns of loads and atomics land their words, little-endian and extended by size, and the flag falls; a store
completes. (R4, R150, R155) -/
def Obligations.AccessesComplete : Prop :=
  Sys2Proof.Claims.LoadsReturn ∧
  Sys2Proof.Claims.StoresPerform ∧
  Sys2Proof.Claims.AtomicsReturn

/-- An operation raises its flag's count by one when it starts and lowers it when it completes. (R70, R71) -/
def Obligations.FlagsCountOperations : Prop := Sys2Proof.Claims.FlagsCount

/-- Each op of ATOM makes its new value of the old; on a scratchpad it reads and writes in one step. (R155, R157, R207) -/
def Obligations.AtomicOperationResults : Prop := Sys2Proof.Claims.AtomicResults ∧ Sys2Proof.Claims.ScratchpadAtomics

/-- ATOM words release as their order says, perform or send each lane's op, and hold what an acquire holds. (R70, R155,
R156, R157, R158)
Where the spec leaves a point open it rests on the model's choice or reading of log entry 15. -/
def Obligations.AtomicWords : Prop := Sys2Proof.Claims.Atomics

namespace Sys2Proof.Claims

/-! ### Fences, waits and caches (R159, R160, R209 to R212) -/

/-- R159, R212: FENCE, for each acting thread. An acquire holds the thread's later accesses until its earlier loads, atomics
and stores are performed and, at scope 5 or wider, drops the clean copies of its core; a release holds its later writes until its
condition is met and its loads and atomics have been performed, at the join of the scopes of two in a row; acq_rel brings
the release about first, and waits where only another device can. -/
def Fences : Prop :=
  ∀ (s : State) (i : Issue) (w : Warp) (order : BitVec 2) (scope : BitVec 4), s.iss = some i → i.kind = .thread →
    s.warp i.warp = some w →
    let open_ (s : State) (l : Nat) : List Nat :=
      (s.ops.filter fun o => o.warp == i.warp && o.lanes.contains l && o.helper.isNone && !o.performed).map (·.id)
    let stores (s : State) (l : Nat) : List Nat := (s.ops.filter fun o =>
      o.warp == i.warp && o.lanes.contains l && o.helper.isNone && (!o.performed || o.kind == .store)).map (·.id)
    let acquire (s : State) (l : Nat) : State :=
      let u := s.modThread i.warp l fun th =>
        { th with acqOps := th.acqOps ++ (stores s l).map fun o => (o, decide (5 ≤ scope.toNat)) }
      (if 5 ≤ scope.toNat then u.dropClean w.core else u).regsAcquired i.warp
    let released (ops : List Nat) (th : Thread) : Thread := { th with
      relOps := th.relOps ++ ops
      relHold := some (match th.relHold with
        | none => scope.toNat
        | some x => if (x = 8 ∧ scope = 9) ∨ (x = 9 ∧ scope = 8) then 10 else max x scope.toNat) }
    let before (u : State) (done : Bool) : Prop := (s.acting i).foldl (fun (p : State × Bool) l =>
      ((p.1.release i.warp l w.core scope.toNat).1, p.2 && (p.1.release i.warp l w.core scope.toNat).2)) (s, true) = (u, done)
    (order ≠ 2 → order ≠ 3 → exec (.fence order scope) s = .next ((s.acting i).foldl acquire s)) ∧
    (order = 2 → i.lanes.Nodup → ∃ u, exec (.fence order scope) s = .next u ∧
      ThreadsBecome s i.warp (s.acting i) (fun l th => released (open_ s l) th) u) ∧
    (order = 3 → ∀ u, before u true → exec (.fence order scope) s =
      .next ((s.acting i).foldl (fun v l => acquire (v.modThread i.warp l (released (open_ v l))) l) u)) ∧
    (order = 3 → ∀ u, before u false → exec (.fence order scope) s = .next u.stall)

/-- R209: what a release brings about at its thread and core: at scopes 1 and wider the thread buffer holds no write; at 5
and wider the core holds no dirty copy. -/
def ReleasesDrain : Prop :=
  ∀ (s : State) (wk l core sc : Nat), let u := (s.release wk l core sc).1
    (sc = 0 → u = s) ∧
    (1 ≤ sc → ∀ x ∈ u.m.tbuf, ¬(x.warp = wk ∧ x.lane = l ∧ x.helper = none)) ∧
    (5 ≤ sc → tsorted s.m.cDirty = true → ∀ e ∈ u.m.cDirty, e.1 / 2 ^ 50 ≠ core) ∧
    (sc < 9 → (s.release wk l core sc).2 = true)

/-- R210: an acquire at scope 5 or wider leaves no clean copy at its core, and those of the other cores as they were. R197,
R224: an acquire lets a warp's threads see the writes of their registers through the on-chip map whose commands have
completed; what hides the registers of others stays. -/
def AcquiresDrop : Prop :=
  (∀ (s : State) (core scope : Nat), 5 ≤ scope → ∀ k pa, pa < 2 ^ 50 → tget (s.acquireDrop core scope).m.cClean (ckey k pa) =
      if k = core then none else tget s.m.cClean (ckey k pa)) ∧
  ∀ (s : State) (wk : Nat) (w : Warp), s.warp wk = some w → tsorted s.reg.shadow = true → let u := s.regsAcquired wk
    u = { s with reg := { s.reg with shadow := u.reg.shadow } } ∧
    (∀ k, w.ownsKey (k / 4) = false → (∀ l, tget s.reg.shadow k = some l → l ≠ []) →
      tget u.reg.shadow k = tget s.reg.shadow k) ∧
    ∀ k l, w.ownsKey (k / 4) = true → tget s.reg.shadow k = some l →
      (∀ x r, l = r ++ [x] → (∀ c ∈ s.copies, c.id ≠ x.2) → tget u.reg.shadow k = none) ∧
      ∀ r x q, l = r ++ x :: q → (∀ c ∈ s.copies, c.id ≠ x.2) → (∀ y ∈ q, ∃ c ∈ s.copies, c.id = y.2) → q ≠ [] →
        tget u.reg.shadow k = some q

/-- R159: OPFENCE holds the bundle until the warp's register writes have landed, and then its scratchpad stores reach the
scratchpad and are operands of every warp's matrix words (R188); WAITF holds it until the flags of its mask read zero, and
is an acquire of the warp's registers (R197). -/
def OperationWaits : Prop :=
  (∀ (s : State) (i : Issue) (w : Warp) (t : Team), s.ReadyOnce i w t →
    ((∀ o ∈ s.ops, o.warp = i.warp → o.vdests = []) → exec .opfence s = .next ((s.spadPost i.warp).unfence i.warp)) ∧
    ((∃ o ∈ s.ops, o.warp = i.warp ∧ o.vdests ≠ []) → exec .opfence s = .next s.stall)) ∧
  ∀ (s : State) (i : Issue) (w : Warp) (mask : BitVec 12), s.iss = some i → i.kind = .thread → s.bundleActs i = true →
    s.rdWarp i = some w →
    ((∀ f < 12, mask.getLsbD f = true → w.flags.getD f 0 = 0) → exec (.waitf mask) s = .next (s.regsAcquired i.warp)) ∧
    ((∃ f < 12, mask.getLsbD f = true ∧ w.flags.getD f 0 ≠ 0) → exec (.waitf mask) s = .next s.stall)

/-- R159, R160: the operations on caches and the translation look-aside of tile descriptors start for the bundle's lowest
lane: TLRFLUSH, IPREF, CINV and CWB over the 128-byte lines of their range. -/
def CacheOperations : Prop :=
  ∀ (s : State) (i : Issue) (w : Warp) (t : Team), s.ReadyOnce i w t →
    (∀ (x : BitVec 7) (fsel : BitVec 1), s.Ready i [x.toNat, x.toNat + 1] [] → s.flagRoom i.warp none (s.flagOf i (some fsel)) = true →
      exec (.tlrflush x fsel) s = .next (s.started (onceOpOf i (s.flagOf i (some fsel))
        (.tlrflush (s.rdV i i.lowest (x.toNat + 1) ++ s.rdV i i.lowest x.toNat).toNat)) fun id => .tlrflushDone id)) ∧
    (∀ f : FmtIc, s.flagRoom i.warp none (s.flagOf i (some f.fsel)) = true →
      exec (.ipref f) s = .next (s.started (onceOpOf i (s.flagOf i (some f.fsel))
        (.ipref 0 (s.rdS i f.x.toNat).toNat (s.rdS i f.y.toNat).toNat (f.level == 1) false)) fun id => .cacheOpDone id)) ∧
    ∀ f : FmtIc, s.Ready i [f.x.toNat, f.x.toNat + 1] [] → s.flagRoom i.warp none (s.flagOf i (some f.fsel)) = true →
      let a := (s.rdV i i.lowest (f.x.toNat + 1) ++ s.rdV i i.lowest f.x.toNat).toNat
      let n := (s.rdS i f.y.toNat).toNat
      let lines := if n = 0 then [] else (List.range ((a + n - 1) / 128 - a / 128 + 1)).map fun k => (a / 128 + k) * 128
      (n = 0 ∨ a + n ≤ 0x0200_0000_0000_0000) →
      exec (.cinv f) s = .next (s.started (onceOpOf i (s.flagOf i (some f.fsel)) (.cache true (f.level == 1) lines))
        fun id => .cacheOpDone id) ∧
      exec (.cwb f) s = .next (s.started (onceOpOf i (s.flagOf i (some f.fsel)) (.cache false (f.level == 1) lines))
        fun id => .cacheOpDone id)

/-- R159, R160: IPIN pins fetch blocks of the segment in the scheduler's instruction cache, at most 64 of them, and IUNPIN
lets them go; nothing else changes. -/
def Pins : Prop :=
  ∀ (s : State) (i : Issue) (w : Warp) (t : Team) (g : Sched) (x y : BitVec 7), s.ReadyOnce i w t →
    tget s.scheds (w.core * 6 + w.sched) = some g →
    let first := (s.rdS i x.toNat).toNat
    let named (b : Nat) : Prop := first ≤ b ∧ b < first + (s.rdS i y.toNat).toNat ∧ b < (t.vals.codelen + 31) / 32
    (∃ g' : Sched, exec (.ipin x y) s = .next { s with scheds := tmod s.scheds (w.core * 6 + w.sched) fun _ => g' } ∧
      g'.pins.length ≤ 64 ∧ { g' with pins := g.pins } = g ∧
      (∀ p ∈ g'.pins, p ∈ g.pins ∨ (p.1 = w.team ∧ named p.2)) ∧
      (g.pins.length + (s.rdS i y.toNat).toNat ≤ 64 → ∀ b, named b → (w.team, b) ∈ g'.pins)) ∧
    ∃ g' : Sched, exec (.iunpin x y) s = .next { s with scheds := tmod s.scheds (w.core * 6 + w.sched) fun _ => g' } ∧
      { g' with pins := g.pins } = g ∧ ∀ p, p ∈ g'.pins ↔ p ∈ g.pins ∧ ¬(p.1 = w.team ∧ named p.2)

/-- R159, R160: the completions. TLRFLUSH_DONE drops the core's entry for the descriptor, with what a fill of it in flight has
read of another device, for which it waits; CACHE_OP_DONE writes back, and
under CINV drops, every mapped line, at the core or at L2; the flag falls. An IPREF changes nothing but its flag. -/
def CacheCompletions : Prop :=
  ∀ (s : State) (id : Nat) (o : Op) (w : Warp), s.op id = some o → s.warp o.warp = some w →
    (∀ a, o.kind = .tlrflush a →
      let keys := tlrKeys w.core (s.ctxOf o.warp) a
      ((∀ r ∈ s.sk.reqs, ∀ k ∈ keys, r.who ≠ .desc k) → exec (.tlrflushDone id) s = .next (State.endOp { s with
        tlrs := s.tlrs.filter fun e => !(e.core == w.core && e.ctx == s.ctxOf o.warp && e.addr == a)
        descs := s.descs.filter fun x => !keys.contains x.1 } id)) ∧
      ((∃ r ∈ s.sk.reqs, ∃ k ∈ keys, r.who = .desc k) → exec (.tlrflushDone id) s = .next (s.pend (.tlrflushDone id)))) ∧
    (∀ g x y l p, o.kind = .ipref g x y l p → exec (.cacheOpDone id) s = .next (s.endOp id)) ∧
    ∀ inv l2 lines, o.kind = .cache inv l2 lines → exec (.cacheOpDone id) s =
      .next ((lines.foldl (fun u va => match u.cacheKey (s.ctxOf o.warp) va with
        | none => u
        | some pa => (blocksOf pa 128).foldl (fun u b =>
          match l2, inv with
          | false, false => u.pushBlock w.core b
          | false, true => (u.pushBlock w.core b).dropCore w.core b
          | true, false => u.settleBlockAll b
          | true, true => (u.settleBlockAll b).dropHome b) u) s).endOp id)

/-- R207: POST moves the oldest write of its location to the next point on its path, PUSH a core's dirty copy of a byte, with
what was written together with it, to the home point; it stays clean at the core unless it was merged under poison (R253).
SETTLE moves the oldest unsettled write of a byte, no older one sharing a byte with it, to the bank; DROP discards a clean copy, of a block of eight bytes, and, of a write's bytes, only what they had made sound
again in a line that is filled anew (R253). -/
def OrderingSteps : Prop :=
  (∀ (s : State) (x : Wr), (s.m.tbuf.find? fun y => y.id == x.id) = some x → s.oldestWr x = true →
    let u : State := { s with m := { s.m with tbuf := s.m.tbuf.filter fun y => y.id != x.id } }
    (∀ k o, x.loc = .spad k o → exec (.post x.id) s = .next (u.spadStore x.warp k o x.data)) ∧
    (∀ k o, x.loc = .onchip k o → exec (.post x.id) s = .next (u.onchipWrite k o x.data)) ∧
    (∀ pa, x.loc = .mem .normal pa ∨ x.loc = .mem .kvp pa → exec (.post x.id) s = .next (u.coreWrite x.core pa x.data)) ∧
    (∀ pa, x.loc = .mem .uc pa → exec (.post x.id) s = .next (u.ucWrite pa x.data)) ∧
    (∀ pa, x.loc = .mem .sw pa → exec (.post x.id) s =
      .next (u.enqueue pa x.data.length (some (s.ctxOf x.warp)) x.va (.write x.data))) ∧
    ∀ c ha, x.loc = .host c ha → exec (.post x.id) s = .next (u.hostStore c ha x.data)) ∧
  (∀ (s : State) (x : Wr), (s.m.tbuf.find? fun y => y.id == x.id) = some x → s.oldestWr x = false →
    exec (.post x.id) s = .next (s.pend (.post x.id))) ∧
  (∀ (s : State) (core a : Nat), s.dirtyGroup core a ≠ [] → ∃ t, exec (.push core a) s = .next t ∧
    t.m.unsettled = s.m.unsettled ++ [{ stamp := s.stampCtr + 1, bytes := s.dirtyGroup core a }] ∧ t.m.mem = s.m.mem ∧
    t.dirtyGroup core a = [] ∧
    (t.homeBad ((s.dirtyGroup core a).map (·.1)) = false → ∀ e ∈ s.dirtyGroup core a,
      tget t.m.cClean (ckey core e.1) = some { byte := e.2, stamp := s.stampCtr + 1, gone := none })) ∧
  (∀ (a : Nat) (older newer : List HWr) (x : HWr), x.writes a = true →
    (∀ y ∈ older, y.writes a = false ∧ y.overlaps x = false) → settleNext (older ++ x :: newer) a = some x) ∧
  (∀ (s : State) (a : Nat) (x : HWr), settleNext s.m.unsettled a = some x →
    ∃ t, exec (.settle a) s = .next t ∧ t.m.unsettled = s.m.unsettled.erase x ∧
      t.m.mem = x.bytes.foldl (fun m e => mset m e.1 e.2) s.m.mem) ∧
  ∀ (s : State) (core a : Nat),
    (let m := { s.m with cClean := tclear s.m.cClean (core * 2 ^ 50 + a / 8 * 8) (core * 2 ^ 50 + (a / 8 * 8 + 8)) }
     exec (.drop (.core core) a) s = .next { s with m := m }) ∧
    ∃ t, exec (.drop .home a) s = .next t ∧ t = { s with
        m := { s.m with hClean := tclear s.m.hClean (a / 8 * 8) (a / 8 * 8 + 8), ue := t.m.ue } } ∧
      t.m.ue.map (fun e => (e.1, e.2.syndrome)) = s.m.ue.map fun e => (e.1, e.2.syndrome)

/-- R208: bytes written at the final point are what the home point then reads, and every other byte of memory reads as
before. -/
def FinalWrites : Prop :=
  ∀ (s : State) (a : Nat) (data : List Byte), s.memOk = true → s.unsettledOk →
    (∀ k < data.length, some ((s.finalWrite a data).homeByte (a + k)) = data[k]?) ∧
    ∀ b, b < a ∨ a + data.length ≤ b → (s.finalWrite a data).homeByte b = s.homeByte b

/-! ### Traps (R166 to R171, R403, R425) -/

/-- R167, R169, R170: taking a trap under FPOL 0, the handler's packet not known to be no clause start and no handler running:
the special registers take the cause, PC, mask, address and info; the warp waits to enter its handler, and its other threads,
its registers and memory are as they were. -/
def TrapsAreTaken : Prop :=
  ∀ (s : State) (wk : Nat) (bundle : List Nat) (r : TrapRec) (w : Warp) (t : Team), s.warp wk = some w →
    s.teamOf wk = some t → w.trap ≠ .handling → t.vals.fpol = 0 →
    s.clauseLook wk t t.vals.hpc ≠ some false →
    ∃ w' : Warp, s.takeTrap wk bundle r = { s with
        warps := tmod s.warps wk fun _ => w', pending := s.pending ++ [.handlerStart wk] } ∧
      w'.trapcause = BitVec.ofNat 32 r.cause ∧ w'.trappc = BitVec.ofNat 32 r.pc ∧ w'.trapaddr = BitVec.ofNat 64 r.addr ∧
      w'.trapinfo = r.info ∧ w'.uerec = r.uerec.getD w.uerec ∧ w'.trap = .entering bundle ∧
      (∀ (l : Nat) (th : Thread), w.threads[l]? = some th → w'.threads[l]? = some { th with marked := r.mask.contains l }) ∧
      w'.sregs = w.sregs ∧ w'.flags = w.flags ∧ w'.ext = w.ext

/-- R169, R386, R403: a trap while the handler runs stops the context with REASON 1; under FPOL 2, or with no clause start at
the handler's packet, with REASON 3; under FPOL 1 the marked lanes are killed, and after a TRAP the rest of its bundle goes on
at the next packet. -/
def TrapsWithoutHandler : Prop :=
  ∀ (s : State) (wk : Nat) (bundle : List Nat) (r : TrapRec) (w : Warp) (t : Team), s.warp wk = some w →
    s.teamOf wk = some t →
    (w.trap = .handling → s.takeTrap wk bundle r = s.warpStops wk 1 r.pc) ∧
    (w.trap ≠ .handling → t.vals.fpol = 1 → r.cause ≠ 0x0B → s.takeTrap wk bundle r = s.killLanes wk r) ∧
    (w.trap ≠ .handling → t.vals.fpol = 1 → r.cause = 0x0B →
      let rest := bundle.filter fun l => !r.mask.contains l
      s.takeTrap wk bundle r = ((s.killLanes wk r).modThreads wk rest fun x => { x with pc := r.pc, wait := 0 }).arrive wk rest) ∧
    (w.trap ≠ .handling → t.vals.fpol ≠ 1 → (t.vals.fpol = 2 ∨ s.clauseLook wk t t.vals.hpc = some false) →
      s.takeTrap wk bundle r = s.warpStops wk 3 r.pc)

/-- R167, R221: HANDLER_START once the warp's older accesses have been performed: its buffered writes are posted and the live
threads of the bundle run the handler as one bundle, their clause's flag names saved. In a handler for an uncorrectable
error the bundle's threads whose own errors have come meanwhile are marked too. -/
def HandlersStart : Prop :=
  ∀ (s : State) (wk : Nat) (w v : Warp) (t : Team) (b : List Nat) (m : Nat), s.warp wk = some w → s.teamOf wk = some t →
    w.trap = .entering b → b.Nodup → (s.postWarp wk).warp wk = some v →
    (∀ o ∈ (s.postWarp wk).ops, o.warp = wk → o.helper = none →
      o.kind ≠ .load ∧ o.kind ≠ .store ∧ o.kind ≠ .atomic ∧ o.kind ≠ .ret) →
    let ls := b.filter fun l => ((w.threads[l]?).map Thread.live).getD false
    let joins (l : Nat) : Bool := v.trapcause == 7 && b.contains l &&
      v.deferred.any fun d => d.cause == 7 && d.lanes.contains l
    minNat? ls = some m →
    ∃ w' : Warp, exec (.handlerStart wk) s = .next ((s.postWarp wk).modWarp wk fun _ => w') ∧ w'.trap = .handling ∧
      ∀ l, w'.threads[l]? = (v.threads[l]?).map fun x =>
        let x := if joins l then { x with marked := true } else x
        if l ∈ ls then { x with
          st := .runnable, pc := 12 * t.vals.hpc, handling := true, bundle := m, ssa := x.seta, ssb := x.setb
          wait := 0, due := false }
        else x

/-- R168: TRAPRET outside a handler is illegal. In one, the bundle's threads wait for the others; when every live handler
thread has issued it, they resume at sr.trappc, as the last group to issue it read that (R64), with the flag names they had, and sr.handler reads 0. -/
def TrapReturns : Prop :=
  ∀ (s : State) (i : Issue) (w v : Warp) (t : Team), s.ReadyC i w t → s.rdWarp i = some v →
    (w.trap ≠ .handling → exec .trapret s = .next (s.illegal 0x23 i.lanes)) ∧
    (w.trap = .handling → (∃ l th, w.threads[l]? = some th ∧ th.handling = true ∧ th.live = true ∧ l ∉ i.lanes ∧
        th.st ≠ .blocked .trapret) →
      exec .trapret s = .next (s.modThreads i.warp i.lanes fun th => { th with st := .blocked .trapret })) ∧
    (w.trap = .handling → i.lanes.Nodup → w.uedests = [] →
      (∀ l th, w.threads[l]? = some th → (l ∈ i.lanes ↔ th.handling = true ∧ th.live = true)) →
      ∃ u, exec .trapret s = .next u ∧ (u.warp i.warp).map (·.trap) = some .idle ∧
        ∀ l th, w.threads[l]? = some th → l ∈ i.lanes → ∃ th', u.thread i.warp l = some th' ∧ th'.pc = v.trappc.toNat ∧
          th'.handling = false ∧ th'.seta = th.ssa ∧ th'.setb = th.ssb ∧ (th'.st = .runnable ∨ th'.st = .parked))

/-- R15, R23, R425: BOLTER_REFORM releases the parked threads whose meeting awaits nobody, makes the bundles of a warp the
sets of runnable threads with equal PCs, each named by its lowest thread, and delivers a deferred trap. -/
def Reforms : Prop :=
  (∀ (s : State) (wk : Nat), exec (.bolterReform wk) s = .next (((s.parkRelease wk).reform wk).deliver wk)) ∧
  ∀ (s : State) (wk : Nat) (w : Warp) (l k : Nat) (a b : Thread), s.warp wk = some w → w.threads[l]? = some a →
    w.threads[k]? = some b → a.st = .runnable → b.st = .runnable → s.returning wk l = false → s.returning wk k = false →
    ∃ a' b', (s.reform wk).thread wk l = some a' ∧ (s.reform wk).thread wk k = some b' ∧
      a' = { a with bundle := a'.bundle } ∧ (a'.bundle = b'.bundle ↔ a.pc = b.pc) ∧ a'.bundle ≤ l

/-- R22: does a thread await, at the meeting point of packet `a` and depth `d`, a meeting that its own entries name? -/
def Awaits (x : Thread) (a d : Nat) : Prop :=
  x.live = true ∧ ¬(x.st = .parked ∧ x.pc = 12 * a ∧ x.depth = d) ∧
  ∃ m ∈ [x.meet, x.meetout], m.getLsbD 31 = true ∧ m.toNat % 2 ^ 23 = a ∧ m.toNat / 2 ^ 23 % 256 = d

/-- R23, R24, R25: PARK_RELEASE. A set of parked threads that no thread of the warp awaits runs again, each with its outer
meeting point as its own and none outside that; one with lanes lent to helpers is marked to be released, its helpers are
called back, and it runs once the last is back, whatever the warp's threads have done since. Every other thread stays. -/
def Releases : Prop :=
  (∀ (w : Warp) (l : Nat) (th : Thread), w.threads[l]? = some th →
    (w.releasable l = true ↔ th.st = .parked ∧ (th.freed = true ∨ ∀ x ∈ w.threads, ¬Awaits x (th.pc / 12) th.depth))) ∧
  ∀ (s : State) (wk l : Nat) (w : Warp) (th : Thread), s.warp wk = some w → w.threads[l]? = some th →
    let u := s.parkRelease wk
    let set (k : Nat) : Option (Nat × Nat) := (w.threads[k]?).map fun x => (x.pc, x.depth)
    let lent (k : Nat) : Prop := w.releasable k = true ∧ (s.lentFrom wk k).isSome = true
    (w.releasable l = false → u.thread wk l = some th) ∧
    (w.releasable l = true → (∀ x ∈ w.threads, x.depth < 256) → (∀ k, lent k → set k ≠ set l) →
      u.thread wk l = some { th with
        st := .runnable, meet := th.meetout, meetout := th.meetout &&& 0x7FFF_FFFF, freed := false }) ∧
    (w.releasable l = true → (∃ k, lent k ∧ set k = set l) → u.thread wk l = some { th with freed := true }) ∧
    ((∀ k, ¬lent k) → OnlyThreads s u) ∧
    ∀ o idx h v, w.releasable l = true → s.lentFrom wk l = some (o, idx) → s.warp o = some v → v.helper idx = some h →
      ∃ v' h', u.warp o = some v' ∧ v'.helper idx = some h' ∧ h'.st = .reclaim

/-- R425: a deferred trap of a warp. With none of its threads live it is dropped. It is taken when the lowest live thread it
names can issue, its PC known: in the bundle of that thread, whose named threads it marks, at the PC of that thread; for the
named threads of other bundles it stays, and is taken again. It waits while the warp enters a handler, and one taken again
while a handler runs too; the first time it stops the context there, as any trap (R169). The first that can be taken is. -/
def Deliveries : Prop :=
  (∀ (s : State) (wk : Nat) (w : Warp) (d : Deferred), s.warp wk = some w →
    let lives := sortNat (d.lanes.filter fun l => ((w.threads[l]?).map Thread.live).getD false)
    let ready : Prop := w.trap = .idle ∨ (w.trap = .handling ∧ d.again = false)
    (lives = [] → s.deliverOne wk d = (true, s.modWarp wk fun w => { w with deferred := w.deferred.erase d })) ∧
    ∀ l r th, lives = l :: r → w.threads[l]? = some th →
      (¬ready ∨ th.runs = false ∨ s.returning wk l = true → s.deliverOne wk d = (false, s)) ∧
      (ready → th.runs = true → s.returning wk l = false →
        let b := s.bundleLanes wk th.bundle
        let marked := lives.filter fun x => b.contains x
        let rest := lives.filter fun x => !b.contains x
        let later : List Deferred := if rest = [] then [] else
          [{ d with lanes := rest, again := true, dests := d.dests.filter fun x => !marked.contains x.1 }]
        s.deliverOne wk d = (true, (s.modWarp wk fun w => { w with
            deferred := later ++ w.deferred.erase d, uedests := d.dests.filter fun x => marked.contains x.1 }).takeTrap wk b {
          cause := d.cause, pc := th.pc, mask := marked, addr := ((d.addrs.find? fun x => x.1 == l).map (·.2)).getD 0
          info := d.info, uerec := d.uerec }))) ∧
  (∀ (s : State) (wk : Nat) (w : Warp), s.warp wk = some w → (∀ d ∈ w.deferred, (s.deliverOne wk d).1 = false) →
    s.deliver wk = s) ∧
  ∀ (s t : State) (wk : Nat) (w : Warp) (before after : List Deferred) (d : Deferred), s.warp wk = some w →
    w.deferred = before ++ d :: after → (∀ x ∈ before, (s.deliverOne wk x).1 = false) → s.deliverOne wk d = (true, t) →
    s.deliver wk = t

end Sys2Proof.Claims

/-- FENCE holds what its order names; a release drains the thread buffer and core; an acquire drops clean copies. (R159,
R209, R210, R211, R212)
Where the spec leaves a point open it rests on the model's choice or reading of log entries 15, 77. -/
def Obligations.FencesReleasesAndAcquires : Prop :=
  Sys2Proof.Claims.Fences ∧
  Sys2Proof.Claims.ReleasesDrain ∧
  Sys2Proof.Claims.AcquiresDrop

/-- OPFENCE and WAITF hold their bundle; the cache words start, act on their lines and complete. (R159, R160, R188)
Where the spec leaves a point open it rests on the model's choice or reading of log entries 58, 75, 76, 77. -/
def Obligations.WaitAndCacheWords : Prop :=
  Sys2Proof.Claims.OperationWaits ∧
  Sys2Proof.Claims.CacheOperations ∧
  Sys2Proof.Claims.Pins ∧
  Sys2Proof.Claims.CacheCompletions

/-- POST, PUSH, SETTLE and DROP move writes along their path; a final write is what is then read, and only there. (R207,
R208, R253) -/
def Obligations.OrderingStepsMoveWrites : Prop := Sys2Proof.Claims.OrderingSteps ∧ Sys2Proof.Claims.FinalWrites

/-- Taking a trap saves its record and enters the handler, kills or stops, as FPOL and the handler's packet say. (R167,
R169, R170, R221, R386, R403)
Where the spec leaves a point open it rests on the model's choice or reading of log entries 15, 19, 23. -/
def Obligations.TrapsAreDelivered : Prop :=
  Sys2Proof.Claims.TrapsAreTaken ∧
  Sys2Proof.Claims.TrapsWithoutHandler ∧
  Sys2Proof.Claims.HandlersStart

/-- TRAP and BRKPT take their trap; TRAPRET in a handler gathers its threads and resumes them at sr.trappc. (R149, R167,
R168)
Where the spec leaves a point open it rests on the model's choice or reading of log entry 82. -/
def Obligations.SoftwareTrapsAndTrapReturn : Prop := Sys2Proof.Claims.SoftwareTraps ∧ Sys2Proof.Claims.TrapReturns

/-- BOLTER_REFORM makes the bundles of a warp the sets of runnable threads with equal PCs. (R15, R23, R24, R25, R425)
Where the spec leaves a point open it rests on the model's choice or reading of log entry 70. -/
def Obligations.BundlesReform : Prop :=
  Sys2Proof.Claims.Reforms ∧ Sys2Proof.Claims.Releases ∧ Sys2Proof.Claims.Deliveries

namespace Sys2Proof.Claims

/-! ### Extended registers and tiles (R199 to R201) -/

/-- R199, R200: XACQ and AACQ for a bundle that may act, inside its budget, when the pool can meet it whole: the warp holds every
block named, the team every tile named, each newly mapped tile reading zero; with TRY the predicate of the bundle's threads
reads 1. -/
def ResourcesTaken : Prop :=
  (∀ (s : State) (i : Issue) (w : Warp) (t : Team) (mask : BitVec 4) (tryIt : BitVec 1) (p : BitVec 3), s.ReadyOnce i w t →
    mask.toNat < 2 ^ t.vals.xblk → s.resHeld t = false → s.resFits i.warp true (maskBlocks mask) = true →
    ∃ u w', exec (.xacq mask tryIt p) s = .next u ∧ u.warp i.warp = some w' ∧ u.m = s.m ∧ u.resReqs = s.resReqs ∧
      (∀ b < 4, mask.getLsbD b = true → (tget w'.ext b).isSome = true) ∧
      (∀ b off, tget w.ext b = some off → tget w'.ext b = some off) ∧
      (tryIt = 1 → p.toNat < 7 → ∀ l ∈ i.lanes, ∀ th, w'.threads[l]? = some th → predBit th.preds p.toNat = true) ∧
      (tryIt = 0 → w'.threads = w.threads)) ∧
  (∀ (s : State) (i : Issue) (w : Warp) (t : Team) (base : BitVec 8) (n : BitVec 7) (tryIt : BitVec 1) (p : BitVec 3),
    s.ReadyOnce i w t → base.toNat + n.toNat < min 256 t.vals.tiles → t.core = w.core → s.resHeld t = false →
    s.resFits i.warp false (tilesOf base n) = true →
    ∃ u t', exec (.aacq base n tryIt p) s = .next u ∧ u.team w.team = some t' ∧ u.resReqs = s.resReqs ∧
      (∀ k, base.toNat ≤ k → k ≤ base.toNat + n.toNat → ∃ ct, tget t'.tiles k = some ct ∧
        (tget t.tiles k = none → ∀ r c, r < 8 → c < 64 → u.accWord (accKey w.core ct r c) = 0)) ∧
      (∀ k ct, tget t.tiles k = some ct → tget t'.tiles k = some ct))

/-- R200: a bundle whose request cannot be met now is refused in its predicate under TRY, and else blocks until the grant,
its request last in the pool's queue; a request past the budget is illegal. A deterministic team waits while a warp of it that has
ended has still to give back what it held. -/
def ResourcesWait : Prop :=
  ∀ (s : State) (i : Issue) (w : Warp) (t : Team) (mask : BitVec 4) (p : BitVec 3), s.ReadyOnce i w t →
    (2 ^ t.vals.xblk ≤ mask.toNat → ∀ y, exec (.xacq mask y p) s = .next (s.illegal 3 i.lanes)) ∧
    (t.det = none → s.resHeld t = false) ∧
    (mask.toNat < 2 ^ t.vals.xblk → s.resHeld t = true → ∀ y, exec (.xacq mask y p) s = .next s.stall) ∧
    (mask.toNat < 2 ^ t.vals.xblk → s.resHeld t = false → s.resFits i.warp true (maskBlocks mask) = false →
      exec (.xacq mask 0 p) s = .next { s with
        nextId := s.nextId + 1
        warps := (s.modThreads i.warp i.lanes fun th => { th with st := .blocked (.res s.nextId) }).warps
        resReqs := s.resReqs ++ [{ id := s.nextId, warp := i.warp, lanes := i.lanes, ext := true, items := maskBlocks mask }]
        pending := s.pending ++ [.resourceGrant s.nextId] } ∧
      (i.lanes.Nodup → ∃ u, exec (.xacq mask 1 p) s = .next u ∧ ThreadsBecome s i.warp i.lanes
        (fun _ th => { th with preds := setPredBit th.preds p.toNat false }) u))

/-- R201: XREL and AREL, once no operation uses what they name: the warp no longer holds the blocks, the team no longer maps
the tiles; what is not named stays. In a deterministic team what is given back goes at once to those of it that wait. -/
def ResourcesReleased : Prop :=
  (∀ (s : State) (i : Issue) (w : Warp) (t : Team) (mask : BitVec 4), s.ReadyOnce i w t →
    mask.toNat < 2 ^ t.vals.xblk → (∀ b < 4, mask.getLsbD b = true → s.regsBusy i (blockRegs b) = false) →
    ∃ u w', exec (.xrel mask) s = .next (u.detGrants w.team) ∧ OnlyWarps s u ∧ u.warp i.warp = some w' ∧ { w' with ext := w.ext } = w ∧
      ∀ b, tget w'.ext b = if b < 4 ∧ mask.getLsbD b = true then none else tget w.ext b) ∧
  (∀ (s : State) (tk : Nat), (∀ t, s.team tk = some t → t.det = none) → s.detGrants tk = s) ∧
  ∀ (s : State) (i : Issue) (w : Warp) (t : Team) (base : BitVec 8) (n : BitVec 7), s.ReadyOnce i w t →
    base.toNat + n.toNat < min 256 t.vals.tiles →
    (∀ m ∈ s.mops, m.team = w.team → i.before m.id = true → ∀ k ct, base.toNat ≤ k → k ≤ base.toNat + n.toNat → tget t.tiles k = some ct →
      ct ∉ m.tiles) →
    ∃ t', exec (.arel base n) s = .next (State.detGrants { s with teams := tmod s.teams w.team fun _ => t' } w.team) ∧ { t' with tiles := t.tiles } = t ∧
      ∀ k, tget t'.tiles k = if base.toNat ≤ k ∧ k ≤ base.toNat + n.toNat then none else tget t.tiles k

/-- R200: RESOURCE_GRANT for the oldest request of its pool, which the pool can meet: it is met as XACQ would have been and
leaves the queue, and its threads that wait for it run. -/
def ResourcesGranted : Prop :=
  ∀ (s : State) (r : ResReq) (w : Warp) (rest : List ResReq), (s.resReqs.find? fun x => x.id == r.id) = some r →
    s.warp r.warp = some w → s.poolQueue w r.ext = r :: rest → s.resFits r.warp r.ext r.items = true →
    let u := s.resGrant r.warp r.ext r.items
    exec (.resourceGrant r.id) s = .next (State.wake { u with resReqs := u.resReqs.erase r } r.warp (r.lanes.filter fun l =>
      ((u.thread r.warp l).map fun th => th.st == .blocked (.res r.id)).getD false))

/-! ### The matrix slices (R172 to R188) -/

/-- The lanes agree on a valid format word, whose planes stand ready on their arrays (R178, R179). -/
def VoteOk (s : State) (i : Issue) (w : Warp) (f : BitVec 7) (qs : List (Nat × Nat)) (word : Word) (fw : FmtWord) : Prop :=
  (∀ l ∈ lanesOf qs, s.rdV i l f.toNat = word) ∧ fmtWordReason word = none ∧ fmtWord word = some fw ∧
  ∀ e ∈ qs, s.planeReason w.gs word e = none

/-- `bs` are scratchpad bytes as a matrix operation of warp `wk` reads them: each is the scratchpad's, or, where a warp still on
the device has stored it without an OPFENCE since and `wk` has not stored it, perhaps the byte from before (R188). -/
def MatRead (s : State) (wk core off n : Nat) (bs : List Byte) : Prop :=
  bs.length = n ∧ ∀ k < n, bs[k]? = some (s.spadByte core (off + k)) ∨
    ∃ e, tget s.m.unfenced (core * 2 ^ 21 + off + k) = some e ∧ wk ∉ e.2 ∧ (∃ x ∈ e.2, (s.warp x).isSome = true) ∧
      bs[k]? = some e.1

/-- R175: a matrix word of which no quarter takes part does nothing, once its flag has room. -/
def MatrixWordsWithoutQuarters : Prop :=
  ∀ (s : State) (i : Issue) (w : Warp) (t : Team), s.iss = some i → i.kind = .thread → s.warp i.warp = some w →
    s.teamOf i.warp = some t → quartersOf (s.acting i) = ([], []) →
    let named (regs : List Nat) : Prop := (∀ r ∈ regs, r < 128) ∧ s.regError i regs [] = none
    (named [] → exec .mswap s = .next s) ∧
    (s.flagRoom i.warp none (s.flagOf i none) = true →
      (∀ f : FmtX, (named (regRange f.a.toNat 16 ++ [f.f.toNat]) → exec (.mmq f) s = .next s) ∧
        (named (regRange f.a.toNat 3 ++ [f.f.toNat]) → exec (.mmg f) s = .next s)) ∧
      (∀ a f : BitVec 7, named [a.toNat, f.toNat] → exec (.mlds a f) s = .next s) ∧
      ∀ (tile : BitVec 8) (a : BitVec 7) (g : BitVec 2), named (regRange a.toNat 16) →
        exec (.mrd tile a g) s = .next s ∧ exec (.mwr tile a g) s = .next s)

/-- R174 to R188: the matrix words that pass their checks are accepted with what they name: MMQ with its rows, MMG with its
gathered rows, MLDS with the planes it loads, MSWAP with its arrays, MRD and MWR with their tiles, MCLR with its range. An MMQ
whose scale register a load in flight still writes waits for it. -/
def MatrixWords : Prop :=
  (∀ (s : State) (i : Issue) (w : Warp) (t : Team) (f : FmtX) (qs : List (Nat × Nat)) (word : Word) (fw : FmtWord)
      (tm : List ((Nat × Nat) × Nat)),
    s.ReadyMatrix i w t (regRange f.a.toNat 16 ++ [f.f.toNat]) qs → VoteOk s i w f.f qs word fw →
    (fw.scale = 1 → f.a.toNat + 16 < 128 ∧ (w.vkey 0 (f.a.toNat + 16)).isSome = true) →
    (fw.scale = 1 → (∃ l ∈ lanesOf qs, s.vHeld i.warp none l (f.a.toNat + 16) = true) → exec (.mmq f) s = .next s.stall) ∧
    ((fw.scale = 1 → ∀ l ∈ lanesOf qs, s.vHeld i.warp none l (f.a.toNat + 16) = false) →
    tileMap t f.tile.toNat qs = .ok tm → s.flagRoom i.warp none (s.flagOf i none) = true →
    let row (e : (Nat × Nat) × Nat) (l : Nat) : MRow :=
      { lane := l, bytes := wordsBytes ((regRange f.a.toNat 16).map fun r => s.rdV i l r)
        scale := if fw.scale = 1 then s.rdV i l (f.a.toNat + 16) else 0, off := 0, tile := e.2, row := l % 8, q := e.1.2
        undef := false }
    exec (.mmq f) s = .next (s.accepted i w { blankMop .mmq with
      fw := word
      quarters := tm.map fun e => { r := e.1.1, q := e.1.2, tile := e.2, rows := (quarterLanes e.1.1 e.1.2).map (row e) }
      arrays := arraysOf qs, tiles := dedup (tm.map (·.2))
      srcs := regRange f.a.toNat (if fw.scale = 1 then 17 else 16) } (s.flagOf i none) []))) ∧
  (∀ (s : State) (i : Issue) (w : Warp) (t : Team) (f : FmtX) (qs : List (Nat × Nat)) (word : Word) (fw : FmtWord),
    s.ReadyMatrix i w t (regRange f.a.toNat 3 ++ [f.f.toNat]) qs → VoteOk s i w f.f qs word fw →
    let off (l : Nat) : Nat := (s.rdV i l f.a.toNat).toNat
    let j (l : Nat) : Nat := (s.rdV i l (f.a.toNat + 1)).toNat
    (∀ l ∈ lanesOf qs, off l % 64 = 0 ∧ off l + 64 ≤ t.vals.spbytes ∧ f.tile.toNat + j l / 8 ≤ 255 ∧
      (tget t.tiles (f.tile.toNat + j l / 8)).isSome = true) →
    let u := s.spadPost i.warp
    u.flagRoom i.warp none (u.flagOf i none) = true →
    ∃ (bs : Nat → List Byte) (v : State), v = { u with freeCount := v.freeCount, oracle := v.oracle } ∧
      (∀ l ∈ lanesOf qs, MatRead u i.warp w.core (t.spbase + off l) 64 (bs l)) ∧
      let rows := (lanesOf qs).map fun l =>
        { lane := l, bytes := bs l
          scale := if fw.scale = 1 then u.rdV i l (f.a.toNat + 2) else 0, off := t.spbase + off l
          tile := (tget t.tiles (f.tile.toNat + j l / 8)).getD 0, row := j l % 8, q := l % 32 / 8, undef := false : MRow }
      exec (.mmg f) s = .next (v.accepted i w { blankMop .mmg with
        fw := word, quarters := [{ r := 0, q := 0, tile := 0, rows := rows }], arrays := arraysOf qs
        tiles := dedup (rows.map (·.tile)) } (u.flagOf i none) [])) ∧
  (∀ (s : State) (i : Issue) (w : Warp) (t : Team) (qs : List (Nat × Nat)), s.ReadyMatrix i w t [] qs →
    let u := (arraysOf qs).foldl (fun (u : State) q => u.modQArray w.gs q fun x =>
      { x with nextAct := x.nextSh, nextSh := x.nextAct }) s
    exec .mswap s = .next (u.accepted i w { blankMop .mswap with
      quarters := (arraysOf qs).map fun q => { r := 0, q := q, tile := 0, rows := [] }, arrays := arraysOf qs } none [])) ∧
  (∀ (s : State) (i : Issue) (w : Warp) (t : Team) (tile : BitVec 8) (a : BitVec 7) (g : BitVec 2) (qs : List (Nat × Nat))
      (tm : List ((Nat × Nat) × Nat)),
    s.ReadyMatrix i w t (regRange a.toNat 16) qs → tileMap t tile.toNat qs = .ok tm →
    s.flagRoom i.warp none (s.flagOf i none) = true →
    let row (read : Bool) (e : (Nat × Nat) × Nat) (l : Nat) : MRow :=
      { lane := l, bytes := if read then [] else wordsBytes ((regRange a.toNat 16).map fun r => s.rdV i l r), scale := 0
        off := 0, tile := e.2, row := l % 8, q := e.1.2, undef := false }
    let m (read : Bool) : Mop := { blankMop (if read then .mrd else .mwr) with
      quarters := tm.map fun e => { r := e.1.1, q := e.1.2, tile := e.2, rows := (quarterLanes e.1.1 e.1.2).map (row read e) }
      arrays := arraysOf qs, tiles := dedup (tm.map (·.2)), g := g.toNat, d := a.toNat
      srcs := if read then [] else regRange a.toNat 16 }
    (s.recruitHeld i (lanesOf qs) (regRange a.toNat 16) = false → exec (.mrd tile a g) s = .next (s.accepted i w (m true) (s.flagOf i none)
      ((lanesOf qs).flatMap fun l => (regRange a.toNat 16).map fun r => (l, r)))) ∧
    exec (.mwr tile a g) s = .next (s.accepted i w (m false) (s.flagOf i none) [])) ∧
  (∀ (s : State) (i : Issue) (w : Warp) (t : Team) (tile : BitVec 8) (n : BitVec 7), s.ReadyOnce i w t →
    tile.toNat + n.toNat ≤ 255 → (∀ k, tile.toNat ≤ k → k ≤ tile.toNat + n.toNat → (tget t.tiles k).isSome = true) →
    s.flagRoom i.warp none (s.flagOf i none) = true →
    exec (.mclr tile n) s = .next (s.accepted i w { blankMop .mclr with
      quarters := [{ r := 0, q := 0, tile := 0, rows := [] }], arrays := [0, 1, 2, 3]
      tiles := (regRange tile.toNat (n.toNat + 1)).map fun x => (tget t.tiles x).getD 0 } (s.flagOf i none) [])) ∧
  ∀ (s : State) (i : Issue) (w : Warp) (t : Team) (a f : BitVec 7) (qs : List (Nat × Nat)),
    s.ReadyMatrix i w t [a.toNat, f.toNat] qs →
    let src (q : Nat) : Nat := ((qs.find? fun e => e.2 == q).map fun e => 32 * e.1 + 8 * q).getD 0
    let word (q : Nat) : Word := s.rdV i (src q) f.toNat
    let off (q : Nat) : Nat := (s.rdV i (src q) a.toNat).toNat
    let size (q : Nat) : Nat := ((fmtWord (word q)).map planeSize).getD 0
    (∀ q ∈ arraysOf qs, fmtWordReason (word q) = none ∧ off q % 128 = 0 ∧ off q + size q ≤ t.vals.spbytes) →
    s.flagRoom i.warp none (s.flagOf i none) = true →
    let pid (q : Nat) : PlaneId := { word := word q, off := off q, mlds := (s.spadPost i.warp).nextId }
    let u := (arraysOf qs).foldl (fun (u : State) q => u.modQArray w.gs q fun x => { x with nextSh := some (pid q) })
      (s.spadPost i.warp)
    u.flagRoom i.warp none (u.flagOf i none) = true →
    exec (.mlds a f) s = .next (u.accepted i w { blankMop .mlds with
      quarters := (arraysOf qs).map fun q => { r := 0, q := q, tile := 0, rows := [] }, arrays := arraysOf qs
      loads := (arraysOf qs).map fun q => (q, pid q, t.spbase + off q, size q) } (u.flagOf i none) [])

/-- R101, R174, R182, R184, R187: what a quarter of a matrix operation does when it is performed: MMQ adds each row's
products with its array's active plane, chunk by chunk, into its tile row, and no other word of the accumulators changes;
MRD brings a tile row's columns to its lane; MWR puts them there; MCLR zeroes its tiles; MSWAP exchanges the planes and MLDS
fills the shadow one. A row whose source changed before the flag fell ends with free values (R185, R186). -/
def MatrixResults : Prop :=
  (∀ (s : State) (m : Mop) (r : MRow) (n : Nat), m.kind = .mmq ∨ m.kind = .mmg → n < 64 →
    (∃ k, (s.undefRow m r).accWord (accKey m.core r.tile r.row n) = Config.freeValue k) ∧
    ∀ k, (∀ n < 64, k ≠ accKey m.core r.tile r.row n) → (s.undefRow m r).accWord k = s.accWord k) ∧
  (∀ (s : State) (core gs acc : Nat) (fw : FmtWord) (r : MRow), r.undef = false → r.row < 8 → r.tile < 512 →
    let t := s.productRow core gs fw acc r
    (∀ n < 64, t.accWord (accKey core r.tile r.row n) =
      Machine.chunkSum fw acc r.bytes r.scale (s.qarray gs r.q).act.bytes (s.accWord (accKey core r.tile r.row n)) n) ∧
    (∀ k, (∀ n < 64, k ≠ accKey core r.tile r.row n) → t.accWord k = s.accWord k) ∧
    t = { s with m := { s.m with acc := t.m.acc } }) ∧
  (∀ (s : State) (m : Mop) (q : QOp), m.kind = .mclr → ∀ ct ∈ m.tiles, ∀ r c, r < 8 → c < 64 →
    (s.performQuarter m q).accWord (accKey m.core ct r c) = 0) ∧
  (∀ (s : State) (m : Mop) (q : QOp), m.kind = .mswap →
    ((s.performQuarter m q).qarray m.gs q.q).act = (s.qarray m.gs q.q).sh ∧
    ((s.performQuarter m q).qarray m.gs q.q).sh = (s.qarray m.gs q.q).act) ∧
  (∀ (s : State) (m : Mop) (q : QOp) (pid : PlaneId) (off size : Nat), m.kind = .mlds → m.loads = [(q.q, pid, off, size)] →
    (∃ bs, MatRead s m.warp m.core off size bs ∧
      ((s.performQuarter m q).qarray m.gs q.q).sh = { id := some pid, bytes := bs }) ∧
    ((s.performQuarter m q).qarray m.gs q.q).act = (s.qarray m.gs q.q).act) ∧
  (∀ (s : State) (m : Mop) (q : QOp) (r : MRow), m.kind = .mwr → q.rows = [r] → r.undef = false → r.bytes.length = 64 →
    m.g < 4 → ∀ k < 16, some ((s.performQuarter m q).accWord (accKey m.core r.tile r.row (16 * m.g + k))) =
      (leWords r.bytes)[k]?) ∧
  ∀ (s : State) (m : Mop) (q : QOp) (r : MRow) (o : Op) (w : Warp) (th : Thread) (k key : Nat), m.kind = .mrd →
    s.op m.id = some o → o.helper = none → s.warp o.warp = some w → w.threads[r.lane]? = some th → th.live = true →
    q.rows = [r] → k < 16 → w.vkey r.lane (m.d + k) = some key →
    (∀ j < 16, w.vkey r.lane (m.d + j) = some key → j = k) →
    tget (s.performQuarter m q).reg.rf key = some (s.accWord (accKey m.core r.tile r.row (16 * m.g + k)))

/-- R174, R188: MATRIX_OP_COMPLETE performs the operation's first quarter whose turn it is on its arrays and tiles and goes on;
with no quarter left and no earlier operation of the warp, the rows whose sources changed become undefined, the operation
completes and its flag falls; otherwise it waits. -/
def MatrixCompletion : Prop :=
  ∀ (s : State) (m : Mop) (before rest : List Mop), s.mops = before ++ m :: rest → (∀ b ∈ before, b.id ≠ m.id) →
    (∀ q, (m.quarters.find? fun q => m.free before q) = some q → exec (.matrixOpComplete m.id) s =
      let u := s.performQuarter m q
      .next { u with
        mops := u.mops.map fun x => if x.id = m.id then x.perform q else x
        pending := u.pending ++ [.matrixOpComplete m.id] }) ∧
    (before = [] → ∀ q ∈ m.quarters, m.free before q = true) ∧
    (m.quarters = [] → (∀ b ∈ before, b.warp ≠ m.warp) → exec (.matrixOpComplete m.id) s =
      let u := ((m.done.flatMap (·.rows)).filter fun r => r.undef).foldl (fun u r => u.undefRow m r) s
      .next (State.endOp { u with mops := s.mops.filter fun x => x.id != m.id } m.id)) ∧
    ((∀ q ∈ m.quarters, m.free before q = false) → (m.quarters ≠ [] ∨ ∃ b ∈ before, b.warp = m.warp) →
      exec (.matrixOpComplete m.id) s = .next (s.pend (.matrixOpComplete m.id)))

end Sys2Proof.Claims

/-- XACQ and AACQ take blocks and tiles, wait or are refused; XREL and AREL return them; RESOURCE_GRANT meets the oldest.
(R199, R200, R201)
Where the spec leaves a point open it rests on the model's choice or reading of log entry 49. -/
def Obligations.ResourceWords : Prop :=
  Sys2Proof.Claims.ResourcesTaken ∧
  Sys2Proof.Claims.ResourcesWait ∧
  Sys2Proof.Claims.ResourcesReleased ∧
  Sys2Proof.Claims.ResourcesGranted

/-- MMQ, MMG, MLDS, MSWAP, MRD, MWR and MCLR that pass their checks are accepted with what they name. (R174, R175, R176,
R177, R178, R179, R180, R182, R184, R186, R187, R188)
Where the spec leaves a point open it rests on the model's choice or reading of log entries 83, 87, 110. -/
def Obligations.MatrixWordsAreAccepted : Prop :=
  Sys2Proof.Claims.MatrixWords ∧ Sys2Proof.Claims.MatrixWordsWithoutQuarters

/-- A performed quarter has its operation's effect on tiles, planes or registers, and no other; the last completes it.
(R101, R174, R182, R184, R187, R188)
Where the spec leaves a point open it rests on the model's choice or reading of log entries 42, 83, 87. -/
def Obligations.MatrixOperationResults : Prop := Sys2Proof.Claims.MatrixResults ∧ Sys2Proof.Claims.MatrixCompletion

namespace Sys2Proof.Claims

/-! ### Copies (R189 to R198, R267) -/

/-- The leader `l` of an asynchronous copy word may issue it: its registers are named and nothing holds it (R193, R373). -/
structure CopyReady (s : State) (i : Issue) (w : Warp) (t : Team) (f : FmtT) (n l : Nat) : Prop where
  ready : s.ReadyT i w ([f.handle.toNat, f.handle.toNat + 1] ++ regRange f.coord.toNat n) []
  normal : w.kind = .normal
  view : i.view = none
  team : s.teamOf i.warp = some t
  leader : s.leader i = some l
  unheld : s.engHeld i (if f.ckind = 0 then some f.cid.toNat else none) [l] false = false

/-- What every command holds of the word that makes it. -/
def copyBase (i : Issue) (w : Warp) (t : Team) (f : FmtT) (minor l : Nat) : Copy :=
  { id := 0, core := w.core, ctx := t.ctx, team := w.team, teamIdx := t.idx, wcb := t.twcb, warp := i.warp, leader := l
    minor := minor, tlr := zeroTlr, coords := [], spbase := t.spbase, sp := t.spbase, bmp := 0, idxs := [], dst := 0, src := 0
    count := 0, target := { kind := f.ckind.toNat, id := f.cid.toNat, entry := 0 }, units := [], got := [], bytes := 0
    fails := [], pinned := [] }

/-- The 64-bit value of a register pair. -/
def pairV (s : State) (i : Issue) (l n : Nat) : Nat := (s.rdV i l (n + 1)).toNat * 2 ^ 32 + (s.rdV i l n).toNat

/-- The layout record at `a` is in the core's cache, whole and without an offending field (R189, R191). -/
def RecordAt (s : State) (w : Warp) (t : Team) (a : Nat) (block : Bool) (r : Tlr) : Prop :=
  a < 2 ^ 57 ∧ a % 64 = 0 ∧ ∃ e, (s.tlrs.find? fun e => e.core == w.core && e.ctx == t.ctx && e.addr == a) = some e ∧
    tlrBad (leNat e.bytes) block = none ∧ r = tlrOf (leNat e.bytes)

/-- R193, R196: the copy words that pass their checks put their command into the core's copy engine: TCOPY and TSTORE with
the leader's coordinates and scratchpad offset, TGATHER and TSCATTER with the index of each active lane of its row, TXFER
with two addresses and a count. -/
def CopyWords : Prop :=
  (∀ (s : State) (i : Issue) (w : Warp) (t : Team) (f : FmtT) (l : Nat) (r : Tlr), CopyReady s i w t f 6 l →
    RecordAt s w t (pairV s i l f.handle.toNat) false r →
    let reg (n : Nat) : Word := s.rdV i l (f.coord.toNat + n)
    (reg 5).toNat % 4 = 0 → (r.span false = 0 ∨ (reg 5).toNat + r.span false ≤ t.vals.spbytes) →
    let c (minor : Nat) : Copy := { copyBase i w t f minor l with
      tlr := r, coords := (List.range 5).map fun n => (reg n).toInt, sp := t.spbase + (reg 5).toNat }
    (s.copyGated w t (c 0) = false → exec (.tcopy f) s = .next (s.enterCopy i t (c 0))) ∧
    (s.copyGated w t (c 1) = false → exec (.tstore f) s = .next (s.enterCopy i t (c 1)))) ∧
  (∀ (s : State) (i : Issue) (w : Warp) (t : Team) (f : FmtT) (l : Nat) (r : Tlr) (word : Instr) (minor : Nat),
    ((word, minor) = (Instr.tgather f, 2) ∨ (word, minor) = (Instr.tscatter f, 3)) →
    CopyReady s i w t f (if minor = 2 then 3 else 2) l → RecordAt s w t (pairV s i l f.handle.toNat) true r →
    let ls := (s.acting i).filter fun x => x / 32 == l / 32
    let idx (x : Nat) : Nat := (s.rdV i x f.coord.toNat).toNat
    let off := (s.rdV i l (f.coord.toNat + 1)).toNat
    let bm := (s.rdV i l (f.coord.toNat + 2)).toNat
    (∀ x ∈ ls, idx x < r.blkcount) → off % 4 = 0 → (r.span true = 0 ∨ off + r.span true ≤ t.vals.spbytes) →
    (minor = 2 ∧ r.bmp = true → bm % 4 = 0 ∧ bm + 4 ≤ t.vals.spbytes) →
    let c : Copy := { copyBase i w t f minor l with
      tlr := r, sp := t.spbase + off, bmp := t.spbase + bm
      idxs := (List.range 32).map fun x => if ls.contains (l / 32 * 32 + x) then some (idx (l / 32 * 32 + x)) else none }
    s.copyGated w t c = false → exec word s = .next (s.enterCopy i t c)) ∧
  ∀ (s : State) (i : Issue) (w : Warp) (t : Team) (f : FmtT) (l : Nat), CopyReady s i w t f 3 l →
    let src := pairV s i l f.handle.toNat
    let dst := pairV s i l f.coord.toNat
    let n := (s.rdV i l (f.coord.toNat + 2)).toNat
    let ok (a : Nat) : Prop := a % 4 = 0 ∧ match steer a with
      | .global _ => n = 0 ∨ a + n ≤ 2 ^ 57
      | .spad off => n = 0 ∨ off + n ≤ t.vals.spbytes
      | .onchip _ _ => t.vals.grant = true ∧ rangeFail a n = none
      | _ => n = 0
    ok src → ok dst → n % 4 = 0 → n ≤ 2 ^ 24 →
    let c : Copy := { copyBase i w t f 4 l with dst := dst, src := src, count := n }
    s.copyGated w t c = false → exec (.txfer f) s = .next (s.enterCopy i t c)

/-- R192, R194, R195: a command that enters counts on its flag under a flag target, and stands in the engine with every unit
to do; one whose units are done completes as a release at device scope that makes its target known: the flag falls, the
counter's decrement follows, or an event record joins the core's queue. -/
def CopyCommands : Prop :=
  (∀ (s : State) (i : Issue) (t : Team) (c : Copy), s.m.tbuf = [] → c.minor ≠ 2 →
    let flag := if c.target.kind = 0 then some c.target.id else none
    let u := (s.startOp { blankOp i.warp .engine with lanes := [c.leader], flag := flag }).2
    s.enterCopy i t c = { u with
      copies := u.copies ++ [{ c with
        id := s.nextId, units := c.allUnits, target := { c.target with entry := t.vals.dcwin + c.target.id } }]
      pending := u.pending ++ [.copyComplete s.nextId (.unit 0)] }) ∧
  (∀ (s : State) (id : Nat) (c : Copy), s.copy id = some c → c.units = [] →
    ∃ u, exec (.copyComplete id (.unit 0)) s = .next u ∧ u = s.pend (.copyComplete id .finish)) ∧
  (∀ (s : State) (c : Copy) (w : Warp), s.copy c.id = some c → c.units = [] → c.pinned = [] → c.fails = [] → s.sk.reqs = [] →
    s.warp c.warp = some w →
    (c.target.kind = 0 → ∃ u, exec (.copyComplete c.id .finish) s = .next u ∧
      u.copies = (s.pushCore c.core).copies.filter (fun x => x.id != c.id) ∧
      { u with copies := [] } = { State.endFwd ((((s.pushCore c.core).dropClean w.core).endOp c.id).clearFailed c.id) c.id with
        copies := [] }) ∧
    (c.target.kind = 1 → ∃ u, exec (.copyComplete c.id .finish) s = .next u ∧
      .dcDecrement c.ctx c.target.entry 0 ∈ u.pending ∧ ∀ x ∈ u.copies, x.id ≠ c.id)) ∧
  (∀ (s : State) (c : Copy) (k : Core), s.copy c.id = some c → c.units = [] → c.pinned = [] → c.fails = [] → s.sk.reqs = [] →
    c.target.kind = 2 → tget s.cores c.core = some k → k.fwds = [] → k.evq.length < 256 →
    ∃ u k' e, exec (.copyComplete c.id .finish) s = .next u ∧ tget u.cores c.core = some k' ∧ k'.evq = k.evq ++ [e] ∧
      e.source = 1 ∧ e.minor = c.minor ∧ e.status = 0 ∧ e.id = c.target.id ∧ e.ctx = c.ctx ∧
      e.detail.toNat = min c.bytes (2 ^ 32 - 1) ∧ e.seq = BitVec.ofNat 32 (k.copySeq + 1)) ∧
  -- a unit of a TXFER between disjoint places of one scratchpad moves its bytes
  ∀ (s : State) (c : Copy) (a b : Nat), c.minor = 4 → c.src = 0xFE00_0000_0000_0000 + a → c.dst = 0xFE00_0000_0000_0000 + b →
    0 < c.count → c.count ≤ 128 → c.sp + a + c.count ≤ 2 ^ 21 → c.sp + b + c.count ≤ 2 ^ 21 →
    (a + c.count ≤ b ∨ b + c.count ≤ a) →
    s.waits (.engine c.id 0) = false → s.fwdCount = 0 → s.copy c.id = some c →
    (s.ops.any fun o => o.warp == c.warp && o.id < c.id && o.helper.isNone && o.lanes.contains c.leader && !o.performed) =
      false →
    (∀ k < c.count, (s.copyUnit c 0).spadByte c.core (c.sp + b + k) = s.spadByte c.core (c.sp + a + k)) ∧
    ∀ k o, o < 2 ^ 21 → (k ≠ c.core ∨ o < c.sp + b ∨ c.sp + b + c.count ≤ o) →
      (s.copyUnit c 0).spadByte k o = s.spadByte k o

/-- R191: a layout record of 192 bytes enters a core's cache, the oldest of 64 leaving, and what was read for it is let go. -/
def recordIn (s : State) (core ctx addr : Nat) (bytes : List Byte) : State :=
  let mine := s.tlrs.filter fun e => e.core == core
  { s with
    tlrs := (if mine.length < 64 then s.tlrs else match mine with
      | x :: _ => s.tlrs.erase x
      | [] => s.tlrs) ++ [{ core := core, ctx := ctx, addr := addr, bytes := bytes }]
    descs := s.descs.filter fun x => !(tlrKeys core ctx addr).contains x.1 }

/-- R191, R267: TLR_FILL of a record not yet in the core's cache reads its 192 bytes at once where they stand sound on one page
of the device's memory, and they enter the cache, the oldest of 64 leaving; of a record on another device's page it makes one
request, whose answer enters; one that cannot be read does not enter. PDT_PIN and PDT_UNPIN count at the page's entry, and
PAGE_FREE_PUSH is the engine's step that frees a drained page. -/
def CopyHelpers : Prop :=
  (∀ (s : State) (core ctx addr : Nat), s.tlrs.any (fun e => e.core == core && e.ctx == ctx && e.addr == addr) = true →
    exec (.tlrFill core ctx addr) s = .next s) ∧
  (∀ (s : State) (core ctx addr key : Nat),
    s.tlrs.any (fun e => e.core == core && e.ctx == ctx && e.addr == addr) = false → addr % 65536 + 192 ≤ 65536 →
    (tlrKeys core ctx addr)[0]? = some key →
    (∀ pa mt, (s.descs.find? fun e => e.1 == key) = none → mt ≠ .sw →
      s.engineXlate (.core core) ctx addr 0 .load = (.at (.mem mt pa), s) →
      (s.homeBadAt pa 192 = false →
        exec (.tlrFill core ctx addr) s = .next (recordIn s core ctx addr (s.homeBytes pa 192))) ∧
      (s.homeBadAt pa 192 = true → ∃ u, exec (.tlrFill core ctx addr) s = .next u ∧ u.tlrs = s.tlrs)) ∧
    (∀ dv pa s1, (s.descs.find? fun e => e.1 == key) = none → (s1.descs.find? fun e => e.1 == key) = none →
      s.engineXlate (.core core) ctx addr 0 .load = (.at (.peer dv pa), s1) →
      (s1.sk.reqs.any fun r => r.who == .desc key) = false →
      exec (.tlrFill core ctx addr) s =
        .next (s1.skSend { blankMsg with paddr := pa, dst := dv, size := 192, op := 0 } ctx addr (.desc key)).1) ∧
    ∀ bs, (s.descs.find? fun e => e.1 == key) = some (key, bs) →
      (bs ≠ [] → exec (.tlrFill core ctx addr) s = .next (recordIn s core ctx addr bs)) ∧
      (bs = [] → exec (.tlrFill core ctx addr) s = .next s)) ∧
  (∀ (s s1 : State) (cmd slot pa : Nat) (c : Copy) (mt : MemType), s.copy cmd = some c →
    s.pinEntry c slot = (.at (.mem mt pa), s1) →
    (c.units.contains slot = true → s.waits (.engine cmd (2 ^ 20 + slot)) = false → s1.physNat (pa + 6) 2 < 65535 →
      exec (.pdtPin cmd slot) s = .next ((s1.physWrite (pa + 6) 2 (s1.physNat (pa + 6) 2 + 1)).modCopy cmd fun c =>
        { c with pinned := c.pinned ++ [slot] })) ∧
    (c.pinned.contains slot = true → s.waits (.engine cmd (2 ^ 21 + slot)) = false →
      let u := (s1.physWrite (pa + 6) 2 (s1.physNat (pa + 6) 2 - 1)).modCopy cmd fun c =>
        { c with pinned := c.pinned.filter (· != slot) }
      exec (.pdtUnpin cmd slot) s = .next (match s1.kvPools.find? fun p => p.ctx == c.ctx && p.pdt == c.tlr.pdt with
        | some p => if s1.physNat (pa + 6) 2 = 1 ∧ pdtState (u.physNat pa 16) = 2 then
            u.pend (.pageFreePush c.ctx p.addr ((c.idxs[slot]?).join.getD 0)) else u
        | none => u))) ∧
  ∀ (s u : State) (ctx pool page : Nat), ((s.kvKnown ctx pool).map (·.raced)).getD false = false →
    s.waits (.engine (freeKey ctx pool) page) = false →
    (kvFreePage { ctx := ctx, core := 0 } pool page).run s = .ok ((), u) → exec (.pageFreePush ctx pool page) s = .next u

/-! ### Recruiting helpers (R289 to R309) -/

/-- R289, R290, R293: RECRUIT decides its grant by what was asked, the team's budget and the lanes and contexts free, in that
order, and writes it with its reason; with a grant it opens the recruitment, every chunk unclaimed and every helper at the
body. A warp whose recruitment is open is granted none, and so is one that asks for no iterations or too many chunks. -/
def Recruits : Prop :=
  (∀ (s : State) (i : Issue) (w : Warp) (t : Team) (d : BitVec 6) (b : BitVec 7) (n : BitVec 5) (l : Nat),
    s.ReadyT i w (regRange b.toNat 4) [] → i.view = none → s.teamOf i.warp = some t → s.leader i = some l →
    s.recruiter i = none → s.TargetsOk i w t [(s.rdV i l b.toNat).toNat] →
    let cnt := (s.rdV i l (b.toNat + 1)).toNat
    let c := (s.rdV i l (b.toNat + 2)).toNat
    (w.recruit.isSome = true → exec (.recruit d b n) s = .next (s.setS i.warp d.toNat 0x300)) ∧
    (w.recruit = none → (cnt = 0 ∨ c = 0 ∨ 64 * c < cnt) → exec (.recruit d b n) s = .next (s.setS i.warp d.toNat 0x400))) ∧
  ∀ (s : State) (i : Issue) (w : Warp) (t : Team) (d : BitVec 6) (b : BitVec 7) (n : BitVec 5) (l : Nat),
    s.ReadyT i w (regRange b.toNat 4) [] → i.view = none → s.teamOf i.warp = some t → s.leader i = some l →
    w.recruit = none → t.vals.det = false → s.m.tbuf = [] →
    let body := (s.rdV i l b.toNat).toNat
    let cnt := (s.rdV i l (b.toNat + 1)).toNat
    let c := (s.rdV i l (b.toNat + 2)).toNat
    s.TargetsOk i w t [body] → 0 < cnt → 0 < c → cnt ≤ 64 * c →
    let cands := s.candidates i.warp w t
    let ll := min cands.length (s.freeContexts w.gs)
    let bb := t.vals.help - s.lentTo t
    let g := min n.toNat (min bb ll)
    let why := if g = n.toNat then 0 else if bb ≤ ll then 2 else 1
    let out := s.setS i.warp d.toNat (BitVec.ofNat 32 (256 * why + g))
    (g = 0 → exec (.recruit d b n) s = .next out) ∧
    (0 < g → ∃ u w' r, exec (.recruit d b n) s = .next u ∧ u.warp i.warp = some w' ∧ w'.recruit = some r ∧
      w'.sreg d.toNat = BitVec.ofNat 32 (256 * why + g) ∧ w'.threads = w.threads ∧ u.m = s.m ∧
      r.lane = l ∧ r.body = body ∧ r.n = cnt ∧ r.c = c ∧ r.helpers.length = g ∧ r.nextIdx = g % 2 ^ 32 ∧
      r.chunks = List.replicate ((cnt + c - 1) / c) { st := .unclaimed, slots := [0, 0, 0, 0] } ∧
      ∀ h ∈ r.helpers, h.st = .free ∧ h.pc = 12 * body ∧ h.flags = List.replicate 12 0 ∧ h.buf = [])

/-- The group is of helpers of an open recruitment, on no control core. -/
structure HelpersReady (s : State) (i : Issue) (w : Warp) (r : Recruit) : Prop where
  issuing : s.iss = some i
  helpers : i.kind = .helper
  view : i.view = none
  warp : s.warp i.warp = some w
  normal : w.kind = .normal
  open_ : w.recruit = some r

/-- R298: a helper that asks for a chunk takes the lowest one unclaimed: v64 its first iteration, v65 its count, p0 1; with
every chunk done v65 and p0 are 0; and else it waits. A helper that was waiting looks again at HCHUNK_WAKE. -/
def ChunksTaken : Prop :=
  (∀ (s : State) (i : Issue) (w : Warp) (r : Recruit), HelpersReady s i w r →
    (∀ l ∈ s.acting i, ∀ h, w.helper l = some h → ∀ c, h.st ≠ .chunk c) →
    exec .hchunk s = .next ((s.acting i).foldl (fun s l => s.takeChunk i.warp l) s)) ∧
  (∀ (s : State) (wk idx : Nat) (w : Warp) (h : Helper), s.warp wk = some w → w.helper idx = some h → h.st = .wait →
    exec (.hchunkWake wk idx) s = .next (s.takeChunk wk idx)) ∧
  ∀ (s : State) (wk idx : Nat) (w : Warp) (r : Recruit) (h : Helper), s.warp wk = some w → w.recruit = some r →
    w.helper idx = some h →
    let u := s.takeChunk wk idx
    (∀ c x, r.chunks[c]? = some x → x.st = .unclaimed → (∀ k y, k < c → r.chunks[k]? = some y → y.st ≠ .unclaimed) →
      ∃ w' r' h', u.warp wk = some w' ∧ w'.recruit = some r' ∧ w'.helper idx = some h' ∧ h'.st = .chunk c ∧
        h'.vreg 64 = BitVec.ofNat 32 (c * r.c) ∧ h'.vreg 65 = BitVec.ofNat 32 (min r.c (r.n - c * r.c)) ∧
        predBit h'.preds 0 = true ∧ r'.chunks = r.chunks.set c { x with st := .claimed idx } ∧ OnlyWarps s u) ∧
    ((∀ x ∈ r.chunks, x.st = .done) → ∃ w' h', u.warp wk = some w' ∧ w'.helper idx = some h' ∧ h'.vreg 65 = 0 ∧
      predBit h'.preds 0 = false ∧ h'.st = .free ∧ OnlyWarps s u) ∧
    ((∀ x ∈ r.chunks, x.st ≠ .unclaimed) → (∃ x ∈ r.chunks, x.st ≠ .done) → ∃ w', u.warp wk = some w' ∧
      w'.helper idx = some { h with st := .wait } ∧ OnlyWarps s u)

/-- R299 to R302: HREDUCE folds a helper's value into its chunk's slot; HCOMMIT publishes the helper's chunk buffer, and the
chunk is done; HEXIT ends the helper, whose loads in flight are discarded. -/
def ChunksDone : Prop :=
  (∀ (s : State) (i : Issue) (w : Warp) (rc : Recruit) (r : BitVec 7) (k : BitVec 2) (l c : Nat) (h : Helper) (ch : Chunk)
      (v : Word), HelpersReady s i w rc → r.toNat < 80 → s.acting i = [l] → w.helper l = some h → h.st = .chunk c →
    rc.chunks[c]? = some ch → ch.slots[k.toNat]? = some v →
    ∃ u w' rc', exec (.hreduce r k) s = .next u ∧ OnlyWarps s u ∧ u.warp i.warp = some w' ∧ w'.recruit = some rc' ∧
      { rc' with chunks := rc.chunks } = rc ∧ ∃ ch', rc'.chunks = rc.chunks.set c ch' ∧ ch'.st = ch.st ∧
        ch'.slots = ch.slots.set k.toNat (if rc.types.getLsbD k.toNat then v + s.rdV i l r.toNat
          else toF32 (sumExact .rne [f32 v, f32 (s.rdV i l r.toNat)]) .rne false)) ∧
  (∀ (s : State) (i : Issue) (w : Warp) (r : Recruit) (l c : Nat) (h : Helper), HelpersReady s i w r → s.acting i = [l] →
    w.helper l = some h → h.st = .chunk c →
    exec .hcommit s = .next ((((s.publish i.warp w h).modRecruit i.warp fun r =>
      { r with
        chunks := r.chunks.modify c fun x => { x with st := .done }
        helpers := r.helpers.map fun x => if x.idx = l then { x with st := .free, buf := [] } else x }).wakeHelpers
          i.warp).afterHelper i.warp)) ∧
  ∀ (s : State) (i : Issue) (w : Warp) (r : Recruit), HelpersReady s i w r →
    (∀ l ∈ s.acting i, ∀ h, w.helper l = some h → ∀ c, h.st ≠ .chunk c) →
    let u := (s.acting i).foldl (fun s l => s.dropHelper i.warp l) s
    (∀ o, o ∈ u.ops ↔ o ∈ s.ops ∧ ∀ l ∈ s.acting i, ¬(o.warp = i.warp ∧ o.helper = some l)) ∧
    exec .hexit s = .next ((u.modRecruit i.warp fun r =>
      { r with helpers := r.helpers.filter fun h => !(s.acting i).contains h.idx }).afterHelper i.warp)

/-- R303, R306: HJOIN has no effect in other threads than the recruiter; the recruiter waits there for the join condition, and
HJOIN_COMPLETE then closes the recruitment, the four registers taking the slots' folds in chunk order. -/
def Joins : Prop :=
  (∀ (s : State) (i : Issue) (w : Warp) (r : Recruit) (d : BitVec 7) (wr : BitVec 1), s.iss = some i → i.kind = .thread →
    s.regError i [] (if wr = 1 then regRange d.toNat 4 else []) = none → s.warp i.warp = some w → w.recruit = some r →
    (r.lane ∉ s.acting i → exec (.hjoin d wr) s = .next s) ∧
    (r.lane ∈ s.acting i → r.trap = none → exec (.hjoin d wr) s = .next ((s.modThread i.warp r.lane fun th =>
      { th with st := .blocked (.join (if wr = 1 then some d.toNat else none) (12 * i.p + 4 * i.slot)) }).joinTry i.warp))) ∧
  (∀ (s : State) (wk gpc : Nat) (d : Option Nat) (w : Warp) (r : Recruit) (th : Thread), s.warp wk = some w →
    w.recruit = some r → r.trap = none → w.threads[r.lane]? = some th → th.st = .blocked (.join d gpc) →
    (r.joined = false → exec (.hjoinComplete wk) s = .next s) ∧
    (r.joined = true → th.due = false → (∀ b ∈ s.m.tbuf, b.warp = wk → b.helper = none) →
      ∃ u w', exec (.hjoinComplete wk) s = .next u ∧ u.warp wk = some w' ∧ w'.recruit = none ∧
      w'.threads[r.lane]? = some { th with st := .runnable } ∧
      (∀ e k key, d = some e → k < 4 → w.vkey r.lane (e + k) = some key →
        (∀ j < 4, w.vkey r.lane (e + j) = some key → j = k) → tget u.reg.rf key = some (r.fold k)) ∧
      (d = none → u.reg = s.reg))) ∧
  ∀ (r : Recruit) (k : Nat), r.types.getLsbD k = true →
    r.fold k = (r.chunks.map fun c => c.slots.getD k 0).foldl (· + ·) 0

/-- R304: HELPER_REPLACEMENT lends one more lane to a recruitment that has lost its helpers before its chunks were done;
FORCED_RELEASE_RETURN takes a reclaimed lane from its recruitment. -/
def HelpersMove : Prop :=
  (∀ (s : State) (wk : Nat) (w : Warp) (t : Team) (r : Recruit) (x : Nat × Origin) (xs : List (Nat × Origin)),
    s.warp wk = some w → s.teamOf wk = some t → w.recruit = some r → r.helpers = [] → (∃ c ∈ r.chunks, c.st ≠ .done) →
    r.trap = none → s.candidates wk w t = x :: xs → 0 < s.freeContexts w.gs → s.lentTo t < t.vals.help →
    exec (.helperReplacement wk) s = .next (s.lend wk [x]) ∧
    ∃ w' r' h, (s.lend wk [x]).warp wk = some w' ∧ w'.recruit = some r' ∧ r'.helpers = [h] ∧ h.idx = r.nextIdx ∧
      h.slot = x.1 ∧ h.pc = 12 * r.body ∧ h.st = .free) ∧
  ∀ (s : State) (wk idx : Nat) (w : Warp) (h : Helper), s.warp wk = some w → w.helper idx = some h → h.st = .reclaim →
    let u := ((s.dropHelper wk idx).modRecruit wk fun r => { r with
      helpers := r.helpers.filter fun x => x.idx != idx }).afterHelper wk
    (∀ ow ol, h.origin = .parked ow ol → exec (.forcedReleaseReturn wk idx) s = .next (u.parkRelease ow)) ∧
    ((∀ ow ol, h.origin ≠ .parked ow ol) → exec (.forcedReleaseReturn wk idx) s = .next u)

end Sys2Proof.Claims

/-- Copy words put their command into the engine; its units move bytes; it completes to its target. (R189, R191, R192,
R193, R194, R195, R196, R198, R267)
Where the spec leaves a point open it rests on the model's choice or reading of log entries 24, 50, 100, 105, 109. -/
def Obligations.CopyWordsAndEngine : Prop :=
  Sys2Proof.Claims.CopyWords ∧
  Sys2Proof.Claims.CopyCommands ∧
  Sys2Proof.Claims.CopyHelpers

/-- RECRUIT decides its grant; helpers take, fold, commit and leave chunks. (R289, R290, R293, R298, R299, R300, R301,
R302) -/
def Obligations.RecruitmentAndChunks : Prop :=
  Sys2Proof.Claims.Recruits ∧
  Sys2Proof.Claims.ChunksTaken ∧
  Sys2Proof.Claims.ChunksDone

/-- HJOIN waits for the join and folds the slots in chunk order; helpers are added, reclaimed and sent home. (R303, R304)
Where the spec leaves a point open it rests on the model's choice or reading of log entry 48. -/
def Obligations.JoinsAndHelperMoves : Prop := Sys2Proof.Claims.Joins ∧ Sys2Proof.Claims.HelpersMove

namespace Sys2Proof.Claims

/-! ### The engines' words -/

/-- The leader `l` of a word that acts once on an engine may issue it: its registers are named, and neither its flag, nor
its counter operations, nor the commit token hold it (R193, R345, R373). -/
structure LeaderReady (s : State) (i : Issue) (w : Warp) (t : Team) (srcs dsts : List Nat) (l : Nat) (flag : Option Nat)
    (gate : Bool) : Prop where
  ready : s.ReadyT i w srcs dsts
  normal : w.kind = .normal
  view : i.view = none
  team : s.teamOf i.warp = some t
  leader : s.leader i = some l
  unheld : s.engHeld i flag [l] gate = false

/-- An engine's operation of the lanes `ls`. -/
def engineOp (wk : Nat) (ls : List Nat) (flag : Option Nat) (vd : List (Nat × Nat)) : Op :=
  { blankOp wk .engine with lanes := ls, flag := flag, vdests := vd }

/-- An aligned address in the global aperture. -/
def GlobalAt (a align : Nat) : Prop := a < 2 ^ 57 ∧ a % align = 0

/-- The release fences of the threads `ls` are met, which leaves `u`, in which the warp and its team are `v` and `t` (R212,
R215, R328). -/
def FencesMet (s : State) (i : Issue) (w : Warp) (ls : List Nat) (u : State) (v : Warp) (t : Team) : Prop :=
  s.relFences i w.core ls = (u, true) ∧ u.warp i.warp = some v ∧ u.teamOf i.warp = some t

/-- The lanes of a per-thread SWEEP word name rows of SW memory: `xs` is where they lie (R257). -/
def RowsAt (s : State) (i : Issue) (w : Warp) (t : Team) (x : Nat) (xs : List LaneAcc) (s1 : State) : Prop :=
  (∀ l ∈ s.acting i, pairV s i l x < 2 ^ 57) ∧
  s.locate w t .load ((s.acting i).map fun l => (l, pairV s i l x)) = (xs, [], false, s1) ∧
  ∀ y ∈ xs, ∃ pa, y.loc = .mem .sw pa

/-! ### The sweep (R233 to R259) -/

/-- R245, R249, R250, R257: the per-thread SWEEP words start one operation for their threads. SWQ sends one request for each
row, with its function and operands; SWURGE one activation; SWSTAT one look at each row. -/
def SweepRequests : Prop :=
  (∀ (s s0 s1 : State) (i : Issue) (w w0 : Warp) (t : Team) (x y : BitVec 7) (fsel : BitVec 1) (xs : List LaneAcc),
    s.ReadyT i w [x.toNat, x.toNat + 1, y.toNat, y.toNat + 1, y.toNat + 2] [] → w.kind = .normal → i.view = none →
    s.teamOf i.warp = some t → s.acting i ≠ [] → s.engHeld i (s.flagOf i (some fsel)) (s.acting i) true = false →
    FencesMet s i w (s.acting i) s0 w0 t → RowsAt s0 i w0 t x.toNat xs s1 → s1.stagingRoom (xs.map LaneAcc.row) = true →
    let fw (l : Nat) : Word := s1.rdV i l y.toNat
    (∀ l ∈ s.acting i, (fw l).toNat % 256 ≤ 12 ∧ (fw l).toNat < 512 ∧
      (256 ≤ (fw l).toNat → (fw l).toNat % 256 ≠ 5 ∧ (fw l).toNat % 256 ≠ 11 ∧ (fw l).toNat % 256 ≠ 12)) →
    let u := (s1.startOp (engineOp i.warp (s.acting i) (s.flagOf i (some fsel)) [])).2
    ∃ v, exec (.swq x y fsel) s = .next v ∧ v.m = s1.m ∧ v.ops = u.ops ∧
      v.sw.ops = s1.sw.ops ++ [SwOp.q s1.nextId (s.acting i).length] ∧
      ∃ shots, v.sw.shots = s1.sw.shots ++ shots ∧ shots.length = xs.length ∧ ∀ (k : Nat) (a : LaneAcc) (z : Shot),
        xs[k]? = some a → shots[k]? = some z →
        z.op = s1.nextId ∧ z.lane = a.lane ∧ z.row = a.row ∧ z.st = .sent ∧ z.func = (fw a.lane).toNat % 256 ∧
        z.lw16 = (fw a.lane).getLsbD 8 ∧ z.k0 = s1.rdV i a.lane (y.toNat + 1) ∧ z.k1 = s1.rdV i a.lane (y.toNat + 2) ∧
        .swqArrival z.id ∈ v.pending) ∧
  (∀ (s s0 s1 : State) (i : Issue) (w w0 : Warp) (t : Team) (x : BitVec 7) (fsel : BitVec 1) (xs : List LaneAcc),
    s.ReadyT i w [x.toNat, x.toNat + 1] [] → w.kind = .normal → i.view = none → s.teamOf i.warp = some t →
    s.acting i ≠ [] → s.engHeld i (s.flagOf i (some fsel)) (s.acting i) true = false →
    FencesMet s i w (s.acting i) s0 w0 t → RowsAt s0 i w0 t x.toNat xs s1 →
    ∃ v, exec (.swurge x fsel) s = .next v ∧ v.m = s1.m ∧
      v.sw.ops = s1.sw.ops ++ [SwOp.urge s1.nextId (s.acting i).length] ∧
      ∃ es, v.sw.bankq = s1.sw.bankq ++ es ∧ es.length = xs.length ∧ ∀ (k : Nat) (a : LaneAcc) (z : QEnt),
        xs[k]? = some a → es[k]? = some z →
        z.pa = a.row * 1024 ∧ z.act = .urge s1.nextId a.lane ∧ .swurgeActivation z.id ∈ v.pending) ∧
  (∀ (s s0 s1 : State) (i : Issue) (w w0 : Warp) (t : Team) (x d : BitVec 7) (fsel : BitVec 1) (xs : List LaneAcc),
    s.ReadyT i w [x.toNat, x.toNat + 1] (regRange d.toNat 3) → w.kind = .normal → i.view = none →
    s.teamOf i.warp = some t → s.acting i ≠ [] → s.engHeld i (s.flagOf i (some fsel)) (s.acting i) false = false →
    FencesMet s i w (s.acting i) s0 w0 t → RowsAt s0 i w0 t x.toNat xs s1 →
    let u := (s1.startOp (engineOp i.warp (s.acting i) (s.flagOf i (some fsel))
      ((s.acting i).flatMap fun l => (regRange d.toNat 3).map fun r => (l, r)))).2
    exec (.swstat x d fsel) s = .next { u with
      sw := { u.sw with ops := u.sw.ops ++ [SwOp.stat s1.nextId d.toNat (xs.map fun (a : LaneAcc) => (a.lane, a.row))] }
      pending := u.pending ++ (s.acting i).map fun l => .swstatSnapshot s1.nextId l })

/-- R242, R243, R256, R258: SWREG, whose descriptor has been read and passes, starts the registration of its region under the
lowest free handle; SWDEREG of a registered region of the context starts its leaving; SWLIVE over SW granules starts their
change. -/
def SweepRegions : Prop :=
  (∀ (s s0 : State) (i : Issue) (w w0 : Warp) (t : Team) (x d : BitVec 7) (fsel : BitVec 1) (l h : Nat)
      (e : Nat × List Byte),
    LeaderReady s i w t [x.toNat, x.toNat + 1] [d.toNat] l (s.flagOf i (some fsel)) true →
    FencesMet s i w w.lanes s0 w0 t →
    let a := pairV s0 i l x.toNat
    GlobalAt a 64 → (s0.descs.find? fun e => e.1 == (i.warp * 128 + l) * 2 ^ 64 + a) = some e → e.2 ≠ [] →
    let v := leNat e.2
    let u : State := { s0 with descs := s0.descs.filter fun y => y.1 != (i.warp * 128 + l) * 2 ^ 64 + a }
    regionBad v = none → bits v 103 96 ≤ 12 → fnWidthOk (bits v 103 96) (v.testBit 104) = true →
    u.regionOverlap t.ctx (bits v 63 0) (bits v 95 64) = false → u.freeHandle = some h →
    exec (.swreg x d fsel) s = .next (u.register i w0 t.ctx t.twcb l d.toNat h v (s.flagOf i (some fsel)))) ∧
  (∀ (s : State) (i : Issue) (w : Warp) (ctx wcb l d h v : Nat) (flag : Option Nat), ∃ r : Region,
    (s.register i w ctx wcb l d h v flag).sw.regions = s.sw.regions ++ [r] ∧ r.handle = h ∧ r.ctx = ctx ∧
    r.base = v % 2 ^ 64 ∧ r.rows = v / 2 ^ 64 % 2 ^ 32 ∧ r.func = v / 2 ^ 96 % 2 ^ 8 ∧ r.lw16 = v.testBit 104 ∧
    r.k0.toNat = v / 2 ^ 128 % 2 ^ 32 ∧ r.k1.toNat = v / 2 ^ 160 % 2 ^ 32 ∧ r.period = v / 2 ^ 105 % 4 ∧ r.arrived = [] ∧
    .swregComplete s.nextId ∈ (s.register i w ctx wcb l d h v flag).pending) ∧
  (∀ (s s0 : State) (i : Issue) (w w0 : Warp) (t : Team) (h : BitVec 7) (fsel : BitVec 1) (l : Nat) (r : Region),
    LeaderReady s i w t [h.toNat] [] l (s.flagOf i (some fsel)) true → FencesMet s i w w.lanes s0 w0 t →
    s0.region (s0.rdV i l h.toNat).toNat = some r →
    (r.st = .registered ∧ r.ctx = t.ctx →
      let u := (s0.startOp (engineOp i.warp [l] (s.flagOf i (some fsel)) [])).2
      exec (.swdereg h fsel) s = .next (State.deregister { u with
        sw := { u.sw with ops := u.sw.ops ++ [SwOp.dereg s0.nextId r.handle] } } r)) ∧
    ((r.st ≠ .registered ∨ r.ctx ≠ t.ctx) → exec (.swdereg h fsel) s = .next (s0.raise 0x12 [l] 0 0x26))) ∧
  ∀ (s s0 s1 : State) (i : Issue) (w w0 : Warp) (t : Team) (x n : BitVec 7) (fsel : BitVec 1) (l : Nat) (alive : Bool)
      (word : Instr), (word, alive) = (Instr.swliveDead x n fsel, false) ∨ (word, alive) = (Instr.swliveLive x n fsel, true) →
    LeaderReady s i w t [x.toNat, x.toNat + 1, n.toNat] [] l (s.flagOf i (some fsel)) true →
    FencesMet s i w w.lanes s0 w0 t →
    let a := pairV s0 i l x.toNat
    let cnt := (s0.rdV i l n.toNat).toNat
    a % 65536 = 0 → 0 < cnt → cnt ≤ 2 ^ 20 → a + 65536 * cnt ≤ 2 ^ 57 →
    (List.range cnt).foldl (fun (p : Bool × State) k =>
      match p.2.engineXlate (.core w0.core) t.ctx (a + 65536 * k) l .store with
      | (.at (.mem .sw _), s) => (p.1, s)
      | (.at _, s) => (true, s)
      | (_, s) => (p.1, s)) (false, s0) = (false, s1) →
    let u := (s1.startOp (engineOp i.warp [l] (s.flagOf i (some fsel)) [])).2
    exec word s = .next { u with
      sw := { u.sw with ops := u.sw.ops ++ [SwOp.live s1.nextId alive (List.range cnt) t.ctx a w0.core t.twcb] }
      pending := u.pending ++ (List.range cnt).map fun k => .swliveArrive s1.nextId k }

/-- R216, R217, R238, R246, R249, R250, R330: the banks' steps. SERVE performs the oldest entry of a row: a read brings the row's
bytes to its operation, a write stores them; SWURGE_ACTIVATION is such an entry, SWQ_ARRIVAL puts a request into its row's
list, SWSTAT_SNAPSHOT brings the row's three words to the lane's registers, and RESTORE refreshes the row at the sweep
position and moves on, at the end of a slice that the bank stands in, and in increasing bank number of the channel; it ends
the slices of its channel. -/
def BankSteps : Prop :=
  (∀ (s : State) (e : QEnt), (s.sw.bankq.find? fun x => x.id == e.id) = some e → s.oldestEnt (e.pa / 1024) = some e →
    exec (.serve e.id) s = .next (s.serveEnt e) ∧
    ((∀ x ∈ s.sw.shots, x.st = .sent → x.row = e.pa / 1024 → e.id ≤ x.id) →
      exec (.swurgeActivation e.id) s = .next (s.serveEnt e))) ∧
  (∀ (s : State) (e f : QEnt), (s.sw.bankq.find? fun x => x.id == e.id) = some e → s.oldestEnt (e.pa / 1024) = some f →
    f.id ≠ e.id → exec (.serve e.id) s = .next (s.pend (.serve e.id))) ∧
  (∀ (s : State) (e : QEnt) (data : List Byte), e.act = .write data → s.liveRow (e.pa / 1024) = true → s.m.ue = [] →
    s.sw.shots = [] → s.memOk = true →
    (∀ k < data.length, some (mget (s.serveEnt e).m.mem (e.pa + k)) = data[k]?) ∧
    ∀ a, a < e.pa ∨ e.pa + data.length ≤ a → mget (s.serveEnt e).m.mem a = mget s.m.mem a) ∧
  (∀ (s : State) (e : QEnt), s.liveRow (e.pa / 1024) = false →
    let u : State := { s with sw := { s.sw with bankq := s.sw.bankq.filter fun x => x.id != e.id } }
    (∀ data, e.act = .write data → s.serveEnt e = u.millRecord 1 (e.pa / 1024) e.who) ∧
    ∀ op lane, e.act = .read op lane → s.serveEnt e = u.fillPart op lane (List.replicate e.len 0) false) ∧
  (∀ (s : State) (x : Shot), (s.sw.shots.find? fun y => y.id == x.id) = some x → x.st = .sent →
    ((s.sw.shots.find? fun y => y.st == .sent && y.op == x.op && y.row == x.row).map (·.id)) = some x.id →
    s.bankShots (rowBank x.row) < 32 → (∀ y ∈ s.sw.shots, y.st = .staged → rowBank y.row ≠ rowBank x.row) →
    s.liveRow x.row = true → (∀ e ∈ s.sw.bankq, e.pa / 1024 = x.row → x.id ≤ e.id) →
    ∃ t, exec (.swqArrival x.id) s = .next t ∧ t = { s with sw := { s.sw with shots := t.sw.shots } } ∧
      t.sw.shots = (s.sw.shots.filter fun y => y.id != x.id) ++ [{ x with st := .queued }]) ∧
  (∀ (s : State) (op lane d row : Nat) (rest : List SwOp) (o : Op), s.sw.ops = SwOp.stat op d [(lane, row)] :: rest →
    (∀ x ∈ rest, ∀ a b, x ≠ .stat op a b) → s.op op = some o →
    exec (.swstatSnapshot op lane) s = .next (State.endOp { (s.landWords o lane d (s.rowStatus row)) with
      sw := { (s.landWords o lane d (s.rowStatus row)).sw with ops := rest } } op)) ∧
  (∀ (s : State) (bank cls : Nat), bank < 8192 → cls < 4 → s.present (bankRow bank 0 * 1024) = true →
    let waits : Prop := s.midSlice bank = true ∨
      ∃ b c, .restore b c ∈ s.pending ∧ b < bank ∧ bankChannel b = bankChannel bank
    (¬ waits → exec (.restore bank cls) s = .next ((s.endSlices bank).refresh bank cls) ∧
      ∀ c ∈ (s.endSlices bank).nms, ∀ e ∈ c.slices, bankChannel e.1 ≠ bankChannel bank) ∧
    (waits → .restore bank cls ∉ s.pending → exec (.restore bank cls) s = .next (s.pend (.restore bank cls)))) ∧
  (∀ (s : State) (bank cls r : Nat), bank < 8192 → cls < 4 → (s.sweepPos bank cls).begun = true →
    s.nextOfClass bank cls 65536 (s.sweepPos bank cls).next = some r →
    let u := s.restoreRow (bankRow bank r) true none
    s.refresh bank cls = { u with sw := { u.sw with
      pos := tset u.sw.pos (bank * 4 + cls) { pass := (s.sweepPos bank cls).pass, next := r + 1, begun := true } } }) ∧
  (∀ (s : State) (bank cls r : Nat), bank < 8192 → cls < 4 → (s.sweepPos bank cls).begun = true →
    s.nextOfClass bank cls 65536 (s.sweepPos bank cls).next = none →
    ((s.endPass bank cls).beginPass bank cls).nextOfClass bank cls 65536 0 = some r →
    (s.refresh bank cls).sweepPos bank cls = { pass := (s.sweepPos bank cls).pass + 1, next := r + 1, begun := true }) ∧
  ∀ (s : State) (bank cls : Nat), bank < 8192 → cls < 4 → (s.sweepPos bank cls).begun = false →
    (s.beginPass bank cls).nextOfClass bank cls 65536 (s.sweepPos bank cls).next = none →
    (s.beginPass bank cls).holdsClass bank cls 65536 = true →
    ((s.refresh bank cls).sweepPos bank cls).pass = (s.sweepPos bank cls).pass + 1

/-- R240, R241: the restore functions on one 32-bit lane, and the checksum of CRC-32C's standard check value. -/
def SweepFunctions : Prop :=
  (∀ k x : Word, fnLane 1 32 k.toNat 0 x.toNat = (x + k).toNat ∧ fnLane 3 32 k.toNat 0 x.toNat = x.toNat - k.toNat ∧
    fnLane 8 32 k.toNat 0 x.toNat = k.toNat ∧ fnLane 9 32 k.toNat 0 x.toNat = (x ^^^ k).toNat ∧
    fnLane 10 32 k.toNat 0 x.toNat = (x &&& k).toNat ∧
    (BitVec.ofNat 32 (fnLane 2 32 k.toNat 0 x.toNat)).toInt = max (-2 ^ 31) (min (2 ^ 31 - 1) (x.toInt + k.toInt)) ∧
    (BitVec.ofNat 32 (fnLane 4 32 k.toNat 0 x.toNat)).toInt = x.toInt / 2 ^ (k.toNat % 32)) ∧
  crcRow ([0x31, 0x32, 0x33, 0x34, 0x35, 0x36, 0x37, 0x38, 0x39] : List Byte) = 0xE3069283

/-- R237, R243, R244, R251, R256, R258, R421: the sweep's other events. A registration and a deregistration reach the banks one
by one and complete with the last; a granule that goes dead or comes to life reads zero after it; a descriptor is read for
the held group; the scrubber restores a row; thresholds and errors are noted. -/
def SweepEvents : Prop :=
  (∀ (s : State) (h bank : Nat) (r : Region), s.sw.regions = [r] → r.handle = h → r.st = .registering → bank ∉ r.arrived →
    (∀ e ∈ s.sw.bankq, rowBank (e.pa / 1024) = bank → r.op ≤ e.id) →
    exec (.sweepRegArrive h bank) s = .next { s with
      sw := { s.sw with regions := [{ r with arrived := r.arrived ++ [bank] }] } }) ∧
  (∀ (s : State) (op lane d core wcb : Nat) (rest : List SwOp) (r : Region),
    s.sw.ops = SwOp.reg op r.handle lane d core wcb :: rest → s.region r.handle = some r →
    (r.base + 1024 * r.rows - 1) / 65536 - r.base / 65536 + 1 ≤ r.pages.length → (∀ b ∈ r.banks, b ∈ r.arrived) →
    exec (.swregComplete op) s = .next ((s.modRegion r.handle fun r => { r with st := .registered }).swregEnd op lane d
      r.handle)) ∧
  (∀ (s : State) (bank : Nat) (r : Region), s.region r.handle = some r → r.st = .leaving → bank ∉ r.left →
    (∃ b ∈ r.banks, b ∉ r.left ∧ b ≠ bank) →
    exec (.sweepDeregArrive r.handle bank) s =
      .next (s.modRegion r.handle fun x => { x with left := r.left ++ [bank] })) ∧
  (∀ (s : State) (r : Region) (bank op : Nat), s.sw.regions = [r] → r.st = .leaving → bank ∉ r.left →
    (∀ b ∈ r.banks, b ∈ r.left ∨ b = bank) → s.sw.ops = [SwOp.dereg op r.handle] →
    ∃ u, exec (.sweepDeregArrive r.handle bank) s = .next u ∧ u.sw.regions = [] ∧ u.sw.ops = [] ∧
      u.ops = (s.ops.filter fun o => o.id != op)) ∧
  (∀ (s : State) (key : Nat), exec (.swregDescriptorRead key) s = .next (s.readDesc key 64 false) ∧
    exec (.nmcDescriptorRead key) s = .next (s.readDesc key 64 true)) ∧
  (∀ (s s1 : State) (op g ctx va core wcb pa : Nat) (alive : Bool) (rest : List SwOp),
    s.sw.ops = SwOp.live op alive [g] ctx va core wcb :: rest → s.waits (.engine op g) = false →
    s.engineXlate (.core core) ctx (va + 65536 * g) 0 .store = (.at (.mem .sw pa), s1) →
    exec (.swliveArrive op g) s = .next ((((s1.setLive (pa / 65536) alive).dropSwOp op).endOp op).clearFailed op)) ∧
  (∀ (s : State) (g : Nat), s.sw.bankq = [] → s.sw.shots = [] →
    (∀ a, a / 65536 = g → s.sw.dead.contains g = false → mget (s.setLive g false).m.mem a = 0) ∧
    (∀ a, a / 65536 = g → s.sw.dead.contains g = true → mget (s.setLive g true).m.mem a = 0 ∧
      (s.setLive g true).liveRow (a / 1024) = true)) ∧
  (∀ (s : State) (st : Nat), exec (.temperatureThreshold st true) s =
      .next { s with sw := { s.sw with hot := s.sw.hot.filter (· != st) ++ [st] } } ∧
    exec (.temperatureThreshold st false) s = .next { s with sw := { s.sw with hot := s.sw.hot.filter (· != st) } }) ∧
  (∀ (s : State) (c : Nat), exec (.scrubEscalate c true) s =
      .next { s with mg := { s.mg with escalated := s.mg.escalated.filter (· != c) ++ [c] } } ∧
    exec (.scrubEscalate c false) s = .next { s with mg := { s.mg with escalated := s.mg.escalated.filter (· != c) } })

end Sys2Proof.Claims

/-- SWQ, SWURGE, SWSTAT, SWREG, SWDEREG and SWLIVE start their requests and regions. (R242, R243, R245, R249, R250, R256,
R257, R258)
Where the spec leaves a point open it rests on the model's choice or reading of log entries 26, 68, 85, 105, 111, 112. -/
def Obligations.SweepWords : Prop := Sys2Proof.Claims.SweepRequests ∧ Sys2Proof.Claims.SweepRegions

/-- Banks serve, restore and snapshot rows; restore functions and the checksum have their stated results. (R216, R217,
R238, R240, R241, R246, R249, R250, R330)
Where the spec leaves a point open it rests on the model's choice or reading of log entries 25, 68. -/
def Obligations.BankStepsAndRestoreFunctions : Prop := Sys2Proof.Claims.BankSteps ∧ Sys2Proof.Claims.SweepFunctions

/-- Registrations and deregistrations reach the banks one by one; granules change; temperatures and errors are noted.
(R237, R243, R244, R251, R256, R258, R421)
Where the spec leaves a point open it rests on the model's choice or reading of log entries 25, 26, 41, 68, 84, 85,
111, 112. -/
def Obligations.SweepRegionEvents : Prop := Sys2Proof.Claims.SweepEvents

namespace Sys2Proof.Claims

/-! ### The prefix engines (R263 to R280) -/

/-- The leader of a KV word may issue it: pairs even, no register beyond v127, nothing holds it. -/
def KvReady (s : State) (i : Issue) (w : Warp) (t : Team) (x z nz d n : Nat) (pairZ : Bool) (l : Nat) (fsel : BitVec 1) :
    Prop :=
  LeaderReady s i w t ([x, x + 1] ++ regRange z nz) (regRange d n) l (s.flagOf i (some fsel)) true ∧
  x % 2 = 0 ∧ (pairZ = true → z % 2 = 0) ∧ ∀ r ∈ [x, x + 1] ++ regRange z nz ++ regRange d n, r ≤ 127

/-- R274: the operation has been sent with these operands, after a release by its leader at device scope: it holds its result
registers, counts on its flag, and the engine of the field its pool lies in may perform it. -/
def KvSent (s : State) (i : Issue) (w : Warp) (t : Team) (l : Nat) (fsel : BitVec 1) (kind : KvKind)
    (addr arg n d : Nat) (data : List Byte) (v : State) : Prop :=
  let u := (s.release i.warp l w.core 6).1
  let o := engineOp i.warp [l] (s.flagOf i (some fsel)) ((regRange d (kind.results + 1)).map fun r => (l, r))
  v.m = u.m ∧ v.reg = u.reg ∧ v.ops = ((u.startOp o).2).ops ∧ v.warps = ((u.startOp o).2).warps ∧
  ∃ e : KvOp, v.kvq = u.kvq ++ [e] ∧ e.op = u.nextId ∧ e.kind = kind ∧ e.ctx = t.ctx ∧ e.core = w.core ∧
    e.warp = i.warp ∧ e.leader = l ∧ e.addr = addr ∧ e.arg = arg ∧ e.n = n ∧ e.d = d ∧ e.data = data ∧
    .kvEngineStep e.field ∈ v.pending

/-- R273, R274: the KV words send their operation, with the addresses and counts their registers hold and, for KAPPEND, the
scratchpad bytes as they are at issue. -/
def KvWords : Prop :=
  (∀ (s : State) (i : Issue) (w : Warp) (t : Team) (f : FmtKv) (l : Nat) (word : Instr) (kind : KvKind),
    (word, kind) ∈ [(Instr.pfxlook f, KvKind.look), (.pfxins f, .ins)] →
    let z := i.zReg f.z
    KvReady s i w t f.x.toNat z 3 f.d.toNat 3 true l f.fsel →
    let a := pairV s i l f.x.toNat
    let b := pairV s i l z
    let n := (s.rdV i l (z + 2)).toNat
    GlobalAt a 32 → GlobalAt b 4 → 0 < n → n ≤ 2 ^ 24 →
    ∃ v, exec word s = .next v ∧ KvSent s i w t l f.fsel kind a b n f.d.toNat [] v) ∧
  (∀ (s : State) (i : Issue) (w : Warp) (t : Team) (x d : BitVec 7) (fsel : BitVec 1) (l : Nat),
    KvReady s i w t x.toNat 0 0 d.toNat 2 false l fsel → GlobalAt (pairV s i l x.toNat) 32 →
    ∃ v, exec (.pfxrel x d fsel) s = .next v ∧ KvSent s i w t l fsel .rel (pairV s i l x.toNat) 0 0 d.toNat [] v) ∧
  (∀ (s : State) (i : Issue) (w : Warp) (t : Team) (f : FmtKv) (l : Nat),
    let z := i.zReg f.z
    KvReady s i w t f.x.toNat z 1 f.d.toNat 3 false l f.fsel →
    let a := pairV s i l f.x.toNat
    let n := (s.rdV i l z).toNat
    GlobalAt a 64 → 0 < n → n ≤ 2 ^ 24 →
    ∃ v, exec (.pfxevict f) s = .next v ∧ KvSent s i w t l f.fsel .evict a 0 n f.d.toNat [] v) ∧
  (∀ (s : State) (i : Issue) (w : Warp) (t : Team) (f : FmtKv) (l : Nat),
    let z := i.zReg f.z
    KvReady s i w t f.x.toNat z 3 f.d.toNat 2 true l f.fsel →
    let a := pairV s i l f.x.toNat
    let b := pairV s i l z
    GlobalAt a 32 → GlobalAt b 32 →
    ∃ v, exec (.kseq f) s = .next v ∧ KvSent s i w t l f.fsel .seq a b (s.rdV i l (z + 2)).toNat f.d.toNat [] v) ∧
  ∀ (s : State) (i : Issue) (w : Warp) (t : Team) (f : FmtKv) (l : Nat),
    let z := i.zReg f.z
    KvReady s i w t f.x.toNat z 2 f.d.toNat 4 false l f.fsel →
    let a := pairV s i l f.x.toNat
    let o := (s.rdV i l z).toNat
    let b := (s.rdV i l (z + 1)).toNat
    GlobalAt a 32 → b % 4 = 0 → 0 < b → b ≤ 65536 → spadFail t.vals.spbytes [(o, b)] = none →
    let p := s.postThread i.warp l none
    ∃ v, exec (.kappend f) s = .next v ∧
      KvSent p i w t l f.fsel .append a 0 0 f.d.toNat (p.spadBytes w.core (t.spbase + o) b) v

/-- R264, R272, R275, R349: KV_ENGINE_STEP attempts one of the field's operations that may go, at its pool's own engine; those of
one thread, and of one deterministic launch, go in order. It has all its effects, status 0 and its results; or none but its
status, 8 at an uncorrectable error, which is recorded; or, where a page faults, none, and it waits with the page's batch. A
write to a pool's structures while an instruction that names it is in flight leaves the pool undefined, and on such a pool the
results are open. -/
def KvSteps : Prop :=
  (∀ (s : State) (field : Nat) (o : KvOp),
    (s.kvq.filter fun o => o.field == field &&
      ((s.kvq.find? fun x => (x.warp == o.warp && x.leader == o.leader) ||
        ((s.detLaunch x.warp).isSome && s.detLaunch x.warp == s.detLaunch o.warp)).map (·.op)) == some o.op &&
      !s.waits (.engine o.op 0)) = [o] →
    exec (.kvEngineStep field) s = .next (s.kvServe o)) ∧
  (∀ (s : State) (o : KvOp),
    let pool := (s.poolOf o.kind o.ctx o.addr).getD o.pool
    let field := (s.poolField o.ctx pool).getD o.field
    let tabs := s.kvTabs o.kind o.ctx o.addr o.arg
    ((field ≠ o.field ∨ pool ≠ o.pool) → s.kvServe o = ({ s with
      kvq := s.kvq.map fun (x : KvOp) => if x.op = o.op then { x with field := field, pool := pool } else x }.kvMeet o.ctx pool
        tabs).pend (.kvEngineStep field)) ∧
    (field = o.field → pool = o.pool →
      (s.kvKnown o.ctx o.pool = none → s.kvServe o = (s.kvMeet o.ctx o.pool tabs).kvTry o) ∧
      (∀ p, s.kvKnown o.ctx o.pool = some p → p.raced = false → s.kvServe o = s.kvTry o) ∧
      ∀ p, s.kvKnown o.ctx o.pool = some p → p.raced = true → ∃ u n a b d, s.kvServe o =
        (State.kvEnd u o (Config.freeValue n).toNat
          [(Config.freeValue a).toNat, (Config.freeValue b).toNat, (Config.freeValue d).toNat]).clearFailed o.op)) ∧
  (∀ (s u : State) (o : KvOp) (rs : List Nat), (kvRun o).run s = .ok (rs, u) →
    s.kvTry o = (u.kvEnd o 0 rs).clearFailed o.op ∧ (s.kvTry o).m.mem = u.m.mem) ∧
  (∀ (s : State) (o : KvOp) (n : Nat), (kvRun o).run s = .error (.status n) →
    s.kvTry o = (s.kvEnd o n []).clearFailed o.op ∧ (s.kvTry o).m.mem = s.m.mem) ∧
  (∀ (s : State) (o : KvOp) (f : PageFault), (kvRun o).run s = .error (.fault f) →
    (s.engineFailed o.op 0 f = none →
      s.kvTry o = (s.engineFault o.ctx o.core 4 o.field o.wcb o.op 0 f).pend (.kvEngineStep o.field)) ∧
    ∀ r, s.engineFailed o.op 0 f = some r → s.kvTry o = (s.kvEnd o 7 []).clearFailed o.op) ∧
  (∀ (s : State) (o : KvOp) (pa va : Nat), (kvRun o).run s = .error (.ue pa va) →
    s.kvTry o = ((s.kvUe o.ctx o.field va o.wcb).kvEnd o 8 []).clearFailed o.op) ∧
  (∀ (s : State) (p : KvPool) (o : KvOp) (pa n : Nat), s.kvPools = [p] → p.addr < 2 ^ 64 → s.copies = [] →
    let hit : Prop := ∃ g ∈ p.segs ++ p.tabs, g.1 < pa + n ∧ pa < g.1 + g.2
    (o ∈ s.kvq → o.ctx = p.ctx → o.pool = p.addr → hit → p.raced = false →
      (s.kvRace pa n).kvKnown p.ctx p.addr = some { p with raced := true }) ∧
    (o ∈ s.kvq → o.ctx = p.ctx → o.pool = p.addr → ¬ hit → s.kvRace pa n = s) ∧
    (s.kvq = [] → p.raced = false → s.kvRace pa n = s) ∧
    (∀ a len rest, s.kvq = [] → p.raced = true → p.segs = (a, len) :: rest → a + 24 < pa + n → pa < a + 28 →
      (s.kvRace pa n).kvKnown p.ctx p.addr = some { p with raced := false })) ∧
  ∀ (s : State) (o : KvOp) (x : Op) (w : Warp) (n : Nat) (rs : List Nat), s.op o.op = some x → s.warp x.warp = some w →
    x.helper = none → w.kind = .normal → ((w.threads[o.leader]?).map Thread.live) = some true →
    (∀ r ∈ regRange o.d (o.kind.results + 1), (w.vkey o.leader r).isSome) →
    let v := s.kvEnd o n rs
    (∀ e ∈ v.kvq, e.op ≠ o.op) ∧ v.op o.op = none ∧
    ∀ k, k ≤ o.kind.results → ∃ y, tget v.reg.rf y = some (BitVec.ofNat 32 ((n :: rs).getD k 0)) ∧
      w.vkey o.leader (o.d + k) = some y

/-! ### Near-memory commands (R314 to R334) -/

/-- A row-step of a command may be taken: it is the next of its row, and the machine that takes it has marked the command
started. -/
def RowReady (s : State) (c : NmCmd) (row : Nat) (kind : NmKind) (s0 : State) : Prop :=
  (s.nms.find? fun d => d.id == c.id) = some c ∧ row ∈ c.todo ∧ c.kind = kind ∧ s.nmReady c row = true ∧
  s0 = s.modNm c.id fun c => { c with started := true }

/-- The Leat of row `row` finds physical row `r` of SW memory at `va`. -/
def RowAtVa (s : State) (c : NmCmd) (row va : Nat) (a : Access) (r : Nat) (u : State) : Prop :=
  va ≤ gapTop ∧ ∃ pa, s.engineXlate (.leat (s.nmLeat c row % 256)) c.ctx va 0 a = (.at (.mem .sw pa), u) ∧ pa / 1024 = r

/-- R331 to R334: NMC, whose descriptor has been read and passes, starts its command under the context's next tag; NMFENCE
waits for the warp's commands, or for nothing; NMSTAT reads a command's state from the log. -/
def NearMemoryWords : Prop :=
  (∀ (s s0 : State) (i : Issue) (w w0 : Warp) (t : Team) (a d : BitVec 7) (fsel : BitVec 1) (l : Nat)
      (e : Nat × List Byte) (x : Ctx),
    LeaderReady s i w t [a.toNat, a.toNat + 1] [d.toNat] l (s.flagOf i (some fsel)) true →
    (s.nms.filter fun c => c.ctx == t.ctx).length < 4096 → FencesMet s i w w.lanes s0 w0 t → tget s0.ctxs t.ctx = some x →
    let va := pairV s0 i l a.toNat
    GlobalAt va 64 → (s0.descs.find? fun e => e.1 == (i.warp * 128 + l) * 2 ^ 64 + va) = some e → e.2 ≠ [] →
    nmBad (leNat e.2) x.ctsize t.vals.dcwin = none → x.nexttag ≠ 0 →
    ∃ v, exec (.nmc a d fsel) s = .next v ∧ v.m = s0.m ∧
      v.nms = s0.nms ++ [{ nmCmdOf (leNat e.2) t w0 i l with
        id := s0.nextId, tag := x.nexttag, flag := s.flagOf i (some fsel) }] ∧
      (∃ y, w0.vkey l d.toNat = some y ∧ tget v.reg.rf y = some x.nexttag) ∧
      ∃ g ∈ v.nmLog, g.ctx = t.ctx ∧ g.tag = x.nexttag ∧ g.cmd = s0.nextId ∧ g.status = none) ∧
  (∀ (s : State) (i : Issue) (w : Warp) (t : Team) (fsel : BitVec 1) (l : Nat),
    LeaderReady s i w t [] [] l (s.flagOf i (some fsel)) false →
    let u := (s.startOp (engineOp i.warp [l] (s.flagOf i (some fsel)) [])).2
    let cs := (s.nms.filter fun c => c.warp == i.warp).map (·.id)
    exec (.nmfence fsel) s = .next (if cs = [] then (u.dropClean w.core).endOp s.nextId
      else { u with nmFences := u.nmFences ++ [(s.nextId, cs)] })) ∧
  (∀ (s : State) (i : Issue) (w : Warp) (t : Team) (a d : BitVec 7) (fsel : BitVec 1) (l : Nat),
    LeaderReady s i w t [a.toNat] [d.toNat, d.toNat + 1] l (s.flagOf i (some fsel)) false →
    let ws := s.nmStatus t.ctx (s.rdV i l a.toNat)
    exec (.nmstat a d fsel) s = .next ((s.setV i.warp l d.toNat (ws.getD 0 0)).setV i.warp l (d.toNat + 1) (ws.getD 1 0))) ∧
  (∀ (s : State) (ctx : Nat) (tag : Word) (e : NmLog), (s.nmLog.find? fun e => e.ctx == ctx && e.tag == tag) = some e →
    (e.status = some 0 → s.nmStatus ctx tag = [3, BitVec.ofNat 32 e.done]) ∧
    ∀ n, n ≠ 0 → e.status = some n → s.nmStatus ctx tag = [BitVec.ofNat 32 (4 + 256 * n), BitVec.ofNat 32 e.done]) ∧
  ∀ (s : State) (ctx : Nat) (tag : Word) (e : NmLog) (c : NmCmd), (s.nmLog.find? fun e => e.ctx == ctx && e.tag == tag) = some e →
    e.status = none → (s.nms.find? fun c => c.id == e.cmd) = some c → (∀ b ∈ s.tr.batches, b.waiters = []) → s.tr.slotWaits = [] →
    s.nmStatus ctx tag = [if c.started then 1 else 0, BitVec.ofNat 32 c.done]

/-- R256, R328, R332: the read of a descriptor for a held group whose release fences are met, on a page of the device's memory that
is translated, keeps its 64 bytes for the group: for SWREG the bytes at the home point, and for NMC with the bytes of the
leader's own stores that have not got there. -/
def DescriptorReads : Prop :=
  ∀ (s : State) (key pa : Nat) (w : Warp) (t : Team) (mt : MemType), s.warp (key / 2 ^ 64 / 128) = some w →
    s.teamOf (key / 2 ^ 64 / 128) = some t → s.fencesOf (key / 2 ^ 64 / 128) w.core w.lanes = (s, true) →
    (∀ e ∈ s.descs, e.1 ≠ key) → s.engineXlate (.core w.core) t.ctx (key % 2 ^ 64) 0 .load = (.at (.mem mt pa), s) → mt ≠ .sw →
    let a : Agent := { warp := key / 2 ^ 64 / 128, lane := key / 2 ^ 64 % 128, helper := none, core := w.core }
    exec (.swregDescriptorRead key) s = .next { s with descs := s.descs ++ [(key, s.homeBytes pa 64)] } ∧
    exec (.nmcDescriptorRead key) s = .next { s with
      descs := s.descs ++ [(key, s.ownBytes a (.mem mt pa) (s.homeBytes pa 64))] }

/-- The step at `va` finds the elements of the command's vector, from group `g` of 256 on, as `x`. -/
def VecAt (s : State) (c : NmCmd) (row va g n : Nat) (x : List Byte) (u : State) : Prop :=
  ∀ k, s.nmVec c row va g n k = k x false u

/-- R329: a part reads each group of the vector once and keeps it. -/
def VectorsAreKept : Prop :=
  ∀ (s : State) (c : NmCmd) (row va g : Nat) (b : List Byte),
    let key := s.nmLeat c row * 2 ^ 32 + g
    (tget c.vecs key = some (b, false) → VecAt s c row va g 1 b s) ∧
    ∀ u, tget c.vecs key = none → s.vecRead c (s.nmLeat c row) (c.aux0 + 1024 * g) 1024 = (.ok b false, u) →
      VecAt s c row va g 1 b (u.modNm c.id fun c => { c with vecs := tset c.vecs key (b, false) })

/-- R319 to R323, R326: a row-step that finds its row and its vectors has its effect: NM.GEMV adds a segment's products
to the row's sum and stores y_i after the last; NM.CSUM reads its matrix rows and writes checksum rows; NM.UPDATE, NM.FILL and
NM.COPY write their rows. -/
def RowSteps : Prop :=
  (∀ (s s0 s1 s2 s3 s4 : State) (c : NmCmd) (row seg r : Nat) (loc : Loc) (x w : List Byte),
    RowReady s c row .gemv s0 → c.seg row = seg → row < c.nrows →
    let va := c.stepVa row seg
    let out := c.aux1 + 4 * row
    out ≤ gapTop → s0.engineXlate (.leat (s0.nmLeat c row % 256)) c.ctx out 0 .store = (.at loc, s1) →
    (∀ pa, loc ≠ .mem .sw pa ∧ loc ≠ .mem .kvp pa) →
    VecAt s1 c row va (seg * c.cb) c.cb x s2 →
    RowAtVa s2 c row va .load r s3 → s3.stepRead r (c.ctx, va) = (some w, s4) →
    let y := gemvStep c.type (((tget c.prog row).map (·.2)).getD 0) w x
    exec (.nmGemv c.id row seg) s = .next ((if seg + 1 = c.kb then
        ((s4.nmPut c loc out y).modNm c.id fun c => { c with ys := tset c.ys row y }).nmAdvance c row y true
      else s4.nmAdvance c row y false).nmNext c.id)) ∧
  (∀ (s s0 s1 s2 : State) (c : NmCmd) (row seg r : Nat) (w : List Byte),
    RowReady s c row .csum s0 → c.seg row = seg → row < c.nrows → RowAtVa s0 c row (c.stepVa row seg) .load r s1 →
    s1.stepRead r (c.ctx, c.stepVa row seg) = (some w, s2) →
    exec (.nmCsum c.id row seg) s = .next (((s2.modNm c.id fun c =>
      { c with bytes := tset c.bytes (row * 64 + seg) w }).nmAdvance c row 0 (seg + 1 == c.kb)).nmNext c.id)) ∧
  (∀ (s s0 s1 s2 : State) (c : NmCmd) (row r : Nat) (g : List Byte), RowReady s c row .update s0 →
    let va := c.stepVa row 0
    VecAt s0 c row va (row * c.cb) c.cb g s1 →
    RowAtVa s1 c row va .store r s2 → (s2.serveRow r).rowUe r = [] →
    (s2.serveRow r).liveRow r = true →
    let q := s2.serveRow r
    exec (.nmUpdate c.id row) s = .next (((((q.setRow r (updateRow c.type c.k0 c.k1 g (q.rowBytes r))).restoreRow r false
      (some (c.ctx, va)))).nmAdvance c row 0 true).nmNext c.id)) ∧
  (∀ (s s0 s1 : State) (c : NmCmd) (row r : Nat), RowReady s c row .fill s0 → RowAtVa s0 c row (c.stepVa row 0) .store r s1 →
    exec (.nmFill c.id row) s = .next (((s1.stepWrite r (c.ctx, c.stepVa row 0)
      ((List.range 256).flatMap fun _ => leBytes 4 c.k0.toNat)).nmAdvance c row 0 true).nmNext c.id)) ∧
  (∀ (s s0 s1 s2 s3 : State) (c : NmCmd) (row r rd : Nat) (w : List Byte), RowReady s c row .copy s0 → c.seg row = 0 →
    RowAtVa s0 c row (c.stepVa row 1) .store rd s1 → RowAtVa s1 c row (c.stepVa row 0) .load r s2 →
    r / 2 ^ 26 = rd / 2 ^ 26 → s2.stepRead r (c.ctx, c.stepVa row 0) = (some w, s3) →
    exec (.nmCopy c.id row false) s = .next (((s3.modNm c.id fun c =>
      { c with bytes := tset c.bytes (row * 64) w }).nmAdvance c row 0 false).nmNext c.id)) ∧
  (∀ (s s0 s1 : State) (c : NmCmd) (row rd : Nat) (w : List Byte), RowReady s c row .copy s0 → c.seg row = 1 →
    tget c.bytes (row * 64) = some w → (c.stepVa row 1 < c.aux0 ∨ c.aux0 + 1024 * c.nrows ≤ c.stepVa row 1) →
    RowAtVa s0 c row (c.stepVa row 1) .store rd s1 →
    exec (.nmCopy c.id row true) s = .next ((((s1.stepWrite rd (c.ctx, c.stepVa row 1) w).modNm c.id fun c =>
      { c with bytes := terase c.bytes (row * 64) }).nmAdvance c row 0 true).nmNext c.id)) ∧
  ∀ (s : State) (r : Nat) (who : Nat × Nat) (bs : List Byte), s.memOk = true → s.liveRow r = true → s.sw.bankq = [] →
    s.sw.shots = [] → s.m.ue = [] → bs.length = 1024 →
    let v := s.stepWrite r who bs
    (∀ k < 1024, some (mget v.m.mem (1024 * r + k)) = bs[k]?) ∧
    ∀ a, a < 1024 * r ∨ 1024 * r + 1024 ≤ a → mget v.m.mem a = mget s.m.mem a

/-- R324, R325, R333: with no row left, and room for its event record, a command completes: it leaves the machine, the log
holds its status, a counter target is decremented, an event record is queued. -/
def CommandsComplete : Prop :=
  ∀ (s : State) (c : NmCmd) (x : Ctx), (s.nms.find? fun d => d.id == c.id) = some c → c.todo = [] →
    (s.sk.reqs.all fun r => match r.who with
      | .copy x _ => x != c.id
      | _ => true) = true →
    tget s.ctxs c.ctx = some x → x.state < 2 →
    (c.target.kind = 2 → ∃ k, tget s.cores (s.nmCore c) = some k ∧ k.evq.length < 256) →
    ∃ v, exec (.nmCommandComplete c.id) s = .next v ∧ (∀ d ∈ v.nms, d.id ≠ c.id) ∧
      (∀ e ∈ v.nmLog, e.cmd = c.id → e.status = some c.status) ∧ v.op c.id = none ∧
      (∀ f ∈ v.nmFences, c.id ∉ f.2) ∧
      (c.target.kind = 1 →
        .dcDecrement c.ctx c.target.entry (if c.status = 0 then 0 else BitVec.ofNat 16 (0x300 + c.status)) ∈ v.pending)

end Sys2Proof.Claims

/-- KV words send their operation; an engine step has all of an operation's effects, or none and a status. (R264, R272,
R273, R274, R275)
Where the spec leaves a point open it rests on the model's choice or reading of log entries 15, 28, 86, 90, 102. -/
def Obligations.PrefixWordsAndEngine : Prop := Sys2Proof.Claims.KvWords ∧ Sys2Proof.Claims.KvSteps

/-- NMC starts a command under the next tag, NMFENCE waits, NMSTAT reads the log; a command with no row left completes.
(R256, R324, R325, R328, R331, R332, R333, R334)
Where the spec leaves a point open it rests on the model's choice or reading of log entries 24, 27, 68, 72, 105. -/
def Obligations.NearMemoryWordsAndCompletion : Prop :=
  Sys2Proof.Claims.NearMemoryWords ∧
  Sys2Proof.Claims.DescriptorReads ∧
  Sys2Proof.Claims.CommandsComplete

/-- A row-step that finds its row and vectors has its command's effect on them. (R319, R320, R321, R322, R323, R326, R329)
Where the spec leaves a point open it rests on the model's choice or reading of log entry 101. -/
def Obligations.NearMemoryRowSteps : Prop := Sys2Proof.Claims.RowSteps ∧ Sys2Proof.Claims.VectorsAreKept

namespace Sys2Proof.Claims

/-! ### Launches, counters, event records (R355 to R374) -/

/-- The leader of a TASK word may issue it: with vector operands its registers are named and unheld, and it is no control
core's; with scalar ones that it writes no open recruitment holds them (R296); neither its flag, nor its counter operations, nor
the commit token hold it (R345, R372, R373). -/
structure TaskReady (s : State) (i : Issue) (w : Warp) (t : Team) (k : BitVec 1) (srcs dsts : List Nat) (l : Nat)
    (flag : Option Nat) : Prop where
  issuing : s.iss = some i
  threads : i.kind = .thread
  view : i.view = none
  warp : s.warp i.warp = some w
  team : s.teamOf i.warp = some t
  leader : s.leader i = some l
  unheld : s.engHeld i flag [l] true = false
  vectors : k = 0 → w.kind = .normal ∧ s.regError i srcs dsts = none ∧ s.recruitHeld i [l] dsts = false
  scalars : k = 1 → dsts ≠ [] → s.recruiter i = none

/-- s[n] or v[n] of the leader holds a word after `s`. -/
def Holds (s : State) (wk l : Nat) (k : BitVec 1) (n : Nat) (v : Word) : Prop :=
  if k = 1 then ∃ w, s.warp wk = some w ∧ tget w.sregs n = some v
  else ∃ w y, s.warp wk = some w ∧ w.vkey l n = some y ∧ tget s.reg.rf y = some v

/-- R360, R361, R373: LAUNCH of a task WCB that passes the checks makes a launch with the context's next number, which D
takes; of one that fails, a fault record and 0; while the context has no room, or launches that began to wait before it wait
for room, it waits its turn. -/
def LaunchWord : Prop :=
  ∀ (s : State) (i : Issue) (w : Warp) (t : Team) (a d : BitVec 7) (k : BitVec 1) (l : Nat) (x : Ctx),
    TaskReady s i w t k [a.toNat, a.toNat + 1] [d.toNat] l none → tget s.ctxs t.ctx = some x →
    let va := (s.rdK i k l (a.toNat + 1) ++ s.rdK i k l a.toNat).toNat
    let u := (s.release i.warp l w.core 6).1
    let me : WaitBy := .word i.warp l i.gpc
    GlobalAt va 256 →
    (∀ v, u.checkWcb t.ctx va true = .task v → (4096 ≤ u.liveLaunches t.ctx ∨ ∃ y ∈ u.launchAhead t.ctx me, y.inst = false) →
      exec (.launch a d k) s = .next (u.stallLaunch t.ctx
        { by_ := me, inst := false, wcb := va, dcstatus := 0, node := none, queue := none })) ∧
    (∀ v, u.checkWcb t.ctx va true = .task v → u.liveLaunches t.ctx < 4096 → (∀ y ∈ u.launchAhead t.ctx me, y.inst = true) →
      x.nextlaunch ≠ 0 →
      ∃ r, exec (.launch a d k) s = .next r ∧ Holds r i.warp l k d.toNat x.nextlaunch ∧
        ∃ n, tget r.launches u.nextId = some n ∧ n.ctx = t.ctx ∧ n.id = x.nextlaunch ∧ n.vals = v ∧ n.next = 0 ∧
          n.endedTeams = 0 ∧ n.triggered = 0 ∧ n.token = if v.det then some (0, 1) else none) ∧
    ∀ c, u.checkWcb t.ctx va true = .refused c → (∀ y ∈ x.waiting, y.by_ ≠ .held) →
      ∃ r, exec (.launch a d k) s = .next r ∧ Holds r i.warp l k d.toNat 0 ∧ r.launches = s.launches ∧
        let e : List Byte := FaultRec.bytes
          { kind := 2, src := 6, reason := c, sseq := (if x.recs = 0 then 1 else x.recs.toNat) } t.ctx
        (x.fqueue = [] → 0 < u.ringRoom x.fq → r.m.mem = (u.ringPut x.fq e).m.mem ∧
          (tget r.ctxs t.ctx).map (·.fqueue) = some []) ∧
        (x.fqueue = [] → u.ringRoom x.fq = 0 → (tget r.ctxs t.ctx).map (·.fqueue) = some [e])

/-- R365, R373: DCDEC, DCADD and TASKRDY perform one operation on the counter of their window slot, after a release for DCDEC
and TASKRDY; DC_DECREMENT performs one for the device. -/
def CounterWords : Prop :=
  (∀ (s : State) (i : Issue) (w : Warp) (t : Team) (f : FmtDc) (l : Nat) (x : Ctx),
    TaskReady s i w t f.k (if f.g = 1 then [f.m.toNat] else []) [] l none → tget s.ctxs t.ctx = some x →
    t.vals.dcwin + f.n.toNat < x.ctsize →
    let e := t.vals.dcwin + f.n.toNat
    let u := (s.release i.warp l w.core 6).1
    let r := (s.rdK i f.k l f.m.toNat).toNat
    exec (.dcdec f) s = .next (u.counter t.ctx e (.dec (if f.g = 1 then r % 65536 else 0))) ∧
    exec (.dcadd f) s = .next (s.counter t.ctx e (.add (if f.g = 1 then r else f.m.toNat))) ∧
    exec (.taskrdy f) s = .next (u.counter t.ctx e (.rdy (if f.g = 1 then r % 65536 else 0)))) ∧
  (∀ (s : State) (ctx entry : Nat) (status : BitVec 16),
    exec (.dcDecrement ctx entry status) s = .next (s.counter ctx entry (.dec status.toNat))) ∧
  (∀ (s : State) (c entry pa : Nat) (op : DcOp) (x : Ctx), tget s.ctxs c = some x →
    s.peekPa c (x.ctbase + 16 * entry) = some pa →
    let e := s.physNat pa 16
    s.counter c entry op = match (dcApply e op).2 with
      | none => s.physWrite pa 16 (dcApply e op).1
      | some st => (s.physWrite pa 16 (dcApply e op).1).ready c (e / 2 ^ 64) (BitVec.ofNat 32 st)) ∧
  ∀ (e : Nat), e < 2 ^ 128 →
    let count := e % 65536
    let arm := e / 2 ^ 16 % 65536
    let st := e / 2 ^ 32 % 65536
    let base := e - count - 2 ^ 32 * st
    let back := if e.testBit 49 then arm else 0
    (∀ x, x < 65536 →
      let st1 := if st = 0 then x else st
      dcApply e (.dec x) = if count = 0 then (base + 2 ^ 32 * (if st = 0 then 0xFF else st), none)
        else if count = 1 ∧ e / 2 ^ 64 ≠ 0 then (base + back, some st1) else (base + (count - 1) + 2 ^ 32 * st1, none)) ∧
    (∀ m, dcApply e (.add m) = if 65535 < count + m then (base + 65535 + 2 ^ 32 * (if st = 0 then 0xFE else st), none)
      else (base + (count + m) + 2 ^ 32 * st, none)) ∧
    ∀ x, x < 65536 → dcApply e (.rdy x) = (base + back, if e / 2 ^ 64 = 0 then none else some (if st = 0 then x else st))

/-- R195, R374: EVPOP takes the oldest record of its context from its core's queue into four registers: at once with TRY, zeros
when there is none; else when EVPOP_WAKE finds one. EVPUSH adds a record of four registers, with the context's number, its
source cleared and the core's next count. -/
def EventRecords : Prop :=
  (∀ (s : State) (i : Issue) (w : Warp) (t : Team) (d : BitVec 7) (k fsel : BitVec 1) (l : Nat) (core : Core),
    TaskReady s i w t k [] (regRange d.toNat 4) l (s.flagOf i (some fsel)) → tget s.cores w.core = some core →
    (k = 0 → ((w.threads[l]?).map Thread.live) = some true) →
    (∀ o ∈ s.ops, o.id < s.nextId) →
    let r := core.evq.find? fun r => r.ctx == t.ctx
    ∃ v, exec (.evpop d k 1 fsel) s = .next v ∧ v.ops = s.ops ∧
      (∀ j < 4, Holds v i.warp l k (d.toNat + j) (((r.map EvRec.words).getD [0, 0, 0, 0]).getD j 0)) ∧
      (tget v.cores w.core).map (·.evq) = some (match r with
        | some x => core.evq.erase x
        | none => core.evq)) ∧
  (∀ (s : State) (i : Issue) (w : Warp) (t : Team) (d : BitVec 7) (k fsel : BitVec 1) (l : Nat),
    TaskReady s i w t k [] (regRange d.toNat 4) l (s.flagOf i (some fsel)) →
    let regs := regRange d.toNat 4
    let o : Op := { engineOp i.warp [l] (s.flagOf i (some fsel)) (if k = 1 then [] else regs.map fun r => (l, r)) with
      sdests := if k = 1 then regs else [] }
    let u := (s.startOp o).2
    exec (.evpop d k 0 fsel) s = .next { u with
      evWaits := u.evWaits ++ [{ op := s.nextId, d := d.toNat, scalar := k == 1 }]
      pending := u.pending ++ [.evpopWake s.nextId] }) ∧
  (∀ (s : State) (op : Nat) (e : EvWait) (o : Op) (w : Warp) (core : Core), (s.evWaits.find? fun e => e.op == op) = some e →
    s.op op = some o → s.warp o.warp = some w → tget s.cores w.core = some core →
    match core.evq.find? fun r => r.ctx == s.ctxOf o.warp with
    | none => exec (.evpopWake op) s = .next (s.pend (.evpopWake op))
    | some r => exec (.evpopWake op) s = .next (State.evpopEnd { s.modCore w.core fun c => { c with evq := c.evq.erase r } with
        evWaits := s.evWaits.erase e } o w e.d e.scalar r.words)) ∧
  (∀ (s : State) (i : Issue) (w : Warp) (t : Team) (r : BitVec 7) (k : BitVec 1) (l : Nat) (core : Core),
    TaskReady s i w t k (regRange r.toNat 4) [] l none → tget s.cores w.core = some core → core.evq.length < 256 →
    let u := (s.release i.warp l w.core 6).1
    let x (n : Nat) : Nat := (s.rdK i k l (r.toNat + n)).toNat
    ∃ v, exec (.evpush r k) s = .next v ∧ v.m = u.m ∧ v.warps = u.warps ∧
      ∃ c e, tget v.cores w.core = some c ∧ c.evq = core.evq ++ [e] ∧ c.swSeq = core.swSeq + 1 ∧ e.ctx = t.ctx ∧
        e.words = [BitVec.ofNat 32 (core.swSeq + 1),
          BitVec.ofNat 32 (setBits (setBits (x 1) 5 0 t.ctx) 19 16 0), BitVec.ofNat 32 (x 2), BitVec.ofNat 32 (x 3)])

/-- R355, R356, R360, R361, R408: where no graph visit is due, the front end that has its turn consumes the entry at its queue's
head: its launch is made or refused, and QHEAD moves on; the record of a refusal names the entry's ring index. An entry whose
launch has no room waits, and holds back no other queue. A queue has an entry when HEAD is not the TAIL of its last doorbell; one
that another device or the host holds is asked for. -/
def FrontEnd : Prop :=
  (∀ (s s1 : State) (ctx q : Nat) (e : QueueEntry) (res : LaunchRes),
    (∀ g ∈ s.graphs, g.2.ctx = ctx → g.2.todo = []) → s.queueHead ctx q = some e → s.queueWaits ctx q e = false →
    let u := s.ringDrop ctx q e.head
    let next (u : State) : State := ((u.modCtx ctx fun x =>
      { x with nextq := (q + 1) % 8, waiting := x.waiting.filter fun w => w.by_ != .entry q e.head }).physWrite (e.pa + 204) 4
        ((e.head + 1) % 2 ^ 32)).pend (.frontEndLaunch ctx q)
    (e.bad = true → s.queueTurn ctx q = true → exec (.frontEndLaunch ctx q) s =
      .next (next (u.ctxRecord ctx { kind := 2, src := 6, reason := 3, wcb := e.qwcb, addr := e.idx }))) ∧
    (e.bad = false → (s.tryEntry ctx q e).1 = res →
      (∀ id, res = .made id → s.queueTurn ctx q = true → u.tryEntry ctx q e = (res, s1) →
        exec (.frontEndLaunch ctx q) s = .next (next s1)) ∧
      (res = .refused → s.queueTurn ctx q = true → u.tryEntry ctx q e = (res, s1) →
        exec (.frontEndLaunch ctx q) s = .next ((next s1).launchWaiting ctx)) ∧
      ∀ inst, res = .wait inst → exec (.frontEndLaunch ctx q) s = .next (s.enlist ctx
        { by_ := .entry q e.head, inst := inst, wcb := e.addr, dcstatus := 0, node := none, queue := none }))) ∧
  (∀ (s : State) (ctx q : Nat), (∀ g ∈ s.graphs, g.2.ctx = ctx → g.2.todo = []) → s.queueHead ctx q = none →
    exec (.frontEndLaunch ctx q) s = .next (s.ringAsk ctx q)) ∧
  (∀ (s : State) (ctx q a tail v : Nat) (x : Ctx), x.qwcb[q]? = some (a + 1) → x.qtail[q]? = some (some tail) →
    s.readWcb ctx (a + 1) = some v → v % 256 = 2 → (s.queueDue ctx x q = true ↔ v / 2 ^ 1632 % 2 ^ 32 ≠ tail)) ∧
  (∀ (s : State) (ctx q : Nat) (x : Ctx), x.qtail[q]? = some none → s.queueDue ctx x q = false) ∧
  ∀ (s : State) (ctx q r : Nat) (e : QueueEntry), s.checkWcb ctx e.addr true = .refused r →
    s.tryEntry ctx q e = (.refused, s.ctxRecord ctx { kind := 2, src := 6, reason := r, wcb := e.qwcb, addr := e.idx })

/-- R31, R36, R340, R366: the team that placement chooses is placed on its core, its warps' threads RUNNABLE at the launch's
entry; a deterministic launch is placed whole. -/
def TeamsPlaced : Prop :=
  (∀ (s : State) (k idx core first : Nat) (n : Launch), s.placement = some (k, idx, core, first) →
    tget s.launches k = some n → n.vals.det = false → s.readyTeam k n = some (idx, none) →
    ∃ v, exec (.teamPlace k idx core first) s = .next v ∧ (tget v.launches k).map (·.next) = some (idx + 1) ∧
      ∃ t, tget v.teams s.nextId = some t ∧ t.ctx = n.ctx ∧ t.launch = k ∧ t.idx = idx ∧ t.core = core ∧ t.first = first ∧
        t.vals = n.vals ∧ t.twcb = n.vals.teamwcb + 256 * idx) ∧
  (∀ (s : State) (k idx core first : Nat) (n : Launch), s.placement = some (k, idx, core, first) →
    tget s.launches k = some n → n.vals.det = true → s.tablesOk = true →
    ∃ u, s.placeAll k n = some u ∧ exec (.teamPlace k idx core first) s = .next u) ∧
  ∀ (s : State) (tk core : Nat) (v : TaskVals) (k : Nat) (place : Nat × Nat), 0 < v.w →
    let u := s.addWarp tk core v k place none false
    ∃ w, u.warp s.nextId = some w ∧ w.team = tk ∧ w.core = core ∧ w.sched = place.1 ∧ w.slot = place.2 ∧ w.k = k ∧
      w.threads.length = v.w ∧ w.sregs = [] ∧ w.cwin = v.args ∧
      ∀ th ∈ w.threads, th.st = .runnable ∧ th.pc = 12 * v.entry ∧ th.depth = 0 ∧ th.meet = 0 ∧ th.draws = 0

/-- R367, R368: TEAM_MOVE of a team that may move puts it on its new core. -/
def TeamsMoved : Prop :=
  ∀ (s : State) (tk core first : Nat) (t : Team) (n : Launch), s.team tk = some t → core ≠ t.core → s.movable t = true →
    tget s.launches t.launch = some n →
    let gone : State := { s with
      teams := terase s.teams tk
      warps := s.warps.filter fun e => e.2.team != tk
      ops := s.ops.filter fun o => ((s.warp o.warp).map (·.team)) != some tk
      mops := s.mops.filter fun m => m.team != tk
      resReqs := s.resReqs.filter fun r => ((s.warp r.warp).map (·.team)) != some tk }
    gone.coreFits t.launch t.vals core = true → (gone.placeFit t.vals core).map (·.1) = some first → n.vals = t.vals →
    ∃ v, exec (.teamMove tk core first) s = .next v ∧ (tk < s.nextId → tsorted s.teams = true → v.team tk = none) ∧
      ∃ e ∈ v.teams, e.2.launch = t.launch ∧ e.2.idx = t.idx ∧ e.2.core = core

/-- R142, R363, R394: WARP_END takes a warp whose threads have ended and whose operations have completed out of the machine, and
with its last warp its team: scratchpad and registers return, and the launch counts the end. With the last team of a context
that is being pre-empted the drain window opens. -/
def WarpsEnd : Prop :=
  (∀ (s : State) (wk : Nat) (w : Warp) (t : Team) (n : Launch) (x : Ctx), s.warp wk = some w → s.team w.team = some t →
    w.kind = .normal → w.liveLanes = [] → s.warpIdle wk = true → t.det = none → t.vals.det = false →
    tget s.launches t.launch = some n → n.trigSent = true → n.node = none → s.tablesOk = true →
    tget s.ctxs t.ctx = some x → x.state = 1 → x.goal ≠ 4 → x.draining = false → (∀ y ∈ t.warps, y = none ∨ y = some wk) →
    (∀ e ∈ s.teams, e.2.ctx = t.ctx → e.1 = w.team ∨ tget s.launches e.2.launch = none) →
    ∃ v, exec (.warpEnd wk) s = .next v ∧ .drainExpire t.ctx ∈ v.pending ∧
      (tget v.ctxs t.ctx).map (·.draining) = some true) ∧
  ∀ (s : State) (wk : Nat) (w : Warp) (t : Team) (n : Launch), s.warp wk = some w → s.team w.team = some t →
    w.kind = .normal → w.liveLanes = [] → s.warpIdle wk = true → t.det = none → t.vals.det = false →
    tget s.launches t.launch = some n → n.trigSent = true → s.tablesOk = true →
    (∀ x, tget s.ctxs t.ctx = some x → x.state ≠ 1) →
    ∃ v, exec (.warpEnd wk) s = .next v ∧ v.warp wk = none ∧
      ((∃ x ∈ t.warps, x ≠ none ∧ x ≠ some wk) →
        ∃ u, v.team w.team = some u ∧ tget u.ended w.k = some w.threads ∧ some wk ∉ u.warps) ∧
      ((∀ x ∈ t.warps, x = none ∨ x = some wk) → v.team w.team = none ∧
        (n.endedTeams + 1 ≠ n.vals.teams → (tget v.launches t.launch).map (·.endedTeams) = some (n.endedTeams + 1)) ∧
        (n.endedTeams + 1 = n.vals.teams → n.node = none → n.vals.donedc ≠ 0xFFFF_FFFF →
          .dcDecrement n.ctx n.vals.donedc 0 ∈ v.pending))

end Sys2Proof.Claims

/-- LAUNCH makes a launch or a fault record; the counter words send their operations, which act on the counter. (R360,
R361, R365, R372, R373)
Where the spec leaves a point open it rests on the model's choice or reading of log entries 15, 27, 40, 57. -/
def Obligations.LaunchAndCounterWords : Prop := Sys2Proof.Claims.LaunchWord ∧ Sys2Proof.Claims.CounterWords

/-- EVPOP takes the context's oldest event record or waits for one; EVPUSH adds one. (R195, R372, R373, R374)
Where the spec leaves a point open it rests on the model's choice or reading of log entries 15, 62. -/
def Obligations.EventRecordWords : Prop := Sys2Proof.Claims.EventRecords

/-- The front end consumes entries in turn; teams are placed and moved; ended warps leave. (R31, R36, R142, R340, R355,
R356, R360, R361, R363, R366, R367, R368)
Where the spec leaves a point open it rests on the model's choice or reading of log entries 27, 54, 57, 103. -/
def Obligations.LaunchesTeamsAndWarps : Prop :=
  Sys2Proof.Claims.FrontEnd ∧
  Sys2Proof.Claims.TeamsPlaced ∧
  Sys2Proof.Claims.TeamsMoved ∧
  Sys2Proof.Claims.WarpsEnd

namespace Sys2Proof.Claims

/-! ### Translation, faults, replays, migration (R376 to R393) -/

/-- R377 to R379: PAGE_WALK that ends at a leaf puts it into its unit's TLB and raises the leaf's heat; one that fails leaves
no entry. A TLB entry translates an access it permits, and faults with REASON 2 one it does not. -/
def Walks : Prop :=
  (∀ (s s1 : State) (u : XUnit) (ctx : Nat) (va : DWord) (acc : Access) (c : Ctx) (addr e lg : Nat),
    tget s.ctxs ctx = some c → s.present c.ptroot = true →
    s.walkFrom (unitField u) ctx va.toNat walkLevels c.ptroot = (.leaf addr e lg, s1) →
    s1.memOk = true → s1.unsettledOk = true →
    ∃ v, exec (.pageWalk u ctx va acc) s = .next v ∧
      { unit := u, ctx := ctx, base := va.toNat / 2 ^ lg * 2 ^ lg, lg := lg, leaf := BitVec.ofNat 64 e } ∈ v.tr.tlb ∧
      let lo := if acc = .load ∨ acc = .fetch then 28 else 30
      let old := s1.physNat addr 8
      v.physNat addr 8 = if e ≠ 0 ∧ old % 2 = 1 ∧ old / 2 ^ lo % 4 < 3 then old + 2 ^ lo else old) ∧
  (∀ (s s1 : State) (u : XUnit) (ctx : Nat) (va : DWord) (acc : Access) (c : Ctx) (r l g : Nat),
    tget s.ctxs ctx = some c → s.present c.ptroot = true →
    s.walkFrom (unitField u) ctx va.toNat walkLevels c.ptroot = (.fail r l g, s1) →
    exec (.pageWalk u ctx va acc) s = .next s1 ∧ s1.tr.tlb = s.tr.tlb ∧ s1.m = s.m) ∧
  (∀ (s : State) (u : XUnit) (ctx : Nat) (va : DWord) (acc : Access) (c : Ctx), tget s.ctxs ctx = some c →
    s.present c.ptroot = false → exec (.pageWalk u ctx va acc) s = .next s) ∧
  ∀ (s : State) (u : XUnit) (ctx va : Nat) (acc : Access) (e : TlbEnt),
    (s.tr.tlb.find? fun e => e.unit == u && e.ctx == ctx && e.base == va / 2 ^ e.lg * 2 ^ e.lg) = some e →
    let leaf := e.leaf.toNat
    let ok := e.leaf.getLsbD (match acc with | .load => 8 | .fetch => 10 | _ => 9)
    (ok = false → ∃ l, s.translate u ctx va acc = (.fault (2 + 256 * l) e.base e.lg, s)) ∧
    (ok = true → leaf / 2 ^ 13 % 8 = 0 → s.translate u ctx va acc =
      (.at (.mem .normal (leaf / 2 ^ 32 % 2 ^ 28 * 65536 + va % 2 ^ e.lg)), s)) ∧
    (ok = true → leaf / 2 ^ 13 % 8 = 1 → s.translate u ctx va acc =
      (.at (.mem .sw (leaf / 2 ^ 32 % 2 ^ 28 * 65536 + va % 2 ^ e.lg)), s))

/-- R382, R383: RUNAHEAD_END drops the speculative copies and sends the batch; the warp waits at its faulting group.
BATCH_OPEN_DEFERRED sends a batch for which there is room: its records, one a page, go to the ring. -/
def Batches : Prop :=
  (∀ (s : State) (wk : Nat) (w : Warp) (a : Ahead), s.warp wk = some w → w.fault = .ahead a →
    exec (.runaheadEnd wk) s = .next ((s.modWarp wk fun w => { w with fault := .waiting a.lanes [a.batch] }).sendBatch a.batch)) ∧
  (∀ (s : State) (core : Nat), s.tr.slotWaits = [] →
    exec (.batchOpenDeferred core) s = .next ((s.tr.batches.filter fun b =>
      b.core == core && !b.sent && s.batchClosed b.id).foldl (fun s b => s.sendBatch b.id) s)) ∧
  ∀ (s : State) (b : Batch) (c : Ctx), (s.tr.batches.find? fun x => x.id == b.id) = some b → b.sent = false →
    tget s.ctxs b.ctx = some c → c.fpages + b.pages.length ≤ 4096 → b.pages.length ≤ s.ringRoom c.fq → c.fqueue = [] →
    let v := s.sendBatch b.id
    (∀ x ∈ v.tr.batches, x.id = b.id → x.sent = true) ∧
    (tget v.ctxs b.ctx).map (·.fpages) = some (c.fpages + b.pages.length) ∧
    v = ((s.batchRecords b).1.foldl (fun s r => s.faultRecord b.ctx r)
      (((s.batchRecords b).2.modBatch b.id fun b => { b with sent := true }).modCtx b.ctx fun c =>
        { c with fpages := c.fpages + b.pages.length }))

/-- The record that takes effect next in context `c` is `r`, and its event is `kind` (R388, R389). -/
def Due (s : State) (c : Nat) (kind : Instr) (x : Ctx) (r : Replay) : Prop :=
  tget s.ctxs c = some x ∧ x.dueReplay = some r ∧ (x.state = 0 ∨ x.state = 3) ∧ r.event c = kind

/-- R388, R389, R390: RDOOR moves RTAIL; the ring's records enter the buffer, where each waits for its generation; PTWDATA is
stored as any host write of the function, and PTGEN counts once no host write of it is on its way to a row. -/
def Replays : Prop :=
  (∀ (s : State) (c : Nat) (v : Word) (x : Ctx), tget s.ctxs c = some x → x.state ≠ 6 →
    exec (.replayDoorbell c v) s = .next ((s.physWrite (x.fq + 40) 4 v.toNat).pend (.replayConsume c))) ∧
  (∀ (s : State) (c : Nat) (x : Ctx), tget s.ctxs c = some x → x.state = 0 → x.replays.length < 64 →
    let head := s.physNat (x.fq + 44) 4
    head ≠ s.physNat (x.fq + 40) 4 →
    ∃ v, exec (.replayConsume c) s = .next v ∧
      (tget v.ctxs c).map (·.replays) = some (x.replays ++
        [replayOf c (s.physNat (s.physNat (x.fq + 24) 8 + 32 * (head % 2 ^ s.physNat (x.fq + 39) 1)) 32)]) ∧
      .replayConsume c ∈ v.pending) ∧
  (∀ (c : Ctx) (r : Replay), c.dueReplay = some r →
    ¬(1 ≤ (r.gen.toNat + 2 ^ 32 - c.ptgen.toNat) % 2 ^ 32 ∧ (r.gen.toNat + 2 ^ 32 - c.ptgen.toNat) % 2 ^ 32 ≤ 2 ^ 31 - 1) ∧
    ∃ a b, c.replays = a ++ r :: b ∧ ∀ q ∈ a, 1 ≤ (q.gen.toNat + 2 ^ 32 - c.ptgen.toNat) % 2 ^ 32 ∧
      (q.gen.toNat + 2 ^ 32 - c.ptgen.toNat) % 2 ^ 32 ≤ 2 ^ 31 - 1) ∧
  (∀ (s : State) (c : Nat) (v : DWord) (x : Ctx), tget s.ctxs c = some x → s.present (x.ptwaddr.toNat / 8 * 8) = true →
    exec (.ptwdataWrite c v) s =
      .next ((s.outsideWrite (some c) (x.ptwaddr.toNat / 8 * 8) (leBytes 8 v.toNat) true).pend (.ptgenIncrement c))) ∧
  (∀ (s : State) (a n v : Nat), s.memOk = true → s.unsettledOk = true → v < 256 ^ n → (s.physWrite a n v).physNat a n = v) ∧
  ∀ (s : State) (c : Nat),
    (s.hostWrites c = false →
      exec (.ptgenIncrement c) s = .next ((s.modCtx c fun x => { x with ptgen := x.ptgen + 1 }).pendReplay c)) ∧
    (s.hostWrites c = true → exec (.ptgenIncrement c) s = .next (s.pend (.ptgenIncrement c)))

/-- R388: a retry invalidates its batch's pages and releases every waiter, with the pages its mask names marked; the
invalidate actions drop the translations they name; a record without an outstanding batch is ignored. -/
def ReplayActions : Prop :=
  (∀ (s : State) (c : Nat) (x : Ctx) (r : Replay) (b : Batch), Due s c (.replayRetry c) x r → r.rsvd = false → r.action = 1 →
    (s.tr.batches.find? fun b => b.ctx == c && b.sent && b.bseq == r.bseq) = some b →
    exec (.replayRetry c) s = .next (((s.dropReplay c r).retryBatch c b r).pendReplay c)) ∧
  (∀ (s : State) (c : Nat) (x : Ctx) (r : Replay), Due s c (.replayRetry c) x r → r.rsvd = false → r.action = 1 →
    (s.tr.batches.find? fun b => b.ctx == c && b.sent && b.bseq == r.bseq) = none →
    exec (.replayRetry c) s = .next (((s.dropReplay c r).replayIgnored c r 1).pendReplay c)) ∧
  (∀ (s : State) (c : Nat) (b : Batch) (r : Replay), s.tr.slotWaits = [] → b.waiters.Nodup →
    let v := s.retryBatch c b r
    (∀ y ∈ v.tr.batches, y.id ≠ b.id) ∧
    (∀ p ∈ b.pages, ∀ e ∈ v.tr.tlb, e.ctx = c → e.base + 2 ^ e.lg ≤ p.base ∨ p.base + 2 ^ p.lg ≤ e.base) ∧
    ∀ wk w ls, .warp wk ∈ b.waiters → s.warp wk = some w → w.fault = .waiting ls [b.id] →
      ∃ u, v.warp wk = some u ∧ u.fault = .none ∧ ∀ k p, b.pages[k]? = some p → k < 32 → r.arg.testBit k = true →
        (ls, p.base, BitVec.ofNat 32 (r.arg / 2 ^ 32)) ∈ u.failed) ∧
  (∀ (s : State) (c : Nat) (x : Ctx) (r : Replay), Due s c (.replayInvalidateRange c) x r →
    ∃ v, exec (.replayInvalidateRange c) s = .next v ∧
      (∀ e, e ∈ v.tr.tlb ↔ e ∈ s.tr.tlb ∧
        ¬(e.ctx = c ∧ e.base < r.addr + 65536 * (r.arg % 2 ^ 32) ∧ r.addr < e.base + 2 ^ e.lg)) ∧
      ∀ e ∈ v.tr.wcache, e.ctx ≠ c) ∧
  ∀ (s : State) (c : Nat) (x : Ctx) (r : Replay), Due s c (.replayInvalidateContext c) x r →
    ∃ v, exec (.replayInvalidateContext c) s = .next v ∧ (∀ e, e ∈ v.tr.tlb ↔ e ∈ s.tr.tlb ∧ e.ctx ≠ c) ∧
      ∀ e ∈ v.tr.wcache, e.ctx ≠ c

/-- R392, R414: a migration whose page may move takes a watch entry and begins; MIGRATION_TEST copies the page, and commits when
no write has reached it since the attempt began: the new leaf is written and the page's translations go. An attempt in which
another device does not give or take a line fails like one that a write reached. -/
def Migrations : Prop :=
  (∀ (s : State) (c : Nat) (x : Ctx) (r : Replay) (addr e lg : Nat), Due s c (.replayMigrate c) x r →
    (s.dropReplay c r).migrLeaf c r = some (addr, e, lg) → s.tr.migrs.length < 64 → r.retry ≠ 0 →
    leafTier e ≠ 1 → leafTier r.arg ≠ 1 →
    ∃ v, exec (.replayMigrate c) s = .next v ∧ .migrationTest s.nextId ∈ v.pending ∧
      ∃ m ∈ v.tr.migrs, m.id = s.nextId ∧ m.ctx = c ∧ m.va = r.addr ∧ m.lg = lg ∧ m.leafAddr = addr ∧
        m.oldLeaf = BitVec.ofNat 64 e ∧ m.newLeaf = BitVec.ofNat 64 r.arg ∧ m.tries = r.retry ∧ m.phase = 1) ∧
  (∀ (s : State) (m : Migr), s.migr m.id = some m → m.phase = 1 →
    (s.migrSource m = none → exec (.migrationTest m.id) s = .next (s.pend (.migrationTest m.id))) ∧
    ∀ bs, s.migrSource m = some bs →
      (s.migrLost m false = false → (s.migrStore m bs).migr m.id = some m → exec (.migrationTest m.id) s =
        .next (((s.migrStore m bs).modMigr m.id fun m => { m with phase := 2 }).pend (.migrationTest m.id))) ∧
      (s.migrLost m false = true → 1 < m.tries → exec (.migrationTest m.id) s = .next
        ((s.modMigr m.id fun m => { m with phase := 0, tries := m.tries - 1 }).pend (.migrationTest m.id))) ∧
      (s.migrLost m false = true → m.tries ≤ 1 →
        exec (.migrationTest m.id) s = .next ((s.endMigr m).actionDone m.ctx m.field m.bseq 1 m.va))) ∧
  ∀ (s : State) (m n : Migr), s.migr m.id = some m → m.phase = 2 →
    (m.newLeaf.toNat / 2 ^ 11 % 4 ≠ 2 ∨ s.migrAnswered m true = true) →
    let u := (s.postPage m).pushPage m.oldLeaf.toNat m.lg
    u.migr m.id = some n →
    let failed : Prop := u.pageWritten n = true ∨ u.migrLost n true = true
    (¬ failed → ∃ v, exec (.migrationTest m.id) s = .next v ∧ v = ((((u.physWrite n.leafAddr 8
      n.newLeaf.toNat).invalidate n.ctx (n.va / n.size * n.size) n.size).moveChunkBuffers n).endMigr n).actionDone n.ctx
        n.field n.bseq 0 n.va ∧ ∀ y ∈ v.tr.migrs, y.id ≠ m.id) ∧
    (failed → 1 < n.tries → exec (.migrationTest m.id) s = .next
      ((u.modMigr n.id fun m => { m with phase := 0, tries := m.tries - 1 }).pend (.migrationTest m.id))) ∧
    (failed → n.tries ≤ 1 →
      exec (.migrationTest m.id) s = .next ((u.endMigr n).actionDone n.ctx n.field n.bseq 1 n.va))

end Sys2Proof.Claims

/-- A walk fills its TLB with the leaf it finds; a TLB entry translates or refuses; batches go to the ring. (R377, R378,
R379, R382, R383)
Where the spec leaves a point open it rests on the model's choice or reading of log entries 30, 31. -/
def Obligations.WalksAndFaultBatches : Prop := Sys2Proof.Claims.Walks ∧ Sys2Proof.Claims.Batches

/-- Replay records are read from the ring, wait for their generation and act as they say. (R388, R389, R390)
Where the spec leaves a point open it rests on the model's choice or reading of log entries 32, 60. -/
def Obligations.ReplayRecords : Prop := Sys2Proof.Claims.Replays ∧ Sys2Proof.Claims.ReplayActions

/-- A migration takes a watch entry, copies, and commits only when no write reached the page. (R392)
Where the spec leaves a point open it rests on the model's choice or reading of log entries 32, 106. -/
def Obligations.PageMigration : Prop := Sys2Proof.Claims.Migrations

namespace Sys2Proof.Claims

/-! ### Pre-emption, save, resume, reset (R394 to R400, R405) -/

/-- R33, R394, R395: PREEMPT of a resident context sets STATE 1, keeps DRAIN, and discards the teams inside a restart region;
PREEMPT_LIMIT_EXPIRE stops a context some team of which is left. -/
def Preempts : Prop :=
  (∀ (s : State) (c : Nat) (drain : Word) (x : Ctx), tget s.ctxs c = some x → x.state = 0 → x.goal ≠ 4 →
    tsorted s.teams = true →
    ∃ v, exec (.preempt c drain) s = .next v ∧
      (∃ y, tget v.ctxs c = some y ∧ y.state = 1 ∧ y.goal = 2 ∧ y.drain = drain) ∧ .preemptLimitExpire c ∈ v.pending ∧
      ∀ k t, tget s.teams k = some t → t.ctx = c → (tget s.launches t.launch).isSome → t.vals.det = false →
        s.teamInside t = true → v.team k = none) ∧
  (∀ (s : State) (c : Nat) (x : Ctx), tget s.ctxs c = some x → x.state = 1 → x.goal = 2 →
    exec (.preemptLimitExpire c) s = .next (if s.placed c = [] then s
      else s.stopContext c { kind := 3, src := 6, reason := 2 })) ∧
  ∀ (s : State) (k : Nat) (t : Team), s.team k = some t → tsorted s.teams = true →
    let v := s.discardTeam k
    v.team k = none ∧ (∀ e ∈ v.warps, e.2.team ≠ k) ∧ (∀ m ∈ v.mops, m.team ≠ k) ∧
    (t, t.warps.map fun o => o.bind s.warp) ∈ (v.saved t.ctx).teams

/-- R395 to R397: DRAIN_EXPIRE squashes and saves what is left and makes the context saved, or stopped; RESUME makes a saved
context resuming: its replays are applied, then its event records go back to their cores, then its teams are placed, and it is
resident. -/
def Saves : Prop :=
  (∀ (s : State) (c : Nat) (x : Ctx), tget s.ctxs c = some x → x.draining = true →
    (x.state = 1 ∨ (x.goal = 4 ∧ x.state < 4)) →
    ∃ v, exec (.drainExpire c) s = .next v ∧
      (∃ y, tget v.ctxs c = some y ∧ y.state = (if x.goal = 4 then 4 else 2) ∧ y.draining = false) ∧
      (∀ k ∈ v.copies, k.ctx ≠ c) ∧ ∀ e ∈ v.cores, ∀ r ∈ e.2.evq, r.ctx ≠ c) ∧
  (∀ (s : State) (c : Nat) (x : Ctx), tget s.ctxs c = some x → x.state = 2 →
    ∃ v, exec (.resume c) s = .next v ∧ .resume c ∈ v.pending ∧
      ∃ y, tget v.ctxs c = some y ∧ y.state = 3 ∧ y.replays = (s.saved c).replays) ∧
  (∀ (s : State) (c : Nat) (x : Ctx), tget s.ctxs c = some x → x.state = 3 → x.goal ≠ 4 →
    (x.pushed = false → x.replays ≠ [] → exec (.resume c) s = .next (s.pendOnce (.resume c))) ∧
    (x.pushed = false → x.replays = [] → exec (.resume c) s = .next ((s.pushEvents c).pendOnce (.resume c))) ∧
    (x.pushed = true → (s.saved c).teams ≠ [] → exec (.resume c) s = .next (s.pendOnce (.resume c))) ∧
    (x.pushed = true → (s.saved c).teams = [] → ∃ v, exec (.resume c) s = .next v ∧
      ∃ y, tget v.ctxs c = some y ∧ y.state = 0)) ∧
  ∀ (s : State) (c k : Nat) (x : Ctx) (core : Core), tget s.ctxs c = some x → tget s.cores k = some core →
    let v := s.pushEvents c
    (v.saved c).events = [] ∧ (∃ y, tget v.ctxs c = some y ∧ y.pushed = true) ∧
    (tget v.cores k).map (·.evq) =
      some (core.evq ++ ((s.saved c).events.filter fun e => e.1 == k).map (·.2))

/-- R400, R405: RESET and FLR set STATE 5 and take everything of the context out of the machine; STATE becomes 6 once its
near-memory commands have completed and the counter decrements they owe have been performed. PTGEN, NEXTTAG and NEXTLAUNCH keep
their values. -/
def Resets : Prop :=
  (∀ (s : State) (c : Nat), exec (.flr c) s = exec (.reset c) s) ∧
  (∀ (s : State) (c : Nat) (x : Ctx), tget s.ctxs c = some x → x.state < 5 → tsorted s.teams = true →
    ∃ v, exec (.reset c) s = .next v ∧ .reset c ∈ v.pending ∧ (∀ e ∈ v.teams, e.2.ctx ≠ c) ∧
      (∀ e ∈ v.launches, e.2.ctx ≠ c) ∧ (∀ e ∈ v.graphs, e.2.ctx ≠ c) ∧ (∀ k ∈ v.copies, k.ctx ≠ c) ∧
      (∀ o ∈ v.kvq, o.ctx ≠ c) ∧ (∀ r ∈ v.sw.regions, r.ctx ≠ c) ∧ (∀ e ∈ v.tr.tlb, e.ctx ≠ c) ∧
      (∀ e ∈ v.tr.wcache, e.ctx ≠ c) ∧
      ∃ y, tget v.ctxs c = some y ∧ y.state = 5 ∧ y.replays = [] ∧ y.ptgen = x.ptgen ∧ y.nexttag = x.nexttag ∧
        y.nextlaunch = x.nextlaunch) ∧
  (∀ (s : State) (c : Nat) (x : Ctx), tget s.ctxs c = some x → x.state = 5 →
    ((∃ n ∈ s.nms, n.ctx = c) ∨ ∃ e st, .dcDecrement c e st ∈ s.pending) → exec (.reset c) s = .next (s.pendOnce (.reset c))) ∧
  ∀ (s : State) (c : Nat) (x : Ctx), tget s.ctxs c = some x → x.state = 5 → (∀ n ∈ s.nms, n.ctx ≠ c) →
    (∀ e st, .dcDecrement c e st ∉ s.pending) →
    ∃ v, exec (.reset c) s = .next v ∧ ∃ y, tget v.ctxs c = some y ∧ y.state = 6 ∧ y.ptgen = x.ptgen

/-! ### The host (R202, R404 to R409, R424) -/

/-- R390, R407, R408: a CTXWCB write makes an absent context resident with its WCB's fields; CCTASK binds a control core to
a task, or unbinds it, and naming a fenced core or one that another context holds writes a launch-refused record, with a REASON
that is open; an acceptable doorbell moves its queue's TAIL and any other does nothing. -/
def HostCommands : Prop :=
  (∀ (s : State) (c : Nat) (v : DWord) (x : Ctx), tget s.ctxs c = some x → x.state = 6 → v.toNat % 256 = 0 →
    s.present v.toNat = true →
    let w := s.physNat v.toNat 256
    ∃ r, exec (.ctxwcbWrite c v) s = .next r ∧ ∃ y, tget r.ctxs c = some y ∧ y.state = 0 ∧ y.wcb = v.toNat ∧
      y.ptroot = bits w 1599 1536 ∧ y.ctbase = bits w 1663 1600 ∧ y.ctsize = bits w 1695 1664 ∧
      y.plimit = bits w 1727 1696 ∧ y.save = bits w 1791 1728 ∧ y.fq = bits w 1855 1792 ∧ y.err = bits w 1919 1856 ∧
      y.prio = bits w 19 16 ∧ y.ptgen = x.ptgen) ∧
  (∀ (s : State) (c : Nat) (v : DWord) (x : Ctx) (k : Core) (t : TaskVals), tget s.ctxs c = some x → x.state < 5 →
    tget s.cores x.cccore = some k → k.ccWcb = 0 → v ≠ 0 → s.checkWcb c v.toNat false = .task t →
    ∃ r, exec (.cctaskWrite c v) s = .next r ∧ ∃ y wk w, tget r.cores x.cccore = some y ∧ y.cc = some wk ∧
      y.ccWcb = t.wcb ∧ y.ccCtx = c ∧ r.warp wk = some w ∧ w.kind = .control ∧ w.core = x.cccore ∧
      w.threads.map (fun h => (h.st, h.pc)) = [(.runnable, 12 * t.entry)]) ∧
  (∀ (s : State) (c : Nat) (x : Ctx) (k : Core), tget s.ctxs c = some x → x.state < 5 →
    tget s.cores x.cccore = some k → k.ccWcb ≠ 0 → k.ccCtx = c →
    ∃ r, exec (.cctaskWrite c 0) s = .next r ∧ ∃ y, tget r.cores x.cccore = some y ∧ y.cc = none ∧ y.ccWcb = 0) ∧
  (∀ (s : State) (c : Nat) (v : DWord) (x : Ctx), tget s.ctxs c = some x → x.state < 5 →
    (tget s.cores x.cccore = none ∨ ∃ k, tget s.cores x.cccore = some k ∧ k.ccWcb ≠ 0 ∧ k.ccCtx ≠ c) →
    ∃ (u : State) (n : Nat), u.m = s.m ∧ u.ctxs = s.ctxs ∧ u.cores = s.cores ∧ exec (.cctaskWrite c v) s =
      .next (u.ctxRecord c { kind := 2, src := 6, reason := (Config.freeValue n).toNat })) ∧
  ∀ (s : State) (c q : Nat) (v : Word) (x : Ctx) (a w pa : Nat), tget s.ctxs c = some x → x.state ≠ 6 →
    x.qwcb[q]? = some a → a ≠ 0 → s.readWcb c a = some w → s.peekPa c a = some pa →
    let tail := w / 2 ^ 1664 % 2 ^ 32
    let head := w / 2 ^ 1632 % 2 ^ 32
    let ok := (v.toNat + 2 ^ 32 - tail) % 2 ^ 32 < 2 ^ 31 ∧ (v.toNat + 2 ^ 32 - head) % 2 ^ 32 ≤ 2 ^ (w / 2 ^ 1600 % 256)
    (ok → exec (.doorbell c q v) s = .next (((s.physWrite (pa + 208) 4 v.toNat).modCtx c fun x =>
      { x with qtail := x.qtail.set q (some v.toNat) }).pend (.frontEndLaunch c q))) ∧
    (¬ok → exec (.doorbell c q v) s = .next s)

/-- R390, R407, R424: a register takes a value in its range and ignores any other. -/
def HostRegisters : Prop :=
  ∀ (s : State) (v : DWord),
    (∀ f < 4, ∃ r, exec (.registerWrite (.fldlim f) v) s = .next r ∧ r.mg.fldlim =
      if 2000 ≤ v.toNat ∧ v.toNat ≤ 9000 then s.mg.fldlim.set f v.toNat else s.mg.fldlim) ∧
    (∃ r, exec (.registerWrite .pkglim v) s = .next r ∧ r.mg.pkglim =
      if 10000 ≤ v.toNat ∧ v.toNat ≤ 28000 then v.toNat else s.mg.pkglim) ∧
    (∃ r, exec (.registerWrite .actcap v) s = .next r ∧ r.mg.actcap =
      if 1024 ≤ v.toNat ∧ v.toNat ≤ 16384 then v.toNat else s.mg.actcap) ∧
    ∀ c x, tget s.ctxs c = some x →
      (v.toNat < 2 ^ 32 → ∃ r, exec (.registerWrite (.drain c) v) s = .next r ∧
        tget r.ctxs c = some { x with drain := v.setWidth 32 }) ∧
      (v.toNat % 8 = 0 → ∃ r, exec (.registerWrite (.ptwaddr c) v) s = .next r ∧
        tget r.ctxs c = some { x with ptwaddr := v }) ∧
      (v.toNat < 2 ^ 32 → v.toNat / 2 ^ 20 % 2 ^ 11 = 0 → ∃ r, exec (.registerWrite (.pasid c) v) s = .next r ∧
        tget r.ctxs c = some { x with pasiden := v.getLsbD 31, pasid := v.setWidth 20 }) ∧
      (∀ q < 8, ∃ r, exec (.registerWrite (.qwcb c q) v) s = .next r ∧
        tget r.ctxs c = some (if x.state = 6 then { x with qwcb := x.qwcb.set q v.toNat } else x)) ∧
      (v.toNat < 48 → ∃ r, exec (.registerWrite (.cccore c) v) s = .next r ∧
        tget r.ctxs c = some { x with cccore := v.toNat })

/-- R202, R404, R409, R418: a link that is down is not used and what it had translated is gone, and a device that its start left
off the links has none; ATS_INVALIDATE drops a translation once no write that a helper holds uses it; PRI_RESPONSE keeps one,
which grants reads and writes (the model's choice, log entry 107), or its refusal; accesses of host agents go to the home points;
a function's error registers are read and written over their link (their layout is PCIe's, log entry 93). -/
def HostLinks : Prop :=
  (∀ (s : State) (b : Nat), b < 2 → s.hl.up.length = 2 →
    (∃ v, exec (.hostLinkDown b) s = .next v ∧ (∀ e ∈ v.hl.ats, e.link ≠ b) ∧ (∀ e ∈ v.hl.pri, e.1 ≠ b) ∧
      ∀ ha, v.hostLink ha = if s.hl.up[1 - b]? = some true then some (1 - b) else none) ∧
    (s.mg.offLinks = false → ∃ v, exec (.hostLinkUp b) s = .next v ∧ ∀ ha, ha / 65536 % 2 = b → v.hostLink ha = some b) ∧
    (s.mg.offLinks = true → exec (.hostLinkUp b) s = .next s)) ∧
  (∀ (s : State) (b : Nat) (p : Option (BitVec 20)) (f : Nat),
    let held : Prop := ∃ e ∈ s.postHost.hl.xlats, e.of (b, p, f) = true ∧ s.postHost.heldHost p e.host = true
    (held → exec (.atsInvalidate b p f) s = .next (s.postHost.pend (.atsInvalidate b p f))) ∧
    (¬ held → ∃ v, exec (.atsInvalidate b p f) s = .next v ∧ (∀ w ∈ v.m.tbuf, ∀ c ha, w.loc ≠ .host c ha) ∧
      (∀ e, e ∈ v.hl.ats ↔ e ∈ s.hl.ats ∧ ¬(e.link = b ∧ e.pasid = p ∧ e.frame = f)) ∧
      ∀ e ∈ v.hl.xlats, ¬(e.link = b ∧ e.pasid = p ∧ e.frame = f))) ∧
  (∀ (s : State) (b : Nat) (p : Option (BitVec 20)) (f : Nat), (b, p, f) ∈ s.hl.pri →
    (∀ g, ∃ v, exec (.priResponse b p f (some g)) s = .next v ∧
      { link := b, pasid := p, frame := f, host := g, perm := 3 } ∈ v.hl.ats ∧ v.hl.pri = s.hl.pri.erase (b, p, f)) ∧
    ∃ v, exec (.priResponse b p f none) s = .next v ∧ (b, p, f) ∈ v.hl.refused ∧
      v.hl.pri = s.hl.pri.erase (b, p, f)) ∧
  (∀ (s : State) (c : Option Nat) (a : Nat) (data : List Byte),
    (s.reachable a data.length = true →
      exec (.hostAgentAccess (.write c a data)) s = .next (s.outsideWrite c a data true).afterHost) ∧
    (s.reachable a data.length = false → exec (.hostAgentAccess (.write c a data)) s = .next s)) ∧
  (∀ (s : State) (c : Option Nat) (a : Nat) (data : List Byte) (host : Bool),
    (∀ r ∈ rowsOf a data.length, s.swRow r = false) → (s.outsideWrite c a data host).homeBytes a data.length = data) ∧
  (∀ (s : State) (c : Option Nat) (a n : Nat),
    (s.reachable a n = true → exec (.hostAgentAccess (.read c a n)) s =
      .next ((s.outsideRead c a n).2.2.answered (s.outsideRead c a n).1)) ∧
    (s.reachable a n = false →
      exec (.hostAgentAccess (.read c a n)) s = .next (s.answered (List.replicate n 0)))) ∧
  (∀ (s : State) (c : Option Nat) (a n : Nat), (∀ r ∈ rowsOf a n, s.swRow r = false) →
    (s.outsideRead c a n).1 = s.homeBytes a n ∧ (s.outsideRead c a n).2.2 = s) ∧
  (∀ (s : State) (b fn : Nat) (on : Bool), ∃ v, exec (.hostAgentAccess (.atsEnable b fn on)) s = .next v ∧
    ∀ e, e ∈ v.hl.atsOn ↔ (e ≠ (b, fn) ∧ e ∈ s.hl.atsOn) ∨ (on = true ∧ e = (b, fn))) ∧
  (∀ (s : State) (link fn k : Nat) (v : Word), link < 2 → fn < 64 → k < 10 →
    (s.hl.up[link]? ≠ some true → exec (.hostAgentAccess (.aerRead link fn k)) s = .next s ∧
      exec (.hostAgentAccess (.aerWrite link fn k v)) s = .next s) ∧
    (s.hl.up[link]? = some true →
      exec (.hostAgentAccess (.aerRead link fn k)) s = .next (s.answered (leBytes 4 (s.aerWord link fn k).toNat)) ∧
      ∃ r, exec (.hostAgentAccess (.aerWrite link fn k v)) s = .next r ∧ r.aerWord link fn k =
        (if k = 0 ∨ k = 3 then s.aerWord link fn k &&& ~~~(v &&& aerBits k)
          else (s.aerWord link fn k &&& ~~~(aerBits k)) ||| (v &&& aerBits k)) ∧
        ∀ l g j, l < 2 → g < 64 → j < 10 → (l, g, j) ≠ (link, fn, k) → r.aerWord l g j = s.aerWord l g j)) ∧
  (∀ (s : State) (link fn bit : Nat) (cor : Bool), bit < 32 → (aerBits (if cor then 3 else 0)).getLsbD bit = true →
    ∃ r, exec (.hostAgentAccess (.linkError link fn cor bit)) s = .next r ∧
      (r.aerWord link fn (if cor then 3 else 0)).getLsbD bit = true) ∧
  ∀ (s : State) (a : Nat) (data : List Byte),
    exec (.hostAgentAccess (.hostWrite a data)) s = .next { s with m := { s.m with host := mstore s.m.host a data } }

/-- R390, R406, R408: accesses of a function's BAR act on its registers: STATE, PTGEN, CTXWCB and PASID are read; CMD gives the
commands, and the other registers take what is written as their own events do. -/
def BarAccesses : Prop :=
  ∀ (s : State) (fn : Nat) (x : Ctx), tget s.ctxs fn = some x → fn < 64 →
    (∀ r ∈ [(0x008, 4, x.state), (0x010, 4, x.ptgen.toNat), (0x030, 8, x.wcb),
        (0x038, 4, (if x.pasiden then 2 ^ 31 else 0) + x.pasid.toNat)],
      exec (.hostAgentAccess (.barRead fn r.1 r.2.1)) s = .next (s.answered (leBytes r.2.1 r.2.2))) ∧
    (∀ n, n < 2 ^ 32 → exec (.hostAgentAccess (.barWrite fn 0x000 (leBytes 4 n))) s =
      if n % 256 = 1 then exec (.preempt fn x.drain) s else if n % 256 = 2 then exec (.resume fn) s
      else if n % 256 = 3 then exec (.reset fn) s else .next s) ∧
    (∀ v : Word,
      exec (.hostAgentAccess (.barWrite fn 0x004 (leBytes 4 v.toNat))) s = exec (.registerWrite (.drain fn) (v.zeroExtend 64)) s ∧
      exec (.hostAgentAccess (.barWrite fn 0x028 (leBytes 4 v.toNat))) s = exec (.replayDoorbell fn v) s ∧
      (∀ q < 8, exec (.hostAgentAccess (.barWrite fn (0x1000 + 8 * q) (leBytes 4 v.toNat))) s = exec (.doorbell fn q v) s)) ∧
    ∀ v : DWord,
      exec (.hostAgentAccess (.barWrite fn 0x018 (leBytes 8 v.toNat))) s = exec (.registerWrite (.ptwaddr fn) v) s ∧
      exec (.hostAgentAccess (.barWrite fn 0x020 (leBytes 8 v.toNat))) s = exec (.ptwdataWrite fn v) s ∧
      exec (.hostAgentAccess (.barWrite fn 0x030 (leBytes 8 v.toNat))) s = exec (.ctxwcbWrite fn v) s ∧
      exec (.hostAgentAccess (.barWrite fn 0x088 (leBytes 8 v.toNat))) s = exec (.cctaskWrite fn v) s ∧
      ∀ q < 8, exec (.hostAgentAccess (.barWrite fn (0x040 + 8 * q) (leBytes 8 v.toNat))) s =
        exec (.registerWrite (.qwcb fn q) v) s

end Sys2Proof.Claims

/-- PREEMPT, DRAIN_EXPIRE, RESUME, RESET and FLR move a context through its states with what they keep and take out. (R33,
R394, R395, R396, R397, R400, R405)
Where the spec leaves a point open it rests on the model's choice or reading of log entries 34, 35, 36. -/
def Obligations.PreemptSaveResumeReset : Prop :=
  Sys2Proof.Claims.Preempts ∧
  Sys2Proof.Claims.Saves ∧
  Sys2Proof.Claims.Resets

/-- Host commands, register writes, link changes and accesses of host agents have their effects. (R202, R390, R404, R406,
R407, R408, R409, R418, R424)
Where the spec leaves a point open it rests on the model's choice or reading of log entries 20, 45, 64, 79, 88, 93,
94, 107, 113. -/
def Obligations.HostActions : Prop :=
  Sys2Proof.Claims.HostCommands ∧
  Sys2Proof.Claims.HostRegisters ∧
  Sys2Proof.Claims.HostLinks ∧
  Sys2Proof.Claims.BarAccesses

namespace Sys2Proof.Claims

/-! ### Skovlink (R410 to R414) -/

/-- The request `m` is next in its source's stream, its event is `kind`, and the one after it has not arrived; `u` is the
machine with `m` taken (R413). -/
def NextRequest (s : State) (src : Nat) (kind : Instr) (m : Msg) (u : State) : Prop :=
  let n := (tget s.sk.seqIn src).getD 0
  (s.sk.held.find? fun m => m.src == src && m.sseq == n) = some m ∧ msgEvent m = kind ∧
  ((s.sk.held.erase m).find? fun m => m.src == src && m.sseq == (n + 1) % 65536) = none ∧
  u = { s with sk := { s.sk with held := s.sk.held.erase m, seqIn := tset s.sk.seqIn src ((n + 1) % 65536) } }

/-- R4, R411, R412: the 256 bytes of a flit give back its fields, its payload filled up with zeros; the header of a message gives
back its fields; and a message's bytes in a payload give back the message. -/
def FlitBytes : Prop :=
  (∀ f : Flit, f.payload.length ≤ 240 → f.bytes.length = 256 ∧
    flitOf f.bytes = some { f with payload := f.payload ++ List.replicate (240 - f.payload.length) 0 }) ∧
  (∀ bs : List Byte, bs.length = 256 → bs.drop 248 ≠ leBytes 8 (Config.crc64 (bs.take 248)).toNat → flitOf bs = none) ∧
  ∀ m : Msg, m.paddr < 2 ^ 39 → m.tag < 2 ^ 12 → m.sseq < 2 ^ 16 → m.dst < 256 → m.src < 256 → m.size < 2 ^ 18 →
    msgOf m.header m.data = m ∧
    (0 < m.size → m.size ≤ 256 → m.data.length = (if m.op = 0 then 0 else m.size) → parseMsgs 64 m.bytes = ([m], []))

/-- R410, R411: a flit whose CRC fails is answered by a NAK and changes nothing else; a data flit in sequence is acknowledged and
the messages that end in it arrive; a NAK is answered by a replay, or, when 8 replays in a row have failed, takes the port down; a
flit waits while the replay buffer holds 512, and what waits goes by what is acknowledged; a port that is down carries nothing. -/
def Flits : Prop :=
  (∀ (p : Port) (payload : List Byte) (ms : List Msg),
    let f : Flit := { type := 1, ack := p.rxSeq, lseq := p.txSeq, payload := payload }
    (p.wait = [] → p.replay.length < 512 → p.sendData payload ms =
      { p with txSeq := p.txSeq + 1, replay := p.replay ++ [(f, ms)], out := p.out ++ [f.bytes] }) ∧
    (512 ≤ p.replay.length ∨ p.wait ≠ [] → p.sendData payload ms = { p with wait := p.wait ++ [(payload, ms)] }) ∧
    (p.replay.length ≤ 512 → (p.sendData payload ms).replay.length ≤ 512 ∧ p.refill.replay.length ≤ 512) ∧
    (p.refill.replay.map fun e => (e.1.payload, e.2)) ++ p.refill.wait = (p.replay.map fun e => (e.1.payload, e.2)) ++ p.wait) ∧
  (∀ (s : State) (n : Nat) (p : Port) (bs : List Byte), s.sk.ports[n]? = some p → p.up = true →
    (flitOf bs = none → exec (.flitReceive n bs) s = .next (s.modPort n fun p =>
      { p with out := p.out ++ [({ type := 2, ack := p.rxSeq, lseq := p.txSeq, payload := [] } : Flit).bytes] })) ∧
    (∀ f, flitOf bs = some f → f.type = 1 → f.lseq = p.rxSeq + 1 → ∃ u, exec (.flitReceive n bs) s =
        .next ((parseMsgs 64 (p.rx ++ f.payload)).1.foldl State.arriveMsg u) ∧ ∃ q : Port, u.sk.ports[n]? = some q.refill ∧ q.rxSeq = f.lseq ∧
      q.rx = (parseMsgs 64 (p.rx ++ f.payload)).2 ∧ q.wait = p.wait ∧ q.txSeq = p.txSeq ∧
      q.replay = p.replay.filter (fun g => 2048 ≤ (f.ack - g.1.lseq).toNat) ∧
      q.out = p.out ++ [({ type := 0, ack := f.lseq, lseq := p.txSeq, payload := [] } : Flit).bytes]) ∧
    (∀ f, flitOf bs = some f → f.type = 2 → p.fails < 8 → (∀ g ∈ p.replay, 2048 ≤ (f.ack - g.1.lseq).toNat) →
      exec (.flitReceive n bs) s = .next (s.modPort n fun q =>
        ({ q with fails := p.fails + 1, out := q.out ++ q.replay.map fun e => e.1.bytes } : Port).refill)) ∧
    (∀ f, flitOf bs = some f → f.type = 2 → p.fails = 8 → (∀ g ∈ p.replay, 2048 ≤ (f.ack - g.1.lseq).toNat) →
      ∃ v, exec (.flitReceive n bs) s = .next v ∧ (v.sk.ports[n]?).map (·.up) = some false) ∧
    ∃ v, exec (.portDown n) s = .next v ∧ (v.sk.ports[n]?).map (fun p => (p.up, p.replay, p.wait, p.rx)) = some (false, [], [], [])) ∧
  (∀ (s : State) (n : Nat) (p : Port) (bs : List Byte), s.sk.ports[n]? = some p → p.up = false →
    exec (.flitReceive n bs) s = .next s ∧ ∃ v, exec (.portUp n) s = .next v ∧ v.sk.ports[n]? = some
      { p with up := true, txSeq := 0, replay := [], wait := [], fails := 0, rxSeq := 0xFFF, rx := [] }) ∧
  ∀ (s : State) (m : Msg), m.op ≠ 3 → m.op.toNat ≤ 4 →
    (m.sseq + 65536 - (tget s.sk.seqIn m.src).getD 0) % 65536 < 32768 →
    (∀ h ∈ s.sk.held, h.src ≠ m.src ∨ h.sseq ≠ m.sseq) →
    (s.arriveMsg m).sk.held = s.sk.held ++ [m] ∧ msgEvent m ∈ (s.arriveMsg m).pending

/-- R413: requests of other devices are performed in stream order at the home points, and answered; one any byte of which lies in
a stack that the device does not present is answered with STATUS 3. -/
def Requests : Prop :=
  (∀ (s : State) (src : Nat) (ev : Instr), ev ∈ [Instr.skovRead src, .skovWrite src, .skovAtomic src,
      .skovBulkWrite src] → (∀ m ∈ s.sk.held, m.src = src → m.sseq ≠ (tget s.sk.seqIn src).getD 0) →
    exec ev s = .next s) ∧
  (∀ (s u : State) (src : Nat) (m : Msg), NextRequest s src (.skovRead src) m u → s.presentAll m.paddr m.size = true → s.m.ue = [] →
    (∀ r ∈ rowsOf m.paddr m.size, s.swRow r = false) →
    exec (.skovRead src) s = .next (u.respond m 0 (s.homeBytes m.paddr m.size))) ∧
  (∀ (s u : State) (src : Nat) (m : Msg) (ev : Instr), ev = .skovWrite src ∨ ev = .skovBulkWrite src →
    NextRequest s src ev m u → s.presentAll m.paddr m.data.length = true → (∀ r ∈ rowsOf m.paddr m.data.length, s.swRow r = false) →
    ∃ v, exec ev s = .next v ∧ v.homeBytes m.paddr m.data.length = m.data) ∧
  (∀ (s u : State) (src : Nat) (m : Msg), NextRequest s src (.skovAtomic src) m u →
    s.presentAll m.paddr (if m.w64 then 8 else 4) = true → s.m.ue = [] → s.swRow (m.paddr / 1024) = false → m.atop ≠ 15 →
    let n := if m.w64 then 8 else 4
    let old := s.homeBytes m.paddr n
    let new := leBytes n (atomNew m.atop.toNat m.w64 (leNat old) (leNat (m.data.take n)) (leNat ((m.data.drop n).take n)))
    exec (.skovAtomic src) s =
      .next (((u.kvRace m.paddr n).homeWrite (((List.range n).zip new).map fun x => (m.paddr + x.1, x.2))).respond m 0 old)) ∧
  (∀ (s u : State) (src : Nat) (m : Msg) (ev : Instr), NextRequest s src ev m u →
    let n := if m.w64 then 8 else 4
    (ev = .skovRead src → s.presentAll m.paddr m.size = false →
      exec ev s = .next (u.respond m 3 (List.replicate m.size 0))) ∧
    (ev = .skovWrite src ∨ ev = .skovBulkWrite src → s.presentAll m.paddr m.data.length = false →
      exec ev s = .next (u.respond m 3 [])) ∧
    (ev = .skovAtomic src → s.presentAll m.paddr n = false → exec ev s = .next (u.respond m 3 (List.replicate n 0)))) ∧
  ∀ (s : State) (m : Msg) (st : Byte) (data : List Byte) (p : Nat), s.skPort m.src m.paddr = some p →
    s.respond m st data = s.skTransmit p { m with
      dst := m.src, src := s.sk.skdev, op := 3, status := st, data := data, size := data.length }

/-- R414: a response goes to the request that awaits it: a load's bytes, or an error for STATUS 3; a store's record; the bytes of a
word, descriptor or record, or that it was not given. What a load has read stays at its core as a clean copy (R208). -/
def Responses : Prop :=
  ∀ (s : State) (src : Nat) (m : Msg) (r : SkReq), (s.sk.resps.find? fun m => m.src == src) = some m →
    (s.sk.reqs.find? fun r => r.dst == src && r.tag == m.tag) = some r →
    let u := { s with sk := { s.sk with resps := s.sk.resps.erase m, reqs := s.sk.reqs.erase r } }
    exec (.skovResponse src) s = .next (u.answer r m) ∧
    (∀ op lane off o p w, r.who = .part op lane off → s.op op = some o → s.warp o.warp = some w →
      (o.parts.find? fun p => p.lane == lane) = some p →
      (m.status = 0 → u.answer r m = (if o.kind = .load then u.fillPeer w.core r.dst r.pa r.stamp m.data else u).fillPart op lane
        ((m.data ++ List.replicate p.bytes.length 0).take p.bytes.length) false) ∧
      (m.status ≠ 0 → u.answer r m = u.fillPart op lane (List.replicate p.bytes.length 0) true)) ∧
    (∀ key, r.who = .desc key → key < 2 ^ 200 →
      (m.status = 0 → m.data ≠ [] → u.answer r m = { u with descs := u.descs ++ [(key, m.data)] }) ∧
      (m.status ≠ 0 → u.answer r m = { u with descs := u.descs ++ [(key, [])] })) ∧
    (∀ op w l, r.who = .store op w l → m.status = 0 → u.answer r m = u)

/-! ### The management controller (R415 to R424) -/

/-- R410, R416 to R418: a start runs the steps in order, each with its two records, which the flash holds as R417 lays them out; a
stack step that fails above 6 Gb/s ends the start and the next begins; the last step presents the cores of the fields that came
up, and firmware sets a port mask for every device number. -/
def BringUp : Prop :=
  (∀ r : BootRec, BootRec.ofBits r.bits = r ∧ r.bits.toNat =
    r.step.toNat + 2 ^ 8 * r.outcome.toNat + 2 ^ 16 * r.cores.toNat + 2 ^ 24 * r.rate.toNat + 2 ^ 32 * r.seq.toNat) ∧
  (∀ (s : State), s.mg.boot = [] → ∃ v, exec .bringup s = .next v ∧ v.mg.running = some (1, 0) ∧
    v.mg.todo = [0x02, 0x03, 0x11, 0x04, 0x05, 0x12, 0x06, 0x07, 0x13, 0x08, 0x09] ∧ v.mg.fence = 4 ∧
    v.mg.boot = [({ seq := 1, rate := 0, cores := 0, outcome := 0, step := 1 } : BootRec).bits]) ∧
  (∀ (s : State) (st rate n q : Nat) (rest : List Nat), s.mg.running = some (st, rate) → s.mg.todo = n :: rest →
    stepField n < s.mg.fence → s.mg.rate n = some q → n ≠ st → n < 256 → st < 256 →
    ∃ v, exec (.bringupStepEnd true) s = .next v ∧ v.mg.running = some (n, q) ∧ v.mg.todo = rest ∧
      (v.mg.records.map fun r => (r.step, r.outcome)) = (s.mg.records.map fun r => (r.step, r.outcome)) ++
        [(BitVec.ofNat 8 st, 1), (BitVec.ofNat 8 n, 0)] ∧
      v.mg.doneFields = (if stackStep st then s.mg.doneFields else s.mg.doneFields ++ [stepField st])) ∧
  (∀ (s : State) (st rate : Nat), s.mg.running = some (st, rate) → s.mg.todo = [] →
    ∃ v, exec (.bringupStepEnd true) s = .next v ∧ v.mg.running = none ∧ v.sk.routes.map (·.1) = List.range 256 ∧
      ∀ f ∈ (if stackStep st then s.mg.doneFields else s.mg.doneFields ++ [stepField st]), f < s.mg.fence →
        ∀ i < 12, tget v.cores (12 * f + i) = some blankCore) ∧
  (∀ (s : State) (st rate : Nat), s.mg.running = some (st, rate) → 2 ≤ st → st ≤ 9 → 6 < rate →
    exec .bringupStepTimeout s = .next ((s.bootRecord st rate 2 0).bootStart) ∧
    exec (.bringupStepEnd false) s = .next ((s.bootRecord st rate 2 0).bootStart)) ∧
  (∀ (s : State) (st rate : Nat), s.mg.running = some (st, rate) → (st < 2 ∨ 9 < st ∨ rate ≤ 6) →
    ∃ v, exec .bringupStepTimeout s = .next v ∧ v.mg.fence = min s.mg.fence (stepField st)) ∧
  (∀ (m : MgmtSt) (st : Nat) (r : BootRec), m.latest st = some r →
    (r.outcome = 1 → m.rate st = some r.rate.toNat) ∧ (r.outcome = 2 → r.rate = 10 → m.rate st = some 8) ∧
    (r.outcome = 2 → r.rate = 8 → m.rate st = some 6) ∧ (r.outcome = 2 → r.rate = 6 → m.rate st = none)) ∧
  (∀ (s : State), ∃ v, exec .bootclr s = .next v ∧ v.mg.boot = [] ∧ v.mg.history = s.mg.history) ∧
  ∀ (s : State), ∃ v, exec .powerLoss s = .next v ∧ v.mg.boot = s.mg.boot ∧ v.mg.history = s.mg.history ∧
    v.m.host = s.m.host ∧ v.m.mem = [] ∧ v.warps = [] ∧ v.agenda = [.bringup]

/-- R253, R419 to R423: the averaged current is kept; above its limit a field slows by 150 MHz to no less than 600, below
15/16 of it speeds up to no more than 2,400; CAP follows R420; the scrubber restores its next row; a telemetry record has
its source's next number; an error stands in its code word. -/
def Management : Prop :=
  (∀ (s : State) (f x : Nat), exec (.fieldCurrentAverage f x) s = .next { s with mg := { s.mg with
    current := s.mg.current.set f x } }) ∧
  (∀ (s : State) (f cur lim clk : Nat), s.mg.current[f]? = some cur → s.mg.fldlim[f]? = some lim →
    s.mg.clock[f]? = some clk → ∃ v, exec (.clockThrottleStep f) s = .next v ∧
      (lim < cur → v.mg.clock[f]? = some (max 600 (clk - 150))) ∧
      (cur ≤ lim → 15 * lim ≤ 16 * cur → v.mg.clock[f]? = some clk) ∧
      (16 * cur < 15 * lim → v.mg.clock[f]? = some (min 2400 (clk + 150)))) ∧
  (∀ (s : State) (p io : Nat), 1024 ≤ s.mg.actcap → ∃ v, exec (.capUpdate p io) s = .next v ∧
    v.mg.cap.length = s.mg.cap.length ∧ ∀ c ∈ v.mg.cap, 1024 ≤ c ∧ c ≤ s.mg.actcap ∧
      (s.mg.pkglim ≤ p + io → c = 1024) ∧ (p + io + 4800 ≤ s.mg.pkglim → c = max 1024 (s.mg.actcap / 64 * 64))) ∧
  (∀ (s : State) (f : Nat), f < 4 ∨ 16 ≤ f ∧ f < 24 → ∃ v r, exec (.telemetryCapture (BitVec.ofNat 8 f)) s = .next v ∧
    tget v.mg.telem f = some r ∧ r.length = 32 ∧ r[0]? = some (BitVec.ofNat 8 f) ∧
    tget v.mg.tseq f = some ((tget s.mg.tseq f).getD 0 + 1) ∧
    leNat ((r.drop 2).take 4) = ((tget s.mg.tseq f).getD 0 + 1).toNat ∧
    (r[1]?).map (fun b => b.getLsbD 3) = some (decide (850 < leNat ((r.drop 6).take 2)))) ∧
  (∀ (s : State) (ch n : Nat), ch < 256 → ch / 32 < 2 * s.mg.fence →
    ((s.sw.bankq.filter fun e => bankChannel (rowBank (e.pa / 1024)) == ch).length < 4 ∨ ch ∈ s.mg.escalated) →
    s.nextScrub ch (2 ^ 21) ((tget s.mg.scrub ch).getD 0) = some n →
    let u := s.restoreRow (scrubRow ch n) false none
    exec (.scrub ch) s = .next { u with mg := { u.mg with scrub := tset u.mg.scrub ch ((n + 1) % 2 ^ 21) } }) ∧
  ∀ (s : State) (a : Nat), s.present a = true →
    (∃ v, exec (.softError a false) s = .next v ∧ tget v.m.ue (a / 32) = some { syndrome := false, written := 0 } ∧
      v.m.mem = s.m.mem) ∧
    ∃ v, exec (.softError a true) s = .next v ∧ a / 32 ∈ v.m.soft ∧ v.m.ue = s.m.ue

end Sys2Proof.Claims

/-- Flits are acknowledged, refused or replayed; requests are performed in stream order; responses reach their requests.
(R4, R410, R411, R412, R413, R414)
Where the spec leaves a point open it rests on the model's choice or reading of log entries 45, 61, 63, 78. -/
def Obligations.SkovlinkTraffic : Prop :=
  Sys2Proof.Claims.FlitBytes ∧
  Sys2Proof.Claims.Flits ∧
  Sys2Proof.Claims.Requests ∧
  Sys2Proof.Claims.Responses

/-- The bring-up runs its steps in order; clocks, CAP, scrubbing, telemetry and errors follow their rules. (R253, R415,
R416, R417, R418, R419, R420, R421, R422, R423, R424)
Where the spec leaves a point open it rests on the model's choice or reading of log entries 37, 38, 62, 64, 65, 66,
92. -/
def Obligations.BringUpAndManagement : Prop := Sys2Proof.Claims.BringUp ∧ Sys2Proof.Claims.Management

namespace Sys2Proof.Claims

/-! ### Encoding (R60, R61, R80 to R85) -/

/-- R61, R80 to R84: the word of a well-formed instruction decodes to it, with every operand. -/
def EncodedWordsDecode : Prop :=
  ∀ i : Instr, i.WellFormed → ∃ w, encodeWord i = some w ∧ decodeWord w = .ok i

/-- R61, R81, R85: a word that decodes gives a well-formed instruction, whose word it is but for the chain bit; the reserved
majors decode to nothing. -/
def DecodedWordsEncode : Prop :=
  (∀ (w : Word) (i : Instr), decodeWord w = .ok i → i.WellFormed ∧ encodeWord i = some (w &&& 0x7FFF_FFFF)) ∧
  ∀ w : Word, 0x3A ≤ (w.extractLsb' 25 6).toNat → (w.extractLsb' 25 6).toNat ≤ 0x3D → decodeWord w = .error .reservedMajor

/-- R61, R67, R77, R80: words written out from the encodings: IADD v3, v1, v2; IADD v3, v1, c5; FFMA v0, v1, literal;
a header that waits for f0. -/
def SampleWordsDecode : Prop :=
  decodeWord (0b0_000000_0000011_00_0000001_00_0000010#32) = .ok (.iadd ⟨3, 0, 1, 0, 2⟩) ∧
  decodeWord (0b0_000000_0000011_00_0000001_10_0000101#32) = .ok (.iadd ⟨3, 0, 1, 2, 5⟩) ∧
  decodeWord (0b0_011011_0000000_00_0000001_11_1000000#32) = .ok (.ffma ⟨0, 0, 1, 3, 0x40⟩) ∧
  decodeWord (0b0_111111_000000000001_1111_1111_0_0000#32) = .ok (.clause 1 15 15 0)

/-! ### Steps and issue (R15 to R21, R60 to R64, R85) -/

/-- The word `x` stands alone at slot `q`: it is neither chained nor a prefix or header, it takes no literal and reads no
constant. -/
def Alone (x : Word) (cc : Bool) (a : Instr) : Prop :=
  x.getLsbD 31 = false ∧ (x.extractLsb' 25 6).toNat < 0x3E ∧ decodeWord x = .ok a ∧
  (usesOf a none cc).badTag = false ∧ (usesOf a none cc).lit = false ∧ (usesOf a none cc).consts = []

/-- R60 to R64, R85: a step is that of the event due, or one turn of the device; a bundle whose word decodes to an
instruction runs it, with its threads past the word; when the meaning neither traps, faults nor waits, what it leaves is
what the group leaves; a word that decodes to nothing takes illegal-instruction with its sub-cause, which marks the whole
bundle, but for a reserved field of a prefix word or an NMC the leader (R274, R332). -/
def StepsRunDecodedWords : Prop :=
  (∀ (s : State) (i : Instr) (r : List Instr), s.agenda = i :: r → step s = exec i { s with agenda := r }) ∧
  (∀ (s : State), s.agenda = [] → step s = .next (s.turn run)) ∧
  (∀ (s t : State) (i : Instr), exec i s = .next t → run i s = t) ∧
  (∀ (s s1 : State) (wk pc : Nat) (lanes : List Nat) (count : Bool) (w : Warp) (t : Team) (ws : List Word) (g : Word)
      (kind : IssKind), s.warp wk = some w → s.teamOf wk = some t → pc / 12 < t.vals.codelen →
    let i := blankIssue wk kind lanes pc
    let q := pc % 12 / 4
    let x := ws.getD 0 0
    ({ s with iss := some i } : State).fetchFrom wk w.core t.ctx (t.vals.code + 12 * (pc / 12)) i.lowest (3 - q) q [] =
      (.word g, ws, s1) →
    s.waitsMet i = true → badEntry i w t x = false → badHandler i w t x = false →
    (∀ a, Alone x (w.kind == .control) a →
      let us := (usesOf a none (w.kind == .control)).reaches (reachOf lanes)
      let s2 : State := { s1 with iss := some i }
      s2.regsFree i us = true →
      ∀ (pre : State) (w1 : Warp), s2.lookEntries i w t (s2.entriesOf i a) = (.word 0, pre) → pre.warp wk = some w1 →
      let start := (pre.setPcs i (12 * (pc / 12) + 4 * (q + 1))).modIss fun j => { j with slot := q, lit := ws.getD 1 0 }
      ∀ (u : State) (j : Issue), exec a start = .next u → u.iss = some j →
        (j.trap = none → j.faults = [] → j.stalled = false → ∃ ms, s.issueWith run wk kind lanes pc count =
          (true, { (u.noteSrcs wk start.nextId us.srcV).afterGroup pre i ms count with iss := none }) ∧
          ms.map Member.instr = [a]) ∧
        (∀ r, j.trap = some r → s.issueWith run wk kind lanes pc count =
          (true, { ({ pre with iss := none } : State).takeGroupTrap i r with iss := none })) ∧
        (j.trap = none → j.faults ≠ [] → s.issueWith run wk kind lanes pc count =
          (true, { ({ pre with iss := none } : State).takeFaults i j.faults (j.faults.all fun e => e.acc != 8) with
            iss := none }))) ∧
    ∀ e, x.getLsbD 31 = false → (x.extractLsb' 25 6).toNat < 0x3E → decodeWord x = .error e → e.code ≤ 3 → lanes ≠ [] →
      let maj := (x.extractLsb' 25 6).toNat
      let leads := e.code = 3 ∧ (maj = 0x36 ∨ (maj = 0x37 ∧ x.extractLsb' 21 4 = 0))
      let r := TrapRec.mk 1 pc (if leads then lanes.take 1 else lanes) 0 (BitVec.ofNat 32 (e.code + 256 * q)) none
      s.issueWith run wk kind lanes pc count = (true, { s1.takeGroupTrap i r with iss := none }))

/-- R15, R17, R19: a scheduler's turn issues the first bundle in the order of its warps and of R17, once a pre-emption that waits
for its moment has taken it (R394); the order of R17 puts higher pass-over counts first, then lower PCs. -/
def SchedulersSelect : Prop :=
  (∀ (s v : State) (g cls wk : Nat) (sc : Sched) (w : Warp) (t : Team) (c : Cand) (cs : List Cand) (rest : List (Nat × Nat)),
    tget s.scheds g = some sc → sc.sel = [] → (∀ e ∈ s.teams, e.2.det = none) →
    let u := (s.ctxs.filter fun e => e.2.state == 1).foldl (fun s e => s.preemptPoll e.1)
      (s.modSched g fun x => { x with cycle := x.cycle + 1, sel := [] })
    u.rotation g sc = (cls, 2 * wk) :: rest → u.warp wk = some w → u.teamOf wk = some t → u.mayIssue w t = true →
    w.fault = .none → w.dcPending = false → rankCands (u.warpCands wk w) = c :: cs →
    u.issueWith run wk .thread c.lanes c.pc true = (true, v) →
    let r := s.schedTurn run g
    r.m = v.m ∧ r.reg = v.reg ∧ r.ops = v.ops ∧ ∀ k l, r.thread k l = v.thread k l) ∧
  (∀ l : List Cand, (rankCands l).Perm l ∧ (rankCands l).Pairwise fun a b =>
    b.passover < a.passover ∨ (b.passover = a.passover ∧ a.pc ≤ b.pc)) ∧
  ∀ (s : State) (wk : Nat) (w : Warp) (c : Cand), c ∈ s.warpCands wk w → c.lanes ≠ [] ∧ ∀ l ∈ c.lanes,
    ∃ th, w.threads[l]? = some th ∧ th.st = .runnable ∧ th.pc = c.pc

/-! ### Access checks (R150 to R152) -/

/-- R151, R152: the checks of one actor's access, in their order: an address in no aperture, an on-chip address without the
grant, misalignment, a scratchpad offset beyond the team's bytes, and a store to a page of KVP memory, through the stack
aperture too, or to a read-only range of a deterministic team; and a load or store whose access fails one takes its trap and
does nothing else. -/
def AccessChecks : Prop :=
  (∀ (s : State) (w : Warp) (t : Team) (n l a : Nat) (store : Bool), n ∈ [1, 2, 4, 8, 16] →
    let r := s.accessTrap w t false n store false [(l, a)]
    (0x01FF_FFFF_FFFF_FFFF < a → a < 0xFC00_0000_0000_0000 → r.map (fun c => (c.cause, c.lanes, c.addr, c.info)) =
      some (2, [l], a, 4)) ∧
    (∀ o, a = 0xFC00_0000_0000_0000 + o → o < 2 ^ 20 → t.vals.grant = false →
      (r.map fun c => (c.cause, c.lanes, c.addr)) = some (3, [l], a)) ∧
    (a ≤ 0x01FF_FFFF_FFFF_FFFF → a % n ≠ 0 → (r.map fun c => (c.cause, c.lanes, c.addr, c.info % 16)) =
      some (4, [l], a, n % 16)) ∧
    (∀ o, a = 0xFE00_0000_0000_0000 + o → o < 2 ^ 56 → o % n = 0 → t.vals.spbytes < o + n →
      r.map (fun c => (c.cause, c.lanes, c.addr, c.info)) = some (5, [l], a, t.vals.spbytes)) ∧
    (a ≤ 0x01FF_FFFF_FFFF_FFFF → a % n = 0 → store = true → s.kvpPage (.core w.core) t.ctx a = true →
      r.map (fun c => (c.cause, c.lanes, c.addr, c.info)) = some (0x13, [l], a, 0)) ∧
    (∀ o, a = 0xFD00_0000_0000_0000 + o → o < t.vals.stkstride → t.vals.stkstride ≤ 2 ^ 56 → o % n = 0 → store = true →
      (o + n ≤ 2040 ∨ 2048 ≤ o) → s.kvpPage (.core w.core) t.ctx ((s.stackBase w l + o) % 2 ^ 64) = true →
      r.map (fun c => (c.cause, c.lanes, c.addr, c.info)) = some (0x13, [l], a, 0)) ∧
    (∀ g ∈ t.vals.ranges, g.kind = 2 → t.vals.det = true → store = true → a % n = 0 → g.base ≤ a → a < g.base + g.size →
      a ≤ 0x01FF_FFFF_FFFF_FFFF → r.map (fun c => (c.cause, c.lanes, c.addr, c.info)) = some (0x13, [l], a, 0)) ∧
    (a ≤ 0x01FF_FFFF_FFFF_FFFF → a % n = 0 → store = false → r = none)) ∧
  ∀ (s : State) (i : Issue) (n : Nat) (a : Access) (acc : List (Nat × Nat)) (k : Warp → Team → List LaneAcc → State → State)
      (w : Warp) (t : Team), s.warp i.warp = some w → s.teamOf i.warp = some t →
    (∀ c, s.accessTrap w t (i.kind == .helper) n (a != .load) (a == .atomic) acc = some c →
      s.access i n a acc k = s.raise c.cause c.lanes c.addr c.info) ∧
    (∀ accs s1, s.Reaches i w t n a acc accs s1 → s.access i n a acc k = k w t accs s1) ∧
    ∀ x f fs b s1, s.accessTrap w t (i.kind == .helper) n (a != .load) (a == .atomic) acc = none →
      s.locate w t a acc = (x, f :: fs, b, s1) → w.failed = [] → s.access i n a acc k =
        s1.modIss fun j => { j with faults := j.faults ++ f :: fs, stalled := true }

/-! ### The machine (R2, R390, R407, R410, R416, R424) -/

/-- R390, R407, R410, R416, R424: after power-on the bring-up comes first, every context is absent with its registers 0, no
core is presented and no port or link is up; limits have their defaults. -/
def ResetState : Prop :=
  State.reset.agenda = [.bringup] ∧ State.reset.ctxs.length = 64 ∧
  (∀ e ∈ State.reset.ctxs, e.2.state = 6 ∧ e.2.drain = 0 ∧ e.2.ptgen = 0 ∧ e.2.ptwaddr = 0 ∧ e.2.wcb = 0 ∧
    e.2.pasiden = false ∧ e.2.pasid = 0 ∧ e.2.qwcb = [0, 0, 0, 0, 0, 0, 0, 0] ∧ e.2.cccore = 0) ∧
  State.reset.cores = [] ∧ State.reset.warps = [] ∧ State.reset.hl.up = [false, false] ∧
  (∀ p ∈ State.reset.sk.ports, p.up = false) ∧ State.reset.mg.fldlim = [7600, 7600, 7600, 7600] ∧
  State.reset.mg.pkglim = 28000 ∧ State.reset.mg.actcap = 16384 ∧
  State.reset.memOk = true ∧ State.reset.unsettledOk = true ∧ State.reset.tablesOk = true

/-- The model's choice (log entry 3): every step, and every instruction in every state, answers a next state. -/
def NothingStops : Prop := (∀ i s, ∃ t, exec i s = .next t) ∧ ∀ s, ∃ t, step s = .next t

/-- R4, R203: every step leaves both memories in canonical form: addresses strictly rising, no listed zero. -/
def MemoryStaysCanonical : Prop := ∀ s t : State, s.memOk = true → step s = .next t → t.memOk = true

end Sys2Proof.Claims

/-- The word of every well-formed instruction decodes to that instruction, with every operand. (R61, R80, R81, R82, R83,
R84) -/
def Obligations.EncodedWordsDecode : Prop := Sys2Proof.Claims.EncodedWordsDecode

/-- A word that decodes gives a well-formed instruction whose word it is; the reserved majors decode to nothing. (R61,
R81, R85) -/
def Obligations.DecodedWordsEncode : Prop := Sys2Proof.Claims.DecodedWordsEncode

/-- Words written out from the encodings decode to the instructions they stand for. (R61, R67, R77, R80) -/
def Obligations.SampleWordsDecode : Prop := Sys2Proof.Claims.SampleWordsDecode

/-- A step runs the event due or a turn of the device; a bundle's turn runs the word its PC's bytes decode to. (R60, R61,
R62, R64, R69, R85, R274, R332)
Where the spec leaves a point open it rests on the model's choice or reading of log entries 4, 8, 9, 11, 98, 99, 105. -/
def Obligations.StepsRunDecodedWords : Prop := Sys2Proof.Claims.StepsRunDecodedWords

/-- A scheduler's turn issues the first bundle in the order of its warps and of R17. (R15, R17, R19)
Where the spec leaves a point open it rests on the model's choice or reading of log entries 17, 99, 104. -/
def Obligations.SchedulersSelect : Prop := Sys2Proof.Claims.SchedulersSelect

/-- An access is checked in the order of R152; one that fails traps and one that faults waits, doing nothing else. (R151,
R152, R227, R345) -/
def Obligations.AccessChecks : Prop := Sys2Proof.Claims.AccessChecks

/-- After power-on: bring-up first, every context absent, no core presented, no link up, limits at their defaults. (R390,
R407, R410, R416, R424)
Where the spec leaves a point open it rests on the model's choice or reading of log entries 1, 63, 64, 65, 66, 88, 93. -/
def Obligations.ResetState : Prop := Sys2Proof.Claims.ResetState

/-- The model's choice (log entry 3): every step, and every instruction in every state, answers a next state. (Chapter 1:
execution model) -/
def Obligations.NothingStops : Prop := Sys2Proof.Claims.NothingStops

/-- Every step leaves both memories in canonical form. (R4, R203)
Where the spec leaves a point open it rests on the model's choice or reading of log entry 1. -/
def Obligations.MemoryStaysCanonical : Prop := Sys2Proof.Claims.MemoryStaysCanonical
end

