-- ==== Sys2Proof/Laws/Tab.lean ====
section
/-! SUPPORT. What the table and memory operations do: reading after writing, and the canonical form. -/

namespace Sys2Proof.Laws

open Sys2Proof.Machine

variable {α : Type}

/-! ### Reading after writing -/

@[simp] theorem tget_tset_same (t : Tab α) (k : Nat) (v : α) : tget (tset t k v) k = some v := by
  induction t with
  | nil => simp [tset, tget]
  | cons e t ih =>
    obtain ⟨j, w⟩ := e
    simp only [tset]
    split
    · simp [tget]
    · split
      · simp [tget]
      · rename_i h1 h2
        simp only [tget]
        rw [if_neg (fun h => h2 h.symm)]
        exact ih

theorem tget_tset_other (t : Tab α) (k j : Nat) (v : α) (h : j ≠ k) : tget (tset t k v) j = tget t j := by
  induction t with
  | nil => simp [tset, tget, Ne.symm h]
  | cons e t ih =>
    obtain ⟨i, w⟩ := e
    simp only [tset]
    split
    · simp [tget, Ne.symm h]
    · split
      · rename_i h2
        subst h2
        simp [tget, Ne.symm h]
      · simp only [tget, ih]

theorem tget_tset (t : Tab α) (k j : Nat) (v : α) : tget (tset t k v) j = if j = k then some v else tget t j := by
  split
  · rename_i h; subst h; simp
  · rename_i h; exact tget_tset_other t k j v h

theorem tget_tmod (t : Tab α) (k j : Nat) (f : α → α) :
    tget (tmod t k f) j = if j = k then (tget t k).map f else tget t j := by
  induction t with
  | nil => simp [tmod, tget]
  | cons e t ih =>
    obtain ⟨i, w⟩ := e
    simp only [tmod]
    split
    · rename_i h
      subst h
      by_cases hj : i = j
      · subst hj; simp [tget]
      · simp [tget, hj, Ne.symm hj]
    · rename_i h
      simp only [tget, ih, h, if_false]
      by_cases hj : i = j
      · subst hj; simp [h]
      · simp [hj]

/-- Erasing one key of a sorted table. -/
theorem tsorted_tail {e : Nat × α} {t : Tab α} (h : tsorted (e :: t) = true) : tsorted t = true := by
  cases t with
  | nil => rfl
  | cons f t => obtain ⟨j, v⟩ := e; obtain ⟨k, w⟩ := f; simp [tsorted] at h; exact h.2

theorem tsorted_head {j : Nat} {v : α} {t : Tab α} (h : tsorted ((j, v) :: t) = true) : ∀ e ∈ t, j < e.1 := by
  induction t generalizing j v with
  | nil => simp
  | cons f t ih =>
    obtain ⟨k, w⟩ := f
    simp [tsorted] at h
    intro e he
    rcases List.mem_cons.mp he with rfl | he
    · exact h.1
    · exact Nat.lt_trans h.1 (ih h.2 e he)

theorem tget_none_of_lt {k : Nat} {t : Tab α} (h : ∀ e ∈ t, k < e.1) : tget t k = none := by
  induction t with
  | nil => rfl
  | cons e t ih =>
    obtain ⟨j, v⟩ := e
    have hj : k < j := h (j, v) (List.mem_cons_self ..)
    have hn : ¬ j = k := by omega
    simp only [tget, hn, if_false]
    exact ih fun x hx => h x (List.mem_cons_of_mem _ hx)

theorem tsorted_cons {j : Nat} {v : α} {t : Tab α} (h : tsorted t = true) (hj : ∀ e ∈ t, j < e.1) :
    tsorted ((j, v) :: t) = true := by
  cases t with
  | nil => rfl
  | cons f t => obtain ⟨k, w⟩ := f; simp [tsorted]; exact ⟨hj (k, w) (List.mem_cons_self ..), h⟩

theorem mem_tset {t : Tab α} {k : Nat} {v : α} {e : Nat × α} (h : e ∈ tset t k v) : e = (k, v) ∨ e ∈ t := by
  induction t with
  | nil => simp [tset] at h; exact .inl h
  | cons f t ih =>
    obtain ⟨j, w⟩ := f
    simp only [tset] at h
    split at h
    · simpa using h
    · split at h
      · rcases List.mem_cons.mp h with h | h
        · exact .inl h
        · exact .inr (List.mem_cons_of_mem _ h)
      · rcases List.mem_cons.mp h with rfl | h
        · exact .inr (List.mem_cons_self ..)
        · rcases ih h with h | h
          · exact .inl h
          · exact .inr (List.mem_cons_of_mem _ h)

theorem tsorted_tset {t : Tab α} (k : Nat) (v : α) (h : tsorted t = true) : tsorted (tset t k v) = true := by
  induction t with
  | nil => rfl
  | cons f t ih =>
    obtain ⟨j, w⟩ := f
    have hj := tsorted_head h
    simp only [tset]
    split
    · rename_i hk
      exact tsorted_cons h fun e he => by
        rcases List.mem_cons.mp he with rfl | he
        · exact hk
        · exact Nat.lt_trans hk (hj e he)
    · split
      · rename_i hk; subst hk; exact tsorted_cons (tsorted_tail h) hj
      · rename_i h1 h2
        refine tsorted_cons (ih (tsorted_tail h)) fun e he => ?_
        rcases mem_tset he with rfl | he
        · show j < k; omega
        · exact hj e he

theorem mem_terase {t : Tab α} {k : Nat} {e : Nat × α} (h : e ∈ terase t k) : e ∈ t := by
  induction t with
  | nil => simp [terase] at h
  | cons f t ih =>
    obtain ⟨j, w⟩ := f
    simp only [terase] at h
    split at h
    · exact List.mem_cons_of_mem _ (ih h)
    · rcases List.mem_cons.mp h with rfl | h
      · exact List.mem_cons_self ..
      · exact List.mem_cons_of_mem _ (ih h)

theorem tsorted_terase {t : Tab α} (k : Nat) (h : tsorted t = true) : tsorted (terase t k) = true := by
  induction t with
  | nil => rfl
  | cons f t ih =>
    obtain ⟨j, w⟩ := f
    simp only [terase]
    split
    · exact ih (tsorted_tail h)
    · exact tsorted_cons (ih (tsorted_tail h)) fun e he => tsorted_head h e (mem_terase he)

theorem tget_terase (t : Tab α) (k j : Nat) : tget (terase t k) j = if j = k then none else tget t j := by
  induction t with
  | nil => simp [terase, tget]
  | cons f t ih =>
    obtain ⟨i, w⟩ := f
    simp only [terase]
    split
    · rename_i hk
      subst hk
      rw [ih]
      split
      · rfl
      · rename_i hj; simp [tget, Ne.symm hj]
    · rename_i hk
      simp only [tget, ih]
      split
      · rename_i hi; subst hi; simp [hk]
      · rfl

theorem tget_tclear (t : Tab α) (a b j : Nat) : tget (tclear t a b) j = if a ≤ j ∧ j < b then none else tget t j := by
  induction t with
  | nil => simp [tclear, tget]
  | cons e t ih =>
    obtain ⟨i, v⟩ := e
    by_cases h : a ≤ i ∧ i < b
    · have hc : tclear ((i, v) :: t) a b = tclear t a b := by simp [tclear, h.1, h.2]
      rw [hc, ih]
      by_cases hj : i = j
      · subst hj; simp [h]
      · simp [tget, hj]
    · have hc : tclear ((i, v) :: t) a b = (i, v) :: tclear t a b := by
        simp only [tclear, List.filter_cons]
        rw [if_pos]
        simp
        omega
      rw [hc]
      by_cases hj : i = j
      · subst hj; simp [tget, h]
      · simp only [tget, hj, if_false]; exact ih

theorem tsorted_tmod {t : Tab α} (k : Nat) (f : α → α) (h : tsorted t = true) : tsorted (tmod t k f) = true := by
  have keys : ∀ t : Tab α, ∀ e ∈ tmod t k f, ∃ x ∈ t, x.1 = e.1 := by
    intro t
    induction t with
    | nil => simp [tmod]
    | cons g t ih =>
      obtain ⟨j, w⟩ := g
      intro e he
      simp only [tmod] at he
      split at he
      · rcases List.mem_cons.mp he with rfl | he
        · exact ⟨(j, w), List.mem_cons_self .., rfl⟩
        · exact ⟨e, List.mem_cons_of_mem _ he, rfl⟩
      · rcases List.mem_cons.mp he with rfl | he
        · exact ⟨(j, w), List.mem_cons_self .., rfl⟩
        · obtain ⟨x, hx, hk⟩ := ih e he
          exact ⟨x, List.mem_cons_of_mem _ hx, hk⟩
  induction t with
  | nil => rfl
  | cons g t ih =>
    obtain ⟨j, w⟩ := g
    have hj := tsorted_head h
    simp only [tmod]
    split
    · exact tsorted_cons (tsorted_tail h) hj
    · refine tsorted_cons (ih (tsorted_tail h)) fun e he => ?_
      obtain ⟨x, hx, hk⟩ := keys t e he
      rw [← hk]; exact hj x hx

/-! ### Memory -/

theorem wf_iff (m : Memory) : Memory.wf m = true ↔ tsorted m = true ∧ ∀ e ∈ m, e.2 ≠ 0 := by
  simp [Memory.wf]

/-- A write keeps the canonical form. -/
theorem wf_mset {m : Memory} (a : Nat) (b : Byte) (h : Memory.wf m = true) : Memory.wf (mset m a b) = true := by
  rw [wf_iff] at h ⊢
  unfold mset
  split
  · exact ⟨tsorted_terase a h.1, fun e he => h.2 e (mem_terase he)⟩
  · rename_i hb
    refine ⟨tsorted_tset a b h.1, fun e he => ?_⟩
    rcases mem_tset he with rfl | he
    · exact hb
    · exact h.2 e he

theorem wf_mstore {m : Memory} (a : Nat) (bs : List Byte) (h : Memory.wf m = true) : Memory.wf (mstore m a bs) = true := by
  induction bs generalizing m a with
  | nil => exact h
  | cons b bs ih => exact ih (a + 1) (wf_mset a b h)

/-- Reading a byte after writing one. -/
theorem mget_mset (m : Memory) (a b : Nat) (v : Byte) : mget (mset m a v) b = if b = a then v else mget m b := by
  unfold mget mset
  split
  · rename_i hv
    rw [tget_terase]
    split <;> simp_all
  · rw [tget_tset]
    split <;> simp

/-- Reading a byte after storing several. -/
theorem mget_mstore (m : Memory) (a b : Nat) (bs : List Byte) :
    mget (mstore m a bs) b = if a ≤ b ∧ b < a + bs.length then bs.getD (b - a) 0 else mget m b := by
  induction bs generalizing m a with
  | nil => rw [if_neg (by simp)]; rfl
  | cons v bs ih =>
    simp only [mstore, ih, mget_mset, List.length_cons]
    by_cases h1 : b = a
    · subst h1; rw [if_neg (by omega), if_pos rfl, if_pos (by omega)]; simp
    · by_cases h2 : a + 1 ≤ b ∧ b < a + 1 + bs.length
      · have h4 : b - a = (b - (a + 1)) + 1 := by omega
        rw [if_pos h2, if_pos (by omega), h4]; simp
      · rw [if_neg h2, if_neg h1, if_neg (by omega)]

theorem wf_foldl_mset {m : Memory} (l : List (Nat × Byte)) (h : Memory.wf m = true) :
    Memory.wf (l.foldl (fun t e => mset t e.1 e.2) m) = true := by
  induction l generalizing m with
  | nil => exact h
  | cons e l ih => exact ih (wf_mset e.1 e.2 h)

end Sys2Proof.Laws
end

