-- ==== Sys2Proof/Laws/Memory.lean ====
section
/-! SUPPORT. Every operation of the ordering machine, and every shared operation that writes records or takes a trap, keeps
both memories in canonical form; a release and an acquire leave at their core what R209 and R210 say. -/

namespace Sys2Proof.Laws

open Sys2Proof.Machine

variable {s : State}

theorem memOk_iff : s.memOk = true ↔ Memory.wf s.m.mem = true ∧ Memory.wf s.m.host = true := by
  simp [State.memOk]

/-- Canonical form is a matter of the two memories alone. -/
theorem memOk_of_eq {t : State} (h : s.memOk = true) (hm : t.m.mem = s.m.mem) (hh : t.m.host = s.m.host) :
    t.memOk = true := by
  rw [memOk_iff] at h ⊢
  rw [hm, hh]
  exact h

theorem memOk_ite {c : Prop} [Decidable c] {a b : State} (ha : a.memOk = true) (hb : b.memOk = true) :
    (if c then a else b).memOk = true := by
  split <;> assumption

/-- A fold of operations each of which keeps the form keeps it. -/
theorem memOk_foldl {α : Type} (f : State → α → State) (hf : ∀ s a, State.memOk s = true → (f s a).memOk = true) (l : List α)
    {s : State} (h : s.memOk = true) : (l.foldl f s).memOk = true := by
  induction l generalizing s with
  | nil => exact h
  | cons a l ih => exact ih (hf s a h)

/-- A fold of operations none of which writes storage writes none. -/
theorem m_foldl {α : Type} (f : State → α → State) (hf : ∀ s a, (f s a).m = s.m) (l : List α) (s : State) :
    (l.foldl f s).m = s.m := by
  induction l generalizing s with
  | nil => rfl
  | cons a l ih => exact (ih (f s a)).trans (hf s a)

theorem wf_tclear {m : Memory} (lo hi : Nat) (h : Memory.wf m = true) : Memory.wf (tclear m lo hi) = true := by
  rw [wf_iff] at h ⊢
  refine ⟨?_, fun e he => h.2 e (List.mem_of_mem_filter he)⟩
  obtain ⟨hs, -⟩ := h
  unfold tclear
  induction m with
  | nil => rfl
  | cons e m ih =>
    obtain ⟨j, v⟩ := e
    rw [List.filter_cons]
    split
    · exact tsorted_cons (ih (tsorted_tail hs)) fun e he => tsorted_head hs e (List.mem_of_mem_filter he)
    · exact ih (tsorted_tail hs)

/-! ### Home points and final points -/

@[simp] theorem noteWritten_mem (s : State) (a n : Nat) : (s.noteWritten a n).m.mem = s.m.mem := by
  unfold State.noteWritten; split <;> rfl

@[simp] theorem noteWritten_host (s : State) (a n : Nat) : (s.noteWritten a n).m.host = s.m.host := by
  unfold State.noteWritten; split <;> rfl

@[simp] theorem noteWhole_mem (s : State) (a n : Nat) : (s.noteWhole a n).m.mem = s.m.mem := by
  unfold State.noteWhole; split <;> rfl

@[simp] theorem noteWhole_host (s : State) (a n : Nat) : (s.noteWhole a n).m.host = s.m.host := by
  unfold State.noteWhole; split <;> rfl

@[simp] theorem noteDropped_mem (s : State) (a n : Nat) : (s.noteDropped a n).m.mem = s.m.mem := by
  unfold State.noteDropped; split <;> rfl

@[simp] theorem noteDropped_host (s : State) (a n : Nat) : (s.noteDropped a n).m.host = s.m.host := by
  unfold State.noteDropped; split <;> rfl

theorem memOk_noteWritten (a n : Nat) (h : s.memOk = true) : (s.noteWritten a n).memOk = true :=
  memOk_of_eq h (by simp) (by simp)

theorem memOk_settleWr (w : HWr) (h : s.memOk = true) : (s.settleWr w).memOk = true := by
  refine memOk_foldl _ (fun s e h => memOk_noteWritten e.1 1 h) _ ?_
  rw [memOk_iff] at h ⊢
  exact ⟨wf_foldl_mset _ h.1, h.2⟩

theorem memOk_settleBlock (blk : Nat) (h : s.memOk = true) : (s.settleBlock blk).memOk = true := by
  unfold State.settleBlock
  split
  · exact h
  · exact memOk_settleWr _ h

theorem memOk_settleBlockAll (blk : Nat) (h : s.memOk = true) : (s.settleBlockAll blk).memOk = true :=
  memOk_foldl _ (fun _ _ => memOk_settleBlock blk) _ h

theorem memOk_settleAll (h : s.memOk = true) : s.settleAll.memOk = true := by
  refine memOk_foldl _ (fun s w h => ?_) _ h
  split
  · exact memOk_settleBlock _ h
  · exact h

@[simp] theorem stampBytes_mem (s : State) (l : List Nat) (p : Nat → Bool) : (s.stampBytes l p).m.mem = s.m.mem := rfl
@[simp] theorem stampBytes_host (s : State) (l : List Nat) (p : Nat → Bool) : (s.stampBytes l p).m.host = s.m.host := rfl

@[simp] theorem homeWrite_mem (s : State) (l : List (Nat × Byte)) : (s.homeWrite l).m.mem = s.m.mem := by
  unfold State.homeWrite; split <;> simp

@[simp] theorem homeWrite_host (s : State) (l : List (Nat × Byte)) : (s.homeWrite l).m.host = s.m.host := by
  unfold State.homeWrite; split <;> simp

theorem memOk_homeStore (a : Nat) (data : List Byte) (h : s.memOk = true) : (s.homeStore a data).memOk = true :=
  memOk_foldl _ (fun _ _ h => memOk_of_eq h (by simp) (by simp)) _ h

theorem memOk_finalWrite (a : Nat) (data : List Byte) (h : s.memOk = true) : (s.finalWrite a data).memOk = true := by
  have h1 := memOk_foldl State.settleBlockAll (fun s b h => memOk_settleBlockAll b h) (blocksOf a data.length) h
  rw [memOk_iff] at h1
  unfold State.finalWrite
  rw [memOk_iff]
  simp only [noteWhole_mem, noteDropped_mem, noteWhole_host, noteDropped_host, stampBytes_mem, stampBytes_host]
  exact ⟨wf_mstore _ _ h1.1, h1.2⟩

theorem memOk_ucWrite (a : Nat) (data : List Byte) (h : s.memOk = true) : (s.ucWrite a data).memOk = true :=
  memOk_foldl _ (fun _ _ h => memOk_finalWrite _ _ h) _ h

theorem memOk_physWrite (a n v : Nat) (h : s.memOk = true) : (s.physWrite a n v).memOk = true := memOk_finalWrite _ _ h

/-! ### Core points, scratchpads, queues, other devices -/

theorem memOk_pushByte (c pa : Nat) (h : s.memOk = true) : (s.pushByte c pa).memOk = true := by
  unfold State.pushByte
  split
  · exact h
  · exact memOk_of_eq h (by simp) (by simp)

theorem memOk_pushBytes (c pa n : Nat) (h : s.memOk = true) : (s.pushBytes c pa n).memOk = true :=
  memOk_foldl _ (fun _ _ h => memOk_pushByte _ _ h) _ h

theorem memOk_pushBlock (c b : Nat) (h : s.memOk = true) : (s.pushBlock c b).memOk = true := memOk_pushBytes _ _ _ h

theorem memOk_pushCore (c : Nat) (h : s.memOk = true) : (s.pushCore c).memOk = true :=
  memOk_foldl _ (fun _ b => memOk_pushBlock c b) _ h

theorem memOk_corePut (c : Nat) (l : List (Nat × Byte)) (h : s.memOk = true) : (s.corePut c l).memOk = true := by
  unfold State.corePut
  split <;> exact h

theorem memOk_coreWrite (c pa : Nat) (l : List Byte) (h : s.memOk = true) : (s.coreWrite c pa l).memOk = true :=
  memOk_foldl _ (fun _ x h => memOk_corePut c x h) _ h

@[simp] theorem spadWrite_mem (s : State) (c o : Nat) (l : List Byte) : (s.spadWrite c o l).m.mem = s.m.mem := rfl
@[simp] theorem spadWrite_host (s : State) (c o : Nat) (l : List Byte) : (s.spadWrite c o l).m.host = s.m.host := rfl
@[simp] theorem enqueue_m (s : State) (pa n : Nat) (c : Option Nat) (va : Nat) (x : QAct) (b : Bool) :
    (s.enqueue pa n c va x b).m = s.m := rfl

theorem memOk_spadStore (wk c o : Nat) (l : List Byte) (h : s.memOk = true) : (s.spadStore wk c o l).memOk = true := by
  unfold State.spadStore
  exact memOk_ite h h

theorem memOk_onchipSet (c o : Nat) (b : Byte) (k : Nat) (h : s.memOk = true) :
    (s.onchipSet c o b k).memOk = true := by
  unfold State.onchipSet
  dsimp only
  split <;> exact h

theorem memOk_onchipWrite (c o : Nat) (l : List Byte) (k : Option Nat) (h : s.memOk = true) :
    (s.onchipWrite c o l k).memOk = true := by
  unfold State.onchipWrite
  cases k with
  | none => exact memOk_foldl _ (fun _ (e : Nat × Byte) h => memOk_onchipSet c (o + e.1) e.2 _ h) _ h
  | some k => exact memOk_foldl _ (fun _ (e : Nat × Byte) h => memOk_onchipSet c (o + e.1) e.2 k h) _ h

@[simp] theorem raiseFloor_mem (s : State) (a : Agent) (p st : Nat) : (s.raiseFloor a p st).m.mem = s.m.mem := rfl
@[simp] theorem raiseFloor_host (s : State) (a : Agent) (p st : Nat) : (s.raiseFloor a p st).m.host = s.m.host := rfl

theorem memOk_peerFloor (a : Agent) (d pa n : Nat) (h : s.memOk = true) : (s.peerFloor a d pa n).memOk = true :=
  memOk_foldl _ (fun _ _ h => memOk_of_eq h (by simp) (by simp)) _ h

@[simp] theorem noteMigr_m (s : State) (p : Migr → Bool) : (s.noteMigr p).m = s.m := by
  unfold State.noteMigr; split <;> rfl

theorem memOk_hostStore (c ha : Nat) (l : List Byte) (h : s.memOk = true) : (s.hostStore c ha l).memOk = true := by
  rw [memOk_iff] at h ⊢
  exact ⟨by simpa [State.hostStore] using h.1, by simpa [State.hostStore] using wf_mstore _ l h.2⟩

@[simp] theorem skSend_m (s : State) (m : Msg) (c va : Nat) (who : SkWho) : (s.skSend m c va who).1.m = s.m := by
  unfold State.skSend
  dsimp only
  split
  · rfl
  · simp only [State.skTransmit]
    split <;> simp

theorem memOk_postWr (w : Wr) (c : Nat) (h : s.memOk = true) : (s.postWr w c).memOk = true := by
  have h1 : State.memOk { s with m := { s.m with tbuf := s.m.tbuf.filter fun x => x.id != w.id } } = true := h
  unfold State.postWr
  dsimp only
  split
  · exact memOk_spadStore _ _ _ _ h1
  · exact memOk_onchipWrite _ _ _ _ h1
  · exact memOk_coreWrite _ _ _ h1
  · exact memOk_coreWrite _ _ _ h1
  · exact h1
  · exact memOk_ucWrite _ _ h1
  · exact memOk_hostStore _ _ _ h1
  · exact memOk_peerFloor _ _ _ _ (memOk_of_eq h1 (by simp) (by simp))

theorem memOk_postWhere (p : Wr → Bool) (h : s.memOk = true) : (s.postWhere p).memOk = true :=
  memOk_foldl _ (fun _ w => memOk_postWr w _) _ h

theorem memOk_postThread (wk l : Nat) (k : Option Nat) (h : s.memOk = true) : (s.postThread wk l k).memOk = true :=
  memOk_postWhere _ h

theorem memOk_postWarp (wk : Nat) (h : s.memOk = true) : (s.postWarp wk).memOk = true := memOk_postWhere _ h

theorem memOk_release (wk l c sc : Nat) (h : s.memOk = true) : (s.release wk l c sc).1.memOk = true := by
  unfold State.release
  dsimp only
  split <;> split <;> split <;>
    first
    | exact h
    | exact memOk_settleAll (memOk_pushCore c (memOk_postThread wk l none h))
    | exact memOk_settleAll (memOk_postThread wk l none h)
    | exact memOk_settleAll (memOk_pushCore c h)
    | exact memOk_settleAll h
    | exact memOk_pushCore c (memOk_postThread wk l none h)
    | exact memOk_pushCore c h
    | exact memOk_postThread wk l none h

/-! ### Records -/

theorem memOk_signal (f v : Nat) (h : s.memOk = true) : (s.signal f v).memOk = true := by
  unfold State.signal
  exact memOk_ite h (memOk_hostStore _ _ _ h)

theorem memOk_ringPut (d : Nat) (l : List Byte) (h : s.memOk = true) : (s.ringPut d l).memOk = true :=
  memOk_physWrite _ _ _ (memOk_finalWrite _ _ h)

theorem memOk_flushFaults (c : Nat) (h : s.memOk = true) : (s.flushFaults c).memOk = true := by
  unfold State.flushFaults
  split
  · exact h
  · refine memOk_foldl _ (fun s r h => ?_) _ h
    have ok (d : Nat) (f : Ctx → Ctx) : (((s.ringPut d r).modCtx c f).signal c 0).memOk = true :=
      memOk_signal c 0 (memOk_of_eq (memOk_ringPut d r h) rfl rfl)
    exact memOk_ite (memOk_ite (memOk_signal _ _ (ok _ _)) (ok _ _)) h

theorem memOk_faultRecord (c : Nat) (r : FaultRec) (h : s.memOk = true) : (s.faultRecord c r).memOk = true :=
  memOk_flushFaults c (memOk_of_eq h rfl rfl)

theorem memOk_ctxRecord (c : Nat) (r : FaultRec) (h : s.memOk = true) : (s.ctxRecord c r).memOk = true := by
  unfold State.ctxRecord
  split
  · exact h
  · exact memOk_faultRecord _ _ (memOk_of_eq h rfl rfl)

theorem memOk_setCtxState (c st : Nat) (h : s.memOk = true) : (s.setCtxState c st).memOk = true :=
  memOk_ctxRecord _ _ (memOk_of_eq h rfl rfl)

theorem withMg_m (s : State) (x : MgmtSt) : ({ s with mg := x } : State).m = s.m := rfl

theorem history_m (s : State) (l : List Byte) : (s.history l).m = s.m := by
  unfold State.history
  exact withMg_m s _

theorem memOk_errorRecord (c : Option Nat) (r : ErrRec) (h : s.memOk = true) : (s.errorRecord c r).memOk = true := by
  unfold State.errorRecord
  split
  · exact memOk_of_eq h (by rw [history_m]) (by rw [history_m])
  · refine memOk_ite (memOk_signal _ _ (memOk_ringPut _ _ h)) ?_
    apply memOk_physWrite
    exact h

/-! ### Ends of threads, stops, traps -/

theorem memOk_triggerThread (wk l : Nat) (h : s.memOk = true) : (s.triggerThread wk l).memOk = true := by
  unfold State.triggerThread
  split
  · split
    · exact h
    · exact memOk_of_eq (memOk_release _ _ _ _ h) rfl rfl
  · exact h

theorem barArriveOne_m (s : State) (tk wk l b : Nat) (c : BitVec 12) (x : Bool) (g : Nat) :
    (s.barArriveOne tk wk l b c x g).m = s.m := by
  unfold State.barArriveOne
  split
  · rfl
  · dsimp only
    split
    · rfl
    · split <;> rfl

theorem arrive_m (s : State) (wk : Nat) (ls : List Nat) : (s.arrive wk ls).m = s.m := by
  unfold State.arrive
  split <;> rfl

theorem wake_m (s : State) (wk : Nat) (ls : List Nat) : (s.wake wk ls).m = s.m := by
  unfold State.wake State.arrive
  dsimp only
  split <;> rfl

theorem regsAcquired_m (s : State) (wk : Nat) : (s.regsAcquired wk).m = s.m := by
  unfold State.regsAcquired
  split <;> rfl

theorem barPhase_m (s : State) (tk b : Nat) : (s.barPhase tk b).m = s.m := by
  unfold State.barPhase
  split
  · rfl
  · dsimp only
    rw [m_foldl _ fun u e => (regsAcquired_m _ _).trans (wake_m u _ _)]
    rfl

theorem barCarry_m (tk b : Nat) (l : List (Nat × Nat × Option (BitVec 12 × Bool × Nat))) (s : State) :
    (s.barCarry tk b l).m = s.m := by
  induction l generalizing s with
  | nil => rfl
  | cons e l ih =>
    obtain ⟨wk, n, a⟩ := e
    rcases a with - | ⟨c, x, g⟩
    · exact ih s
    · simp only [State.barCarry]
      rw [ih]
      have h1 := barArriveOne_m s tk wk n b c x g
      split
      · split <;> split <;> simp only [barPhase_m, wake_m, h1]
      · rfl

theorem barTest_m (s : State) (tk b : Nat) : (s.barTest tk b).m = s.m := by
  unfold State.barTest
  split
  · rw [barCarry_m, barPhase_m]
  · rfl

theorem barTestAll_m (s : State) (tk : Nat) : (s.barTestAll tk).m = s.m := by
  unfold State.barTestAll
  split
  · rfl
  · exact m_foldl _ (fun u (e : Nat × Barrier) => barTest_m u tk e.1) _ s

theorem memOk_endThreads (wk : Nat) (ls : List Nat) (st : TState) (h : s.memOk = true) :
    (s.endThreads wk ls st).memOk = true := by
  have h1 : (ls.foldl (fun s l => s.triggerThread wk l) s).memOk = true :=
    memOk_foldl _ (fun _ l => memOk_triggerThread wk l) _ h
  have hv (t : State) (r : Recruit) (ht : t.memOk = true) :
      (if ls.contains r.lane then t.voidRecruit wk else t).memOk = true := memOk_ite ht ht
  have hb (t : State) (ht : t.memOk = true) : (match t.warp wk with
      | some w => t.barTestAll w.team
      | none => t : State).memOk = true := by
    cases t.warp wk with
    | none => exact ht
    | some w => exact memOk_of_eq ht (by rw [barTestAll_m]) (by rw [barTestAll_m])
  unfold State.endThreads
  refine memOk_of_eq (hb _ ?_) rfl rfl
  split
  · exact hv _ _ h1
  · exact h1

theorem memOk_stopContext (c : Nat) (r : FaultRec) (h : s.memOk = true) : (s.stopContext c r).memOk = true := by
  unfold State.stopContext
  split
  · exact h
  · split
    · exact h
    · dsimp only
      split
      · exact memOk_of_eq (memOk_ctxRecord c r h) rfl rfl
      · exact memOk_of_eq (memOk_faultRecord c r h) rfl rfl

theorem memOk_warpSeq (wk : Nat) (h : s.memOk = true) : (s.warpSeq wk).2.memOk = true := by
  unfold State.warpSeq
  split <;> exact h

theorem memOk_warpStops (wk r pc : Nat) (h : s.memOk = true) : (s.warpStops wk r pc).memOk = true := by
  unfold State.warpStops
  split
  · exact memOk_stopContext _ _ (memOk_warpSeq wk h)
  · exact h

theorem memOk_killLanes (wk : Nat) (r : TrapRec) (h : s.memOk = true) : (s.killLanes wk r).memOk = true := by
  unfold State.killLanes
  split
  · refine memOk_endThreads _ _ _ (memOk_foldl _ (fun s row h => ?_) _ h)
    exact memOk_ite h (memOk_faultRecord _ _ (memOk_warpSeq wk h))
  · exact h

/-- Taking a trap, whichever way it goes. -/
theorem memOk_takeTrap (wk : Nat) (b : List Nat) (r : TrapRec) (h : s.memOk = true) : (s.takeTrap wk b r).memOk = true := by
  unfold State.takeTrap
  split
  · refine memOk_ite (memOk_warpStops _ _ _ h) (memOk_ite ?_ (memOk_ite (memOk_warpStops _ _ _ h) h))
    exact memOk_ite (memOk_of_eq (memOk_killLanes _ _ h) (by rw [arrive_m]; rfl) (by rw [arrive_m]; rfl)) (memOk_killLanes _ _ h)
  · exact h

theorem memOk_helperTrapAt (wk k : Nat) (r : TrapRec) (h : s.memOk = true) : (s.helperTrapAt wk k r).memOk = true := by
  unfold State.helperTrapAt
  split
  · exact h
  · split
    · exact h
    · refine memOk_ite h ?_
      dsimp only
      split
      · split <;> exact h
      · exact h

theorem memOk_raiseRec (r : TrapRec) (h : s.memOk = true) : (s.raiseRec r).memOk = true := by
  unfold State.raiseRec
  split
  · exact h
  · split
    · exact memOk_takeTrap _ _ _ h
    · exact memOk_helperTrapAt _ _ _ h

theorem memOk_raise (c : Nat) (l : List Nat) (a i : Nat) (h : s.memOk = true) : (s.raise c l a i).memOk = true := by
  unfold State.raise
  split
  · exact h
  · exact memOk_raiseRec _ h

theorem memOk_illegal (n : Nat) (l : List Nat) (h : s.memOk = true) : (s.illegal n l).memOk = true := by
  unfold State.illegal
  split
  · exact h
  · exact memOk_raise _ _ _ _ h

theorem memOk_forbid (i : Issue) (c : Nat) (l : List Nat) (h : s.memOk = true) : (s.forbid i c l).memOk = true := by
  unfold State.forbid
  split
  · exact memOk_illegal _ _ h
  · split
    · exact h
    · exact memOk_illegal _ _ h

end Sys2Proof.Laws
end

