-- ==== Sys2Proof/Laws/State.lean ====
section
/-! SUPPORT. What each update of a state leaves in each field. -/

namespace Sys2Proof.Laws

open Sys2Proof.Machine

/-! ### pend -/

@[simp] theorem pend_agenda (s : State) (i : Instr) : (s.pend i).agenda = s.agenda := rfl
@[simp] theorem pend_oracle (s : State) (i : Instr) : (s.pend i).oracle = s.oracle := rfl
@[simp] theorem pend_freeCount (s : State) (i : Instr) : (s.pend i).freeCount = s.freeCount := rfl
@[simp] theorem pend_nextId (s : State) (i : Instr) : (s.pend i).nextId = s.nextId := rfl
@[simp] theorem pend_stampCtr (s : State) (i : Instr) : (s.pend i).stampCtr = s.stampCtr := rfl
@[simp] theorem pend_stepNo (s : State) (i : Instr) : (s.pend i).stepNo = s.stepNo := rfl
@[simp] theorem pend_seqs (s : State) (i : Instr) : (s.pend i).seqs = s.seqs := rfl
@[simp] theorem pend_iss (s : State) (i : Instr) : (s.pend i).iss = s.iss := rfl
@[simp] theorem pend_warps (s : State) (i : Instr) : (s.pend i).warps = s.warps := rfl
@[simp] theorem pend_teams (s : State) (i : Instr) : (s.pend i).teams = s.teams := rfl
@[simp] theorem pend_launches (s : State) (i : Instr) : (s.pend i).launches = s.launches := rfl
@[simp] theorem pend_graphs (s : State) (i : Instr) : (s.pend i).graphs = s.graphs := rfl
@[simp] theorem pend_ctxs (s : State) (i : Instr) : (s.pend i).ctxs = s.ctxs := rfl
@[simp] theorem pend_saves (s : State) (i : Instr) : (s.pend i).saves = s.saves := rfl
@[simp] theorem pend_cores (s : State) (i : Instr) : (s.pend i).cores = s.cores := rfl
@[simp] theorem pend_scheds (s : State) (i : Instr) : (s.pend i).scheds = s.scheds := rfl
@[simp] theorem pend_reg (s : State) (i : Instr) : (s.pend i).reg = s.reg := rfl
@[simp] theorem pend_m (s : State) (i : Instr) : (s.pend i).m = s.m := rfl
@[simp] theorem pend_sw (s : State) (i : Instr) : (s.pend i).sw = s.sw := rfl
@[simp] theorem pend_tr (s : State) (i : Instr) : (s.pend i).tr = s.tr := rfl
@[simp] theorem pend_ops (s : State) (i : Instr) : (s.pend i).ops = s.ops := rfl
@[simp] theorem pend_mops (s : State) (i : Instr) : (s.pend i).mops = s.mops := rfl
@[simp] theorem pend_qarrays (s : State) (i : Instr) : (s.pend i).qarrays = s.qarrays := rfl
@[simp] theorem pend_copies (s : State) (i : Instr) : (s.pend i).copies = s.copies := rfl
@[simp] theorem pend_tlrs (s : State) (i : Instr) : (s.pend i).tlrs = s.tlrs := rfl
@[simp] theorem pend_descs (s : State) (i : Instr) : (s.pend i).descs = s.descs := rfl
@[simp] theorem pend_resReqs (s : State) (i : Instr) : (s.pend i).resReqs = s.resReqs := rfl
@[simp] theorem pend_evWaits (s : State) (i : Instr) : (s.pend i).evWaits = s.evWaits := rfl
@[simp] theorem pend_kvq (s : State) (i : Instr) : (s.pend i).kvq = s.kvq := rfl
@[simp] theorem pend_kvPools (s : State) (i : Instr) : (s.pend i).kvPools = s.kvPools := rfl
@[simp] theorem pend_nms (s : State) (i : Instr) : (s.pend i).nms = s.nms := rfl
@[simp] theorem pend_nmLog (s : State) (i : Instr) : (s.pend i).nmLog = s.nmLog := rfl
@[simp] theorem pend_nmFences (s : State) (i : Instr) : (s.pend i).nmFences = s.nmFences := rfl
@[simp] theorem pend_sk (s : State) (i : Instr) : (s.pend i).sk = s.sk := rfl
@[simp] theorem pend_hl (s : State) (i : Instr) : (s.pend i).hl = s.hl := rfl
@[simp] theorem pend_mg (s : State) (i : Instr) : (s.pend i).mg = s.mg := rfl

/-! ### pendAll -/

@[simp] theorem pendAll_agenda (s : State) (l : List Instr) : (s.pendAll l).agenda = s.agenda := rfl
@[simp] theorem pendAll_oracle (s : State) (l : List Instr) : (s.pendAll l).oracle = s.oracle := rfl
@[simp] theorem pendAll_freeCount (s : State) (l : List Instr) : (s.pendAll l).freeCount = s.freeCount := rfl
@[simp] theorem pendAll_nextId (s : State) (l : List Instr) : (s.pendAll l).nextId = s.nextId := rfl
@[simp] theorem pendAll_stampCtr (s : State) (l : List Instr) : (s.pendAll l).stampCtr = s.stampCtr := rfl
@[simp] theorem pendAll_stepNo (s : State) (l : List Instr) : (s.pendAll l).stepNo = s.stepNo := rfl
@[simp] theorem pendAll_seqs (s : State) (l : List Instr) : (s.pendAll l).seqs = s.seqs := rfl
@[simp] theorem pendAll_iss (s : State) (l : List Instr) : (s.pendAll l).iss = s.iss := rfl
@[simp] theorem pendAll_warps (s : State) (l : List Instr) : (s.pendAll l).warps = s.warps := rfl
@[simp] theorem pendAll_teams (s : State) (l : List Instr) : (s.pendAll l).teams = s.teams := rfl
@[simp] theorem pendAll_launches (s : State) (l : List Instr) : (s.pendAll l).launches = s.launches := rfl
@[simp] theorem pendAll_graphs (s : State) (l : List Instr) : (s.pendAll l).graphs = s.graphs := rfl
@[simp] theorem pendAll_ctxs (s : State) (l : List Instr) : (s.pendAll l).ctxs = s.ctxs := rfl
@[simp] theorem pendAll_saves (s : State) (l : List Instr) : (s.pendAll l).saves = s.saves := rfl
@[simp] theorem pendAll_cores (s : State) (l : List Instr) : (s.pendAll l).cores = s.cores := rfl
@[simp] theorem pendAll_scheds (s : State) (l : List Instr) : (s.pendAll l).scheds = s.scheds := rfl
@[simp] theorem pendAll_reg (s : State) (l : List Instr) : (s.pendAll l).reg = s.reg := rfl
@[simp] theorem pendAll_m (s : State) (l : List Instr) : (s.pendAll l).m = s.m := rfl
@[simp] theorem pendAll_sw (s : State) (l : List Instr) : (s.pendAll l).sw = s.sw := rfl
@[simp] theorem pendAll_tr (s : State) (l : List Instr) : (s.pendAll l).tr = s.tr := rfl
@[simp] theorem pendAll_ops (s : State) (l : List Instr) : (s.pendAll l).ops = s.ops := rfl
@[simp] theorem pendAll_mops (s : State) (l : List Instr) : (s.pendAll l).mops = s.mops := rfl
@[simp] theorem pendAll_qarrays (s : State) (l : List Instr) : (s.pendAll l).qarrays = s.qarrays := rfl
@[simp] theorem pendAll_copies (s : State) (l : List Instr) : (s.pendAll l).copies = s.copies := rfl
@[simp] theorem pendAll_tlrs (s : State) (l : List Instr) : (s.pendAll l).tlrs = s.tlrs := rfl
@[simp] theorem pendAll_descs (s : State) (l : List Instr) : (s.pendAll l).descs = s.descs := rfl
@[simp] theorem pendAll_resReqs (s : State) (l : List Instr) : (s.pendAll l).resReqs = s.resReqs := rfl
@[simp] theorem pendAll_evWaits (s : State) (l : List Instr) : (s.pendAll l).evWaits = s.evWaits := rfl
@[simp] theorem pendAll_kvq (s : State) (l : List Instr) : (s.pendAll l).kvq = s.kvq := rfl
@[simp] theorem pendAll_kvPools (s : State) (l : List Instr) : (s.pendAll l).kvPools = s.kvPools := rfl
@[simp] theorem pendAll_nms (s : State) (l : List Instr) : (s.pendAll l).nms = s.nms := rfl
@[simp] theorem pendAll_nmLog (s : State) (l : List Instr) : (s.pendAll l).nmLog = s.nmLog := rfl
@[simp] theorem pendAll_nmFences (s : State) (l : List Instr) : (s.pendAll l).nmFences = s.nmFences := rfl
@[simp] theorem pendAll_sk (s : State) (l : List Instr) : (s.pendAll l).sk = s.sk := rfl
@[simp] theorem pendAll_hl (s : State) (l : List Instr) : (s.pendAll l).hl = s.hl := rfl
@[simp] theorem pendAll_mg (s : State) (l : List Instr) : (s.pendAll l).mg = s.mg := rfl

/-! ### soon -/

@[simp] theorem soon_pending (s : State) (i : Instr) : (s.soon i).pending = s.pending := rfl
@[simp] theorem soon_oracle (s : State) (i : Instr) : (s.soon i).oracle = s.oracle := rfl
@[simp] theorem soon_freeCount (s : State) (i : Instr) : (s.soon i).freeCount = s.freeCount := rfl
@[simp] theorem soon_nextId (s : State) (i : Instr) : (s.soon i).nextId = s.nextId := rfl
@[simp] theorem soon_stampCtr (s : State) (i : Instr) : (s.soon i).stampCtr = s.stampCtr := rfl
@[simp] theorem soon_stepNo (s : State) (i : Instr) : (s.soon i).stepNo = s.stepNo := rfl
@[simp] theorem soon_seqs (s : State) (i : Instr) : (s.soon i).seqs = s.seqs := rfl
@[simp] theorem soon_iss (s : State) (i : Instr) : (s.soon i).iss = s.iss := rfl
@[simp] theorem soon_warps (s : State) (i : Instr) : (s.soon i).warps = s.warps := rfl
@[simp] theorem soon_teams (s : State) (i : Instr) : (s.soon i).teams = s.teams := rfl
@[simp] theorem soon_launches (s : State) (i : Instr) : (s.soon i).launches = s.launches := rfl
@[simp] theorem soon_graphs (s : State) (i : Instr) : (s.soon i).graphs = s.graphs := rfl
@[simp] theorem soon_ctxs (s : State) (i : Instr) : (s.soon i).ctxs = s.ctxs := rfl
@[simp] theorem soon_saves (s : State) (i : Instr) : (s.soon i).saves = s.saves := rfl
@[simp] theorem soon_cores (s : State) (i : Instr) : (s.soon i).cores = s.cores := rfl
@[simp] theorem soon_scheds (s : State) (i : Instr) : (s.soon i).scheds = s.scheds := rfl
@[simp] theorem soon_reg (s : State) (i : Instr) : (s.soon i).reg = s.reg := rfl
@[simp] theorem soon_m (s : State) (i : Instr) : (s.soon i).m = s.m := rfl
@[simp] theorem soon_sw (s : State) (i : Instr) : (s.soon i).sw = s.sw := rfl
@[simp] theorem soon_tr (s : State) (i : Instr) : (s.soon i).tr = s.tr := rfl
@[simp] theorem soon_ops (s : State) (i : Instr) : (s.soon i).ops = s.ops := rfl
@[simp] theorem soon_mops (s : State) (i : Instr) : (s.soon i).mops = s.mops := rfl
@[simp] theorem soon_qarrays (s : State) (i : Instr) : (s.soon i).qarrays = s.qarrays := rfl
@[simp] theorem soon_copies (s : State) (i : Instr) : (s.soon i).copies = s.copies := rfl
@[simp] theorem soon_tlrs (s : State) (i : Instr) : (s.soon i).tlrs = s.tlrs := rfl
@[simp] theorem soon_descs (s : State) (i : Instr) : (s.soon i).descs = s.descs := rfl
@[simp] theorem soon_resReqs (s : State) (i : Instr) : (s.soon i).resReqs = s.resReqs := rfl
@[simp] theorem soon_evWaits (s : State) (i : Instr) : (s.soon i).evWaits = s.evWaits := rfl
@[simp] theorem soon_kvq (s : State) (i : Instr) : (s.soon i).kvq = s.kvq := rfl
@[simp] theorem soon_kvPools (s : State) (i : Instr) : (s.soon i).kvPools = s.kvPools := rfl
@[simp] theorem soon_nms (s : State) (i : Instr) : (s.soon i).nms = s.nms := rfl
@[simp] theorem soon_nmLog (s : State) (i : Instr) : (s.soon i).nmLog = s.nmLog := rfl
@[simp] theorem soon_nmFences (s : State) (i : Instr) : (s.soon i).nmFences = s.nmFences := rfl
@[simp] theorem soon_sk (s : State) (i : Instr) : (s.soon i).sk = s.sk := rfl
@[simp] theorem soon_hl (s : State) (i : Instr) : (s.soon i).hl = s.hl := rfl
@[simp] theorem soon_mg (s : State) (i : Instr) : (s.soon i).mg = s.mg := rfl

/-! ### modWarp -/

@[simp] theorem modWarp_agenda (s : State) (k : Nat) (f : Warp → Warp) : (s.modWarp k f).agenda = s.agenda := rfl
@[simp] theorem modWarp_pending (s : State) (k : Nat) (f : Warp → Warp) : (s.modWarp k f).pending = s.pending := rfl
@[simp] theorem modWarp_oracle (s : State) (k : Nat) (f : Warp → Warp) : (s.modWarp k f).oracle = s.oracle := rfl
@[simp] theorem modWarp_freeCount (s : State) (k : Nat) (f : Warp → Warp) : (s.modWarp k f).freeCount = s.freeCount := rfl
@[simp] theorem modWarp_nextId (s : State) (k : Nat) (f : Warp → Warp) : (s.modWarp k f).nextId = s.nextId := rfl
@[simp] theorem modWarp_stampCtr (s : State) (k : Nat) (f : Warp → Warp) : (s.modWarp k f).stampCtr = s.stampCtr := rfl
@[simp] theorem modWarp_stepNo (s : State) (k : Nat) (f : Warp → Warp) : (s.modWarp k f).stepNo = s.stepNo := rfl
@[simp] theorem modWarp_seqs (s : State) (k : Nat) (f : Warp → Warp) : (s.modWarp k f).seqs = s.seqs := rfl
@[simp] theorem modWarp_iss (s : State) (k : Nat) (f : Warp → Warp) : (s.modWarp k f).iss = s.iss := rfl
@[simp] theorem modWarp_teams (s : State) (k : Nat) (f : Warp → Warp) : (s.modWarp k f).teams = s.teams := rfl
@[simp] theorem modWarp_launches (s : State) (k : Nat) (f : Warp → Warp) : (s.modWarp k f).launches = s.launches := rfl
@[simp] theorem modWarp_graphs (s : State) (k : Nat) (f : Warp → Warp) : (s.modWarp k f).graphs = s.graphs := rfl
@[simp] theorem modWarp_ctxs (s : State) (k : Nat) (f : Warp → Warp) : (s.modWarp k f).ctxs = s.ctxs := rfl
@[simp] theorem modWarp_saves (s : State) (k : Nat) (f : Warp → Warp) : (s.modWarp k f).saves = s.saves := rfl
@[simp] theorem modWarp_cores (s : State) (k : Nat) (f : Warp → Warp) : (s.modWarp k f).cores = s.cores := rfl
@[simp] theorem modWarp_scheds (s : State) (k : Nat) (f : Warp → Warp) : (s.modWarp k f).scheds = s.scheds := rfl
@[simp] theorem modWarp_reg (s : State) (k : Nat) (f : Warp → Warp) : (s.modWarp k f).reg = s.reg := rfl
@[simp] theorem modWarp_m (s : State) (k : Nat) (f : Warp → Warp) : (s.modWarp k f).m = s.m := rfl
@[simp] theorem modWarp_sw (s : State) (k : Nat) (f : Warp → Warp) : (s.modWarp k f).sw = s.sw := rfl
@[simp] theorem modWarp_tr (s : State) (k : Nat) (f : Warp → Warp) : (s.modWarp k f).tr = s.tr := rfl
@[simp] theorem modWarp_ops (s : State) (k : Nat) (f : Warp → Warp) : (s.modWarp k f).ops = s.ops := rfl
@[simp] theorem modWarp_mops (s : State) (k : Nat) (f : Warp → Warp) : (s.modWarp k f).mops = s.mops := rfl
@[simp] theorem modWarp_qarrays (s : State) (k : Nat) (f : Warp → Warp) : (s.modWarp k f).qarrays = s.qarrays := rfl
@[simp] theorem modWarp_copies (s : State) (k : Nat) (f : Warp → Warp) : (s.modWarp k f).copies = s.copies := rfl
@[simp] theorem modWarp_tlrs (s : State) (k : Nat) (f : Warp → Warp) : (s.modWarp k f).tlrs = s.tlrs := rfl
@[simp] theorem modWarp_descs (s : State) (k : Nat) (f : Warp → Warp) : (s.modWarp k f).descs = s.descs := rfl
@[simp] theorem modWarp_resReqs (s : State) (k : Nat) (f : Warp → Warp) : (s.modWarp k f).resReqs = s.resReqs := rfl
@[simp] theorem modWarp_evWaits (s : State) (k : Nat) (f : Warp → Warp) : (s.modWarp k f).evWaits = s.evWaits := rfl
@[simp] theorem modWarp_kvq (s : State) (k : Nat) (f : Warp → Warp) : (s.modWarp k f).kvq = s.kvq := rfl
@[simp] theorem modWarp_kvPools (s : State) (k : Nat) (f : Warp → Warp) : (s.modWarp k f).kvPools = s.kvPools := rfl
@[simp] theorem modWarp_nms (s : State) (k : Nat) (f : Warp → Warp) : (s.modWarp k f).nms = s.nms := rfl
@[simp] theorem modWarp_nmLog (s : State) (k : Nat) (f : Warp → Warp) : (s.modWarp k f).nmLog = s.nmLog := rfl
@[simp] theorem modWarp_nmFences (s : State) (k : Nat) (f : Warp → Warp) : (s.modWarp k f).nmFences = s.nmFences := rfl
@[simp] theorem modWarp_sk (s : State) (k : Nat) (f : Warp → Warp) : (s.modWarp k f).sk = s.sk := rfl
@[simp] theorem modWarp_hl (s : State) (k : Nat) (f : Warp → Warp) : (s.modWarp k f).hl = s.hl := rfl
@[simp] theorem modWarp_mg (s : State) (k : Nat) (f : Warp → Warp) : (s.modWarp k f).mg = s.mg := rfl

/-! ### modTeam -/

@[simp] theorem modTeam_agenda (s : State) (k : Nat) (f : Team → Team) : (s.modTeam k f).agenda = s.agenda := rfl
@[simp] theorem modTeam_pending (s : State) (k : Nat) (f : Team → Team) : (s.modTeam k f).pending = s.pending := rfl
@[simp] theorem modTeam_oracle (s : State) (k : Nat) (f : Team → Team) : (s.modTeam k f).oracle = s.oracle := rfl
@[simp] theorem modTeam_freeCount (s : State) (k : Nat) (f : Team → Team) : (s.modTeam k f).freeCount = s.freeCount := rfl
@[simp] theorem modTeam_nextId (s : State) (k : Nat) (f : Team → Team) : (s.modTeam k f).nextId = s.nextId := rfl
@[simp] theorem modTeam_stampCtr (s : State) (k : Nat) (f : Team → Team) : (s.modTeam k f).stampCtr = s.stampCtr := rfl
@[simp] theorem modTeam_stepNo (s : State) (k : Nat) (f : Team → Team) : (s.modTeam k f).stepNo = s.stepNo := rfl
@[simp] theorem modTeam_seqs (s : State) (k : Nat) (f : Team → Team) : (s.modTeam k f).seqs = s.seqs := rfl
@[simp] theorem modTeam_iss (s : State) (k : Nat) (f : Team → Team) : (s.modTeam k f).iss = s.iss := rfl
@[simp] theorem modTeam_warps (s : State) (k : Nat) (f : Team → Team) : (s.modTeam k f).warps = s.warps := rfl
@[simp] theorem modTeam_launches (s : State) (k : Nat) (f : Team → Team) : (s.modTeam k f).launches = s.launches := rfl
@[simp] theorem modTeam_graphs (s : State) (k : Nat) (f : Team → Team) : (s.modTeam k f).graphs = s.graphs := rfl
@[simp] theorem modTeam_ctxs (s : State) (k : Nat) (f : Team → Team) : (s.modTeam k f).ctxs = s.ctxs := rfl
@[simp] theorem modTeam_saves (s : State) (k : Nat) (f : Team → Team) : (s.modTeam k f).saves = s.saves := rfl
@[simp] theorem modTeam_cores (s : State) (k : Nat) (f : Team → Team) : (s.modTeam k f).cores = s.cores := rfl
@[simp] theorem modTeam_scheds (s : State) (k : Nat) (f : Team → Team) : (s.modTeam k f).scheds = s.scheds := rfl
@[simp] theorem modTeam_reg (s : State) (k : Nat) (f : Team → Team) : (s.modTeam k f).reg = s.reg := rfl
@[simp] theorem modTeam_m (s : State) (k : Nat) (f : Team → Team) : (s.modTeam k f).m = s.m := rfl
@[simp] theorem modTeam_sw (s : State) (k : Nat) (f : Team → Team) : (s.modTeam k f).sw = s.sw := rfl
@[simp] theorem modTeam_tr (s : State) (k : Nat) (f : Team → Team) : (s.modTeam k f).tr = s.tr := rfl
@[simp] theorem modTeam_ops (s : State) (k : Nat) (f : Team → Team) : (s.modTeam k f).ops = s.ops := rfl
@[simp] theorem modTeam_mops (s : State) (k : Nat) (f : Team → Team) : (s.modTeam k f).mops = s.mops := rfl
@[simp] theorem modTeam_qarrays (s : State) (k : Nat) (f : Team → Team) : (s.modTeam k f).qarrays = s.qarrays := rfl
@[simp] theorem modTeam_copies (s : State) (k : Nat) (f : Team → Team) : (s.modTeam k f).copies = s.copies := rfl
@[simp] theorem modTeam_tlrs (s : State) (k : Nat) (f : Team → Team) : (s.modTeam k f).tlrs = s.tlrs := rfl
@[simp] theorem modTeam_descs (s : State) (k : Nat) (f : Team → Team) : (s.modTeam k f).descs = s.descs := rfl
@[simp] theorem modTeam_resReqs (s : State) (k : Nat) (f : Team → Team) : (s.modTeam k f).resReqs = s.resReqs := rfl
@[simp] theorem modTeam_evWaits (s : State) (k : Nat) (f : Team → Team) : (s.modTeam k f).evWaits = s.evWaits := rfl
@[simp] theorem modTeam_kvq (s : State) (k : Nat) (f : Team → Team) : (s.modTeam k f).kvq = s.kvq := rfl
@[simp] theorem modTeam_kvPools (s : State) (k : Nat) (f : Team → Team) : (s.modTeam k f).kvPools = s.kvPools := rfl
@[simp] theorem modTeam_nms (s : State) (k : Nat) (f : Team → Team) : (s.modTeam k f).nms = s.nms := rfl
@[simp] theorem modTeam_nmLog (s : State) (k : Nat) (f : Team → Team) : (s.modTeam k f).nmLog = s.nmLog := rfl
@[simp] theorem modTeam_nmFences (s : State) (k : Nat) (f : Team → Team) : (s.modTeam k f).nmFences = s.nmFences := rfl
@[simp] theorem modTeam_sk (s : State) (k : Nat) (f : Team → Team) : (s.modTeam k f).sk = s.sk := rfl
@[simp] theorem modTeam_hl (s : State) (k : Nat) (f : Team → Team) : (s.modTeam k f).hl = s.hl := rfl
@[simp] theorem modTeam_mg (s : State) (k : Nat) (f : Team → Team) : (s.modTeam k f).mg = s.mg := rfl

/-! ### modCtx -/

@[simp] theorem modCtx_agenda (s : State) (k : Nat) (f : Ctx → Ctx) : (s.modCtx k f).agenda = s.agenda := rfl
@[simp] theorem modCtx_pending (s : State) (k : Nat) (f : Ctx → Ctx) : (s.modCtx k f).pending = s.pending := rfl
@[simp] theorem modCtx_oracle (s : State) (k : Nat) (f : Ctx → Ctx) : (s.modCtx k f).oracle = s.oracle := rfl
@[simp] theorem modCtx_freeCount (s : State) (k : Nat) (f : Ctx → Ctx) : (s.modCtx k f).freeCount = s.freeCount := rfl
@[simp] theorem modCtx_nextId (s : State) (k : Nat) (f : Ctx → Ctx) : (s.modCtx k f).nextId = s.nextId := rfl
@[simp] theorem modCtx_stampCtr (s : State) (k : Nat) (f : Ctx → Ctx) : (s.modCtx k f).stampCtr = s.stampCtr := rfl
@[simp] theorem modCtx_stepNo (s : State) (k : Nat) (f : Ctx → Ctx) : (s.modCtx k f).stepNo = s.stepNo := rfl
@[simp] theorem modCtx_seqs (s : State) (k : Nat) (f : Ctx → Ctx) : (s.modCtx k f).seqs = s.seqs := rfl
@[simp] theorem modCtx_iss (s : State) (k : Nat) (f : Ctx → Ctx) : (s.modCtx k f).iss = s.iss := rfl
@[simp] theorem modCtx_warps (s : State) (k : Nat) (f : Ctx → Ctx) : (s.modCtx k f).warps = s.warps := rfl
@[simp] theorem modCtx_teams (s : State) (k : Nat) (f : Ctx → Ctx) : (s.modCtx k f).teams = s.teams := rfl
@[simp] theorem modCtx_launches (s : State) (k : Nat) (f : Ctx → Ctx) : (s.modCtx k f).launches = s.launches := rfl
@[simp] theorem modCtx_graphs (s : State) (k : Nat) (f : Ctx → Ctx) : (s.modCtx k f).graphs = s.graphs := rfl
@[simp] theorem modCtx_saves (s : State) (k : Nat) (f : Ctx → Ctx) : (s.modCtx k f).saves = s.saves := rfl
@[simp] theorem modCtx_cores (s : State) (k : Nat) (f : Ctx → Ctx) : (s.modCtx k f).cores = s.cores := rfl
@[simp] theorem modCtx_scheds (s : State) (k : Nat) (f : Ctx → Ctx) : (s.modCtx k f).scheds = s.scheds := rfl
@[simp] theorem modCtx_reg (s : State) (k : Nat) (f : Ctx → Ctx) : (s.modCtx k f).reg = s.reg := rfl
@[simp] theorem modCtx_m (s : State) (k : Nat) (f : Ctx → Ctx) : (s.modCtx k f).m = s.m := rfl
@[simp] theorem modCtx_sw (s : State) (k : Nat) (f : Ctx → Ctx) : (s.modCtx k f).sw = s.sw := rfl
@[simp] theorem modCtx_tr (s : State) (k : Nat) (f : Ctx → Ctx) : (s.modCtx k f).tr = s.tr := rfl
@[simp] theorem modCtx_ops (s : State) (k : Nat) (f : Ctx → Ctx) : (s.modCtx k f).ops = s.ops := rfl
@[simp] theorem modCtx_mops (s : State) (k : Nat) (f : Ctx → Ctx) : (s.modCtx k f).mops = s.mops := rfl
@[simp] theorem modCtx_qarrays (s : State) (k : Nat) (f : Ctx → Ctx) : (s.modCtx k f).qarrays = s.qarrays := rfl
@[simp] theorem modCtx_copies (s : State) (k : Nat) (f : Ctx → Ctx) : (s.modCtx k f).copies = s.copies := rfl
@[simp] theorem modCtx_tlrs (s : State) (k : Nat) (f : Ctx → Ctx) : (s.modCtx k f).tlrs = s.tlrs := rfl
@[simp] theorem modCtx_descs (s : State) (k : Nat) (f : Ctx → Ctx) : (s.modCtx k f).descs = s.descs := rfl
@[simp] theorem modCtx_resReqs (s : State) (k : Nat) (f : Ctx → Ctx) : (s.modCtx k f).resReqs = s.resReqs := rfl
@[simp] theorem modCtx_evWaits (s : State) (k : Nat) (f : Ctx → Ctx) : (s.modCtx k f).evWaits = s.evWaits := rfl
@[simp] theorem modCtx_kvq (s : State) (k : Nat) (f : Ctx → Ctx) : (s.modCtx k f).kvq = s.kvq := rfl
@[simp] theorem modCtx_kvPools (s : State) (k : Nat) (f : Ctx → Ctx) : (s.modCtx k f).kvPools = s.kvPools := rfl
@[simp] theorem modCtx_nms (s : State) (k : Nat) (f : Ctx → Ctx) : (s.modCtx k f).nms = s.nms := rfl
@[simp] theorem modCtx_nmLog (s : State) (k : Nat) (f : Ctx → Ctx) : (s.modCtx k f).nmLog = s.nmLog := rfl
@[simp] theorem modCtx_nmFences (s : State) (k : Nat) (f : Ctx → Ctx) : (s.modCtx k f).nmFences = s.nmFences := rfl
@[simp] theorem modCtx_sk (s : State) (k : Nat) (f : Ctx → Ctx) : (s.modCtx k f).sk = s.sk := rfl
@[simp] theorem modCtx_hl (s : State) (k : Nat) (f : Ctx → Ctx) : (s.modCtx k f).hl = s.hl := rfl
@[simp] theorem modCtx_mg (s : State) (k : Nat) (f : Ctx → Ctx) : (s.modCtx k f).mg = s.mg := rfl

/-! ### modLaunch -/

@[simp] theorem modLaunch_agenda (s : State) (k : Nat) (f : Launch → Launch) : (s.modLaunch k f).agenda = s.agenda := rfl
@[simp] theorem modLaunch_pending (s : State) (k : Nat) (f : Launch → Launch) : (s.modLaunch k f).pending = s.pending := rfl
@[simp] theorem modLaunch_oracle (s : State) (k : Nat) (f : Launch → Launch) : (s.modLaunch k f).oracle = s.oracle := rfl
@[simp] theorem modLaunch_freeCount (s : State) (k : Nat) (f : Launch → Launch) : (s.modLaunch k f).freeCount = s.freeCount := rfl
@[simp] theorem modLaunch_nextId (s : State) (k : Nat) (f : Launch → Launch) : (s.modLaunch k f).nextId = s.nextId := rfl
@[simp] theorem modLaunch_stampCtr (s : State) (k : Nat) (f : Launch → Launch) : (s.modLaunch k f).stampCtr = s.stampCtr := rfl
@[simp] theorem modLaunch_stepNo (s : State) (k : Nat) (f : Launch → Launch) : (s.modLaunch k f).stepNo = s.stepNo := rfl
@[simp] theorem modLaunch_seqs (s : State) (k : Nat) (f : Launch → Launch) : (s.modLaunch k f).seqs = s.seqs := rfl
@[simp] theorem modLaunch_iss (s : State) (k : Nat) (f : Launch → Launch) : (s.modLaunch k f).iss = s.iss := rfl
@[simp] theorem modLaunch_warps (s : State) (k : Nat) (f : Launch → Launch) : (s.modLaunch k f).warps = s.warps := rfl
@[simp] theorem modLaunch_teams (s : State) (k : Nat) (f : Launch → Launch) : (s.modLaunch k f).teams = s.teams := rfl
@[simp] theorem modLaunch_graphs (s : State) (k : Nat) (f : Launch → Launch) : (s.modLaunch k f).graphs = s.graphs := rfl
@[simp] theorem modLaunch_ctxs (s : State) (k : Nat) (f : Launch → Launch) : (s.modLaunch k f).ctxs = s.ctxs := rfl
@[simp] theorem modLaunch_saves (s : State) (k : Nat) (f : Launch → Launch) : (s.modLaunch k f).saves = s.saves := rfl
@[simp] theorem modLaunch_cores (s : State) (k : Nat) (f : Launch → Launch) : (s.modLaunch k f).cores = s.cores := rfl
@[simp] theorem modLaunch_scheds (s : State) (k : Nat) (f : Launch → Launch) : (s.modLaunch k f).scheds = s.scheds := rfl
@[simp] theorem modLaunch_reg (s : State) (k : Nat) (f : Launch → Launch) : (s.modLaunch k f).reg = s.reg := rfl
@[simp] theorem modLaunch_m (s : State) (k : Nat) (f : Launch → Launch) : (s.modLaunch k f).m = s.m := rfl
@[simp] theorem modLaunch_sw (s : State) (k : Nat) (f : Launch → Launch) : (s.modLaunch k f).sw = s.sw := rfl
@[simp] theorem modLaunch_tr (s : State) (k : Nat) (f : Launch → Launch) : (s.modLaunch k f).tr = s.tr := rfl
@[simp] theorem modLaunch_ops (s : State) (k : Nat) (f : Launch → Launch) : (s.modLaunch k f).ops = s.ops := rfl
@[simp] theorem modLaunch_mops (s : State) (k : Nat) (f : Launch → Launch) : (s.modLaunch k f).mops = s.mops := rfl
@[simp] theorem modLaunch_qarrays (s : State) (k : Nat) (f : Launch → Launch) : (s.modLaunch k f).qarrays = s.qarrays := rfl
@[simp] theorem modLaunch_copies (s : State) (k : Nat) (f : Launch → Launch) : (s.modLaunch k f).copies = s.copies := rfl
@[simp] theorem modLaunch_tlrs (s : State) (k : Nat) (f : Launch → Launch) : (s.modLaunch k f).tlrs = s.tlrs := rfl
@[simp] theorem modLaunch_descs (s : State) (k : Nat) (f : Launch → Launch) : (s.modLaunch k f).descs = s.descs := rfl
@[simp] theorem modLaunch_resReqs (s : State) (k : Nat) (f : Launch → Launch) : (s.modLaunch k f).resReqs = s.resReqs := rfl
@[simp] theorem modLaunch_evWaits (s : State) (k : Nat) (f : Launch → Launch) : (s.modLaunch k f).evWaits = s.evWaits := rfl
@[simp] theorem modLaunch_kvq (s : State) (k : Nat) (f : Launch → Launch) : (s.modLaunch k f).kvq = s.kvq := rfl
@[simp] theorem modLaunch_kvPools (s : State) (k : Nat) (f : Launch → Launch) : (s.modLaunch k f).kvPools = s.kvPools := rfl
@[simp] theorem modLaunch_nms (s : State) (k : Nat) (f : Launch → Launch) : (s.modLaunch k f).nms = s.nms := rfl
@[simp] theorem modLaunch_nmLog (s : State) (k : Nat) (f : Launch → Launch) : (s.modLaunch k f).nmLog = s.nmLog := rfl
@[simp] theorem modLaunch_nmFences (s : State) (k : Nat) (f : Launch → Launch) : (s.modLaunch k f).nmFences = s.nmFences := rfl
@[simp] theorem modLaunch_sk (s : State) (k : Nat) (f : Launch → Launch) : (s.modLaunch k f).sk = s.sk := rfl
@[simp] theorem modLaunch_hl (s : State) (k : Nat) (f : Launch → Launch) : (s.modLaunch k f).hl = s.hl := rfl
@[simp] theorem modLaunch_mg (s : State) (k : Nat) (f : Launch → Launch) : (s.modLaunch k f).mg = s.mg := rfl

/-! ### modCore -/

@[simp] theorem modCore_agenda (s : State) (k : Nat) (f : Core → Core) : (s.modCore k f).agenda = s.agenda := rfl
@[simp] theorem modCore_pending (s : State) (k : Nat) (f : Core → Core) : (s.modCore k f).pending = s.pending := rfl
@[simp] theorem modCore_oracle (s : State) (k : Nat) (f : Core → Core) : (s.modCore k f).oracle = s.oracle := rfl
@[simp] theorem modCore_freeCount (s : State) (k : Nat) (f : Core → Core) : (s.modCore k f).freeCount = s.freeCount := rfl
@[simp] theorem modCore_nextId (s : State) (k : Nat) (f : Core → Core) : (s.modCore k f).nextId = s.nextId := rfl
@[simp] theorem modCore_stampCtr (s : State) (k : Nat) (f : Core → Core) : (s.modCore k f).stampCtr = s.stampCtr := rfl
@[simp] theorem modCore_stepNo (s : State) (k : Nat) (f : Core → Core) : (s.modCore k f).stepNo = s.stepNo := rfl
@[simp] theorem modCore_seqs (s : State) (k : Nat) (f : Core → Core) : (s.modCore k f).seqs = s.seqs := rfl
@[simp] theorem modCore_iss (s : State) (k : Nat) (f : Core → Core) : (s.modCore k f).iss = s.iss := rfl
@[simp] theorem modCore_warps (s : State) (k : Nat) (f : Core → Core) : (s.modCore k f).warps = s.warps := rfl
@[simp] theorem modCore_teams (s : State) (k : Nat) (f : Core → Core) : (s.modCore k f).teams = s.teams := rfl
@[simp] theorem modCore_launches (s : State) (k : Nat) (f : Core → Core) : (s.modCore k f).launches = s.launches := rfl
@[simp] theorem modCore_graphs (s : State) (k : Nat) (f : Core → Core) : (s.modCore k f).graphs = s.graphs := rfl
@[simp] theorem modCore_ctxs (s : State) (k : Nat) (f : Core → Core) : (s.modCore k f).ctxs = s.ctxs := rfl
@[simp] theorem modCore_saves (s : State) (k : Nat) (f : Core → Core) : (s.modCore k f).saves = s.saves := rfl
@[simp] theorem modCore_scheds (s : State) (k : Nat) (f : Core → Core) : (s.modCore k f).scheds = s.scheds := rfl
@[simp] theorem modCore_reg (s : State) (k : Nat) (f : Core → Core) : (s.modCore k f).reg = s.reg := rfl
@[simp] theorem modCore_m (s : State) (k : Nat) (f : Core → Core) : (s.modCore k f).m = s.m := rfl
@[simp] theorem modCore_sw (s : State) (k : Nat) (f : Core → Core) : (s.modCore k f).sw = s.sw := rfl
@[simp] theorem modCore_tr (s : State) (k : Nat) (f : Core → Core) : (s.modCore k f).tr = s.tr := rfl
@[simp] theorem modCore_ops (s : State) (k : Nat) (f : Core → Core) : (s.modCore k f).ops = s.ops := rfl
@[simp] theorem modCore_mops (s : State) (k : Nat) (f : Core → Core) : (s.modCore k f).mops = s.mops := rfl
@[simp] theorem modCore_qarrays (s : State) (k : Nat) (f : Core → Core) : (s.modCore k f).qarrays = s.qarrays := rfl
@[simp] theorem modCore_copies (s : State) (k : Nat) (f : Core → Core) : (s.modCore k f).copies = s.copies := rfl
@[simp] theorem modCore_tlrs (s : State) (k : Nat) (f : Core → Core) : (s.modCore k f).tlrs = s.tlrs := rfl
@[simp] theorem modCore_descs (s : State) (k : Nat) (f : Core → Core) : (s.modCore k f).descs = s.descs := rfl
@[simp] theorem modCore_resReqs (s : State) (k : Nat) (f : Core → Core) : (s.modCore k f).resReqs = s.resReqs := rfl
@[simp] theorem modCore_evWaits (s : State) (k : Nat) (f : Core → Core) : (s.modCore k f).evWaits = s.evWaits := rfl
@[simp] theorem modCore_kvq (s : State) (k : Nat) (f : Core → Core) : (s.modCore k f).kvq = s.kvq := rfl
@[simp] theorem modCore_kvPools (s : State) (k : Nat) (f : Core → Core) : (s.modCore k f).kvPools = s.kvPools := rfl
@[simp] theorem modCore_nms (s : State) (k : Nat) (f : Core → Core) : (s.modCore k f).nms = s.nms := rfl
@[simp] theorem modCore_nmLog (s : State) (k : Nat) (f : Core → Core) : (s.modCore k f).nmLog = s.nmLog := rfl
@[simp] theorem modCore_nmFences (s : State) (k : Nat) (f : Core → Core) : (s.modCore k f).nmFences = s.nmFences := rfl
@[simp] theorem modCore_sk (s : State) (k : Nat) (f : Core → Core) : (s.modCore k f).sk = s.sk := rfl
@[simp] theorem modCore_hl (s : State) (k : Nat) (f : Core → Core) : (s.modCore k f).hl = s.hl := rfl
@[simp] theorem modCore_mg (s : State) (k : Nat) (f : Core → Core) : (s.modCore k f).mg = s.mg := rfl

/-! ### modSched -/

@[simp] theorem modSched_agenda (s : State) (k : Nat) (f : Sched → Sched) : (s.modSched k f).agenda = s.agenda := rfl
@[simp] theorem modSched_pending (s : State) (k : Nat) (f : Sched → Sched) : (s.modSched k f).pending = s.pending := rfl
@[simp] theorem modSched_oracle (s : State) (k : Nat) (f : Sched → Sched) : (s.modSched k f).oracle = s.oracle := rfl
@[simp] theorem modSched_freeCount (s : State) (k : Nat) (f : Sched → Sched) : (s.modSched k f).freeCount = s.freeCount := rfl
@[simp] theorem modSched_nextId (s : State) (k : Nat) (f : Sched → Sched) : (s.modSched k f).nextId = s.nextId := rfl
@[simp] theorem modSched_stampCtr (s : State) (k : Nat) (f : Sched → Sched) : (s.modSched k f).stampCtr = s.stampCtr := rfl
@[simp] theorem modSched_stepNo (s : State) (k : Nat) (f : Sched → Sched) : (s.modSched k f).stepNo = s.stepNo := rfl
@[simp] theorem modSched_seqs (s : State) (k : Nat) (f : Sched → Sched) : (s.modSched k f).seqs = s.seqs := rfl
@[simp] theorem modSched_iss (s : State) (k : Nat) (f : Sched → Sched) : (s.modSched k f).iss = s.iss := rfl
@[simp] theorem modSched_warps (s : State) (k : Nat) (f : Sched → Sched) : (s.modSched k f).warps = s.warps := rfl
@[simp] theorem modSched_teams (s : State) (k : Nat) (f : Sched → Sched) : (s.modSched k f).teams = s.teams := rfl
@[simp] theorem modSched_launches (s : State) (k : Nat) (f : Sched → Sched) : (s.modSched k f).launches = s.launches := rfl
@[simp] theorem modSched_graphs (s : State) (k : Nat) (f : Sched → Sched) : (s.modSched k f).graphs = s.graphs := rfl
@[simp] theorem modSched_ctxs (s : State) (k : Nat) (f : Sched → Sched) : (s.modSched k f).ctxs = s.ctxs := rfl
@[simp] theorem modSched_saves (s : State) (k : Nat) (f : Sched → Sched) : (s.modSched k f).saves = s.saves := rfl
@[simp] theorem modSched_cores (s : State) (k : Nat) (f : Sched → Sched) : (s.modSched k f).cores = s.cores := rfl
@[simp] theorem modSched_reg (s : State) (k : Nat) (f : Sched → Sched) : (s.modSched k f).reg = s.reg := rfl
@[simp] theorem modSched_m (s : State) (k : Nat) (f : Sched → Sched) : (s.modSched k f).m = s.m := rfl
@[simp] theorem modSched_sw (s : State) (k : Nat) (f : Sched → Sched) : (s.modSched k f).sw = s.sw := rfl
@[simp] theorem modSched_tr (s : State) (k : Nat) (f : Sched → Sched) : (s.modSched k f).tr = s.tr := rfl
@[simp] theorem modSched_ops (s : State) (k : Nat) (f : Sched → Sched) : (s.modSched k f).ops = s.ops := rfl
@[simp] theorem modSched_mops (s : State) (k : Nat) (f : Sched → Sched) : (s.modSched k f).mops = s.mops := rfl
@[simp] theorem modSched_qarrays (s : State) (k : Nat) (f : Sched → Sched) : (s.modSched k f).qarrays = s.qarrays := rfl
@[simp] theorem modSched_copies (s : State) (k : Nat) (f : Sched → Sched) : (s.modSched k f).copies = s.copies := rfl
@[simp] theorem modSched_tlrs (s : State) (k : Nat) (f : Sched → Sched) : (s.modSched k f).tlrs = s.tlrs := rfl
@[simp] theorem modSched_descs (s : State) (k : Nat) (f : Sched → Sched) : (s.modSched k f).descs = s.descs := rfl
@[simp] theorem modSched_resReqs (s : State) (k : Nat) (f : Sched → Sched) : (s.modSched k f).resReqs = s.resReqs := rfl
@[simp] theorem modSched_evWaits (s : State) (k : Nat) (f : Sched → Sched) : (s.modSched k f).evWaits = s.evWaits := rfl
@[simp] theorem modSched_kvq (s : State) (k : Nat) (f : Sched → Sched) : (s.modSched k f).kvq = s.kvq := rfl
@[simp] theorem modSched_kvPools (s : State) (k : Nat) (f : Sched → Sched) : (s.modSched k f).kvPools = s.kvPools := rfl
@[simp] theorem modSched_nms (s : State) (k : Nat) (f : Sched → Sched) : (s.modSched k f).nms = s.nms := rfl
@[simp] theorem modSched_nmLog (s : State) (k : Nat) (f : Sched → Sched) : (s.modSched k f).nmLog = s.nmLog := rfl
@[simp] theorem modSched_nmFences (s : State) (k : Nat) (f : Sched → Sched) : (s.modSched k f).nmFences = s.nmFences := rfl
@[simp] theorem modSched_sk (s : State) (k : Nat) (f : Sched → Sched) : (s.modSched k f).sk = s.sk := rfl
@[simp] theorem modSched_hl (s : State) (k : Nat) (f : Sched → Sched) : (s.modSched k f).hl = s.hl := rfl
@[simp] theorem modSched_mg (s : State) (k : Nat) (f : Sched → Sched) : (s.modSched k f).mg = s.mg := rfl

/-! ### modIss -/

@[simp] theorem modIss_agenda (s : State) (f : Issue → Issue) : (s.modIss f).agenda = s.agenda := rfl
@[simp] theorem modIss_pending (s : State) (f : Issue → Issue) : (s.modIss f).pending = s.pending := rfl
@[simp] theorem modIss_oracle (s : State) (f : Issue → Issue) : (s.modIss f).oracle = s.oracle := rfl
@[simp] theorem modIss_freeCount (s : State) (f : Issue → Issue) : (s.modIss f).freeCount = s.freeCount := rfl
@[simp] theorem modIss_nextId (s : State) (f : Issue → Issue) : (s.modIss f).nextId = s.nextId := rfl
@[simp] theorem modIss_stampCtr (s : State) (f : Issue → Issue) : (s.modIss f).stampCtr = s.stampCtr := rfl
@[simp] theorem modIss_stepNo (s : State) (f : Issue → Issue) : (s.modIss f).stepNo = s.stepNo := rfl
@[simp] theorem modIss_seqs (s : State) (f : Issue → Issue) : (s.modIss f).seqs = s.seqs := rfl
@[simp] theorem modIss_warps (s : State) (f : Issue → Issue) : (s.modIss f).warps = s.warps := rfl
@[simp] theorem modIss_teams (s : State) (f : Issue → Issue) : (s.modIss f).teams = s.teams := rfl
@[simp] theorem modIss_launches (s : State) (f : Issue → Issue) : (s.modIss f).launches = s.launches := rfl
@[simp] theorem modIss_graphs (s : State) (f : Issue → Issue) : (s.modIss f).graphs = s.graphs := rfl
@[simp] theorem modIss_ctxs (s : State) (f : Issue → Issue) : (s.modIss f).ctxs = s.ctxs := rfl
@[simp] theorem modIss_saves (s : State) (f : Issue → Issue) : (s.modIss f).saves = s.saves := rfl
@[simp] theorem modIss_cores (s : State) (f : Issue → Issue) : (s.modIss f).cores = s.cores := rfl
@[simp] theorem modIss_scheds (s : State) (f : Issue → Issue) : (s.modIss f).scheds = s.scheds := rfl
@[simp] theorem modIss_reg (s : State) (f : Issue → Issue) : (s.modIss f).reg = s.reg := rfl
@[simp] theorem modIss_m (s : State) (f : Issue → Issue) : (s.modIss f).m = s.m := rfl
@[simp] theorem modIss_sw (s : State) (f : Issue → Issue) : (s.modIss f).sw = s.sw := rfl
@[simp] theorem modIss_tr (s : State) (f : Issue → Issue) : (s.modIss f).tr = s.tr := rfl
@[simp] theorem modIss_ops (s : State) (f : Issue → Issue) : (s.modIss f).ops = s.ops := rfl
@[simp] theorem modIss_mops (s : State) (f : Issue → Issue) : (s.modIss f).mops = s.mops := rfl
@[simp] theorem modIss_qarrays (s : State) (f : Issue → Issue) : (s.modIss f).qarrays = s.qarrays := rfl
@[simp] theorem modIss_copies (s : State) (f : Issue → Issue) : (s.modIss f).copies = s.copies := rfl
@[simp] theorem modIss_tlrs (s : State) (f : Issue → Issue) : (s.modIss f).tlrs = s.tlrs := rfl
@[simp] theorem modIss_descs (s : State) (f : Issue → Issue) : (s.modIss f).descs = s.descs := rfl
@[simp] theorem modIss_resReqs (s : State) (f : Issue → Issue) : (s.modIss f).resReqs = s.resReqs := rfl
@[simp] theorem modIss_evWaits (s : State) (f : Issue → Issue) : (s.modIss f).evWaits = s.evWaits := rfl
@[simp] theorem modIss_kvq (s : State) (f : Issue → Issue) : (s.modIss f).kvq = s.kvq := rfl
@[simp] theorem modIss_kvPools (s : State) (f : Issue → Issue) : (s.modIss f).kvPools = s.kvPools := rfl
@[simp] theorem modIss_nms (s : State) (f : Issue → Issue) : (s.modIss f).nms = s.nms := rfl
@[simp] theorem modIss_nmLog (s : State) (f : Issue → Issue) : (s.modIss f).nmLog = s.nmLog := rfl
@[simp] theorem modIss_nmFences (s : State) (f : Issue → Issue) : (s.modIss f).nmFences = s.nmFences := rfl
@[simp] theorem modIss_sk (s : State) (f : Issue → Issue) : (s.modIss f).sk = s.sk := rfl
@[simp] theorem modIss_hl (s : State) (f : Issue → Issue) : (s.modIss f).hl = s.hl := rfl
@[simp] theorem modIss_mg (s : State) (f : Issue → Issue) : (s.modIss f).mg = s.mg := rfl

/-! ### modOp -/

@[simp] theorem modOp_agenda (s : State) (k : Nat) (f : Op → Op) : (s.modOp k f).agenda = s.agenda := rfl
@[simp] theorem modOp_pending (s : State) (k : Nat) (f : Op → Op) : (s.modOp k f).pending = s.pending := rfl
@[simp] theorem modOp_oracle (s : State) (k : Nat) (f : Op → Op) : (s.modOp k f).oracle = s.oracle := rfl
@[simp] theorem modOp_freeCount (s : State) (k : Nat) (f : Op → Op) : (s.modOp k f).freeCount = s.freeCount := rfl
@[simp] theorem modOp_nextId (s : State) (k : Nat) (f : Op → Op) : (s.modOp k f).nextId = s.nextId := rfl
@[simp] theorem modOp_stampCtr (s : State) (k : Nat) (f : Op → Op) : (s.modOp k f).stampCtr = s.stampCtr := rfl
@[simp] theorem modOp_stepNo (s : State) (k : Nat) (f : Op → Op) : (s.modOp k f).stepNo = s.stepNo := rfl
@[simp] theorem modOp_seqs (s : State) (k : Nat) (f : Op → Op) : (s.modOp k f).seqs = s.seqs := rfl
@[simp] theorem modOp_iss (s : State) (k : Nat) (f : Op → Op) : (s.modOp k f).iss = s.iss := rfl
@[simp] theorem modOp_warps (s : State) (k : Nat) (f : Op → Op) : (s.modOp k f).warps = s.warps := rfl
@[simp] theorem modOp_teams (s : State) (k : Nat) (f : Op → Op) : (s.modOp k f).teams = s.teams := rfl
@[simp] theorem modOp_launches (s : State) (k : Nat) (f : Op → Op) : (s.modOp k f).launches = s.launches := rfl
@[simp] theorem modOp_graphs (s : State) (k : Nat) (f : Op → Op) : (s.modOp k f).graphs = s.graphs := rfl
@[simp] theorem modOp_ctxs (s : State) (k : Nat) (f : Op → Op) : (s.modOp k f).ctxs = s.ctxs := rfl
@[simp] theorem modOp_saves (s : State) (k : Nat) (f : Op → Op) : (s.modOp k f).saves = s.saves := rfl
@[simp] theorem modOp_cores (s : State) (k : Nat) (f : Op → Op) : (s.modOp k f).cores = s.cores := rfl
@[simp] theorem modOp_scheds (s : State) (k : Nat) (f : Op → Op) : (s.modOp k f).scheds = s.scheds := rfl
@[simp] theorem modOp_reg (s : State) (k : Nat) (f : Op → Op) : (s.modOp k f).reg = s.reg := rfl
@[simp] theorem modOp_m (s : State) (k : Nat) (f : Op → Op) : (s.modOp k f).m = s.m := rfl
@[simp] theorem modOp_sw (s : State) (k : Nat) (f : Op → Op) : (s.modOp k f).sw = s.sw := rfl
@[simp] theorem modOp_tr (s : State) (k : Nat) (f : Op → Op) : (s.modOp k f).tr = s.tr := rfl
@[simp] theorem modOp_mops (s : State) (k : Nat) (f : Op → Op) : (s.modOp k f).mops = s.mops := rfl
@[simp] theorem modOp_qarrays (s : State) (k : Nat) (f : Op → Op) : (s.modOp k f).qarrays = s.qarrays := rfl
@[simp] theorem modOp_copies (s : State) (k : Nat) (f : Op → Op) : (s.modOp k f).copies = s.copies := rfl
@[simp] theorem modOp_tlrs (s : State) (k : Nat) (f : Op → Op) : (s.modOp k f).tlrs = s.tlrs := rfl
@[simp] theorem modOp_descs (s : State) (k : Nat) (f : Op → Op) : (s.modOp k f).descs = s.descs := rfl
@[simp] theorem modOp_resReqs (s : State) (k : Nat) (f : Op → Op) : (s.modOp k f).resReqs = s.resReqs := rfl
@[simp] theorem modOp_evWaits (s : State) (k : Nat) (f : Op → Op) : (s.modOp k f).evWaits = s.evWaits := rfl
@[simp] theorem modOp_kvq (s : State) (k : Nat) (f : Op → Op) : (s.modOp k f).kvq = s.kvq := rfl
@[simp] theorem modOp_kvPools (s : State) (k : Nat) (f : Op → Op) : (s.modOp k f).kvPools = s.kvPools := rfl
@[simp] theorem modOp_nms (s : State) (k : Nat) (f : Op → Op) : (s.modOp k f).nms = s.nms := rfl
@[simp] theorem modOp_nmLog (s : State) (k : Nat) (f : Op → Op) : (s.modOp k f).nmLog = s.nmLog := rfl
@[simp] theorem modOp_nmFences (s : State) (k : Nat) (f : Op → Op) : (s.modOp k f).nmFences = s.nmFences := rfl
@[simp] theorem modOp_sk (s : State) (k : Nat) (f : Op → Op) : (s.modOp k f).sk = s.sk := rfl
@[simp] theorem modOp_hl (s : State) (k : Nat) (f : Op → Op) : (s.modOp k f).hl = s.hl := rfl
@[simp] theorem modOp_mg (s : State) (k : Nat) (f : Op → Op) : (s.modOp k f).mg = s.mg := rfl

/-! ### dropOp -/

@[simp] theorem dropOp_agenda (s : State) (k : Nat) : (s.dropOp k).agenda = s.agenda := rfl
@[simp] theorem dropOp_pending (s : State) (k : Nat) : (s.dropOp k).pending = s.pending := rfl
@[simp] theorem dropOp_oracle (s : State) (k : Nat) : (s.dropOp k).oracle = s.oracle := rfl
@[simp] theorem dropOp_freeCount (s : State) (k : Nat) : (s.dropOp k).freeCount = s.freeCount := rfl
@[simp] theorem dropOp_nextId (s : State) (k : Nat) : (s.dropOp k).nextId = s.nextId := rfl
@[simp] theorem dropOp_stampCtr (s : State) (k : Nat) : (s.dropOp k).stampCtr = s.stampCtr := rfl
@[simp] theorem dropOp_stepNo (s : State) (k : Nat) : (s.dropOp k).stepNo = s.stepNo := rfl
@[simp] theorem dropOp_seqs (s : State) (k : Nat) : (s.dropOp k).seqs = s.seqs := rfl
@[simp] theorem dropOp_iss (s : State) (k : Nat) : (s.dropOp k).iss = s.iss := rfl
@[simp] theorem dropOp_warps (s : State) (k : Nat) : (s.dropOp k).warps = s.warps := rfl
@[simp] theorem dropOp_teams (s : State) (k : Nat) : (s.dropOp k).teams = s.teams := rfl
@[simp] theorem dropOp_launches (s : State) (k : Nat) : (s.dropOp k).launches = s.launches := rfl
@[simp] theorem dropOp_graphs (s : State) (k : Nat) : (s.dropOp k).graphs = s.graphs := rfl
@[simp] theorem dropOp_ctxs (s : State) (k : Nat) : (s.dropOp k).ctxs = s.ctxs := rfl
@[simp] theorem dropOp_saves (s : State) (k : Nat) : (s.dropOp k).saves = s.saves := rfl
@[simp] theorem dropOp_cores (s : State) (k : Nat) : (s.dropOp k).cores = s.cores := rfl
@[simp] theorem dropOp_scheds (s : State) (k : Nat) : (s.dropOp k).scheds = s.scheds := rfl
@[simp] theorem dropOp_reg (s : State) (k : Nat) : (s.dropOp k).reg = s.reg := rfl
@[simp] theorem dropOp_m (s : State) (k : Nat) : (s.dropOp k).m = s.m := rfl
@[simp] theorem dropOp_sw (s : State) (k : Nat) : (s.dropOp k).sw = s.sw := rfl
@[simp] theorem dropOp_tr (s : State) (k : Nat) : (s.dropOp k).tr = s.tr := rfl
@[simp] theorem dropOp_mops (s : State) (k : Nat) : (s.dropOp k).mops = s.mops := rfl
@[simp] theorem dropOp_qarrays (s : State) (k : Nat) : (s.dropOp k).qarrays = s.qarrays := rfl
@[simp] theorem dropOp_copies (s : State) (k : Nat) : (s.dropOp k).copies = s.copies := rfl
@[simp] theorem dropOp_tlrs (s : State) (k : Nat) : (s.dropOp k).tlrs = s.tlrs := rfl
@[simp] theorem dropOp_descs (s : State) (k : Nat) : (s.dropOp k).descs = s.descs := rfl
@[simp] theorem dropOp_resReqs (s : State) (k : Nat) : (s.dropOp k).resReqs = s.resReqs := rfl
@[simp] theorem dropOp_evWaits (s : State) (k : Nat) : (s.dropOp k).evWaits = s.evWaits := rfl
@[simp] theorem dropOp_kvq (s : State) (k : Nat) : (s.dropOp k).kvq = s.kvq := rfl
@[simp] theorem dropOp_kvPools (s : State) (k : Nat) : (s.dropOp k).kvPools = s.kvPools := rfl
@[simp] theorem dropOp_nms (s : State) (k : Nat) : (s.dropOp k).nms = s.nms := rfl
@[simp] theorem dropOp_nmLog (s : State) (k : Nat) : (s.dropOp k).nmLog = s.nmLog := rfl
@[simp] theorem dropOp_nmFences (s : State) (k : Nat) : (s.dropOp k).nmFences = s.nmFences := rfl
@[simp] theorem dropOp_sk (s : State) (k : Nat) : (s.dropOp k).sk = s.sk := rfl
@[simp] theorem dropOp_hl (s : State) (k : Nat) : (s.dropOp k).hl = s.hl := rfl
@[simp] theorem dropOp_mg (s : State) (k : Nat) : (s.dropOp k).mg = s.mg := rfl

/-! ### The field each update changes -/

@[simp] theorem pend_pending (s : State) (i : Instr) : (s.pend i).pending = s.pending ++ [i] := rfl
@[simp] theorem pendAll_pending (s : State) (l : List Instr) : (s.pendAll l).pending = s.pending ++ l := rfl
@[simp] theorem soon_agenda (s : State) (i : Instr) : (s.soon i).agenda = s.agenda ++ [i] := rfl
@[simp] theorem modWarp_warps (s : State) (k : Nat) (f : Warp → Warp) : (s.modWarp k f).warps = tmod s.warps k f := rfl
@[simp] theorem modTeam_teams (s : State) (k : Nat) (f : Team → Team) : (s.modTeam k f).teams = tmod s.teams k f := rfl
@[simp] theorem modCtx_ctxs (s : State) (k : Nat) (f : Ctx → Ctx) : (s.modCtx k f).ctxs = tmod s.ctxs k f := rfl
@[simp] theorem modLaunch_launches (s : State) (k : Nat) (f : Launch → Launch) : (s.modLaunch k f).launches = tmod s.launches k f := rfl
@[simp] theorem modCore_cores (s : State) (k : Nat) (f : Core → Core) : (s.modCore k f).cores = tmod s.cores k f := rfl
@[simp] theorem modSched_scheds (s : State) (k : Nat) (f : Sched → Sched) : (s.modSched k f).scheds = tmod s.scheds k f := rfl
@[simp] theorem modIss_iss (s : State) (f : Issue → Issue) : (s.modIss f).iss = s.iss.map f := rfl

end Sys2Proof.Laws
end

