-- ==== Sys2Proof/Laws/Regs.lean ====
section
/-! SUPPORT. What writing registers does: one lemma for each shared operation. -/

namespace Sys2Proof.Laws

open Sys2Proof.Machine

theorem State.warp_eq (s : State) (k : Nat) : s.warp k = tget s.warps k := rfl

/-- A warp after an update of a warp. -/
theorem warp_modWarp (s : State) (k j : Nat) (f : Warp → Warp) :
    (s.modWarp k f).warp j = if j = k then (s.warp k).map f else s.warp j := by
  simp only [State.warp, State.modWarp]
  exact tget_tmod s.warps k j f

/-- Two lanes of a warp never share a register word. -/
theorem vkey_inj {w : Warp} {a b n k : Nat} (ha : w.vkey a n = some k) (hb : w.vkey b n = some k) : a = b := by
  unfold Warp.vkey at ha hb
  split at ha
  · rename_i h
    simp only [h, if_true, Option.some.injEq] at hb ha
    omega
  · rename_i h
    simp only [h, if_false] at hb
    cases hx : tget w.ext ((n - 64) / 16) with
    | none => simp [hx] at ha
    | some off =>
      simp only [hx, Option.map_some, Option.some.injEq] at ha hb
      omega

theorem taint_ids (ms : List Mop) (p : Mop → MRow → Bool) : (taint ms p).map (·.id) = ms.map (·.id) := by
  unfold taint
  rw [List.map_map]
  rfl

/-- Writing one vector register of a lane. -/
theorem setV_eq {s : State} {wk : Nat} {w : Warp} (hw : s.warp wk = some w) (l n : Nat) (v : Word) :
    s.setV wk l n v = match w.vkey l n with
      | some k => { s with reg := s.reg.put k v, mops := taintRows s.mops wk l n }
      | none => s := by
  unfold State.setV
  rw [hw]
  cases h : w.vkey l n <;> simp only [Option.bind_some, h]

theorem setV_warp (s : State) (wk l n j : Nat) (v : Word) : (s.setV wk l n v).warp j = s.warp j := by
  unfold State.setV
  split <;> rfl

theorem onlyVectors_refl (s : State) : OnlyVectors s s := ⟨rfl, rfl⟩

theorem onlyVectors_trans {a b c : State} (h : OnlyVectors a b) (g : OnlyVectors b c) : OnlyVectors a c := by
  refine ⟨?_, g.2.trans h.2⟩
  rw [g.1, h.1]

theorem onlyVectors_setV (s : State) (wk l n : Nat) (v : Word) : OnlyVectors s (s.setV wk l n v) := by
  unfold State.setV
  split
  · exact ⟨rfl, taint_ids ..⟩
  · exact onlyVectors_refl s

theorem sameAt_refl (r : RegSt) (k : Nat) : r.SameAt r k := ⟨rfl, fun _ _ => rfl⟩

theorem sameAt_trans {a b c : RegSt} {k : Nat} (h : a.SameAt b k) (g : b.SameAt c k) : a.SameAt c k :=
  ⟨g.1.trans h.1, fun j hj => (g.2 j hj).trans (h.2 j hj)⟩

/-- A word that its owner writes holds the value, and its owner sees it. -/
theorem put_eq (r : RegSt) (k : Nat) (v : Word) : tget (r.put k v).rf k = some v ∧ (r.put k v).Seen k := by
  refine ⟨tget_tset_same .., fun j hj => ?_⟩
  show tget (tclear r.shadow (4 * k) (4 * k + 4)) (4 * k + j) = none
  rw [tget_tclear, if_pos (by omega)]

/-- Every other word is as it was. -/
theorem put_other (r : RegSt) {k j : Nat} {v : Word} (h : k ≠ j) : r.SameAt (r.put j v) k := by
  refine ⟨tget_tset_other _ _ _ _ h, fun i hi => ?_⟩
  show tget (tclear r.shadow (4 * j) (4 * j + 4)) (4 * k + i) = _
  rw [tget_tclear, if_neg (by omega)]

/-- The lanes of a fold of register writes. -/
theorem threadsTake_fold {w : Warp} {wk d : Nat} (val : Nat → Word) (ls : List Nat) :
    ∀ s : State, s.warp wk = some w → ThreadsTake s w ls d val (ls.foldl (fun t l => t.setV wk l d (val l)) s) := by
  induction ls with
  | nil => intro s _; exact ⟨onlyVectors_refl s, by simp, fun _ _ => sameAt_refl _ _⟩
  | cons a ls ih =>
    intro s hw
    have hw' : (s.setV wk a d (val a)).warp wk = some w := by rw [setV_warp]; exact hw
    obtain ⟨h1, h2, h3⟩ := ih _ hw'
    refine ⟨onlyVectors_trans (onlyVectors_setV s wk a d (val a)) h1, ?_, ?_⟩
    · intro l hl k hk
      by_cases hm : l ∈ ls
      · exact h2 l hm k hk
      · have hla : l = a := by simpa [hm] using hl
        subst hla
        have hno : ∀ x ∈ ls, w.vkey x d ≠ some k := by
          intro x hx hxk
          exact hm (vkey_inj hxk hk ▸ hx)
        have hs := h3 k hno
        rw [setV_eq hw, hk] at hs
        refine ⟨by rw [List.foldl_cons, setV_eq hw, hk]; exact hs.1.trans (put_eq s.reg k _).1, fun j hj => ?_⟩
        rw [List.foldl_cons, setV_eq hw, hk]
        exact (hs.2 j hj).trans ((put_eq s.reg k _).2 j hj)
    · intro k hk
      rw [List.foldl_cons]
      refine sameAt_trans ?_ (h3 k fun l hl => hk l (List.mem_cons_of_mem _ hl))
      rw [setV_eq hw]
      cases hx : w.vkey a d with
      | none => exact sameAt_refl _ _
      | some j => exact put_other s.reg fun e => hk a (List.mem_cons_self ..) (e ▸ hx)

theorem helper_modHelper (s : State) (wk i l : Nat) (f : Helper → Helper) (hf : ∀ h, (f h).idx = h.idx) :
    (((s.modHelper wk i f).warp wk).bind fun w => w.helper l) =
      ((s.warp wk).bind fun w => w.helper l).map fun h => if l = i then f h else h := by
  simp only [State.modHelper, warp_modWarp, if_true]
  cases s.warp wk with
  | none => rfl
  | some w =>
    simp only [Option.map_some, Option.bind_some, Warp.helper]
    cases w.recruit with
    | none => rfl
    | some r =>
      simp only [Option.map_some, Option.bind_some, Recruit.modHelper]
      induction r.helpers with
      | nil => rfl
      | cons h hs ih =>
        simp only [List.map_cons, List.find?_cons]
        by_cases h1 : h.idx = i
        · by_cases h2 : h.idx = l
          · have : l = i := h2.symm.trans h1
            simp [h1, hf, this]
          · have : ¬ i = l := fun e => h2 (h1.trans e)
            simp only [h1, if_true, hf, beq_eq_false_iff_ne.mpr this]
            exact ih
        · by_cases h2 : h.idx = l
          · have : ¬ l = i := fun e => h1 (h2.trans e)
            simp [h2, this]
          · simp only [h1, if_false, beq_eq_false_iff_ne.mpr h2]
            exact ih

theorem onlyWarps_refl (s : State) : OnlyWarps s s := rfl

theorem onlyWarps_trans {a b c : State} (h : OnlyWarps a b) (g : OnlyWarps b c) : OnlyWarps a c := by
  unfold OnlyWarps at *
  rw [g, h]

theorem onlyWarps_modHelper (s : State) (wk i : Nat) (f : Helper → Helper) : OnlyWarps s (s.modHelper wk i f) := rfl

/-- A fold of updates of helpers, each of its own. -/
theorem helpersBecome_fold {wk : Nat} (f : Nat → Helper → Helper) (hf : ∀ l h, (f l h).idx = h.idx) (ls : List Nat)
    (nd : ls.Nodup) : ∀ s : State, HelpersBecome s wk ls f (ls.foldl (fun t l => t.modHelper wk l (f l)) s) := by
  induction ls with
  | nil => intro s; exact ⟨onlyWarps_refl s, fun _ _ => rfl, rfl, by simp⟩
  | cons a ls ih =>
    intro s
    have nd' := List.nodup_cons.mp nd
    obtain ⟨h1, h2, h3, h4⟩ := ih nd'.2 (s.modHelper wk a (f a))
    refine ⟨onlyWarps_trans (onlyWarps_modHelper s wk a _) h1, ?_, ?_, ?_⟩
    · intro k hk
      rw [List.foldl_cons, h2 k hk]
      simp [State.modHelper, warp_modWarp, hk]
    · rw [List.foldl_cons, h3]
      simp only [State.modHelper, warp_modWarp, if_true]
      cases s.warp wk with
      | none => rfl
      | some w => cases hr : w.recruit <;> simp [Warp.bare, hr, Recruit.modHelper]
    · intro l
      rw [List.foldl_cons, h4 l, helper_modHelper s wk a l (f a) (hf a)]
      cases ((s.warp wk).bind fun w => w.helper l) with
      | none => rfl
      | some h =>
        simp only [Option.map_some, List.mem_cons]
        by_cases hla : l = a
        · subst hla; simp [nd'.1]
        · simp [hla]

/-- A thread after an update of a thread. -/
theorem thread_modThread (s : State) (wk l : Nat) (f : Thread → Thread) (k j : Nat) :
    (s.modThread wk l f).thread k j = (s.thread k j).map fun th => if k = wk ∧ j = l then f th else th := by
  simp only [State.thread, State.modThread, warp_modWarp]
  by_cases hk : k = wk
  · subst hk
    simp only [if_true]
    cases s.warp k with
    | none => rfl
    | some w =>
      simp only [Option.map_some, Option.bind_some, Warp.modThread, List.getElem?_modify, true_and]
      cases w.threads[j]? with
      | none => simp
      | some th =>
        by_cases hj : l = j
        · simp [hj]
        · simp [hj, Ne.symm hj]
  · simp only [hk, if_false, false_and]
    cases s.warp k with
    | none => rfl
    | some w => simp

theorem onlyThreads_refl (s : State) : OnlyThreads s s := ⟨rfl, fun _ => rfl⟩

theorem onlyThreads_trans {a b c : State} (h : OnlyThreads a b) (g : OnlyThreads b c) : OnlyThreads a c :=
  ⟨onlyWarps_trans h.1 g.1, fun k => (g.2 k).trans (h.2 k)⟩

theorem onlyThreads_modThread (s : State) (wk l : Nat) (f : Thread → Thread) : OnlyThreads s (s.modThread wk l f) := by
  refine ⟨rfl, fun k => ?_⟩
  simp only [State.modThread, warp_modWarp]
  split
  · rename_i h; subst h; cases s.warp k <;> rfl
  · rfl

/-- A fold of updates of threads, each of its own. -/
theorem threadsBecome_fold {wk : Nat} (f : Nat → Thread → Thread) (ls : List Nat) (nd : ls.Nodup) :
    ∀ s : State, ThreadsBecome s wk ls f (ls.foldl (fun t l => t.modThread wk l (f l)) s) := by
  induction ls with
  | nil => intro s; exact ⟨onlyThreads_refl s, by simp⟩
  | cons a ls ih =>
    intro s
    have nd' := List.nodup_cons.mp nd
    obtain ⟨h1, h2⟩ := ih nd'.2 (s.modThread wk a (f a))
    refine ⟨onlyThreads_trans (onlyThreads_modThread s wk a _) h1, fun k l => ?_⟩
    rw [List.foldl_cons, h2 k l, thread_modThread]
    cases s.thread k l with
    | none => rfl
    | some th =>
      simp only [Option.map_some, List.mem_cons]
      by_cases hl : l = a
      · subst hl
        by_cases hk : k = wk <;> simp [hk, nd'.1]
      · simp [hl]

theorem modThreads_fold (s : State) (wk : Nat) (ls : List Nat) (f : Thread → Thread) :
    s.modThreads wk ls f = ls.foldl (fun t l => t.modThread wk l f) s ∨ s.warp wk = none := by
  cases hw : s.warp wk with
  | none => exact .inr rfl
  | some w =>
    left
    induction ls generalizing s w with
    | nil =>
      simp only [State.modThreads, List.foldl_nil]
      show s.modWarp wk (fun x => x) = s
      have : tmod s.warps wk (fun x => x) = s.warps := by
        induction s.warps with
        | nil => rfl
        | cons e t ih => obtain ⟨j, v⟩ := e; simp only [tmod]; split <;> simp_all
      simp only [State.modWarp, this]
    | cons a ls ih =>
      have h := ih (s.modThread wk a f) (w.modThread a f) (by simp [State.modThread, warp_modWarp, hw])
      rw [List.foldl_cons, ← h]
      simp only [State.modThreads, State.modThread, State.modWarp, List.foldl_cons]
      congr 1
      induction s.warps with
      | nil => rfl
      | cons e t ih =>
        obtain ⟨j, v⟩ := e
        simp only [tmod]
        split
        · rename_i hj; simp [tmod, hj]
        · rename_i hj; simp only [tmod, hj, if_false, ih]

/-- CHANGING THREADS: those in `ls` are changed by `f` and nothing else differs. -/
theorem threadsBecome_modThreads (s : State) (wk : Nat) (ls : List Nat) (f : Thread → Thread) (nd : ls.Nodup) :
    ThreadsBecome s wk ls (fun _ => f) (s.modThreads wk ls f) := by
  rcases modThreads_fold s wk ls f with h | h
  · rw [h]; exact threadsBecome_fold (fun _ => f) ls nd s
  · have hw : ∀ k, (s.modThreads wk ls f).warp k = s.warp k := by
      intro k
      simp only [State.modThreads, warp_modWarp]
      split
      · rename_i hk; subst hk; rw [h]; rfl
      · rfl
    refine ⟨⟨rfl, fun k => by rw [hw]⟩, fun k l => ?_⟩
    simp only [State.thread, hw]
    by_cases hk : k = wk
    · subst hk; rw [h]; rfl
    · cases (s.warp k).bind fun x => x.threads[l]? <;> simp [hk]

/-- WRITING A DESTINATION: the actors of the group take their values and nothing else differs. -/
theorem actorsTake_writeLanes (s : State) (i : Issue) (d : Nat) (val : Nat → Word) (nd : (s.acting i).Nodup) :
    ActorsTake s i d val (s.writeLanes i d val) := by
  unfold ActorsTake State.writeLanes
  cases hk : i.kind with
  | thread =>
    intro w hw
    simp only [State.wrV, hk]
    exact threadsTake_fold val (s.acting i) s hw
  | helper =>
    intro hd
    have : ¬ d < 64 := by omega
    simp only [State.wrV, hk, this, if_false]
    exact helpersBecome_fold (fun l h => { h with vregs := tset h.vregs d (val l) }) (fun _ _ => rfl) (s.acting i) nd s

/-- The acting lanes are lanes of the group. -/
theorem acting_sublist (s : State) (i : Issue) : (s.acting i).Sublist i.lanes := by
  unfold State.acting
  cases i.pfx with
  | none => exact List.Sublist.refl _
  | some p =>
    dsimp only
    split
    · exact List.Sublist.refl _
    · exact List.filter_sublist

theorem acting_nodup (s : State) (i : Issue) (h : i.lanes.Nodup) : (s.acting i).Nodup :=
  (acting_sublist s i).nodup h

/-- A word that helpers may issue runs when nothing traps or holds it. -/
theorem withRegs_ready {s : State} {i : Issue} {srcs dsts : List Nat} (h : s.Ready i srcs dsts)
    (k : Issue → State → State) : s.withRegs srcs dsts k = k i s := by
  simp [State.withRegs, h.issuing, h.named, h.unheld]

theorem withThread_ready {s : State} {i : Issue} {srcs dsts : List Nat} (h : s.Ready i srcs dsts) (ht : i.kind = .thread)
    (k : Issue → State → State) : s.withThread srcs dsts k = k i s := by
  simp [State.withThread, h.issuing, h.named, h.unheld, ht]

theorem ctrl_ready {s : State} {i : Issue} {w : Warp} {t : Team} (h : s.ReadyC i w t) (ho co : Bool)
    (k : Issue → Warp → Team → State → State) : s.ctrl ho co [] k = k i w t s := by
  simp [State.ctrl, h.issuing, h.warp, h.team, h.threads, h.normal]

end Sys2Proof.Laws
end

