-- ==== Sys2Proof/Tests/Witnesses.lean ====
section
/-! SUPPORT. Witnesses: for every statement with hypotheses, states and operands that meet all of them together, clause by
clause where a statement has several. -/

namespace Sys2Proof.Tests

set_option Elab.async false

open Sys2Proof Sys2Proof.Machine Sys2Proof.Claims

/-! ### Small states -/

/-- Threads 0 and 1 of warp 1 issue the word at packet 0, slot 1. -/
def wI : Issue := blankIssue 1 .thread [0, 1] 4

def wVals : TaskVals :=
  { wordVals with
    spbytes := 4096, xblk := 2, help := 4, tiles := 8, stkbase := 0x3_8000, stkstride := 4096, grant := true, dcwin := 1 }

def wTeam : Team := { wordTeam with vals := wVals, tiles := [(0, 0), (1, 1)] }

def wW : Warp := { wordWarp 4 with ext := [(0, 0)] }

/-- One warp of one team at a placed word, its group issuing. -/
def wS : State :=
  { State.reset.place 0#32 with teams := [(1, wTeam)], warps := [(1, wW)], iss := some wI, nextId := 100 }

/-- `wS` with v1 and v2 of thread 0. -/
def wV (a b : Word) : State := (wS.setV 1 0 1 a).setV 1 0 2 b

theorem warp_wS : wS.warp 1 = some wW := by rfl
theorem team_wS : wS.teamOf 1 = some wTeam := by rfl

/-- A recruitment of thread 1: two chunks of four iterations, the first with helper 0, which stands at packet 0. -/
def wHelper : Helper :=
  { idx := 0, slot := 40, origin := .empty, st := .chunk 0, pc := 4, bundle := 0, passover := 0, preds := 0, vregs := []
    epoch := 9, flags := List.replicate 12 0, seta := 15, setb := 15, wait := 0, buf := [] }

def wRec : Recruit :=
  { lane := 1, body := 0, n := 8, c := 4, types := 1
    chunks := [{ st := .claimed 0, slots := [0, 0, 0, 0] }, { st := .unclaimed, slots := [0, 0, 0, 0] }]
    helpers := [wHelper], nextIdx := 1, heldFor := [], trap := none }

/-- `wS` with the recruitment `r` open. -/
def wRS (r : Recruit) : State := { wS with warps := [(1, { wW with recruit := some r })] }

/-- Helper 0 of warp 1 issues. -/
def hI : Issue := blankIssue 1 .helper [0] 4

def wH : State := { wRS wRec with iss := some hI }

/-- `wS` with its warp changed. -/
def wWith (f : Warp → Warp) : State := { wS with warps := [(1, f wW)] }

/-- `wS` with every thread of its warp changed. -/
def wThreads (f : Thread → Thread) : State := wWith fun w => { w with threads := w.threads.map f }

/-- A search that finds neither fault nor wait reaches what it reaches. -/
theorem reaches_of {s : State} {i : Issue} {w : Warp} {t : Team} {n : Nat} {a : Access} {acc : List (Nat × Nat)}
    (h : s.accessTrap w t (i.kind == .helper) n (a != .load) (a == .atomic) acc = none)
    (h1 : (s.locate w t a acc).2.1 = []) (h2 : (s.locate w t a acc).2.2.1 = false) :
    s.Reaches i w t n a acc (s.locate w t a acc).1 (s.locate w t a acc).2.2.2 :=
  ⟨h, Prod.ext rfl (Prod.ext h1 (Prod.ext h2 rfl))⟩

theorem pair_true {α : Type} {p : α × Bool} (h : p.2 = true) : p = (p.1, true) := Prod.ext rfl h

/-! ### Lane words -/

theorem witness_TwoSource : ∃ f : FmtA, wI.lanes.Nodup ∧ wS.Ready wI (vregsOf f.ta f.a ++ vregsOf f.tb f.b) [f.d.toNat] :=
  ⟨⟨3, 0, 1, 0, 79⟩, by decide, by decide, by decide, by decide⟩

theorem witness_ThreeSource : ∃ f : FmtA, wI.lanes.Nodup ∧
    wS.Ready wI (vregsOf f.ta f.a ++ vregsOf f.tb f.b ++ vregsOf (wI.cOpnd f.d).1 (wI.cOpnd f.d).2) [f.d.toNat] :=
  ⟨⟨3, 0, 1, 0, 2⟩, by decide, by decide, by decide, by decide⟩

theorem witness_OneSource : ∃ f : FmtU, wI.lanes.Nodup ∧ wS.Ready wI (vregsOf f.ta f.a) [f.d.toNat] :=
  ⟨⟨3, 0, 1⟩, by decide, by decide, by decide, by decide⟩

theorem witness_FieldsAndBytes_sel : ∃ f : FmtA, wI.lanes.Nodup ∧
    wS.Ready wI (vregsOf f.ta f.a ++ vregsOf f.tb f.b ++ [f.d.toNat]) [f.d.toNat] :=
  ⟨⟨3, 0, 1, 0, 2⟩, by decide, by decide, by decide, by decide⟩

theorem witness_PairResults :
    (∃ f : FmtA, f.d.toNat % 2 = 0 ∧
      wS.ReadyT wI wW (vpairOf f.ta f.a ++ vpairOf f.tb f.b) [f.d.toNat, f.d.toNat + 1]) ∧
    ∃ f : FmtU, f.d.toNat % 2 = 0 ∧ wS.ReadyT wI wW (vpairOf f.ta f.a) [f.d.toNat, f.d.toNat + 1] :=
  ⟨⟨⟨62, 0, 2, 0, 78⟩, by decide, ⟨by decide, by decide, by decide⟩, by decide, by rfl⟩,
   ⟨⟨78, 0, 2⟩, by decide, ⟨by decide, by decide, by decide⟩, by decide, by rfl⟩⟩

/-- Every branch of FMIN and FMAX is met: two NaNs, one on either side, −0 below +0, and equal numbers. -/
theorem witness_FloatResults_min :
    (f32 0x7FC0_0000).isNaN = true ∧ (f32 0x3F80_0000).isNaN = false ∧ below (f32 0x8000_0000) (f32 0) = true ∧
    below (f32 0) (f32 0x8000_0000) = false ∧ below (f32 0x3F80_0000) (f32 0x3F80_0000) = false := by decide

theorem witness_FloatUnary_plain : wI.pfx = none := rfl

theorem witness_RoundingIsExact : (f32 0xFF80_0000).isNaN = false ∧ (decodeF .bf16 0x0001).isNaN = false ∧
    (decodeF .f16 0x7BFF).isNaN = false := by decide

theorem witness_SpecialStarts : ∃ f : FmtU, wS.ReadyT wI wW (vregsOf f.ta f.a) [f.d.toNat] ∧ wS.acting wI ≠ [] ∧
    wS.flagRoom wI.warp none (wS.flagOf wI none) = true :=
  ⟨⟨3, 0, 1⟩, ⟨⟨by decide, by decide, by decide⟩, by decide, by rfl⟩, by decide, by decide⟩

theorem witness_SpecialFunctions_return :
    ∃ s : State, ∃ o : Op, ∃ res, s.op 7 = some o ∧ o.kind = .sfu res :=
  ⟨{ wS with ops := [{ blankOp 1 (.sfu [(0, 3, 1)]) with id := 7 }] }, _, _, rfl, rfl⟩

theorem witness_Compare : ∃ f : FmtC, wI.lanes.Nodup ∧ wS.Ready wI (vregsOf f.ta f.a ++ vregsOf f.tb f.b) [] :=
  ⟨⟨6, 15, 0, 1, 0, 79⟩, by decide, by decide, by decide, by decide⟩

/-! ### Scalar, cross-lane and system words -/

theorem witness_ScalarResults : (∃ f : FmtS, ScalarReady wS wI (vregsOf f.tb (wI.scalarB f.tb f.b))) ∧
    (∃ f : FmtSmov, ScalarReady wS wI (vregsOf f.tb (wI.scalarB f.tb f.b))) ∧
    (∃ f : FmtSmov, ScalarReady wS wI (vpairOf f.tb (wI.scalarB f.tb f.b))) ∧
    ∃ f : FmtS, ScalarReady wS wI (vpairOf f.tb (wI.scalarB f.tb f.b)) :=
  ⟨⟨⟨1, 2, 1, 3⟩, by decide, by decide, .inl (by decide), by decide, by decide⟩,
   ⟨⟨1, 0, 3⟩, by decide, by decide, .inr (by decide), by decide, by decide⟩,
   ⟨⟨2, 0, 4⟩, by decide, by decide, .inr (by decide), by decide, by decide⟩,
   ⟨⟨2, 4, 1, 6⟩, by decide, by decide, .inl (by decide), by decide, by decide⟩⟩

theorem witness_ScalarForms :
    (wH.iss = some hI ∧ hI.kind = .helper ∧ wH.regError hI (vregsOf 0 79) [] = none ∧
      wH.bundleActs hI = true) ∧
    (let i : Issue := { wI with pfx := some (parsePfx 0x7C00_0000) }
     i.kind = .thread ∧ ({ wS with iss := some i } : State).iss = some i ∧ wS.bundleActs i = false) ∧
    ((wRS wRec).iss = some wI ∧ (wRS wRec).bundleActs wI = true ∧ (wRS wRec).recruiter wI ≠ none) :=
  ⟨by decide, ⟨rfl, rfl, by decide⟩, by decide⟩

theorem witness_ScalarCompare : ∃ f : FmtScmp, wI.lanes.Nodup ∧ wS.iss = some wI ∧ wS.bundleActs wI = true ∧
    (vregsOf f.tb (wI.scalarB f.tb f.b) = [] ∨ wS.regError wI (vregsOf f.tb (wI.scalarB f.tb f.b)) [] = none) :=
  ⟨⟨6, 15, 63, 3, 9⟩, by decide, by decide, by decide, .inl (by decide)⟩

theorem witness_Shuffles :
    (∃ f : FmtL, f.lane.getLsbD 5 = true ∧
      wS.ReadyT wI wW (vregsOf f.ta f.a ++ vregsOf (wI.cOpnd f.d).1 (wI.cOpnd f.d).2) [f.d.toNat]) ∧
    (∃ f : FmtL, f.lane.toNat = 4 ∧ wS.ReadyT wI wW (vregsOf f.ta f.a) [f.d.toNat]) :=
  ⟨⟨⟨3, 0, 1, 32⟩, by decide, ⟨by decide, by decide, by decide⟩, by decide, by rfl⟩,
   ⟨⟨3, 0, 1, 4⟩, by decide, ⟨by decide, by decide, by decide⟩, by decide, by rfl⟩⟩

theorem witness_Censuses : ∀ x : BitVec 6, x.toNat < 16 → ∃ f : FmtL, f.lane = x ∧ wS.ReadyT wI wW (vregsOf f.ta f.a) [f.d.toNat] ∧
    wS.acting wI = [0, 1] ∧ wS.opnd wI 0 f.ta f.a = 0 ∧ ∃ g : FmtL, g.lane = x ∧
      (wV 5 0).ReadyT wI wW (vregsOf g.ta g.a) [g.d.toNat] ∧ 0 ∈ (wV 5 0).acting wI ∧ (wV 5 0).opnd wI 0 g.ta g.a = 5 :=
  fun x _ =>
    have h : wS.ReadyT wI wW [1] [3] := ⟨⟨by decide, by decide, by decide⟩, by decide, by rfl⟩
    have g : (wV 5 0).ReadyT wI wW [1] [3] := ⟨⟨by decide, by decide, by decide⟩, by decide, by rfl⟩
    ⟨⟨3, 0, 1, x⟩, rfl, h, by decide, by rfl, ⟨3, 0, 1, x⟩, rfl, g, by decide, by rfl⟩

theorem witness_ReadSpecial :
    (wI.lanes.Nodup ∧ wS.Ready wI [] [79] ∧ wS.srOf wI wI.lowest 2 ≠ none) ∧
    (wS.recruiter wI = none ∧ wS.leader wI = some 0) ∧ wS.srOf wI wI.lowest 127 = none :=
  ⟨⟨by decide, ⟨by decide, by decide, by decide⟩, by decide⟩, by decide, by decide⟩

/-- `wS` in a handler. -/
def wHandS : State := wWith fun w => { w with trap := .handling }
def wHandW : Warp := { wW with trap := .handling }

/-- A vector and a scalar source; in a handler; the registers 33 outside one, 2 in the table and 127 in none; a helper. -/
theorem witness_WriteSpecial :
    (∀ k : BitVec 1, SetReady wS wI wW k 3 ∧ SetReady wHandS wI wHandW k 3) ∧
    (wHandS.rdWarp wI = some wHandW ∧ wHandW.trap = .handling ∧ wHandS.leader wI = some 0) ∧
    (wS.rdWarp wI = some wW ∧ wW.trap ≠ .handling ∧ wS.srOf wI wI.lowest 33 ≠ none ∧ wS.srOf wI wI.lowest 2 ≠ none ∧
      wS.srOf wI wI.lowest 127 = none ∧ wS.acting wI ≠ []) ∧
    wH.iss = some hI ∧ hI.kind = .helper ∧ wH.acting hI ≠ [] :=
  ⟨fun _ => ⟨⟨by decide, rfl, by rfl, fun _ => by decide⟩, by decide, rfl, by rfl, fun _ => by decide⟩,
   ⟨by rfl, rfl, by decide⟩, ⟨by rfl, by decide, by decide, by decide, by decide, by decide⟩, by decide, rfl, by decide⟩

/-- One, two and four words. -/
theorem witness_RandomDraw : wI.lanes.Nodup ∧ ∀ z : BitVec 2, ∃ d : BitVec 7,
    let n := if z = 0 then 1 else if z = 1 then 2 else 4
    wS.ReadyT wI wW [] (regRange d.toNat n) ∧ d.toNat % n = 0 := by
  refine ⟨by decide, fun z => ⟨60, ?_⟩⟩
  have h : z = 0 ∨ z = 1 ∨ z = 2 ∨ z = 3 := by
    have := z.isLt
    have e : z.toNat = 0 ∨ z.toNat = 1 ∨ z.toNat = 2 ∨ z.toNat = 3 := by omega
    rcases e with e | e | e | e
    · exact .inl (BitVec.eq_of_toNat_eq e)
    · exact .inr (.inl (BitVec.eq_of_toNat_eq e))
    · exact .inr (.inr (.inl (BitVec.eq_of_toNat_eq e)))
    · exact .inr (.inr (.inr (BitVec.eq_of_toNat_eq e)))
  rcases h with rfl | rfl | rfl | rfl <;>
    exact ⟨⟨⟨by decide, by decide, by decide⟩, by decide, by rfl⟩, by decide⟩

/-- A window address that is a multiple of 512, and one that is not. -/
theorem witness_ClockAndWindow :
    wS.ReadyT wI wW [] [78, 79] ∧ wS.rdWarp wI = some wW ∧ wW.threads[0]? = some (freshThread 4 0) ∧
    (∀ n : Word, n = 512 ∨ n = 513 → ∃ s : State, s.iss = some wI ∧ s.bundleActs wI = true ∧
      (s.rdS wI 3 ++ s.rdS wI 2).toNat = n.toNat) := by
  refine ⟨⟨⟨by decide, by decide, by decide⟩, by decide, by rfl⟩, by rfl, by rfl, ?_⟩
  rintro n (rfl | rfl)
  · exact ⟨wWith fun w => { w with sregs := [(2, 512), (3, 0)] }, by decide⟩
  · exact ⟨wWith fun w => { w with sregs := [(2, 513), (3, 0)] }, by decide⟩

/-- In a handler for an uncorrectable error whose destination is v4 to v7, four words; both threads awaited it. -/
def wUeW : Warp :=
  { wW with
    trap := .handling, trapcause := 7, trapinfo := 0x304, uedests := [(0, 4, 4), (1, 4, 4)]
    threads := wW.threads.map fun t => { t with marked := true } }

def wUe : State := { wS with warps := [(1, wUeW)] }

/-- The same for a scalar destination, which UERPL replaces no word of. -/
def wUeSW : Warp := { wUeW with trapinfo := 0xA04 }
def wUeS : State := { wS with warps := [(1, wUeSW)] }

theorem witness_Replacement :
    (wS.ReadyT wI wW [3] [] ∧ wS.rdWarp wI = some wW ∧ wW.trap ≠ .handling) ∧
    (wHandS.ReadyT wI wHandW [3] [] ∧ wHandS.rdWarp wI = some wHandW ∧ wHandW.trapcause ≠ 7) ∧
    (wI.lanes.Nodup ∧ wUe.ReadyT wI wUeW [3] [] ∧ wUe.rdWarp wI = some wUeW ∧ wUeW.trap = .handling ∧ wUeW.trapcause = 7 ∧
      wUeW.trapinfo.getLsbD 11 = false ∧ wUeW.uedests ≠ [] ∧
      sizeWords (sizeBytes (BitVec.ofNat 3 (bits wUeW.trapinfo.toNat 9 7))) = 4 ∧ (3 : BitVec 2).toNat < 4 ∧
      (wUe.acting wI).filter (fun l => ((wUeW.threads[l]?).map (·.marked)).getD false) = [0, 1] ∧
      wUe.recruitHeld wI [0, 1] [bits wUeW.trapinfo.toNat 6 0 + 3] = false) ∧
    wUeS.ReadyT wI wUeSW [3] [] ∧ wUeS.rdWarp wI = some wUeSW ∧ wUeSW.trap = .handling ∧ wUeSW.trapcause = 7 ∧
      wUeSW.trapinfo.getLsbD 11 = true :=
  ⟨⟨⟨⟨by decide, by decide, by decide⟩, by decide, by rfl⟩, by rfl, by decide⟩,
   ⟨⟨⟨by decide, by decide, by decide⟩, by decide, by rfl⟩, by rfl, by decide⟩,
   ⟨by decide, ⟨⟨by decide, by decide, by decide⟩, by decide, by rfl⟩, by rfl, by decide⟩,
   ⟨⟨by decide, by decide, by decide⟩, by decide, by rfl⟩, by rfl, by decide⟩

/-! ### Control flow -/

theorem wS_ready : wS.ReadyC wI wW wTeam := ⟨by decide, by decide, by decide, by rfl, by rfl⟩

/-- `wS` with scalars 0 to 3 zero. -/
def wScal : State := wWith fun w => { w with sregs := [(0, 0), (1, 0), (2, 0), (3, 0)] }

theorem witness_Branches :
    (wS.actingP wI 0 7 ≠ [] ∧ wS.TargetsOk wI wW wTeam [wI.offTarget 0]) ∧
    (let w := { wW with sregs := [(0, 0), (1, 0), (2, 0), (3, 0)] }
     wScal.warp 1 = some w ∧ wScal.teamOf 1 = some wTeam ∧ FormOk wScal wI w (formRegs 1 3) ∧
     wScal.TargetsOk wI w wTeam ((wScal.actingP wI 0 7).map fun l =>
       (((wI.p : Int) + (wScal.regForm wI l 1 3).toInt) % 2 ^ 23).toNat) ∧
     wScal.TargetsOk wI w wTeam ((wScal.actingP wI 0 7).map fun l => (wScal.regForm wI l 1 3).toNat % 2 ^ 23)) ∧
    (wI.pfx = none ∧ wI.p < 2 ^ 23) := by
  refine ⟨⟨by decide, ?_⟩, ⟨by rfl, by rfl, .inl (by decide), ?_, ?_⟩, by decide⟩ <;>
    (unfold State.TargetsOk; decide)

/-- The threads' v1: one names the packet itself, the other one outside the segment. -/
def wFar : State := (wS.setV 1 0 1 0).setV 1 1 1 32

theorem witness_BranchTraps : wTeam.vals.codelen ≤ 32 ∧
    (wS.actingP wI 0 7 ≠ [] ∧ BadTargets wS wI wW wTeam [wI.offTarget 1] 0x0C ∧
      BadTargets wS wI wW wTeam [wI.offTarget 32] 0x10) ∧
    (FormOk wFar wI wW (formRegs 0 1) ∧
      BadTargets wFar wI wW wTeam ((wFar.actingP wI 0 7).map fun l =>
        (((wI.p : Int) + (wFar.regForm wI l 0 1).toInt) % 2 ^ 23).toNat) 0x10 ∧
      BadTargets wFar wI wW wTeam ((wFar.actingP wI 0 7).map fun l => (wFar.regForm wI l 0 1).toNat % 2 ^ 23) 0x10) := by
  have ok : wFar.targetCheck wI wW wTeam 0 = (.ok, wFar) := by decide +kernel
  have bad : wFar.targetCheck wI wW wTeam 32 = (.bad 0x10, wFar) := by rfl
  have two : ∀ xs, xs = [0, 32] → BadTargets wFar wI wW wTeam xs 0x10 := by
    rintro _ rfl
    refine ⟨fun x hx => ?_, 32, by decide, bad⟩
    simp only [List.mem_cons, List.not_mem_nil, or_false] at hx
    rcases hx with rfl | rfl
    · exact .inl ok
    · exact .inr ⟨_, Nat.le_refl _, bad⟩
  have one : ∀ x c, wS.targetCheck wI wW wTeam x = (.bad c, wS) → BadTargets wS wI wW wTeam [x] c := fun x c h =>
    ⟨fun y hy => by rw [List.mem_singleton.1 hy]; exact .inr ⟨c, Nat.le_refl _, h⟩, x, List.mem_singleton.2 rfl, h⟩
  exact ⟨by decide, ⟨by decide, one _ _ (by decide +kernel), one _ _ (by decide +kernel)⟩, .inr (by decide),
    two _ (by decide +kernel), two _ (by decide +kernel)⟩

/-- The meeting point (packet 0, depth 0) is set in every thread. -/
def wMeet (st : TState) : State := wThreads fun t => { t with meet := 0x8000_0000, st := st }

theorem witness_Parking :
    (wMeet .runnable).warp 1 = some { wW with threads := wW.threads.map fun t => { t with meet := 0x8000_0000 } } ∧
    (wMeet .runnable).teamOf 1 = some wTeam ∧ (wMeet .runnable).thread 1 0 = some { freshThread 4 0 with meet := 0x8000_0000 } ∧
    (wMeet .runnable).clauseLook 1 wTeam 0 = some true ∧ wS.thread 1 0 = some (freshThread 4 0) ∧
    (wMeet (.blocked .trapret)).clauseLook 1 wTeam 0 ≠ some false ∧ (wMeet .runnable).clauseLook 1 wTeam 32 = some false := by
  refine ⟨by rfl, by rfl, by rfl, by decide, by rfl, by decide, by decide⟩

/-- Thread 0 is blocked, and due to park at packet 0. -/
def wDue : State := wThreads fun t => { t with meet := 0x8000_0000, st := .blocked .trapret, pc := 0, due := true }

theorem witness_Waking : wDue.teamOf 1 = some wTeam ∧
    (∃ th, wDue.thread 1 0 = some th ∧ th.due = true ∧ th.handling = false ∧ th.parksAt = true ∧
      wDue.clauseLook 1 wTeam (th.pc / 12) = some true) ∧
    ∃ th, (wMeet (.blocked .trapret)).thread 1 0 = some th ∧ th.due = false := by
  refine ⟨by rfl, ⟨_, rfl, by decide⟩, ⟨_, rfl, by decide⟩⟩

def wStack (d : Nat) : List (Nat × Nat) := [0, 1].map fun l => (l, 0xFD00_0000_0000_0000 + 8 * d)

theorem witness_Calls :
    (∀ l ∈ wS.actingP wI 0 7, ((wW.threads[l]?).getD (freshThread 0 0)).depth ≠ 255) ∧
    wS.acqWait wI (wS.actingP wI 0 7) = false ∧ wS.TargetsOk wI wW wTeam [wI.offTarget 0] ∧
    (∃ accs s1, wS.Reaches wI wW wTeam 8 .store ((wS.actingP wI 0 7).map fun l =>
        (l, 0xFD00_0000_0000_0000 + 8 * ((wW.threads[l]?).getD (freshThread 0 0)).depth)) accs s1 ∧
      ∃ s2, s1.relFences wI wW.core (wS.actingP wI 0 7) = (s2, true)) ∧
    FormOk wScal wI { wW with sregs := [(0, 0), (1, 0), (2, 0), (3, 0)] } (formRegs 1 3) := by
  refine ⟨by decide, by decide, by unfold State.TargetsOk; decide, ⟨_, _, reaches_of (by decide) (by decide) (by decide), _,
    pair_true (by decide)⟩, .inl (by decide)⟩

/-- Every thread of the warp stands at depth `d`. -/
def wDepth (d : Nat) : State := wThreads fun t => { t with depth := d }
def wDepthW (d : Nat) : Warp := { wW with threads := wW.threads.map fun t => { t with depth := d } }

theorem wDepth_ready (d : Nat) : (wDepth d).ReadyC wI (wDepthW d) wTeam := ⟨by rfl, by rfl, by rfl, by rfl, by rfl⟩

theorem witness_Calls_overflow : (wDepth 255).ReadyC wI (wDepthW 255) wTeam ∧
    ((wDepth 255).actingP wI 0 7).filter (fun l => (((wDepthW 255).threads[l]?).getD (freshThread 0 0)).depth == 255) =
      [0, 1] ∧ FormOk (wDepth 255) wI (wDepthW 255) (formRegs 0 3) := ⟨wDepth_ready 255, by decide, .inr (by decide)⟩

theorem witness_Returns :
    let s := wDepth 1
    let w := wDepthW 1
    let acc := (s.actingP wI 0 7).map fun l => (l, 0xFD00_0000_0000_0000 + 8 * (((w.threads[l]?).getD (freshThread 0 0)).depth - 1))
    s.ReadyC wI w wTeam ∧ s.actingP wI 0 7 ≠ [] ∧
    (∀ l ∈ s.actingP wI 0 7, ((w.threads[l]?).getD (freshThread 0 0)).depth ≠ 0) ∧ s.acqWait wI (s.actingP wI 0 7) = false ∧
    (let r := s.locate w wTeam .load acc
     s.Reaches wI w wTeam 8 .load acc r.1 r.2.2.2 ∧
     ∀ p ∈ ((r.2.2.2.startOp { blankOp 1 .ret with lanes := s.actingP wI 0 7 }).2.readLanes wI w wI.gpc 5
       r.2.2.2.nextId wTeam.ctx r.1).1, leNat (p.bytes.map fun b => b.getD 0) % 2 ^ 23 < wTeam.vals.codelen) := by
  refine ⟨wDepth_ready 1, by decide, by decide, by decide, reaches_of (by decide) (by decide) (by decide), by decide⟩

theorem witness_Returns_underflow :
    (wS.actingP wI 0 7).filter (fun l => ((wW.threads[l]?).getD (freshThread 0 0)).depth == 0) = [0, 1] := by decide

theorem witness_Meetings : wI.lanes.Nodup ∧ wS.ReadyC wI wW wTeam ∧ FormOk wS wI wW (formRegs 0 3) :=
  ⟨by decide, wS_ready, .inr (by decide)⟩

theorem witness_Exits : wW.recruit = none ∧ (wRS wRec).ReadyC wI { wW with recruit := some wRec } wTeam ∧
    wRec.lane ∈ (wRS wRec).actingP wI 0 7 := ⟨rfl, ⟨by rfl, by rfl, by rfl, by rfl, by rfl⟩, by decide⟩

/-- The phase of barrier 3 expects two arrivals and has one. -/
def wBarT : Team := { wTeam with bars := [(3, { count := 1, phase := 0, expect := some 2, arrived := [5] })] }
def wBar : State := { wS with teams := [(1, wBarT)] }

theorem witness_Barriers :
    wBar.ReadyC wI wW wBarT ∧ wBar.actingP wI 0 0 = [] ∧ wBar.actingP wI 0 7 ≠ [] ∧
    (wBar.actingP wI 0 7).filter (fun l => !(wBar.bar wW.team 3).arrived.contains (wW.k * wW.w + l)) ≠ [] ∧
    (wBar.bar wW.team 3).expect = some 2 ∧ (wBar.bar wW.team 4).expect = none :=
  ⟨⟨by rfl, by rfl, by rfl, by rfl, by rfl⟩, by decide⟩

theorem witness_Arrivals : wBar.warp 1 = some wW ∧ wBar.team 1 = some wBarT ∧ wW.threads[0]? = some (freshThread 4 0) ∧
    (wBar.bar 1 3).arrived.contains (wW.k * wW.w + 0) = false := ⟨by rfl, by rfl, by rfl, by decide⟩

/-- A team of two warps on one scheduler, the first leading; and a deterministic team. -/
def wTwoT : Team := { wTeam with warps := [some 1, some 2] }
def wTwo : State :=
  { wS with teams := [(1, wTwoT)], warps := [(1, { wW with lead := true }), (2, { wW with k := 1, slot := 32 })] }
def wDetT : Team := { wTeam with vals := { wVals with det := true } }

theorem witness_TurnWords :
    (wS.ReadyC wI wW wTeam ∧ wTeam.vals.det = false ∧ wW.lead = false) ∧
    (({ wS with teams := [(1, wDetT)] } : State).ReadyC wI wW wDetT ∧ wDetT.vals.det = true) ∧
    wTwo.ReadyC wI { wW with lead := true } wTwoT ∧ wTwo.teamWarps wTwoT = [1, 2] ∧
    wTwo.warp 2 = some { wW with k := 1, slot := 32 } :=
  ⟨⟨wS_ready, by decide, by decide⟩, ⟨⟨by rfl, by rfl, by rfl, by rfl, by rfl⟩, by decide⟩,
   ⟨by rfl, by rfl, by rfl, by rfl, by rfl⟩, by decide, by rfl⟩

theorem witness_SoftwareTraps : wS.actingP wI 0 7 ≠ [] ∧ wS.actingP wI 0 0 = [] := by decide

theorem witness_RestartWords : wI.lanes.Nodup ∧ wS.targetCheck wI wW wTeam wI.p = (.ok, wS) := by decide

/-- Thread 0, or helper 0, has passed a header that waits for f0, whose count is not zero. -/
def wWaitT : State := wWith fun w =>
  { w with flags := [1], threads := w.threads.map fun t => { t with wait := 1 } }
def wWaitHW : Warp := { wW with recruit := some { wRec with helpers := [{ wHelper with wait := 1, flags := [1] }] } }
def wWaitH : State := { wS with warps := [(1, wWaitHW)], iss := some hI }

theorem witness_ClauseHeaders :
    wI.lanes.Nodup ∧ wS.flagsClear wI.warp none 0xFFF = true ∧
    ({ wWith (fun w => { w with flags := [1] }) with iss := some wI } : State).flagsClear wI.warp none 1 = false ∧
    wH.iss = some hI ∧ (∀ l ∈ hI.lanes, wH.flagsClear hI.warp (some l) 0xFFF = true) ∧
    (wS.teamOf wI.warp = some wTeam ∧ wTeam.vals.det = false) ∧
    (({ wS with teams := [(1, wDetT)] } : State).teamOf wI.warp = some wDetT ∧ wDetT.vals.det = true) ∧
    wWaitH.iss = some hI ∧ wWaitH.flagsClear hI.warp (some 0) 1 = false ∧
    ((wWaitT.warp 1).isSome = true ∧ wWaitT.teamOf 1 = some wTeam ∧
      (wWaitT.thread 1 0).map (fun th => wWaitT.flagsClear 1 none th.wait) = some false) ∧
    wWaitH.warp 1 = some wWaitHW ∧ wWaitH.teamOf 1 = some wTeam ∧
      (wWaitHW.helper 0).map (fun h => wWaitH.flagsClear 1 (some 0) h.wait) = some false :=
  ⟨by decide, by decide, by decide, by decide, by decide, ⟨by rfl, rfl⟩, ⟨by rfl, rfl⟩, by decide, by decide,
   ⟨by decide, by rfl, by decide⟩, by rfl, by rfl, by decide⟩

/-! ### Memory words -/

/-- `wS` whose pairs v2:v3 (v64:v65 of the helper) hold the addresses `a + 16 * lane`. -/
def wMem (a : Nat) : State :=
  let put (s : State) (l : Nat) : State :=
    (s.setV 1 l 2 (BitVec.ofNat 32 (a + 16 * l))).setV 1 l 3 (BitVec.ofNat 32 ((a + 16 * l) / 2 ^ 32))
  put (put wS 0) 1

def wMemH (a : Nat) : State :=
  { wRS { wRec with helpers := [{ wHelper with vregs := [(64, BitVec.ofNat 32 a), (65, BitVec.ofNat 32 (a / 2 ^ 32))] }] } with
    iss := some hI }

def wMemHW (a : Nat) : Warp :=
  { wW with recruit := some { wRec with
      helpers := [{ wHelper with vregs := [(64, BitVec.ofNat 32 a), (65, BitVec.ofNat 32 (a / 2 ^ 32))] }] } }

/-- A global address, of one thread each and of the helper. -/
theorem witness_Loads :
    let s := wMem 0x3_8000
    let acc := (s.acting wI).map fun l => (l, pairAddr s wI ⟨4, 2, 6, 1⟩ l)
    s.Ready wI [2, 3] (regRange 4 4) ∧ s.warp 1 = some wW ∧ acc = [(0, 0x3_8010), (1, 0x3_8020)] ∧
    s.MemoryFree wI (s.flagOf wI none) ∧ s.gated wW wTeam true 16 acc = false ∧
    ∃ accs s1, s.Reaches wI wW wTeam 16 .load acc accs s1 :=
  ⟨⟨by decide, by decide, by decide⟩, by rfl, by decide, ⟨by decide, by decide⟩, by decide, _, _,
   reaches_of (by decide) (by decide) (by decide)⟩

theorem witness_Loads_helper :
    let s := wMemH 0x3_8000
    let w := wMemHW 0x3_8000
    let acc := (s.acting hI).map fun l => (l, pairAddr s hI ⟨66, 64, 4, 0⟩ l)
    s.Ready hI [64, 65] (regRange 66 1) ∧ s.warp 1 = some w ∧ s.teamOf 1 = some wTeam ∧ acc = [(0, 0x3_8000)] ∧
    helperPlaces acc = true ∧ s.acting hI = [0] ∧ s.MemoryFree hI (s.flagOf hI none) ∧
    ((s.locate w wTeam .load acc).1).length = 1 ∧ ∃ accs s1, s.Reaches hI w wTeam 4 .load acc accs s1 :=
  ⟨⟨by decide, by decide, by decide⟩, by rfl, by rfl, by decide, by decide, by decide, ⟨by decide, by decide⟩, by decide, _, _,
   reaches_of (by decide) (by decide) (by decide)⟩

theorem witness_Stores :
    let s := wMem 0x3_8000
    let acc := (s.acting wI).map fun l => (l, pairAddr s wI ⟨4, 2, 6, 0⟩ l)
    s.Ready wI ([2, 3] ++ regRange 4 4) [] ∧ acc ≠ [] ∧
    s.MemoryFree wI (s.flagOf wI none) ∧ s.gated wW wTeam false 16 acc = false ∧
    ∃ accs s1, s.Reaches wI wW wTeam 16 .store acc accs s1 ∧ ∃ s2, s1.relFences wI wW.core (s.acting wI) = (s2, true) :=
  ⟨⟨by decide, by decide, by decide⟩, by decide, ⟨by decide, by decide⟩, by decide, _, _,
   reaches_of (by decide) (by decide) (by decide), _, pair_true (by decide)⟩

theorem witness_Stores_helper :
    let s := wMemH 0x3_8000
    let w := wMemHW 0x3_8000
    let acc := (s.acting hI).map fun l => (l, pairAddr s hI ⟨66, 64, 4, 0⟩ l)
    s.Ready hI ([64, 65] ++ regRange 66 1) [] ∧ helperPlaces acc = true ∧ wTeam.vals.det = false ∧
    (w.helper 0).isSome = true ∧ (((s.locate w wTeam .store acc).1).map (·.lane)) = [0] ∧
    ((wHelper.store 0x3_8000 (.mem .normal 0x1_8000) (storeBytes s hI 66 4 0)).buf.length ≤ 32) ∧
    ∃ accs s1, s.Reaches hI w wTeam 4 .store acc accs s1 :=
  ⟨⟨by decide, by decide, by decide⟩, by decide, by decide, by decide, by decide, by decide, _, _,
   reaches_of (by decide) (by decide) (by decide)⟩

theorem witness_OwnStoresRead : ([1, 2, 3, 4, 5, 6, 7, 8] : List Byte).length ≤ 8 ∧
    7 < ([1, 2, 3, 4, 5, 6, 7, 8] : List Byte).length := by decide

/-- A load, an atomic and a store that have been performed, and a store whose bytes are still buffered. -/
def wDone (k : OpKind) : Op :=
  { blankOp 1 k with
    id := 7, lanes := [0], flag := some 11, vdests := [(0, 4)]
    parts := [{
      lane := 0, d := 4, size := 4, addr := 0, loc := .mem .normal 0, bytes := [some 1, some 2, some 3, some 4], bad := false }] }

def wOp (o : Op) : State := { wS with ops := [o] }

theorem thread_live (p : LanePart) (h : p ∈ (wDone .load).parts) : ∃ th, wW.threads[p.lane]? = some th ∧ th.live = true := by
  simp only [wDone, List.mem_singleton] at h
  subst h
  exact ⟨_, rfl, rfl⟩

theorem witness_LoadsReturn : (wOp (wDone .load)).op 7 = some (wDone .load) ∧ (wDone .load).performed = true ∧
    (∀ p ∈ (wDone .load).parts, p.bad = false) ∧
    ∀ p ∈ (wDone .load).parts, ∃ th, wW.threads[p.lane]? = some th ∧ th.live = true :=
  ⟨by rfl, by decide, by decide, thread_live⟩

theorem witness_AtomicsReturn : (wOp (wDone .atomic)).op 7 = some (wDone .atomic) ∧ (wDone .atomic).performed = true ∧
    (wDone .atomic).vdests ≠ [] ∧
    (wOp { blankOp 1 .atomic with id := 7 }).op 7 = some { blankOp 1 .atomic with id := 7 } := ⟨by rfl, by decide, by decide, by rfl⟩

theorem witness_FlagsCount : (wDone .load).flag = some 11 ∧ (wOp (wDone .load)).warp 1 = some wW ∧ 11 < wW.flags.length :=
  ⟨rfl, by rfl, by decide⟩

theorem witness_StoresPerform :
    (wOp (wDone .store)).op 7 = some (wDone .store) ∧ (wOp (wDone .store)).m.tbuf = [] ∧
    let s := ((wOp (wDone .store)).bufferWrite 1 0 0 7 0 (.spad 0 0) [1])
    s.op 7 = some (wDone .store) ∧ (s.m.tbuf.any fun w => w.op == 7) = true ∧ (wOp (wDone .store)).sk.reqs = [] :=
  ⟨by rfl, by decide, by rfl, by decide, by rfl⟩

theorem witness_AtomicResults : 0xFFFF_FFFF < 2 ^ 32 ∧ 0xFFFF_FFFF_FFFF_FFFF < 2 ^ 64 := by decide

theorem witness_ScratchpadAtomics : 2 ^ 21 - 8 + 8 ≤ 2 ^ 21 := by decide

/-- A release at device scope on scratchpad words. -/
theorem witness_Atomics :
    let s := wMem 0xFE00_0000_0000_0000
    let acc := (s.acting wI).map fun l => (l, (s.rdV wI l 3).toNat * 2 ^ 32 + (s.rdV wI l 2).toNat)
    s.ReadyT wI wW ([2, 3] ++ regRange 4 1) (regRange 4 1) ∧ atomBytes wI = 4 ∧ acc ≠ [] ∧
    s.MemoryFree wI (s.flagOf wI (some 0)) ∧
    (∀ l ∈ s.acting wI, s.unperformed wI.warp l = false) ∧
    (let r := s.locate wW wTeam .atomic acc
     s.Reaches wI wW wTeam 4 .atomic acc r.1 r.2.2.2 ∧ r.1.map (·.loc) = [.spad 0 0, .spad 0 16] ∧
     ∃ s2, Released r.2.2.2 wI wW.core 6 true (s.acting wI) s2) := by
  refine ⟨⟨⟨by decide, by decide, by decide⟩, by decide, by rfl⟩, by decide, by decide, ⟨by decide, by decide⟩, by decide,
    reaches_of (by decide) (by decide) (by decide), by decide, _, _, pair_true (by decide), pair_true (by decide)⟩

/-- ATOM.ldacq reads bytes 2,040 to 2,047 of a stack, where a store would trap (R227). -/
theorem witness_Atomics_ldacq :
    let acc := [(0, 0xFD00_0000_0000_0000 + 2040)]
    wS.accessTrap wW wTeam false 4 true true acc (writes := true) ≠ none ∧
    wS.accessTrap wW wTeam false 4 true true acc (writes := false) = none ∧
    (wS.locate wW wTeam .atomic acc).2.1 = [] ∧ (wS.locate wW wTeam .atomic acc).2.2.1 = false := by decide +kernel

/-! ### Fences, waits, caches, ordering, traps -/

theorem wS_once : wS.ReadyOnce wI wW wTeam := ⟨by decide, by rfl, by rfl, by rfl, by rfl, by rfl, by decide⟩

theorem witness_Fences : wS.iss = some wI ∧ wI.lanes.Nodup ∧
    ∃ u, (wS.acting wI).foldl (fun (p : State × Bool) l =>
      ((p.1.release wI.warp l wW.core 9).1, p.2 && (p.1.release wI.warp l wW.core 9).2)) (wS, true) = (u, true) :=
  ⟨by decide, by decide, _, pair_true (by decide)⟩

/-- Releases at thread, core and device scope. -/
theorem witness_ReleasesDrain : 1 ≤ 5 ∧ 5 ≤ 8 ∧ 8 < 9 ∧ tsorted wS.m.cDirty = true := by decide

theorem witness_OperationWaits :
    (∀ o ∈ wS.ops, o.warp = wI.warp → o.vdests = []) ∧
    (∃ o ∈ (wOp (wDone .load)).ops, o.warp = wI.warp ∧ o.vdests ≠ []) ∧
    (wOp (wDone .load)).ReadyOnce wI wW wTeam ∧
    wS.rdWarp wI = some wW ∧ (∀ f < 12, (0x800 : BitVec 12).getLsbD f = true → wW.flags.getD f 0 = 0) ∧
    let s := wWith fun w => { w with flags := [0, 3] }
    s.bundleActs wI = true ∧ s.rdWarp wI = some { wW with flags := [0, 3] } ∧
      ∃ f < 12, (2 : BitVec 12).getLsbD f = true ∧ [0, 3].getD f 0 ≠ 0 :=
  ⟨by decide, ⟨_, List.mem_singleton.2 rfl, by decide⟩, ⟨by decide, by rfl, by rfl, by rfl, by rfl, by rfl, by decide⟩, by rfl, by decide,
   by decide, by rfl, 1, by decide⟩

/-- The pair v2:v3 holds an address and s3 a length of two lines. -/
def wRange : State := { wMem 0x3_8000 with warps := [(1, { wW with sregs := [(2, 1), (3, 256)] })] }

theorem witness_CacheOperations :
    wRange.ReadyOnce wI { wW with sregs := [(2, 1), (3, 256)] } wTeam ∧ wRange.Ready wI [2, 3] [] ∧
    wRange.flagRoom wI.warp none (wRange.flagOf wI (some 1)) = true ∧
    (wRange.rdV wI wI.lowest 3 ++ wRange.rdV wI wI.lowest 2).toNat + (wRange.rdS wI 3).toNat ≤ 0x0200_0000_0000_0000 :=
  ⟨⟨by decide, by rfl, by rfl, by rfl, by rfl, by rfl, by decide⟩, ⟨by decide, by decide, by decide⟩, by decide, by decide⟩

theorem witness_Pins : tget wRange.scheds 0 = some blankSched ∧
    blankSched.pins.length + (wRange.rdS wI 2).toNat ≤ 64 ∧ (wRange.rdS wI 2).toNat ≤ 1 := ⟨by rfl, by decide, by decide⟩

theorem witness_CacheCompletions (k : OpKind) : (wOp { blankOp 1 k with id := 7 }).op 7 = some { blankOp 1 k with id := 7 } ∧
    (wOp { blankOp 1 k with id := 7 }).warp 1 = some wW := ⟨by rfl, by rfl⟩

/-- No fill awaits another device; and one of the flushed record does. -/
theorem witness_CacheCompletions_fill : (wOp { blankOp 1 (.tlrflush 0x5_0000) with id := 7 }).sk.reqs = [] ∧
    let r : SkReq := { tag := 5, dst := 3, ctx := 0, va := 0x5_0000, pa := 0x1_9000, who := .desc (2 ^ 100 + 0x5_0000), stamp := 0 }
    ∃ k ∈ tlrKeys 0 0 0x5_0000, r.who = .desc k := ⟨by rfl, _, List.mem_cons_self, rfl⟩

/-- A buffered write of thread 0 to each kind of place, the only one of its thread. -/
theorem witness_OrderingSteps_post : ∀ loc ∈ [Loc.spad 0 8, .onchip 0 0x20_0000, .mem .normal 0x1_8000, .mem .kvp 0x1_8000, .mem .uc 0x1_8000, .mem .sw 0x1_8000, .host 0 64],
    let s := wS.bufferWrite 1 0 0 7 0x1_8000 loc [1, 2]
    ∃ x ∈ s.m.tbuf, x.loc = loc ∧ (s.m.tbuf.find? fun y => y.id == x.id) = some x ∧ s.oldestWr x = true := by
  decide

/-- Two writes of one place by one thread: the newer waits for the older. -/
theorem witness_OrderingSteps_wait :
    let s := (wS.bufferWrite 1 0 0 7 0 (.spad 0 8) [1, 2]).bufferWrite 1 0 0 8 0 (.spad 0 8) [3]
    ∃ x ∈ s.m.tbuf, (s.m.tbuf.find? fun y => y.id == x.id) = some x ∧ s.oldestWr x = false := by
  decide

theorem witness_OrderingSteps_move :
    (wS.coreWrite 0 0x1_8000 [5]).dirtyGroup 0 0x1_8000 ≠ [] ∧
    (wS.coreWrite 0 0x1_8000 [5]).homeBad (((wS.coreWrite 0 0x1_8000 [5]).dirtyGroup 0 0x1_8000).map (·.1)) = false ∧
    (settleNext (wS.homeWrite [(0x1_8000, 5)]).m.unsettled 0x1_8000).isSome = true ∧
    let x : HWr := { stamp := 2, bytes := [(0x1_8000, 5)] }
    let y : HWr := { stamp := 1, bytes := [(0x1_8001, 5)] }
    x.writes 0x1_8000 = true ∧ y.writes 0x1_8000 = false ∧ y.overlaps x = false := by
  decide

theorem witness_FinalWrites : (wS.homeWrite [(0x1_8000, 5)]).memOk = true ∧ (wS.homeWrite [(0x1_8000, 5)]).unsettledOk = true := by
  decide

theorem witness_TrapsAreTaken : wW.trap ≠ .handling ∧ wTeam.vals.fpol = 0 ∧ wS.clauseLook 1 wTeam wTeam.vals.hpc ≠ some false := by
  decide

theorem witness_TrapsWithoutHandler : (wS.clauseLook 1 wTeam 32 = some false) ∧ ∀ p ∈ [0, 1, 2],
    let t := { wTeam with vals := { wVals with fpol := p } }
    let s := { wS with teams := [(1, t)] }
    s.warp 1 = some wW ∧ s.teamOf 1 = some t ∧
    (wWith fun w => { w with trap := .handling }).warp 1 = some { wW with trap := .handling } := by
  refine ⟨by decide, fun p _ => ⟨by rfl, by rfl, by rfl⟩⟩

theorem witness_HandlersStart :
    let w := { wW with trap := .entering [0, 1] }
    let s := { wS with warps := [(1, w)] }
    s.warp 1 = some w ∧ [0, 1].Nodup ∧ (s.postWarp 1).ops = [] ∧
    minNat? ([0, 1].filter fun l => ((w.threads[l]?).map Thread.live).getD false) = some 0 ∧ (s.postWarp 1).warp 1 = some w :=
  ⟨by rfl, by decide, by decide, by decide, by rfl⟩

/-- A warp in a handler that threads 0 and 1 run, and one whose thread 2 runs it as well. -/
def wHandler (n : Nat) : Warp :=
  { wW with trap := .handling, threads := List.replicate n { freshThread 4 0 with handling := true } }

theorem witness_TrapReturns :
    ({ wS with warps := [(1, wHandler 2)] } : State).ReadyC wI (wHandler 2) wTeam ∧ (wHandler 2).uedests = [] ∧
    ({ wS with warps := [(1, wHandler 2)] } : State).rdWarp wI = some (wHandler 2) ∧
    (∀ l th, (wHandler 2).threads[l]? = some th → (l ∈ wI.lanes ↔ th.handling = true ∧ th.live = true)) ∧
    ∃ l th, (wHandler 3).threads[l]? = some th ∧ th.handling = true ∧ th.live = true ∧ l ∉ wI.lanes ∧
      th.st ≠ .blocked .trapret := by
  refine ⟨⟨by rfl, by rfl, by rfl, by rfl, by rfl⟩, by decide, by rfl, ?_, 2, _, rfl, by decide, by decide, by decide, by decide⟩
  intro l th h
  match l with
  | 0 => cases h; decide
  | 1 => cases h; decide
  | n + 2 => simp [wHandler] at h

theorem witness_Reforms : wW.threads[0]? = some (freshThread 4 0) ∧ wW.threads[31]? = some (freshThread 4 0) ∧
    (freshThread 4 0).st = .runnable ∧ wS.returning 1 0 = false ∧ wS.returning 1 31 = false :=
  ⟨by rfl, by rfl, by rfl, by decide, by decide⟩

/-- Two warps of 32 threads. In the first, threads 0 and 1 are parked at packet 0, all others of its threads elsewhere awaiting
nobody; thread 2 is parked at packet 1, which `a` of the others await. The second has borrowed thread 0's lane where `l`. -/
def wParkW (a : Bool) : Warp := { wW with threads := (List.range 32).map fun k =>
  if k < 2 then { freshThread 0 0 with st := .parked }
  else if k = 2 then { freshThread 12 2 with st := .parked }
  else { freshThread 24 k with meet := if a then 0x8000_0001 else 0 } }

def wLentRec : Recruit := { wRec with helpers := [{ wHelper with origin := .parked 1 0, slot := 0 }] }

def wParkS (a l : Bool) : State :=
  { wS with warps := [(1, wParkW a), (2, { wW with k := 1, slot := 32, recruit := if l then some wLentRec else none })] }

theorem witness_Releases :
    (wParkS true true).warp 1 = some (wParkW true) ∧ (wParkW true).releasable 2 = false ∧
    (wParkW false).releasable 2 = true ∧ (∀ x ∈ (wParkW false).threads, x.depth < 256) ∧
    (∀ k < 32, (wParkS false false).lentFrom 1 k = none) ∧
    ((wParkW true).releasable 0 = true ∧ (wParkW true).releasable 1 = true ∧ (wParkS true true).lentFrom 1 0 = some (2, 0) ∧
      (wParkS true true).lentFrom 1 2 = none ∧
      ((wParkW true).threads[0]?).map (fun x => (x.pc, x.depth)) = ((wParkW true).threads[1]?).map fun x => (x.pc, x.depth)) ∧
    (((wParkS true true).warp 2).bind fun v => v.helper 0).isSome = true :=
  ⟨by rfl, by decide +kernel, by decide +kernel, by decide +kernel, by decide +kernel, by decide +kernel, by decide +kernel⟩

/-- An error that threads 0 and 1 await; thread 0 is blocked in the second state, ended in the third. -/
def wDefer : Deferred :=
  { cause := 7, lanes := [0, 1], addrs := [(0, 0x3_8000), (1, 0x3_8010)], info := 0, uerec := none, dests := [], again := false }
def wDeferW (n : Nat) (x : TrapSt) : Warp := { wW with
  trap := x, deferred := [wDefer], threads := wW.threads.map fun t => { t with
    st := match n with | 0 => .runnable | 1 => .blocked .trapret | _ => .exited } }
def wDeferS (n : Nat) (x : TrapSt) : State := { wS with warps := [(1, wDeferW n x)] }

theorem witness_Deliveries :
    (∀ n < 3, ∀ x ∈ [TrapSt.idle, .handling, .entering [0, 1]], (wDeferS n x).warp 1 = some (wDeferW n x)) ∧
    wDefer.lanes.filter (fun l => (((wDeferW 2 .idle).threads[l]?).map Thread.live).getD false) = [] ∧
    (∀ n < 2, ∀ x ∈ [TrapSt.idle, .handling, .entering [0, 1]],
      sortNat (wDefer.lanes.filter fun l => (((wDeferW n x).threads[l]?).map Thread.live).getD false) = 0 :: [1] ∧
      ((wDeferW n x).threads[0]?).map Thread.runs = some (n == 0) ∧ (wDeferS n x).returning 1 0 = false) ∧
    ((wDeferS 1 .idle).deliverOne 1 wDefer).1 = false ∧ ((wDeferS 0 .idle).deliverOne 1 wDefer).1 = true := by
  refine ⟨?_, by decide +kernel, by decide +kernel, by decide +kernel, by decide +kernel⟩
  intro n _ x _
  rfl

/-! ### Resources and the matrix slices -/

/-- A deterministic team in which warp 1 runs; all threads of its second warp have ended where `e`. -/
def wRunT : Team := { wTeam with
  vals := { wVals with det := true }, warps := [some 1, some 2]
  det := some { running := 1, round := 0, fresh := false, switching := false, ended := false, undo := [], undoRound := 0 } }
def wRunS (e : Bool) : State :=
  { wS with teams := [(1, wRunT)], warps := [(1, wW), (2, { wW with k := 1, slot := 32, threads := wW.threads.map fun t =>
      { t with st := if e then .exited else .runnable } })] }

theorem witness_ResourcesHeld : wS.resHeld wTeam = false ∧ wTeam.det = none ∧ (wRunS false).resHeld wRunT = false ∧
    (wRunS true).resHeld wRunT = true ∧ (wRunS true).ReadyOnce wI wW wRunT ∧ (3 : BitVec 4).toNat < 2 ^ wRunT.vals.xblk ∧
    (∀ t, wS.team 1 = some t → t.det = none) :=
  ⟨by decide, rfl, by decide, by decide, ⟨by decide, by rfl, by rfl, by rfl, by rfl, by rfl, by decide⟩, by decide, by
    intro t h
    have g : wS.team 1 = some wTeam := by rfl
    rw [g] at h
    cases h
    rfl⟩

/-- A request for block 1 that waits. -/
def wReq : ResReq := { id := 50, warp := 1, lanes := [0], ext := true, items := [1] }
def wWait : State := { wS with resReqs := [wReq] }

theorem witness_ResourcesTaken :
    (2 : BitVec 4).toNat < 2 ^ wTeam.vals.xblk ∧ wS.poolQueue wW true = [] ∧ wS.resFits wI.warp true (maskBlocks 2) = true ∧
    (4 : BitVec 8).toNat + (3 : BitVec 7).toNat < min 256 wTeam.vals.tiles ∧ wS.poolQueue wW false = [] ∧
    wTeam.core = wW.core ∧ wS.resFits wI.warp false (tilesOf 4 3) = true := by decide +kernel

theorem witness_ResourcesWait : wWait.ReadyOnce wI wW wTeam ∧ 2 ^ wTeam.vals.xblk ≤ (4 : BitVec 4).toNat ∧
    (3 : BitVec 4).toNat < 2 ^ wTeam.vals.xblk ∧ wWait.poolQueue wW true ≠ [] ∧ wI.lanes.Nodup :=
  ⟨⟨by decide, by rfl, by rfl, by rfl, by rfl, by rfl, by decide⟩, by decide⟩

theorem witness_ResourcesReleased :
    tsorted wW.ext = true ∧ (1 : BitVec 4).toNat < 2 ^ wTeam.vals.xblk ∧
    (∀ b < 4, (1 : BitVec 4).getLsbD b = true → wS.regsBusy wI (blockRegs b) = false) ∧ tsorted wTeam.tiles = true ∧
    (0 : BitVec 8).toNat + (7 : BitVec 7).toNat < min 256 wTeam.vals.tiles ∧ wS.mops = [] := by decide

theorem witness_ResourcesGranted : (wWait.resReqs.find? fun x => x.id == wReq.id) = some wReq ∧
    wWait.warp wReq.warp = some wW ∧ wWait.poolQueue wW wReq.ext = [wReq] ∧
    wWait.resFits wReq.warp wReq.ext wReq.items = true := ⟨by rfl, by rfl, by rfl, by decide⟩

/-- Threads 0 to 7, one quarter of a lane row, issue a matrix word. Every thread's v20 holds a format word with scales, and
the next active plane of quarter-array 0 is of that format; v0 and v1 hold zero. -/
def mI : Issue := blankIssue 1 .thread [0, 1, 2, 3, 4, 5, 6, 7] 4
def mWord : Word := 0x0100_0100
def mFw : FmtWord := (fmtWord mWord).getD ⟨.s8, .s8, 0, 0, false⟩

def mS : State :=
  let s := mI.lanes.foldl (fun s l => ((s.setV 1 l 20 mWord).setV 1 l 0 0).setV 1 l 1 0) wS
  { s with iss := some mI, qarrays := [(0, { blankQArray with nextAct := some { word := mWord, off := 0, mlds := 0 } })] }

theorem mS_ready {regs : List Nat} (h : ∀ r ∈ regs, r < 128) (g : mS.regError mI regs [] = none) :
    mS.ReadyMatrix mI wW wTeam regs [(0, 0)] :=
  ⟨by rfl, by rfl, by rfl, by rfl, by rfl, by rfl, h, g, by decide, by decide⟩

theorem mS_vote : VoteOk mS mI wW 20 [(0, 0)] mWord mFw := ⟨by decide, by decide, by decide, by decide⟩

theorem mS_once : mS.ReadyOnce mI wW wTeam := ⟨by rfl, by rfl, by rfl, by rfl, by rfl, by rfl, by decide⟩

/-- MMQ and MMG with scales; MSWAP; MRD and MWR; MCLR; MLDS. -/
theorem witness_MatrixWords :
    (mS.ReadyMatrix mI wW wTeam (regRange 0 16 ++ [20]) [(0, 0)] ∧ VoteOk mS mI wW 20 [(0, 0)] mWord mFw ∧ mFw.scale = 1 ∧
      0 + 16 < 128 ∧ (wW.vkey 0 (0 + 16)).isSome = true ∧ tileMap wTeam 1 [(0, 0)] = .ok [((0, 0), 1)] ∧
      mS.flagRoom mI.warp none (mS.flagOf mI none) = true ∧
      ∀ l ∈ lanesOf [(0, 0)], mS.vHeld mI.warp none l (0 + 16) = false) ∧
    (mS.ReadyMatrix mI wW wTeam (regRange 0 3 ++ [20]) [(0, 0)] ∧
      (∀ l ∈ lanesOf [(0, 0)], (mS.rdV mI l 0).toNat % 64 = 0 ∧ (mS.rdV mI l 0).toNat + 64 ≤ wTeam.vals.spbytes ∧
        1 + (mS.rdV mI l 1).toNat / 8 ≤ 255 ∧ (tget wTeam.tiles (1 + (mS.rdV mI l 1).toNat / 8)).isSome = true) ∧
      (mS.spadPost mI.warp).flagRoom mI.warp none ((mS.spadPost mI.warp).flagOf mI none) = true) ∧
    mS.ReadyMatrix mI wW wTeam [] [(0, 0)] ∧
    (mS.ReadyMatrix mI wW wTeam (regRange 64 16) [(0, 0)] ∧ mS.recruitHeld mI (lanesOf [(0, 0)]) (regRange 64 16) = false) ∧
    (mS.ReadyOnce mI wW wTeam ∧ ∀ k, 0 ≤ k → k ≤ 0 + 1 → (tget wTeam.tiles k).isSome = true) :=
  ⟨⟨mS_ready (by decide) (by decide), mS_vote, by decide, by decide, by decide, by rfl, by decide, by decide⟩,
   ⟨mS_ready (by decide) (by decide), by decide, by decide⟩, mS_ready (by decide) (by decide),
   ⟨mS_ready (by decide) (by decide), by decide⟩, mS_once, by
    intro k _ hk
    match k with
    | 0 => decide
    | 1 => decide
    | n + 2 => omega⟩

/-- A load into the scale register v16 is in flight. -/
theorem witness_MatrixWords_wait :
    let o : Op := { blankOp 1 .load with id := 8, lanes := [0], vdests := [(0, 16)] }
    ({ mS with ops := [o] } : State).vHeld mI.warp none 0 16 = true ∧ 0 ∈ lanesOf [(0, 0)] := by decide

/-- No thread of the group takes part: no quarter does. -/
theorem witness_MatrixWordsWithoutQuarters :
    let i := { mI with pfx := some (parsePfx 0x7C00_0000) }
    let s := { mS with iss := some i }
    s.iss = some i ∧ i.kind = .thread ∧ quartersOf (s.acting i) = ([], []) ∧ s.warp i.warp = some wW ∧
    s.teamOf i.warp = some wTeam ∧ (∀ r ∈ regRange 0 16 ++ [20], r < 128) ∧ s.regError i (regRange 0 16 ++ [20]) [] = none :=
  ⟨by rfl, by rfl, by decide, by rfl, by rfl, by decide, by decide⟩

/-- A plane of the format without scales fits the team's scratchpad exactly. -/
theorem witness_MatrixWords_mlds :
    let s := mI.lanes.foldl (fun s l => s.setV 1 l 20 0x0100_0000) mS
    s.ReadyMatrix mI wW wTeam [0, 20] [(0, 0)] ∧ fmtWordReason (s.rdV mI 0 20) = none ∧ (s.rdV mI 0 0).toNat % 128 = 0 ∧
    (s.rdV mI 0 0).toNat + ((fmtWord (s.rdV mI 0 20)).map planeSize).getD 0 = wTeam.vals.spbytes ∧
    (s.spadPost mI.warp).flagRoom mI.warp none ((s.spadPost mI.warp).flagOf mI none) = true :=
  ⟨⟨by rfl, by rfl, by rfl, by rfl, by rfl, by rfl, by decide, by decide, by decide, by decide⟩, by decide +kernel⟩

def mRow : MRow := { lane := 0, bytes := List.replicate 64 1, scale := 0, off := 0, tile := 511, row := 7, q := 3, undef := false }
def mOp (k : MKind) : Mop :=
  { blankMop k with id := 7, g := 3, d := 4, quarters := [{ r := 0, q := 3, tile := 511, rows := [mRow] }], tiles := [511] }

theorem witness_MatrixResults :
    (mRow.undef = false ∧ mRow.row < 8 ∧ mRow.tile < 512) ∧ (511 ∈ (mOp .mclr).tiles ∧ 7 < 8 ∧ 63 < 64) ∧
    (let pid : PlaneId := { word := mWord, off := 0, mlds := 0 }
     ({ mOp .mlds with loads := [(3, pid, 0, 128)] } : Mop).loads = [(3, pid, 0, 128)]) ∧
    (mRow.bytes.length = 64 ∧ (mOp .mwr).g < 4) ∧
    let s := wOp { blankOp 1 .matrix with id := 7, lanes := [0] }
    s.op 7 = some { blankOp 1 .matrix with id := 7, lanes := [0] } ∧ wW.threads[0]? = some (freshThread 4 0) ∧
    (freshThread 4 0).live = true ∧ (wW.vkey 0 (4 + 15)).isSome = true ∧
    ∀ j < 16, wW.vkey 0 (4 + j) = wW.vkey 0 (4 + 15) → j = 15 :=
  ⟨by decide, by decide, rfl, by decide, by rfl, by rfl, by decide, by decide, by decide⟩

/-- The only operation, with a quarter left; the same with none; and one behind an earlier operation on its quarter-array. -/
theorem witness_MatrixCompletion :
    let m := mOp .mwr
    let q : QOp := { r := 0, q := 3, tile := 511, rows := [mRow] }
    ([m] = [] ++ m :: [] ∧ (m.quarters.find? fun q => m.free [] q) = some q) ∧
    (({ m with quarters := [], done := [q] } : Mop).quarters = []) ∧
    (let b := { m with id := 6 }
     ([b, m] = [b] ++ m :: [] ∧ (∀ x ∈ [b], x.id ≠ m.id) ∧ (∀ q ∈ m.quarters, m.free [b] q = false) ∧ m.quarters ≠ [])) := by
  decide

/-! ### Copies and helpers -/

/-- A record of one dimension of four f32 elements, which is also a block of one row of 16 bytes. -/
def wRecV : Nat :=
  0x10010000000010000000000000000000000000000000000000000000000000000000000000004000000000000000000000000000000000000000000000000000000000000000000000000000000000000000000000000000000000000000400000000000002010000000000000000

/-- The record's address stands in v2:v3, v4 to v9 and the scalars are zero, and the record is in the core's cache. -/
def wCopyS : State :=
  let s := (List.range 6).foldl (fun s n => (s.setV 1 0 (4 + n) 0).setV 1 1 (4 + n) 0) (wMem 0x3_8000)
  { s with tlrs := [{ core := 0, ctx := 0, addr := 0x3_8000, bytes := leBytes 192 wRecV }] }

theorem wCopy_ready (f : FmtT) (n : Nat) (h : f.handle = 2) (hc : f.ckind = 0) (hi : f.cid = 11)
    (g : wCopyS.regError wI ([2, 3] ++ regRange f.coord.toNat n) [] = none) : CopyReady wCopyS wI wW wTeam f n 0 := by
  refine ⟨⟨⟨by rfl, ?_, by rfl⟩, by rfl, by rfl⟩, by rfl, by rfl, by rfl, by decide, ?_⟩
  · rw [h]; exact g
  · rw [hc, hi]; decide

theorem wRecord : RecordAt wCopyS wW wTeam (pairV wCopyS wI 0 2) false (tlrOf (leNat (leBytes 192 wRecV))) ∧
    RecordAt wCopyS wW wTeam (pairV wCopyS wI 0 2) true (tlrOf (leNat (leBytes 192 wRecV))) :=
  ⟨⟨by decide, by decide, _, by rfl, by decide +kernel, by rfl⟩, ⟨by decide, by decide, _, by rfl, by decide +kernel, by rfl⟩⟩

theorem witness_CopyWords :
    (CopyReady wCopyS wI wW wTeam ⟨4, 2, 0, 11⟩ 6 0 ∧ (wCopyS.rdV wI 0 9).toNat % 4 = 0 ∧
      (wCopyS.rdV wI 0 9).toNat + (tlrOf (leNat (leBytes 192 wRecV))).span false ≤ wTeam.vals.spbytes) ∧
    (CopyReady wCopyS wI wW wTeam ⟨4, 2, 0, 11⟩ 3 0 ∧ CopyReady wCopyS wI wW wTeam ⟨4, 2, 0, 11⟩ 2 0 ∧
      (∀ x ∈ (wCopyS.acting wI).filter fun x => x / 32 == 0,
        (wCopyS.rdV wI x 4).toNat < (tlrOf (leNat (leBytes 192 wRecV))).blkcount) ∧
      (wCopyS.rdV wI 0 5).toNat + (tlrOf (leNat (leBytes 192 wRecV))).span true ≤ wTeam.vals.spbytes ∧
      (wCopyS.rdV wI 0 6).toNat + 4 ≤ wTeam.vals.spbytes) ∧
    ∀ c : Copy, wCopyS.copyGated wW wTeam c = false :=
  ⟨⟨wCopy_ready _ _ rfl rfl rfl (by decide), by decide, by decide +kernel⟩,
   ⟨wCopy_ready _ _ rfl rfl rfl (by decide), wCopy_ready _ _ rfl rfl rfl (by decide), by decide +kernel, by decide +kernel,
    by decide⟩, fun c => rfl⟩

/-- A transfer of 128 bytes within the scratchpad, up to its end. -/
def wXferS : State :=
  let s := wMem 0xFE00_0000_0000_0000
  ((s.setV 1 0 4 3968).setV 1 0 5 0xFE00_0000).setV 1 0 6 128

theorem witness_CopyWords_txfer : CopyReady wXferS wI wW wTeam ⟨4, 2, 0, 11⟩ 3 0 ∧
    steer (pairV wXferS wI 0 2) = .spad 0 ∧ steer (pairV wXferS wI 0 4) = .spad 3968 ∧
    pairV wXferS wI 0 2 % 4 = 0 ∧ pairV wXferS wI 0 4 = 0xFE00_0000_0000_0000 + 3968 ∧
    (wXferS.rdV wI 0 6).toNat = 128 ∧ 3968 + 128 ≤ wTeam.vals.spbytes :=
  ⟨⟨⟨⟨by decide, by decide, by decide⟩, by decide, by rfl⟩, by rfl, by rfl, by rfl, by decide, by decide⟩, by decide +kernel⟩

def wCopyC (kind : Nat) (units : List Nat) : Copy :=
  { copyBase wI wW wTeam ⟨4, 2, 0, 11⟩ 4 0 with
    id := 7, units := units, target := { kind := kind, id := 11, entry := 12 }, src := 0xFE00_0000_0000_0000
    dst := 0xFE00_0000_0000_0000 + 3968, count := 128 }

theorem witness_CopyCommands : wS.m.tbuf = [] ∧ (wCopyC 0 []).minor ≠ 2 ∧ (∀ k ∈ [0, 1, 2],
    ({ wS with copies := [wCopyC k []] } : State).copy 7 = some (wCopyC k []) ∧ (wCopyC k []).pinned = [] ∧
      (wCopyC k []).fails = [] ∧ (wCopyC k []).target.kind = k) ∧ wS.sk.reqs = [] ∧ wS.warp (wCopyC 0 []).warp = some wW ∧
    tget wS.cores 0 = some blankCore ∧ blankCore.fwds = [] ∧ blankCore.evq.length < 256 :=
  ⟨by decide, by decide, by decide +kernel, by decide, by rfl, by rfl, by rfl, by decide⟩

theorem witness_CopyCommands_unit :
    let c := wCopyC 0 [0]
    let s : State := { wS with copies := [c], cores := [] }
    c.sp + 0 + c.count ≤ 2 ^ 21 ∧ c.sp + 3968 + c.count ≤ 2 ^ 21 ∧ 0 + c.count ≤ 3968 ∧
    s.waits (.engine c.id 0) = false ∧ s.ops = [] ∧ s.fwdCount = 0 ∧ s.copy c.id = some c :=
  ⟨by decide, by decide, by decide, by decide, by decide, by decide, by rfl⟩

/-- A copy whose page entry lies at 0x3_9000, and a pool whose fields are in range with no page to free. -/
def wPinC : Copy := { wCopyC 0 [0] with minor := 2, tlr := { zeroTlr with pdt := 0x3_9000 }, idxs := [some 0] }

/-- `wS` with the page at 0x3_0000 in its TLB. -/
def wHit : State := (wS.engineXlate (.core 0) 0 0x3_8000 0 .load).2

def wPort : Port := { up := true, txSeq := 0, replay := [], wait := [], fails := 0, rxSeq := 0xFFF, rx := [], out := [] }

/-- The page at 0x3_0000 lies in device 3; and an answer from there. -/
def wFarRec (answer : List (List Byte)) : State := { wS with
  tr := { wS.tr with tlb := [{ unit := .core 0, ctx := 0, base := 0x3_0000, lg := 16, leaf := 0x2_0030_A303 }] }
  sk := { wS.sk with ports := [wPort, Port.reset], routes := [(3, 1)] }
  descs := answer.map fun b => (2 ^ 100 + 0x3_8000, b) }

theorem at_peer {p : EngXlate × State} (h : (match p.1 with | .at (.peer 3 _) => true | _ => false) = true) :
    ∃ pa s, p = (.at (.peer 3 pa), s) := by
  obtain ⟨x, s⟩ := p
  split at h
  · rename_i pa hx
    exact ⟨pa, s, Prod.ext hx rfl⟩
  · cases h

theorem witness_CopyHelpers_fill :
    ((wHit.tlrs.any fun e => e.core == 0 && e.ctx == 0 && e.addr == 0x3_8000) = false) ∧ 0x3_8000 % 65536 + 192 ≤ 65536 ∧
    wHit.engineXlate (.core 0) 0 0x3_8000 0 .load = (.at (.mem .normal 0x1_8000), wHit) ∧
    (wCopyS.tlrs.any fun e => e.core == 0 && e.ctx == 0 && e.addr == 0x3_8000) = true ∧
    (tlrKeys 0 0 0x3_8000)[0]? = some (2 ^ 100 + 0x3_8000) ∧ wHit.descs = [] ∧ wHit.homeBadAt 0x1_8000 192 = false ∧
    ({ wHit with m := { wHit.m with ue := [(0x1_8000 / 32, { syndrome := true, written := 0 })] } } : State).homeBadAt 0x1_8000 192 =
      true ∧
    ∀ b : Byte, ∀ bs ∈ [[], [b]], (wFarRec [bs]).descs.find? (fun e => e.1 == 2 ^ 100 + 0x3_8000) = some (2 ^ 100 + 0x3_8000, bs) := by
  refine ⟨by decide, by decide, by decide, by decide, by decide, by decide, by decide +kernel, by decide +kernel, ?_⟩
  intro b bs h
  rfl

theorem witness_CopyHelpers_far : (wFarRec []).tlrs = [] ∧ (wFarRec []).descs = [] ∧
    ∃ pa s1, (wFarRec []).engineXlate (.core 0) 0 0x3_8000 0 .load = (.at (.peer 3 pa), s1) ∧ s1.descs = [] ∧ s1.sk.reqs = [] := by
  obtain ⟨pa, s1, h⟩ := at_peer (p := (wFarRec []).engineXlate (.core 0) 0 0x3_8000 0 .load) (by decide +kernel)
  have e : s1 = ((wFarRec []).engineXlate (.core 0) 0 0x3_8000 0 .load).2 := by rw [h]
  refine ⟨by rfl, by rfl, pa, s1, h, ?_, ?_⟩
  · rw [e]; decide +kernel
  · rw [e]; decide +kernel

theorem witness_CopyHelpers_pin :
    let s : State := { wS with copies := [wPinC] }
    s.copy 7 = some wPinC ∧ (s.pinEntry wPinC 0).1 = .at (.mem .normal 0x1_9000) ∧ wPinC.units.contains 0 = true ∧
    s.waits (.engine 7 (2 ^ 20 + 0)) = false ∧ (s.pinEntry wPinC 0).2.physNat (0x1_9000 + 6) 2 < 65535 ∧
    (let c := { wPinC with pinned := [0] }
     let s : State := { wS with copies := [c] }
     s.copy 7 = some c ∧ c.pinned.contains 0 = true ∧ s.waits (.engine 7 (2 ^ 21 + 0)) = false ∧ s.kvPools = [] ∧
     (s.pinEntry c 0).1 = .at (.mem .normal 0x1_9000) ∧ (s.pinEntry c 0).2.kvPools = []) :=
  ⟨by rfl, by rfl, by decide, by decide, by decide +kernel, by rfl, by decide, by decide, by decide, by rfl, by decide⟩

def wPool : State :=
  wS.physWrite 0x1_8000 128 (0x3_9000 * 2 ^ 64 + 2 ^ 128 + 1024 * 2 ^ 160 + 2 * 2 ^ 352)

theorem ok_of {ε α : Type} {r : Except ε (Unit × α)}
    (h : (match r with | .ok _ => true | .error _ => false) = true) : ∃ u, r = .ok ((), u) := by
  cases r with
  | error e => cases h
  | ok p => exact ⟨p.2, rfl⟩

theorem witness_CopyHelpers_free : ((wPool.kvKnown 0 0x3_8000).map (·.raced)).getD false = false ∧
    wPool.waits (.engine (freeKey 0 0x3_8000) 0) = false ∧ ∃ u, (kvFreePage { ctx := 0, core := 0 } 0x3_8000 0).run wPool = .ok ((), u) :=
  ⟨by decide +kernel, by decide +kernel, ok_of (by decide +kernel)⟩

/-- A leader with a body, a count of eight and chunks of four in v4 to v7, for one helper. -/
def wRecruitS : State := (((wS.setV 1 0 4 0).setV 1 0 5 8).setV 1 0 6 4).setV 1 0 7 0

theorem witness_Recruits : wRecruitS.ReadyT wI wW (regRange 4 4) [] ∧ wRecruitS.teamOf 1 = some wTeam ∧
    wRecruitS.leader wI = some 0 ∧ wW.recruit = none ∧ wTeam.vals.det = false ∧ wRecruitS.m.tbuf = [] ∧
    wRecruitS.TargetsOk wI wW wTeam [(wRecruitS.rdV wI 0 4).toNat] ∧
    (wRecruitS.rdV wI 0 5).toNat = 8 ∧ (wRecruitS.rdV wI 0 6).toNat = 4 ∧
    0 < min (1 : BitVec 5).toNat (min (wTeam.vals.help - wRecruitS.lentTo wTeam)
      (min (wRecruitS.candidates 1 wW wTeam).length (wRecruitS.freeContexts wW.gs))) := by
  refine ⟨⟨⟨by decide, by decide, by decide⟩, by decide, by rfl⟩, by rfl, by decide, rfl, rfl, by decide, ?_, by decide, by decide,
    by decide +kernel⟩
  unfold State.TargetsOk
  decide

/-- The team's budget is zero: RECRUIT grants nothing. -/
theorem witness_Recruits_none : min (1 : BitVec 5).toNat (min (wordVals.help - wRecruitS.lentTo wordTeam) 5) = 0 := by decide

/-- Helper 0 is free, and waits; chunks stand unclaimed, done, and in other helpers' hands. -/
def wChunks (st : HState) (cs : List ChunkSt) : Recruit :=
  { wRec with
    helpers := [{ wHelper with st := st }], chunks := cs.map fun c => { st := c, slots := [0, 0, 0, 0] } }

def wCW (r : Recruit) : Warp := { wW with recruit := some r }
def wCS (r : Recruit) : State := { wRS r with iss := some hI }

/-- A recruitment whose chunks are done and whose helpers have ended, still open; and one asks for no iterations. -/
def wJoined : Recruit := { wChunks .free [.done] with helpers := [] }

theorem witness_Recruits_refused : (wRS wJoined).ReadyT wI (wCW wJoined) (regRange 4 4) [] ∧ (wRS wJoined).teamOf 1 = some wTeam ∧
    (wRS wJoined).leader wI = some 0 ∧ (wRS wJoined).recruiter wI = none ∧
    (wRS wJoined).TargetsOk wI (wCW wJoined) wTeam [((wRS wJoined).rdV wI 0 4).toNat] ∧
    (wS.rdV wI 0 5).toNat = 0 ∧ wS.recruiter wI = none ∧ wS.TargetsOk wI wW wTeam [(wS.rdV wI 0 4).toNat] := by
  refine ⟨⟨⟨by decide, by decide, by decide⟩, by decide, by rfl⟩, by rfl, by decide, by decide, ?_, by decide, by decide, ?_⟩ <;>
    (unfold State.TargetsOk; decide)

theorem wHelpers_ready (r : Recruit) : HelpersReady (wCS r) hI (wCW r) r := ⟨rfl, rfl, rfl, by rfl, rfl, rfl⟩

theorem witness_ChunksTaken :
    let r := wChunks .free [.done, .unclaimed]
    HelpersReady (wCS r) hI (wCW r) r ∧
    (∀ l ∈ (wCS r).acting hI, ∀ h, (wCW r).helper l = some h → ∀ c, h.st ≠ .chunk c) ∧
    (wCW (wChunks .wait [.claimed 3])).helper 0 = some { wHelper with st := .wait } ∧
    (r.chunks[1]?).map (·.st) = some .unclaimed ∧
    (∀ (k : Nat) y, k < 1 → r.chunks[k]? = some y → y.st ≠ .unclaimed) ∧
    (∀ x ∈ (wChunks .free [.done, .done]).chunks, x.st = .done) ∧
    (∀ x ∈ (wChunks .free [.claimed 3]).chunks, x.st ≠ .unclaimed) ∧
    ∃ x ∈ (wChunks .free [.claimed 3]).chunks, x.st ≠ .done := by
  refine ⟨wHelpers_ready _, ?_, by rfl, by rfl, ?_, by decide, by decide, by decide⟩
  · intro l hl h hh c
    have : l = 0 := by simpa [State.acting, hI, blankIssue] using hl
    subst this
    have : h = { wHelper with st := .free } := by
      have : (wCW (wChunks .free [.done, .unclaimed])).helper 0 = some { wHelper with st := .free } := by rfl
      exact (Option.some.inj (this.symm.trans hh)).symm
    subst this
    simp
  · intro k y hk h
    have : k = 0 := by omega
    subst this
    cases h
    decide

theorem witness_ChunksDone :
    wH.acting hI = [0] ∧ HelpersReady wH hI (wCW wRec) wRec ∧ (wCW wRec).helper 0 = some wHelper ∧ wHelper.st = .chunk 0 ∧
    (wRec.chunks[0]?).map (·.slots[3]?) = some (some 0) := ⟨by decide, wHelpers_ready wRec, by rfl, by rfl, by rfl⟩

/-- The recruiter's join: helpers at work, and none left with every chunk done. -/
theorem witness_Joins :
    (wRS wRec).regError wI [] (regRange 0 4) = none ∧ (wRS wRec).warp 1 = some (wCW wRec) ∧ wRec.lane ∈ (wRS wRec).acting wI ∧
    wRec.lane ∉ (wRS wRec).acting { wI with lanes := [0] } ∧ wRec.trap = none ∧
    (∀ r ∈ [wRec, { wChunks .free [.done] with helpers := [] }],
      let w := { wCW r with threads := List.replicate 2 { freshThread 4 0 with st := .blocked (.join (some 4) 4) } }
      ({ wS with warps := [(1, w)] } : State).warp 1 = some w ∧ r.trap = none ∧
      (w.threads[r.lane]?).map (·.st) = some (.blocked (.join (some 4) 4))) ∧
    wRec.joined = false ∧ ({ wChunks .free [.done] with helpers := [] } : Recruit).joined = true ∧
    (wCW wRec).vkey 1 (4 + 3) ≠ none ∧ wRec.types.getLsbD 0 = true := by
  refine ⟨by decide, by rfl, by decide, by decide, by decide, ?_, by decide, by decide, by decide, by decide⟩
  intro r hr
  simp only [List.mem_cons, List.not_mem_nil, or_false] at hr
  rcases hr with rfl | rfl <;> exact ⟨by rfl, by rfl, by rfl⟩

theorem witness_HelpersMove :
    (let r := { wChunks .free [.unclaimed] with helpers := [] }
     (wRS r).warp 1 = some (wCW r) ∧ (wRS r).teamOf 1 = some wTeam ∧ (∃ c ∈ r.chunks, c.st ≠ .done) ∧ r.trap = none ∧
     ((wRS r).candidates 1 (wCW r) wTeam).isEmpty = false ∧ 0 < (wRS r).freeContexts (wCW r).gs ∧
     (wRS r).lentTo wTeam < wTeam.vals.help) ∧
    (wCW { wRec with helpers := [{ wHelper with st := .reclaim, origin := .parked 1 5 }] }).helper 0 =
      some { wHelper with st := .reclaim, origin := .parked 1 5 } ∧
    (wCW { wRec with helpers := [{ wHelper with st := .reclaim }] }).helper 0 = some { wHelper with st := .reclaim } :=
  ⟨⟨by rfl, by rfl, by decide, by rfl, by decide +kernel, by decide +kernel, by decide +kernel⟩, by rfl, by rfl⟩


/-! ### The sweep -/

/-- The page at 0x5_0000 is SW memory at 0x2_0000. -/
def wSwLeaf : TlbEnt := { unit := .core 0, ctx := 0, base := 0x5_0000, lg := 16, leaf := 0x2_0000_2303 }

def wSwOf (s : State) : State := { s with tr := { s.tr with tlb := [wSwLeaf] } }

/-- Threads 0 and 1 name row 128, with function 1 and two operands in v4 to v6. -/
def wSw : State :=
  let put (s : State) (l : Nat) : State := ((s.setV 1 l 4 1).setV 1 l 5 7).setV 1 l 6 0
  wSwOf (put (put (wMem 0x5_0000) 0) 1)

def wSwXs : List LaneAcc := (wSw.locate wW wTeam .load ((wSw.acting wI).map fun l => (l, pairV wSw wI l 2))).1

def wSwS1 : State := (wSw.locate wW wTeam .load ((wSw.acting wI).map fun l => (l, pairV wSw wI l 2))).2.2.2

theorem wSw_rows : RowsAt wSw wI wW wTeam 2 wSwXs wSwS1 :=
  ⟨by decide, Prod.ext rfl (Prod.ext (show _ = [] by decide) (Prod.ext (show _ = false by decide) rfl)), by
    have h : wSwXs = [⟨0, 0x5_0000, 0x5_0000, .mem .sw 0x2_0000⟩, ⟨1, 0x5_0010, 0x5_0010, .mem .sw 0x2_0010⟩] := by decide
    rw [h]
    intro y hy
    simp only [List.mem_cons, List.not_mem_nil, or_false] at hy
    rcases hy with rfl | rfl <;> exact ⟨_, rfl⟩⟩

theorem witness_SweepRequests :
    (wSw.ReadyT wI wW [2, 3, 4, 5, 6] [] ∧ wSw.ReadyT wI wW [2, 3] [] ∧ wSw.ReadyT wI wW [2, 3] (regRange 4 3)) ∧
    wW.kind = .normal ∧ wI.view = none ∧ wSw.teamOf 1 = some wTeam ∧ wSw.acting wI ≠ [] ∧
    (∀ gate, wSw.engHeld wI (wSw.flagOf wI (some 0)) (wSw.acting wI) gate = false) ∧
    FencesMet wSw wI wW (wSw.acting wI) wSw wW wTeam ∧ RowsAt wSw wI wW wTeam 2 wSwXs wSwS1 ∧
    wSwS1.stagingRoom (wSwXs.map LaneAcc.row) = true ∧
    ∀ l ∈ wSw.acting wI, (wSwS1.rdV wI l 4).toNat % 256 ≤ 12 ∧ (wSwS1.rdV wI l 4).toNat < 512 ∧
      (256 ≤ (wSwS1.rdV wI l 4).toNat → (wSwS1.rdV wI l 4).toNat % 256 ≠ 5 ∧ (wSwS1.rdV wI l 4).toNat % 256 ≠ 11 ∧
        (wSwS1.rdV wI l 4).toNat % 256 ≠ 12) :=
  ⟨⟨⟨⟨by decide, by decide, by decide⟩, by decide, by rfl⟩, ⟨⟨by decide, by decide, by decide⟩, by decide, by rfl⟩,
    ⟨⟨by decide, by decide, by decide⟩, by decide, by rfl⟩⟩, by rfl, by rfl, by rfl, by decide, by decide, ⟨by rfl, by rfl, by rfl⟩, wSw_rows,
   by decide +kernel, by decide⟩

/-- The descriptor of a region of one row at 0x5_0000 with function 1, held for thread 0. -/
def wDescV : Nat := 0x5_0000 + 2 ^ 64 + 2 ^ 96

def wRegS : State := { wSw with descs := [((1 * 128 + 0) * 2 ^ 64 + 0x5_0000, leBytes 64 wDescV)] }

theorem wLeader {s : State} {srcs dsts : List Nat} {flag : Option Nat} {gate : Bool} (h : s.ReadyT wI wW srcs dsts)
    (ht : s.teamOf 1 = some wTeam) (hl : s.leader wI = some 0) (hh : s.engHeld wI flag [0] gate = false) :
    LeaderReady s wI wW wTeam srcs dsts 0 flag gate := ⟨h, rfl, rfl, ht, hl, hh⟩

/-- With no release fence outstanding the fences are met, and nothing changes. -/
theorem fencesMet_of_none {s : State} {i : Issue} {w : Warp} {ls : List Nat} {t : Team} (hw : s.warp i.warp = some w)
    (ht : s.teamOf i.warp = some t) (h : ∀ l ∈ ls, (s.thread i.warp l).bind (·.relHold) = none) :
    FencesMet s i w ls s w t := by
  refine ⟨?_, hw, ht⟩
  unfold State.relFences State.fencesOf
  split
  · rfl
  · induction ls with
    | nil => rfl
    | cons l ls ih =>
      have hl := h l (by simp)
      have hr : ∀ x ∈ ls, (s.thread i.warp x).bind (·.relHold) = none := fun x hx => h x (by simp [hx])
      rw [List.foldl_cons]
      cases ht : s.thread i.warp l with
      | none => exact ih hr
      | some th =>
        simp only [ht, Option.bind_some] at hl
        simp only [hl]
        exact ih hr

theorem wRegS_desc : (wRegS.descs.find? fun e => e.1 == (wI.warp * 128 + 0) * 2 ^ 64 + pairV wRegS wI 0 2) =
    some ((1 * 128 + 0) * 2 ^ 64 + 0x5_0000, leBytes 64 wDescV) := by
  decide +kernel

theorem witness_SweepRegions_reg :
    LeaderReady wRegS wI wW wTeam [2, 3] [4] 0 (wRegS.flagOf wI (some 0)) true ∧
    FencesMet wRegS wI wW wW.lanes wRegS wW wTeam ∧
    (pairV wRegS wI 0 2 < 2 ^ 57 ∧ pairV wRegS wI 0 2 % 64 = 0) ∧
    (wRegS.descs.find? fun e => e.1 == (wI.warp * 128 + 0) * 2 ^ 64 + pairV wRegS wI 0 2) =
      some ((1 * 128 + 0) * 2 ^ 64 + 0x5_0000, leBytes 64 wDescV) ∧
    (let v := leNat (leBytes 64 wDescV)
     regionBad v = none ∧ bits v 103 96 ≤ 12 ∧ fnWidthOk (bits v 103 96) (v.testBit 104) = true ∧
     wSw.regionOverlap wTeam.ctx (bits v 63 0) (bits v 95 64) = false ∧ wSw.freeHandle = some 1) ∧ leBytes 64 wDescV ≠ [] :=
  ⟨wLeader ⟨⟨by decide, by decide, by decide⟩, by decide, by rfl⟩ (by rfl) (by decide) (by decide), fencesMet_of_none (by rfl) (by rfl) (by decide), by decide,
   wRegS_desc,
   by decide +kernel, by decide⟩

/-- A region of the row at 0x5_0000, whose page lies at 0x2_0000. -/
def wRegion (st : RegionSt) (arrived left : List Nat) : Region :=
  { handle := 1, ctx := 0, base := 0x5_0000, rows := 1, func := 1, lw16 := false, k0 := 0, k1 := 0, period := 0, st := st
    pages := [0x2_0000], arrived := arrived, left := left, op := 7 }

def wRegions (r : Region) (ops : List SwOp) : State := { wSw with sw := { wSw.sw with regions := [r], ops := ops } }

theorem witness_SweepRegions_dereg : ∀ r ∈ [wRegion .registered [] [], wRegion .leaving [] []],
    let s := (wRegions r []).setV 1 0 5 1
    LeaderReady s wI wW wTeam [5] [] 0 (s.flagOf wI (some 0)) true ∧ FencesMet s wI wW wW.lanes s wW wTeam ∧ s.region (s.rdV wI 0 5).toNat = some r ∧
    r.ctx = wTeam.ctx := by
  intro r hr
  simp only [List.mem_cons, List.not_mem_nil, or_false] at hr
  rcases hr with rfl | rfl <;>
    exact ⟨wLeader ⟨⟨by decide, by decide, by decide⟩, by decide, by rfl⟩ (by rfl) (by decide) (by decide),
      fencesMet_of_none (by rfl) (by rfl) (by decide), by rfl, by decide⟩

/-- One granule from an aligned address. -/
theorem witness_SweepRegions_live :
    let s := ((wSw.setV 1 0 2 0x5_0000).setV 1 0 4 1)
    LeaderReady s wI wW wTeam [2, 3, 4] [] 0 (s.flagOf wI (some 0)) true ∧ FencesMet s wI wW wW.lanes s wW wTeam ∧
    pairV s wI 0 2 % 65536 = 0 ∧
    0 < (s.rdV wI 0 4).toNat ∧ (s.rdV wI 0 4).toNat ≤ 2 ^ 20 ∧
    pairV s wI 0 2 + 65536 * (s.rdV wI 0 4).toNat ≤ 2 ^ 57 ∧
    ∃ s1, (List.range (s.rdV wI 0 4).toNat).foldl (fun (p : Bool × State) k =>
      match p.2.engineXlate (.core wW.core) wTeam.ctx (pairV s wI 0 2 + 65536 * k) 0 .store with
      | (.at (.mem .sw _), s) => (p.1, s)
      | (.at _, s) => (true, s)
      | (_, s) => (p.1, s)) (false, s) = (false, s1) :=
  ⟨wLeader ⟨⟨by decide, by decide, by decide⟩, by decide, by rfl⟩ (by rfl) (by decide) (by decide),
   fencesMet_of_none (by rfl) (by rfl) (by decide), by decide, by decide, by decide, by decide, _, Prod.ext (show _ = false by decide) rfl⟩

/-- Entries of row 128: one at the head of the bank queue and one behind it. -/
def wEnt (id : Nat) (a : QAct) : QEnt := { id := id, host := false, pa := 0x2_0000, len := 2, ctx := some 0, va := 0x5_0000, act := a }

def wBank (es : List QEnt) : State := { wSw with sw := { wSw.sw with bankq := es } }

theorem witness_BankSteps :
    (let s := wBank [wEnt 7 (.write [1, 2]), wEnt 8 (.read 9 0)]
     (s.sw.bankq.find? fun x => x.id == 7) = some (wEnt 7 (.write [1, 2])) ∧ s.oldestEnt (0x2_0000 / 1024) =
       some (wEnt 7 (.write [1, 2])) ∧ (s.sw.bankq.find? fun x => x.id == 8) = some (wEnt 8 (.read 9 0)) ∧
     (wEnt 7 (.write [1, 2])).id ≠ (wEnt 8 (.read 9 0)).id ∧ s.liveRow 128 = true ∧ s.m.ue = [] ∧ s.sw.shots = [] ∧
     s.memOk = true) ∧
    (let s : State := { wSw with sw := { wSw.sw with dead := [2] } }
     s.liveRow 128 = false) ∧
    (let x : Shot := { id := 7, op := 9, lane := 0, row := 128, st := .sent, func := 1, lw16 := false, k0 := 0, k1 := 0, ctx := 0
                       va := 0 }
     let s : State := { wSw with sw := { wSw.sw with shots := [x] } }
     (s.sw.shots.find? fun y => y.id == 7) = some x ∧
     ((s.sw.shots.find? fun y => y.st == .sent && y.op == 9 && y.row == 128).map (·.id)) = some 7 ∧
     s.bankShots (rowBank 128) < 32 ∧ (∀ y ∈ s.sw.shots, y.st = .staged → rowBank y.row ≠ rowBank 128) ∧
     s.liveRow 128 = true ∧ s.sw.bankq = []) ∧
    (let o := { blankOp 1 .engine with id := 9 }
     let s : State := { wSw with sw := { wSw.sw with ops := [.stat 9 4 [(0, 128)]] }, ops := [o] }
     s.sw.ops = SwOp.stat 9 4 [(0, 128)] :: [] ∧ s.op 9 = some o) := by
  refine ⟨by decide, by decide, by decide +kernel, ?_, ?_⟩
  · rfl
  · rfl

/-- A row of class 0 is due at the sweep position of bank 0; none is left at its last position. -/
theorem witness_BankSteps_restore :
    (let s : State := { wSw with sw := { wSw.sw with pos := [(0, { pass := 1, next := 0, begun := true })] } }
     (s.sweepPos 0 0).begun = true ∧ s.nextOfClass 0 0 65536 (s.sweepPos 0 0).next = some 0) ∧
    (let s : State := { wSw with sw := { wSw.sw with pos := [(0, { pass := 1, next := 65536, begun := true })] } }
     (s.sweepPos 0 0).begun = true ∧ s.nextOfClass 0 0 65536 (s.sweepPos 0 0).next = none) := by
  decide +kernel

theorem nextOfClass_here {s : State} {bank cls n r : Nat} (h : r < 65536)
    (g : s.rowClass (bankRow bank r) = cls ∧ s.liveRow (bankRow bank r) = true) : s.nextOfClass bank cls (n + 1) r = some r := by
  unfold State.nextOfClass
  rw [if_neg (by omega), if_pos g]

/-- A pass has ended, and the next begins with row 0; and the last row alone is of class 1, whose pass is to begin past it. -/
theorem witness_BankSteps_pass :
    (let s : State := { wSw with sw := { wSw.sw with pos := [(0, { pass := 1, next := 65536, begun := true })] } }
     ((s.endPass 0 0).beginPass 0 0).nextOfClass 0 0 65536 0 = some 0) ∧
    (let s : State := { wSw with
       sw := { wSw.sw with pos := [(1, { pass := 1, next := 65536, begun := false })], rowCls := [(65535, 1)] } }
     (s.sweepPos 0 1).begun = false ∧ (s.beginPass 0 1).nextOfClass 0 1 65536 (s.sweepPos 0 1).next = none ∧
     (s.beginPass 0 1).holdsClass 0 1 65536 = true) :=
  ⟨nextOfClass_here (by decide) (by decide +kernel), by decide +kernel, by decide +kernel, by decide +kernel⟩

theorem witness_SweepEvents :
    (let s := wRegions (wRegion .registering [] []) [.reg 7 1 0 4 0 0]
     s.sw.regions = [wRegion .registering [] []] ∧ (wRegion .registering [] []).arrived = [] ∧ s.sw.bankq = []) ∧
    (let r := wRegion .registering [rowBank 128] []
     (wRegions r [.reg 7 1 0 4 0 0]).region 1 = some r ∧
     (r.base + 1024 * r.rows - 1) / 65536 - r.base / 65536 + 1 ≤ r.pages.length ∧ ∀ b ∈ r.banks, b ∈ r.arrived) ∧
    (let r := { wRegion .leaving [] [] with rows := 2 }
     (wRegions r [.dereg 7 1]).region 1 = some r ∧ ∃ b ∈ r.banks, b ∉ r.left ∧ b ≠ rowBank 128) ∧
    (let r := wRegion .leaving [] []
     rowBank 128 ∉ r.left ∧ ∀ b ∈ r.banks, b ∈ r.left ∨ b = rowBank 128) := by
  decide +kernel

def wLiveS : State := { wSw with sw := { wSw.sw with ops := [.live 7 true [0] 0 0x5_0000 0 0] } }

theorem witness_SweepEvents_live :
    (wLiveS.waits (.engine 7 0) = false ∧
     ∃ s1, wLiveS.engineXlate (.core 0) 0 (0x5_0000 + 65536 * 0) 0 .store = (.at (.mem .sw 0x2_0000), s1)) ∧
    wSw.sw.bankq = [] ∧ wSw.sw.shots = [] ∧ wSw.sw.dead.contains 2 = false ∧
    ({ wSw with sw := { wSw.sw with dead := [2] } } : State).sw.dead.contains 2 = true :=
  ⟨⟨by decide, (wLiveS.engineXlate (.core 0) 0 (0x5_0000 + 65536 * 0) 0 .store).2,
     Prod.ext (show (wLiveS.engineXlate (.core 0) 0 (0x5_0000 + 65536 * 0) 0 .store).1 = .at (.mem .sw 0x2_0000) by decide) rfl⟩,
   by decide, by decide, by decide, by decide⟩

/-! ### Prefix engines and near-memory commands -/

/-- v2:v3 of thread 0 holds 0x3_8000; v4 to v6 hold three operands. -/
def wKvS (a b c : Word) : State := (((wMem 0x3_8000).setV 1 0 4 a).setV 1 0 5 b).setV 1 0 6 c

theorem wKv_leader (a b c : Word) (srcs dsts : List Nat) (h : srcs ∈ [[2, 3] ++ regRange 4 3, [2, 3] ++ regRange 4 1,
    [2, 3] ++ regRange 4 2, [2, 3] ++ regRange 0 0]) (g : dsts ∈ [regRange 8 2, regRange 8 3, regRange 8 4]) :
    LeaderReady (wKvS a b c) wI wW wTeam srcs dsts 0 ((wKvS a b c).flagOf wI (some 0)) true := by
  simp only [List.mem_cons, List.not_mem_nil, or_false] at h g
  rcases h with rfl | rfl | rfl | rfl <;> rcases g with rfl | rfl | rfl <;>
    exact wLeader ⟨⟨by rfl, by rfl, by rfl⟩, by rfl, by rfl⟩ (by rfl) (by rfl) (by rfl)

theorem witness_KvWords :
    (let s := wKvS 0x3_8000 0 1
     KvReady s wI wW wTeam 2 (wI.zReg 4) 3 8 3 true 0 0 ∧ GlobalAt (pairV s wI 0 2) 32 ∧ GlobalAt (pairV s wI 0 4) 4 ∧
     GlobalAt (pairV s wI 0 4) 32 ∧ 0 < (s.rdV wI 0 6).toNat ∧ (s.rdV wI 0 6).toNat ≤ 2 ^ 24 ∧
     KvReady s wI wW wTeam 2 0 0 8 2 false 0 0 ∧ KvReady s wI wW wTeam 2 (wI.zReg 4) 3 8 2 true 0 0) ∧
    (let s := wKvS 0x100_0000 64 0
     KvReady s wI wW wTeam 2 (wI.zReg 4) 1 8 3 false 0 0 ∧ GlobalAt (pairV s wI 0 2) 64 ∧ 0 < (s.rdV wI 0 4).toNat ∧
     (s.rdV wI 0 4).toNat ≤ 2 ^ 24) ∧
    (let s := wKvS 0 64 0
     KvReady s wI wW wTeam 2 (wI.zReg 4) 2 8 4 false 0 0 ∧ (s.rdV wI 0 5).toNat % 4 = 0 ∧ 0 < (s.rdV wI 0 5).toNat ∧
     (s.rdV wI 0 5).toNat ≤ 65536 ∧ spadFail wTeam.vals.spbytes [((s.rdV wI 0 4).toNat, (s.rdV wI 0 5).toNat)] = none) :=
  ⟨⟨⟨wKv_leader _ _ _ _ _ (by decide) (by decide), by decide, by decide, by decide⟩, ⟨by decide, by decide⟩,
    ⟨by decide, by decide⟩, ⟨by decide, by decide⟩, by decide, by decide,
    ⟨wKv_leader _ _ _ _ _ (by decide) (by decide), by decide, by decide, by decide⟩,
    ⟨wKv_leader _ _ _ _ _ (by decide) (by decide), by decide, by decide, by decide⟩⟩,
   ⟨⟨wKv_leader _ _ _ _ _ (by decide) (by decide), by decide, by decide, by decide⟩, ⟨by decide, by decide⟩, by decide,
    by decide⟩,
   ⟨wKv_leader _ _ _ _ _ (by decide) (by decide), by decide, by decide, by decide⟩, by decide, by decide, by decide, by decide⟩

/-- An eviction of one leaf from the pool at 0x3_8000, with its operation. -/
def wKvO (kind : KvKind) (addr : Nat) : KvOp :=
  { op := 7, kind := kind, field := 0, ctx := 0, core := 0, warp := 1, leader := 0, wcb := 0, addr := addr, arg := 0, n := 1, d := 8
    data := [], pool := addr }

def wKvX : Op := { blankOp 1 .engine with id := 7, lanes := [0], vdests := [(0, 8), (0, 9), (0, 10)] }

def kvOne (s : State) (o : KvOp) : State := { s with kvq := [o], ops := [wKvX] }

/-- The pool at 0x3_8000, named before; written meanwhile or not. -/
def wKnown (raced : Bool) : KvPool :=
  { ctx := 0, addr := 0x3_8000, pagebase := 0, pdt := 0x3_9000, npages := 1, pagebytes := 1024, nodebase := 0, nnodes := 2
    segs := [], tabs := [], raced := raced }

/-- An operation that runs (the release of an empty sequence), one of status 5 (an unaligned pool), one that faults, one of status
8, one whose page is answered as unresolvable, and, in a pool written meanwhile, all. -/
theorem witness_KvSteps :
    (let s := kvOne wS (wKvO .evict 0x3_8000)
     (s.kvq.filter fun o => o.field == 0 && ((s.kvq.find? fun x => (x.warp == o.warp && x.leader == o.leader) ||
        ((s.detLaunch x.warp).isSome && s.detLaunch x.warp == s.detLaunch o.warp)).map (·.op)) ==
       some o.op && !s.waits (.engine o.op 0)) = [wKvO .evict 0x3_8000] ∧
     s.op 7 = some wKvX ∧ s.warp wKvX.warp = some wW ∧ wKvX.helper = none ∧ wW.kind = .normal ∧
     ((wW.threads[0]?).map Thread.live) = some true ∧
     ∀ r ∈ regRange 8 (KvKind.evict.results + 1), (wW.vkey 0 r).isSome) ∧
    (match (kvRun (wKvO .evict 0x3_8001)).run wPool with | .error (.status 5) => true | _ => false) = true ∧
    (match (kvRun (wKvO .evict 0x8_0000)).run wS with
      | .error (.fault f) => (wS.engineFailed 7 0 f).isNone
      | _ => false) = true ∧
    (match (kvRun (wKvO .evict 0x3_8000)).run
        { wPool with m := { wPool.m with ue := [(0x1_8000 / 32, { syndrome := true, written := 0 })] } } with
      | .error (.ue _ _) => true
      | _ => false) = true ∧
    (match (kvRun (wKvO .rel 0x3_8100)).run (wPool.physWrite 0x1_8100 32 (0x3_8000 * 2 ^ 128 + 2 ^ 192)) with
      | .ok _ => true
      | _ => false) = true :=
  ⟨⟨by rfl, by rfl, by rfl, rfl, rfl, by rfl, by decide⟩, by decide +kernel, by decide +kernel, by decide +kernel, by decide +kernel⟩

theorem witness_KvSteps_serve :
    (let o := wKvO .evict 0x3_8000
     (wS.poolOf o.kind o.ctx o.addr).getD o.pool = o.pool ∧ (wS.poolField o.ctx o.pool).getD o.field = o.field ∧
     wS.kvKnown o.ctx o.pool = none ∧
     ∀ r, ({ wS with kvPools := [wKnown r] } : State).kvKnown o.ctx o.pool = some (wKnown r) ∧ (wKnown r).raced = r) ∧
    (let o := { wKvO .evict 0x3_8000 with field := 1 }
     (wS.poolField o.ctx ((wS.poolOf o.kind o.ctx o.addr).getD o.pool)).getD o.field ≠ o.field) :=
  ⟨⟨by decide, by decide, by decide, fun _ => ⟨by rfl, by rfl⟩⟩, by decide⟩

/-- The same with its descriptor's range, and a write of its FREEHEAD, of a byte past it, with an operation in flight or none. -/
def wRaceP (raced : Bool) : KvPool := { wKnown raced with segs := [(0x1_8000, 128)] }

theorem witness_KvSteps_race :
    (∀ r, (wRaceP r).addr < 2 ^ 64 ∧ (wRaceP r).segs = (0x1_8000, 128) :: [] ∧
      ({ kvOne wS (wKvO .evict 0x3_8000) with kvPools := [wRaceP r] } : State).kvPools = [wRaceP r]) ∧
    (let s : State := { kvOne wS (wKvO .evict 0x3_8000) with kvPools := [wRaceP false] }
     wKvO .evict 0x3_8000 ∈ s.kvq ∧ s.copies = [] ∧ (wKvO .evict 0x3_8000).ctx = (wRaceP false).ctx ∧
     (wKvO .evict 0x3_8000).pool = (wRaceP false).addr) ∧
    (∃ g ∈ (wRaceP false).segs ++ (wRaceP false).tabs, g.1 < 0x1_8018 + 4 ∧ 0x1_8018 < g.1 + g.2) ∧
    (¬ ∃ g ∈ (wRaceP false).segs ++ (wRaceP false).tabs, g.1 < 0x1_8080 + 1 ∧ 0x1_8080 < g.1 + g.2) ∧
    wS.kvq = [] ∧ 0x1_8000 + 24 < 0x1_801B + 1 ∧ 0x1_801B < 0x1_8000 + 28 := by
  refine ⟨fun r => ⟨(by decide : 0x3_8000 < 2 ^ 64), rfl, rfl⟩, ⟨List.mem_singleton.2 rfl, rfl, rfl, rfl⟩, ⟨_, List.mem_cons_self, by decide⟩, ?_, by rfl,
    by decide⟩
  rintro ⟨g, hg, h⟩
  simp only [wRaceP, wKnown, List.append_nil, List.mem_singleton] at hg
  subst hg
  omega

/-- The context's leats find SW rows at 0x5_0000 and 0x7_0000, and plain memory at 0x6_0000. -/
def wNmS (c : NmCmd) : State :=
  let e (u : XUnit) (base : Nat) (leaf : DWord) : TlbEnt := { unit := u, ctx := 0, base := base, lg := 16, leaf := leaf }
  { wS with
    tr := { wS.tr with tlb := [e (.leat 0) 0x5_0000 0x2_0000_2303, e (.leat 0) 0x6_0000 0x3_0000_0303,
      e (.leat 0) 0x7_0000 0x4_0000_2303, e (.core 0) 0x3_0000 0x1_0000_0703] }
    nms := [c] }

def wNm (kind : NmKind) (todo : List Nat) (prog : Tab (Nat × Word)) : NmCmd :=
  { id := 7, ctx := 0, core := 0, team := 1, teamIdx := 0, warp := 1, leader := 0, wcb := 0, tag := 1, kind := kind, type := 0
    kb := 1, tol := 0, target := { kind := 2, id := 1, entry := 2 }, aux2 := 0, k0 := 0, k1 := 0, nrows := 64, todo := todo
    prog := prog, ys := [], bad := [], mismatch := [], fails := [], done := 0, started := false
    base := if kind = .copy then 0x7_0000 else 0x5_0000, aux0 := if kind = .copy then 0x5_0000 else 0x6_0000, aux1 := 0x6_0000
    flag := none, vecs := [], slices := [], parts := []
    bytes := [(0, List.replicate 1024 0)] }

def wNm0 (c : NmCmd) : State := (wNmS c).modNm 7 fun c => { c with started := true }

theorem wNm_ready {kind : NmKind} {todo : List Nat} {prog : Tab (Nat × Word)} {row : Nat} (h : row ∈ todo)
    (g : (wNmS (wNm kind todo prog)).nmReady (wNm kind todo prog) row = true) :
    RowReady (wNmS (wNm kind todo prog)) (wNm kind todo prog) row kind (wNm0 (wNm kind todo prog)) :=
  ⟨by rfl, h, rfl, g, rfl⟩

theorem wRowAt {s : State} {c : NmCmd} {row va pa : Nat} {a : Access} (h : va ≤ gapTop)
    (g : (s.engineXlate (.leat (s.nmLeat c row % 256)) c.ctx va 0 a).1 = .at (.mem .sw pa)) :
    RowAtVa s c row va a (pa / 1024) (s.engineXlate (.leat (s.nmLeat c row % 256)) c.ctx va 0 a).2 :=
  ⟨h, pa, Prod.ext g rfl, rfl⟩

theorem pair_some {α β : Type} {p : Option α × β} (h : p.1.isSome = true) : ∃ w s, p = (some w, s) := by
  obtain ⟨_ | w, s⟩ := p
  · cases h
  · exact ⟨w, s, rfl⟩

/-- A refresh restore of bank 128's row may go; it waits for the slice that a command stands in, or for a lower bank of its channel. -/
theorem witness_BankSteps_restores :
    (rowBank 128 < 8192 ∧ wSw.present (bankRow (rowBank 128) 0 * 1024) = true ∧ wSw.midSlice (rowBank 128) = false ∧ wSw.pending = []) ∧
    (let c := { wNm .fill [0] [] with slices := [(rowBank 128, 1)] }
     (wNmS c).midSlice (rowBank 128) = true ∧ (wNmS c).pending = []) ∧
    ∃ b < rowBank 128, bankChannel b = bankChannel (rowBank 128) :=
  ⟨by decide +kernel, by decide +kernel, rowBank 128 - 32, by decide +kernel⟩

/-- The vector of `c` for row 0, kept by its part. -/
def wKept (c : NmCmd) : NmCmd := { c with vecs := [(0, (List.replicate 1024 0, false))] }

theorem wVec {s : State} {c : NmCmd} {row va : Nat} {b : List Byte}
    (h : tget c.vecs (s.nmLeat c row * 2 ^ 32 + 0) = some (b, false)) : VecAt s c row va 0 1 b s := by
  intro k
  unfold State.nmVec
  simp only [show List.range 1 = [0] from rfl, List.foldl_cons, List.foldl_nil, Nat.add_zero] at *
  rw [h]
  simp

theorem witness_VectorsAreKept :
    tget (wKept (wNm .gemv [0] [])).vecs ((wNm0 (wNm .gemv [0] [])).nmLeat (wNm .gemv [0] []) 0 * 2 ^ 32 + 0) =
      some (List.replicate 1024 0, false) ∧
    (let c := wNm .gemv [0] []
     let s := wNm0 c
     tget c.vecs (s.nmLeat c 0 * 2 ^ 32 + 0) = none ∧
     (match (s.vecRead c (s.nmLeat c 0) (c.aux0 + 1024 * 0) 1024).1 with | .ok _ false => true | _ => false) = true) :=
  ⟨by decide +kernel, by decide +kernel, by decide +kernel⟩

def wGemv : NmCmd := wKept (wNm .gemv [0] [])
def wGemv1 : State := ((wNm0 wGemv).engineXlate (.leat 0) 0 0x6_0000 0 .store).2

theorem witness_RowSteps_gemv :
    RowReady (wNmS wGemv) wGemv 0 .gemv (wNm0 wGemv) ∧ wGemv.seg 0 = 0 ∧ 0 < wGemv.nrows ∧ wGemv.aux1 + 4 * 0 ≤ gapTop ∧
    (wNm0 wGemv).engineXlate (.leat ((wNm0 wGemv).nmLeat wGemv 0 % 256)) 0 (wGemv.aux1 + 4 * 0) 0 .store =
      (.at (.mem .normal 0x3_0000), wGemv1) ∧
    VecAt wGemv1 wGemv 0 (wGemv.stepVa 0 0) (0 * wGemv.cb) wGemv.cb (List.replicate 1024 0) wGemv1 ∧
    ∃ s3, RowAtVa wGemv1 wGemv 0 (wGemv.stepVa 0 0) .load 128 s3 ∧ ∃ w s4, s3.stepRead 128 (0, wGemv.stepVa 0 0) = (some w, s4) :=
  ⟨⟨by rfl, by decide, rfl, by decide +kernel, by rfl⟩, by decide, by decide, by decide, Prod.ext (by decide +kernel) rfl,
   wVec (by decide +kernel), _,
   wRowAt (pa := 0x2_0000) (by decide) (by decide +kernel), pair_some (by decide +kernel)⟩

theorem witness_RowSteps_csum :
    let c := wNm .csum [0] []
    RowReady (wNmS c) c 0 .csum (wNm0 c) ∧ c.seg 0 = 0 ∧ 0 < c.nrows ∧
    ∃ s1, RowAtVa (wNm0 c) c 0 (c.stepVa 0 0) .load 128 s1 ∧ ∃ w s2, s1.stepRead 128 (c.ctx, c.stepVa 0 0) = (some w, s2) :=
  ⟨wNm_ready (by decide) (by decide +kernel), by decide, by decide, _,
   wRowAt (pa := 0x2_0000) (by decide) (by decide +kernel), pair_some (by decide +kernel)⟩

theorem witness_RowSteps_update :
    let c := wKept (wNm .update [0] [])
    RowReady (wNmS c) c 0 .update (wNm0 c) ∧
    VecAt (wNm0 c) c 0 (c.stepVa 0 0) (0 * c.cb) c.cb (List.replicate 1024 0) (wNm0 c) ∧
    ∃ s2, RowAtVa (wNm0 c) c 0 (c.stepVa 0 0) .store 128 s2 ∧ (s2.serveRow 128).rowUe 128 = [] ∧
      (s2.serveRow 128).liveRow 128 = true :=
  ⟨⟨by rfl, by decide, rfl, by decide +kernel, by rfl⟩, wVec (by decide +kernel), _,
   wRowAt (pa := 0x2_0000) (by decide) (by decide +kernel), by decide +kernel, by decide +kernel⟩

theorem witness_RowSteps_fill :
    let c := wNm .fill [0] []
    RowReady (wNmS c) c 0 .fill (wNm0 c) ∧ ∃ s1, RowAtVa (wNm0 c) c 0 (c.stepVa 0 0) .store 128 s1 :=
  ⟨wNm_ready (by decide) (by decide +kernel), _, wRowAt (pa := 0x2_0000) (by decide) (by decide +kernel)⟩

theorem witness_RowSteps_copy :
    (let c := wNm .copy [0] []
     RowReady (wNmS c) c 0 .copy (wNm0 c) ∧ c.seg 0 = 0 ∧
     ∃ s1, RowAtVa (wNm0 c) c 0 (c.stepVa 0 1) .store 256 s1 ∧ ∃ s2, RowAtVa s1 c 0 (c.stepVa 0 0) .load 128 s2 ∧
       ∃ w s3, s2.stepRead 128 (c.ctx, c.stepVa 0 0) = (some w, s3)) ∧
    (let c := wNm .copy [0] [(0, (1, 0))]
     RowReady (wNmS c) c 0 .copy (wNm0 c) ∧ c.seg 0 = 1 ∧ tget c.bytes (0 * 64) = some (List.replicate 1024 0) ∧
     (c.stepVa 0 1 < c.aux0 ∨ c.aux0 + 1024 * c.nrows ≤ c.stepVa 0 1) ∧
     ∃ s1, RowAtVa (wNm0 c) c 0 (c.stepVa 0 1) .store 256 s1) :=
  ⟨⟨wNm_ready (by decide) (by decide +kernel), by decide, _, wRowAt (pa := 0x4_0000) (by decide) (by decide +kernel), _,
    wRowAt (pa := 0x2_0000) (by decide) (by decide +kernel), pair_some (by decide +kernel)⟩,
   wNm_ready (by decide) (by decide +kernel), by decide, by rfl, by decide, _,
   wRowAt (pa := 0x4_0000) (by decide) (by decide +kernel)⟩

theorem witness_RowSteps_write : wS.memOk = true ∧ wS.liveRow 128 = true ∧ wS.sw.bankq = [] ∧ wS.sw.shots = [] ∧ wS.m.ue = [] ∧
    (List.replicate 1024 (0 : Byte)).length = 1024 := ⟨by decide, by decide, by decide, by decide, by decide, List.length_replicate⟩

/-- A descriptor of NM.FILL over one row, with an event target. -/
def wNmDesc : Nat :=
  0x400030000000000000000000000010000000000000000000000000000000000000000000000000000000000050000

def wNmcS : State := { wSw with descs := [((1 * 128 + 0) * 2 ^ 64 + 0x5_0000, leBytes 64 wNmDesc)] }

theorem witness_NearMemoryWords :
    LeaderReady wNmcS wI wW wTeam [2, 3] [8] 0 (wNmcS.flagOf wI (some 0)) true ∧
    (wNmcS.nms.filter fun c => c.ctx == wTeam.ctx).length < 4096 ∧ FencesMet wNmcS wI wW wW.lanes wNmcS wW wTeam ∧
    tget wNmcS.ctxs wTeam.ctx = some { Ctx.reset with state := 0 } ∧ pairV wNmcS wI 0 2 < 2 ^ 57 ∧ pairV wNmcS wI 0 2 % 64 = 0 ∧
    (wNmcS.descs.find? fun e => e.1 == (wI.warp * 128 + 0) * 2 ^ 64 + pairV wNmcS wI 0 2) =
      some ((1 * 128 + 0) * 2 ^ 64 + 0x5_0000, leBytes 64 wNmDesc) ∧ leBytes 64 wNmDesc ≠ [] ∧
    nmBad (leNat (leBytes 64 wNmDesc)) Ctx.reset.ctsize wTeam.vals.dcwin = none ∧ Ctx.reset.nexttag ≠ 0 ∧
    LeaderReady wNmcS wI wW wTeam [] [] 0 (wNmcS.flagOf wI (some 0)) false ∧
    LeaderReady wNmcS wI wW wTeam [8] [9, 10] 0 (wNmcS.flagOf wI (some 0)) false :=
  ⟨wLeader ⟨⟨by decide, by decide, by decide⟩, by decide, by rfl⟩ (by rfl) (by decide) (by decide), by decide,
   fencesMet_of_none (by rfl) (by rfl) (by decide), by decide, by decide,
   by decide, by decide +kernel, by decide, by decide +kernel, by decide,
   wLeader ⟨⟨by decide, by decide, by decide⟩, by decide, by rfl⟩ (by rfl) (by decide) (by decide),
   wLeader ⟨⟨by decide, by decide, by decide⟩, by decide, by rfl⟩ (by rfl) (by decide) (by decide)⟩

theorem witness_NearMemoryWords_status : ∀ n ∈ [0, 3],
    let e : NmLog := { ctx := 0, tag := 5, cmd := 7, status := some n, done := 1 }
    ({ wS with nmLog := [e] } : State).nmLog.find? (fun e => e.ctx == 0 && e.tag == 5) = some e := by
  decide

/-- A command in flight, known to the log. -/
theorem witness_NearMemoryWords_flying :
    let e : NmLog := { ctx := 0, tag := 1, cmd := 7, status := none, done := 1 }
    let s : State := { wNmS (wNm .fill [0] []) with nmLog := [e] }
    (s.nmLog.find? fun e => e.ctx == 0 && e.tag == 1) = some e ∧ (s.nms.find? fun c => c.id == e.cmd) = some (wNm .fill [0] []) ∧
    (∀ b ∈ s.tr.batches, b.waiters = []) ∧ s.tr.slotWaits = [] :=
  ⟨by rfl, by rfl, by decide, by decide⟩

theorem witness_DescriptorReads :
    let key := 1 * 128 * 2 ^ 64 + 0x3_8000
    wHit.warp (key / 2 ^ 64 / 128) = some wW ∧ wHit.teamOf (key / 2 ^ 64 / 128) = some wTeam ∧ (∀ e ∈ wHit.descs, e.1 ≠ key) ∧
    (∀ l ∈ wW.lanes, (wHit.thread 1 l).bind (·.relHold) = none) ∧
    wHit.engineXlate (.core wW.core) wTeam.ctx (key % 2 ^ 64) 0 .load = (.at (.mem .normal 0x1_8000), wHit) :=
  ⟨by rfl, by rfl, by decide, by decide, by decide⟩

theorem witness_CommandsComplete :
    let c := wNm .fill [] []
    let s := wNmS c
    (s.nms.find? fun d => d.id == 7) = some c ∧ c.todo = [] ∧ s.sk.reqs = [] ∧
    tget s.ctxs c.ctx = some { Ctx.reset with state := 0 } ∧ s.nmCore c = 0 ∧
    tget s.cores (s.nmCore c) = some blankCore ∧ blankCore.evq.length < 256 ∧
    ({ c with target := { kind := 1, id := 1, entry := 2 } } : NmCmd).target.kind = 1 :=
  ⟨by rfl, by rfl, by rfl, by rfl, by decide, by decide, by decide, by rfl⟩

/-! ### Launches, counters, events, placement -/

/-- The context's WCB at 0x1_9000; a task WCB below it at 0x1_8000; a queue WCB at 0x1_B000 whose ring, at 0x1_C000, holds the
task WCB's address. -/
def wTaskM : State :=
  let s := (wMem 0x3_8000).physWrite 0x1_8000 256
    0x1000000000000000000010000080000000000000000000000000000000000000000000000000000000001000000000000000000000001000000000000000000000000000390000000000000000004
  let s := s.physWrite 0x1_9000 256
    0x100000000000000000000000000000000000000000000000000000000000000000000000000000000000000000000000000000000000000000000000000000000000000000000000000ff00000000
  let s := s.physWrite 0x1_B000 256
    0x10000000000000000000000000003c000000000000000000000000000000000000000000000000000000000000000000000000000000000000000000000000000000000000000000000000000000000000000000000000000000000000000000000000000000000000000000000000000000000000000000000000000000000000000000000000000000000000000000000000000000000000000000000000000000000000000000000000000000000000000000000000000000000000000000000000000000000000000000000000002
  s.physWrite 0x1_C000 16 0x3_8000

def wTaskS : State :=
  { wMem 0x3_8000 with m := wTaskM.m, ctxs := [(0, { Ctx.reset with
    state := 0, wcb := 0x1_9000, ctbase := 0x3_A000, ctsize := 256, qwcb := [0x3_B000], qtail := [some 1] })] }

theorem task_of {x : WcbCheck} (h : (match x with | .task _ => true | _ => false) = true) : ∃ v, x = .task v := by
  cases x with
  | task v => exact ⟨v, rfl⟩
  | graph v => cases h
  | refused r => cases h

theorem witness_LaunchWord :
    (TaskReady wTaskS wI wW wTeam 0 [2, 3] [4] 0 none ∧
     (tget wTaskS.ctxs wTeam.ctx).map (fun x => (decide (x.nextlaunch ≠ 0))) = some true ∧
     (let va := (wTaskS.rdK wI 0 0 3 ++ wTaskS.rdK wI 0 0 2).toNat
      let u := (wTaskS.release wI.warp 0 wW.core 6).1
      (va < 2 ^ 57 ∧ va % 256 = 0) ∧ (∃ v, u.checkWcb wTeam.ctx va true = .task v) ∧ u.liveLaunches wTeam.ctx < 4096 ∧
      ∀ y ∈ u.launchAhead wTeam.ctx (.word wI.warp 0 wI.gpc), y.inst = true)) ∧
    (let s := wMem 0x3_8000
     let va := (s.rdK wI 0 0 3 ++ s.rdK wI 0 0 2).toNat
     TaskReady s wI wW wTeam 0 [2, 3] [4] 0 none ∧
     (tget s.ctxs wTeam.ctx).map (fun x => x.waiting.all fun y => y.by_ != .held) = some true ∧
     (s.release wI.warp 0 wW.core 6).1.checkWcb wTeam.ctx va true = .refused 1) :=
  ⟨⟨⟨by rfl, by rfl, by rfl, by rfl, by rfl, by decide +kernel, by decide +kernel, fun _ => ⟨rfl, by decide, by decide⟩,
      fun h => by cases h⟩, by decide +kernel, by decide +kernel, task_of (by decide +kernel), by decide +kernel, by decide +kernel⟩,
   ⟨by rfl, by rfl, by rfl, by rfl, by rfl, by decide, by decide, fun _ => ⟨rfl, by decide, by decide⟩, fun h => by cases h⟩,
   by decide +kernel, by decide +kernel⟩

/-- The context's fault ring, of one place at physical 0, is full. -/
def wFullS : State := { wMem 0x3_8000 with m := ((wMem 0x3_8000).physWrite 16 4 1).m }

theorem witness_LaunchWord_record : ∀ s ∈ [wMem 0x3_8000, wFullS],
    let va := (s.rdK wI 0 0 3 ++ s.rdK wI 0 0 2).toNat
    let u := (s.release wI.warp 0 wW.core 6).1
    TaskReady s wI wW wTeam 0 [2, 3] [4] 0 none ∧ tget s.ctxs 0 = some { Ctx.reset with state := 0 } ∧ Ctx.reset.fqueue = [] ∧
    Ctx.reset.waiting = [] ∧ u.checkWcb wTeam.ctx va true = .refused 1 ∧
    (0 < u.ringRoom Ctx.reset.fq ∨ u.ringRoom Ctx.reset.fq = 0) ∧
    (wMem 0x3_8000).ringRoom Ctx.reset.fq = 1 ∧ wFullS.ringRoom Ctx.reset.fq = 0 := by
  intro s hs
  simp only [List.mem_cons, List.not_mem_nil, or_false] at hs
  rcases hs with rfl | rfl <;>
    exact ⟨⟨by rfl, by rfl, by rfl, by rfl, by rfl, by decide +kernel, by decide +kernel,
        fun _ => ⟨rfl, by decide +kernel, by decide +kernel⟩, fun h => by cases h⟩,
      by rfl, by rfl, by rfl, by decide +kernel, by decide +kernel, by decide +kernel, by decide +kernel⟩

/-- The entry of queue 0 began to wait for room before the word. -/
def wTaskW : State := wTaskS.modCtx 0 fun x => { x with waiting :=
  [{ by_ := .entry 0 0, inst := false, wcb := 0x3_8000, dcstatus := 0, node := none, queue := some 0 }] }

theorem witness_LaunchWord_wait : TaskReady wTaskW wI wW wTeam 0 [2, 3] [4] 0 none ∧ (tget wTaskW.ctxs wTeam.ctx).isSome = true ∧
    let va := (wTaskW.rdK wI 0 0 3 ++ wTaskW.rdK wI 0 0 2).toNat
    let u := (wTaskW.release wI.warp 0 wW.core 6).1
    (va < 2 ^ 57 ∧ va % 256 = 0) ∧ (∃ v, u.checkWcb wTeam.ctx va true = .task v) ∧
    ∃ y ∈ u.launchAhead wTeam.ctx (.word wI.warp 0 wI.gpc), y.inst = false :=
  ⟨⟨by rfl, by rfl, by rfl, by rfl, by rfl, by decide +kernel, by decide +kernel, fun _ => ⟨rfl, by decide, by decide⟩,
    fun h => by cases h⟩, by rfl, by decide +kernel, task_of (by decide +kernel), by decide +kernel⟩

/-- Scalar operands: s2:s3. -/
theorem witness_LaunchWord_scalar :
    TaskReady wRange wI { wW with sregs := [(2, 1), (3, 256)] } wTeam 1 [2, 3] [4] 0 none :=
  ⟨by rfl, by rfl, by rfl, by rfl, by rfl, by decide, by decide, fun h => by (cases h), fun _ _ => by decide⟩

theorem witness_CounterWords :
    (∀ g ∈ ([0, 1] : List (BitVec 1)), TaskReady wTaskS wI wW wTeam 0 (if g = 1 then [4] else []) [] 0 none) ∧
    (∃ x, tget wTaskS.ctxs wTeam.ctx = some x ∧ wTeam.vals.dcwin + (63 : BitVec 6).toNat < x.ctsize ∧
      (wTaskS.peekPa 0 (x.ctbase + 16 * 3)).isSome = true) ∧
    (0x0002_FFFF_0000_FFFF : Nat) < 2 ^ 128 ∧ 65535 < 65536 := by
  refine ⟨?_, ⟨_, rfl, by decide, by decide +kernel⟩, by decide, by decide⟩
  intro g hg
  simp only [List.mem_cons, List.not_mem_nil, or_false] at hg
  rcases hg with rfl | rfl <;>
    exact ⟨by rfl, by rfl, by rfl, by rfl, by rfl, by decide +kernel, by decide +kernel,
      fun _ => ⟨rfl, by decide +kernel, by decide +kernel⟩, fun h => by cases h⟩

def wRecE : EvRec := { detail := 1, team := 0, status := 0, minor := 0, source := 2, id := 11, ctx := 0, seq := 5, raw := [] }

def wEvO : Op := { blankOp 1 .engine with id := 7, lanes := [0], vdests := [(0, 4)] }

def wEvS (q : List EvRec) : State :=
  { wS with
    cores := [(0, { blankCore with evq := q })], ops := [wEvO], evWaits := [{ op := 7, d := 4, scalar := false }] }

theorem witness_EventRecords :
    (∀ k ∈ ([0, 1] : List (BitVec 1)), TaskReady wS wI wW wTeam k [] (regRange 4 4) 0 (wS.flagOf wI (some 0)) ∧
      TaskReady wS wI wW wTeam k (regRange 4 4) [] 0 none) ∧
    tget wS.cores wW.core = some blankCore ∧ ((wW.threads[0]?).map Thread.live) = some true ∧ (∀ o ∈ wS.ops, o.id < wS.nextId) ∧
    blankCore.evq.length < 256 ∧
    ∀ q ∈ [[], [wRecE]], (wEvS q).evWaits.find? (fun e => e.op == 7) = some { op := 7, d := 4, scalar := false } ∧
      (wEvS q).op 7 = some wEvO ∧ (wEvS q).warp wEvO.warp = some wW ∧
      tget (wEvS q).cores wW.core = some { blankCore with evq := q } := by
  refine ⟨?_, by rfl, by rfl, by decide, by decide, ?_⟩
  · intro k hk
    simp only [List.mem_cons, List.not_mem_nil, or_false] at hk
    rcases hk with rfl | rfl <;>
      exact ⟨⟨by rfl, by rfl, by rfl, by rfl, by rfl, by decide, by decide, fun _ => ⟨rfl, by decide, by decide⟩,
          fun _ _ => by decide⟩,
        ⟨by rfl, by rfl, by rfl, by rfl, by rfl, by decide, by decide, fun _ => ⟨rfl, by decide, by decide⟩, fun _ _ => by decide⟩⟩
  · intro q hq
    simp only [List.mem_cons, List.not_mem_nil, or_false] at hq
    rcases hq with rfl | rfl <;> exact ⟨by rfl, by rfl, by rfl, by rfl⟩

/-- The queue's entry with a reserved bit set; with the address of a page that nothing maps; behind a launch that waits. -/
def wQueueS (n : Nat) : State :=
  match n with
  | 1 => { wTaskS with m := (wTaskS.physWrite 0x1_C000 16 (0x3_8000 + 2 ^ 65)).m }
  | 2 => { wTaskS with m := (wTaskS.physWrite 0x1_C000 16 0x9_0000).m }
  | 3 => wTaskS.modCtx 0 fun x => { x with waiting :=
      [{ by_ := .word 1 0 4, inst := false, wcb := 0x3_8000, dcstatus := 0, node := none, queue := none },
       { by_ := .entry 0 0, inst := false, wcb := 0x3_8000, dcstatus := 0, node := none, queue := none }] }
  | _ => wTaskS

def wQueueE (n : Nat) : QueueEntry :=
  match (wQueueS n).queueHead 0 0 with
  | some e => e
  | none => { qwcb := 0, pa := 0, head := 0, idx := 0, addr := 0, wait := false, bad := false }

theorem wQueue_head (n : Nat) (h : ((wQueueS n).queueHead 0 0).isSome = true) : (wQueueS n).queueHead 0 0 = some (wQueueE n) := by
  unfold wQueueE
  cases hq : (wQueueS n).queueHead 0 0 with
  | none => rw [hq] at h; cases h
  | some e => rfl

theorem made_of {x : LaunchRes} (h : (match x with | .made _ => true | _ => false) = true) : ∃ id, x = .made id := by
  cases x with
  | made id => exact ⟨id, rfl⟩
  | refused => cases h
  | wait b => cases h

theorem witness_FrontEnd :
    (∀ n ∈ [0, 1, 2, 3], (∀ g ∈ (wQueueS n).graphs, g.2.ctx = 0 → g.2.todo = []) ∧
      (wQueueS n).queueHead 0 0 = some (wQueueE n) ∧ (wQueueS n).queueWaits 0 0 (wQueueE n) = false) ∧
    ((wQueueE 1).bad = true ∧ (wQueueS 1).queueTurn 0 0 = true) ∧
    ((wQueueE 0).bad = false ∧ (∃ id, ((wQueueS 0).tryEntry 0 0 (wQueueE 0)).1 = .made id) ∧ (wQueueS 0).queueTurn 0 0 = true) ∧
    ((wQueueE 2).bad = false ∧ ((wQueueS 2).tryEntry 0 0 (wQueueE 2)).1 = .refused ∧ (wQueueS 2).queueTurn 0 0 = true ∧
      (wQueueS 2).checkWcb 0 (wQueueE 2).addr true = .refused 1) ∧
    (wQueueE 3).bad = false ∧ ((wQueueS 3).tryEntry 0 0 (wQueueE 3)).1 = .wait false := by
  refine ⟨?_, by decide +kernel, ⟨by decide +kernel, made_of (by decide +kernel), by decide +kernel⟩, by decide +kernel,
    by decide +kernel⟩
  intro n hn
  simp only [List.mem_cons, List.not_mem_nil, or_false] at hn
  rcases hn with rfl | rfl | rfl | rfl <;>
    exact ⟨by decide +kernel, wQueue_head _ (by decide +kernel), by decide +kernel⟩

/-- A queue of which no doorbell has been rung, and one whose HEAD has reached its doorbell's TAIL; the first queue of `wTaskS` has an
entry. -/
theorem witness_FrontEnd_due :
    (∀ q ∈ [none, some 0], (wTaskS.modCtx 0 fun x => { x with qtail := [q] }).queueHead 0 0 = none) ∧
    (∃ x, tget wTaskS.ctxs 0 = some x ∧ x.qwcb[0]? = some (0x3_AFFF + 1) ∧ x.qtail[0]? = some (some 1)) ∧
    ((wTaskS.readWcb 0 0x3_B000).map fun v => (v % 256, v / 2 ^ 1632 % 2 ^ 32)) = some (2, 0) ∧
    ({ Ctx.reset with qtail := [none] } : Ctx).qtail[0]? = some none :=
  ⟨by decide +kernel, ⟨_, rfl, by rfl, by rfl⟩, by decide +kernel, by rfl⟩

/-- The launch's only team is not placed yet. -/
def wPlaceS : State :=
  { wS with
    teams := [], warps := [], launches := [(1, { wordLaunch with next := 0, vals := { wordVals with cur := 256 } })] }

theorem witness_TeamsPlaced : wPlaceS.placement = some (1, 0, 0, 0) ∧
    tget wPlaceS.launches 1 = some { wordLaunch with next := 0, vals := { wordVals with cur := 256 } } ∧
    wordVals.det = false ∧
    wPlaceS.readyTeam 1 { wordLaunch with next := 0, vals := { wordVals with cur := 256 } } = some (0, none) ∧ 0 < wordVals.w :=
  ⟨by decide +kernel, by rfl, by rfl, by decide +kernel, by decide⟩

/-- The same launch, deterministic. -/
def wDetL : Launch := { wordLaunch with next := 0, vals := { wordVals with cur := 256, det := true }, token := some (0, 1) }

def wDetS : State := { wPlaceS with launches := [(1, wDetL)] }

theorem witness_TeamsPlaced_det : (wDetS.placement).isSome = true ∧ (wDetS.placement).map (·.1) = some 1 ∧
    tget wDetS.launches 1 = some wDetL ∧ wDetL.vals.det = true ∧ wDetS.tablesOk = true :=
  ⟨by decide +kernel, by decide +kernel, by rfl, by rfl, by decide +kernel⟩

/-- A team whose threads have just issued IDEMB, and a second core. -/
def wMoveT : Team := { wordTeam with vals := { wordVals with cur := 256 } }

def wMoveS : State :=
  { wThreads fun x => { x with inside := true, idemAt := x.retired } with
    teams := [(1, wMoveT)], cores := [(0, blankCore), (1, blankCore)]
    launches := [(1, { wordLaunch with vals := wMoveT.vals })] }

def wMoveG : State := { wMoveS with
  teams := terase wMoveS.teams 1
  warps := wMoveS.warps.filter fun e => e.2.team != 1
  ops := wMoveS.ops.filter fun o => ((wMoveS.warp o.warp).map (·.team)) != some 1
  mops := wMoveS.mops.filter fun m => m.team != 1
  resReqs := wMoveS.resReqs.filter fun r => ((wMoveS.warp r.warp).map (·.team)) != some 1 }

theorem witness_TeamsMoved : wMoveS.team 1 = some wMoveT ∧ 1 ≠ wMoveT.core ∧ wMoveS.movable wMoveT = true ∧
    tget wMoveS.launches wMoveT.launch = some { wordLaunch with vals := wMoveT.vals } ∧
    wMoveG.coreFits wMoveT.launch wMoveT.vals 1 = true ∧ (wMoveG.placeFit wMoveT.vals 1).map (·.1) = some 0 ∧
    1 < wMoveS.nextId ∧ tsorted wMoveS.teams = true :=
  ⟨by rfl, by decide, by decide +kernel, by rfl, by decide +kernel, by decide +kernel, by decide, by decide⟩

/-- A warp whose threads have ended, the last of its team or one of two. -/
def wEndW : Warp := { wW with threads := List.replicate 32 { freshThread 4 0 with st := .exited } }

def wEndS (ws : List (Option Nat)) : State :=
  { wS with
    warps := [(1, wEndW)], teams := [(1, { wTeam with warps := ws })], launches := [(1, { wordLaunch with trigSent := true })] }

theorem witness_WarpsEnd : ∀ ws ∈ [[some 1], [some 1, some 2]],
    (wEndS ws).warp 1 = some wEndW ∧ (wEndS ws).team wEndW.team = some { wTeam with warps := ws } ∧ wEndW.kind = .normal ∧
    wEndW.liveLanes = [] ∧ (wEndS ws).warpIdle 1 = true ∧ wTeam.det = none ∧ wTeam.vals.det = false ∧
    tget (wEndS ws).launches wTeam.launch = some { wordLaunch with trigSent := true } ∧ (wEndS ws).tablesOk = true ∧
    ((∃ x ∈ ws, x ≠ none ∧ x ≠ some 1) ∨ (∀ x ∈ ws, x = none ∨ x = some 1)) := by
  intro ws hw
  simp only [List.mem_cons, List.not_mem_nil, or_false] at hw
  rcases hw with rfl | rfl <;>
    exact ⟨by rfl, by rfl, by rfl, by decide +kernel, by decide +kernel, by rfl, by rfl, by rfl, by decide +kernel, by decide⟩

/-- Its context is resident, or is being pre-empted and has no other team. -/
theorem witness_WarpsEnd_context : tget (wEndS [some 1]).ctxs 0 = some { Ctx.reset with state := 0 } ∧
    (∀ e ∈ (wEndS [some 1]).teams, e.2.ctx = 0 → e.1 = wEndW.team) ∧
    let s : State := { wEndS [some 1] with ctxs := [(0, { Ctx.reset with state := 1, goal := 2 })] }
    tget s.ctxs 0 = some { Ctx.reset with state := 1, goal := 2 } ∧ s.warp 1 = some wEndW ∧ s.warpIdle 1 = true ∧
    s.tablesOk = true ∧ ({ wordLaunch with trigSent := true } : Launch).node = none ∧ Ctx.reset.draining = false ∧
    ∀ y ∈ [some 1], y = none ∨ y = some 1 :=
  ⟨by rfl, by decide, by rfl, by rfl, by decide +kernel, by decide +kernel, by rfl, by rfl, by decide⟩

/-! ### Translation, faults, replays, migration -/

/-- A table at 0x1_8000 whose first entry leads to the table at 0x1_9000, whose first entry is a leaf of 8 GiB at 0. -/
def wWalkS : State :=
  { wS with
    m := ((wS.physWrite 0x1_8000 8 0x0000_0001_0900_0001).physWrite 0x1_9000 8 0x703).m
    ctxs := [(0, { Ctx.reset with state := 0, ptroot := 0x1_8000 })] }

def wCtx : Ctx := { Ctx.reset with state := 0, ptroot := 0x1_8000 }

theorem pair_of {α β : Type} {p : α × β} {a : α} (h : p.1 = a) : p = (a, p.2) := Prod.ext h rfl

def wWalk (va : DWord) : Walk × State := wWalkS.walkFrom (unitField (.core 0)) 0 va.toNat walkLevels 0x1_8000

theorem witness_Walks : tget wWalkS.ctxs 0 = some wCtx ∧
    wWalk 0x1234 = (.leaf 0x1_9000 0x703 33, (wWalk 0x1234).2) ∧ (wWalk 0x1234).2.memOk = true ∧
    (wWalk 0x1234).2.unsettledOk = true ∧
    wWalk 0x1FF_0000_0000_0000 = (.fail 1 0 16, (wWalk 0x1FF_0000_0000_0000).2) :=
  ⟨by rfl, pair_of (by decide +kernel), by decide +kernel, by decide +kernel, pair_of (by decide +kernel)⟩

/-- A leaf that permits a load, of plain memory or of SW memory; no store. -/
def wEntry (l : DWord) : TlbEnt := { unit := .core 0, ctx := 0, base := 0x5_0000, lg := 16, leaf := l }

def wEntryS (l : DWord) : State := { wS with tr := { wS.tr with tlb := [wEntry l] } }

/-- The root table stands in memory that is not there. -/
theorem witness_Walks_absent : ({ wCtx with ptroot := 2 ^ 50 } : Ctx).ptroot = 2 ^ 50 ∧ wS.present (2 ^ 50) = false :=
  ⟨rfl, by decide⟩

theorem witness_Walks_entry :
    ((wEntryS 0x2_0000_0103).tr.tlb.find? fun e => e.unit == .core 0 && e.ctx == 0 &&
      e.base == 0x5_FFFF / 2 ^ e.lg * 2 ^ e.lg) = some (wEntry 0x2_0000_0103) ∧
    (0x2_0000_0103 : DWord).getLsbD 8 = true ∧ (0x2_0000_0103 : DWord).getLsbD 9 = false ∧
    (wEntry 0x2_0000_0103).leaf.toNat / 2 ^ 13 % 8 = 0 ∧
    ((wEntryS 0x2_0000_2103).tr.tlb.find? fun e => e.unit == .core 0 && e.ctx == 0 &&
      e.base == 0x5_FFFF / 2 ^ e.lg * 2 ^ e.lg) = some (wEntry 0x2_0000_2103) ∧
    (0x2_0000_2103 : DWord).getLsbD 8 = true ∧ (wEntry 0x2_0000_2103).leaf.toNat / 2 ^ 13 % 8 = 1 :=
  ⟨by rfl, by decide, by decide, by decide, by rfl, by decide, by decide⟩

def wAhead : Ahead :=
  { lanes := [0], batch := 7, threads := wW.threads, sregs := [], cwin := 0, rf := [], poison := [], count := 0, done := false }

def wPage : BatchPage := { base := 0x5_0000, lg := 16, addr := 0x5_0004, reason := 1, acc := 1 }

def wBatch (sent : Bool) : Batch :=
  { id := 7, ctx := 0, core := 0, bseq := 1, pages := [wPage], sent := sent, waiters := [.warp 1], src := 0, unit := 0, seqKey := 0
    wcb := 0 }

/-- The ring of the context's fault queue, at 0x1_8000, has 16 places. -/
def wBatchS (sent : Bool) (rs : List Replay) : State :=
  { wS with
    m := (wS.physWrite 0x1_8000 16 (0x1_9000 + 4 * 2 ^ 96)).m, tr := { wS.tr with batches := [wBatch sent] }
    warps := [(1, { wW with fault := .waiting [0] [7] })], ctxs := [(0, { wCtx with fq := 0x1_8000, replays := rs })] }

theorem witness_Batches :
    (wWith fun w => { w with fault := .ahead wAhead }).warp 1 = some { wW with fault := .ahead wAhead } ∧
    (wBatchS false []).tr.slotWaits = [] ∧ ((wBatchS false []).tr.batches.find? fun x => x.id == 7) = some (wBatch false) ∧
    tget (wBatchS false []).ctxs 0 = some { wCtx with fq := 0x1_8000 } ∧ wCtx.fpages + 1 ≤ 4096 ∧
    1 ≤ (wBatchS false []).ringRoom 0x1_8000 ∧ wCtx.fqueue = [] :=
  ⟨by rfl, by rfl, by rfl, by rfl, by decide, by decide +kernel, by rfl⟩

/-- A record of the context whose generation has come. -/
def wReplay (action : Nat) (bseq : Word) : Replay :=
  { addr := 0x5_0000, arg := 1, gen := 0, bseq := bseq, retry := 1, ctx := 0, action := action, rsvd := false }

theorem wDueAt (action : Nat) (bseq : Word) (h : action ∈ [1, 2, 3]) (g : bseq ∈ ([1, 2] : List Word)) :
    Due (wBatchS true [wReplay action bseq]) 0
      (match action with
        | 2 => .replayInvalidateRange 0
        | 3 => .replayInvalidateContext 0
        | _ => .replayRetry 0)
      { wCtx with fq := 0x1_8000, replays := [wReplay action bseq] } (wReplay action bseq) := by
  simp only [List.mem_cons, List.not_mem_nil, or_false] at h g
  rcases h with rfl | rfl | rfl <;> rcases g with rfl | rfl <;> exact ⟨by rfl, by rfl, Or.inl rfl, by rfl⟩

/-- A host write of function 0 on its way to a row. -/
def wHostQ : QEnt := { id := 9, host := true, pa := 0x1_9000, len := 1, ctx := some 0, va := 0, act := .write [1] }

/-- RTAIL is one past RHEAD. -/
theorem witness_Replays :
    (let s : State := { wS with m := (wS.physWrite 0x1_8028 8 1).m, ctxs := [(0, { wCtx with fq := 0x1_8000 })] }
     tget s.ctxs 0 = some { wCtx with fq := 0x1_8000 } ∧ wCtx.state = 0 ∧ wCtx.state ≠ 6 ∧ wCtx.replays.length < 64 ∧
     s.physNat (0x1_8000 + 44) 4 ≠ s.physNat (0x1_8000 + 40) 4) ∧
    wS.hostWrites 0 = false ∧ ({ wS with sw := { wS.sw with bankq := [wHostQ] } } : State).hostWrites 0 = true ∧
    ({ wCtx with replays := [wReplay 1 1] } : Ctx).dueReplay = some (wReplay 1 1) ∧
    wS.present ((0x1_8004 : DWord).toNat / 8 * 8) = true ∧ wS.memOk = true ∧ wS.unsettledOk = true ∧ 0xFFFF_FFFF < 256 ^ 4 :=
  ⟨⟨by rfl, by rfl, by decide, by decide, by decide +kernel⟩, by decide, by decide, by rfl, by decide, by decide, by decide, by decide⟩

theorem witness_ReplayActions :
    Due (wBatchS true [wReplay 1 1]) 0 (.replayRetry 0) { wCtx with fq := 0x1_8000, replays := [wReplay 1 1] } (wReplay 1 1) ∧
    ((wBatchS true [wReplay 1 1]).tr.batches.find? fun b => b.ctx == 0 && b.sent && b.bseq == (wReplay 1 1).bseq) =
      some (wBatch true) ∧
    Due (wBatchS true [wReplay 1 2]) 0 (.replayRetry 0) { wCtx with fq := 0x1_8000, replays := [wReplay 1 2] } (wReplay 1 2) ∧
    ((wBatchS true [wReplay 1 2]).tr.batches.find? fun b => b.ctx == 0 && b.sent && b.bseq == (wReplay 1 2).bseq) = none ∧
    (wReplay 1 1).rsvd = false ∧ (wBatchS true []).tr.slotWaits = [] ∧ (wBatch true).waiters.Nodup ∧
    Waiter.warp 1 ∈ (wBatch true).waiters ∧ (wBatchS true []).warp 1 = some { wW with fault := .waiting [0] [7] } ∧
    (wReplay 1 1).arg.testBit 0 = true ∧
    Due (wBatchS true [wReplay 2 1]) 0 (.replayInvalidateRange 0) { wCtx with fq := 0x1_8000, replays := [wReplay 2 1] }
      (wReplay 2 1) ∧
    Due (wBatchS true [wReplay 3 1]) 0 (.replayInvalidateContext 0) { wCtx with fq := 0x1_8000, replays := [wReplay 3 1] }
      (wReplay 3 1) :=
  ⟨wDueAt 1 1 (by decide) (by decide), by rfl, wDueAt 1 2 (by decide) (by decide), by decide, rfl, by rfl, by decide, by decide,
   by rfl, by decide, wDueAt 2 1 (by decide) (by decide), wDueAt 3 1 (by decide) (by decide)⟩

/-- A move of the page of 8 GiB at 0 to the frame at 8 GiB. -/
def wMigR : Replay := { wReplay 4 1 with addr := 0x10_0000, arg := 0x0002_0000_0000_0703 }

def wMigS : State := { wWalkS with ctxs := [(0, { wCtx with replays := [wMigR] })] }

theorem witness_Migrations :
    Due wMigS 0 (.replayMigrate 0) { wCtx with replays := [wMigR] } wMigR ∧
    (wMigS.dropReplay 0 wMigR).migrLeaf 0 wMigR = some (0x1_9000, 0x703, 33) ∧ wMigS.tr.migrs.length < 64 ∧ wMigR.retry ≠ 0 ∧
    leafTier 0x703 ≠ 1 ∧ leafTier wMigR.arg ≠ 1 :=
  ⟨⟨by rfl, by rfl, Or.inl rfl, by rfl⟩, by decide +kernel, by decide, by decide, by decide, by decide⟩

/-- A migration of the 64 KiB at 0x1_0000 to 0x4_0000, in the phase `p` with `n` attempts left. -/
def wMig (p n stamp : Nat) : Migr :=
  { id := 7, ctx := 0, va := 0x3_0000, lg := 16, leafAddr := 0x8_0000, oldLeaf := 0x0000_0001_0000_0703
    newLeaf := 0x0000_0004_0000_0703, bseq := 1, tries := n, phase := p, stamp := stamp, touched := false
    frames := [], newFrames := [] }

def wMigAt (m : Migr) : State := { wS with tr := { wS.tr with migrs := [m] } }

def wMigU (m : Migr) : State := ((wMigAt m).postPage m).pushPage m.oldLeaf.toNat m.lg

/-- The same migration, from another device's page whose lines have not been answered. -/
def wMigP : Migr := { wMig 1 1 0 with oldLeaf := 0x0000_0001_0010_9703 }

theorem witness_Migrations_copy : ((wMigAt (wMig 1 1 0)).migr 7 = some (wMig 1 1 0) ∧
    ∃ bs, (wMigAt (wMig 1 1 0)).migrSource (wMig 1 1 0) = some bs ∧
      ((wMigAt (wMig 1 1 0)).migrStore (wMig 1 1 0) bs).migr 7 = some (wMig 1 1 0)) ∧
    (wMigAt wMigP).migr 7 = some wMigP ∧ wMigP.phase = 1 ∧ (wMigAt wMigP).migrSource wMigP = none :=
  ⟨⟨by rfl, _, rfl, by decide +kernel⟩, by rfl, by rfl, by decide +kernel⟩

/-- The word's packet was written to the page before stamp 99; after stamp 0. -/
theorem witness_Migrations_test :
    (∀ m ∈ [wMig 2 1 99, wMig 2 2 0, wMig 2 1 0], (wMigAt m).migr 7 = some m ∧ m.phase = 2 ∧
      m.newLeaf.toNat / 2 ^ 11 % 4 ≠ 2 ∧ (wMigU m).migr 7 = some m) ∧
    (wMigU (wMig 2 1 99)).pageWritten (wMig 2 1 99) = false ∧ (wMigU (wMig 2 2 0)).pageWritten (wMig 2 2 0) = true ∧
    1 < (wMig 2 2 0).tries ∧ (wMigU (wMig 2 1 0)).pageWritten (wMig 2 1 0) = true ∧ (wMig 2 1 0).tries ≤ 1 :=
  ⟨by decide +kernel, by decide +kernel, by decide +kernel, by decide, by decide +kernel, by decide⟩

/-- Answers of another device to the first lines of a migration, that of line 0 an error. -/
def wLostN (n : Nat) (m : Migr) (write : Bool) : State :=
  { wMigAt m with descs := (List.range n).map fun i => (m.key write i, if i = 0 then [] else [0]) }

def wLost (m : Migr) (write : Bool) : State := wLostN 512 m write

theorem wLostN_answered (n : Nat) (m : Migr) (write : Bool) (h : m.lines = List.range n) :
    (wLostN n m write).migrAnswered m write = true := by
  unfold State.migrAnswered wLostN
  rw [h]
  simp only [List.all_eq_true, List.any_eq_true]
  exact fun i hi => ⟨_, List.mem_map_of_mem hi, beq_self_eq_true _⟩

theorem wLostN_lost (n : Nat) (m : Migr) (write : Bool) (hn : 0 < n) (h : m.lines = List.range n) :
    (wLostN n m write).migrLost m write = true := by
  unfold State.migrLost wLostN
  rw [h]
  simp only [List.any_eq_true]
  exact ⟨0, List.mem_range.2 hn, _, List.mem_map_of_mem (List.mem_range.2 hn), by simp⟩

theorem lines_64K (m : Migr) (h : m.size = 65536) : m.lines = List.range 512 := by rw [Migr.lines, h]

theorem wLost_answered (m : Migr) (write : Bool) (h : m.size = 65536) : (wLost m write).migrAnswered m write = true :=
  wLostN_answered 512 m write (lines_64K m h)

theorem wLost_lost (m : Migr) (write : Bool) (h : m.size = 65536) : (wLost m write).migrLost m write = true :=
  wLostN_lost 512 m write (by decide) (lines_64K m h)

theorem wLost_source (m : Migr) (h : m.size = 65536) (h2 : leafTier m.oldLeaf.toNat = 2) :
    ((wLost m false).migrSource m).isSome = true := by
  have ha := wLost_answered m false h
  revert ha
  generalize wLost m false = s
  intro ha
  simp only [State.migrSource, h2, ha, if_true, Option.isSome_some]

theorem witness_Migrations_lost :
    (∀ n ∈ [1, 2], let m := { wMigP with tries := n }
      (wLost m false).migr 7 = some m ∧ m.phase = 1 ∧ (wLost m false).migrLost m false = true ∧
      ((wLost m false).migrSource m).isSome = true) ∧
    (wMigAt (wMig 1 1 0)).migrLost (wMig 1 1 0) false = false ∧
    let m := { wMig 2 1 99 with newLeaf := 0x0000_0004_0010_9703 }
    (wLost m true).migr 7 = some m ∧ m.phase = 2 ∧ m.newLeaf.toNat / 2 ^ 11 % 4 = 2 ∧ (wLost m true).migrAnswered m true = true ∧
    (wLost m true).migrLost m true = true :=
  ⟨fun _ _ => ⟨by rfl, by rfl, wLost_lost _ _ (by rfl), wLost_source _ (by rfl) (by show leafTier wMigP.oldLeaf.toNat = 2; decide)⟩, by decide +kernel,
    by rfl, by rfl, by decide, wLost_answered _ _ (by rfl), wLost_lost _ _ (by rfl)⟩

/-! ### Pre-emption and the host -/

/-- The context in the state `st`, on its way to `goal`. -/
def wCtxAt (st goal : Nat) (dr : Bool) (rs : List Replay) : State :=
  { wThreads fun x => { x with inside := true } with
    ctxs := [(0, { wCtx with state := st, goal := goal, draining := dr, replays := rs })] }

theorem witness_Preempts :
    (let s := wCtxAt 0 0 false []
     tget s.ctxs 0 = some { wCtx with state := 0, goal := 0 } ∧ (0 : Nat) ≠ 4 ∧ tsorted s.teams = true ∧
     tget s.teams 1 = some wTeam ∧ wTeam.ctx = 0 ∧ (tget s.launches wTeam.launch).isSome = true ∧ wTeam.vals.det = false ∧
     s.teamInside wTeam = true ∧ s.team 1 = some wTeam) ∧
    tget (wCtxAt 1 2 false []).ctxs 0 = some { wCtx with state := 1, goal := 2 } :=
  ⟨⟨by rfl, by decide, by decide, by rfl, by rfl, by rfl, by rfl, by decide +kernel, by rfl⟩, by rfl⟩

/-- The context resumes, its event records pushed back, its saved teams `ts`. -/
def wPushed (ts : List (Team × List (Option Warp))) : State :=
  { wS with ctxs := [(0, { wCtx with state := 3, pushed := true })], saves := [(0, { blankSave with teams := ts })] }

theorem witness_Saves :
    (∀ p ∈ [(1, 2), (3, 4)], tget (wCtxAt p.1 p.2 true []).ctxs 0 = some { wCtx with state := p.1, goal := p.2, draining := true } ∧
      (p.1 = 1 ∨ (p.2 = 4 ∧ p.1 < 4))) ∧
    tget (wCtxAt 2 0 false []).ctxs 0 = some { wCtx with state := 2, goal := 0 } ∧
    tget (wCtxAt 3 0 false [wReplay 1 1]).ctxs 0 = some { wCtx with state := 3, goal := 0, replays := [wReplay 1 1] } ∧
    [wReplay 1 1] ≠ [] ∧ (0 : Nat) ≠ 4 ∧ wCtx.pushed = false ∧
    tget (wCtxAt 3 0 false []).ctxs 0 = some { wCtx with state := 3, goal := 0 } ∧
    (∀ ts ∈ [[], [(wTeam, [some wW])]], tget (wPushed ts).ctxs 0 = some { wCtx with state := 3, pushed := true } ∧
      ((wPushed ts).saved 0).teams = ts) ∧ tget (wPushed []).cores 0 = some blankCore := by
  refine ⟨?_, by rfl, by rfl, by simp, by decide, by rfl, by rfl, ?_, by rfl⟩
  rotate_left
  · intro ts h
    simp only [List.mem_cons, List.not_mem_nil, or_false] at h
    rcases h with rfl | rfl <;> exact ⟨by rfl, by rfl⟩
  intro p hp
  simp only [List.mem_cons, List.not_mem_nil, or_false] at hp
  rcases hp with rfl | rfl <;> exact ⟨by rfl, by decide⟩

theorem witness_Resets : tget (wCtxAt 4 0 false []).ctxs 0 = some { wCtx with state := 4, goal := 0 } ∧ 4 < 5 ∧
    tsorted (wCtxAt 4 0 false []).teams = true ∧ tget (wCtxAt 5 0 false []).ctxs 0 = some { wCtx with state := 5, goal := 0 } ∧
    (∀ n ∈ (wCtxAt 5 0 false []).nms, n.ctx ≠ 0) ∧ (wCtxAt 5 0 false []).pending = [] ∧
    ((wNm .fill [] []).ctx = 0 ∧ Instr.dcDecrement 0 3 0 ∈ ({ wS with pending := [.dcDecrement 0 3 0] } : State).pending) :=
  ⟨by rfl, by decide, by decide, by rfl, by decide, by decide, rfl, List.mem_singleton.2 rfl⟩

theorem witness_HostCommands :
    (tget (wCtxAt 6 0 false []).ctxs 0 = some { wCtx with state := 6, goal := 0 } ∧ (0x1_9000 : DWord).toNat % 256 = 0 ∧
      (wCtxAt 6 0 false []).present (0x1_9000 : DWord).toNat = true) ∧
    ((∃ x, tget wTaskS.ctxs 0 = some x ∧ x.state < 5 ∧ tget wTaskS.cores x.cccore = some blankCore) ∧ blankCore.ccWcb = 0 ∧
      (0x3_8000 : DWord) ≠ 0 ∧ ∃ t, wTaskS.checkWcb 0 (0x3_8000 : DWord).toNat false = .task t) ∧
    (let s : State := { wS with cores := [(0, { blankCore with ccWcb := 0x3_8000, ccCtx := 0, cc := some 9 })] }
     tget s.ctxs 0 = some { Ctx.reset with state := 0 } ∧ Ctx.reset.cccore = 0 ∧
     tget s.cores 0 = some { blankCore with ccWcb := 0x3_8000, ccCtx := 0, cc := some 9 } ∧ (0x3_8000 : Nat) ≠ 0) ∧
    tget ({ wS with cores := [] } : State).cores Ctx.reset.cccore = none ∧
    (let s : State := { wS with cores := [(0, { blankCore with ccWcb := 0x3_8000, ccCtx := 5, cc := some 9 })] }
     tget s.cores Ctx.reset.cccore = some { blankCore with ccWcb := 0x3_8000, ccCtx := 5, cc := some 9 } ∧ (5 : Nat) ≠ 0) :=
  ⟨⟨by rfl, by decide, by decide⟩, ⟨⟨_, rfl, by decide, by rfl⟩, by rfl, by decide, task_of (by decide +kernel)⟩,
   ⟨by rfl, by rfl, by rfl, by decide⟩, by rfl, by rfl, by decide⟩

/-- The doorbell of queue 0: its TAIL is 1 and its HEAD 0, and its ring has one place. -/
theorem witness_HostCommands_doorbell :
    (∃ x a, tget wTaskS.ctxs 0 = some x ∧ x.state ≠ 6 ∧ x.qwcb[0]? = some a ∧ a ≠ 0 ∧
      (wTaskS.readWcb 0 a).isSome = true ∧ (wTaskS.peekPa 0 a).isSome = true) ∧
    (let w := (wTaskS.readWcb 0 0x3_B000).getD 0
     let tail := w / 2 ^ 1664 % 2 ^ 32
     let head := w / 2 ^ 1632 % 2 ^ 32
     let ok (v : Word) : Bool := (v.toNat + 2 ^ 32 - tail) % 2 ^ 32 < 2 ^ 31 &&
       (v.toNat + 2 ^ 32 - head) % 2 ^ 32 ≤ 2 ^ (w / 2 ^ 1600 % 256)
     ok 1 = true ∧ ok 2 = false) :=
  ⟨⟨_, _, rfl, by decide, rfl, by decide, by decide +kernel, by decide +kernel⟩, by decide +kernel⟩

theorem witness_HostRegisters : tget wWalkS.ctxs 0 = some wCtx ∧ (3 : Nat) < 4 ∧ (0xFFFF_FFFF : DWord).toNat < 2 ^ 32 ∧
    (8 : DWord).toNat % 8 = 0 ∧ (0x800F_FFFF : DWord).toNat < 2 ^ 32 ∧ (0x800F_FFFF : DWord).toNat / 2 ^ 20 % 2 ^ 11 = 0 ∧ (7 : Nat) < 8 ∧
    (47 : DWord).toNat < 48 := ⟨by rfl, by decide, by decide, by decide, by decide, by decide, by decide, by decide⟩

theorem witness_HostLinks :
    wS.hl.up.length = 2 ∧ wS.mg.offLinks = false ∧
    ({ wS with mg := { wS.mg with offLinks := true } } : State).mg.offLinks = true ∧
    (let s : State := { wS with hl := { wS.hl with pri := [(1, some 5, 3)] } }
     ((1, some 5, 3) : Nat × Option (BitVec 20) × Nat) ∈ s.hl.pri) ∧
    wS.reachable 0x1_9000 2 = true ∧ wS.reachable (2 ^ 50) 2 = false ∧
    (∀ r ∈ rowsOf 0x1_9000 ([1, 2] : List Byte).length, wS.swRow r = false) ∧ ∀ r ∈ rowsOf 0x1_9000 4, wS.swRow r = false := by
  refine ⟨by decide, by decide, by decide, by simp, by decide, by decide, by decide +kernel, by decide +kernel⟩

/-- What the host has answered for block 3; with helper 0's store to it in its chunk buffer. -/
def wXlat (h : Helper) : State :=
  { wRS { wRec with helpers := [h] } with hl := { wS.hl with xlats := [{ link := 1, pasid := none, frame := 3, host := 9, perm := 3 }] } }

theorem witness_HostLinks_ats :
    (let s := wXlat { wHelper with buf := [{ loc := .host 0 (9 * 65536), va := 0x5_0000, bytes := [some 1], pair := false }] }
     s.m.tbuf = [] ∧ (∃ e ∈ s.postHost.hl.xlats, e.of (1, none, 3) = true ∧ s.postHost.heldHost none e.host = true)) ∧
    (wXlat wHelper).postHost.heldHost none 9 = false ∧
    (wS.hl.up[0]? ≠ some true ∧ ({ wS with hl := { wS.hl with up := [true, true] } } : State).hl.up[0]? = some true) ∧
    (aerBits 3).getLsbD 0 = true ∧ (aerBits 0).getLsbD 4 = true ∧ (0, 63, 9) ≠ (1, 63, 9) :=
  ⟨⟨by rfl, _, List.mem_cons_self, by decide, by decide⟩, by decide, by decide, by decide, by decide, by decide⟩

theorem witness_BarAccesses : tget wWalkS.ctxs 63 = none ∧ tget wWalkS.ctxs 0 = some wCtx ∧ (0xFFFF_FFFF : Nat) < 2 ^ 32 ∧
    (tget State.reset.ctxs 63).isSome = true := ⟨by rfl, by rfl, by decide, by decide +kernel⟩

/-! ### Skovlink and the management controller -/

def wSk (p : Port) (held resps : List Msg) (reqs : List SkReq) : State :=
  { wS with
    sk := { wS.sk with
      ports := [p, Port.reset], routes := [(3, 1)], held := held, resps := resps, reqs := reqs, seqIn := [(3, 0xFFFF)] } }

/-- A flit with one byte of payload, and that flit as its bytes give it back. -/
def wFlit (type : Byte) (lseq : BitVec 12) : Flit := { type := type, ack := 0, lseq := lseq, payload := [5] }

def wFlitOf (type : Byte) (lseq : BitVec 12) : Flit := { wFlit type lseq with payload := 5 :: List.replicate 239 0 }

theorem wFlit_read (f g : Flit) (n : f.body.length = 248)
    (h : (let v := leNat (f.body.take 4)
      ({ type := BitVec.ofNat 8 (bits v 31 24), ack := BitVec.ofNat 12 (bits v 23 12), lseq := BitVec.ofNat 12 (bits v 11 0)
         payload := (f.body.drop 4).take 240 } : Flit)) = g) : flitOf f.bytes = some g := by
  have e : ∀ x, (leBytes 8 x).length = 8 := fun _ => rfl
  have t : f.bytes.take 248 = f.body := by rw [Flit.bytes, ← n, List.take_left]
  have d : f.bytes.drop 248 = leBytes 8 (Config.crc64 f.body).toNat := by rw [Flit.bytes, ← n, List.drop_left]
  have l : f.bytes.length = 256 := by rw [Flit.bytes, List.length_append, n, e]
  have a : f.bytes.take 4 = f.body.take 4 := by rw [Flit.bytes, List.take_append_of_le_length (by omega)]
  have b : (f.bytes.drop 4).take 240 = (f.body.drop 4).take 240 := by
    rw [Flit.bytes, List.drop_append_of_le_length (by omega), List.take_append_of_le_length (by simp [n])]
  rw [← h]
  simp only [flitOf, l, t, d, a, b, and_self, if_true]

theorem witness_FlitBytes : (wFlit 1 0).payload.length ≤ 240 ∧
    (∃ bs : List Byte, bs.length = 256 ∧ bs.drop 248 ≠ leBytes 8 (Config.crc64 (bs.take 248)).toNat) := by
  refine ⟨by decide, ?_⟩
  let a : List Byte := List.replicate 256 0
  let b : List Byte := List.replicate 248 0 ++ 1 :: List.replicate 7 0
  have ht : a.take 248 = b.take 248 := by decide +kernel
  have hd : a.drop 248 ≠ b.drop 248 := by decide +kernel
  by_cases h : a.drop 248 = leBytes 8 (Config.crc64 (a.take 248)).toNat
  · exact ⟨b, by decide +kernel, fun hb => hd (by rw [h, hb, ht])⟩
  · exact ⟨a, by decide +kernel, h⟩

theorem witness_Flits :
    (wPort.wait = [] ∧ wPort.replay.length < 512 ∧ wPort.replay.length ≤ 512 ∧
      ({ wPort with wait := [([5], [])] } : Port).wait ≠ []) ∧
    (∀ f ∈ [0, 7, 8], (wSk { wPort with fails := f } [] [] []).sk.ports[0]? = some { wPort with fails := f }) ∧ wPort.up = true ∧
    flitOf [] = none ∧ flitOf (wFlit 1 0).bytes = some (wFlitOf 1 0) ∧ flitOf (wFlit 2 0).bytes = some (wFlitOf 2 0) ∧
    (wFlitOf 1 0).type = 1 ∧ (wFlitOf 1 0).lseq = wPort.rxSeq + 1 ∧ (wFlitOf 2 0).type = 2 ∧
    (∀ g ∈ [(wFlit 1 5, ([] : List Msg))], 2048 ≤ ((wFlitOf 2 0).ack - g.1.lseq).toNat) ∧
    (wSk wPort [] [] []).sk.ports[1]? = some Port.reset ∧ Port.reset.up = false :=
  ⟨by decide, by decide, by rfl, by rfl, wFlit_read _ _ (by decide +kernel) (by decide +kernel),
   wFlit_read _ _ (by decide +kernel) (by decide +kernel), by rfl, by decide, by rfl,
   by decide, by rfl, by rfl⟩

def wMsg (op : Byte) (sseq : Nat) (data : List Byte) : Msg :=
  { paddr := 0x1_9000, tag := 5, sseq := sseq, dst := 0, src := 3, scope := 9, order := 0, atop := 0, w64 := false
    size := 4, status := 0, op := op, data := data }

theorem witness_FlitBytes_message : ∀ m ∈ [wMsg 0 1 [], wMsg 1 1 [1, 2, 3, 4]], m.paddr < 2 ^ 39 ∧ m.tag < 2 ^ 12 ∧
    m.sseq < 2 ^ 16 ∧ m.dst < 256 ∧ m.src < 256 ∧ m.size < 2 ^ 18 ∧ 0 < m.size ∧ m.size ≤ 256 ∧
    m.data.length = (if m.op = 0 then 0 else m.size) := by decide

theorem witness_Flits_arrive : (wMsg 0 1 []).op ≠ 3 ∧ (wMsg 0 1 []).op.toNat ≤ 4 ∧
    ((wMsg 0 1 []).sseq + 65536 - (tget (wSk wPort [] [] []).sk.seqIn 3).getD 0) % 65536 < 32768 ∧
    ∀ h ∈ (wSk wPort [] [] []).sk.held, h.src ≠ 3 ∨ h.sseq ≠ 1 := by decide

/-- The request that is next in device 3's stream, at the end of the count. -/
theorem wNext (m : Msg) (h : m ∈ [wMsg 0 0xFFFF [], wMsg 1 0xFFFF [1, 2, 3, 4], wMsg 4 0xFFFF [1, 2, 3, 4],
    wMsg 2 0xFFFF [1, 2, 3, 4, 5, 6, 7, 8]]) : ∃ u, NextRequest (wSk wPort [m] [] []) 3 (msgEvent m) m u := by
  simp only [List.mem_cons, List.not_mem_nil, or_false] at h
  rcases h with rfl | rfl | rfl | rfl <;> exact ⟨_, by rfl, by rfl, by rfl, rfl⟩

theorem witness_Requests :
    (∀ m ∈ (wSk wPort [wMsg 0 1 []] [] []).sk.held, m.src = 3 → m.sseq ≠ (tget (wSk wPort [] [] []).sk.seqIn 3).getD 0) ∧
    msgEvent (wMsg 0 0 []) = .skovRead 3 ∧ msgEvent (wMsg 1 0 []) = .skovWrite 3 ∧ msgEvent (wMsg 4 0 []) = .skovBulkWrite 3 ∧
    msgEvent (wMsg 2 0 []) = .skovAtomic 3 ∧ wS.present 0x1_9000 = true ∧ wS.m.ue = [] ∧
    (∀ r ∈ rowsOf 0x1_9000 4, wS.swRow r = false) ∧ wS.swRow (0x1_9000 / 1024) = false ∧ (wMsg 2 0 []).atop ≠ 15 ∧
    (wSk wPort [] [] []).skPort 3 0x1_9000 = some 0 :=
  ⟨by decide, by rfl, by rfl, by rfl, by rfl, by decide, by decide, by decide +kernel, by decide +kernel, by decide, by decide +kernel⟩

/-- A message to the last bytes of the fourth stack and past it. -/
def wAbsent (op : Byte) (data : List Byte) : Msg := { wMsg op 0xFFFF data with paddr := 2 ^ 39 - 2 }

theorem witness_Requests_absent : (∀ m ∈ [wAbsent 0 [], wAbsent 1 [1, 2, 3, 4], wAbsent 4 [1, 2, 3, 4], wAbsent 2 [1, 2, 3, 4]],
      (∃ u, NextRequest (wSk wPort [m] [] []) 3 (msgEvent m) m u) ∧ (wSk wPort [m] [] []).presentAll m.paddr 4 = false) ∧
    (wSk wPort [] [] []).presentAll 0x1_9000 256 = true := by
  refine ⟨fun m h => ?_, by decide⟩
  simp only [List.mem_cons, List.not_mem_nil, or_false] at h
  rcases h with rfl | rfl | rfl | rfl <;> exact ⟨⟨_, by rfl, by rfl, by rfl, rfl⟩, by decide⟩

def wSkReq (who : SkWho) : SkReq := { tag := 5, dst := 3, ctx := 0, va := 0x5_0000, pa := 0x1_9000, who := who, stamp := 0 }

theorem witness_Responses :
    (∀ who ∈ [SkWho.part 7 0 0, .store 7 1 0, .desc (2 ^ 100 + 0x3_8000)],
      ((wSk wPort [] [wMsg 3 0 [1, 2, 3, 4]] [wSkReq who]).sk.resps.find? fun m => m.src == 3) = some (wMsg 3 0 [1, 2, 3, 4]) ∧
      ((wSk wPort [] [wMsg 3 0 [1, 2, 3, 4]] [wSkReq who]).sk.reqs.find? fun r => r.dst == 3 && r.tag == 5) = some (wSkReq who)) ∧
    (wOp (wDone .load)).op 7 = some (wDone .load) ∧ ((wDone .load).parts.find? fun p => p.lane == 0).isSome = true ∧
    (wOp (wDone .load)).warp (wDone .load).warp = some wW ∧ (wMsg 3 0 [1, 2, 3, 4]).status = 0 ∧ (wMsg 3 0 [1, 2, 3, 4]).data ≠ [] ∧
    ({ wMsg 3 0 [] with status := 3 } : Msg).status ≠ 0 ∧ 2 ^ 100 + 0x3_8000 < 2 ^ 200 :=
  ⟨by decide, by rfl, by decide, by rfl, by rfl, by decide, by decide, by decide⟩

def wBoot (running : Option (Nat × Nat)) (todo : List Nat) : State :=
  { wS with mg := { wS.mg with running := running, todo := todo } }

theorem witness_BringUp :
    wS.mg.boot = [] ∧
    (∀ st ∈ [1, 9, 0x13], (wBoot (some (st, 10)) [0x08]).mg.running = some (st, 10) ∧
      (wBoot (some (st, 10)) [0x08]).mg.todo = [0x08] ∧ (wBoot (some (st, 10)) []).mg.todo = [] ∧ 0x08 ≠ st ∧ st < 256) ∧
    stepField 0x08 < wS.mg.fence ∧ wS.mg.rate 0x08 = some 10 ∧
    (2 ≤ 9 ∧ 9 ≤ 9 ∧ 6 < 10) ∧ (wBoot (some (9, 6)) []).mg.running = some (9, 6) ∧
    (∀ p ∈ ([(1, 0), (2, 10), (2, 8), (2, 6)] : List (Byte × Byte)),
      let r : BootRec := { seq := 1, rate := p.2, cores := 0, outcome := p.1, step := 7 }
      ({ MgmtSt.reset with boot := [r.bits] } : MgmtSt).latest 7 = some r ∧ r.outcome = p.1 ∧ r.rate = p.2) :=
  ⟨by rfl, by decide, by decide, by decide, by decide, by rfl, by
    intro p hp
    simp only [List.mem_cons, List.not_mem_nil, or_false] at hp
    rcases hp with rfl | rfl | rfl | rfl <;> exact ⟨by rfl, rfl, rfl⟩⟩

theorem witness_Management :
    wS.mg.current[3]? = some 0 ∧ wS.mg.fldlim[3]? = some 7600 ∧ wS.mg.clock[3]? = some 2400 ∧ 1024 ≤ wS.mg.actcap ∧
    (7600 : Nat) < 7601 ∧ (7125 ≤ 7600 ∧ 15 * 7600 ≤ 16 * 7125) ∧ 16 * 7124 < 15 * 7600 ∧
    (wS.mg.pkglim ≤ 27000 + 1000 ∧ 23200 + 0 + 4800 ≤ wS.mg.pkglim) ∧ (3 < 4 ∨ 16 ≤ 3 ∧ 3 < 24) ∧ (23 < 4 ∨ 16 ≤ 23 ∧ 23 < 24) ∧
    255 / 32 < 2 * wS.mg.fence ∧ (wS.sw.bankq.filter fun e => bankChannel (rowBank (e.pa / 1024)) == 255).length < 4 ∧
    wS.nextScrub 255 1 ((tget wS.mg.scrub 255).getD 0) = some 0 ∧ wS.present 0x1_9000 = true := by
  decide +kernel

theorem nextScrub_here {s : State} {ch k n : Nat}
    (h : (s.bankRegion (scrubRow ch (n % 2 ^ 21))).isNone ∧ s.liveRow (scrubRow ch (n % 2 ^ 21)) = true) :
    s.nextScrub ch (k + 1) n = some (n % 2 ^ 21) := if_pos h

theorem witness_Management_scrub : ∃ n, wS.nextScrub 255 (2 ^ 21) ((tget wS.mg.scrub 255).getD 0) = some n :=
  ⟨_, nextScrub_here (k := 2097151) (n := 0) (by decide +kernel)⟩

/-! ### Encoding, steps, checks -/

theorem witness_EncodedWordsDecode : (Instr.iadd ⟨3, 0, 1, 2, 5⟩).WellFormed := by
  unfold Instr.WellFormed
  decide

theorem witness_DecodedWordsEncode : decodeWord (0b1_000000_0000011_00_0000001_10_0000101#32) = .ok (.iadd ⟨3, 0, 1, 2, 5⟩) ∧
    0x3A ≤ ((0b0_111010_0000000000000000000000000#32).extractLsb' 25 6).toNat ∧
    ((0b0_111101_0000000000000000000000000#32).extractLsb' 25 6).toNat ≤ 0x3D := ⟨by rfl, by decide, by decide⟩

/-- A word placed where the next step fetches it, and what is fetched there. -/
def wStepI : Issue := blankIssue 1 .thread (List.range 32) 4

def wStepS (w : Word) : State := State.reset.place w

def wFetch (w : Word) : Got × List Word × State :=
  ({ wStepS w with iss := some wStepI } : State).fetchFrom 1 0 0 (0x3_0000 + 12 * 0) wStepI.lowest (3 - 1) 1 []

theorem fetch_of {p : Got × List Word × State} (h : (match p.1 with | .word _ => true | _ => false) = true) :
    ∃ g, p = (.word g, p.2.1, p.2.2) := by
  obtain ⟨f, l, s⟩ := p
  cases f with
  | word g => exact ⟨g, rfl⟩
  | _ => cases h

/-- IADD v3, v1, v2; and IADD v3, v1, v64, whose last register the warp does not hold. -/
def wIadd : Word := 0b0_000000_0000011_00_0000001_00_0000010#32
def wIaddX : Word := 0b0_000000_0000011_00_0000001_00_1000000#32
def wNothing : Word := 0b0_111010_0000000000000000000000000#32

/-- PFXLOOK and NMC with odd pairs. -/
def wKvOdd : Word := 0x6C00_D418
def wNmcOdd : Word := 0x6E00_D400

def wPre (w : Word) : State := { (wFetch w).2.2 with iss := some wStepI }

def wStart (w : Word) : State :=
  ((wPre w).setPcs wStepI (12 * (4 / 12) + 4 * (1 + 1))).modIss fun j => { j with slot := 1, lit := (wFetch w).2.1.getD 1 0 }

theorem wFetched : ∀ w ∈ [wIadd, wIaddX, wNothing, wKvOdd, wNmcOdd], ∃ g, wFetch w = (.word g, (wFetch w).2.1, (wFetch w).2.2) := by
  intro w hw
  simp only [List.mem_cons, List.not_mem_nil, or_false] at hw
  rcases hw with rfl | rfl | rfl | rfl | rfl <;> exact fetch_of (by decide +kernel)

theorem wOdd_decode : decodeWord wNothing = .error .reservedMajor ∧ DecodeErr.reservedMajor.code ≤ 3 ∧
    decodeWord wKvOdd = .error .reservedField ∧ (wKvOdd.extractLsb' 25 6).toNat = 0x36 ∧
    decodeWord wNmcOdd = .error .reservedField ∧ (wNmcOdd.extractLsb' 25 6).toNat = 0x37 ∧ wNmcOdd.extractLsb' 21 4 = 0 ∧
    DecodeErr.reservedField.code = 3 := by
  refine ⟨by rfl, by decide, by rfl, by decide, by rfl, by decide, by decide, by decide⟩

theorem wOdd_fetched : ∀ w ∈ [wNothing, wKvOdd, wNmcOdd], (wFetch w).2.1.getD 0 0 = w ∧ badEntry wStepI (wordWarp 4) wordTeam w = false ∧
    badHandler wStepI (wordWarp 4) wordTeam w = false ∧ (wStepS w).waitsMet wStepI = true ∧ w.getLsbD 31 = false ∧
    (w.extractLsb' 25 6).toNat < 0x3E ∧ List.range 32 ≠ [] := by
  intro w hw
  simp only [List.mem_cons, List.not_mem_nil, or_false] at hw
  rcases hw with rfl | rfl | rfl <;>
    exact ⟨by decide +kernel, by decide +kernel, by decide +kernel, by decide +kernel, by decide, by decide, by decide⟩

theorem exec_iadd (f : FmtA) (s : State) : exec (.iadd f) s = .next (run (.iadd f) s) := rfl

theorem witness_StepsRunDecodedWords :
    (State.reset.agenda = [.bringup] ∧ (wStepS wIadd).agenda = [] ∧ (wStepS wIadd).warp 1 = some (wordWarp 4) ∧
     (wStepS wIadd).teamOf 1 = some wordTeam ∧ 4 / 12 < wordTeam.vals.codelen) ∧
    (∀ p ∈ [(wIadd, Instr.iadd ⟨3, 0, 1, 0, 2⟩), (wIaddX, Instr.iadd ⟨3, 0, 1, 0, 64⟩)], (wFetch p.1).2.1.getD 0 0 = p.1 ∧
      (wStepS p.1).waitsMet wStepI = true ∧ badEntry wStepI (wordWarp 4) wordTeam p.1 = false ∧
      badHandler wStepI (wordWarp 4) wordTeam p.1 = false ∧
      (wPre p.1).regsFree wStepI ((usesOf p.2 none false).reaches (reachOf (List.range 32))) = true ∧
      (wPre p.1).entriesOf wStepI p.2 = [] ∧ ((wPre p.1).warp 1).isSome = true ∧ (wordWarp 4).kind = .normal) ∧
    (∀ s : State, s.lookEntries wStepI (wordWarp 4) wordTeam [] = (.word 0, s)) ∧
    (Alone wIadd false (.iadd ⟨3, 0, 1, 0, 2⟩) ∧ Alone wIaddX false (.iadd ⟨3, 0, 1, 0, 64⟩)) ∧
    (∃ u j, exec (.iadd ⟨3, 0, 1, 0, 2⟩) (wStart wIadd) = .next u ∧ u.iss = some j ∧ j.trap = none ∧ j.faults = [] ∧
      j.stalled = false) ∧
    (∃ u j r, exec (.iadd ⟨3, 0, 1, 0, 64⟩) (wStart wIaddX) = .next u ∧ u.iss = some j ∧ j.trap = some r) ∧
    (∀ w ∈ [wNothing, wKvOdd, wNmcOdd], (wFetch w).2.1.getD 0 0 = w ∧ badEntry wStepI (wordWarp 4) wordTeam w = false ∧
      badHandler wStepI (wordWarp 4) wordTeam w = false ∧ (wStepS w).waitsMet wStepI = true ∧ w.getLsbD 31 = false ∧
      (w.extractLsb' 25 6).toNat < 0x3E ∧ List.range 32 ≠ []) ∧
    (decodeWord wNothing = .error .reservedMajor ∧ DecodeErr.reservedMajor.code ≤ 3 ∧
     decodeWord wKvOdd = .error .reservedField ∧ (wKvOdd.extractLsb' 25 6).toNat = 0x36 ∧
     decodeWord wNmcOdd = .error .reservedField ∧ (wNmcOdd.extractLsb' 25 6).toNat = 0x37 ∧ wNmcOdd.extractLsb' 21 4 = 0 ∧
     DecodeErr.reservedField.code = 3) := by
  refine ⟨⟨by rfl, by rfl, by rfl, by rfl, by decide⟩, by decide +kernel, fun _ => rfl,
    ⟨⟨by decide, by decide, by rfl, by decide, by decide, by decide⟩, ⟨by decide, by decide, by rfl, by decide, by decide, by decide⟩⟩,
    ?_, ?_, wOdd_fetched, wOdd_decode⟩
  · have h : (match (run (.iadd ⟨3, 0, 1, 0, 2⟩) (wStart wIadd)).iss with
      | some j => j.trap.isNone && j.faults.isEmpty && !j.stalled
      | none => false) = true := by decide +kernel
    split at h
    · rename_i j hj
      simp only [Bool.and_eq_true, Option.isNone_iff_eq_none, List.isEmpty_iff, Bool.not_eq_true'] at h
      exact ⟨_, j, exec_iadd _ _, hj, h.1.1, h.1.2, h.2⟩
    · cases h
  · have h : (match (run (.iadd ⟨3, 0, 1, 0, 64⟩) (wStart wIaddX)).iss with
      | some j => j.trap.isSome
      | none => false) = true := by decide +kernel
    split at h
    · rename_i j hj
      obtain ⟨r, hr⟩ := Option.isSome_iff_exists.1 h
      exact ⟨_, j, r, exec_iadd _ _, hj, hr⟩
    · cases h

def wSel : State := (wStepS wIadd).modSched 0 fun x => { x with cycle := x.cycle + 1, sel := [] }

/-- No context waits to be pre-empted. -/
theorem wSel_polled : ((wStepS wIadd).ctxs.filter fun e => e.2.state == 1).foldl (fun s e => s.preemptPoll e.1) wSel = wSel := by rfl

theorem witness_SchedulersSelect :
    tget (wStepS wIadd).scheds 0 = some blankSched ∧ blankSched.sel = [] ∧ (∀ e ∈ (wStepS wIadd).teams, e.2.det = none) ∧
    (∃ cls rest, wSel.rotation 0 blankSched = (cls, 2 * 1) :: rest) ∧ wSel.warp 1 = some (wordWarp 4) ∧
    wSel.teamOf 1 = some wordTeam ∧ wSel.mayIssue (wordWarp 4) wordTeam = true ∧ (wordWarp 4).fault = .none ∧
    (wordWarp 4).dcPending = false ∧
    (∃ c cs, rankCands (wSel.warpCands 1 (wordWarp 4)) = c :: cs ∧
      ∃ v, wSel.issueWith run 1 .thread c.lanes c.pc true = (true, v)) ∧
    ∃ c, c ∈ wSel.warpCands 1 (wordWarp 4) := by
  have h1 : ((wSel.rotation 0 blankSched).head?.map (·.2)) = some 2 := by decide +kernel
  have h2 : ((rankCands (wSel.warpCands 1 (wordWarp 4))).head?.map fun c =>
    (wSel.issueWith run 1 .thread c.lanes c.pc true).1) = some true := by decide +kernel
  have h3 : (wSel.warpCands 1 (wordWarp 4)).isEmpty = false := by decide +kernel
  refine ⟨by rfl, by rfl, by decide, ?_, by rfl, by rfl, by decide +kernel, by rfl, by rfl, ?_, ?_⟩
  · cases h : wSel.rotation 0 blankSched with
    | nil => rw [h] at h1; cases h1
    | cons a l => rw [h] at h1; exact ⟨a.1, l, congrArg (· :: l) (Prod.ext rfl (Option.some.inj h1))⟩
  · cases h : rankCands (wSel.warpCands 1 (wordWarp 4)) with
    | nil => rw [h] at h2; cases h2
    | cons c l => rw [h] at h2; exact ⟨c, l, rfl, _, Prod.ext (Option.some.inj h2) rfl⟩
  · cases h : wSel.warpCands 1 (wordWarp 4) with
    | nil => rw [h] at h3; cases h3
    | cons c l => exact ⟨c, List.mem_cons_self⟩

/-- The page at 0x5_0000 is KVP memory. -/
def wKvpS : State := { wS with tr := { wS.tr with tlb := [{ wSwLeaf with leaf := 0x2_0000_4303 }] } }

/-- A deterministic team with a read-only range of 4 KiB. -/
def wRangeT : Team := { wDetT with vals := { wDetT.vals with ranges := [{ kind := 2, stride := 0, size := 0x1000, base := 0x5_0000 }] } }

theorem witness_AccessChecks :
    (0x01FF_FFFF_FFFF_FFFF < 0x0200_0000_0000_0000 ∧ 0xFBFF_FFFF_FFFF_FFFF < 0xFC00_0000_0000_0000) ∧
    (2 ^ 20 - 16 < 2 ^ 20 ∧ wordTeam.vals.grant = false) ∧ (0x01FF_FFFF_FFFF_FFFF % 2 ≠ 0) ∧
    (2 ^ 21 - 16 < 2 ^ 56 ∧ (2 ^ 21 - 16) % 16 = 0 ∧ wVals.spbytes < 2 ^ 21 - 16 + 16) ∧
    (0x5_0010 ≤ 0x01FF_FFFF_FFFF_FFFF ∧ 0x5_0010 % 16 = 0 ∧ wKvpS.kvpPage (.core wW.core) wTeam.ctx 0x5_0010 = true) ∧
    (2048 < wVals.stkstride ∧ wVals.stkstride ≤ 2 ^ 56 ∧ 2032 % 8 = 0 ∧ 2032 + 8 ≤ 2040 ∧ 2048 % 8 = 0 ∧
      wKvpS.kvpPage (.core wW.core) wTeam.ctx ((wKvpS.stackBase wW 24 + 2032) % 2 ^ 64) = true ∧
      wKvpS.kvpPage (.core wW.core) wTeam.ctx ((wKvpS.stackBase wW 24 + 2048) % 2 ^ 64) = true) ∧
    (∃ g ∈ wRangeT.vals.ranges, g.kind = 2 ∧ wRangeT.vals.det = true ∧ 0x5_0FF0 % 16 = 0 ∧ g.base ≤ 0x5_0FF0 ∧ 0x5_0FF0 < g.base + g.size) ∧
    wS.warp wI.warp = some wW ∧ wS.teamOf wI.warp = some wTeam ∧ wW.failed = [] ∧
    (wS.accessTrap wW wTeam false 16 false false [(0, 0x3_8008)]).isSome = true ∧
    (wS.accessTrap wW wTeam false 16 false false [(0, 0x9_0000)]).isNone = true ∧
    (wS.locate wW wTeam .load [(0, 0x9_0000)]).2.1 ≠ [] := by
  refine ⟨by decide, by decide, by decide, by decide, ⟨by decide, by decide, by decide +kernel⟩, by decide +kernel, by decide,
    by rfl, by rfl, by rfl,
    by decide +kernel, by decide +kernel, by decide +kernel⟩

/-- What hides v1 of thread 0 from its warp: the value before the writes of command 60, which has completed, and of `id`. -/
def wShadow (id : Nat) : State :=
  { wCopyS with
    copies := [{ wCopyC 0x10 [0] with id := 61 }]
    reg := { wS.reg with shadow := [(4 * (wW.vkey 0 1).getD 0, [(5, 60), (6, id)])] } }

theorem witness_AcquiresDrop : 5 ≤ 9 ∧ 0x1_9000 < 2 ^ 50 ∧
    ∀ id ∈ [60, 61], tsorted (wShadow id).reg.shadow = true ∧ (wShadow id).warp 1 = some wW ∧
      wW.ownsKey (4 * (wW.vkey 0 1).getD 0 / 4) = true ∧ (∀ c ∈ (wShadow id).copies, c.id ≠ 60) ∧
      ((∀ c ∈ (wShadow id).copies, c.id ≠ id) ∨ ∃ c ∈ (wShadow id).copies, c.id = id) ∧ wW.ownsKey (131072 * 99) = false := by
  refine ⟨by decide, by decide, fun id h => ?_⟩
  simp only [List.mem_cons, List.not_mem_nil, or_false] at h
  rcases h with rfl | rfl
  · exact ⟨by decide, by rfl, by decide, by decide, .inl (by decide), by decide⟩
  · exact ⟨by decide, by rfl, by decide, by decide, .inr ⟨_, List.mem_singleton.2 rfl, rfl⟩, by decide⟩

theorem witness_MemoryStaysCanonical : wS.memOk = true ∧ ∃ t, step wS = .next t := ⟨by decide, _, rfl⟩

end Sys2Proof.Tests
end

