-- ==== Sys2Proof/Tests/Slice0.lean ====
section
/-! SUPPORT. Tests: words written out from the encodings decode to their instructions, ill-formed instructions and words are
refused, and single steps give what the spec's rules and published vectors give. -/

namespace Sys2Proof.Tests

set_option Elab.async false

open Sys2Proof Sys2Proof.Machine

/-! ### Decoding -/

/-- One word of each of the integer words (Format A, R80, R109), written out field by field from its row of the encoding. -/
theorem test_decode_iadd :
    ([0b0_000000_0000100_01_0001000_10_0001100,
      0b1_000001_0000100_01_0001000_10_0001100,
      0b0_000010_0000100_01_0001000_10_0001100,
      0b1_000011_0000100_01_0001000_10_0001100,
      0b0_000100_0000100_01_0001000_10_0001100,
      0b1_000101_0000100_01_0001000_10_0001100,
      0b0_000110_0000100_01_0001000_10_0001100,
      0b1_000111_0000100_01_0001000_10_0001100,
      0b0_001000_0000100_01_0001000_10_0001100,
      0b1_001001_0000100_01_0001000_10_0001100,
      0b0_001010_0000100_01_0001000_10_0001100,
      0b1_001011_0000100_01_0001000_10_0001100,
      0b0_001100_0000100_01_0001000_10_0001100,
      0b1_001101_0000100_01_0001000_10_0001100,
      0b0_001110_0000100_01_0001000_10_0001100,
      0b1_001111_0000100_01_0001000_10_0001100,
      0b0_010000_0000100_01_0001000_10_0001100,
      0b1_010001_0000100_01_0001000_10_0001100,
      0b0_010010_0000100_01_0001000_10_0001100,
      0b1_010011_0000100_01_0001000_10_0001100,
      0b0_010100_0000100_01_0001000_10_0001100,
      0b1_010101_0000100_01_0001000_10_0001100] : List Word).map decodeWord =
    [.ok (.iadd ⟨4, 1, 8, 2, 12⟩),
      .ok (.isub ⟨4, 1, 8, 2, 12⟩),
      .ok (.imul ⟨4, 1, 8, 2, 12⟩),
      .ok (.imulhs ⟨4, 1, 8, 2, 12⟩),
      .ok (.imulhn ⟨4, 1, 8, 2, 12⟩),
      .ok (.imad ⟨4, 1, 8, 2, 12⟩),
      .ok (.imins ⟨4, 1, 8, 2, 12⟩),
      .ok (.iminn ⟨4, 1, 8, 2, 12⟩),
      .ok (.imaxs ⟨4, 1, 8, 2, 12⟩),
      .ok (.imaxn ⟨4, 1, 8, 2, 12⟩),
      .ok (.iaddsat ⟨4, 1, 8, 2, 12⟩),
      .ok (.isubsat ⟨4, 1, 8, 2, 12⟩),
      .ok (.and ⟨4, 1, 8, 2, 12⟩),
      .ok (.or ⟨4, 1, 8, 2, 12⟩),
      .ok (.xor ⟨4, 1, 8, 2, 12⟩),
      .ok (.andn ⟨4, 1, 8, 2, 12⟩),
      .ok (.shl ⟨4, 1, 8, 2, 12⟩),
      .ok (.shrn ⟨4, 1, 8, 2, 12⟩),
      .ok (.shrs ⟨4, 1, 8, 2, 12⟩),
      .ok (.bfx ⟨4, 1, 8, 2, 12⟩),
      .ok (.bfi ⟨4, 1, 8, 2, 12⟩),
      .ok (.iadd64 ⟨4, 1, 8, 2, 12⟩)] := by
  rfl

/-- One word of each of the PERM, SEL and float words (Format A), written out field by field from its row of the encoding. -/
theorem test_decode_perm :
    ([0b0_010110_0000100_01_0001000_10_0001100,
      0b1_010111_0000100_01_0001000_10_0001100,
      0b0_011000_0000100_01_0001000_10_0001100,
      0b1_011001_0000100_01_0001000_10_0001100,
      0b0_011010_0000100_01_0001000_10_0001100,
      0b1_011011_0000100_01_0001000_10_0001100,
      0b0_011100_0000100_01_0001000_10_0001100,
      0b1_011101_0000100_01_0001000_10_0001100,
      0b0_011110_0000100_01_0001000_10_0001100] : List Word).map decodeWord =
    [.ok (.perm ⟨4, 1, 8, 2, 12⟩),
      .ok (.sel ⟨4, 1, 8, 2, 12⟩),
      .ok (.fadd ⟨4, 1, 8, 2, 12⟩),
      .ok (.fsub ⟨4, 1, 8, 2, 12⟩),
      .ok (.fmul ⟨4, 1, 8, 2, 12⟩),
      .ok (.ffma ⟨4, 1, 8, 2, 12⟩),
      .ok (.fmin ⟨4, 1, 8, 2, 12⟩),
      .ok (.fmax ⟨4, 1, 8, 2, 12⟩),
      .ok (.fscale ⟨4, 1, 8, 2, 12⟩)] := by
  rfl

/-- One word of each of the packed words (Format A), written out field by field from its row of the encoding. -/
theorem test_decode_badd2 :
    ([0b1_011111_0000100_01_0001000_10_0001100,
      0b0_100000_0000100_01_0001000_10_0001100,
      0b1_100001_0000100_01_0001000_10_0001100,
      0b0_100010_0000100_01_0001000_10_0001100,
      0b1_100011_0000100_01_0001000_10_0001100,
      0b0_100100_0000100_01_0001000_10_0001100,
      0b1_100101_0000100_01_0001000_10_0001100,
      0b0_100110_0000100_01_0001000_10_0001100,
      0b1_100111_0000100_01_0001000_10_0001100] : List Word).map decodeWord =
    [.ok (.badd2 ⟨4, 1, 8, 2, 12⟩),
      .ok (.bmul2 ⟨4, 1, 8, 2, 12⟩),
      .ok (.bfma2 ⟨4, 1, 8, 2, 12⟩),
      .ok (.hadd2 ⟨4, 1, 8, 2, 12⟩),
      .ok (.hmul2 ⟨4, 1, 8, 2, 12⟩),
      .ok (.hfma2 ⟨4, 1, 8, 2, 12⟩),
      .ok (.pack2 ⟨4, 1, 8, 2, 12⟩),
      .ok (.bdot2 ⟨4, 1, 8, 2, 12⟩),
      .ok (.hdot2 ⟨4, 1, 8, 2, 12⟩)] := by
  rfl

/-- One word of each of the unary words (Format U), written out field by field from its row of the encoding. -/
theorem test_decode_mov :
    ([0b0_101000_0000100_01_0001000_000000000,
      0b1_101000_0000100_01_0001000_000000001,
      0b0_101000_0000100_01_0001000_000000010,
      0b1_101000_0000100_01_0001000_000000011,
      0b0_101000_0000100_01_0001000_000000100,
      0b1_101000_0000100_01_0001000_000000101,
      0b0_101000_0000100_01_0001000_000000110,
      0b1_101000_0000100_01_0001000_000000111] : List Word).map decodeWord =
    [.ok (.mov ⟨4, 1, 8⟩),
      .ok (.not ⟨4, 1, 8⟩),
      .ok (.ineg ⟨4, 1, 8⟩),
      .ok (.iabs ⟨4, 1, 8⟩),
      .ok (.clz ⟨4, 1, 8⟩),
      .ok (.popc ⟨4, 1, 8⟩),
      .ok (.brev ⟨4, 1, 8⟩),
      .ok (.mov64 ⟨4, 1, 8⟩)] := by
  rfl

/-- One word of each of the special functions (Format U), written out field by field from its row of the encoding. -/
theorem test_decode_frcp :
    ([0b0_101000_0000100_01_0001000_000001000,
      0b1_101000_0000100_01_0001000_000001001,
      0b0_101000_0000100_01_0001000_000001010,
      0b1_101000_0000100_01_0001000_000001011,
      0b0_101000_0000100_01_0001000_000001100,
      0b1_101000_0000100_01_0001000_000001101,
      0b0_101000_0000100_01_0001000_000001110,
      0b1_101000_0000100_01_0001000_000001111,
      0b0_101000_0000100_01_0001000_000010000,
      0b1_101000_0000100_01_0001000_000010001,
      0b0_101000_0000100_01_0001000_000010010] : List Word).map decodeWord =
    [.ok (.frcp ⟨4, 1, 8⟩),
      .ok (.frsq ⟨4, 1, 8⟩),
      .ok (.fsqrt ⟨4, 1, 8⟩),
      .ok (.fexp2 ⟨4, 1, 8⟩),
      .ok (.flog2 ⟨4, 1, 8⟩),
      .ok (.fsint ⟨4, 1, 8⟩),
      .ok (.fcost ⟨4, 1, 8⟩),
      .ok (.ftanh ⟨4, 1, 8⟩),
      .ok (.frnd ⟨4, 1, 8⟩),
      .ok (.ffract ⟨4, 1, 8⟩),
      .ok (.fclass ⟨4, 1, 8⟩)] := by
  rfl

/-- One word of each of the CVT and CMP, written out field by field from its row of the encoding. -/
theorem test_decode_cvt :
    ([0b1_101000_0000100_01_0001000_11_010_101_1,
      0b0_101001_010_0101_01_0000100_10_0001000] : List Word).map decodeWord =
    [.ok (.cvt ⟨4, 1, 8, 2, 5, 1⟩),
      .ok (.cmp ⟨2, 5, 1, 4, 2, 8⟩)] := by
  rfl

/-- One word of each of the scalar words (Format S), written out field by field from its row of the encoding. -/
theorem test_decode_sadd :
    ([0b1_101010_001010_00000_001010_10_001010,
      0b0_101010_001010_00001_001010_10_001010,
      0b1_101010_001010_00010_001010_10_001010,
      0b0_101010_001010_00011_001010_10_001010,
      0b1_101010_001010_00100_001010_10_001010,
      0b0_101010_001010_00101_001010_10_001010,
      0b1_101010_001010_00110_001010_10_001010,
      0b0_101010_001010_00111_001010_10_001010,
      0b1_101010_001010_01000_001010_10_001010,
      0b0_101010_001010_01001_001010_10_001010,
      0b1_101010_001010_01010_001010_10_001010,
      0b0_101010_001010_01011_001010_10_001010,
      0b1_101010_001010_01100_001010_10_001010] : List Word).map decodeWord =
    [.ok (.sadd ⟨10, 10, 2, 10⟩),
      .ok (.ssub ⟨10, 10, 2, 10⟩),
      .ok (.smul ⟨10, 10, 2, 10⟩),
      .ok (.sand ⟨10, 10, 2, 10⟩),
      .ok (.sor ⟨10, 10, 2, 10⟩),
      .ok (.sxor ⟨10, 10, 2, 10⟩),
      .ok (.sshl ⟨10, 10, 2, 10⟩),
      .ok (.sshrn ⟨10, 10, 2, 10⟩),
      .ok (.sshrs ⟨10, 10, 2, 10⟩),
      .ok (.smins ⟨10, 10, 2, 10⟩),
      .ok (.smaxs ⟨10, 10, 2, 10⟩),
      .ok (.sminn ⟨10, 10, 2, 10⟩),
      .ok (.smaxn ⟨10, 10, 2, 10⟩)] := by
  rfl

/-- One word of each of the scalar pairs, moves and SCMP, written out field by field from its row of the encoding. -/
theorem test_decode_sadd64 :
    ([0b0_101010_001010_01101_001010_10_001010,
      0b1_101010_001010_01110000000_10_001010,
      0b0_101010_001010_01111000000_10_001010,
      0b1_101010_000_010_1_0101_001010_10_001010] : List Word).map decodeWord =
    [.ok (.sadd64 ⟨10, 10, 2, 10⟩),
      .ok (.smov ⟨10, 2, 10⟩),
      .ok (.smov64 ⟨10, 2, 10⟩),
      .ok (.scmp ⟨2, 5, 10, 2, 10⟩)] := by
  rfl

/-- One word of each of the control words (Format B), written out field by field from its row of the encoding. -/
theorem test_decode_bra :
    ([0b0_101011_00000_1_010_1001001000110100,
      0b1_101011_00001_1_010_0000000_01_0000100,
      0b0_101011_00010_1_010_1001001000110100,
      0b1_101011_00011_1_010_0000000_01_0000100,
      0b0_101011_00100_1_010_0000000000000000,
      0b1_101011_00101_1_010_0000000_01_0000100,
      0b0_101011_00110_1_010_1001001000110100,
      0b1_101011_00111_1_010_000000_1_01_0000100,
      0b0_101011_01000_1_010_0000000000000000,
      0b1_101011_01001_1_010_100000000101_0101,
      0b0_101011_01010_1_010_100000000101_0101] : List Word).map decodeWord =
    [.ok (.bra ⟨1, 2, 37428⟩),
      .ok (.brx ⟨1, 2, 1, 4⟩),
      .ok (.call ⟨1, 2, 37428⟩),
      .ok (.calli ⟨1, 2, 1, 4⟩),
      .ok (.ret ⟨1, 2⟩),
      .ok (.jmpi ⟨1, 2, 1, 4⟩),
      .ok (.meet ⟨1, 2, 37428⟩),
      .ok (.meetx ⟨1, 2, 1, 1, 4⟩),
      .ok (.exit ⟨1, 2⟩),
      .ok (.bar ⟨1, 2, 2053, 5⟩),
      .ok (.bara ⟨1, 2, 2053, 5⟩)] := by
  rfl

/-- One word of each of the the other control words, written out field by field from its row of the encoding. -/
theorem test_decode_yield :
    ([0b1_101011_0101101110000000000000000,
      0b0_101011_0110001110000000000000000,
      0b1_101011_01101_1_010_00000000_10010101,
      0b0_101011_01110_1_010_0000000000000000,
      0b0_101011_0111101110000000000000000,
      0b0_101011_10000_1_010_0000000000000000,
      0b1_101011_10001_1_010_0000000000000000,
      0b0_101011_1001001110000000000000000,
      0b1_101011_10011_1_010_0000000000000000] : List Word).map decodeWord =
    [.ok (.yield),
      .ok (.priopass),
      .ok (.trap ⟨1, 2, 149⟩),
      .ok (.brkpt ⟨1, 2⟩),
      .ok (.nop),
      .ok (.idemb ⟨1, 2⟩),
      .ok (.ideme ⟨1, 2⟩),
      .ok (.trapret),
      .ok (.trig ⟨1, 2⟩)] := by
  rfl

/-- One word of each of the loads and stores (Format M), written out field by field from its row of the encoding. -/
theorem test_decode_ldVbase :
    ([0b0_101100_0000100_0001000_0_010_0001100,
      0b1_101100_0000100_0001000_1_010_001010_0,
      0b0_101101_0000100_0001000_0_010_0001100,
      0b1_101101_0000100_0001000_1_010_001010_0] : List Word).map decodeWord =
    [.ok (.ldVbase ⟨4, 8, 2, 12⟩),
      .ok (.ldSbase ⟨4, 8, 2, 10, 0⟩),
      .ok (.stVbase ⟨4, 8, 2, 12⟩),
      .ok (.stSbase ⟨4, 8, 2, 10, 0⟩)] := by
  rfl

/-- One word of each of the atomics, written out field by field from its row of the encoding. -/
theorem test_decode_atomAdd :
    ([0b0_101110_0000100_0001000_0000_0101_01_1,
      0b1_101110_0000100_0001000_0001_0101_01_1,
      0b0_101110_0000100_0001000_0010_0101_01_1,
      0b1_101110_0000100_0001000_0011_0101_01_1,
      0b0_101110_0000100_0001000_0100_0101_01_1,
      0b1_101110_0000100_0001000_0101_0101_01_1,
      0b0_101110_0000100_0001000_0110_0101_01_1,
      0b1_101110_0000100_0001000_0111_0101_01_1,
      0b0_101110_0000100_0001000_1000_0101_01_1,
      0b1_101110_0000100_0001000_1001_0101_01_1,
      0b0_101110_0000100_0001000_1010_0101_01_1,
      0b1_101110_0000100_0001000_1011_0101_01_1,
      0b0_101110_0000100_0001000_1100_0101_01_1,
      0b1_101110_0000100_0001000_1101_0101_01_1,
      0b0_101110_0000100_0001000_1110_0101_10_1,
      0b1_101110_0000100_0001000_1111_0101_01_1] : List Word).map decodeWord =
    [.ok (.atomAdd ⟨4, 8, 5, 1, 1⟩),
      .ok (.atomMins ⟨4, 8, 5, 1, 1⟩),
      .ok (.atomMaxs ⟨4, 8, 5, 1, 1⟩),
      .ok (.atomMinn ⟨4, 8, 5, 1, 1⟩),
      .ok (.atomMaxn ⟨4, 8, 5, 1, 1⟩),
      .ok (.atomAnd ⟨4, 8, 5, 1, 1⟩),
      .ok (.atomOr ⟨4, 8, 5, 1, 1⟩),
      .ok (.atomXor ⟨4, 8, 5, 1, 1⟩),
      .ok (.atomXchg ⟨4, 8, 5, 1, 1⟩),
      .ok (.atomCas ⟨4, 8, 5, 1, 1⟩),
      .ok (.atomFadd ⟨4, 8, 5, 1, 1⟩),
      .ok (.atomBadd2 ⟨4, 8, 5, 1, 1⟩),
      .ok (.atomInc ⟨4, 8, 5, 1, 1⟩),
      .ok (.atomDec ⟨4, 8, 5, 1, 1⟩),
      .ok (.atomStrel ⟨4, 8, 5, 1⟩),
      .ok (.atomLdacq ⟨4, 8, 5, 1⟩)] := by
  rfl

/-- One word of each of the SYNC and CACHE words, written out field by field from its row of the encoding. -/
theorem test_decode_fence :
    ([0b0_101111_00000_01_0101_00000000000000,
      0b1_101111_0001000000000000000000000,
      0b0_101111_0010_0000100_00_01001_0000000,
      0b1_101111_0011_0000100_0000000000000_1,
      0b0_101111_0100_0000100_0001000_00000_1_1,
      0b1_101111_0101_0000100_0001000_0000000,
      0b0_101111_0110_0000100_0001000_0000000,
      0b1_101111_0111_0000100_0001000_00000_1_1,
      0b0_101111_1000_0000100_0001000_00000_1_1] : List Word).map decodeWord =
    [.ok (.fence 1 5),
      .ok (.opfence),
      .ok (.waitf 1156),
      .ok (.tlrflush 4 1),
      .ok (.ipref ⟨4, 8, 1, 1⟩),
      .ok (.ipin 4 8),
      .ok (.iunpin 4 8),
      .ok (.cinv ⟨4, 8, 1, 1⟩),
      .ok (.cwb ⟨4, 8, 1, 1⟩)] := by
  rfl

/-- One word of each of the matrix words (Format X), written out field by field from its row of the encoding. -/
theorem test_decode_mmq :
    ([0b1_110000_000_10010101_0000100_0001000,
      0b0_110000_001_10010101_0000100_0001000,
      0b1_110000_01000000000_0000100_0001000,
      0b0_110000_0110000000000000000000000,
      0b1_110000_100_10010101_0000100_00000_01,
      0b0_110000_101_10010101_0000100_00000_01,
      0b1_110000_110_10010101_0000000_0000100] : List Word).map decodeWord =
    [.ok (.mmq ⟨149, 4, 8⟩),
      .ok (.mmg ⟨149, 4, 8⟩),
      .ok (.mlds 4 8),
      .ok (.mswap),
      .ok (.mrd 149 4 1),
      .ok (.mwr 149 4 1),
      .ok (.mclr 149 4)] := by
  rfl

/-- One word of each of the lane words (Format L), written out field by field from its row of the encoding. -/
theorem test_decode_shfli :
    ([0b0_110001_0000100_01_0001000_000_000111,
      0b1_110001_0000100_01_0001000_001_000111,
      0b0_110001_0000100_01_0001000_010_000111,
      0b1_110001_0000100_01_0001000_011_100000,
      0b0_110001_0000100_01_0001000_100_000011,
      0b1_110001_0000100_01_0001000_101000000,
      0b0_110001_0000100_01_0001000_110_001001,
      0b1_110001_0000100_01_0001000_111_001001] : List Word).map decodeWord =
    [.ok (.shfli ⟨4, 1, 8, 7⟩),
      .ok (.shflu ⟨4, 1, 8, 7⟩),
      .ok (.shfld ⟨4, 1, 8, 7⟩),
      .ok (.shflx ⟨4, 1, 8, 32⟩),
      .ok (.swappair ⟨4, 1, 8, 3⟩),
      .ok (.bcastl ⟨4, 1, 8⟩),
      .ok (.voteb ⟨4, 1, 8, 9⟩),
      .ok (.redux ⟨4, 1, 8, 9⟩)] := by
  rfl

/-- One word of each of the copy words (Format T), written out field by field from its row of the encoding. -/
theorem test_decode_tcopy :
    ([0b0_110010_000_0000100_0001000_01_001010,
      0b1_110010_001_0000100_0001000_01_001010,
      0b0_110010_010_0000100_0001000_01_001010,
      0b1_110010_011_0000100_0001000_01_001010,
      0b0_110010_100_0000100_0001000_01_001010] : List Word).map decodeWord =
    [.ok (.tcopy ⟨4, 8, 1, 10⟩),
      .ok (.tstore ⟨4, 8, 1, 10⟩),
      .ok (.tgather ⟨4, 8, 1, 10⟩),
      .ok (.tscatter ⟨4, 8, 1, 10⟩),
      .ok (.txfer ⟨4, 8, 1, 10⟩)] := by
  rfl

/-- One word of each of the resource and helper words, written out field by field from its row of the encoding. -/
theorem test_decode_xacq :
    ([0b1_110011_0000000_0101_000000_1_000_010_0,
      0b0_110011_0001000_0101_00000000000000,
      0b1_110011_0010_0000100_0001000_0_1_1_010_0,
      0b0_110011_0011_0000100_0001000_00_1_0000,
      0b1_110100_00000_001010_0000100_0_01001_0,
      0b0_110100_0001000000000000000000000,
      0b1_110100_0010000000000000000000000,
      0b0_110100_0011_0000100_00000_01_0000000,
      0b1_110100_0100_0000100_000000000000_1_0,
      0b0_110100_0101000000000000000000000] : List Word).map decodeWord =
    [.ok (.xacq 5 1 2),
      .ok (.xrel 5),
      .ok (.aacq 132 8 1 2),
      .ok (.arel 132 8),
      .ok (.recruit 10 4 9),
      .ok (.hchunk),
      .ok (.hcommit),
      .ok (.hreduce 4 1),
      .ok (.hjoin 4 1),
      .ok (.hexit)] := by
  rfl

/-- One word of each of the sweep words, written out field by field from its row of the encoding. -/
theorem test_decode_swreg :
    ([0b1_110101_0000_0000100_0001000_000000_1,
      0b0_110101_0001_0000100_0000000000000_1,
      0b1_110101_0010_0000100_0001000_000000_1,
      0b0_110101_0011_0000100_0000000000000_1,
      0b1_110101_0100_0000100_0001000_000000_1,
      0b0_110101_0101_0000100_0001000_000000_1,
      0b1_110101_0101_0000100_0001000_000001_1] : List Word).map decodeWord =
    [.ok (.swreg 4 8 1),
      .ok (.swdereg 4 1),
      .ok (.swq 4 8 1),
      .ok (.swurge 4 1),
      .ok (.swstat 4 8 1),
      .ok (.swliveDead 4 8 1),
      .ok (.swliveLive 4 8 1)] := by
  rfl

/-- One word of each of the prefix-engine words, written out field by field from its row of the encoding. -/
theorem test_decode_pfxlook :
    ([0b0_110110_0000_0000100_0001000_001010_1,
      0b1_110110_0001_0000100_0001000_001010_1,
      0b0_110110_0010_0000100_0001000_000000_1,
      0b1_110110_0011_0000100_0001000_001010_1,
      0b0_110110_0100_0000100_0001000_001010_1,
      0b1_110110_0101_0000100_0001000_001010_1] : List Word).map decodeWord =
    [.ok (.pfxlook ⟨4, 8, 10, 1⟩),
      .ok (.pfxins ⟨4, 8, 10, 1⟩),
      .ok (.pfxrel 4 8 1),
      .ok (.pfxevict ⟨4, 8, 10, 1⟩),
      .ok (.kappend ⟨4, 8, 10, 1⟩),
      .ok (.kseq ⟨4, 8, 10, 1⟩)] := by
  rfl

/-- One word of each of the near-memory, task and event words, written out field by field from its row of the encoding. -/
theorem test_decode_nmc :
    ([0b0_110111_0000_0000100_0001000_000000_1,
      0b1_110111_000100000000000000000000_1,
      0b0_110111_0010_0000100_0001000_000000_1,
      0b1_111000_0000_0000100_0001000_1_000000,
      0b0_111000_00010_001010_0000100_1_0000_1_0,
      0b1_111000_00100_001010_0000100_1_0000_1_0,
      0b0_111000_00110_001010_0000100_1_0000_1_0,
      0b1_111000_01000000000_0000100_1_000_1_0_1,
      0b0_111000_0101_0000100_0000000_1_000000] : List Word).map decodeWord =
    [.ok (.nmc 4 8 1),
      .ok (.nmfence 1),
      .ok (.nmstat 4 8 1),
      .ok (.launch 4 8 1),
      .ok (.dcdec ⟨10, 4, 1, 1⟩),
      .ok (.dcadd ⟨10, 4, 1, 1⟩),
      .ok (.taskrdy ⟨10, 4, 1, 1⟩),
      .ok (.evpop 4 1 1 1),
      .ok (.evpush 4 1)] := by
  rfl

/-- One word of each of the system words and the clause header, written out field by field from its row of the encoding. -/
theorem test_decode_getsr :
    ([0b1_111001_0000_0000100_0001000_00000_1_0,
      0b0_111001_0001_0000100_0001000_00000_1_0,
      0b1_111001_0010_0000100_00000000000_01_0,
      0b0_111001_0011_0000100_000000000000_1_0,
      0b1_111001_0100_0000100_00000000000000,
      0b0_111001_0100000000000000000000010,
      0b1_111001_0101_0000100_00000_01_0000000,
      0b0_111111_100000000101_0101_1011_1_0000] : List Word).map decodeWord =
    [.ok (.getsr 4 8 1),
      .ok (.setsr 4 8 1),
      .ok (.rand 4 1),
      .ok (.clock 4 1),
      .ok (.cwin 4),
      .ok (.cwinArgs),
      .ok (.uerpl 4 1),
      .ok (.clause 2053 5 11 1)] := by
  rfl

/-- The spec's own worked words: FFMA v1, v2, v3; CMP.flt p1, v2, v3; SCMP.gtn p2, s4, 10; SHFLX v1, v2, 1;
VOTEB.count.bundle v1, v2; (!p3) BRA five packets back; LAUNCH v40, v2; DCADD 3, 2; DCDEC 5; EVPOP v8; EVPOP s8. -/
theorem test_worked_words :
    ([0x3604_0403, 0x5268_0403, 0x5416_04CA, 0x6204_04C1, 0x6204_0589, 0x560B_FFFB, 0x7000_9400, 0x7040_C100, 0x7021_4000,
      0x7080_0400, 0x7080_0440] : List Word).map decodeWord =
    [.ok (.ffma ⟨1, 0, 2, 0, 3⟩), .ok (.cmp ⟨1, 10, 0, 2, 0, 3⟩), .ok (.scmp ⟨2, 8, 4, 3, 10⟩), .ok (.shflx ⟨1, 0, 2, 1⟩),
      .ok (.voteb ⟨1, 0, 2, 9⟩), .ok (.bra ⟨1, 3, 0xFFFB⟩), .ok (.launch 2 40 0), .ok (.dcadd ⟨3, 2, 0, 0⟩),
      .ok (.dcdec ⟨5, 0, 0, 0⟩), .ok (.evpop 8 0 0 0), .ok (.evpop 8 1 0 0)] := by
  rfl

/-! ### What is refused -/

/-- A reserved major; a reserved minor of Format U; a tag-01 source beyond s63; a CLAUSE with SETA = SETB; a CVT of one type
to itself; a PFX by itself. -/
theorem test_words_refused :
    ([0b0_111010_0000000000000000000000000,
      0b0_101000_0000001_00_0000010_011111111,
      0b0_000000_0000011_01_1000000_00_0000010,
      0b0_111111_000000000000_0011_0011_0_0000,
      0b0_101000_0000001_00_0000010_11_010_010_0,
      0b0_111110_0000000000000000000000000] : List Word).map decodeWord =
    [.error .reservedMajor, .error .reservedMinor, .error .reservedField, .error .clauseFlags, .error .cvtSameType,
      .error .prefixWord] := by
  rfl

/-- Registers: beyond s63, odd pairs, an unaligned b64 and b128 datum, numbers that would pass v127. -/
theorem test_ill_formed_registers :
    ([.iadd ⟨3, 1, 64, 0, 0⟩, .iadd64 ⟨3, 0, 2, 0, 4⟩, .mov64 ⟨2, 0, 3⟩, .sadd64 ⟨1, 0, 0, 0⟩, .ldVbase ⟨1, 2, 5, 0⟩,
      .stVbase ⟨2, 2, 6, 0⟩, .ldVbase ⟨0, 1, 2, 0⟩, .brx ⟨0, 7, 1, 64⟩, .mmq ⟨0, 113, 0⟩, .mrd 0 113 0, .mmg ⟨0, 126, 0⟩,
      .tcopy ⟨123, 0, 1, 0⟩, .tgather ⟨126, 0, 1, 0⟩, .txfer ⟨1, 0, 1, 0⟩, .recruit 0 125 1, .swq 0 126 0, .swstat 0 126 0,
      .pfxlook ⟨1, 0, 0, 0⟩, .kappend ⟨0, 125, 0, 0⟩, .launch 1 0 0, .evpop 2 0 0 0, .getsr 64 0 1, .clock 1 0, .cwin 64,
      .tlrflush 1 0, .ipref ⟨64, 0, 0, 0⟩] : List Instr).map Instr.fieldError = List.replicate 26 (some .reservedField) := by
  rfl

/-- Selectors: reserved predicates, tags, sizes, scopes, orders, completion flags, lanes, counts and kinds. -/
theorem test_ill_formed_selectors :
    ([.bra ⟨1, 7, 0⟩, .brx ⟨0, 7, 3, 0⟩, .cmp ⟨7, 0, 0, 0, 0, 0⟩, .scmp ⟨7, 0, 0, 0, 0⟩, .ldVbase ⟨0, 0, 7, 0⟩,
      .ldSbase ⟨0, 1, 2, 0, 1⟩, .atomAdd ⟨0, 0, 11, 0, 0⟩, .fence 0 5, .fence 1 11, .tcopy ⟨0, 0, 0, 12⟩, .tcopy ⟨0, 0, 3, 1⟩,
      .shfli ⟨0, 0, 0, 33⟩, .swappair ⟨0, 0, 0, 5⟩, .voteb ⟨0, 0, 0, 7⟩, .redux ⟨0, 0, 0, 16⟩, .xacq 1 1 7, .xacq 1 0 0,
      .aacq 0 1 0 3, .recruit 0 0 0, .hreduce 80 0, .hjoin 2 0, .mclr 200 56, .dcadd ⟨0, 0, 0, 0⟩, .dcdec ⟨0, 1, 0, 0⟩,
      .rand 0 3, .clause 0 12 0 0] : List Instr).map Instr.fieldError = List.replicate 26 (some .reservedField) := by
  rfl

theorem test_ill_formed_others : (Instr.cvt ⟨0, 0, 0, 2, 2, 0⟩).fieldError = some .cvtSameType ∧
    (Instr.clause 0 3 3 0).fieldError = some .clauseFlags ∧ (Instr.bringup).isEncoded = false ∧ encodeWord .bringup = none := by
  decide

/-- Bytes that are no whole word. -/
theorem test_short_word : decodeBytes [0x02, 0x00, 0x03] = .error .truncated := by rfl

/-! ### Single steps -/

/-- v3 of thread 0 after an instruction on v1 and v2. -/
def vOut (i : Instr) (a b : Word) : Word := (run i (wV a b)).rdV wI 0 3

theorem test_iadd_wraps : vOut (.iadd ⟨3, 0, 1, 0, 2⟩) 0xFFFF_FFFF 2 = 1 := by decide +kernel
theorem test_iaddsat : vOut (.iaddsat ⟨3, 0, 1, 0, 2⟩) 0x7FFF_FFFF 1 = 0x7FFF_FFFF := by decide +kernel
theorem test_isub_order : vOut (.isub ⟨3, 0, 1, 0, 2⟩) 5 7 = 0xFFFF_FFFE := by decide +kernel
theorem test_imulhs : vOut (.imulhs ⟨3, 0, 1, 0, 2⟩) 0xFFFF_FFFF 2 = 0xFFFF_FFFF := by decide +kernel
theorem test_imulhn : vOut (.imulhn ⟨3, 0, 1, 0, 2⟩) 0xFFFF_FFFF 2 = 1 := by decide +kernel
theorem test_imins : vOut (.imins ⟨3, 0, 1, 0, 2⟩) 0xFFFF_FFFF 1 = 0xFFFF_FFFF := by decide +kernel
theorem test_iminn : vOut (.iminn ⟨3, 0, 1, 0, 2⟩) 0xFFFF_FFFF 1 = 1 := by decide +kernel
theorem test_clz : vOut (.clz ⟨3, 0, 1⟩) 1 0 = 31 := by decide +kernel
theorem test_popc : vOut (.popc ⟨3, 0, 1⟩) 0xF0F0_F0F0 0 = 16 := by decide +kernel
theorem test_brev : vOut (.brev ⟨3, 0, 1⟩) 1 0 = 0x8000_0000 := by decide +kernel

/-- 1 + 2^-24 is a tie and goes to the even 1; the next number up does not. -/
theorem test_fadd_ties : vOut (.fadd ⟨3, 0, 1, 0, 2⟩) 0x3F80_0000 0x3380_0000 = 0x3F80_0000 ∧
    vOut (.fadd ⟨3, 0, 1, 0, 2⟩) 0x3F80_0001 0x3380_0000 = 0x3F80_0002 := by decide +kernel

theorem test_fmul_invalid : vOut (.fmul ⟨3, 0, 1, 0, 2⟩) 0x7F80_0000 0 = 0x7FC0_0000 := by decide +kernel

/-- The published Philox-4×32-10 vectors of all-zero and all-one inputs. -/
theorem test_philox : philox (0, 0, 0, 0) (0, 0) = (0x6627E8D5, 0xE169C58D, 0xBC57AC4C, 0x9B00DBD8) ∧
    philox (0xFFFF_FFFF, 0xFFFF_FFFF, 0xFFFF_FFFF, 0xFFFF_FFFF) (0xFFFF_FFFF, 0xFFFF_FFFF) =
      (0x408F276D, 0x41C83B0E, 0xA20BC7C6, 0x6D5451FD) := by decide +kernel

/-! ### Steps from a placed word -/

/-- Thread 0's PC, the warp's trap cause, and whether thread 0 lives, after the step that fetches a word. -/
def stepOut (w : Word) : Option Nat × Option Nat × Option Bool :=
  match step (State.reset.place w) with
  | .next t => ((t.thread 1 0).map (·.pc), (t.warp 1).map (·.trapcause.toNat), (t.thread 1 0).map Thread.live)
  | _ => (none, none, none)

/-- IADD v3, v1, v2 moves its threads past its word. -/
theorem test_step_iadd : (stepOut 0b0_000000_0000011_00_0000001_00_0000010).1 = some 8 := by decide +kernel

/-- EXIT ends its threads. -/
theorem test_step_exit : (stepOut 0b0_101011_0_1000_0_111_0000000000000000).2.2 = some false := by decide +kernel

/-- The bring-up is the first step of all. -/
theorem test_first_step : (run .bringup State.reset).mg.running = some (1, 0) := by decide +kernel

end Sys2Proof.Tests
end

section
/-! PROOF of O59, part 1 of 10: the forms in which the invariant is stated, and the operations of the base, the ordering machine and the pools keep it. -/

namespace Sys2Proof.Laws

open Sys2Proof.Machine

variable {s : State}

/-! ### Forms of the invariant

`memOk_f` says that the state function `f` of the model keeps both memories canonical, `ok_f` that every next
state of the meaning `f` is canonical when the state before it is, and `kvOk_f` the same of a step of the
KV engine. -/

/-- An operation keeps both memories canonical. -/
def Keeps (f : State → State) : Prop := ∀ s, s.memOk = true → (f s).memOk = true

/-- A meaning's next state, if it answers one, is canonical. -/
def ResOk (r : Res) : Prop := ∀ t, r = .next t → t.memOk = true

theorem ok_next {t : State} (h : t.memOk = true) : ResOk (.next t) := by
  rintro _ ⟨⟩
  exact h

theorem ok_ite {c : Prop} {_ : Decidable c} {a b : Res} (ha : ResOk a) (hb : ResOk b) :
    ResOk (if c then a else b) := by
  split <;> assumption

section
variable {α β γ : Type}

/-- A fold keeps what each of its steps keeps. -/
theorem foldl_keeps (P : β → Prop) {f : β → α → β} (hf : ∀ b a, P b → P (f b a)) (l : List α) {b : β} (h : P b) :
    P (l.foldl f b) :=
  List.foldlRecOn l f h fun b hb a _ => hf b a hb

theorem memOk_fold {f : State → α → State} {l : List α} {t : State}
    (hf : ∀ t a, t.memOk = true → (f t a).memOk = true) (h : t.memOk = true) :
    (l.foldl f t).memOk = true :=
  foldl_keeps (fun t : State => t.memOk = true) hf l h

theorem memOk_fold_fst {f : State × β → α → State × β} {l : List α} {p : State × β}
    (hf : ∀ p a, p.1.memOk = true → (f p a).1.memOk = true) (h : p.1.memOk = true) :
    (l.foldl f p).1.memOk = true :=
  foldl_keeps (fun p : State × β => p.1.memOk = true) hf l h

theorem memOk_fold_snd {f : β × State → α → β × State} {l : List α} {p : β × State}
    (hf : ∀ p a, p.2.memOk = true → (f p a).2.memOk = true) (h : p.2.memOk = true) :
    (l.foldl f p).2.memOk = true :=
  foldl_keeps (fun p : β × State => p.2.memOk = true) hf l h

theorem memOk_fold_trd {f : β × γ × State → α → β × γ × State} {l : List α} {p : β × γ × State}
    (hf : ∀ p a, p.2.2.memOk = true → (f p a).2.2.memOk = true) (h : p.2.2.memOk = true) :
    (l.foldl f p).2.2.memOk = true :=
  foldl_keeps (fun p : β × γ × State => p.2.2.memOk = true) hf l h

theorem memOk_if {c : Prop} {_ : Decidable c} {a b : State} (ha : a.memOk = true) (hb : b.memOk = true) :
    (if c then a else b).memOk = true := by
  split <;> assumption

theorem memOk_if_fst {c : Prop} {_ : Decidable c} {a b : State × β} (ha : a.1.memOk = true) (hb : b.1.memOk = true) :
    (if c then a else b).1.memOk = true := by
  split <;> assumption

theorem memOk_if_snd {c : Prop} {_ : Decidable c} {a b : β × State} (ha : a.2.memOk = true) (hb : b.2.memOk = true) :
    (if c then a else b).2.memOk = true := by
  split <;> assumption

theorem memOk_if_trd {c : Prop} {_ : Decidable c} {a b : β × γ × State} (ha : a.2.2.memOk = true)
    (hb : b.2.2.memOk = true) :
    (if c then a else b).2.2.memOk = true := by
  split <;> assumption

/-! A canonical component of a pair stays so when the pair is named by its components. -/

theorem of_fst {p : State × β} {t : State} {b : β} (h : p.1.memOk = true) (e : p = (t, b)) : t.memOk = true := by
  subst e; exact h

theorem of_snd {p : β × State} {t : State} {b : β} (h : p.2.memOk = true) (e : p = (b, t)) : t.memOk = true := by
  subst e; exact h

theorem of_trd {p : β × γ × State} {t : State} {b : β} {c : γ} (h : p.2.2.memOk = true) (e : p = (b, c, t)) :
    t.memOk = true := by
  subst e; exact h

theorem of_fth {δ : Type} {p : β × γ × δ × State} {t : State} {b : β} {c : γ} {d : δ} (h : p.2.2.2.memOk = true)
    (e : p = (b, c, d, t)) :
    t.memOk = true := by
  subst e; exact h

end

/-! ### The engine's monad -/

section
variable {α β : Type}

/-- What the engine's work leaves, where it succeeds, is canonical. -/
def KvOk (k : Kv α) : Prop := ∀ s x t, s.memOk = true → k s = .ok (x, t) → t.memOk = true

theorem kvOk_pure {a : α} : KvOk (pure a) := by
  rintro s x t h ⟨⟩
  exact h

theorem KvOk.bind {k : Kv α} {f : α → Kv β} (hk : KvOk k) (hf : ∀ a, KvOk (f a)) : KvOk (k >>= f) := by
  intro s x t h e
  cases hs : k s with
  | error r =>
    have : (k >>= f) s = .error r := by simp [Bind.bind, StateT.bind, Except.bind, hs]
    cases this.symm.trans e
  | ok p =>
    have : (k >>= f) s = f p.1 p.2 := by simp [Bind.bind, StateT.bind, Except.bind, hs]
    exact hf p.1 p.2 x t (hk s p.1 p.2 h hs) (this.symm.trans e)

theorem kvOk_ite {c : Prop} {_ : Decidable c} {a b : Kv α} (ha : KvOk a) (hb : KvOk b) :
    KvOk (if c then a else b) := by
  split <;> assumption

theorem kvOk_forM {f : α → Kv PUnit} (hf : ∀ a, KvOk (f a)) (l : List α) : KvOk (l.forM f) := by
  induction l with
  | nil => exact kvOk_pure
  | cons a l ih => exact (hf a).bind fun _ => ih

theorem kvOk_foldlM {f : β → α → Kv β} (hf : ∀ b a, KvOk (f b a)) (l : List α) {b : β} : KvOk (l.foldlM f b) := by
  induction l generalizing b with
  | nil => exact kvOk_pure
  | cons a l ih => exact (hf b a).bind fun _ => ih

theorem kvOk_mapM {f : α → Kv β} (hf : ∀ a, KvOk (f a)) (l : List α) : KvOk (l.mapM f) := by
  induction l with
  | nil => exact kvOk_pure
  | cons a l ih => 
    rw [List.mapM_cons]
    exact (hf a).bind fun _ => ih.bind fun _ => kvOk_pure

end
/-! ### State -/

/-! ### Base -/

theorem memOk_choose {n : Nat} (h : s.memOk = true) : (s.choose n).2.memOk = true := by
  refine memOk_if_snd h ?_
  split <;> exact h

theorem memOk_pendOnce {i : Instr} (h : s.memOk = true) : (s.pendOnce i).memOk = true := memOk_if h h

theorem memOk_regsAcquired {wk : Nat} (h : s.memOk = true) : (s.regsAcquired wk).memOk = true := by
  unfold State.regsAcquired
  split <;> exact h

theorem memOk_setV {wk lane n : Nat} {v : Word} (h : s.memOk = true) : (s.setV wk lane n v).memOk = true := by
  unfold State.setV
  split <;> exact h

theorem memOk_wrV {i : Issue} {l n : Nat} {v : Word} (h : s.memOk = true) : (s.wrV i l n v).memOk = true := by
  unfold State.wrV
  split
  · exact memOk_setV h
  · exact memOk_if h h

theorem memOk_wrP {i : Issue} {l n : Nat} {b : Bool} (h : s.memOk = true) : (s.wrP i l n b).memOk = true := by
  unfold State.wrP
  split <;> exact h

/-! ### Order -/

theorem memOk_noteDropped {a n : Nat} (h : s.memOk = true) : (s.noteDropped a n).memOk = true := memOk_if h h

theorem memOk_homeWrite {bytes : List (Nat × Byte)} (h : s.memOk = true) : (s.homeWrite bytes).memOk = true := by
  unfold State.homeWrite
  split <;> exact h

theorem memOk_bankStore {a : Nat} {data : List Byte} (h : s.memOk = true) : (s.bankStore a data).memOk = true := by
  rw [memOk_iff] at h ⊢
  exact ⟨wf_mstore _ _ h.1, h.2⟩

theorem memOk_dropHome {blk : Nat} (h : s.memOk = true) : (s.dropHome blk).memOk = true := memOk_noteDropped h

theorem memOk_matBytes {wk core off n : Nat} (h : s.memOk = true) : (s.matBytes wk core off n).2.memOk = true := by
  unfold State.matBytes
  exact memOk_if_snd (memOk_choose h) h

theorem memOk_noteMigr {p : Migr → Bool} (h : s.memOk = true) : (s.noteMigr p).memOk = true := memOk_if h h

theorem memOk_skSend {m : Msg} {ctx va : Nat} {who : SkWho} (h : s.memOk = true) :
    (s.skSend m ctx va who).1.memOk = true := by
  unfold State.skSend
  dsimp only
  split
  · exact h
  · exact memOk_if h (memOk_noteMigr h)

theorem memOk_postHelpers {wk : Nat} (h : s.memOk = true) : (s.postHelpers wk).memOk = true := memOk_postWhere _ h

theorem memOk_readPeer {a : Agent} {loc : Loc} {dev pa n : Nat} {pick : Option Bool} (h : s.memOk = true) :
    (s.readPeer a loc dev pa n pick).2.memOk = true := by
  refine memOk_if_snd (memOk_fold (fun _ _ h => h) ?_) ?_
  · split
    · exact h
    · exact memOk_if_snd (memOk_choose h) h
  · split
    · exact h
    · exact memOk_if_snd (memOk_choose h) h

theorem memOk_fillPeer {core dev pa st : Nat} {bs : List Byte} (h : s.memOk = true) :
    (s.fillPeer core dev pa st bs).memOk = true :=
  memOk_if h h

theorem memOk_readNormal {a : Agent} {loc : Loc} {pa n : Nat} {pick : Option Bool} (h : s.memOk = true) :
    (s.readNormal a loc pa n pick).2.2.memOk = true := by
  refine memOk_fold (fun _ _ h => h) (memOk_if ?_ ?_)
  · split
    · exact h
    · exact memOk_if_snd (memOk_choose h) h
  · split
    · exact h
    · exact memOk_if_snd (memOk_choose h) h

/-! ### Ops -/

theorem memOk_saveCount {x : Ctx} {word n : Nat} (h : s.memOk = true) : (s.saveCount x word n).memOk = true :=
  memOk_if (memOk_physWrite _ _ _ h) h

theorem memOk_saveEvent {c : Nat} {x : Ctx} {core : Nat} {r : EvRec} (h : s.memOk = true) :
    (s.saveEvent c x core r).memOk = true :=
  memOk_if h (memOk_saveCount (memOk_finalWrite _ _ h))

theorem memOk_saveNmc {c : Nat} {x : Ctx} {rec : List Byte} (h : s.memOk = true) :
    (s.saveNmc c x rec).memOk = true :=
  memOk_if h (memOk_saveCount (memOk_finalWrite _ _ h))

theorem memOk_arrive {wk : Nat} {lanes : List Nat} (h : s.memOk = true) : (s.arrive wk lanes).memOk = true := by
  unfold State.arrive
  split <;> exact h

theorem memOk_wake {wk : Nat} {lanes : List Nat} (h : s.memOk = true) : (s.wake wk lanes).memOk = true :=
  memOk_arrive h

theorem memOk_goto {i : Issue} {lanes : List Nat} {pc : Nat} (h : s.memOk = true) :
    (s.goto i lanes pc).memOk = true := by
  unfold State.goto
  split
  · exact memOk_arrive h
  · exact memOk_fold (fun _ _ h => h) h

theorem memOk_barArriveOne {tk wk l b : Nat} {count : BitVec 12} {block : Bool} {gpc : Nat} (h : s.memOk = true) :
    (s.barArriveOne tk wk l b count block gpc).memOk = true := by
  unfold State.barArriveOne
  split
  · exact h
  · exact memOk_if h (memOk_if h h)

theorem memOk_barPhase {tk b : Nat} (h : s.memOk = true) : (s.barPhase tk b).memOk = true := by
  unfold State.barPhase
  split
  · exact h
  · exact memOk_fold (fun _ _ h => memOk_regsAcquired (memOk_wake h)) h

theorem memOk_barCarry {tk b : Nat} {l : List (Nat × Nat × Option (BitVec 12 × Bool × Nat))} (h : s.memOk = true) :
    (s.barCarry tk b l).memOk = true :=
  memOk_of_eq h (by rw [barCarry_m]) (by rw [barCarry_m])

theorem memOk_barTest {tk b : Nat} (h : s.memOk = true) : (s.barTest tk b).memOk = true := by
  unfold State.barTest
  split
  · exact memOk_barCarry (memOk_barPhase h)
  · exact h

theorem memOk_barArrive {tk wk : Nat} {ls : List Nat} {b : Nat} {count : BitVec 12} {block : Bool} {gpc : Nat}
    (h : s.memOk = true) :
    (s.barArrive tk wk ls b count block gpc).memOk = true := by
  unfold State.barArrive
  dsimp only
  split
  · exact memOk_if (memOk_fold (fun _ _ h => memOk_if (memOk_barPhase (memOk_barArriveOne h))
      (memOk_barArriveOne h)) h) (memOk_barCarry (memOk_fold
      (fun _ _ h => memOk_if (memOk_barPhase (memOk_barArriveOne h)) (memOk_barArriveOne h)) h))
  · exact memOk_fold (fun _ _ h => memOk_if (memOk_barPhase (memOk_barArriveOne h)) (memOk_barArriveOne h)) h

theorem memOk_helperTrap {i : Issue} {r : TrapRec} (h : s.memOk = true) : (s.helperTrap i r).memOk = true :=
  memOk_helperTrapAt _ _ _ h

theorem memOk_trapReturn {wk pc : Nat} (h : s.memOk = true) : (s.trapReturn wk pc).memOk = true := by
  unfold State.trapReturn
  split
  · exact h
  · exact memOk_fold (fun _ _ h => memOk_setV h) h

/-! ### Pools -/

theorem memOk_kvMeet {ctx addr : Nat} {tabs : List (Nat × Nat)} (h : s.memOk = true) :
    (s.kvMeet ctx addr tabs).memOk = true :=
  memOk_if h h

theorem memOk_freeStore {ctx : Nat} {vas : List Nat} (h : s.memOk = true) : (s.freeStore ctx vas).memOk = true := by
  refine memOk_fold (fun _ _ h => ?_) h
  split
  · exact h
  · exact memOk_homeStore _ _ h

theorem memOk_kvSpoil {p : KvPool} (h : s.memOk = true) : (s.kvSpoil p).memOk = true := memOk_freeStore h

theorem memOk_kvRace {pa n : Nat} (h : s.memOk = true) : (s.kvRace pa n).memOk = true :=
  memOk_if h (memOk_fold (fun _ _ h => memOk_kvSpoil h) h)

theorem memOk_kvRaceAt {loc : Loc} {n : Nat} (h : s.memOk = true) : (s.kvRaceAt loc n).memOk = true := by
  unfold State.kvRaceAt
  split
  · exact memOk_kvRace h
  · exact h

end Sys2Proof.Laws
end

section
/-! PROOF of O59, part 2 of 10: operands, flags, translation, loads and stores, atomics and synchronisation. -/

namespace Sys2Proof.Laws

open Sys2Proof.Machine

variable {s : State}

/-! ### Operands -/

theorem memOk_withRegs {srcs dsts : List Nat} {k : Issue → State → State}
    {who : optParam (State → Issue → List Nat) State.acting} (h : s.memOk = true) (hk : ∀ a, Keeps (k a)) :
    (s.withRegs srcs dsts k who).memOk = true := by
  unfold State.withRegs
  split
  · exact h
  · split
    · exact memOk_forbid _ _ _ h
    · exact memOk_if h (hk _ _ h)

theorem memOk_withThread {srcs dsts : List Nat} {k : Issue → State → State}
    {who : optParam (State → Issue → List Nat) State.acting} (h : s.memOk = true) (hk : ∀ a, Keeps (k a)) :
    (s.withThread srcs dsts k who).memOk = true := by
  unfold State.withThread
  split
  · exact h
  · split
    · exact memOk_forbid _ _ _ h
    · exact memOk_if (memOk_forbid _ _ _ h) (memOk_if h (hk _ _ h))

theorem memOk_writeLanes {i : Issue} {d : Nat} {val : Nat → Word} (h : s.memOk = true) :
    (s.writeLanes i d val).memOk = true :=
  memOk_fold (fun _ _ h => memOk_wrV h) h

theorem memOk_writePairs {i : Issue} {d : Nat} {val : Nat → DWord} (h : s.memOk = true) :
    (s.writePairs i d val).memOk = true :=
  memOk_fold (fun _ _ h => memOk_wrV (memOk_wrV h)) h

/-! ### Flags -/

theorem memOk_modFlag {wk : Nat} {h : Option Nat} {f : Nat} {g : Nat → Nat} (hs : s.memOk = true) :
    (s.modFlag wk h f g).memOk = true := by
  unfold State.modFlag
  split <;> exact hs

theorem memOk_startOp {o : Op} (h : s.memOk = true) : (s.startOp o).2.memOk = true := by
  unfold State.startOp
  dsimp only
  split
  · exact h
  · exact memOk_modFlag h

theorem memOk_endOp {id : Nat} (h : s.memOk = true) : (s.endOp id).memOk = true := by
  unfold State.endOp
  split
  · exact h
  · split
    · exact h
    · exact memOk_modFlag h

theorem memOk_endOpAcq {id : Nat} (h : s.memOk = true) : (s.endOpAcq id).memOk = true := by
  refine memOk_endOp ?_
  split <;> exact h

theorem memOk_landV {o : Op} {l n : Nat} {v : Word} (h : s.memOk = true) : (s.landV o l n v).memOk = true := by
  unfold State.landV
  split
  · exact h
  · split
    · exact memOk_if (memOk_setV h) h
    · exact h

/-! ### Trans -/

theorem memOk_walkRead {field ctx addr level lg : Nat} (h : s.memOk = true) :
    (s.walkRead field ctx addr level lg).2.memOk = true := by
  unfold State.walkRead
  split
  · exact h
  · exact memOk_if_snd h h

theorem memOk_walkFrom {field ctx va table : Nat} {lv : List (Nat × Nat × Nat × Nat)} (h : s.memOk = true) :
    (s.walkFrom field ctx va lv table).2.memOk = true := by
  induction lv generalizing s table with
  | nil => exact h
  | cons e rest ih =>
    obtain ⟨level, hi, lo, lg⟩ := e
    have h1 := memOk_walkRead (field := field) (ctx := ctx) (addr := table + 8 * bits va hi lo) (level := level)
      (lg := lg) h
    simp only [State.walkFrom]
    split
    · exact h1
    · split
      · exact h1
      · split
        · split <;> exact h1
        · split
          · exact ih h1
          · exact h1

theorem memOk_raiseHeat {a : Access} {addr e : Nat} (h : s.memOk = true) : (s.raiseHeat a addr e).memOk = true :=
  memOk_if h (memOk_if (memOk_physWrite _ _ _ h) (memOk_homeStore _ _ h))

theorem memOk_pageWalk {u : XUnit} {ctx va : Nat} {a : Access} (h : s.memOk = true) :
    (s.pageWalk u ctx va a).2.memOk = true := by
  unfold State.pageWalk
  dsimp only
  split
  · exact h
  · split
    · exact memOk_if_snd (memOk_walkFrom h) h
    · exact memOk_if (memOk_raiseHeat (memOk_if_snd (memOk_walkFrom h) h))
        (memOk_raiseHeat (memOk_if_snd (memOk_walkFrom h) h))

theorem memOk_atsAsk {key : Nat × Option (BitVec 20) × Nat} (h : s.memOk = true) : (s.atsAsk key).2.memOk = true := by
  refine memOk_if ?_ ?_
  · split <;> exact h
  · split <;> exact h

theorem memOk_hostXlate {ctx ha base lg : Nat} {a : Access} (h : s.memOk = true) :
    (s.hostXlate ctx ha base lg a).2.memOk = true := by
  unfold State.hostXlate
  split
  · exact h
  · refine memOk_if_snd h ?_
    split
    · exact h
    · exact memOk_if_snd h (memOk_if_snd h (memOk_if_snd (memOk_atsAsk h)
        (memOk_if_snd (memOk_atsAsk h) (memOk_atsAsk h))))

theorem memOk_leafLoc {ctx va leaf base lg : Nat} {acc : Access} (h : s.memOk = true) :
    (s.leafLoc ctx va leaf base lg acc).2.memOk = true := by
  unfold State.leafLoc
  split
  · exact h
  · exact h
  · exact h
  · exact h
  · exact memOk_hostXlate h
  · exact memOk_if_snd h h

theorem memOk_translate {u : XUnit} {ctx va : Nat} {a : Access} (h : s.memOk = true) :
    (s.translate u ctx va a).2.memOk = true := by
  unfold State.translate
  split
  · exact memOk_if_snd (memOk_leafLoc h) h
  · split
    next heq =>
      have h1 := of_snd (memOk_pageWalk h) heq
      exact memOk_if_snd (memOk_leafLoc h1) h1
    next heq =>
      have h1 := of_snd (memOk_pageWalk h) heq
      exact h1

theorem memOk_locate {w : Warp} {t : Team} {a : Access} {acc : List (Nat × Nat)} (h : s.memOk = true) :
    (s.locate w t a acc).2.2.2.memOk = true := by
  induction acc generalizing s with
  | nil => exact h
  | cons e rest ih =>
    simp only [State.locate]
    split
    · exact ih h
    · exact ih h
    · split
      · split
        all_goals
          next heq =>
            exact ih (of_snd (memOk_translate h) heq)
      · exact ih h

theorem memOk_readError {w : Warp} {t : Team} {lane addr info : Nat} (h : s.memOk = true) :
    (s.readError w t lane addr info).2.memOk = true :=
  memOk_errorRecord _ _ h

theorem memOk_groupFaults {w : Warp} {fs : List PageFault} (h : s.memOk = true) :
    (s.groupFaults w fs).memOk = true := by
  unfold State.groupFaults
  split
  · exact h
  · exact memOk_raise _ _ _ _ h

theorem memOk_access {i : Issue} {n : Nat} {a : Access} {acc : List (Nat × Nat)}
    {k : Warp → Team → List LaneAcc → State → State} {hold : Warp → Team → Bool} {writes : Bool} (h : s.memOk = true)
    (hk : ∀ a b c, Keeps (k a b c)) :
    (s.access i n a acc k hold writes).memOk = true := by
  unfold State.access
  split
  · split
    · exact memOk_raise _ _ _ _ h
    · refine memOk_if h ?_
      split
      next heq =>
        have h1 := of_fth (memOk_locate h) heq
        exact hk _ _ _ _ h1
      next heq =>
        have h1 := of_fth (memOk_locate h) heq
        exact h1
      next heq =>
        have h1 := of_fth (memOk_locate h) heq
        exact memOk_groupFaults h1
  · exact h

/-! ### LdSt -/

theorem memOk_readPart {ag : Agent} {loc : Loc} {n : Nat} {pick : Option Bool} (h : s.memOk = true) :
    (s.readPart ag loc n pick).2.2.memOk = true := by
  unfold State.readPart
  split
  · exact h
  · exact h
  · exact memOk_readNormal h
  · exact memOk_readNormal h
  · exact h
  · exact h
  · exact h
  · exact memOk_readPeer h

theorem memOk_sharePick {i : Issue} {core : Nat} {ls : List Nat} {loc : Loc} {n : Nat} (h : s.memOk = true) :
    (s.sharePick i core ls loc n).2.memOk = true := by
  unfold State.sharePick
  split
  · exact memOk_if_snd (memOk_choose h) h
  · exact h

theorem memOk_readShared {i : Issue} {core : Nat} {ls : List Nat} {loc : Loc} {n : Nat} (h : s.memOk = true) :
    (s.readShared i core ls loc n).2.memOk = true :=
  memOk_fold_snd (fun _ _ h => memOk_fold_snd (fun _ _ h => memOk_readPart h) (memOk_sharePick h)) h

theorem memOk_readLanes {i : Issue} {w : Warp} {d : Nat} {size : BitVec 3} {op ctx : Nat} {accs : List LaneAcc}
    (h : s.memOk = true) :
    (s.readLanes i w d size op ctx accs).2.memOk = true := by
  refine memOk_fold_snd (fun _ _ h => memOk_if (memOk_readShared (memOk_if (memOk_postWhere _ h) h)) ?_) h
  split
  · exact memOk_readShared (memOk_if (memOk_postWhere _ h) h)
  · exact memOk_fold (fun _ _ h => memOk_peerFloor _ _ _ _ h)
      (memOk_skSend (memOk_readShared (memOk_if (memOk_postWhere _ h) h)))
  · exact memOk_readShared (memOk_if (memOk_postWhere _ h) h)

theorem memOk_fencesOf {wk core : Nat} {ls : List Nat} (h : s.memOk = true) :
    (s.fencesOf wk core ls).1.memOk = true := by
  refine memOk_fold_fst (fun _ _ h => ?_) h
  split
  · exact h
  · split
    · exact h
    · exact memOk_if_fst h (memOk_release _ _ _ _ h)

theorem memOk_noteRelease {core sc : Nat} {loc : Loc} {n : Nat} (h : s.memOk = true) :
    (s.noteRelease core sc loc n).memOk = true :=
  memOk_if h h

theorem memOk_relFences {i : Issue} {core : Nat} {ls : List Nat} (h : s.memOk = true) :
    (s.relFences i core ls).1.memOk = true :=
  memOk_if_fst h (memOk_fencesOf h)

theorem memOk_fenced {i : Issue} {ls : List Nat} {k : State → State} (h : s.memOk = true) (hk : Keeps k) :
    (s.fenced i ls k).memOk = true := by
  unfold State.fenced
  split
  · exact h
  · split
    next heq =>
      have h1 := of_fst (memOk_relFences h) heq
      exact hk _ h1
    next heq =>
      have h1 := of_fst (memOk_relFences h) heq
      exact h1

theorem memOk_startOps {i : Issue} {mk : List Nat → Op} {ev : Nat → Instr} {lanes : List Nat}
    {body : State → Nat → List Nat → State} (h : s.memOk = true)
    (hbody : ∀ t a b, t.memOk = true → (body t a b).memOk = true) :
    (s.startOps i mk ev lanes body).memOk = true := by
  unfold State.startOps
  split
  · exact memOk_if h (hbody _ _ _ (memOk_startOp h))
  · exact memOk_fold (fun _ _ h => hbody _ _ _ (memOk_startOp h)) h

theorem memOk_withMem {srcs dsts : List Nat} {ccOk : Bool} {k : Issue → State → State}
    {who : optParam (State → Issue → List Nat) State.acting} (h : s.memOk = true) (hk : ∀ a, Keeps (k a)) :
    (s.withMem srcs dsts ccOk k who).memOk = true := by
  unfold State.withMem
  split
  · exact h
  · exact memOk_if (memOk_if (memOk_forbid _ _ _ h) (memOk_if (memOk_illegal _ _ h) (hk _ _ h)))
      (memOk_withRegs h hk)

theorem memOk_detLoad {w : Warp} {t : Team} (h : s.memOk = true) : (s.detLoad w t).memOk = true := memOk_if h h

theorem memOk_detStore {wk : Nat} {t : Team} (h : s.memOk = true) : (s.detStore wk t).memOk = true :=
  memOk_if (memOk_postWarp _ h) h

theorem memOk_keepOld {wk core va : Nat} {loc : Loc} {n : Nat} (h : s.memOk = true) :
    (s.keepOld wk core va loc n).memOk = true := by
  unfold State.keepOld
  split <;> exact h

theorem memOk_load {srcs : List Nat} {ccOk : Bool} {d : Nat} {size : BitVec 3} {addr : State → Issue → Nat → Nat}
    (h : s.memOk = true) :
    (s.load srcs ccOk d size addr).memOk = true :=
  memOk_withMem h fun _ _ h => memOk_if (memOk_illegal _ _ h)
    (memOk_if h (memOk_access h fun _ _ _ _ h => memOk_startOps h fun _ _ _ h => memOk_readLanes (memOk_detLoad h)))

theorem ok_execLdVbase {f : FmtMv} (h : s.memOk = true) : ResOk (execLdVbase f s) := ok_next (memOk_load h)

theorem ok_execLdSbase {f : FmtMs} (h : s.memOk = true) : ResOk (execLdSbase f s) := ok_next (memOk_load h)

theorem memOk_taintLoc {wk : Nat} {loc : Loc} {n : Nat} (h : s.memOk = true) :
    (s.taintLoc wk loc n).memOk = true := by
  unfold State.taintLoc
  split
  · exact h
  · split <;> exact h
  · exact h

theorem memOk_bufferWrite {warp lane core op va : Nat} {loc : Loc} {data : List Byte} (h : s.memOk = true) :
    (s.bufferWrite warp lane core op va loc data).memOk = true := by
  refine memOk_fold (fun _ _ h => h) ?_
  split
  · exact memOk_noteRelease (memOk_keepOld (memOk_kvRaceAt (memOk_taintLoc h)))
  · exact memOk_keepOld (memOk_kvRaceAt (memOk_taintLoc h))

theorem memOk_store {srcs : List Nat} {ccOk : Bool} {d : Nat} {size : BitVec 3} {addr : State → Issue → Nat → Nat}
    (h : s.memOk = true) :
    (s.store srcs ccOk d size addr).memOk = true := by
  refine memOk_withMem h fun _ _ h => ?_
  split
  · refine memOk_if (memOk_illegal _ _ h) (memOk_if h (memOk_access h fun _ _ _ _ h => ?_))
    split
    · split
      next heq =>
        have h1 := of_fst (memOk_relFences h) heq
        exact h1
      next heq =>
        have h1 := of_fst (memOk_relFences h) heq
        exact memOk_startOps h1 fun _ _ _ h => memOk_detStore (memOk_fold (fun _ _ h => memOk_bufferWrite h) h)
    · refine memOk_if (memOk_illegal _ _ h) (memOk_startOps (memOk_fold (fun _ _ h => ?_) h) fun _ _ _ h => h)
      split <;> exact h
  · exact h

theorem ok_execStVbase {f : FmtMv} (h : s.memOk = true) : ResOk (execStVbase f s) := ok_next (memOk_store h)

theorem ok_execStSbase {f : FmtMs} (h : s.memOk = true) : ResOk (execStSbase f s) := ok_next (memOk_store h)

theorem memOk_landWords {o : Op} {l d : Nat} {ws : List Word} (h : s.memOk = true) :
    (s.landWords o l d ws).memOk = true :=
  memOk_fold (fun _ _ h => memOk_if h (memOk_landV h)) h

theorem memOk_dataError {o : Op} {ps : List LanePart} {atomic : Bool} (h : s.memOk = true) :
    (s.dataError o ps atomic).memOk = true := by
  unfold State.dataError
  dsimp only
  split
  · split
    · exact memOk_helperTrap (memOk_readError (memOk_if_snd h h))
    · exact memOk_readError (memOk_if_snd h h)
  · exact h

theorem memOk_returnTo {wk l rec : Nat} (h : s.memOk = true) : (s.returnTo wk l rec).memOk = true := memOk_arrive h

theorem memOk_returnAll {o : Op} (h : s.memOk = true) : (s.returnAll o).memOk = true := by
  unfold State.returnAll
  split
  · refine memOk_if ?_ (memOk_fold (fun _ _ h => memOk_returnTo h) h)
    split
    · exact h
    · exact memOk_takeTrap _ _ _ h
  · exact h

theorem ok_execLoadDataReturn {op : Nat} (h : s.memOk = true) : ResOk (execLoadDataReturn op s) := by
  refine ok_next ?_
  split
  · exact h
  · refine memOk_if h ?_
    split
    · split
      · exact memOk_returnAll (memOk_endOp h)
      · exact memOk_dataError (memOk_returnAll (memOk_endOp h))
    · split
      · exact memOk_fold (fun _ _ h => memOk_landWords h) (memOk_endOp h)
      · exact memOk_dataError (memOk_fold (fun _ _ h => memOk_landWords h) (memOk_endOp h))

theorem memOk_fenceEnd {op : Nat} (h : s.memOk = true) : (s.fenceEnd op).memOk = true := by
  unfold State.fenceEnd
  split
  · exact h
  · exact memOk_if (memOk_if (memOk_regsAcquired h) h) (memOk_if (memOk_regsAcquired h) h)

theorem ok_execStorePerformed {op : Nat} (h : s.memOk = true) : ResOk (execStorePerformed op s) := by
  refine ok_next ?_
  split
  · exact h
  · exact memOk_if h (memOk_endOp (memOk_fenceEnd h))

/-! ### Atom -/

theorem memOk_rmwNow {ag : Agent} {loc : Loc} {scope code : Nat} {w64 : Bool} {d e : Nat} (h : s.memOk = true) :
    (s.rmwNow ag loc scope code w64 d e).2.memOk = true := by
  unfold State.rmwNow
  extract_lets n s1 s2 new
  have h2 : s2.memOk = true := memOk_if (memOk_postWhere _ h) (memOk_kvRaceAt (memOk_postWhere _ h))
  clear_value s2
  split
  · exact h2
  · exact memOk_onchipWrite _ _ _ _ h2
  · exact memOk_hostStore _ _ _ h2
  · exact memOk_if_snd h2 (memOk_if h2 (memOk_ucWrite _ _ h2))
  · split
    · split
      next heq =>
        have h3 := of_trd (memOk_readNormal h2) heq
        exact memOk_if_snd h3 (memOk_if h3 (memOk_coreWrite _ _ _ h3))
    · exact memOk_fold (fun _ _ h => h) (memOk_if (memOk_pushBytes _ _ _ h2)
        (memOk_homeWrite (memOk_pushBytes _ _ _ h2)))
  · exact h2

theorem memOk_promote {k : Nat} {loc : Loc} {n : Nat} (h : s.memOk = true) : (s.promote k loc n).memOk = true :=
  memOk_fold (fun _ _ h => memOk_pushCore _ h) h

theorem memOk_acquireDrop {core scope : Nat} (h : s.memOk = true) : (s.acquireDrop core scope).memOk = true :=
  memOk_if h h

theorem memOk_atomLane {i : Issue} {w : Warp} {op ctx code scope : Nat} {w64 acq rp : Bool} {order : BitVec 2}
    {relSc d e : Nat} {x : LaneAcc} {dst : Nat} (h : s.memOk = true) :
    (s.atomLane i w op ctx code scope w64 acq rp order relSc d e x dst).2.memOk = true := by
  unfold State.atomLane
  dsimp only
  split
  · exact memOk_postWhere _ (memOk_noteRelease (memOk_if (memOk_promote h) h))
  · exact memOk_peerFloor _ _ _ _ (memOk_skSend (memOk_postWhere _
      (memOk_noteRelease (memOk_if (memOk_promote h) h))))
  · exact memOk_if (memOk_regsAcquired (memOk_acquireDrop
      (memOk_rmwNow (memOk_taintLoc (memOk_noteRelease (memOk_if (memOk_promote h) h))))))
      (memOk_rmwNow (memOk_taintLoc (memOk_noteRelease (memOk_if (memOk_promote h) h))))

theorem memOk_fillPart {op lane : Nat} {bs : List Byte} {bad : Bool} (h : s.memOk = true) :
    (s.fillPart op lane bs bad).memOk = true := by
  unfold State.fillPart
  split
  · exact h
  · exact memOk_fenceEnd h

theorem memOk_atom {code : Nat} {dReg aReg : BitVec 7} {scope : BitVec 4} {order : BitVec 2} {fsel : BitVec 1}
    (h : s.memOk = true) :
    (s.atom code dReg aReg scope order fsel).memOk = true := by
  unfold State.atom
  split
  · exact h
  · refine memOk_if (memOk_forbid _ _ _ h) (memOk_if (memOk_illegal _ _ h)
      (memOk_withMem h fun _ _ h => memOk_if h (memOk_access h fun _ _ _ _ h => ?_)))
    split
    · exact memOk_raise _ _ _ _ h
    · split
      next heq =>
        have h1 := of_fst (memOk_relFences h) heq
        exact h1
      next heq =>
        have h1 := of_fst (memOk_relFences h) heq
        extract_lets rels s1 cc mk
        have hr : rels.1.memOk = true := memOk_if_fst (memOk_fold_fst (fun _ _ h => memOk_release _ _ _ _ h) h1) h1
        clear_value rels
        exact memOk_if hr (memOk_startOps hr fun _ _ _ h =>
          memOk_if (memOk_fold_snd (fun _ _ h => memOk_atomLane h) h)
            (memOk_fold_snd (fun _ _ h => memOk_atomLane h) h))

theorem ok_execAtomAdd {f : FmtAtom} (h : s.memOk = true) : ResOk (execAtomAdd f s) := ok_next (memOk_atom h)

theorem ok_execAtomMins {f : FmtAtom} (h : s.memOk = true) : ResOk (execAtomMins f s) := ok_next (memOk_atom h)

theorem ok_execAtomMaxs {f : FmtAtom} (h : s.memOk = true) : ResOk (execAtomMaxs f s) := ok_next (memOk_atom h)

theorem ok_execAtomMinn {f : FmtAtom} (h : s.memOk = true) : ResOk (execAtomMinn f s) := ok_next (memOk_atom h)

theorem ok_execAtomMaxn {f : FmtAtom} (h : s.memOk = true) : ResOk (execAtomMaxn f s) := ok_next (memOk_atom h)

theorem ok_execAtomAnd {f : FmtAtom} (h : s.memOk = true) : ResOk (execAtomAnd f s) := ok_next (memOk_atom h)

theorem ok_execAtomOr {f : FmtAtom} (h : s.memOk = true) : ResOk (execAtomOr f s) := ok_next (memOk_atom h)

theorem ok_execAtomXor {f : FmtAtom} (h : s.memOk = true) : ResOk (execAtomXor f s) := ok_next (memOk_atom h)

theorem ok_execAtomXchg {f : FmtAtom} (h : s.memOk = true) : ResOk (execAtomXchg f s) := ok_next (memOk_atom h)

theorem ok_execAtomCas {f : FmtAtom} (h : s.memOk = true) : ResOk (execAtomCas f s) := ok_next (memOk_atom h)

theorem ok_execAtomFadd {f : FmtAtom} (h : s.memOk = true) : ResOk (execAtomFadd f s) := ok_next (memOk_atom h)

theorem ok_execAtomBadd2 {f : FmtAtom} (h : s.memOk = true) : ResOk (execAtomBadd2 f s) := ok_next (memOk_atom h)

theorem ok_execAtomInc {f : FmtAtom} (h : s.memOk = true) : ResOk (execAtomInc f s) := ok_next (memOk_atom h)

theorem ok_execAtomDec {f : FmtAtom} (h : s.memOk = true) : ResOk (execAtomDec f s) := ok_next (memOk_atom h)

theorem ok_execAtomStrel {f : FmtAtomS} (h : s.memOk = true) : ResOk (execAtomStrel f s) := ok_next (memOk_atom h)

theorem ok_execAtomLdacq {f : FmtAtomS} (h : s.memOk = true) : ResOk (execAtomLdacq f s) := ok_next (memOk_atom h)

theorem ok_execAtomicReturn {op : Nat} (h : s.memOk = true) : ResOk (execAtomicReturn op s) := by
  unfold execAtomicReturn
  dsimp only
  refine ok_next ?_
  split
  · exact h
  · refine memOk_if h ?_
    split
    · exact memOk_if (memOk_endOp h) (memOk_fold (fun _ _ h => memOk_landWords h) (memOk_endOp h))
    · exact memOk_dataError (memOk_if (memOk_endOp h) (memOk_fold (fun _ _ h => memOk_landWords h) (memOk_endOp h)))

/-! ### Sync -/

theorem memOk_once {ccOk : Bool} {k : Issue → State → State} (h : s.memOk = true) (hk : ∀ a, Keeps (k a)) :
    (s.once ccOk k).memOk = true := by
  unfold State.once
  split
  · exact h
  · exact memOk_if (memOk_forbid _ _ _ h) (memOk_if (memOk_forbid _ _ _ h) (memOk_if (hk _ _ h) h))

theorem memOk_fenceAcq {wk l core scope : Nat} (h : s.memOk = true) : (s.fenceAcq wk l core scope).memOk = true :=
  memOk_regsAcquired (memOk_acquireDrop h)

theorem ok_execFence {order : BitVec 2} {scope : BitVec 4} (h : s.memOk = true) :
    ResOk (execFence order scope s) := by
  unfold execFence
  refine ok_next ?_
  split
  · exact h
  · refine memOk_if (memOk_forbid _ _ _ h) ?_
    split
    · exact h
    next w _ =>
      extract_lets sc ls r
      have hr : r.1.memOk = true := memOk_fold_fst (fun _ _ h => memOk_release _ _ _ _ h) h
      clear_value r
      exact memOk_if (memOk_fold (fun _ _ h => h) h) (memOk_if
        (memOk_if (memOk_fold (fun _ _ h => memOk_fenceAcq h) hr) hr) (memOk_fold (fun _ _ h => memOk_fenceAcq h) h))

theorem ok_execOpfence (h : s.memOk = true) : ResOk (execOpfence s) :=
  ok_next (memOk_once h fun _ _ h => memOk_if h (memOk_fold (fun _ _ h => memOk_postWr _ _ h) h))

theorem ok_execWaitf {mask : BitVec 12} (h : s.memOk = true) : ResOk (execWaitf mask s) := by
  refine ok_next ?_
  split
  · exact h
  · exact memOk_if h (memOk_if h (memOk_if (memOk_regsAcquired h) h))

theorem memOk_onceOp {i : Issue} {fsel : BitVec 1} {kind : OpKind} {ev : Nat → Instr} (h : s.memOk = true) :
    (s.onceOp i fsel kind ev).memOk = true :=
  memOk_if h (memOk_startOp h)

theorem ok_execTlrflush {x : BitVec 7} {fsel : BitVec 1} (h : s.memOk = true) : ResOk (execTlrflush x fsel s) :=
  ok_next (memOk_withThread h fun _ _ h => memOk_if (memOk_onceOp h) h)

theorem ok_execTlrflushDone {op : Nat} (h : s.memOk = true) : ResOk (execTlrflushDone op s) := by
  refine ok_next ?_
  split
  · exact h
  · split
    · exact memOk_if h (memOk_endOp h)
    · exact memOk_endOp h

theorem ok_execIpref {f : FmtIc} (h : s.memOk = true) : ResOk (execIpref f s) :=
  ok_next (memOk_once h fun _ _ h => memOk_onceOp h)

theorem ok_execIpin {x y : BitVec 7} (h : s.memOk = true) : ResOk (execIpin x y s) := by
  refine ok_next (memOk_once h fun _ _ h => ?_)
  split
  · exact h
  · split <;> exact h

theorem ok_execIunpin {x y : BitVec 7} (h : s.memOk = true) : ResOk (execIunpin x y s) := by
  refine ok_next (memOk_once h fun _ _ h => ?_)
  split
  · exact h
  · split <;> exact h

theorem memOk_cacheOp {f : FmtIc} {inv : Bool} (h : s.memOk = true) : (s.cacheOp f inv).memOk = true := by
  unfold State.cacheOp
  split
  · exact h
  · exact memOk_withMem h fun _ _ h => memOk_if (memOk_forbid _ _ _ h)
      (memOk_if h (memOk_if (memOk_raise _ _ _ _ h) (memOk_if (memOk_raise _ _ _ _ h) (memOk_onceOp h))))

theorem ok_execCinv {f : FmtIc} (h : s.memOk = true) : ResOk (execCinv f s) := ok_next (memOk_cacheOp h)

theorem ok_execCwb {f : FmtIc} (h : s.memOk = true) : ResOk (execCwb f s) := ok_next (memOk_cacheOp h)

theorem memOk_dropCore {core blk : Nat} (h : s.memOk = true) : (s.dropCore core blk).memOk = true := h

theorem memOk_lineOp {core pa : Nat} {inv l2 : Bool} (h : s.memOk = true) :
    (s.lineOp core pa inv l2).memOk = true := by
  unfold State.lineOp
  refine memOk_fold (fun t b h => ?_) h
  split
  · exact memOk_if (memOk_dropHome (memOk_settleBlockAll _ h)) (memOk_settleBlockAll _ h)
  · exact memOk_if (memOk_dropCore (memOk_pushBlock _ _ h)) (memOk_pushBlock _ _ h)

theorem ok_execCacheOpDone {op : Nat} (h : s.memOk = true) : ResOk (execCacheOpDone op s) := by
  refine ok_next ?_
  split
  · exact h
  · split
    · refine memOk_endOp (memOk_fold (fun _ _ h => ?_) h)
      split
      · exact memOk_lineOp h
      · exact h
    · exact memOk_endOp h

end Sys2Proof.Laws
end

section
/-! PROOF of O59, part 3 of 10: launches, faults and the Millstone's banks. -/

namespace Sys2Proof.Laws

open Sys2Proof.Machine

variable {s : State}

/-! ### Sys -/

theorem memOk_withKind {k : BitVec 1} {vs vd : List Nat} {f : Issue → State → State} (h : s.memOk = true)
    (hf : ∀ a, Keeps (f a)) :
    (s.withKind k vs vd f).memOk = true := by
  unfold State.withKind
  split
  · exact h
  · exact memOk_if (memOk_withRegs h hf) (memOk_if (memOk_forbid _ _ _ h) (memOk_if h (hf _ _ h)))

theorem ok_execGetsr {x y : BitVec 7} {k : BitVec 1} (h : s.memOk = true) : ResOk (execGetsr x y k s) := by
  refine ok_next (memOk_withKind h fun _ _ h => memOk_if (memOk_forbid _ _ _ h) (memOk_if (memOk_writeLanes h) ?_))
  split <;> exact h

theorem ok_execSetsr {x y : BitVec 7} {k : BitVec 1} (h : s.memOk = true) : ResOk (execSetsr x y k s) := by
  refine ok_next ?_
  split
  · exact h
  · refine memOk_if (memOk_forbid _ _ _ h) (memOk_withKind h fun _ _ h => memOk_if (memOk_fold (fun _ _ h => h) h)
      (memOk_if ?_ (memOk_if (memOk_forbid _ _ _ h) (memOk_forbid _ _ _ h))))
    split <;> exact h

theorem ok_execRand {d : BitVec 7} {w : BitVec 2} (h : s.memOk = true) : ResOk (execRand d w s) :=
  ok_next (memOk_withThread h fun _ _ h => memOk_fold (fun _ _ h => memOk_fold (fun _ _ h => memOk_wrV h) h) h)

theorem ok_execClock {d : BitVec 7} {k : BitVec 1} (h : s.memOk = true) : ResOk (execClock d k s) := by
  refine ok_next ?_
  split
  · exact h
  · refine memOk_if (memOk_forbid _ _ _ h) (memOk_withKind h fun _ _ h => memOk_if (memOk_writePairs h) ?_)
    split <;> exact h

theorem ok_execCwin {a : BitVec 7} (h : s.memOk = true) : ResOk (execCwin a s) :=
  ok_next (memOk_once h fun _ _ h => memOk_if (memOk_raise _ _ _ _ h) h)

theorem ok_execCwinArgs (h : s.memOk = true) : ResOk (execCwinArgs s) := ok_next (memOk_once h fun _ _ h => h)

theorem ok_execUerpl {src : BitVec 7} {k : BitVec 2} (h : s.memOk = true) : ResOk (execUerpl src k s) := by
  refine ok_next (memOk_withThread h fun _ _ h => ?_)
  split
  · exact h
  · exact memOk_if (memOk_forbid _ _ _ h) (memOk_if (memOk_illegal _ _ h)
      (memOk_if h (memOk_fold (fun _ _ h => memOk_setV h) h)))

/-! ### Launch -/

theorem memOk_launchId {c va : Nat} (h : s.memOk = true) : (s.launchId c va).2.memOk = true := by
  unfold State.launchId
  split
  · exact h
  · extract_lets id s1
    split
    · exact memOk_physWrite (s := s1) _ _ _ h
    · exact h

theorem memOk_tryLaunch {c va : Nat} {dc : Word} {node : Option (Nat × Nat)} {queue : Option Nat} {qwcb idx : Nat}
    {ahead : List WaitLaunch} (h : s.memOk = true) :
    (s.tryLaunch c va dc node queue qwcb idx ahead).2.memOk = true := by
  unfold State.tryLaunch
  split
  · exact memOk_ctxRecord _ _ h
  · exact memOk_if_snd h (memOk_launchId h)
  · exact memOk_if_snd h h

theorem memOk_ready {c va : Nat} {dc : Word} (h : s.memOk = true) : (s.ready c va dc).memOk = true := by
  refine memOk_if h ?_
  split
  next heq =>
    have h1 := of_snd (memOk_tryLaunch h) heq
    exact h
  next heq =>
    have h1 := of_snd (memOk_tryLaunch h) heq
    exact h1

theorem memOk_counter {c entry : Nat} {op : DcOp} (h : s.memOk = true) : (s.counter c entry op).memOk = true := by
  unfold State.counter
  dsimp only
  split
  · exact h
  · split
    · exact h
    · split
      · exact memOk_physWrite _ _ _ h
      · exact memOk_ready (memOk_physWrite _ _ _ h)

theorem ok_execDcDecrement {ctx entry : Nat} {status : BitVec 16} (h : s.memOk = true) :
    ResOk (execDcDecrement ctx entry status s) :=
  ok_next (memOk_counter h)

theorem memOk_graphFault {g : Machine.Graph} (h : s.memOk = true) : (s.graphFault g).memOk = true :=
  memOk_stopContext _ _ h

theorem memOk_visits {k : Nat} {xs : List Nat} (h : s.memOk = true) : (s.visits k xs).memOk = true := by
  unfold State.visits
  split <;> exact h

theorem memOk_launchHeld {c : Nat} (h : s.memOk = true) : (s.launchHeld c).memOk = true := by
  unfold State.launchHeld
  split
  · exact h
  · refine memOk_fold_fst (fun _ _ h => ?_) h
    split
    · split
      next heq =>
        have h1 := of_snd (memOk_tryLaunch h) heq
        exact h
      next heq =>
        have h1 := of_snd (memOk_tryLaunch h) heq
        exact h1
    · exact memOk_if_fst h h

theorem memOk_launchWaiting {c : Nat} (h : s.memOk = true) : (s.launchWaiting c).memOk = true :=
  memOk_if (memOk_launchHeld h) h

theorem memOk_graphDone {k : Nat} (h : s.memOk = true) : (s.graphDone k).memOk = true := by
  unfold State.graphDone
  split
  · exact h
  · exact memOk_launchWaiting (memOk_if h h)

theorem memOk_succ {k x : Nat} (h : s.memOk = true) : (s.succ k x).memOk = true := by
  unfold State.succ
  split
  · exact h
  · split
    · exact memOk_if (memOk_if (memOk_graphDone h) h) (memOk_visits h)
    · exact memOk_graphFault h

theorem memOk_visit {k x : Nat} (h : s.memOk = true) : (s.visit k x).memOk = true := by
  unfold State.visit
  dsimp only
  split
  · exact h
  · split
    · exact memOk_graphFault h
    · split
      · split
        next heq =>
          have h1 := of_snd (memOk_tryLaunch h) heq
          exact h1
        next heq =>
          have h1 := of_snd (memOk_tryLaunch h) heq
          exact h1
        next heq =>
          have h1 := of_snd (memOk_tryLaunch h) heq
          exact memOk_if (memOk_graphDone h1) h1
      · split
        · exact memOk_graphFault h
        · exact memOk_visits h
      · split
        · exact memOk_graphFault h
        · exact memOk_visits h
      · refine memOk_if (memOk_succ ?_) ?_
        · split
          · exact memOk_physWrite _ _ _ h
          · exact h
        · split
          · exact memOk_physWrite _ _ _ h
          · exact h
      · exact memOk_if (memOk_visits h) (memOk_if (memOk_graphDone h) h)
      · exact memOk_graphFault h

theorem memOk_walkStep {c : Nat} (h : s.memOk = true) : (s.walkStep c).memOk = true := by
  refine memOk_if h ?_
  split
  · exact h
  · split
    · exact h
    · exact memOk_visit h

theorem memOk_nodeSignal {l : Launch} {early : Bool} (h : s.memOk = true) : (s.nodeSignal l early).memOk = true := by
  unfold State.nodeSignal
  split
  · exact h
  · split
    · exact memOk_if (memOk_succ h) h
    · exact h

theorem memOk_launchTrig {k : Nat} (h : s.memOk = true) : (s.launchTrig k).memOk = true := by
  unfold State.launchTrig
  split
  · exact h
  · exact memOk_if h (memOk_nodeSignal (memOk_if h h))

theorem memOk_launchEnd {k : Nat} (h : s.memOk = true) : (s.launchEnd k).memOk = true := by
  unfold State.launchEnd
  split
  · exact h
  · exact memOk_if h (memOk_launchWaiting (memOk_nodeSignal (memOk_if h h)))

theorem memOk_tokenMove {k : Nat} (h : s.memOk = true) : (s.tokenMove k).memOk = true := by
  unfold State.tokenMove
  split
  · exact h
  · split
    · exact h
    · refine memOk_if ?_ h
      split <;> exact h

theorem memOk_tokenAdvance {k : Nat} (h : s.memOk = true) : (s.tokenAdvance k).memOk = true := by
  unfold State.tokenAdvance
  split
  · exact h
  · exact memOk_if (memOk_fold (fun _ _ h => memOk_tokenMove h) h) h

theorem memOk_endRound {t : Team} (h : s.memOk = true) : (s.endRound t).memOk = true :=
  memOk_pushCore _ (memOk_fold (fun _ _ h => memOk_postWarp _ h) h)

theorem memOk_detSwitch {tk : Nat} (h : s.memOk = true) : (s.detSwitch tk).memOk = true := by
  unfold State.detSwitch
  dsimp only
  split
  · exact h
  · split
    · exact h
    · refine memOk_if h ?_
      split
      · exact h
      · exact memOk_if (memOk_tokenAdvance (memOk_if (memOk_endRound h) h)) (memOk_if (memOk_endRound h) h)

theorem memOk_switchPoint {wk : Nat} (h : s.memOk = true) : (s.switchPoint wk).memOk = true := by
  unfold State.switchPoint
  split
  · split
    · exact h
    · exact memOk_if h (memOk_detSwitch h)
  · exact h

theorem memOk_detExit {wk : Nat} (h : s.memOk = true) : (s.detExit wk).memOk = true := by
  unfold State.detExit
  split
  · split
    · exact h
    · exact memOk_if h (memOk_if (memOk_tokenAdvance (memOk_endRound h)) (memOk_switchPoint h))
  · exact h

theorem memOk_teamEnd {tk : Nat} (h : s.memOk = true) : (s.teamEnd tk).memOk = true := by
  unfold State.teamEnd
  split
  · exact h
  · exact memOk_if h (memOk_launchEnd (memOk_launchTrig
      (memOk_if (memOk_tokenAdvance (memOk_pushCore _ h)) (memOk_pushCore _ h))))

/-! ### Faults -/

theorem memOk_batchRecords {b : Batch} (h : s.memOk = true) : (s.batchRecords b).2.memOk = true :=
  memOk_fold_snd (fun _ _ h => h) h

theorem memOk_sendBatch {id : Nat} (h : s.memOk = true) : (s.sendBatch id).memOk = true := by
  unfold State.sendBatch
  split
  · exact h
  · split
    · exact h
    · exact memOk_if h (memOk_if h (memOk_fold (fun _ _ h => memOk_faultRecord _ _ h) (memOk_batchRecords h)))

theorem memOk_enterBatch {x : SlotWait} {run : Bool} (h : s.memOk = true) : (s.enterBatch x run).2.memOk = true := by
  unfold State.enterBatch
  split
  · split <;> exact h
  · exact memOk_if_snd h (memOk_if h (memOk_sendBatch h))

theorem memOk_startAhead {wk : Nat} {lanes : List Nat} {batch : Nat} (h : s.memOk = true) :
    (s.startAhead wk lanes batch).memOk = true := by
  unfold State.startAhead
  split
  · exact h
  · exact memOk_if (memOk_sendBatch h) h

theorem memOk_warpFault {wk : Nat} {lanes : List Nat} {fs : List PageFault} {run : Bool} (h : s.memOk = true) :
    (s.warpFault wk lanes fs run).memOk = true := by
  unfold State.warpFault
  dsimp only
  split
  · split
    next heq =>
      have h1 := of_snd (memOk_enterBatch h) heq
      exact memOk_if (memOk_startAhead h1) h1
    next heq =>
      have h1 := of_snd (memOk_enterBatch h) heq
      split <;> exact h1
  · exact h

theorem memOk_takeSlot {x : SlotWait} (h : s.memOk = true) : (s.takeSlot x).memOk = true := by
  unfold State.takeSlot
  dsimp only
  split
  · exact memOk_startAhead (memOk_enterBatch h)
  · exact memOk_enterBatch h
  · exact memOk_enterBatch h
  · exact memOk_enterBatch h

theorem memOk_openDeferred {core : Nat} (h : s.memOk = true) : (s.openDeferred core).memOk = true :=
  memOk_fold (fun _ _ h => memOk_if (memOk_takeSlot h) h) (memOk_fold (fun _ _ h => memOk_sendBatch h) h)

theorem ok_execBatchOpenDeferred {core : Nat} (h : s.memOk = true) : ResOk (execBatchOpenDeferred core s) :=
  ok_next (memOk_if (memOk_openDeferred h) (memOk_openDeferred h))

theorem ok_execRunaheadEnd {warp : Nat} (h : s.memOk = true) : ResOk (execRunaheadEnd warp s) := by
  refine ok_next ?_
  split
  · exact memOk_sendBatch h
  · exact h

theorem memOk_engineFault {ctx core src unit wcb op part : Nat} {f : PageFault} (h : s.memOk = true) :
    (s.engineFault ctx core src unit wcb op part f).memOk = true :=
  memOk_if h (memOk_enterBatch h)

theorem memOk_engineXlate {u : XUnit} {ctx va lane : Nat} {a : Access} (h : s.memOk = true) :
    (s.engineXlate u ctx va lane a).2.memOk = true := by
  unfold State.engineXlate
  split
  all_goals
    next heq =>
      have h1 := of_snd (memOk_translate h) heq
      exact h1

/-! ### Mill -/

theorem memOk_millRecord {kind row : Nat} {who : Option (Nat × Nat)} (h : s.memOk = true) :
    (s.millRecord kind row who).memOk = true :=
  memOk_errorRecord _ _ h

theorem memOk_swPart {op : Nat} (h : s.memOk = true) : (s.swPart op).memOk = true := memOk_if (memOk_endOpAcq h) h

theorem memOk_retireShot {x : Shot} (h : s.memOk = true) : (s.retireShot x).memOk = true := memOk_swPart h

theorem memOk_enterShot {x : Shot} (h : s.memOk = true) : (s.enterShot x).memOk = true :=
  memOk_if h (memOk_millRecord (memOk_retireShot h))

theorem memOk_unstage {channel : Nat} (h : s.memOk = true) : (s.unstage channel).memOk = true :=
  memOk_fold (fun _ _ h => memOk_if (memOk_enterShot h) h) h

theorem memOk_setRow {row : Nat} {bs : List Byte} (h : s.memOk = true) : (s.setRow row bs).memOk = true :=
  memOk_bankStore h

theorem memOk_applyFn {row code : Nat} {lw16 : Bool} {k0 k1 : Word} {who : Option (Nat × Nat)} (h : s.memOk = true) :
    (s.applyFn row code lw16 k0 k1 who).memOk = true :=
  memOk_if (memOk_millRecord (memOk_if h (memOk_setRow h))) (memOk_if h (memOk_setRow h))

theorem memOk_applyShot {x : Shot} (h : s.memOk = true) : (s.applyShot x).memOk = true :=
  memOk_retireShot (memOk_applyFn h)

theorem memOk_refuseShot {x : Shot} (h : s.memOk = true) : (s.refuseShot x).memOk = true :=
  memOk_millRecord (memOk_retireShot h)

theorem memOk_periodic {row : Nat} (h : s.memOk = true) : (s.periodic row).memOk = true := by
  unfold State.periodic
  split
  · exact h
  · exact memOk_applyFn h

theorem memOk_restoreRow {row : Nat} {refresh : Bool} {who : Option (Nat × Nat)} (h : s.memOk = true) :
    (s.restoreRow row refresh who).memOk = true := by
  unfold State.restoreRow
  extract_lets ues pend m s1 owner fills s2 known s3 s4 s5
  have h1 : s1.memOk = true := h
  clear_value s1
  have hshots : ∀ {l : List Shot} {t : State}, t.memOk = true → (l.foldl State.applyShot t).memOk = true :=
    fun h => memOk_fold (fun _ _ h => memOk_applyShot h) h
  have h3 : s3.memOk = true := by
    unfold s3
    split
    · exact memOk_fold (fun _ _ h => memOk_refuseShot h) h1
    next f _ =>
      extract_lets before from_ t1 t2
      have ht : t2.memOk = true := hshots (memOk_fold (fun _ _ h => memOk_refuseShot h) h1)
      exact memOk_if (memOk_periodic ht) ht
  clear_value s3
  have h2 : s2.memOk = true := hshots h1
  clear_value s2
  have h4 : s4.memOk = true := memOk_if (memOk_if (memOk_periodic h2) h2) (memOk_if h3 (memOk_millRecord h3))
  clear_value s4
  have h5 : s5.memOk = true := memOk_unstage h4
  clear_value s5
  exact memOk_if h5 h5

theorem memOk_serveEnt {e : QEnt} (h : s.memOk = true) : (s.serveEnt e).memOk = true := by
  refine memOk_if ?_ ?_
  · split
    · exact memOk_fillPart h
    · exact memOk_millRecord h
    · exact memOk_millRecord (memOk_fillPart h)
    · exact memOk_swPart h
  · split
    · exact memOk_restoreRow (memOk_fillPart h)
    · exact memOk_restoreRow (memOk_bankStore h)
    · exact memOk_restoreRow (memOk_if (memOk_fillPart h) (memOk_bankStore (memOk_fillPart h)))
    · exact memOk_swPart (memOk_restoreRow h)

theorem ok_execServe {ent : Nat} (h : s.memOk = true) : ResOk (execServe ent s) := by
  refine ok_next ?_
  split
  · exact h
  · exact memOk_if (memOk_serveEnt h) h

theorem memOk_serveRow {row : Nat} (h : s.memOk = true) : (s.serveRow row).memOk = true :=
  memOk_fold (fun _ _ h => memOk_serveEnt h) h

theorem memOk_beginPass {bank cls : Nat} (h : s.memOk = true) : (s.beginPass bank cls).memOk = true := memOk_if h h

theorem memOk_endPass {bank cls : Nat} (h : s.memOk = true) : (s.endPass bank cls).memOk = true := h

theorem memOk_refresh {bank cls : Nat} (h : s.memOk = true) : (s.refresh bank cls).memOk = true := by
  unfold State.refresh
  extract_lets p s1 p2 s2 put
  have h1 : s1.memOk = true := memOk_if (memOk_endPass h) h
  clear_value s1
  have h2 : s2.memOk = true := memOk_if h1 (memOk_beginPass h1)
  clear_value s2
  have hput : ∀ u q, State.memOk u = true → (put u q).memOk = true := fun _ _ h => h
  split
  · exact memOk_if (memOk_endPass h2) (hput _ _ h2)
  · exact hput _ _ (memOk_restoreRow h2)

theorem memOk_swRead {pa n : Nat} {who : Option (Nat × Nat)} (h : s.memOk = true) :
    (s.swRead pa n who).2.2.memOk = true :=
  memOk_if_trd (memOk_restoreRow (memOk_serveRow h)) (memOk_serveRow h)

theorem memOk_swRowRead {row lo n : Nat} {ctx : Option Nat} (h : s.memOk = true) :
    (s.swRowRead row lo n ctx).2.2.memOk = true :=
  memOk_if_trd (memOk_swRead h) h

theorem memOk_outsideRead {ctx : Option Nat} {a n : Nat} (h : s.memOk = true) :
    (s.outsideRead ctx a n).2.2.memOk = true :=
  memOk_fold_trd (fun _ _ h => memOk_swRowRead h) h

theorem memOk_outsideWrite {ctx : Option Nat} {a : Nat} {data : List Byte} {host : Bool} (h : s.memOk = true) :
    (s.outsideWrite ctx a data host).memOk = true :=
  memOk_fold (fun _ _ h => memOk_if h (memOk_homeWrite h)) h

end Sys2Proof.Laws
end

section
/-! PROOF of O59, part 4 of 10: placement, resources, discarding and control. -/

namespace Sys2Proof.Laws

open Sys2Proof.Machine

variable {s : State}

/-! ### Place -/

theorem memOk_writeTeamWcb {c : Nat} {t : TaskVals} {twcb core first spbase : Nat} {whole : Bool}
    (h : s.memOk = true) :
    (s.writeTeamWcb c t twcb core first spbase whole).memOk = true := by
  unfold State.writeTeamWcb
  split
  · exact memOk_if (memOk_physWrite _ _ _ h) (memOk_physWrite _ _ _ h)
  · exact h

theorem memOk_grantBlocks {wk : Nat} {bs : List Nat} (h : s.memOk = true) : (s.grantBlocks wk bs).memOk = true := by
  unfold State.grantBlocks
  split
  · exact h
  · exact memOk_fold (fun _ _ h => h) h

theorem memOk_grantTiles {tk : Nat} {ts : List Nat} (h : s.memOk = true) : (s.grantTiles tk ts).memOk = true := by
  unfold State.grantTiles
  split
  · exact h
  · exact memOk_fold (fun _ _ h => h) h

theorem memOk_addWarp {tk core : Nat} {v : TaskVals} {k : Nat} {place : Nat × Nat} {old : Option Warp} {dcTrap : Bool}
    (h : s.memOk = true) :
    (s.addWarp tk core v k place old dcTrap).memOk = true :=
  memOk_if h h

theorem memOk_setLeads {tk : Nat} (h : s.memOk = true) : (s.setLeads tk).memOk = true := by
  unfold State.setLeads
  split
  · exact h
  · refine memOk_if h (memOk_fold (fun _ _ h => ?_) h)
    split
    · exact h
    · exact memOk_if h h

theorem memOk_reserveHelpers {tk : Nat} (h : s.memOk = true) : (s.reserveHelpers tk).memOk = true := by
  unfold State.reserveHelpers
  split
  · exact h
  · exact memOk_if h h

theorem memOk_placeTeam {k idx core : Nat} {old : Option (Team × List (Option Warp))} (h : s.memOk = true) :
    (s.placeTeam k idx core old).memOk = true := by
  unfold State.placeTeam
  split
  · exact h
  next l _ =>
    extract_lets v
    split
    · extract_lets
      split
      next t0 heq =>
        have h0 : t0.memOk = true := of_snd (p := s.fresh) h heq
        extract_lets s1 s2 s3 s4 s5 s6
        have h3 : s3.memOk = true := memOk_fold (fun _ _ h => memOk_if (memOk_addWarp h) h) h0
        clear_value s3
        have h4 : s4.memOk = true := by
          unfold s4
          split
          · exact h3
          · refine memOk_fold (fun _ _ h => ?_) (memOk_grantTiles h3)
            split
            · exact memOk_grantBlocks h
            · exact h
        clear_value s4
        have h5 : s5.memOk = true := memOk_reserveHelpers (memOk_setLeads h4)
        clear_value s5
        have h6 : s6.memOk = true := memOk_if h5 h5
        clear_value s6
        exact memOk_writeTeamWcb (s := s6.dropClean core) h6
    · exact h

theorem memOk_placeOne {k idx core : Nat} {old : Option (Team × List (Option Warp))} (h : s.memOk = true) :
    (s.placeOne k idx core old).memOk = true := by
  unfold State.placeOne
  extract_lets s1
  have h1 : s1.memOk = true := memOk_placeTeam h
  clear_value s1
  split
  · exact h1
  · split <;> exact h1

theorem memOk_placeAll {k : Nat} {l : Launch} (h : s.memOk = true) {t : State} (e : s.placeAll k l = some t) :
    t.memOk = true := by
  refine foldl_keeps (fun o : Option State => ∀ t, o = some t → t.memOk = true) (fun o _ ho t e => ?_)
    (List.range l.vals.teams) (fun t e => Option.some.inj e ▸ h) t e
  obtain ⟨u, hu, e⟩ := Option.bind_eq_some_iff.mp e
  have hu := ho u hu
  split at e
  · cases e
  · split at e
    · exact Option.some.inj e ▸ hu
    · obtain ⟨c, -, rfl⟩ := Option.map_eq_some_iff.mp e
      exact memOk_placeOne hu

theorem ok_execTeamPlace {launch team core first : Nat} (h : s.memOk = true) :
    ResOk (execTeamPlace launch team core first s) := by
  refine ok_next (memOk_if h ?_)
  split
  · exact h
  · split
    · exact h
    · refine memOk_if ?_ (memOk_placeOne h)
      cases e : s.placeAll launch _ with
      | none => exact h
      | some t => exact memOk_placeAll h e

theorem ok_execTeamMove {team core first : Nat} (h : s.memOk = true) : ResOk (execTeamMove team core first s) := by
  unfold execTeamMove
  refine ok_next ?_
  split
  · exact h
  next t _ =>
    extract_lets gone wcb keep posted bytes tiles ws cmds s0 s1 s2
    refine memOk_if h ?_
    have hp : posted.memOk = true := memOk_pushCore _ (memOk_fold (fun _ _ h => memOk_postWarp _ h) h)
    have h2 : s2.memOk = true := memOk_placeTeam (s := s1) hp
    clear_value s2
    split
    · exact h
    next nt _ =>
      extract_lets s3 s4
      have h4 : s4.memOk = true := by
        unfold s4
        refine memOk_fold (fun t e h => ?_) h2
        split
        · exact memOk_fold (fun _ _ h => h) h
        · exact h
      clear_value s4
      split
      next heq =>
        have h5 := of_snd (p := s4.fresh) h4 heq
        extract_lets f s6 copies nms
        have h6 : s6.memOk = true := memOk_if h5 h5
        exact h6

theorem memOk_ringAsk {c q : Nat} (h : s.memOk = true) : (s.ringAsk c q).memOk = true := by
  unfold State.ringAsk
  dsimp only
  split
  · exact h
  · refine memOk_if h ?_
    split
    · exact h
    · split
      · exact memOk_if (memOk_hostXlate h) (memOk_if h (memOk_skSend h))
      · exact h

theorem memOk_ringDrop {c q head : Nat} (h : s.memOk = true) : (s.ringDrop c q head).memOk = true := by
  unfold State.ringDrop
  dsimp only
  split
  · exact h
  · split
    · exact h
    · split <;> exact h

theorem memOk_tryEntry {c q : Nat} {e : QueueEntry} (h : s.memOk = true) : (s.tryEntry c q e).2.memOk = true :=
  memOk_tryLaunch h

theorem memOk_consume {c q : Nat} {e : QueueEntry} (h : s.memOk = true) : (s.consume c q e).memOk = true := by
  refine memOk_if (memOk_physWrite _ _ _ (memOk_ctxRecord _ _ (memOk_ringDrop h))) ?_
  split
  next heq =>
    have h1 := of_snd (memOk_tryEntry (memOk_ringDrop h)) heq
    exact memOk_launchWaiting (memOk_physWrite _ _ _ h1)
  next heq =>
    have h1 := of_snd (memOk_tryEntry (memOk_ringDrop h)) heq
    exact memOk_physWrite _ _ _ h1

theorem ok_execFrontEndLaunch {ctx q : Nat} (h : s.memOk = true) : ResOk (execFrontEndLaunch ctx q s) := by
  unfold execFrontEndLaunch
  dsimp only
  refine ok_next ?_
  split
  · exact memOk_ringAsk (memOk_walkStep h)
  · refine memOk_if (memOk_walkStep h) ?_
    split
    · exact memOk_walkStep h
    · exact memOk_if (memOk_consume (memOk_walkStep h)) (memOk_walkStep h)

/-! ### Res -/

theorem memOk_resGrant {wk : Nat} {ext : Bool} {items : List Nat} (h : s.memOk = true) :
    (s.resGrant wk ext items).memOk = true := by
  refine memOk_if (memOk_grantBlocks h) ?_
  split
  · exact memOk_grantTiles h
  · exact h

theorem memOk_resServe {r : ResReq} (h : s.memOk = true) : (s.resServe r).memOk = true :=
  memOk_wake (memOk_resGrant h)

theorem memOk_detGrants {tk : Nat} (h : s.memOk = true) : (s.detGrants tk).memOk = true := by
  unfold State.detGrants
  split
  · exact h
  · exact memOk_fold (fun _ _ h => memOk_if (memOk_resServe h) h) h

theorem memOk_acquireRes {ext : Bool} {items : List Nat} {tooBig : TaskVals → Bool} {tryIt : Bool} {p : Nat}
    (h : s.memOk = true) :
    (s.acquireRes ext items tooBig tryIt p).memOk = true := by
  refine memOk_withThread h fun _ _ h => ?_
  split
  · exact memOk_if h (memOk_if (memOk_illegal _ _ h) (memOk_if h
      (memOk_if (memOk_fold (fun _ _ h => memOk_wrP h) (memOk_if (memOk_resGrant h) h))
      (memOk_if (memOk_if (memOk_resGrant h) h) (memOk_if (memOk_resGrant h) h)))))
  · exact h

theorem ok_execXacq {mask : BitVec 4} {tryIt : BitVec 1} {p : BitVec 3} (h : s.memOk = true) :
    ResOk (execXacq mask tryIt p s) :=
  ok_next (memOk_acquireRes h)

theorem ok_execAacq {t : BitVec 8} {n : BitVec 7} {tryIt : BitVec 1} {p : BitVec 3} (h : s.memOk = true) :
    ResOk (execAacq t n tryIt p s) :=
  ok_next (memOk_acquireRes h)

theorem ok_execXrel {mask : BitVec 4} (h : s.memOk = true) : ResOk (execXrel mask s) := by
  refine ok_next (memOk_withThread h fun _ _ h => ?_)
  split
  · exact memOk_if h (memOk_if (memOk_illegal _ _ h) (memOk_if h (memOk_detGrants h)))
  · exact h

theorem ok_execArel {t : BitVec 8} {n : BitVec 7} (h : s.memOk = true) : ResOk (execArel t n s) := by
  refine ok_next (memOk_withThread h fun _ _ h => ?_)
  split
  · exact memOk_if h (memOk_if (memOk_illegal _ _ h) (memOk_if h (memOk_detGrants h)))
  · exact h

theorem ok_execResourceGrant {req : Nat} (h : s.memOk = true) : ResOk (execResourceGrant req s) := by
  refine ok_next ?_
  split
  · exact h
  · exact memOk_if h (memOk_if (memOk_resServe h) h)

/-! ### Discard -/

theorem memOk_removeTeam {tk : Nat} (h : s.memOk = true) : (s.removeTeam tk).memOk = true := by
  unfold State.removeTeam
  split
  · exact h
  · exact memOk_pushCore _ (memOk_fold (fun _ _ h => memOk_postWarp _ h) h)

theorem memOk_discardTeam {tk : Nat} (h : s.memOk = true) : (s.discardTeam tk).memOk = true := by
  unfold State.discardTeam
  split
  · exact h
  · exact memOk_removeTeam h

theorem memOk_recordHoldings {tk : Nat} (h : s.memOk = true) : (s.recordHoldings tk).memOk = true := by
  unfold State.recordHoldings
  split <;> exact h

theorem memOk_performIdembs {tk : Nat} (h : s.memOk = true) : (s.performIdembs tk).memOk = true := by
  unfold State.performIdembs
  split
  · exact h
  · refine memOk_recordHoldings (memOk_fold (fun _ _ h => ?_) h)
    split <;> exact h

theorem memOk_preemptPoll {c : Nat} (h : s.memOk = true) : (s.preemptPoll c).memOk = true := by
  unfold State.preemptPoll
  split
  · exact h
  · refine memOk_if h (memOk_if (memOk_fold (fun _ _ h => ?_) h) (memOk_fold (fun _ _ h => ?_) h))
    · split
      · exact h
      · exact memOk_if (memOk_if (memOk_fold (fun _ _ h => memOk_discardTeam (memOk_performIdembs h)) h) h)
          (memOk_if (memOk_discardTeam h) h)
    · split
      · exact h
      · exact memOk_if (memOk_if (memOk_fold (fun _ _ h => memOk_discardTeam (memOk_performIdembs h)) h) h)
          (memOk_if (memOk_discardTeam h) h)

theorem ok_execWarpEnd {wk : Nat} (h : s.memOk = true) : ResOk (execWarpEnd wk s) := by
  refine ok_next ?_
  split
  · exact memOk_if (memOk_detExit (memOk_launchTrig h))
      (memOk_if (memOk_detExit (memOk_launchTrig h)) (memOk_if (memOk_detExit (memOk_launchTrig h))
      (memOk_preemptPoll (memOk_detGrants (memOk_teamEnd (memOk_detExit (memOk_launchTrig h)))))))
  · exact h

/-! ### Ctrl -/

theorem memOk_ctrl {helperOk ccOk : Bool} {vregs : List Nat} {k : Issue → Warp → Team → State → State}
    {who : State → Issue → List Nat} (h : s.memOk = true) (hk : ∀ a b c, Keeps (k a b c)) :
    (s.ctrl helperOk ccOk vregs k who).memOk = true := by
  unfold State.ctrl
  split
  · exact h
  · split
    · refine memOk_if (hk _ _ _ _ h) (memOk_if (memOk_illegal _ _ h) (memOk_if (memOk_illegal _ _ h) ?_))
      split
      · exact memOk_illegal _ _ h
      · exact hk _ _ _ _ h
    · exact h

theorem memOk_targetCheck {i : Issue} {w : Warp} {t : Team} {idx : Nat} (h : s.memOk = true) :
    (s.targetCheck i w t idx).2.memOk = true := by
  unfold State.targetCheck
  dsimp only
  refine memOk_if_snd h ?_
  split
  all_goals
    next heq =>
      have h1 := of_snd (memOk_translate h) heq
      exact h1

theorem memOk_withTargets {i : Issue} {w : Warp} {t : Team} {idxs : List Nat} {k : State → State} (h : s.memOk = true)
    (hk : Keeps k) :
    (s.withTargets i w t idxs k).memOk = true := by
  refine memOk_if (memOk_groupFaults (memOk_fold_snd (fun _ _ h => memOk_targetCheck h) h)) ?_
  split
  · exact memOk_illegal _ _ (memOk_fold_snd (fun _ _ h => memOk_targetCheck h) h)
  · exact memOk_if (memOk_fold_snd (fun _ _ h => memOk_targetCheck h) h)
      (hk _ (memOk_fold_snd (fun _ _ h => memOk_targetCheck h) h))

theorem memOk_passOn {i : Issue} {ls : List Nat} (h : s.memOk = true) : (s.passOn i ls).memOk = true := memOk_goto h

theorem memOk_branchTo {i : Issue} {w : Warp} {t : Team} {ls : List Nat} {target : Nat → Nat} (h : s.memOk = true) :
    (s.branchTo i w t ls target).memOk = true :=
  memOk_withTargets h fun _ h => memOk_fold (fun _ _ h => memOk_goto h) (memOk_passOn h)

theorem ok_execBra {f : FmtB} (h : s.memOk = true) : ResOk (execBra f s) :=
  ok_next (memOk_ctrl h fun _ _ _ _ h => memOk_branchTo h)

theorem ok_execBrx {f : FmtBr} (h : s.memOk = true) : ResOk (execBrx f s) :=
  ok_next (memOk_ctrl h fun _ _ _ _ h => memOk_branchTo h)

theorem ok_execJmpi {f : FmtBr} (h : s.memOk = true) : ResOk (execJmpi f s) :=
  ok_next (memOk_ctrl h fun _ _ _ _ h => memOk_branchTo h)

theorem memOk_call {i : Issue} {w : Warp} {t : Team} {ls : List Nat} {target : Nat → Nat} (h : s.memOk = true) :
    (s.call i w t ls target).memOk = true := by
  unfold State.call
  dsimp only
  split
  · exact memOk_raise _ _ _ _ h
  · refine memOk_if h (memOk_withTargets h fun _ h => memOk_access h fun _ _ _ _ h => ?_)
    split
    next heq =>
      have h1 := of_fst (memOk_relFences h) heq
      exact h1
    next heq =>
      have h1 := of_fst (memOk_relFences h) heq
      exact memOk_fold (fun _ _ h => memOk_goto h) (memOk_passOn (memOk_fold (fun _ _ h => memOk_bufferWrite h) h1))

theorem ok_execCall {f : FmtB} (h : s.memOk = true) : ResOk (execCall f s) :=
  ok_next (memOk_ctrl h fun _ _ _ _ h => memOk_call h)

theorem ok_execCalli {f : FmtBr} (h : s.memOk = true) : ResOk (execCalli f s) :=
  ok_next (memOk_ctrl h fun _ _ _ _ h => memOk_call h)

theorem ok_execRet {f : FmtP} (h : s.memOk = true) : ResOk (execRet f s) := by
  unfold execRet
  dsimp only
  refine ok_next (memOk_ctrl h fun _ _ _ _ h => ?_)
  split
  · exact memOk_raise _ _ _ _ h
  · exact memOk_if (memOk_passOn h) (memOk_if h (memOk_access h fun _ _ _ _ h => memOk_if
      (memOk_illegal _ _ (memOk_readLanes (memOk_startOp h))) (memOk_passOn (memOk_readLanes (memOk_startOp h)))))

theorem ok_execMeet {f : FmtB} (h : s.memOk = true) : ResOk (execMeet f s) :=
  ok_next (memOk_ctrl h fun _ _ _ _ h => h)

theorem ok_execMeetx {f : FmtMeetx} (h : s.memOk = true) : ResOk (execMeetx f s) :=
  ok_next (memOk_ctrl h fun _ _ _ _ h => memOk_fold (fun _ _ h => h) h)

theorem memOk_trapCheck {wk pc : Nat} (h : s.memOk = true) : (s.trapCheck wk pc).memOk = true := by
  unfold State.trapCheck
  split
  · exact h
  · exact memOk_if (memOk_arrive (memOk_trapReturn h)) h

theorem ok_execExit {f : FmtP} (h : s.memOk = true) : ResOk (execExit f s) := by
  refine ok_next (memOk_ctrl h fun _ _ _ _ h => ?_)
  split
  · exact memOk_if (memOk_illegal _ _ h) (memOk_detExit
      (memOk_launchTrig (memOk_trapCheck (memOk_endThreads _ _ _ (memOk_passOn h)))))
  · exact memOk_detExit (memOk_launchTrig (memOk_trapCheck (memOk_endThreads _ _ _ (memOk_passOn h))))

theorem memOk_barrier {f : FmtBar} {block : Bool} (h : s.memOk = true) : (s.barrier f block).memOk = true :=
  memOk_ctrl h fun _ _ _ _ h => memOk_if h (memOk_if (memOk_illegal _ _ h)
    (memOk_switchPoint (memOk_barArrive (memOk_fold (fun _ _ h => memOk_postThread _ _ _ h) h))))

theorem ok_execBar {f : FmtBar} (h : s.memOk = true) : ResOk (execBar f s) := ok_next (memOk_barrier h)

theorem ok_execBara {f : FmtBar} (h : s.memOk = true) : ResOk (execBara f s) := ok_next (memOk_barrier h)

theorem ok_execYield (h : s.memOk = true) : ResOk (execYield s) :=
  ok_next (memOk_ctrl h fun _ _ _ _ h => memOk_switchPoint (memOk_if h h))

theorem ok_execPriopass (h : s.memOk = true) : ResOk (execPriopass s) := by
  unfold execPriopass
  dsimp only
  refine ok_next (memOk_ctrl h fun _ _ _ _ h => memOk_if h ?_)
  split <;> exact h

theorem ok_execTrap {f : FmtTrap} (h : s.memOk = true) : ResOk (execTrap f s) := by
  refine ok_next (memOk_ctrl h fun _ _ _ _ h => ?_)
  split
  · exact h
  · exact memOk_raiseRec _ h

theorem ok_execBrkpt {f : FmtP} (h : s.memOk = true) : ResOk (execBrkpt f s) := by
  refine ok_next (memOk_ctrl h fun _ _ _ _ h => ?_)
  split
  · exact h
  · exact memOk_raise _ _ _ _ h

theorem ok_execNop (h : s.memOk = true) : ResOk (execNop s) := ok_next h

theorem ok_execIdemb {f : FmtP} (h : s.memOk = true) : ResOk (execIdemb f s) := by
  unfold execIdemb
  dsimp only
  refine ok_next (memOk_ctrl h fun _ _ _ _ h => ?_)
  split
  next heq =>
    have h1 := of_snd (memOk_targetCheck h) heq
    exact memOk_raiseRec _ h1
  next heq =>
    have h1 := of_snd (memOk_targetCheck h) heq
    exact memOk_groupFaults h1
  next heq =>
    have h1 := of_snd (memOk_targetCheck h) heq
    exact h1
  next heq =>
    have h1 := of_snd (memOk_targetCheck h) heq
    split
    · exact h1
    · exact memOk_if (memOk_recordHoldings h1) h1

theorem ok_execIdeme {f : FmtP} (h : s.memOk = true) : ResOk (execIdeme f s) :=
  ok_next (memOk_ctrl h fun _ _ _ _ h => h)

theorem ok_execTrapret (h : s.memOk = true) : ResOk (execTrapret s) :=
  ok_next (memOk_ctrl h fun _ _ _ _ h => memOk_if (memOk_illegal _ _ h) (memOk_trapCheck h))

theorem ok_execTrig {f : FmtP} (h : s.memOk = true) : ResOk (execTrig f s) :=
  ok_next (memOk_ctrl h fun _ _ _ _ h => memOk_launchTrig (memOk_fold (fun _ _ h => memOk_triggerThread _ _ h) h))

theorem ok_execClause {wait : BitVec 12} {seta setb : BitVec 4} {yld : BitVec 1} (h : s.memOk = true) :
    ResOk (execClause wait seta setb yld s) := by
  refine ok_next ?_
  split
  · exact h
  · split
    · exact memOk_if h (memOk_if (memOk_if h (memOk_regsAcquired h)) (memOk_if h (memOk_regsAcquired h)))
    · exact memOk_if h (memOk_fold (fun _ _ h => h) h)

end Sys2Proof.Laws
end

section
/-! PROOF of O59, part 5 of 10: helpers, the Bolter, the engines and the Sweep. -/

namespace Sys2Proof.Laws

open Sys2Proof.Machine

variable {s : State}

/-! ### FloatAlu -/

theorem memOk_falu2 {f : FmtA} {op : Issue → Machine.Num → Machine.Num → Word} (h : s.memOk = true) :
    (s.falu2 f op).memOk = true :=
  memOk_withRegs h fun _ _ h => memOk_writeLanes h

theorem ok_execFadd {f : FmtA} (h : s.memOk = true) : ResOk (execFadd f s) := ok_next (memOk_falu2 h)

theorem ok_execFsub {f : FmtA} (h : s.memOk = true) : ResOk (execFsub f s) := ok_next (memOk_falu2 h)

theorem ok_execFmul {f : FmtA} (h : s.memOk = true) : ResOk (execFmul f s) := ok_next (memOk_falu2 h)

theorem ok_execFfma {f : FmtA} (h : s.memOk = true) : ResOk (execFfma f s) := by
  refine ok_next ?_
  split
  · exact h
  · exact memOk_withRegs h fun _ _ h => memOk_writeLanes h

theorem ok_execFmin {f : FmtA} (h : s.memOk = true) : ResOk (execFmin f s) := ok_next (memOk_falu2 h)

theorem ok_execFmax {f : FmtA} (h : s.memOk = true) : ResOk (execFmax f s) := ok_next (memOk_falu2 h)

theorem ok_execFscale {f : FmtA} (h : s.memOk = true) : ResOk (execFscale f s) :=
  ok_next (memOk_withRegs h fun _ _ h => memOk_writeLanes h)

theorem memOk_pack2 {f : FmtA} {t : FType} {op : Issue → Machine.Num → Machine.Num → Nat} (h : s.memOk = true) :
    (s.pack2 f t op).memOk = true :=
  memOk_withRegs h fun _ _ h => memOk_writeLanes h

theorem memOk_packFma {f : FmtA} {t : FType} (h : s.memOk = true) : (s.packFma f t).memOk = true := by
  unfold State.packFma
  split
  · exact h
  · exact memOk_withRegs h fun _ _ h => memOk_writeLanes h

theorem memOk_packDot {f : FmtA} {t : FType} (h : s.memOk = true) : (s.packDot f t).memOk = true := by
  unfold State.packDot
  split
  · exact h
  · exact memOk_withRegs h fun _ _ h => memOk_writeLanes h

theorem ok_execBadd2 {f : FmtA} (h : s.memOk = true) : ResOk (execBadd2 f s) := ok_next (memOk_pack2 h)

theorem ok_execBmul2 {f : FmtA} (h : s.memOk = true) : ResOk (execBmul2 f s) := ok_next (memOk_pack2 h)

theorem ok_execBfma2 {f : FmtA} (h : s.memOk = true) : ResOk (execBfma2 f s) := ok_next (memOk_packFma h)

theorem ok_execHadd2 {f : FmtA} (h : s.memOk = true) : ResOk (execHadd2 f s) := ok_next (memOk_pack2 h)

theorem ok_execHmul2 {f : FmtA} (h : s.memOk = true) : ResOk (execHmul2 f s) := ok_next (memOk_pack2 h)

theorem ok_execHfma2 {f : FmtA} (h : s.memOk = true) : ResOk (execHfma2 f s) := ok_next (memOk_packFma h)

theorem ok_execBdot2 {f : FmtA} (h : s.memOk = true) : ResOk (execBdot2 f s) := ok_next (memOk_packDot h)

theorem ok_execHdot2 {f : FmtA} (h : s.memOk = true) : ResOk (execHdot2 f s) := ok_next (memOk_packDot h)

/-! ### Help -/

theorem memOk_lend {wk : Nat} {lanes : List (Nat × Origin)} (h : s.memOk = true) :
    (s.lend wk lanes).memOk = true :=
  memOk_fold (fun _ _ h => h) h

theorem ok_execRecruit {d : BitVec 6} {b : BitVec 7} {n : BitVec 5} (h : s.memOk = true) :
    ResOk (execRecruit d b n s) := by
  refine ok_next (memOk_withThread h fun _ _ h => ?_)
  split
  · exact memOk_if h (memOk_withTargets h fun _ h => memOk_if h
      (memOk_lend (memOk_postHelpers (memOk_postThread _ _ _ h))))
  · exact h

theorem memOk_wakeHelpers {wk : Nat} (h : s.memOk = true) : (s.wakeHelpers wk).memOk = true := by
  unfold State.wakeHelpers
  split <;> exact h

theorem memOk_takeChunk {wk idx : Nat} (h : s.memOk = true) : (s.takeChunk wk idx).memOk = true := by
  unfold State.takeChunk
  split
  · exact h
  · split
    · exact h
    · exact memOk_if h h

theorem memOk_helperWord {needChunk : Option Bool} {k : Issue → Warp → Recruit → State → State} (h : s.memOk = true)
    (hk : ∀ a b c, Keeps (k a b c)) :
    (s.helperWord needChunk k).memOk = true := by
  unfold State.helperWord
  dsimp only
  split
  · exact h
  · refine memOk_if (memOk_forbid _ _ _ h) ?_
    split
    · split
      · exact h
      · split
        · exact hk _ _ _ _ h
        · split
          · exact hk _ _ _ _ h
          · exact memOk_illegal _ _ h
    · exact memOk_forbid _ _ _ h

theorem ok_execHchunk (h : s.memOk = true) : ResOk (execHchunk s) :=
  ok_next (memOk_helperWord h fun _ _ _ _ h => memOk_fold (fun _ _ h => memOk_takeChunk h) h)

theorem ok_execHchunkWake {warp helper : Nat} (h : s.memOk = true) : ResOk (execHchunkWake warp helper s) := by
  refine ok_next ?_
  split
  · exact memOk_if (memOk_takeChunk h) h
  · exact h

theorem memOk_publish {wk : Nat} {w : Warp} {h : Helper} (hs : s.memOk = true) : (s.publish wk w h).memOk = true :=
  memOk_fold (fun _ _ h => memOk_if (memOk_postWr _ _ (memOk_keepOld (memOk_kvRaceAt h)))
    (memOk_keepOld (memOk_kvRaceAt h))) hs

theorem memOk_joinTry {wk : Nat} (h : s.memOk = true) : (s.joinTry wk).memOk = true := by
  unfold State.joinTry
  split
  · exact h
  · split
    · exact h
    · split
      · split
        · exact memOk_if h (memOk_takeTrap _ _ _ h)
        · refine memOk_if h ?_
          split
          · exact memOk_wake (memOk_postHelpers h)
          · exact memOk_fold (fun _ _ h => memOk_setV h) (memOk_wake (memOk_postHelpers h))
      · exact h

theorem memOk_afterHelper {wk : Nat} (h : s.memOk = true) : (s.afterHelper wk).memOk = true := by
  unfold State.afterHelper
  split
  · exact h
  · exact memOk_if h (memOk_if h h)

theorem ok_execHcommit (h : s.memOk = true) : ResOk (execHcommit s) := by
  refine ok_next (memOk_helperWord h fun _ _ _ _ h => memOk_afterHelper
    (memOk_wakeHelpers (memOk_fold (fun _ _ h => ?_) h)))
  split
  · exact h
  · split
    · exact memOk_publish h
    · exact h

theorem ok_execHreduce {r : BitVec 7} {k : BitVec 2} (h : s.memOk = true) : ResOk (execHreduce r k s) := by
  refine ok_next ?_
  split
  · exact h
  · refine memOk_if (memOk_forbid _ _ _ h) (memOk_helperWord h fun _ _ _ _ h => memOk_fold (fun _ _ h => ?_) h)
    split <;> exact h

theorem ok_execHexit (h : s.memOk = true) : ResOk (execHexit s) :=
  ok_next (memOk_helperWord h fun _ _ _ _ h => memOk_afterHelper (memOk_fold (fun _ _ h => h) h))

theorem ok_execHjoin {d : BitVec 7} {w : BitVec 1} (h : s.memOk = true) : ResOk (execHjoin d w s) := by
  refine ok_next ?_
  split
  · exact h
  · refine memOk_if (memOk_forbid _ _ _ h) ?_
    split
    · exact memOk_forbid _ _ _ h
    · split
      · exact h
      · refine memOk_if h ?_
        split
        · exact memOk_raiseRec _ h
        · exact memOk_joinTry h

theorem ok_execHjoinComplete {warp : Nat} (h : s.memOk = true) : ResOk (execHjoinComplete warp s) :=
  ok_next (memOk_joinTry h)

theorem memOk_abortChunk {wk idx : Nat} {st : ChunkSt} (h : s.memOk = true) :
    (s.abortChunk wk idx st).memOk = true := by
  unfold State.abortChunk
  split
  · exact h
  · split <;> exact h

theorem memOk_forceBack {wk idx : Nat} (h : s.memOk = true) : (s.forceBack wk idx).memOk = true := by
  unfold State.forceBack
  split
  · exact h
  · exact memOk_if h (memOk_wakeHelpers (memOk_abortChunk h))

theorem memOk_parkRelease {wk : Nat} (h : s.memOk = true) : (s.parkRelease wk).memOk = true := by
  unfold State.parkRelease
  split
  · exact h
  · exact memOk_fold (fun _ _ h => memOk_forceBack h) h

theorem ok_execForcedReleaseReturn {warp helper : Nat} (h : s.memOk = true) :
    ResOk (execForcedReleaseReturn warp helper s) := by
  refine ok_next ?_
  split
  · exact h
  · refine memOk_if h ?_
    split
    · exact memOk_parkRelease (memOk_afterHelper h)
    · exact memOk_afterHelper h

theorem ok_execHelperReplacement {warp : Nat} (h : s.memOk = true) : ResOk (execHelperReplacement warp s) := by
  refine ok_next ?_
  split
  · split
    · exact h
    · refine memOk_if h (memOk_if h ?_)
      split
      · exact h
      · exact memOk_lend h
  · exact h

/-! ### Bolter -/

theorem memOk_reform {wk : Nat} (h : s.memOk = true) : (s.reform wk).memOk = true := by
  unfold State.reform
  split <;> exact h

theorem memOk_deliverOne {wk : Nat} {d : Deferred} (h : s.memOk = true) : (s.deliverOne wk d).2.memOk = true := by
  unfold State.deliverOne
  dsimp only
  split
  · exact h
  · split
    · exact h
    · split
      · exact h
      · exact memOk_if_snd h (memOk_takeTrap _ _ _ h)

theorem memOk_deliver {wk : Nat} (h : s.memOk = true) : (s.deliver wk).memOk = true := by
  unfold State.deliver
  split
  · exact h
  · exact memOk_fold_snd (fun _ _ h => memOk_if_snd h (memOk_deliverOne h)) h

theorem ok_execBolterReform {warp : Nat} (h : s.memOk = true) : ResOk (execBolterReform warp s) :=
  ok_next (memOk_deliver (memOk_reform (memOk_parkRelease h)))

theorem ok_execHandlerStart {warp : Nat} (h : s.memOk = true) : ResOk (execHandlerStart warp s) := by
  unfold execHandlerStart
  dsimp only
  refine ok_next ?_
  split
  · split
    · refine memOk_if (memOk_postWarp _ h) ?_
      split <;> exact memOk_postWarp _ h
    · exact h
  · exact h

/-! ### Eng -/

theorem memOk_engineErr {ls : List Nat} {info : Nat} (h : s.memOk = true) : (s.engineErr ls info).memOk = true :=
  memOk_raise _ _ _ _ h

theorem memOk_badAlign {l addr lg : Nat} (h : s.memOk = true) : (s.badAlign l addr lg).memOk = true :=
  memOk_raise _ _ _ _ h

theorem memOk_structAddr {l addr lg : Nat} {k : State → State} (h : s.memOk = true) (hk : Keeps k) :
    (s.structAddr l addr lg k).memOk = true :=
  memOk_if (memOk_raise _ _ _ _ h) (memOk_if (memOk_badAlign h) (hk _ h))

theorem memOk_homeRead {loc : Loc} {n ctx va : Nat} (h : s.memOk = true) :
    (s.homeRead loc n ctx va).2.memOk = true := by
  unfold State.homeRead
  split
  · exact h
  · exact h
  · exact memOk_swRead h
  · exact h
  · exact h
  · exact h

theorem memOk_withDesc {i : Issue} {l addr : Nat} {ev : Nat → Instr} {k : Warp → Team → List Byte → State → State}
    (h : s.memOk = true) (hk : ∀ a b c, Keeps (k a b c)) :
    (s.withDesc i l addr ev k).memOk = true := by
  unfold State.withDesc
  dsimp only
  split
  · split
    · exact memOk_if (memOk_raise _ _ _ _ h) (hk _ _ _ _ h)
    · split
      next heq =>
        have h1 := of_snd (memOk_engineXlate h) heq
        exact memOk_groupFaults h1
      next heq =>
        have h1 := of_snd (memOk_engineXlate h) heq
        exact h1
      next heq =>
        have h1 := of_snd (memOk_engineXlate h) heq
        exact h1
  · exact h

theorem memOk_readDesc {key n : Nat} {own : Bool} (h : s.memOk = true) : (s.readDesc key n own).memOk = true := by
  unfold State.readDesc
  extract_lets wk
  have hf : (match s.warp wk with
    | some w => s.fencesOf wk w.core w.lanes
    | none => (s, true)).1.memOk = true := by
    split
    · exact memOk_fencesOf h
    · exact h
  split
  next heq =>
    have h1 := of_fst hf heq
    split
    · refine memOk_if h1 ?_
      split
      next heq =>
        have h2 := of_snd (memOk_engineXlate h1) heq
        exact memOk_if h2 (memOk_skSend h2)
      next heq =>
        have h2 := of_snd (memOk_engineXlate h1) heq
        split
        all_goals
          next heq =>
            have h3 := of_snd (memOk_homeRead h2) heq
            exact h3
      next heq => exact of_snd (memOk_engineXlate h1) heq
    · exact h1

/-! ### Sweep -/

theorem memOk_swRows {i : Issue} {x : Nat} {k : Warp → Team → List LaneAcc → State → State} (h : s.memOk = true)
    (hk : ∀ a b c, Keeps (k a b c)) :
    (s.swRows i x k).memOk = true := by
  unfold State.swRows
  dsimp only
  split
  · exact memOk_raise _ _ _ _ h
  · split
    · split
      next heq =>
        have h1 := of_fth (memOk_locate h) heq
        exact memOk_if (hk _ _ _ _ h1) (memOk_engineErr h1)
      next heq =>
        have h1 := of_fth (memOk_locate h) heq
        exact h1
      next heq =>
        have h1 := of_fth (memOk_locate h) heq
        exact memOk_groupFaults h1
    · exact h

theorem ok_execSwq {x y : BitVec 7} {fsel : BitVec 1} (h : s.memOk = true) : ResOk (execSwq x y fsel s) := by
  unfold execSwq
  dsimp only
  refine ok_next (memOk_withThread h fun _ _ h => memOk_if h
    (memOk_if h (memOk_fenced h fun _ h => memOk_swRows h fun _ _ _ _ h => ?_)))
  split
  · exact memOk_engineErr h
  · split
    · exact memOk_engineErr h
    · exact memOk_if h (memOk_fold (fun _ _ h => h) (memOk_startOp h))

theorem ok_execSwqArrival {req : Nat} (h : s.memOk = true) : ResOk (execSwqArrival req s) := by
  refine ok_next ?_
  split
  · exact h
  · exact memOk_if h (memOk_if h (memOk_if (memOk_unstage h) (memOk_enterShot h)))

theorem ok_execSwurge {x : BitVec 7} {fsel : BitVec 1} (h : s.memOk = true) : ResOk (execSwurge x fsel s) :=
  ok_next (memOk_withThread h fun _ _ h => memOk_if h (memOk_if h
    (memOk_fenced h fun _ h => memOk_swRows h fun _ _ _ _ h => memOk_fold (fun _ _ h => h) (memOk_startOp h))))

theorem ok_execSwurgeActivation {ent : Nat} (h : s.memOk = true) : ResOk (execSwurgeActivation ent s) := by
  refine ok_next ?_
  split
  · exact h
  · exact memOk_if (memOk_serveEnt h) h

theorem ok_execSwstat {x d : BitVec 7} {fsel : BitVec 1} (h : s.memOk = true) : ResOk (execSwstat x d fsel s) :=
  ok_next (memOk_withThread h fun _ _ h => memOk_if h (memOk_if h
    (memOk_fenced h fun _ h => memOk_swRows h fun _ _ _ _ h => memOk_startOp h)))

theorem ok_execSwstatSnapshot {op lane : Nat} (h : s.memOk = true) : ResOk (execSwstatSnapshot op lane s) := by
  unfold execSwstatSnapshot
  dsimp only
  refine ok_next ?_
  split
  · split
    · exact h
    · refine memOk_if (memOk_endOp ?_) ?_
      · split
        · exact memOk_landWords h
        · exact h
      · split
        · exact memOk_landWords h
        · exact h
  · exact h

theorem memOk_register {i : Issue} {w : Warp} {ctx wcb l d handle v : Nat} {flag : Option Nat} (h : s.memOk = true) :
    (s.register i w ctx wcb l d handle v flag).memOk = true :=
  memOk_startOp h

theorem ok_execSwreg {x d : BitVec 7} {fsel : BitVec 1} (h : s.memOk = true) : ResOk (execSwreg x d fsel s) := by
  unfold execSwreg
  dsimp only
  refine ok_next (memOk_withThread h fun _ _ h => ?_)
  split
  · exact h
  · refine memOk_if h (memOk_fenced h fun _ h => memOk_structAddr h fun _ h => memOk_withDesc h fun _ _ _ _ h => ?_)
    split
    · exact memOk_engineErr h
    · refine memOk_if (memOk_engineErr h) (memOk_if (memOk_engineErr h) (memOk_if (memOk_engineErr h) ?_))
      split
      · exact memOk_engineErr h
      · exact memOk_register h

theorem ok_execSwregDescriptorRead {op : Nat} (h : s.memOk = true) : ResOk (execSwregDescriptorRead op s) :=
  ok_next (memOk_readDesc h)

theorem memOk_swregEnd {op lane d h : Nat} (hs : s.memOk = true) : (s.swregEnd op lane d h).memOk = true := by
  refine memOk_endOp ?_
  split
  · exact memOk_landWords hs
  · exact hs

theorem memOk_swregFail {op lane d core : Nat} {r : Region} (h : s.memOk = true) :
    (s.swregFail op lane d core r).memOk = true :=
  memOk_swregEnd (memOk_errorRecord _ _ h)

theorem ok_execSwregComplete {op : Nat} (h : s.memOk = true) : ResOk (execSwregComplete op s) := by
  unfold execSwregComplete
  dsimp only
  refine ok_next ?_
  split
  · split
    · exact memOk_swregEnd h
    · refine memOk_if (memOk_if h ?_) (memOk_if (memOk_swregEnd h) h)
      split
      next heq =>
        have h1 := of_snd (memOk_engineXlate h) heq
        refine memOk_if h1 ?_
        split
        · exact memOk_if (memOk_swregFail h1) h1
        · exact h1
      next heq =>
        have h1 := of_snd (memOk_engineXlate h) heq
        exact memOk_swregFail h1
      next heq =>
        have h1 := of_snd (memOk_engineXlate h) heq
        exact memOk_if (memOk_swregFail h1) (memOk_engineFault h1)
      next heq =>
        have h1 := of_snd (memOk_engineXlate h) heq
        exact h1
  · exact h

theorem ok_execSweepRegArrive {handle bank : Nat} (h : s.memOk = true) :
    ResOk (execSweepRegArrive handle bank s) := by
  refine ok_next ?_
  split
  · exact h
  · exact memOk_if h h

theorem ok_execSwdereg {h : BitVec 7} {fsel : BitVec 1} (hs : s.memOk = true) : ResOk (execSwdereg h fsel s) := by
  refine ok_next (memOk_withThread hs fun _ _ h => ?_)
  split
  · exact h
  · refine memOk_if h (memOk_fenced h fun _ h => ?_)
    split
    · exact memOk_engineErr h
    · exact memOk_if (memOk_engineErr h) (memOk_startOp h)

theorem ok_execSweepDeregArrive {handle bank : Nat} (h : s.memOk = true) :
    ResOk (execSweepDeregArrive handle bank s) := by
  refine ok_next ?_
  split
  · exact h
  · exact memOk_if h (memOk_if h (memOk_fold (fun _ _ h => memOk_endOp h) h))

theorem memOk_swlive {x n : Nat} {fsel : BitVec 1} {alive : Bool} (h : s.memOk = true) :
    (s.swlive x n fsel alive).memOk = true := by
  refine memOk_withThread h fun _ _ h => ?_
  split
  · exact h
  · refine memOk_if h (memOk_fenced h fun _ h => memOk_if (memOk_engineErr h) (memOk_if (memOk_engineErr h) ?_))
    split
    · split
      next heq =>
        have h1 := of_snd (memOk_fold_snd (fun p _ h => by
          have hx := fun u a b c d => memOk_engineXlate (u := u) (ctx := a) (va := b) (lane := c) (a := d) h
          split
          next heq => exact of_snd (hx ..) heq
          next heq => exact of_snd (hx ..) heq
          next heq => exact of_snd (hx ..) heq) h) heq
        exact memOk_if (memOk_engineErr h1) (memOk_startOp h1)
    · exact h

theorem ok_execSwliveDead {x n : BitVec 7} {fsel : BitVec 1} (h : s.memOk = true) :
    ResOk (execSwliveDead x n fsel s) :=
  ok_next (memOk_swlive h)

theorem ok_execSwliveLive {x n : BitVec 7} {fsel : BitVec 1} (h : s.memOk = true) :
    ResOk (execSwliveLive x n fsel s) :=
  ok_next (memOk_swlive h)

theorem memOk_cleared {t : State} {lo hi : Nat} (h : s.memOk = true) (hm : t.m.mem = tclear s.m.mem lo hi)
    (hh : t.m.host = s.m.host) :
    t.memOk = true := by
  rw [memOk_iff] at h ⊢
  rw [hm, hh]
  exact ⟨wf_tclear _ _ h.1, h.2⟩

theorem memOk_setLive {g : Nat} {alive : Bool} (h : s.memOk = true) : (s.setLive g alive).memOk = true := by
  unfold State.setLive
  extract_lets s1 dead m1 w1 s2 mine s3 m3 w3 s4
  have h1 : s1.memOk = true := memOk_fold (fun _ _ h => memOk_serveRow h) h
  clear_value s1
  have h2 : s2.memOk = true := memOk_cleared (lo := g * 65536) (hi := (g + 1) * 65536) h1 rfl rfl
  have h3 : s3.memOk = true := memOk_fold (fun _ _ h => memOk_millRecord (memOk_retireShot h)) h1
  clear_value s3
  have h4 : s4.memOk = true := memOk_cleared (lo := g * 65536) (hi := (g + 1) * 65536) h3 rfl rfl
  clear_value s2 s4
  exact memOk_if (memOk_if h1 (memOk_fold (fun _ _ h => h) h2))
    (memOk_if h1 (memOk_fold (fun _ _ h => memOk_unstage h) h4))

theorem memOk_lateError {op info : Nat} (h : s.memOk = true) : (s.lateError op info).memOk = true := by
  unfold State.lateError
  split <;> exact h

theorem ok_execSwliveArrive {op granule : Nat} (h : s.memOk = true) : ResOk (execSwliveArrive op granule s) := by
  unfold execSwliveArrive
  dsimp only
  refine ok_next ?_
  split
  · refine memOk_if h (memOk_if h ?_)
    split
    next heq =>
      have h1 := of_snd (memOk_engineXlate h) heq
      exact memOk_if (memOk_endOp (memOk_setLive h1)) (memOk_setLive h1)
    next heq =>
      have h1 := of_snd (memOk_engineXlate h) heq
      exact memOk_if (memOk_endOp (memOk_lateError h1)) (memOk_lateError h1)
    next heq =>
      have h1 := of_snd (memOk_engineXlate h) heq
      exact memOk_if (memOk_if (memOk_endOp h1) h1) (memOk_engineFault h1)
    next heq =>
      have h1 := of_snd (memOk_engineXlate h) heq
      exact h1
  · exact h

theorem ok_execTemperatureThreshold {stack : Nat} {hot : Bool} (h : s.memOk = true) :
    ResOk (execTemperatureThreshold stack hot s) :=
  ok_next h

end Sys2Proof.Laws
end

section
/-! PROOF of O59, part 6 of 10: copies, special functions and tasks. -/

namespace Sys2Proof.Laws

open Sys2Proof.Machine

variable {s : State}

/-! ### Copy -/

theorem memOk_chunk {core ctx va n key : Nat} (h : s.memOk = true) : (s.chunk core ctx va n key).2.memOk = true := by
  unfold State.chunk
  split
  next heq =>
    have h1 := of_snd (memOk_engineXlate h) heq
    split
    · exact h1
    · exact memOk_if_snd h1 (memOk_skSend h1)
  next heq =>
    have h1 := of_snd (memOk_engineXlate h) heq
    split
    all_goals
      next heq =>
        have h2 := of_snd (memOk_homeRead h1) heq
        exact h2
  next heq =>
    have h1 := of_snd (memOk_engineXlate h) heq
    exact h1

theorem memOk_keptChunk {core ctx va n key : Nat} (h : s.memOk = true) :
    (s.keptChunk core ctx va n key).2.2.memOk = true := by
  unfold State.keptChunk
  split
  · exact h
  · split
    all_goals
      next heq =>
        have h1 := of_snd (memOk_chunk h) heq
        exact h1

theorem ok_execTlrFill {core ctx addr : Nat} (h : s.memOk = true) : ResOk (execTlrFill core ctx addr s) := by
  unfold execTlrFill
  dsimp only
  refine ok_next (memOk_if h ?_)
  split
  next heq =>
    have h1 := of_trd (memOk_keptChunk h) heq
    exact h1
  next heq =>
    have h1 := of_trd (memOk_keptChunk h) heq
    exact h1
  next heq =>
    have h1 := of_trd (memOk_keptChunk h) heq
    refine memOk_if h1 ?_
    split
    next heq =>
      have h2 := of_trd (memOk_keptChunk h1) heq
      exact h2
    next heq =>
      have h2 := of_trd (memOk_keptChunk h1) heq
      exact h2
    next heq =>
      have h2 := of_trd (memOk_keptChunk h1) heq
      split
      next heq =>
        have h3 := of_trd (memOk_keptChunk h2) heq
        exact h3
      next heq =>
        have h3 := of_trd (memOk_keptChunk h2) heq
        exact h3
      next heq =>
        have h3 := of_trd (memOk_keptChunk h2) heq
        exact memOk_if h3 h3

theorem memOk_withTlr {w : Warp} {t : Team} {l addr : Nat} {lost : State → State} {k : Nat → State → State}
    (h : s.memOk = true) (hlost : Keeps lost) (hk : ∀ a, Keeps (k a)) :
    (s.withTlr w t l addr lost k).memOk = true := by
  unfold State.withTlr
  split
  · exact hk _ _ h
  · refine memOk_if (hlost _ h) ?_
    split
    next heq =>
      have h1 := of_fth (memOk_locate h) heq
      exact h1
    next heq =>
      have h1 := of_fth (memOk_locate h) heq
      exact h1
    next heq =>
      have h1 := of_fth (memOk_locate h) heq
      exact memOk_groupFaults h1

theorem memOk_enterCopy {i : Issue} {t : Team} {c : Copy} (h : s.memOk = true) :
    (s.enterCopy i t c).memOk = true :=
  memOk_startOp (memOk_postThread _ _ _ h)

theorem memOk_acopy {f : FmtT} {minor nregs : Nat} {k : Issue → Warp → Team → Nat → Copy → State → State}
    (h : s.memOk = true) (hk : ∀ a b c d e, Keeps (k a b c d e)) :
    (s.acopy f minor nregs k).memOk = true := by
  refine memOk_withThread h fun _ _ h => ?_
  split
  · exact memOk_if h (hk _ _ _ _ _ _ h)
  · exact h

theorem memOk_issueCopy {i : Issue} {w : Warp} {t : Team} {c : Copy} (h : s.memOk = true) :
    (s.issueCopy i w t c).memOk = true :=
  memOk_if h (memOk_enterCopy h)

theorem memOk_copyFail {c : Copy} {u status va : Nat} {detail : Word} (h : s.memOk = true) :
    (s.copyFail c u status va detail).memOk = true :=
  memOk_if h h

theorem memOk_copyUe {c : Copy} {u pa va : Nat} (h : s.memOk = true) : (s.copyUe c u pa va).memOk = true :=
  memOk_copyFail (memOk_errorRecord _ _ h)

theorem memOk_lostCopy {i : Issue} {w : Warp} {t : Team} {c : Copy} {addr : Nat} (h : s.memOk = true) :
    (s.lostCopy i w t c addr).memOk = true := by
  unfold State.lostCopy
  dsimp only
  refine memOk_if h ?_
  split
  · exact memOk_enterCopy h
  · exact memOk_copyUe (memOk_enterCopy h)

theorem memOk_boxCopy {f : FmtT} {minor : Nat} (h : s.memOk = true) : (s.boxCopy f minor).memOk = true := by
  unfold State.boxCopy
  dsimp only
  refine memOk_acopy h fun _ _ _ _ _ _ h => memOk_structAddr h fun _ h => memOk_withTlr h
    (fun _ h => memOk_lostCopy h) fun _ _ h => ?_
  split
  · exact memOk_engineErr h
  · split
    · exact memOk_raise _ _ _ _ h
    · exact memOk_issueCopy h

theorem memOk_blockCopy {f : FmtT} {minor : Nat} (h : s.memOk = true) : (s.blockCopy f minor).memOk = true := by
  unfold State.blockCopy
  dsimp only
  refine memOk_acopy h fun _ _ _ _ _ _ h => memOk_structAddr h fun _ h => memOk_withTlr h
    (fun _ h => memOk_lostCopy h) fun _ _ h => ?_
  split
  · exact memOk_engineErr h
  · split
    · exact memOk_raise _ _ _ _ h
    · split
      · exact memOk_raise _ _ _ _ h
      · exact memOk_issueCopy h

theorem ok_execTcopy {f : FmtT} (h : s.memOk = true) : ResOk (execTcopy f s) := ok_next (memOk_boxCopy h)

theorem ok_execTstore {f : FmtT} (h : s.memOk = true) : ResOk (execTstore f s) := ok_next (memOk_boxCopy h)

theorem ok_execTgather {f : FmtT} (h : s.memOk = true) : ResOk (execTgather f s) := ok_next (memOk_blockCopy h)

theorem ok_execTscatter {f : FmtT} (h : s.memOk = true) : ResOk (execTscatter f s) := ok_next (memOk_blockCopy h)

theorem ok_execTxfer {f : FmtT} (h : s.memOk = true) : ResOk (execTxfer f s) := by
  unfold execTxfer
  dsimp only
  refine ok_next (memOk_acopy h fun _ _ _ _ _ _ h => ?_)
  split
  · exact memOk_raise _ _ _ _ h
  · refine memOk_if (memOk_engineErr h) ?_
    split
    · exact memOk_raise _ _ _ _ h
    · split
      · exact memOk_raise _ _ _ _ h
      · split
        · exact memOk_badAlign h
        · exact memOk_issueCopy h

theorem memOk_fetchBlock {c : Copy} {u : Nat} {f : Fetched} {need : List (Nat × Nat)} (h : s.memOk = true) :
    (s.fetchBlock c u f need).2.memOk = true := by
  unfold State.fetchBlock
  dsimp only
  split
  · exact h
  · refine memOk_if_snd (memOk_if_snd (memOk_if_snd (memOk_choose h) h)
      (memOk_if_snd (memOk_if_snd (memOk_choose h) h) (memOk_if_snd (memOk_choose h) h))) ?_
    split
    · exact h
    · exact memOk_if_snd h (memOk_if_snd (memOk_if_snd (memOk_choose h) h)
        (memOk_skSend (memOk_if_snd (memOk_choose h) h)))

theorem memOk_fetch {c : Copy} {u : Nat} {need : List (Nat × Nat)} (h : s.memOk = true) :
    (s.fetch c u need).2.memOk = true :=
  memOk_fold_snd (fun _ _ h => memOk_fetchBlock h) h

theorem memOk_copyRead {c : Copy} {loc : Loc} {n va : Nat} (h : s.memOk = true) :
    (s.copyRead c loc n va).2.memOk = true := by
  unfold State.copyRead
  split
  · exact memOk_fold_trd (fun _ _ h => memOk_swRead h) h
  · split
    all_goals
      next heq =>
        have h1 := of_snd (memOk_homeRead h) heq
        exact h1

theorem memOk_copyPut {c : Copy} {loc : Loc} {data : List Byte} (h : s.memOk = true) :
    (s.copyPut c loc data).memOk = true := by
  unfold State.copyPut
  split
  · exact h
  · exact memOk_onchipWrite _ _ _ _ h
  · exact memOk_ucWrite _ _ (memOk_kvRace h)
  · exact memOk_hostStore _ _ _ h
  · exact h

theorem memOk_copyWrite {c : Copy} {loc : Loc} {data : List Byte} (h : s.memOk = true) :
    (s.copyWrite c loc data).memOk = true := by
  refine memOk_if (memOk_copyPut h) ?_
  split
  · exact memOk_fold (fun _ _ h => memOk_copyPut h) h
  · exact memOk_fold (fun _ _ h => memOk_copyPut h) h
  · exact memOk_copyPut h

theorem memOk_sendUnit {c : Copy} {u : Nat} {x : Sent} (h : s.memOk = true) : (s.sendUnit c u x).memOk = true :=
  memOk_fold (fun _ _ h => memOk_skSend h) (memOk_fold (fun _ _ h => h)
    (memOk_fold (fun _ _ h => memOk_corePut _ _ (memOk_fold (fun _ _ h => memOk_kvRace h) h)) h))

theorem memOk_way {c : Copy} {ps : List Piece} {acc : List (Option Loc × Loc × Piece)} (h : s.memOk = true) :
    (s.way c ps acc).2.memOk = true := by
  induction ps generalizing s acc with
  | nil => exact h
  | cons p ps ih =>
    unfold State.way
    extract_lets u
    have hd : (match p.dst with
      | .here l => (EngXlate.at l, s)
      | .global va => s.engineXlate u c.ctx va c.leader .store).2.memOk = true := by
      split
      · exact h
      · exact memOk_engineXlate h
    split
    next d t heq =>
      have ht := of_snd hd heq
      split
      · exact ht
      · exact memOk_if_snd ht ht
      · refine memOk_if_snd ht ?_
        split
        · exact ih ht
        · exact ih ht
        · split
          next heq => exact of_snd (memOk_engineXlate ht) heq
          next heq => exact of_snd (memOk_engineXlate ht) heq
          next heq => exact ih (of_snd (memOk_engineXlate ht) heq)

theorem memOk_readPieces {c : Copy} {f : Fetched} {ps : List (Option Loc × Loc × Piece)} (h : s.memOk = true) :
    (s.readPieces c f ps).2.memOk = true := by
  induction ps generalizing s with
  | nil => exact h
  | cons p r ih =>
    obtain ⟨src, l, p⟩ := p
    unfold State.readPieces
    extract_lets va
    cases src with
    | none => exact ih h
    | some loc =>
      dsimp only
      split
      · exact ih h
      · split
        next heq => exact ih (of_snd (memOk_copyRead h) heq)
        next heq => exact ih (of_snd (memOk_copyRead h) heq)

theorem memOk_undefOverlap {c : Copy} {u : Nat} {data : List Byte} (h : s.memOk = true) :
    (s.undefOverlap c u data).2.memOk = true :=
  memOk_if_snd h (memOk_fold_snd (fun _ _ h => memOk_if_snd h h) h)

theorem memOk_copyUnit {c : Copy} {u : Nat} (h : s.memOk = true) : (s.copyUnit c u).memOk = true := by
  unfold State.copyUnit
  extract_lets pinning
  refine memOk_if h ?_
  split
  next heq => exact of_snd (memOk_way h) heq
  next heq => exact memOk_copyFail (of_snd (memOk_way h) heq)
  next heq =>
    have h1 := of_snd (memOk_way h) heq
    split
    · exact memOk_copyFail h1
    · exact memOk_engineFault h1
  next heq =>
    have h1 := of_snd (memOk_way h) heq
    extract_lets need
    split
    next heq =>
      have h2 := of_snd (memOk_fetch h1) heq
      refine memOk_if h2 ?_
      split
      next heq =>
        have h3 := of_snd (memOk_readPieces h2) heq
        split
        · exact memOk_copyUe h3
        · extract_lets w s4 s5
          have hw : w.2.2.memOk = true := by
            unfold w
            refine memOk_fold_trd (fun p e hp => ?_) h3
            split
            split
            next heq => exact memOk_copyWrite (of_snd (memOk_undefOverlap hp) heq)
          have h4 : s4.memOk = true := memOk_sendUnit hw
          clear_value s4
          have h5 : s5.memOk = true := by
            unfold s5
            refine memOk_if ?_ h4
            split <;> exact h4
          exact memOk_if h5 h5

theorem memOk_copyTrap {c : Copy} {st va : Nat} {d : Word} (h : s.memOk = true) :
    (s.copyTrap c st va d).memOk = true :=
  h

theorem memOk_copyEnd {c : Copy} (h : s.memOk = true) : (s.copyEnd c).memOk = true := by
  unfold State.copyEnd
  extract_lets s1 f st trap s2 s3
  have h1 : s1.memOk = true := memOk_pushCore _ h
  clear_value s1
  have htrap : Keeps trap := fun t ht => by
    unfold trap
    cases f with
    | none => exact ht
    | some e => exact memOk_copyTrap ht
  have h2 : s2.memOk = true := by
    unfold s2
    split
    · split
      · exact htrap _ h1
      · exact h1
    · exact h1
    · exact h1
    · exact htrap _ h1
  clear_value s2
  have h3 := memOk_endOp (id := c.id) h2
  exact h3

theorem ok_execCopyComplete {cmd : Nat} {part : CopyStep} (h : s.memOk = true) :
    ResOk (execCopyComplete cmd part s) := by
  refine ok_next ?_
  split
  · exact h
  · split
    · split
      · exact h
      · exact memOk_choose (memOk_copyUnit h)
    · exact memOk_if h (memOk_copyEnd h)

/-! ### Task -/

theorem memOk_taskWord {k : BitVec 1} {srcs dsts : List Nat} {flag : Issue → Option Nat}
    {f : Issue → Warp → Team → Nat → State → State} (h : s.memOk = true) (hf : ∀ a b c d, Keeps (f a b c d)) :
    (s.taskWord k srcs dsts flag f).memOk = true := by
  unfold State.taskWord
  dsimp only
  split
  · exact h
  · refine memOk_if (memOk_forbid _ _ _ h) (memOk_if (memOk_forbid _ _ _ h) ?_)
    split
    · exact memOk_forbid _ _ _ h
    · refine memOk_if h ?_
      split
      · exact memOk_if h (hf _ _ _ _ _ h)
      · exact h

theorem memOk_wrK {i : Issue} {k : BitVec 1} {l n : Nat} {v : Word} (h : s.memOk = true) :
    (s.wrK i k l n v).memOk = true :=
  memOk_if h (memOk_wrV h)

theorem ok_execLaunch {a d : BitVec 7} {k : BitVec 1} (h : s.memOk = true) : ResOk (execLaunch a d k s) := by
  unfold execLaunch
  dsimp only
  refine ok_next (memOk_taskWord h fun _ _ _ _ _ h => memOk_structAddr h fun _ h => ?_)
  split
  next heq =>
    have h1 := of_snd (memOk_tryLaunch (memOk_release _ _ _ _ h)) heq
    exact memOk_wrK h1
  next heq =>
    have h1 := of_snd (memOk_tryLaunch (memOk_release _ _ _ _ h)) heq
    exact memOk_wrK (memOk_launchWaiting h1)
  next heq =>
    have h1 := of_snd (memOk_tryLaunch (memOk_release _ _ _ _ h)) heq
    exact h1

theorem memOk_slotOp {f : FmtDc} {reg rel : Bool} {op : Issue → Nat → State → DcOp} (h : s.memOk = true) :
    (s.slotOp f reg rel op).memOk = true :=
  memOk_taskWord h fun _ _ _ _ _ h => memOk_if (memOk_engineErr h)
    (memOk_counter (memOk_if (memOk_release _ _ _ _ h) h))

theorem ok_execDcdec {f : FmtDc} (h : s.memOk = true) : ResOk (execDcdec f s) := ok_next (memOk_slotOp h)

theorem ok_execDcadd {f : FmtDc} (h : s.memOk = true) : ResOk (execDcadd f s) := ok_next (memOk_slotOp h)

theorem ok_execTaskrdy {f : FmtDc} (h : s.memOk = true) : ResOk (execTaskrdy f s) := ok_next (memOk_slotOp h)

theorem memOk_popEvent {core ctx : Nat} (h : s.memOk = true) : (s.popEvent core ctx).2.memOk = true := by
  unfold State.popEvent
  split <;> exact h

theorem memOk_evpopEnd {o : Op} {w : Warp} {d : Nat} {scalar : Bool} {ws : List Word} (h : s.memOk = true) :
    (s.evpopEnd o w d scalar ws).memOk = true :=
  memOk_endOp (memOk_regsAcquired (memOk_fold (fun _ _ h => memOk_if h
    (memOk_fold (fun _ _ h => memOk_landV h) h)) h))

theorem ok_execEvpop {d : BitVec 7} {k tryIt fsel : BitVec 1} (h : s.memOk = true) :
    ResOk (execEvpop d k tryIt fsel s) := by
  unfold execEvpop
  dsimp only
  refine ok_next (memOk_taskWord h fun _ _ _ _ _ h => memOk_if ?_ (memOk_startOp h))
  split
  · exact memOk_popEvent (memOk_startOp h)
  · exact memOk_evpopEnd (memOk_popEvent (memOk_startOp h))

theorem ok_execEvpopWake {op : Nat} (h : s.memOk = true) : ResOk (execEvpopWake op s) := by
  refine ok_next ?_
  split
  · exact h
  · split
    · exact h
    · split
      · exact h
      · split
        next heq =>
          have h1 := of_snd (memOk_popEvent h) heq
          exact h1
        next heq =>
          have h1 := of_snd (memOk_popEvent h) heq
          exact memOk_evpopEnd h1

theorem ok_execEvpush {r : BitVec 7} {k : BitVec 1} (h : s.memOk = true) : ResOk (execEvpush r k s) :=
  ok_next (memOk_taskWord h fun _ _ _ _ _ h => memOk_if h (memOk_release _ _ _ _ h))

end Sys2Proof.Laws
end

section
/-! PROOF of O59, part 7 of 10: the KV engine. -/

namespace Sys2Proof.Laws

open Sys2Proof.Machine

variable {s : State}

/-! ### Kv -/

theorem kvOk_fail {α : Type} {e : KvErr} : KvOk (kvFail e : Kv α) := by
  rintro s x t h ⟨⟩

theorem kvOk_need {b : Bool} {n : Nat} : KvOk (kvNeed b n) := kvOk_ite kvOk_pure kvOk_fail

theorem kvOk_pa {c : KvCtx} {va : Nat} {m : KvMem} {a : Access} : KvOk (kvPa c va m a) := by
  intro s x t h e
  unfold kvPa at e
  split at e
  · cases e
  · split at e
    · cases e
    · cases e
    next heq =>
      have h1 := of_snd (memOk_engineXlate h) heq
      extract_lets ok at e
      by_cases hok : ok = true
      · rw [if_pos hok] at e
        cases e
        exact h1
      · rw [if_neg hok] at e
        cases e
    · cases e

theorem kvOk_bytes1 {c : KvCtx} {m : KvMem} {va n : Nat} : KvOk (kvBytes1 c m va n) := by
  refine kvOk_pa.bind fun pa => ?_
  intro s x t h e
  have hr : (if (s.leafSeen (.core c.core) c.ctx va).map leafType = some 1 then s.swRead pa n (some (c.ctx, va))
    else (s.homeBytes pa n, s.homeBadAt pa n, s)).2.2.memOk = true := memOk_if_trd (memOk_swRead h) h
  simp only [get, getThe, MonadStateOf.get, bind, StateT.bind, StateT.get, pure, Except.pure, Except.bind] at e
  generalize (if (s.leafSeen (.core c.core) c.ctx va).map leafType = some 1 then s.swRead pa n (some (c.ctx, va))
    else (s.homeBytes pa n, s.homeBadAt pa n, s)) = r at hr e
  split at e
  · cases e
  · cases e
    exact hr

theorem kvOk_bytes {c : KvCtx} {m : KvMem} {va n : Nat} : KvOk (kvBytes c m va n) :=
  kvOk_bytes1.bind fun _ => kvOk_ite kvOk_pure (kvOk_bytes1.bind fun _ => kvOk_pure)

theorem kvOk_rd {c : KvCtx} {va n : Nat} : KvOk (kvRd c va n) := kvOk_bytes.bind fun _ => kvOk_pure

theorem kvOk_put1 {c : KvCtx} {m : KvMem} {va : Nat} {data : List Byte} : KvOk (kvPut1 c m va data) := by
  refine kvOk_pa.bind fun pa => ?_
  rintro s x t h ⟨⟩
  exact memOk_homeStore _ _ h

theorem kvOk_put {c : KvCtx} {m : KvMem} {va : Nat} {data : List Byte} : KvOk (kvPut c m va data) :=
  kvOk_put1.bind fun _ => kvOk_ite kvOk_pure kvOk_put1

theorem kvOk_wr {c : KvCtx} {va n v : Nat} : KvOk (kvWr c va n v) := kvOk_put

theorem kvOk_pool {c : KvCtx} {a : Nat} : KvOk (kvPool c a) :=
  kvOk_need.bind fun _ => kvOk_rd.bind fun _ => kvOk_need.bind fun _ => kvOk_pure

theorem kvOk_pdt {c : KvCtx} {p : KvPool} {k : Nat} : KvOk (kvPdt c p k) := kvOk_need.bind fun _ => kvOk_rd

theorem kvOk_putPdt {c : KvCtx} {p : KvPool} {k v : Nat} : KvOk (kvPutPdt c p k v) := kvOk_wr

theorem kvOk_live {c : KvCtx} {p : KvPool} {k : Nat} : KvOk (kvLive c p k) :=
  kvOk_pdt.bind fun _ => kvOk_need.bind fun _ => kvOk_pure

theorem kvOk_alloc {c : KvCtx} {p : KvPool} : KvOk (kvAlloc c p) :=
  kvOk_rd.bind fun _ => kvOk_need.bind fun _ => kvOk_pdt.bind fun _ => kvOk_need.bind fun _ => kvOk_rd.bind fun _ =>
    kvOk_wr.bind fun _ => kvOk_wr.bind fun _ => kvOk_putPdt.bind fun _ => kvOk_pure

theorem kvOk_push {c : KvCtx} {p : KvPool} {k e : Nat} : KvOk (kvPush c p k e) :=
  kvOk_rd.bind fun _ => kvOk_need.bind fun _ => kvOk_rd.bind fun _ => kvOk_putPdt.bind fun _ => kvOk_wr.bind fun _ =>
    kvOk_wr

theorem kvOk_drop {c : KvCtx} {p : KvPool} {k : Nat} {tree : Bool} : KvOk (kvDrop c p k tree) :=
  kvOk_live.bind fun _ => kvOk_need.bind fun _ => kvOk_ite (kvOk_putPdt.bind fun _ => kvOk_pure)
    (kvOk_ite (kvOk_push.bind fun _ => kvOk_pure) (kvOk_putPdt.bind fun _ => kvOk_pure))

theorem kvOk_share {c : KvCtx} {p : KvPool} {k : Nat} {tree : Bool} : KvOk (kvShare c p k tree) :=
  kvOk_live.bind fun _ => kvOk_need.bind fun _ => kvOk_putPdt

theorem kvOk_head {c : KvCtx} {a : Nat} : KvOk (kvHead c a) := kvOk_rd.bind fun _ => kvOk_pure

theorem kvOk_empty {c : KvCtx} {a : Nat} : KvOk (kvEmpty c a) := kvOk_head.bind fun _ => kvOk_need

theorem kvOk_seq {c : KvCtx} {a : Nat} : KvOk (kvSeq c a) := kvOk_head.bind fun _ => kvOk_need.bind fun _ => kvOk_pure

theorem kvOk_page {c : KvCtx} {s : Machine.Seq} {k : Nat} : KvOk (kvPage c s k) := kvOk_rd

theorem kvOk_putPage {c : KvCtx} {s : Machine.Seq} {k p : Nat} : KvOk (kvPutPage c s k p) := kvOk_wr

theorem kvOk_putSeq {c : KvCtx} {s : Machine.Seq} {len npages : Nat} : KvOk (kvPutSeq c s len npages) := kvOk_wr

theorem kvOk_geom {c : KvCtx} {a : Nat} {p : KvPool} : KvOk (kvGeom c a p) :=
  kvOk_rd.bind fun _ => kvOk_need.bind fun _ => kvOk_pure

theorem kvOk_slot {p : KvPool} {i : Nat} : KvOk (kvSlot p i) := kvOk_need

theorem kvOk_node {c : KvCtx} {p : KvPool} {i : Nat} : KvOk (kvNode c p i) := kvOk_slot.bind fun _ => kvOk_rd

theorem kvOk_take {c : KvCtx} {p : KvPool} : KvOk (kvTake c p) :=
  kvOk_rd.bind fun _ => kvOk_need.bind fun _ => kvOk_slot.bind fun _ => kvOk_rd.bind fun _ => kvOk_need.bind fun _ =>
    kvOk_rd.bind fun _ => kvOk_wr.bind fun _ => kvOk_wr.bind fun _ => kvOk_pure

theorem kvOk_give {c : KvCtx} {p : KvPool} {i : Nat} : KvOk (kvGive c p i) :=
  kvOk_rd.bind fun _ => kvOk_need.bind fun _ => kvOk_rd.bind fun _ => kvOk_wr.bind fun _ => kvOk_wr.bind fun _ =>
    kvOk_wr

theorem brecOn_induct {motive : Nat → Type} {P : ∀ n, motive n → Prop}
    {F : ∀ n, Nat.below (motive := motive) n → motive n} (zero : P 0 (F 0 ⟨⟩))
    (succ : ∀ n (f : Nat.below (motive := motive) (n + 1)), P n f.1 → P (n + 1) (F (n + 1) f)) (n : Nat) :
    P n (Nat.brecOn n F) := by
  induction n with
  | zero => exact zero
  | succ n ih => exact succ n _ ih

theorem kvOk_find {c : KvCtx} {p : KvPool} {tok n b : Nat} : KvOk (kvFind c p tok n b) := by
  delta kvFind
  refine brecOn_induct (motive := fun _ => Nat → Kv (Option (Nat × Nat × Nat))) (P := fun _ f => ∀ b, KvOk (f b))
    (fun b => kvOk_pure) (fun n f ih b => ?_) n b
  refine kvOk_ite kvOk_pure (kvOk_node.bind fun v => ?_)
  cases probeBlock v tok (probes tok) with
  | none => exact ih _
  | some x =>
    cases x with
    | none => exact kvOk_pure
    | some e => exact kvOk_slot.bind fun _ => kvOk_pure

theorem kvOk_lookup {c : KvCtx} {p : KvPool} {node tok : Nat} : KvOk (kvLookup c p node tok) :=
  kvOk_node.bind fun _ => kvOk_find.bind fun _ => kvOk_pure

theorem kvOk_newBlock {c : KvCtx} {p : KvPool} : KvOk (kvNewBlock c p) :=
  kvOk_take.bind fun _ => kvOk_put.bind fun _ => kvOk_pure

theorem kvOk_insertIn {c : KvCtx} {p : KvPool} {tok child n b : Nat} : KvOk (kvInsertIn c p tok child n b) := by
  delta kvInsertIn
  refine brecOn_induct (motive := fun _ => Nat → Kv Unit) (P := fun _ f => ∀ b, KvOk (f b))
    (fun b => kvOk_fail) (fun n f ih b => ?_) n b
  refine kvOk_node.bind fun v => ?_
  cases (probes tok).find? fun e => 0xFFFF_FFFE ≤ blockNode v e with
  | none => exact kvOk_ite (kvOk_newBlock.bind fun _ => kvOk_wr.bind fun _ => ih _) (ih _)
  | some e => exact kvOk_wr

theorem kvOk_insert {c : KvCtx} {p : KvPool} {node tok child : Nat} : KvOk (kvInsert c p node tok child) :=
  kvOk_node.bind fun _ => kvOk_ite ((kvOk_newBlock.bind fun _ => kvOk_wr.bind fun _ => kvOk_pure).bind fun _ =>
    kvOk_insertIn.bind fun _ => kvOk_wr) (kvOk_pure.bind fun _ => kvOk_insertIn.bind fun _ => kvOk_wr)

theorem kvOk_chain {c : KvCtx} {p : KvPool} {n b : Nat} : KvOk (kvChain c p n b) := by
  induction n generalizing b with
  | zero => exact kvOk_pure
  | succ n ih => exact kvOk_ite kvOk_pure (kvOk_node.bind fun _ => ih.bind fun _ => kvOk_pure)

theorem kvOk_remove {c : KvCtx} {p : KvPool} {node tok : Nat} : KvOk (kvRemove c p node tok) := by
  refine kvOk_node.bind fun _ => kvOk_find.bind fun _ => ?_
  split
  · exact kvOk_pure
  · exact kvOk_wr.bind fun _ => kvOk_wr.bind fun _ =>
      kvOk_ite (kvOk_chain.bind fun _ => kvOk_wr.bind fun _ => kvOk_forM (fun _ => kvOk_give) _) kvOk_pure

theorem kvOk_tick {c : KvCtx} {p : KvPool} : KvOk (kvTick c p) := kvOk_rd.bind fun _ => kvOk_wr

theorem kvOk_tok {c : KvCtx} {a i : Nat} : KvOk (kvTok c a i) := kvOk_bytes.bind fun _ => kvOk_pure

theorem kvOk_common {c : KvCtx} {a n m v f j : Nat} : KvOk (kvCommon c a n m v f j) := by
  induction f generalizing j with
  | zero => exact kvOk_pure
  | succ f ih => exact kvOk_ite kvOk_pure (kvOk_tok.bind fun _ => kvOk_ite ih kvOk_pure)

theorem kvOk_look {c : KvCtx} {p : KvPool} {s : Machine.Seq} {a n clock f node m k : Nat} :
    KvOk (kvLook c p s a n clock f node m k) := by
  induction f generalizing node m k with
  | zero => exact kvOk_pure
  | succ f ih =>
    refine kvOk_ite kvOk_pure (kvOk_tok.bind fun _ => kvOk_lookup.bind fun _ => ?_)
    split
    · exact kvOk_pure
    · exact kvOk_node.bind fun _ => kvOk_common.bind fun _ => kvOk_putPage.bind fun _ => kvOk_share.bind fun _ =>
        kvOk_wr.bind fun _ => kvOk_ite kvOk_pure ih

theorem kvOk_pfxlook {c : KvCtx} {sa a n : Nat} : KvOk (kvPfxlook c sa a n) :=
  kvOk_empty.bind fun _ => kvOk_seq.bind fun _ => kvOk_pool.bind fun _ => kvOk_rd.bind fun _ => kvOk_look.bind fun _
    => kvOk_putSeq.bind fun _ => kvOk_tick.bind fun _ => kvOk_pure

theorem kvOk_toks {c : KvCtx} {a i n : Nat} : KvOk (kvToks c a i n) := by
  induction n generalizing i with
  | zero => exact kvOk_pure
  | succ n ih => exact kvOk_tok.bind fun _ => ih.bind fun _ => kvOk_pure

theorem kvOk_ins {c : KvCtx} {p : KvPool} {s : Machine.Seq} {a l clock f node k covered made : Nat} :
    KvOk (kvIns c p s a l clock f node k covered made) := by
  induction f generalizing node k covered made with
  | zero => exact kvOk_pure
  | succ f ih =>
    unfold kvIns
    refine kvOk_ite kvOk_pure (kvOk_page.bind fun pg => kvOk_live.bind fun _ => kvOk_toks.bind fun _ =>
      kvOk_lookup.bind fun r => ?_)
    extract_lets go
    have hgo : ∀ x made, KvOk (go x made) := fun _ _ => kvOk_wr.bind fun _ => kvOk_ite kvOk_pure ih
    clear_value go
    cases r with
    | none => exact kvOk_ite kvOk_pure (kvOk_take.bind fun _ => kvOk_put.bind fun _ => kvOk_insert.bind fun _ =>
        kvOk_share.bind fun _ => hgo _ _)
    | some x =>
      refine kvOk_node.bind fun v => kvOk_ite kvOk_pure (kvOk_ite (kvOk_ite ?_ ?_) (hgo _ _))
      · exact kvOk_drop.bind fun _ => kvOk_share.bind fun _ => kvOk_wr.bind fun _ => kvOk_put.bind fun _ =>
          kvOk_wr.bind fun _ => hgo _ _
      · exact kvOk_wr.bind fun _ => kvOk_put.bind fun _ => kvOk_wr.bind fun _ => hgo _ _

theorem kvOk_pfxins {c : KvCtx} {sa a n : Nat} : KvOk (kvPfxins c sa a n) :=
  kvOk_seq.bind fun _ => kvOk_pool.bind fun _ => kvOk_rd.bind fun _ => kvOk_ins.bind fun _ => kvOk_tick.bind fun _ =>
    kvOk_pure

theorem kvOk_dropFrom {c : KvCtx} {p : KvPool} {s : Machine.Seq} {f k : Nat} : KvOk (kvDropFrom c p s f k) := by
  induction f generalizing k with
  | zero => exact kvOk_pure
  | succ f ih => exact kvOk_ite kvOk_pure (kvOk_page.bind fun _ => kvOk_drop.bind fun _ => ih.bind fun _ =>
    kvOk_pure)

theorem kvOk_pfxrel {c : KvCtx} {sa : Nat} : KvOk (kvPfxrel c sa) :=
  kvOk_seq.bind fun _ => kvOk_pool.bind fun _ => kvOk_dropFrom.bind fun _ => kvOk_putSeq.bind fun _ => kvOk_pure

theorem kvOk_fork {c : KvCtx} {p : KvPool} {s u : Machine.Seq} {f k : Nat} : KvOk (kvFork c p s u f k) := by
  induction f generalizing k with
  | zero => exact kvOk_pure
  | succ f ih => exact kvOk_page.bind fun _ => kvOk_share.bind fun _ => kvOk_putPage.bind fun _ => ih

theorem kvOk_kseq {c : KvCtx} {sa ua n : Nat} : KvOk (kvKseq c sa ua n) :=
  kvOk_ite (kvOk_seq.bind fun _ => kvOk_need.bind fun _ => kvOk_pool.bind fun _ => kvOk_dropFrom.bind fun _ =>
    kvOk_putSeq.bind fun _ => kvOk_pure) (kvOk_empty.bind fun _ => kvOk_seq.bind fun _ => kvOk_seq.bind fun _ =>
    kvOk_need.bind fun _ => kvOk_need.bind fun _ => kvOk_need.bind fun _ => kvOk_pool.bind fun _ => kvOk_fork.bind fun
    _ => kvOk_putSeq.bind fun _ => kvOk_pure)

theorem kvOk_nodes {c : KvCtx} {p : KvPool} {f : Nat} {l : List Nat} : KvOk (kvNodes c p f l) := by
  induction f generalizing l with
  | zero => exact kvOk_pure
  | succ f ih =>
    cases l with
    | nil => exact kvOk_pure
    | cons x xs =>
      exact kvOk_node.bind fun _ => kvOk_chain.bind fun _ =>
        (kvOk_foldlM (fun _ _ => kvOk_node.bind fun _ => kvOk_pure) _).bind fun _ => ih.bind fun _ => kvOk_pure

theorem kvOk_candidate {c : KvCtx} {p : KvPool} : KvOk (kvCandidate c p) := by
  refine kvOk_nodes.bind fun _ => kvOk_foldlM (fun _ _ => kvOk_ite kvOk_pure (kvOk_pdt.bind fun _ =>
    kvOk_ite kvOk_pure ?_)) _
  split
  · exact kvOk_pure
  · exact kvOk_ite kvOk_pure kvOk_pure

theorem kvOk_evictLoop {c : KvCtx} {p : KvPool} {f n : Nat} : KvOk (kvEvictLoop c p f n) := by
  induction f generalizing n with
  | zero => exact kvOk_pure
  | succ f ih =>
    cases n with
    | zero => exact kvOk_pure
    | succ n =>
      refine kvOk_candidate.bind fun _ => ?_
      split
      · exact kvOk_pure
      · exact kvOk_pdt.bind fun _ => kvOk_remove.bind fun _ => kvOk_give.bind fun _ => kvOk_drop.bind fun _ =>
          ih.bind fun _ => kvOk_pure

theorem kvOk_pfxevict {c : KvCtx} {pa n : Nat} : KvOk (kvPfxevict c pa n) :=
  kvOk_pool.bind fun _ => kvOk_evictLoop.bind fun _ => kvOk_pure

theorem kvOk_row {c : KvCtx} {p : KvPool} {page off n : Nat} : KvOk (kvRow c p page off n) := kvOk_bytes

theorem kvOk_putRow {c : KvCtx} {p : KvPool} {page off : Nat} {data : List Byte} :
    KvOk (kvPutRow c p page off data) :=
  kvOk_put

theorem kvOk_copyRows {c : KvCtx} {p : KvPool} {g : Geom} {old new s : Nat} : KvOk (kvCopyRows c p g old new s) :=
  kvOk_forM (fun _ => kvOk_forM (fun _ => kvOk_row.bind fun _ => kvOk_putRow) _) _

theorem kvOk_kappend {c : KvCtx} {sa : Nat} {data : List Byte} : KvOk (kvKappend c sa data) := by
  unfold kvKappend
  refine kvOk_seq.bind fun q => kvOk_pool.bind fun p => kvOk_geom.bind fun g => kvOk_need.bind fun _ => ?_
  extract_lets pos k s rest
  have hrest : ∀ x, KvOk (rest x) := fun _ =>
    (kvOk_mapM (fun _ => kvOk_bytes.bind fun _ => kvOk_pure) _).bind fun _ =>
      (kvOk_forM (fun _ => kvOk_putRow) _).bind fun _ => kvOk_putSeq.bind fun _ => kvOk_pure
  clear_value rest
  refine kvOk_ite (KvOk.bind ?_ hrest) (KvOk.bind ?_ hrest)
  · exact kvOk_need.bind fun _ => kvOk_alloc.bind fun _ => kvOk_putPage.bind fun _ => kvOk_pure
  · exact kvOk_page.bind fun _ => kvOk_live.bind fun _ => kvOk_ite (kvOk_alloc.bind fun _ => kvOk_copyRows.bind fun _ =>
      kvOk_putPage.bind fun _ => kvOk_pdt.bind fun _ => kvOk_putPdt.bind fun _ => kvOk_pure) kvOk_pure

theorem kvOk_run {o : KvOp} : KvOk (kvRun o) := by
  unfold kvRun
  split
  · exact kvOk_pfxlook
  · exact kvOk_pfxins
  · exact kvOk_pfxrel
  · exact kvOk_pfxevict
  · exact kvOk_kappend
  · exact kvOk_kseq

theorem memOk_kvEnd {o : KvOp} {status : Nat} {rs : List Nat} (h : s.memOk = true) :
    (s.kvEnd o status rs).memOk = true := by
  unfold State.kvEnd
  dsimp only
  split
  · exact h
  · split
    · exact memOk_endOp h
    · exact memOk_endOp (memOk_landWords h)

theorem memOk_kvUe {ctx field va wcb : Nat} (h : s.memOk = true) : (s.kvUe ctx field va wcb).memOk = true :=
  memOk_errorRecord _ _ h

theorem memOk_kvTry {o : KvOp} (h : s.memOk = true) : (s.kvTry o).memOk = true := by
  unfold State.kvTry
  split
  next heq => exact memOk_kvEnd (kvOk_run _ _ _ h heq)
  next => exact memOk_kvEnd h
  next => exact memOk_kvEnd (memOk_kvUe h)
  next =>
    split
    · exact memOk_kvEnd h
    · exact memOk_engineFault h

theorem memOk_kvUndefined {o : KvOp} {p : KvPool} (h : s.memOk = true) : (s.kvUndefined o p).memOk = true :=
  memOk_kvEnd (memOk_if (memOk_freeStore (memOk_if (memOk_kvSpoil h) (memOk_freeStore (memOk_kvSpoil h))))
    (memOk_if (memOk_kvSpoil h) (memOk_freeStore (memOk_kvSpoil h))))

theorem memOk_kvServe {o : KvOp} (h : s.memOk = true) : (s.kvServe o).memOk = true := by
  refine memOk_if (memOk_kvMeet h) ?_
  split
  · exact memOk_if (memOk_kvUndefined h) (memOk_kvTry h)
  · exact memOk_kvTry (memOk_kvMeet h)

theorem ok_execKvEngineStep {field : Nat} (h : s.memOk = true) : ResOk (execKvEngineStep field s) := by
  unfold execKvEngineStep
  dsimp only
  refine ok_next (memOk_if (memOk_if h h) ?_)
  split
  · exact memOk_choose h
  · exact memOk_kvServe (memOk_choose h)

theorem memOk_kvWord {x z : Nat} {pairZ : Bool} {nz d n : Nat} {fsel : BitVec 1}
    {k : Issue → Warp → Team → Nat → State → State} (h : s.memOk = true) (hk : ∀ a b c d, Keeps (k a b c d)) :
    (s.kvWord x z pairZ nz d n fsel k).memOk = true := by
  unfold State.kvWord
  split
  · exact h
  · split
    · exact h
    · refine memOk_if (memOk_illegal _ _ h) ?_
      split
      · exact memOk_illegal _ _ h
      · refine memOk_if (memOk_illegal _ _ h) (memOk_if h ?_)
        split
        · exact hk _ _ _ _ _ h
        · exact h

theorem memOk_kvSend {i : Issue} {w : Warp} {t : Team} {l : Nat} {fsel : BitVec 1} {kind : KvKind}
    {addr arg n d : Nat} {data : List Byte} (h : s.memOk = true) :
    (s.kvSend i w t l fsel kind addr arg n d data).memOk = true :=
  memOk_kvMeet (memOk_startOp (memOk_release _ _ _ _ h))

theorem memOk_kvAddrs {l : Nat} {as : List (Nat × Nat)} {k : State → State} (h : s.memOk = true) (hk : Keeps k) :
    (s.kvAddrs l as k).memOk = true := by
  unfold State.kvAddrs
  split
  · exact memOk_raise _ _ _ _ h
  · split
    · exact memOk_badAlign h
    · exact hk _ h

theorem memOk_kvTokens {f : FmtKv} {kind : KvKind} (h : s.memOk = true) : (s.kvTokens f kind).memOk = true :=
  memOk_kvWord h fun _ _ _ _ _ h => memOk_kvAddrs h fun _ h => memOk_if (memOk_engineErr h) (memOk_kvSend h)

theorem ok_execPfxlook {f : FmtKv} (h : s.memOk = true) : ResOk (execPfxlook f s) := ok_next (memOk_kvTokens h)

theorem ok_execPfxins {f : FmtKv} (h : s.memOk = true) : ResOk (execPfxins f s) := ok_next (memOk_kvTokens h)

theorem ok_execPfxrel {x d : BitVec 7} {fsel : BitVec 1} (h : s.memOk = true) : ResOk (execPfxrel x d fsel s) :=
  ok_next (memOk_kvWord h fun _ _ _ _ _ h => memOk_kvAddrs h fun _ h => memOk_kvSend h)

theorem ok_execPfxevict {f : FmtKv} (h : s.memOk = true) : ResOk (execPfxevict f s) :=
  ok_next (memOk_kvWord h fun _ _ _ _ _ h => memOk_kvAddrs h fun _ h => memOk_if (memOk_engineErr h) (memOk_kvSend h))

theorem ok_execKappend {f : FmtKv} (h : s.memOk = true) : ResOk (execKappend f s) := by
  refine ok_next (memOk_kvWord h fun _ _ _ _ _ h => memOk_kvAddrs h fun _ h => memOk_if (memOk_engineErr h) ?_)
  split
  · exact memOk_raise _ _ _ _ h
  · exact memOk_kvSend (memOk_postThread _ _ _ h)

theorem ok_execKseq {f : FmtKv} (h : s.memOk = true) : ResOk (execKseq f s) :=
  ok_next (memOk_kvWord h fun _ _ _ _ _ h => memOk_kvAddrs h fun _ h => memOk_kvSend h)

theorem memOk_pinEntry {c : Copy} {slot : Nat} (h : s.memOk = true) : (s.pinEntry c slot).2.memOk = true :=
  memOk_engineXlate h

theorem ok_execPdtPin {cmd slot : Nat} (h : s.memOk = true) : ResOk (execPdtPin cmd slot s) := by
  refine ok_next ?_
  split
  · exact h
  · refine memOk_if h (memOk_if h ?_)
    split
    next heq =>
      have h1 := of_snd (memOk_pinEntry h) heq
      exact memOk_if h1 (memOk_physWrite _ _ _ h1)
    next heq =>
      have h1 := of_snd (memOk_pinEntry h) heq
      exact memOk_copyFail h1
    next heq =>
      have h1 := of_snd (memOk_pinEntry h) heq
      exact h1
    next heq =>
      have h1 := of_snd (memOk_pinEntry h) heq
      split
      · exact memOk_copyFail h1
      · exact memOk_engineFault h1

theorem ok_execPdtUnpin {cmd slot : Nat} (h : s.memOk = true) : ResOk (execPdtUnpin cmd slot s) := by
  unfold execPdtUnpin
  dsimp only
  refine ok_next ?_
  split
  · exact h
  · refine memOk_if h (memOk_if h ?_)
    split
    next heq =>
      have h1 := of_snd (memOk_pinEntry h) heq
      split
      · exact memOk_if (memOk_physWrite _ _ _ h1) (memOk_physWrite _ _ _ h1)
      · exact memOk_physWrite _ _ _ h1
    next heq =>
      have h1 := of_snd (memOk_pinEntry h) heq
      exact h1
    next heq =>
      have h1 := of_snd (memOk_pinEntry h) heq
      exact h1
    next heq =>
      have h1 := of_snd (memOk_pinEntry h) heq
      split
      · exact h1
      · exact memOk_engineFault h1

theorem kvOk_freePage {c : KvCtx} {pool page : Nat} : KvOk (kvFreePage c pool page) :=
  kvOk_pool.bind fun _ => kvOk_pdt.bind fun _ => kvOk_ite kvOk_push kvOk_pure

theorem ok_execPageFreePush {ctx pool page : Nat} (h : s.memOk = true) :
    ResOk (execPageFreePush ctx pool page s) := by
  refine ok_next (memOk_if h (memOk_if h ?_))
  split
  next heq => exact kvOk_freePage _ _ _ h heq
  next => exact h
  next => exact memOk_kvUe h
  next =>
    split
    · exact h
    · exact memOk_engineFault h

end Sys2Proof.Laws
end

section
/-! PROOF of O59, part 8 of 10: near-memory commands, cache points, replays and migrations, pre-emption and the host. -/

namespace Sys2Proof.Laws

open Sys2Proof.Machine

variable {s : State}

/-! ### Nmem -/

theorem ok_execRestore {bank cls : Nat} (h : s.memOk = true) : ResOk (execRestore bank cls s) :=
  ok_next (memOk_if h (memOk_if (memOk_if h h) (memOk_refresh h)))

theorem memOk_nmNext {id : Nat} (h : s.memOk = true) : (s.nmNext id).memOk = true := by
  unfold State.nmNext
  dsimp only
  split
  · exact h
  · refine memOk_if h ?_
    split <;> exact memOk_choose h

theorem memOk_nmPark {c : NmCmd} {row : Nat} {f : PageFault} (h : s.memOk = true) :
    (s.nmPark c row f).memOk = true :=
  memOk_engineFault h

theorem memOk_vecPieces {c : NmCmd} {leat : Nat} {ps : List (Nat × Nat)} (h : s.memOk = true) :
    (s.vecPieces c leat ps).2.memOk = true := by
  induction ps generalizing s with
  | nil => exact h
  | cons e r ih =>
    obtain ⟨va, n⟩ := e
    unfold State.vecPieces
    refine memOk_if_snd h ?_
    have hx := memOk_engineXlate (u := .leat (leat % 256)) (ctx := c.ctx) (va := va) (lane := 0) (a := .load) h
    split
    next heq => exact of_snd hx heq
    next heq => exact of_snd hx heq
    next heq => exact of_snd hx heq
    next heq => exact of_snd hx heq
    next heq =>
      have h1 := of_snd hx heq
      split
      next x t heq =>
        have h2 : t.memOk = true := by
          refine of_snd ?_ heq
          split
          next heq => exact memOk_chunk (of_snd (memOk_engineXlate h1) heq)
          next heq => exact memOk_homeRead (of_snd (memOk_engineXlate h1) heq)
          next heq => exact of_snd (memOk_engineXlate h1) heq
        split
        · exact h2
        · split
          next heq => exact of_snd (ih h2) heq
          next heq => exact of_snd (ih h2) heq

theorem memOk_vecRead {c : NmCmd} {leat va n : Nat} (h : s.memOk = true) :
    (s.vecRead c leat va n).2.memOk = true := by
  unfold State.vecRead
  split
  next heq =>
    have h1 := of_snd (memOk_vecPieces h) heq
    exact h1
  · exact memOk_vecPieces h

theorem memOk_stepRead {row : Nat} {who : Nat × Nat} (h : s.memOk = true) : (s.stepRead row who).2.memOk = true :=
  memOk_if_snd (memOk_serveRow h) (memOk_restoreRow (memOk_serveRow h))

theorem memOk_stepUpdate {row : Nat} {who : Nat × Nat} {f : List Byte → List Byte} (h : s.memOk = true) :
    (s.stepUpdate row who f).2.memOk = true :=
  memOk_if_snd (memOk_millRecord (memOk_serveRow h)) (memOk_if_snd (memOk_restoreRow (memOk_serveRow h))
    (memOk_restoreRow (memOk_setRow (memOk_serveRow h))))

theorem memOk_stepWrite {row : Nat} {who : Nat × Nat} {bs : List Byte} (h : s.memOk = true) :
    (s.stepWrite row who bs).memOk = true :=
  memOk_if (memOk_millRecord (memOk_serveRow h)) (memOk_restoreRow (memOk_setRow (memOk_serveRow h)))

theorem memOk_nmRow {c : NmCmd} {row va : Nat} {a : Access} {k : Nat → State → State} (h : s.memOk = true)
    (hk : ∀ a, Keeps (k a)) :
    (s.nmRow c row va a k).memOk = true := by
  refine memOk_if h ?_
  split
  next heq =>
    have h1 := of_snd (memOk_engineXlate h) heq
    exact hk _ _ h1
  next heq =>
    have h1 := of_snd (memOk_engineXlate h) heq
    exact h1
  next heq =>
    have h1 := of_snd (memOk_engineXlate h) heq
    exact h1
  next heq =>
    have h1 := of_snd (memOk_engineXlate h) heq
    split
    · exact h1
    · exact memOk_nmPark h1

theorem memOk_nmVec {c : NmCmd} {row va g n : Nat} {k : List Byte → Bool → State → State} (h : s.memOk = true)
    (hk : ∀ a b, Keeps (k a b)) :
    (s.nmVec c row va g n k).memOk = true := by
  unfold State.nmVec
  extract_lets leat key
  split
  next r t heq =>
    have h1 : t.memOk = true := by
      refine of_snd (memOk_fold_snd (fun p i hp => ?_) h) heq
      split
      · split
        · exact hp
        · split
          next heq =>
            have h1 := of_snd (memOk_vecRead hp) heq
            exact h1
          · exact memOk_vecRead hp
      · exact hp
    split
    · exact hk _ _ _ h1
    · exact h1
    · exact h1
    · split
      · exact h1
      · exact memOk_nmPark h1

theorem memOk_nmOut {c : NmCmd} {row va out : Nat} {k : Loc → State → State} (h : s.memOk = true)
    (hk : ∀ a, Keeps (k a)) :
    (s.nmOut c row va out k).memOk = true := by
  refine memOk_if h ?_
  split
  next heq =>
    have h1 := of_snd (memOk_engineXlate h) heq
    exact h1
  next heq =>
    have h1 := of_snd (memOk_engineXlate h) heq
    exact h1
  next heq =>
    have h1 := of_snd (memOk_engineXlate h) heq
    exact hk _ _ h1
  next heq =>
    have h1 := of_snd (memOk_engineXlate h) heq
    exact h1
  next heq =>
    have h1 := of_snd (memOk_engineXlate h) heq
    split
    · exact h1
    · exact memOk_nmPark h1

theorem memOk_nmPut {c : NmCmd} {loc : Loc} {va : Nat} {v : Word} (h : s.memOk = true) :
    (s.nmPut c loc va v).memOk = true := by
  unfold State.nmPut
  split
  · exact memOk_finalWrite _ _ (memOk_kvRace h)
  · exact memOk_hostStore _ _ _ h
  · exact memOk_skSend h
  · exact h

theorem memOk_gemvCheck {c : NmCmd} {tile : Nat} {z : Word} (h : s.memOk = true) :
    (s.gemvCheck c tile z).memOk = true :=
  memOk_if h h

theorem memOk_nmAdvance {c : NmCmd} {row : Nat} {v : Word} {last : Bool} (h : s.memOk = true) :
    (s.nmAdvance c row v last).memOk = true :=
  h

theorem memOk_gemvRow {c : NmCmd} {row seg : Nat} (h : s.memOk = true) : (s.gemvRow c row seg).memOk = true := by
  unfold State.gemvRow
  extract_lets va y last
  refine memOk_if (memOk_nmOut h fun loc _ h => memOk_nmVec h fun _ u _ h => memOk_nmRow h fun r t h => ?_)
    (memOk_nmVec h fun _ _ _ h => memOk_nmRow h fun r t h => ?_)
  · split
    next t w t1 heq =>
      have h1 := of_snd (memOk_stepRead h) heq
      extract_lets put
      have hput : ∀ u v, State.memOk u = true → (put u v).memOk = true := by
        intro u v hu
        have hp := memOk_nmPut (c := c) (loc := loc) (va := c.aux1 + 4 * row) (v := v) hu
        exact hp
      clear_value put
      have hbad : (t1.nmPoison c row va).memOk = true := h1
      split
      · exact hput _ _ hbad
      · exact memOk_if (hput _ _ hbad) (memOk_if (hput _ _ h1) h1)
  · split
    next t w t1 heq =>
      have h1 := of_snd (memOk_stepRead h) heq
      extract_lets z s1
      have hs : s1.memOk = true := memOk_if h1 h1
      clear_value s1
      refine memOk_if ?_ hs
      split
      next d _ =>
        exact memOk_nmAdvance (memOk_gemvCheck hs)
      · exact hs

theorem ok_execNmGemv {cmd row seg : Nat} (h : s.memOk = true) : ResOk (execNmGemv cmd row seg s) := by
  refine ok_next ?_
  split
  · exact h
  · exact memOk_nmNext (memOk_if (memOk_gemvRow h) h)

theorem memOk_csumStep {c : NmCmd} {row seg : Nat} (h : s.memOk = true) : (s.csumStep c row seg).memOk = true := by
  unfold State.csumStep
  extract_lets va tile
  refine memOk_if (memOk_nmRow h fun r t h => ?_) (memOk_if h (memOk_nmRow h fun r t h => ?_))
  · split
    next heq =>
      have h1 := of_snd (memOk_stepRead h) heq
      split <;> exact h1
  · extract_lets
    split
    next heq =>
      have h1 := of_snd (memOk_stepUpdate h) heq
      extract_lets s1 s2
      have h2 : s1.memOk = true := memOk_if h1 h1
      clear_value s1
      have h3 : s2.memOk = true := memOk_if h2 h2
      exact h3

theorem ok_execNmCsum {cmd row seg : Nat} (h : s.memOk = true) : ResOk (execNmCsum cmd row seg s) := by
  refine ok_next ?_
  split
  · exact h
  · exact memOk_nmNext (memOk_if (memOk_csumStep h) h)

theorem ok_execNmUpdate {cmd row : Nat} (h : s.memOk = true) : ResOk (execNmUpdate cmd row s) := by
  refine ok_next ?_
  split
  · exact h
  · exact memOk_nmNext (memOk_if (memOk_nmVec h fun _ _ _ h => memOk_nmRow h fun _ _ h => memOk_if h
      (memOk_if (memOk_stepUpdate h) (memOk_stepUpdate h))) h)

theorem ok_execNmFill {cmd row : Nat} (h : s.memOk = true) : ResOk (execNmFill cmd row s) := by
  refine ok_next ?_
  split
  · exact h
  · exact memOk_nmNext (memOk_if (memOk_nmRow h fun _ _ h => memOk_stepWrite h) h)

theorem memOk_freeBytes {words : Nat} (h : s.memOk = true) : (s.freeBytes words).2.memOk = true :=
  memOk_fold_snd (fun _ _ h => h) h

theorem memOk_nmCopyStep {c : NmCmd} {row : Nat} {write : Bool} (h : s.memOk = true) :
    (s.nmCopyStep c row write).memOk = true := by
  unfold State.nmCopyStep
  extract_lets
  refine memOk_if (memOk_nmRow h fun r t h => ?_) (memOk_nmRow h fun rd t h => memOk_nmRow h fun r t h => memOk_if h ?_)
  · extract_lets
    split
    next heq =>
      extract_lets s1
      have h1 : s1.memOk = true := memOk_stepWrite (of_snd (memOk_if_snd (memOk_freeBytes h) h) heq)
      clear_value s1
      exact h1
  · split
    next heq =>
      have h1 := of_snd (memOk_stepRead h) heq
      split <;> exact h1

theorem ok_execNmCopy {cmd row : Nat} {write : Bool} (h : s.memOk = true) : ResOk (execNmCopy cmd row write s) := by
  refine ok_next ?_
  split
  · exact h
  · exact memOk_nmNext (memOk_if (memOk_nmCopyStep h) h)

theorem memOk_nmRecord {c : NmCmd} (h : s.memOk = true) : (s.nmRecord c).2.memOk = true :=
  memOk_if_snd h (memOk_errorRecord _ _ h)

theorem memOk_nmEventFor {c : NmCmd} (h : s.memOk = true) : (s.nmEventFor c).memOk = true := by
  unfold State.nmEventFor
  split
  · exact h
  · exact memOk_if h (memOk_if (memOk_saveEvent h) h)

theorem memOk_nmSaved {c : NmCmd} (h : s.memOk = true) : (s.nmSaved c).memOk = true := by
  unfold State.nmSaved
  split
  · exact h
  · refine memOk_if h (memOk_saveNmc ?_)
    split <;> exact h

theorem memOk_nmFenced {id : Nat} (h : s.memOk = true) : (s.nmFenced id).memOk = true :=
  memOk_fold (fun _ _ h => memOk_endOpAcq h) h

theorem memOk_clearFailed {cmd : Nat} (h : s.memOk = true) : (s.clearFailed cmd).memOk = true := h

theorem memOk_endFwd {cmd : Nat} (h : s.memOk = true) : (s.endFwd cmd).memOk = true := h

theorem ok_execNmCommandComplete {cmd : Nat} (h : s.memOk = true) : ResOk (execNmCommandComplete cmd s) := by
  unfold execNmCommandComplete
  refine ok_next ?_
  split
  · exact h
  next c _ =>
    extract_lets st full open_ st
    refine memOk_if (memOk_nmNext h) (memOk_if h ?_)
    split
    next t heq =>
      have h1 := of_snd (memOk_nmRecord h) heq
      extract_lets s1 s2 s3
      have h2 : s2.memOk = true := by
        have hs : s1.memOk = true := h1
        clear_value s1
        unfold s2
        split
        · exact hs
        · exact memOk_nmEventFor hs
        · exact memOk_if hs hs
      clear_value s2
      have h3 : s3.memOk = true := memOk_nmFenced (memOk_endFwd (memOk_clearFailed
        (memOk_endOpAcq (memOk_nmSaved h2))))
      clear_value s3
      exact h3

theorem memOk_nmAccept {c : NmCmd} {flag : Option Nat} {d : Nat} (h : s.memOk = true) :
    (s.nmAccept c flag d).memOk = true :=
  memOk_nmNext (memOk_setV (memOk_startOp h))

theorem ok_execNmc {a d : BitVec 7} {fsel : BitVec 1} (h : s.memOk = true) : ResOk (execNmc a d fsel s) := by
  unfold execNmc
  dsimp only
  refine ok_next (memOk_withThread h fun _ _ h => ?_)
  split
  · exact h
  · refine memOk_if h (memOk_fenced h fun _ h => memOk_structAddr h fun _ h => memOk_withDesc h fun _ _ _ _ h => ?_)
    split
    · exact memOk_engineErr h
    · exact memOk_nmAccept h

theorem ok_execNmcDescriptorRead {op : Nat} (h : s.memOk = true) : ResOk (execNmcDescriptorRead op s) :=
  ok_next (memOk_readDesc h)

theorem ok_execNmfence {fsel : BitVec 1} (h : s.memOk = true) : ResOk (execNmfence fsel s) := by
  refine ok_next (memOk_withThread h fun _ _ h => ?_)
  split
  · exact memOk_if h (memOk_if (memOk_endOp (memOk_startOp h)) (memOk_startOp h))
  · exact h

theorem ok_execNmstat {t d : BitVec 7} {fsel : BitVec 1} (h : s.memOk = true) : ResOk (execNmstat t d fsel s) := by
  refine ok_next (memOk_withThread h fun _ _ h => ?_)
  split
  · exact h
  · exact memOk_if h (memOk_setV (memOk_setV h))

/-! ### Points -/

theorem ok_execPost {wr : Nat} (h : s.memOk = true) : ResOk (execPost wr s) := by
  refine ok_next ?_
  split
  · exact h
  · exact memOk_if (memOk_postWr _ _ h) h

theorem ok_execPush {core addr : Nat} (h : s.memOk = true) : ResOk (execPush core addr s) :=
  ok_next (memOk_pushByte _ _ h)

theorem ok_execSettle {addr : Nat} (h : s.memOk = true) : ResOk (execSettle addr s) := by
  refine ok_next ?_
  split
  · exact memOk_settleWr _ h
  · split <;> exact h

theorem ok_execDrop {point : CachePoint} {addr : Nat} (h : s.memOk = true) : ResOk (execDrop point addr s) := by
  refine ok_next ?_
  split
  · exact h
  · exact memOk_dropHome h

/-! ### Replay -/

theorem ok_execPageWalk {unit : XUnit} {ctx : Nat} {va : DWord} {acc : Access} (h : s.memOk = true) :
    ResOk (execPageWalk unit ctx va acc s) :=
  ok_next (memOk_pageWalk h)

theorem memOk_pendReplay {c : Nat} (h : s.memOk = true) : (s.pendReplay c).memOk = true := by
  unfold State.pendReplay
  split <;> exact h

theorem memOk_replayAct {c : Nat} {kind : Instr} {f : Ctx → Replay → State → State} (h : s.memOk = true)
    (hf : ∀ a b, Keeps (f a b)) :
    (s.replayAct c kind f).memOk = true := by
  unfold State.replayAct
  split
  · exact h
  · split
    · exact h
    · exact memOk_if h (memOk_pendReplay (hf _ _ _ h))

theorem memOk_actingField (h : s.memOk = true) : s.actingField.2.memOk = true := memOk_choose h

theorem memOk_actionDone {c field : Nat} {bseq : Word} {reason addr : Nat} (h : s.memOk = true) :
    (s.actionDone c field bseq reason addr).memOk = true :=
  memOk_ctxRecord _ _ h

theorem memOk_replayIgnored {c : Nat} {r : Replay} {reason : Nat} (h : s.memOk = true) :
    (s.replayIgnored c r reason).memOk = true :=
  memOk_ctxRecord _ _ (memOk_actingField h)

theorem ok_execReplayDoorbell {ctx : Nat} {v : Word} (h : s.memOk = true) : ResOk (execReplayDoorbell ctx v s) := by
  refine ok_next ?_
  split
  · exact h
  · exact memOk_if h (memOk_physWrite _ _ _ h)

theorem memOk_saveReplay {save n : Nat} {r : Replay} (h : s.memOk = true) : (s.saveReplay save n r).memOk = true :=
  memOk_finalWrite _ _ h

theorem memOk_listReplay {c : Nat} {x : Ctx} {r : Replay} (h : s.memOk = true) :
    (s.listReplay c x r).memOk = true :=
  memOk_if (memOk_physWrite _ _ _ (memOk_saveReplay h)) (memOk_saveReplay h)

theorem ok_execReplayConsume {ctx : Nat} (h : s.memOk = true) : ResOk (execReplayConsume ctx s) := by
  refine ok_next ?_
  split
  · exact h
  · exact memOk_if h (memOk_if h (memOk_physWrite _ _ _ (memOk_if (memOk_pendReplay h) (memOk_listReplay h))))

theorem memOk_releaseChunk {wk chunk : Nat} {failed : List BatchPage} {reason : Word} (h : s.memOk = true) :
    (s.releaseChunk wk chunk failed reason).memOk = true := by
  unfold State.releaseChunk
  split
  · exact h
  · split
    · exact h
    · split
      · exact memOk_wakeHelpers h
      · exact memOk_helperTrapAt _ _ _ h

theorem memOk_releaseWaiter {b : Batch} {failed : List BatchPage} {reason : Word} {x : Waiter} (h : s.memOk = true) :
    (s.releaseWaiter b failed reason x).memOk = true := by
  unfold State.releaseWaiter
  split
  · exact h
  · exact memOk_releaseChunk h
  · exact h

theorem memOk_retryBatch {c : Nat} {b : Batch} {r : Replay} (h : s.memOk = true) :
    (s.retryBatch c b r).memOk = true :=
  memOk_openDeferred (memOk_fold (fun _ _ h => memOk_releaseWaiter h) (memOk_fold (fun _ _ h => h) h))

theorem ok_execReplayRetry {ctx : Nat} (h : s.memOk = true) : ResOk (execReplayRetry ctx s) := by
  refine ok_next (memOk_replayAct h fun _ _ _ h => memOk_if (memOk_replayIgnored h) ?_)
  split
  · exact memOk_replayIgnored h
  · exact memOk_retryBatch h

theorem ok_execReplayInvalidateRange {ctx : Nat} (h : s.memOk = true) : ResOk (execReplayInvalidateRange ctx s) :=
  ok_next (memOk_replayAct h fun _ _ _ h => memOk_actionDone (memOk_actingField h))

theorem ok_execReplayInvalidateContext {ctx : Nat} (h : s.memOk = true) :
    ResOk (execReplayInvalidateContext ctx s) :=
  ok_next (memOk_replayAct h fun _ _ _ h => memOk_actionDone (memOk_actingField h))

theorem ok_execPtwdataWrite {ctx : Nat} {v : DWord} (h : s.memOk = true) : ResOk (execPtwdataWrite ctx v s) := by
  refine ok_next ?_
  split
  · exact h
  · exact memOk_if (memOk_outsideWrite h) h

theorem ok_execPtgenIncrement {ctx : Nat} (h : s.memOk = true) : ResOk (execPtgenIncrement ctx s) :=
  ok_next (memOk_if h (memOk_pendReplay h))

theorem memOk_postPage {m : Migr} (h : s.memOk = true) : (s.postPage m).memOk = true := memOk_postWhere _ h

theorem memOk_pushPage {leaf lg : Nat} (h : s.memOk = true) : (s.pushPage leaf lg).memOk = true :=
  memOk_if h (memOk_fold (fun _ _ h => memOk_pushBlock _ _ h) h)

theorem memOk_migrAsk {m : Migr} {leaf : Nat} {data : Option (Nat → List Byte)} (h : s.memOk = true) :
    (s.migrAsk m leaf data).memOk = true :=
  memOk_fold (fun _ _ h => memOk_skSend h) h

theorem memOk_hostFrames {m : Migr} {leaf : Nat} {a : Access} (h : s.memOk = true) :
    (s.hostFrames m leaf a).2.memOk = true := by
  refine memOk_fold_snd (fun _ _ h => ?_) h
  split
  all_goals
    next heq =>
      have h1 := of_snd (memOk_hostXlate h) heq
      exact h1

theorem wf_foldl_mset_at {m : Memory} {l : List (Nat × Byte)} (f : Nat × Byte → Nat) (h : Memory.wf m = true) :
    Memory.wf (l.foldl (fun t e => mset t (f e) e.2) m) = true :=
  foldl_keeps (Memory.wf · = true) (fun _ _ h => wf_mset _ _ h) l h

theorem memOk_migrStore {m : Migr} {bs : List (Nat × Byte)} (h : s.memOk = true) :
    (s.migrStore m bs).memOk = true := by
  unfold State.migrStore
  extract_lets leaf base s1 mem m1 s2 m2 host1 host2 m3 k s3
  split
  · have h1 : s1.memOk = true := memOk_settleAll h
    clear_value s1
    have h2 : s2.memOk = true := by
      rw [memOk_iff] at h1 ⊢
      exact ⟨wf_foldl_mset_at _ (wf_tclear _ _ h1.1), h1.2⟩
    clear_value s2
    exact memOk_if (h2) h2
  · rw [memOk_iff] at h ⊢
    exact ⟨h.1, wf_foldl_mset_at _ (foldl_keeps (Memory.wf · = true) (fun _ _ h => wf_tclear _ _ h) _ h.2)⟩
  · exact memOk_migrAsk (s := s3) h

theorem memOk_migrBegin {m : Migr} (h : s.memOk = true) : (s.migrBegin m).memOk = true := by
  unfold State.migrBegin
  dsimp only
  split
  · exact memOk_if (memOk_migrAsk (memOk_pushPage (memOk_postPage
      (memOk_if_snd (memOk_hostFrames (memOk_if_snd (memOk_hostFrames h) h))
      (memOk_if_snd (memOk_hostFrames h) h))))) (memOk_pushPage
      (memOk_postPage (memOk_if_snd (memOk_hostFrames (memOk_if_snd (memOk_hostFrames h) h))
      (memOk_if_snd (memOk_hostFrames h) h))))
  · exact memOk_if_snd (memOk_hostFrames (memOk_if_snd (memOk_hostFrames h) h))
      (memOk_if_snd (memOk_hostFrames h) h)

theorem memOk_migrAgain {m : Migr} (h : s.memOk = true) : (s.migrAgain m).memOk = true :=
  memOk_if (memOk_actionDone h) h

theorem memOk_migrCopy {m : Migr} (h : s.memOk = true) : (s.migrCopy m).memOk = true := by
  unfold State.migrCopy
  split
  · exact h
  · exact memOk_if (memOk_migrAgain h) (memOk_migrStore h)

theorem memOk_migrTest {m : Migr} (h : s.memOk = true) : (s.migrTest m).memOk = true := by
  unfold State.migrTest
  extract_lets s1 m1 s2 s3
  refine memOk_if h ?_
  have h1 : s1.memOk = true := memOk_pushPage (memOk_postPage h)
  clear_value s1
  have h2 : s2.memOk = true := memOk_physWrite _ _ _ h1
  clear_value s2
  have h3 : s3.memOk = true := h2
  clear_value s3
  have h4 : (s3.endMigr m1).memOk = true := h3
  exact memOk_if (memOk_migrAgain h1) (memOk_actionDone h4)

theorem ok_execMigrationTest {mig : Nat} (h : s.memOk = true) : ResOk (execMigrationTest mig s) := by
  refine ok_next (memOk_if ?_ ?_)
  · split
    · exact h
    · split
      · exact memOk_migrBegin h
      · exact memOk_migrCopy h
      · exact memOk_migrTest h
  · split
    · exact h
    · split
      · exact memOk_migrBegin h
      · exact memOk_migrCopy h
      · exact memOk_migrTest h

theorem ok_execReplayMigrate {ctx : Nat} (h : s.memOk = true) : ResOk (execReplayMigrate ctx s) := by
  refine ok_next ?_
  split
  · exact h
  · refine memOk_if h (memOk_replayAct h fun _ _ _ h => ?_)
    split
    · exact memOk_actionDone (memOk_actingField h)
    · exact memOk_if (memOk_actionDone h) (memOk_migrBegin h)

/-! ### Preempt -/

theorem memOk_writeSave {c : Nat} {x : Ctx} {sstate : Nat} (h : s.memOk = true) :
    (s.writeSave c x sstate).memOk = true :=
  memOk_finalWrite _ _ (memOk_finalWrite _ _ (memOk_freeBytes (memOk_finalWrite _ _ (memOk_finalWrite _ _ h))))

theorem memOk_unpinNow {cmd slot : Nat} (h : s.memOk = true) : (s.unpinNow cmd slot).memOk = true := by
  unfold State.unpinNow
  split
  next heq => exact ok_execPdtUnpin h _ heq
  · exact h

theorem memOk_squash {c : Nat} (h : s.memOk = true) : (s.squash c).2.memOk = true :=
  memOk_fold (fun _ _ h => h) (memOk_fold (fun _ _ h => memOk_fold (fun _ _ h => memOk_unpinNow h) h) h)

theorem memOk_listReplays {c : Nat} (h : s.memOk = true) : (s.listReplays c).memOk = true := by
  unfold State.listReplays
  split
  · exact h
  · exact memOk_fold (fun _ _ h => memOk_listReplay h) h

theorem ok_execPreempt {ctx : Nat} {drain : Word} (h : s.memOk = true) : ResOk (execPreempt ctx drain s) := by
  refine ok_next ?_
  split
  · exact h
  · exact memOk_if h (memOk_preemptPoll (memOk_listReplays (memOk_setCtxState _ _ h)))

theorem ok_execPreemptLimitExpire {ctx : Nat} (h : s.memOk = true) : ResOk (execPreemptLimitExpire ctx s) := by
  refine ok_next ?_
  split
  · exact h
  · exact memOk_if (memOk_stopContext _ _ h) h

theorem ok_execDrainExpire {ctx : Nat} (h : s.memOk = true) : ResOk (execDrainExpire ctx s) := by
  unfold execDrainExpire
  refine ok_next ?_
  split
  · exact h
  next x _ =>
    extract_lets s1 s2 stop
    have h1 : s1.memOk = true := memOk_if h h
    have h2 : s2.memOk = true := memOk_listReplays h1
    clear_value s2
    refine memOk_if h ?_
    split
    next heq =>
      have h3 := of_snd (memOk_squash h2) heq
      extract_lets s3
      have h3 : s3.memOk = true := h3
      clear_value s3
      split
      next heq =>
        have h4 := of_snd (p := s3.takeEvents ctx) h3 heq
        extract_lets s4 s5 s6 s7
        have h5 : s5.memOk = true := memOk_fold (fun _ _ h => h) (memOk_fold (fun _ _ h => memOk_saveEvent h) h4)
        clear_value s5
        have h7 : s7.memOk = true := memOk_writeSave (s := s6) h5
        clear_value s7
        exact memOk_setCtxState (s := s7.modCtx _ _) _ _ h7

theorem memOk_reissue {c : Copy} (h : s.memOk = true) : (s.reissue c).memOk = true := by
  unfold State.reissue
  split <;> exact h

theorem memOk_resumeEnd {c : Nat} (h : s.memOk = true) : (s.resumeEnd c).memOk = true :=
  memOk_setCtxState _ _ (memOk_launchHeld (memOk_fold (fun _ _ h => memOk_reissue h) h))

theorem memOk_pushEvents {c : Nat} (h : s.memOk = true) : (s.pushEvents c).memOk = true :=
  memOk_fold (fun _ _ h => h) h

theorem memOk_resumeNext {c : Nat} (h : s.memOk = true) : (s.resumeNext c).memOk = true := by
  unfold State.resumeNext
  split
  · exact h
  · exact memOk_if (memOk_pendOnce (memOk_if (memOk_pushEvents h) h))
      (memOk_if (memOk_resumeEnd h) (memOk_pendOnce h))

theorem ok_execResume {ctx : Nat} (h : s.memOk = true) : ResOk (execResume ctx s) := by
  refine ok_next ?_
  split
  · exact h
  · exact memOk_if (memOk_pendOnce (memOk_pendReplay (memOk_setCtxState _ _ h))) (memOk_if (memOk_resumeNext h) h)

theorem memOk_killTeams {c : Nat} (h : s.memOk = true) : (s.killTeams c).memOk = true :=
  memOk_fold (fun _ _ h => h) (memOk_fold (fun _ _ h => memOk_removeTeam h) h)

theorem memOk_forgetCtx {c : Nat} (h : s.memOk = true) : (s.forgetCtx c).memOk = true :=
  memOk_fold (fun _ _ h => memOk_openDeferred h) (memOk_fold (fun _ _ h => h) (memOk_squash h))

theorem memOk_resetCtx {c : Nat} (h : s.memOk = true) : (s.resetCtx c).memOk = true := by
  unfold State.resetCtx
  split
  · exact h
  next x _ =>
    extract_lets s1 s2 s3
    refine memOk_if h (memOk_if (memOk_if (memOk_pendOnce h) ?_) (memOk_pendOnce ?_))
    · have h1 := memOk_physWrite x.save 4 0 h
      have h2 : ((s.physWrite x.save 4 0).modCtx c fun x => { x with waiting := [] }).memOk = true := h1
      exact memOk_setCtxState _ _ h2
    · have h2 : s2.memOk = true := memOk_forgetCtx (memOk_killTeams (memOk_setCtxState _ _ h))
      clear_value s2
      exact h2

theorem ok_execReset {ctx : Nat} (h : s.memOk = true) : ResOk (execReset ctx s) := ok_next (memOk_resetCtx h)

theorem ok_execFlr {fn : Nat} (h : s.memOk = true) : ResOk (execFlr fn s) := ok_next (memOk_resetCtx h)

/-! ### Host -/

theorem ok_execDoorbell {ctx q : Nat} {v : Word} (h : s.memOk = true) : ResOk (execDoorbell ctx q v s) := by
  refine ok_next ?_
  split
  · exact h
  · refine memOk_if h ?_
    split
    · exact memOk_if (memOk_physWrite _ _ _ h) h
    · exact h

theorem ok_execCtxwcbWrite {ctx : Nat} {v : DWord} (h : s.memOk = true) : ResOk (execCtxwcbWrite ctx v s) := by
  refine ok_next ?_
  split
  · exact h
  · exact memOk_if h (memOk_setCtxState _ _ h)

theorem memOk_unbind {core : Nat} (h : s.memOk = true) : (s.unbind core).memOk = true := by
  unfold State.unbind
  split
  · exact h
  · split
    · exact memOk_removeTeam h
    · exact h

theorem ok_execCctaskWrite {ctx : Nat} {v : DWord} (h : s.memOk = true) : ResOk (execCctaskWrite ctx v s) := by
  refine ok_next ?_
  split
  · exact h
  · refine memOk_if h ?_
    split
    · exact memOk_ctxRecord _ _ h
    · refine memOk_if (memOk_ctxRecord _ _ h) (memOk_if (memOk_if (memOk_unbind h) h) ?_)
      split
      · exact memOk_unbind h
      · exact memOk_ctxRecord _ _ h
      · exact memOk_ctxRecord _ _ h

theorem memOk_msixWrite {fn word : Nat} {v : Word} (h : s.memOk = true) : (s.msixWrite fn word v).memOk = true :=
  memOk_if h (memOk_if (memOk_signal _ _ h) h)

theorem ok_execRegisterWrite {reg : HostReg} {v : DWord} (h : s.memOk = true) :
    ResOk (execRegisterWrite reg v s) := by
  refine ok_next ?_
  split
  · exact memOk_if h h
  · exact memOk_if h h
  · exact memOk_if h h
  · exact memOk_if h h
  · exact memOk_if h h
  · exact memOk_if h h
  · exact h
  · exact memOk_if h h
  · exact memOk_if (memOk_msixWrite h) h

theorem memOk_postHost (h : s.memOk = true) : s.postHost.memOk = true :=
  memOk_fold (fun _ _ h => memOk_postWr _ _ h) h

theorem ok_execHostLinkDown {link : Nat} (h : s.memOk = true) : ResOk (execHostLinkDown link s) := ok_next h

theorem ok_execHostLinkUp {link : Nat} (h : s.memOk = true) : ResOk (execHostLinkUp link s) := ok_next (memOk_if h h)

theorem ok_execAtsInvalidate {link : Nat} {pasid : Option (BitVec 20)} {frame : Nat} (h : s.memOk = true) :
    ResOk (execAtsInvalidate link pasid frame s) :=
  ok_next (memOk_if (memOk_postHost h) (memOk_noteMigr (memOk_postHost h)))

theorem ok_execPriResponse {link : Nat} {pasid : Option (BitVec 20)} {frame : Nat} {granted : Option Nat}
    (h : s.memOk = true) :
    ResOk (execPriResponse link pasid frame granted s) := by
  refine ok_next (memOk_if h ?_)
  split <;> exact h

theorem memOk_afterHost (h : s.memOk = true) : s.afterHost.memOk = true :=
  memOk_fold (fun _ _ h => memOk_if (memOk_flushFaults _ h) (memOk_flushFaults _ h)) h

theorem ok_execCmd {fn cmd : Nat} {drain : Word} (h : s.memOk = true) : ResOk (execCmd fn cmd drain s) := by
  unfold execCmd
  split
  · exact ok_execPreempt h
  · exact ok_execResume h
  · exact ok_execReset h
  · exact ok_next h

theorem ok_execBarWrite {fn off : Nat} {data : List Byte} (h : s.memOk = true) :
    ResOk (execBarWrite fn off data s) :=
  ok_ite (ok_next h) (ok_ite (ok_ite (ok_execCmd h) (ok_execCmd h))
    (ok_ite (ok_execRegisterWrite h) (ok_ite (ok_execReplayDoorbell h)
    (ok_ite (ok_execRegisterWrite h) (ok_ite (ok_execRegisterWrite h)
    (ok_ite (ok_execDoorbell h) (ok_ite (ok_next (memOk_if (memOk_msixWrite (memOk_msixWrite h)) (memOk_msixWrite h)))
    (ok_ite (ok_next h) (ok_ite (ok_execRegisterWrite h)
    (ok_ite (ok_execPtwdataWrite h) (ok_ite (ok_execCtxwcbWrite h)
    (ok_ite (ok_execCctaskWrite h) (ok_ite (ok_execRegisterWrite h) (ok_next h))))))))))))))

theorem memOk_aerError {link fn : Nat} {correctable : Bool} {bit : Nat} (h : s.memOk = true) :
    (s.aerError link fn correctable bit).memOk = true :=
  memOk_if h (memOk_if h (memOk_fold (fun _ _ h => h) h))

theorem ok_execHostAgentAccess {acc : HostAccess} (h : s.memOk = true) : ResOk (execHostAgentAccess acc s) := by
  unfold execHostAgentAccess
  split
  · exact ok_next (memOk_if (memOk_outsideRead h) h)
  · exact ok_next (memOk_if (memOk_afterHost (memOk_outsideWrite h)) h)
  · refine ok_next ?_
    rw [memOk_iff] at h ⊢
    exact ⟨h.1, wf_mstore _ _ h.2⟩
  · exact ok_next h
  · exact ok_next h
  · exact ok_execBarWrite h
  · exact ok_next h
  · exact ok_next (memOk_if h h)
  · exact ok_next (memOk_if h h)
  · exact ok_next (memOk_aerError h)

end Sys2Proof.Laws
end

section
/-! PROOF of O59, part 9 of 10: the vector and matrix words, Skovlink, the management controller and the scalar words. -/

namespace Sys2Proof.Laws

open Sys2Proof.Machine

variable {s : State}

/-! ### IntAlu -/

theorem memOk_alu2 {f : FmtA} {op : Word → Word → Word} (h : s.memOk = true) : (s.alu2 f op).memOk = true :=
  memOk_withRegs h fun _ _ h => memOk_writeLanes h

theorem memOk_alu3 {f : FmtA} {op : Word → Word → Word → Word} (h : s.memOk = true) : (s.alu3 f op).memOk = true := by
  unfold State.alu3
  split
  · exact h
  · exact memOk_withRegs h fun _ _ h => memOk_writeLanes h

theorem ok_execIadd {f : FmtA} (h : s.memOk = true) : ResOk (execIadd f s) := ok_next (memOk_alu2 h)

theorem ok_execIsub {f : FmtA} (h : s.memOk = true) : ResOk (execIsub f s) := ok_next (memOk_alu2 h)

theorem ok_execImul {f : FmtA} (h : s.memOk = true) : ResOk (execImul f s) := ok_next (memOk_alu2 h)

theorem ok_execImulhs {f : FmtA} (h : s.memOk = true) : ResOk (execImulhs f s) := ok_next (memOk_alu2 h)

theorem ok_execImulhn {f : FmtA} (h : s.memOk = true) : ResOk (execImulhn f s) := ok_next (memOk_alu2 h)

theorem ok_execImins {f : FmtA} (h : s.memOk = true) : ResOk (execImins f s) := ok_next (memOk_alu2 h)

theorem ok_execIminn {f : FmtA} (h : s.memOk = true) : ResOk (execIminn f s) := ok_next (memOk_alu2 h)

theorem ok_execImaxs {f : FmtA} (h : s.memOk = true) : ResOk (execImaxs f s) := ok_next (memOk_alu2 h)

theorem ok_execImaxn {f : FmtA} (h : s.memOk = true) : ResOk (execImaxn f s) := ok_next (memOk_alu2 h)

theorem ok_execIaddsat {f : FmtA} (h : s.memOk = true) : ResOk (execIaddsat f s) := ok_next (memOk_alu2 h)

theorem ok_execIsubsat {f : FmtA} (h : s.memOk = true) : ResOk (execIsubsat f s) := ok_next (memOk_alu2 h)

theorem ok_execAnd {f : FmtA} (h : s.memOk = true) : ResOk (execAnd f s) := ok_next (memOk_alu2 h)

theorem ok_execOr {f : FmtA} (h : s.memOk = true) : ResOk (execOr f s) := ok_next (memOk_alu2 h)

theorem ok_execXor {f : FmtA} (h : s.memOk = true) : ResOk (execXor f s) := ok_next (memOk_alu2 h)

theorem ok_execAndn {f : FmtA} (h : s.memOk = true) : ResOk (execAndn f s) := ok_next (memOk_alu2 h)

theorem ok_execShl {f : FmtA} (h : s.memOk = true) : ResOk (execShl f s) := ok_next (memOk_alu2 h)

theorem ok_execShrn {f : FmtA} (h : s.memOk = true) : ResOk (execShrn f s) := ok_next (memOk_alu2 h)

theorem ok_execShrs {f : FmtA} (h : s.memOk = true) : ResOk (execShrs f s) := ok_next (memOk_alu2 h)

theorem ok_execBfx {f : FmtA} (h : s.memOk = true) : ResOk (execBfx f s) := ok_next (memOk_alu2 h)

theorem ok_execPerm {f : FmtA} (h : s.memOk = true) : ResOk (execPerm f s) := ok_next (memOk_alu2 h)

theorem ok_execPack2 {f : FmtA} (h : s.memOk = true) : ResOk (execPack2 f s) := ok_next (memOk_alu2 h)

theorem ok_execImad {f : FmtA} (h : s.memOk = true) : ResOk (execImad f s) := ok_next (memOk_alu3 h)

theorem ok_execBfi {f : FmtA} (h : s.memOk = true) : ResOk (execBfi f s) := ok_next (memOk_alu3 h)

theorem ok_execSel {f : FmtA} (h : s.memOk = true) : ResOk (execSel f s) :=
  ok_next (memOk_withRegs h fun _ _ h => memOk_writeLanes h)

theorem ok_execIadd64 {f : FmtA} (h : s.memOk = true) : ResOk (execIadd64 f s) :=
  ok_next (memOk_withRegs h fun _ _ h => memOk_writePairs h)

/-! ### Unary -/

theorem memOk_alu1 {f : FmtU} {op : Issue → Word → Word} (h : s.memOk = true) : (s.alu1 f op).memOk = true :=
  memOk_withRegs h fun _ _ h => memOk_writeLanes h

theorem memOk_falu1 {f : FmtU} {op : Issue → Machine.Num → Word} (h : s.memOk = true) :
    (s.falu1 f op).memOk = true :=
  memOk_withRegs h fun _ _ h => memOk_writeLanes h

theorem ok_execMov {f : FmtU} (h : s.memOk = true) : ResOk (execMov f s) := ok_next (memOk_alu1 h)

theorem ok_execNot {f : FmtU} (h : s.memOk = true) : ResOk (execNot f s) := ok_next (memOk_alu1 h)

theorem ok_execIneg {f : FmtU} (h : s.memOk = true) : ResOk (execIneg f s) := ok_next (memOk_alu1 h)

theorem ok_execIabs {f : FmtU} (h : s.memOk = true) : ResOk (execIabs f s) := ok_next (memOk_alu1 h)

theorem ok_execClz {f : FmtU} (h : s.memOk = true) : ResOk (execClz f s) := ok_next (memOk_alu1 h)

theorem ok_execPopc {f : FmtU} (h : s.memOk = true) : ResOk (execPopc f s) := ok_next (memOk_alu1 h)

theorem ok_execBrev {f : FmtU} (h : s.memOk = true) : ResOk (execBrev f s) := ok_next (memOk_alu1 h)

theorem ok_execMov64 {f : FmtU} (h : s.memOk = true) : ResOk (execMov64 f s) :=
  ok_next (memOk_withRegs h fun _ _ h => memOk_writePairs h)

theorem memOk_sfu {f : FmtU} {fn : SfuFn} (h : s.memOk = true) : (s.sfu f fn).memOk = true := by
  unfold State.sfu
  refine memOk_withRegs h fun i t h => ?_
  extract_lets flag res start act
  have hstart : ∀ t hp ls, State.memOk t = true → (start t hp ls).memOk = true := by
    intro t hp ls ht
    unfold start
    extract_lets b o
    split
    next heq =>
      have h1 := of_snd (memOk_startOp ht) heq
      exact h1
  clear_value start
  split
  · exact memOk_if h (memOk_if h (hstart _ _ _ h))
  · exact memOk_if h (memOk_fold (fun _ _ h => hstart _ _ _ h) h)

theorem ok_execFrcp {f : FmtU} (h : s.memOk = true) : ResOk (execFrcp f s) := ok_next (memOk_sfu h)

theorem ok_execFrsq {f : FmtU} (h : s.memOk = true) : ResOk (execFrsq f s) := ok_next (memOk_sfu h)

theorem ok_execFsqrt {f : FmtU} (h : s.memOk = true) : ResOk (execFsqrt f s) := ok_next (memOk_sfu h)

theorem ok_execFexp2 {f : FmtU} (h : s.memOk = true) : ResOk (execFexp2 f s) := ok_next (memOk_sfu h)

theorem ok_execFlog2 {f : FmtU} (h : s.memOk = true) : ResOk (execFlog2 f s) := ok_next (memOk_sfu h)

theorem ok_execFsint {f : FmtU} (h : s.memOk = true) : ResOk (execFsint f s) := ok_next (memOk_sfu h)

theorem ok_execFcost {f : FmtU} (h : s.memOk = true) : ResOk (execFcost f s) := ok_next (memOk_sfu h)

theorem ok_execFtanh {f : FmtU} (h : s.memOk = true) : ResOk (execFtanh f s) := ok_next (memOk_sfu h)

theorem ok_execSfuResult {op : Nat} (h : s.memOk = true) : ResOk (execSfuResult op s) := by
  refine ok_next ?_
  split
  · exact h
  · split
    · exact memOk_endOp (memOk_fold (fun _ _ h => memOk_landV h) h)
    · exact h

theorem ok_execFrnd {f : FmtU} (h : s.memOk = true) : ResOk (execFrnd f s) := ok_next (memOk_falu1 h)

theorem ok_execFfract {f : FmtU} (h : s.memOk = true) : ResOk (execFfract f s) := ok_next (memOk_falu1 h)

theorem ok_execFclass {f : FmtU} (h : s.memOk = true) : ResOk (execFclass f s) := ok_next (memOk_falu1 h)

theorem ok_execCvt {f : FmtCvt} (h : s.memOk = true) : ResOk (execCvt f s) :=
  ok_next (memOk_withRegs h fun _ _ h => memOk_writeLanes h)

theorem ok_execCmp {f : FmtC} (h : s.memOk = true) : ResOk (execCmp f s) :=
  ok_next (memOk_withRegs h fun _ _ h => memOk_fold (fun _ _ h => memOk_wrP h) h)

/-! ### Lane -/

theorem memOk_shuffle {f : FmtL} {src : Nat → Nat → ℤ} (h : s.memOk = true) : (s.shuffle f src).memOk = true :=
  memOk_withThread h fun _ _ h => memOk_writeLanes h

theorem ok_execShfli {f : FmtL} (h : s.memOk = true) : ResOk (execShfli f s) := ok_next (memOk_shuffle h)

theorem ok_execShflu {f : FmtL} (h : s.memOk = true) : ResOk (execShflu f s) := ok_next (memOk_shuffle h)

theorem ok_execShfld {f : FmtL} (h : s.memOk = true) : ResOk (execShfld f s) := ok_next (memOk_shuffle h)

theorem ok_execShflx {f : FmtL} (h : s.memOk = true) : ResOk (execShflx f s) := ok_next (memOk_shuffle h)

theorem ok_execSwappair {f : FmtL} (h : s.memOk = true) : ResOk (execSwappair f s) :=
  ok_next (memOk_withThread h fun _ _ h => memOk_writeLanes h)

theorem ok_execBcastl {f : FmtU} (h : s.memOk = true) : ResOk (execBcastl f s) :=
  ok_next (memOk_withThread h fun _ _ h => memOk_writeLanes h)

theorem ok_execVoteb {f : FmtL} (h : s.memOk = true) : ResOk (execVoteb f s) :=
  ok_next (memOk_withThread h fun _ _ h => memOk_writeLanes h)

theorem ok_execRedux {f : FmtL} (h : s.memOk = true) : ResOk (execRedux f s) :=
  ok_next (memOk_withThread h fun _ _ h => memOk_writeLanes h)

/-! ### Matrix -/

theorem memOk_mat {regs : List Nat} {k : Issue → Warp → Team → List (Nat × Nat) → State → State} {counts : Bool}
    (h : s.memOk = true) (hk : ∀ a b c d, Keeps (k a b c d)) :
    (s.mat regs k counts).memOk = true := by
  unfold State.mat
  split
  · exact h
  · refine memOk_if (memOk_illegal _ _ h) ?_
    split
    · exact memOk_forbid _ _ _ h
    · refine memOk_if (memOk_forbid _ _ _ h) ?_
      split
      · exact memOk_if (memOk_raise _ _ _ _ h) (memOk_if (memOk_if h h) (hk _ _ _ _ _ h))
      · exact h

theorem memOk_acceptMop {i : Issue} {w : Warp} {m : Mop} {vdests : List (Nat × Nat)} {counts : Bool}
    (h : s.memOk = true) :
    (s.acceptMop i w m vdests counts).memOk = true :=
  memOk_if h (memOk_startOp h)

theorem memOk_spadPost {wk : Nat} (h : s.memOk = true) : (s.spadPost wk).memOk = true :=
  memOk_fold (fun _ _ h => memOk_postWr _ _ h) h

theorem memOk_vote {i : Issue} {f : BitVec 7} {ls : List Nat} {t : State} (h : s.memOk = true)
    (e : s.vote i f ls = .error t) :
    t.memOk = true := by
  unfold State.vote at e
  extract_lets low w at e
  split at e
  · cases e
    exact memOk_raise _ _ _ _ h
  · split at e <;> cases e <;> exact memOk_raise _ _ _ _ h

theorem ok_execMmq {f : FmtX} (h : s.memOk = true) : ResOk (execMmq f s) := by
  unfold execMmq
  refine ok_next (memOk_mat h fun i w t qs u h => ?_)
  extract_lets a ls
  split
  next heq => exact memOk_vote h heq
  · refine memOk_if (memOk_illegal _ _ h) (memOk_if (memOk_illegal _ _ h) (memOk_if h ?_))
    split
    · exact memOk_forbid _ _ _ h
    · split
      · exact memOk_raise _ _ _ _ h
      · exact memOk_acceptMop h

theorem ok_execMmg {f : FmtX} (h : s.memOk = true) : ResOk (execMmg f s) := by
  unfold execMmg
  refine ok_next (memOk_mat h fun i w t qs u h => ?_)
  extract_lets
  split
  next heq => exact memOk_vote h heq
  · split
    · exact memOk_raise _ _ _ _ h
    · split
      · exact memOk_raise _ _ _ _ h
      · split
        · exact memOk_raise _ _ _ _ h
        · split
          · exact memOk_illegal _ _ h
          · split
            · exact memOk_raise _ _ _ _ h
            · split
              next heq =>
                refine memOk_acceptMop (of_snd (memOk_fold_snd (fun p l h => ?_) (memOk_spadPost h)) heq)
                split
                next heq => exact of_snd (memOk_matBytes h) heq

theorem ok_execMlds {a f : BitVec 7} (h : s.memOk = true) : ResOk (execMlds a f s) := by
  unfold execMlds
  dsimp only
  refine ok_next (memOk_mat h fun _ _ _ _ _ h => ?_)
  split
  · exact memOk_raise _ _ _ _ h
  · split
    · exact memOk_raise _ _ _ _ h
    · split
      · exact memOk_raise _ _ _ _ h
      · exact memOk_if h (memOk_acceptMop (memOk_fold (fun _ _ h => h) (memOk_spadPost h)))

theorem ok_execMswap (h : s.memOk = true) : ResOk (execMswap s) :=
  ok_next (memOk_mat h fun _ _ _ _ _ h => memOk_acceptMop (memOk_fold (fun _ _ h => h) h))

theorem memOk_tileMove {tile : BitVec 8} {a : BitVec 7} {g : BitVec 2} {read : Bool} (h : s.memOk = true) :
    (s.tileMove tile a g read).memOk = true := by
  refine memOk_mat h fun _ _ _ _ _ h => memOk_if h ?_
  split
  · exact memOk_forbid _ _ _ h
  · exact memOk_acceptMop h

theorem ok_execMrd {tile : BitVec 8} {a : BitVec 7} {g : BitVec 2} (h : s.memOk = true) :
    ResOk (execMrd tile a g s) :=
  ok_next (memOk_tileMove h)

theorem ok_execMwr {tile : BitVec 8} {a : BitVec 7} {g : BitVec 2} (h : s.memOk = true) :
    ResOk (execMwr tile a g s) :=
  ok_next (memOk_tileMove h)

theorem ok_execMclr {tile : BitVec 8} {n : BitVec 7} (h : s.memOk = true) : ResOk (execMclr tile n s) := by
  refine ok_next ?_
  split
  · exact h
  · refine memOk_if (memOk_illegal _ _ h) (memOk_if (memOk_forbid _ _ _ h) (memOk_if (memOk_forbid _ _ _ h) ?_))
    split
    · exact memOk_if h (memOk_if (memOk_illegal _ _ h) (memOk_acceptMop h))
    · exact h

theorem memOk_productRow {core gs : Nat} {fw : FmtWord} {acc : Nat} {r : MRow} (h : s.memOk = true) :
    (s.productRow core gs fw acc r).memOk = true :=
  memOk_fold (fun _ _ h => memOk_if h h) h

theorem memOk_performQuarter {m : Mop} {q : QOp} (h : s.memOk = true) : (s.performQuarter m q).memOk = true := by
  unfold State.performQuarter
  split
  · split
    · exact h
    · exact memOk_fold (fun _ _ h => memOk_productRow h) h
  · split
    · exact h
    · refine memOk_fold_snd (fun p r h => ?_) h
      extract_lets first
      have h1 := memOk_productRow (core := m.core) (gs := m.gs) (fw := ‹FmtWord›)
        (acc := if ‹FmtWord›.acc = 1 ∧ !first then 0 else ‹FmtWord›.acc) (r := r) h
      exact h1
  · split
    · exact h
    · split
      next heq =>
        have h1 := of_snd (memOk_matBytes h) heq
        exact h1
  · exact h
  · split
    · exact h
    · exact memOk_fold (fun _ _ h => memOk_fold (fun _ _ h => memOk_landV h) h) h
  · exact memOk_fold (fun _ _ h => memOk_fold (fun _ _ h => memOk_if h h) h) h
  · exact memOk_fold (fun _ _ h => h) h

theorem memOk_undefRow {m : Mop} {r : MRow} (h : s.memOk = true) : (s.undefRow m r).memOk = true := by
  unfold State.undefRow
  split
  · exact memOk_fold (fun _ _ h => h) h
  · exact memOk_fold (fun _ _ h => h) h
  · exact memOk_fold (fun _ _ h => h) h
  · exact h

theorem ok_execMatrixOpComplete {op : Nat} (h : s.memOk = true) : ResOk (execMatrixOpComplete op s) := by
  unfold execMatrixOpComplete
  dsimp only
  refine ok_next ?_
  split
  · exact memOk_endOp h
  · split
    · exact memOk_performQuarter h
    · exact memOk_if (memOk_endOp (memOk_fold (fun _ _ h => memOk_undefRow h) h)) h

/-! ### Skov -/

theorem memOk_failUnreachable (h : s.memOk = true) : s.failUnreachable.memOk = true := memOk_fold (fun _ _ h => h) h

theorem memOk_portDown {port : Nat} (h : s.memOk = true) : (s.portDown port).memOk = true := by
  unfold State.portDown
  split
  · exact h
  · refine memOk_if h (memOk_failUnreachable (memOk_fold (fun _ _ h => ?_) h))
    split <;> exact h

theorem ok_execPortDown {port : Nat} (h : s.memOk = true) : ResOk (execPortDown port s) := ok_next (memOk_portDown h)

theorem ok_execPortUp {port : Nat} (h : s.memOk = true) : ResOk (execPortUp port s) := ok_next h

theorem memOk_arriveMsg {m : Msg} (h : s.memOk = true) : (s.arriveMsg m).memOk = true :=
  memOk_if h (memOk_if h (memOk_if h h))

theorem memOk_takeData {port : Nat} {p : Port} {f : Flit} (h : s.memOk = true) :
    (s.takeData port p f).memOk = true :=
  memOk_fold (fun _ _ h => memOk_arriveMsg h) h

theorem ok_execFlitReceive {port : Nat} {flit : List Byte} (h : s.memOk = true) :
    ResOk (execFlitReceive port flit s) := by
  refine ok_next ?_
  split
  · exact h
  · refine memOk_if h ?_
    split
    · exact h
    · refine memOk_if h ?_
      split
      · exact memOk_if (memOk_portDown h) h
      · exact memOk_if (memOk_takeData h) h
      · exact h

theorem memOk_respond {m : Msg} {status : Byte} {data : List Byte} (h : s.memOk = true) :
    (s.respond m status data).memOk = true := by
  unfold State.respond
  split <;> exact h

theorem memOk_inOrder {src : Nat} {ev : Instr} {f : Msg → State → State} (h : s.memOk = true)
    (hf : ∀ a, Keeps (f a)) :
    (s.inOrder src ev f).memOk = true := by
  unfold State.inOrder
  dsimp only
  split
  · refine memOk_if h ?_
    split <;> exact hf _ _ h
  · exact h

theorem ok_execSkovRead {src : Nat} (h : s.memOk = true) : ResOk (execSkovRead src s) :=
  ok_next (memOk_inOrder h fun _ _ h => memOk_if (memOk_respond h) (memOk_respond (memOk_outsideRead h)))

theorem memOk_skovPut {m : Msg} (h : s.memOk = true) : (s.skovPut m).memOk = true :=
  memOk_if (memOk_respond h) (memOk_respond (memOk_fold (fun _ _ h => memOk_if (memOk_serveRow h) h)
    (memOk_outsideWrite (memOk_kvRace h))))

theorem ok_execSkovWrite {src : Nat} (h : s.memOk = true) : ResOk (execSkovWrite src s) :=
  ok_next (memOk_inOrder h fun _ _ h => memOk_skovPut h)

theorem ok_execSkovBulkWrite {src : Nat} (h : s.memOk = true) : ResOk (execSkovBulkWrite src s) :=
  ok_next (memOk_inOrder h fun _ _ h => memOk_skovPut h)

theorem ok_execSkovAtomic {src : Nat} (h : s.memOk = true) : ResOk (execSkovAtomic src s) :=
  ok_next (memOk_inOrder h fun _ _ h => memOk_if (memOk_respond h)
    (memOk_if (memOk_respond (memOk_serveEnt (memOk_serveRow h)))
    (memOk_respond (memOk_if h (memOk_homeWrite (memOk_kvRace h))))))

theorem memOk_lostWrite {r : SkReq} {src unit wcb : Nat} (h : s.memOk = true) :
    (s.lostWrite r src unit wcb).memOk = true :=
  memOk_errorRecord _ _ h

theorem memOk_walkerLost {r : SkReq} {write : Bool} (h : s.memOk = true) : (s.walkerLost r write).memOk = true := by
  unfold State.walkerLost
  split
  · exact h
  · exact memOk_errorRecord _ _ h

theorem memOk_answer {r : SkReq} {m : Msg} (h : s.memOk = true) : (s.answer r m).memOk = true := by
  unfold State.answer
  dsimp only
  split
  · split
    · exact h
    · refine memOk_fillPart ?_
      split
      · exact memOk_if (memOk_fillPeer h) h
      · exact h
  · refine memOk_if h ?_
    split <;> exact memOk_lostWrite h
  · split
    · exact memOk_if (memOk_fillPeer h) (memOk_copyUe h)
    · refine memOk_if h ?_
      split
      · exact memOk_lostWrite h
      · exact h
  · exact memOk_if h (memOk_walkerLost h)
  · exact h

theorem ok_execSkovResponse {src : Nat} (h : s.memOk = true) : ResOk (execSkovResponse src s) := by
  unfold execSkovResponse
  dsimp only
  refine ok_next ?_
  split
  · exact h
  · split
    · exact h
    · exact memOk_answer h

/-! ### Mgmt -/

theorem memOk_presentField {f : Nat} (h : s.memOk = true) : (s.presentField f).memOk = true :=
  memOk_fold (fun _ _ h => h) h

theorem memOk_setRoutes (h : s.memOk = true) : s.setRoutes.memOk = true := by
  unfold State.setRoutes
  split
  next heq =>
    have h1 := of_snd (memOk_freeBytes h) heq
    exact h1

theorem memOk_bootNext {l : List Nat} (h : s.memOk = true) : (s.bootNext l).memOk = true := by
  induction l generalizing s with
  | nil => 
    unfold State.bootNext
    extract_lets m s1
    have h1 : s1.memOk = true := memOk_setRoutes h
    exact memOk_fold (fun _ _ h => memOk_presentField h) h1
  | cons st rest ih =>
    unfold State.bootNext
    exact memOk_if (ih h) h

theorem memOk_history {bs : List Byte} (h : s.memOk = true) : (s.history bs).memOk = true :=
  memOk_of_eq h (by rw [history_m]) (by rw [history_m])

theorem memOk_openHistory {unit : Nat} (h : s.memOk = true) : (s.openHistory unit).memOk = true := by
  unfold State.openHistory
  split
  next t heq =>
    have h1 : t.memOk = true := of_snd (p := s.nextSeq _) h heq
    split
    next heq =>
      exact memOk_history (of_snd (memOk_freeBytes h1) heq)

theorem memOk_bootStart (h : s.memOk = true) : s.bootStart.memOk = true :=
  memOk_bootNext (memOk_fold (fun _ _ h => memOk_openHistory h) h)

theorem ok_execBringup (h : s.memOk = true) : ResOk (execBringup s) := ok_next (memOk_bootStart h)

theorem memOk_bootFail {st rate : Nat} (h : s.memOk = true) : (s.bootFail st rate).memOk = true := by
  unfold State.bootFail
  refine memOk_if ?_ ?_
  · have h1 : (s.bootRecord st rate 2 0).memOk = true := h
    exact memOk_bootStart h1
  · extract_lets m s1 s2 m3 hl s3
    have h1 : s1.memOk = true := h
    have h2 : s2.memOk = true := memOk_openHistory h1
    clear_value s2
    have h3 : s3.memOk = true := memOk_if h2 h2
    exact memOk_bootNext h3

theorem ok_execBringupStepEnd {ok : Bool} (h : s.memOk = true) : ResOk (execBringupStepEnd ok s) := by
  refine ok_next ?_
  split
  · exact h
  · exact memOk_if (memOk_bootFail h) (memOk_bootNext (memOk_if (memOk_if h h) (memOk_if h h)))

theorem ok_execBringupStepTimeout (h : s.memOk = true) : ResOk (execBringupStepTimeout s) := by
  refine ok_next ?_
  split
  · exact h
  · exact memOk_bootFail h

theorem ok_execBootclr (h : s.memOk = true) : ResOk (execBootclr s) := ok_next h

theorem ok_execPowerLoss (h : s.memOk = true) : ResOk (execPowerLoss s) := by
  refine ok_next ?_
  rw [memOk_iff] at h ⊢
  exact ⟨rfl, h.2⟩

theorem ok_execFieldCurrentAverage {field tenthsAmp : Nat} (h : s.memOk = true) :
    ResOk (execFieldCurrentAverage field tenthsAmp s) :=
  ok_next h

theorem ok_execClockThrottleStep {field : Nat} (h : s.memOk = true) : ResOk (execClockThrottleStep field s) :=
  ok_next h

theorem ok_execCapUpdate {fieldPower ioPower : Nat} (h : s.memOk = true) :
    ResOk (execCapUpdate fieldPower ioPower s) :=
  ok_next (memOk_fold (fun _ _ h => memOk_openHistory h) h)

theorem ok_execScrub {channel : Nat} (h : s.memOk = true) : ResOk (execScrub channel s) := by
  refine ok_next (memOk_if h ?_)
  split
  · exact h
  · exact memOk_restoreRow h

theorem ok_execScrubEscalate {channel : Nat} {on : Bool} (h : s.memOk = true) :
    ResOk (execScrubEscalate channel on s) :=
  ok_next h

theorem ok_execTelemetryCapture {src : Byte} (h : s.memOk = true) : ResOk (execTelemetryCapture src s) :=
  ok_next (memOk_if h h)

theorem ok_execSoftError {addr : Nat} {correctable : Bool} (h : s.memOk = true) :
    ResOk (execSoftError addr correctable s) :=
  ok_next (memOk_if h (memOk_if h h))

/-! ### Scalar -/

theorem memOk_withScalar {tb : BitVec 2} {b : BitVec 6} {pair : Bool} {k : Issue → BitVec 7 → State → State}
    (h : s.memOk = true) (hk : ∀ a b, Keeps (k a b)) :
    (s.withScalar tb b pair k).memOk = true := by
  unfold State.withScalar
  dsimp only
  split
  · exact h
  · split
    · exact memOk_forbid _ _ _ h
    · exact hk _ _ _ h

theorem memOk_salu {tb : BitVec 2} {b : BitVec 6} {pair : Bool} {k : Issue → BitVec 7 → State → State}
    (h : s.memOk = true) (hk : ∀ a b, Keeps (k a b)) :
    (s.salu tb b pair k).memOk = true :=
  memOk_withScalar h fun _ _ _ h => memOk_if (memOk_forbid _ _ _ h) (memOk_if h (memOk_if h (hk _ _ _ h)))

theorem memOk_salu2 {f : FmtS} {op : Word → Word → Word} (h : s.memOk = true) : (s.salu2 f op).memOk = true :=
  memOk_salu h fun _ _ _ h => h

theorem ok_execSadd {f : FmtS} (h : s.memOk = true) : ResOk (execSadd f s) := ok_next (memOk_salu2 h)

theorem ok_execSsub {f : FmtS} (h : s.memOk = true) : ResOk (execSsub f s) := ok_next (memOk_salu2 h)

theorem ok_execSmul {f : FmtS} (h : s.memOk = true) : ResOk (execSmul f s) := ok_next (memOk_salu2 h)

theorem ok_execSand {f : FmtS} (h : s.memOk = true) : ResOk (execSand f s) := ok_next (memOk_salu2 h)

theorem ok_execSor {f : FmtS} (h : s.memOk = true) : ResOk (execSor f s) := ok_next (memOk_salu2 h)

theorem ok_execSxor {f : FmtS} (h : s.memOk = true) : ResOk (execSxor f s) := ok_next (memOk_salu2 h)

theorem ok_execSshl {f : FmtS} (h : s.memOk = true) : ResOk (execSshl f s) := ok_next (memOk_salu2 h)

theorem ok_execSshrn {f : FmtS} (h : s.memOk = true) : ResOk (execSshrn f s) := ok_next (memOk_salu2 h)

theorem ok_execSshrs {f : FmtS} (h : s.memOk = true) : ResOk (execSshrs f s) := ok_next (memOk_salu2 h)

theorem ok_execSmins {f : FmtS} (h : s.memOk = true) : ResOk (execSmins f s) := ok_next (memOk_salu2 h)

theorem ok_execSmaxs {f : FmtS} (h : s.memOk = true) : ResOk (execSmaxs f s) := ok_next (memOk_salu2 h)

theorem ok_execSminn {f : FmtS} (h : s.memOk = true) : ResOk (execSminn f s) := ok_next (memOk_salu2 h)

theorem ok_execSmaxn {f : FmtS} (h : s.memOk = true) : ResOk (execSmaxn f s) := ok_next (memOk_salu2 h)

theorem ok_execSadd64 {f : FmtS} (h : s.memOk = true) : ResOk (execSadd64 f s) :=
  ok_next (memOk_salu h fun _ _ _ h => h)

theorem ok_execSmov {f : FmtSmov} (h : s.memOk = true) : ResOk (execSmov f s) :=
  ok_next (memOk_salu h fun _ _ _ h => h)

theorem ok_execSmov64 {f : FmtSmov} (h : s.memOk = true) : ResOk (execSmov64 f s) :=
  ok_next (memOk_salu h fun _ _ _ h => h)

theorem ok_execScmp {f : FmtScmp} (h : s.memOk = true) : ResOk (execScmp f s) :=
  ok_next (memOk_withScalar h fun _ _ _ h => memOk_if h (memOk_fold (fun _ _ h => memOk_wrP h) h))

end Sys2Proof.Laws
end

section
/-! PROOF of O59, part 10 of 10: dispatch, packets, issue, run-ahead, selection, and the step. -/

namespace Sys2Proof.Laws

open Sys2Proof.Machine

variable {s : State}

/-! ### Dispatch -/

theorem ok_exec {i : Instr} (h : s.memOk = true) : ResOk (exec i s) := by
  unfold exec
  split
  · exact ok_execIadd h
  · exact ok_execIsub h
  · exact ok_execImul h
  · exact ok_execImulhs h
  · exact ok_execImulhn h
  · exact ok_execImad h
  · exact ok_execImins h
  · exact ok_execIminn h
  · exact ok_execImaxs h
  · exact ok_execImaxn h
  · exact ok_execIaddsat h
  · exact ok_execIsubsat h
  · exact ok_execAnd h
  · exact ok_execOr h
  · exact ok_execXor h
  · exact ok_execAndn h
  · exact ok_execShl h
  · exact ok_execShrn h
  · exact ok_execShrs h
  · exact ok_execBfx h
  · exact ok_execBfi h
  · exact ok_execIadd64 h
  · exact ok_execPerm h
  · exact ok_execSel h
  · exact ok_execFadd h
  · exact ok_execFsub h
  · exact ok_execFmul h
  · exact ok_execFfma h
  · exact ok_execFmin h
  · exact ok_execFmax h
  · exact ok_execFscale h
  · exact ok_execBadd2 h
  · exact ok_execBmul2 h
  · exact ok_execBfma2 h
  · exact ok_execHadd2 h
  · exact ok_execHmul2 h
  · exact ok_execHfma2 h
  · exact ok_execPack2 h
  · exact ok_execBdot2 h
  · exact ok_execHdot2 h
  · exact ok_execMov h
  · exact ok_execNot h
  · exact ok_execIneg h
  · exact ok_execIabs h
  · exact ok_execClz h
  · exact ok_execPopc h
  · exact ok_execBrev h
  · exact ok_execMov64 h
  · exact ok_execFrcp h
  · exact ok_execFrsq h
  · exact ok_execFsqrt h
  · exact ok_execFexp2 h
  · exact ok_execFlog2 h
  · exact ok_execFsint h
  · exact ok_execFcost h
  · exact ok_execFtanh h
  · exact ok_execFrnd h
  · exact ok_execFfract h
  · exact ok_execFclass h
  · exact ok_execCvt h
  · exact ok_execCmp h
  · exact ok_execSadd h
  · exact ok_execSsub h
  · exact ok_execSmul h
  · exact ok_execSand h
  · exact ok_execSor h
  · exact ok_execSxor h
  · exact ok_execSshl h
  · exact ok_execSshrn h
  · exact ok_execSshrs h
  · exact ok_execSmins h
  · exact ok_execSmaxs h
  · exact ok_execSminn h
  · exact ok_execSmaxn h
  · exact ok_execSadd64 h
  · exact ok_execSmov h
  · exact ok_execSmov64 h
  · exact ok_execScmp h
  · exact ok_execBra h
  · exact ok_execBrx h
  · exact ok_execCall h
  · exact ok_execCalli h
  · exact ok_execRet h
  · exact ok_execJmpi h
  · exact ok_execMeet h
  · exact ok_execMeetx h
  · exact ok_execExit h
  · exact ok_execBar h
  · exact ok_execBara h
  · exact ok_execTrap h
  · exact ok_execBrkpt h
  · exact ok_execIdemb h
  · exact ok_execIdeme h
  · exact ok_execTrig h
  · exact ok_execLdVbase h
  · exact ok_execLdSbase h
  · exact ok_execStVbase h
  · exact ok_execStSbase h
  · exact ok_execAtomAdd h
  · exact ok_execAtomMins h
  · exact ok_execAtomMaxs h
  · exact ok_execAtomMinn h
  · exact ok_execAtomMaxn h
  · exact ok_execAtomAnd h
  · exact ok_execAtomOr h
  · exact ok_execAtomXor h
  · exact ok_execAtomXchg h
  · exact ok_execAtomCas h
  · exact ok_execAtomFadd h
  · exact ok_execAtomBadd2 h
  · exact ok_execAtomInc h
  · exact ok_execAtomDec h
  · exact ok_execAtomStrel h
  · exact ok_execAtomLdacq h
  · exact ok_execFence h
  · exact ok_execWaitf h
  · exact ok_execTlrflush h
  · exact ok_execIpref h
  · exact ok_execIpin h
  · exact ok_execIunpin h
  · exact ok_execCinv h
  · exact ok_execCwb h
  · exact ok_execMmq h
  · exact ok_execMmg h
  · exact ok_execMlds h
  · exact ok_execMrd h
  · exact ok_execMwr h
  · exact ok_execMclr h
  · exact ok_execShfli h
  · exact ok_execShflu h
  · exact ok_execShfld h
  · exact ok_execShflx h
  · exact ok_execSwappair h
  · exact ok_execBcastl h
  · exact ok_execVoteb h
  · exact ok_execRedux h
  · exact ok_execTcopy h
  · exact ok_execTstore h
  · exact ok_execTgather h
  · exact ok_execTscatter h
  · exact ok_execTxfer h
  · exact ok_execXacq h
  · exact ok_execXrel h
  · exact ok_execAacq h
  · exact ok_execArel h
  · exact ok_execRecruit h
  · exact ok_execHreduce h
  · exact ok_execHjoin h
  · exact ok_execSwreg h
  · exact ok_execSwdereg h
  · exact ok_execSwq h
  · exact ok_execSwurge h
  · exact ok_execSwstat h
  · exact ok_execSwliveDead h
  · exact ok_execSwliveLive h
  · exact ok_execPfxlook h
  · exact ok_execPfxins h
  · exact ok_execPfxrel h
  · exact ok_execPfxevict h
  · exact ok_execKappend h
  · exact ok_execKseq h
  · exact ok_execNmc h
  · exact ok_execNmfence h
  · exact ok_execNmstat h
  · exact ok_execLaunch h
  · exact ok_execDcdec h
  · exact ok_execDcadd h
  · exact ok_execTaskrdy h
  · exact ok_execEvpop h
  · exact ok_execEvpush h
  · exact ok_execGetsr h
  · exact ok_execSetsr h
  · exact ok_execRand h
  · exact ok_execClock h
  · exact ok_execCwin h
  · exact ok_execUerpl h
  · exact ok_execClause h
  · exact ok_execBolterReform h
  · exact ok_execForcedReleaseReturn h
  · exact ok_execHelperReplacement h
  · exact ok_execHchunkWake h
  · exact ok_execHjoinComplete h
  · exact ok_execHandlerStart h
  · exact ok_execLoadDataReturn h
  · exact ok_execStorePerformed h
  · exact ok_execSfuResult h
  · exact ok_execMatrixOpComplete h
  · exact ok_execCacheOpDone h
  · exact ok_execTlrflushDone h
  · exact ok_execResourceGrant h
  · exact ok_execWarpEnd h
  · exact ok_execTlrFill h
  · exact ok_execCopyComplete h
  · exact ok_execPdtPin h
  · exact ok_execPdtUnpin h
  · exact ok_execPageFreePush h
  · exact ok_execKvEngineStep h
  · exact ok_execPost h
  · exact ok_execPush h
  · exact ok_execSettle h
  · exact ok_execResume h
  · exact ok_execServe h
  · exact ok_execRestore h
  · exact ok_execSwqArrival h
  · exact ok_execSwurgeActivation h
  · exact ok_execSwstatSnapshot h
  · exact ok_execSweepRegArrive h
  · exact ok_execSweepDeregArrive h
  · exact ok_execSwregDescriptorRead h
  · exact ok_execSwregComplete h
  · exact ok_execSwliveArrive h
  · exact ok_execScrub h
  · exact ok_execNmcDescriptorRead h
  · exact ok_execNmGemv h
  · exact ok_execNmCsum h
  · exact ok_execNmUpdate h
  · exact ok_execNmFill h
  · exact ok_execNmCopy h
  · exact ok_execNmCommandComplete h
  · exact ok_execDcDecrement h
  · exact ok_execEvpopWake h
  · exact ok_execFrontEndLaunch h
  · exact ok_execTeamPlace h
  · exact ok_execTeamMove h
  · exact ok_execReset h
  · exact ok_execRunaheadEnd h
  · exact ok_execBatchOpenDeferred h
  · exact ok_execReplayConsume h
  · exact ok_execReplayRetry h
  · exact ok_execReplayInvalidateRange h
  · exact ok_execReplayInvalidateContext h
  · exact ok_execReplayMigrate h
  · exact ok_execMigrationTest h
  · exact ok_execPtgenIncrement h
  · exact ok_execDrainExpire h
  · exact ok_execPreemptLimitExpire h
  · exact ok_execSkovRead h
  · exact ok_execSkovWrite h
  · exact ok_execSkovAtomic h
  · exact ok_execSkovResponse h
  · exact ok_execSkovBulkWrite h
  · exact ok_execAtomicReturn h
  · exact ok_execTemperatureThreshold h
  · exact ok_execScrubEscalate h
  · exact ok_execDoorbell h
  · exact ok_execReplayDoorbell h
  · exact ok_execPtwdataWrite h
  · exact ok_execPreempt h
  · exact ok_execDrop h
  · exact ok_execPageWalk h
  · exact ok_execCtxwcbWrite h
  · exact ok_execCctaskWrite h
  · exact ok_execFlr h
  · exact ok_execRegisterWrite h
  · exact ok_execHostLinkDown h
  · exact ok_execAtsInvalidate h
  · exact ok_execPriResponse h
  · exact ok_execFlitReceive h
  · exact ok_execPortDown h
  · exact ok_execBringupStepEnd h
  · exact ok_execFieldCurrentAverage h
  · exact ok_execClockThrottleStep h
  · exact ok_execCapUpdate h
  · exact ok_execTelemetryCapture h
  · exact ok_execHostAgentAccess h
  · exact ok_execHostLinkUp h
  · exact ok_execPortUp h
  · exact ok_execSoftError h
  · exact ok_execYield h
  · exact ok_execPriopass h
  · exact ok_execNop h
  · exact ok_execTrapret h
  · exact ok_execOpfence h
  · exact ok_execMswap h
  · exact ok_execHchunk h
  · exact ok_execHcommit h
  · exact ok_execHexit h
  · exact ok_execCwinArgs h
  · exact ok_execBringup h
  · exact ok_execBringupStepTimeout h
  · exact ok_execBootclr h
  · exact ok_execPowerLoss h

/-! ### Issue -/

theorem memOk_wordAt {wk core ctx va lane : Nat} (h : s.memOk = true) :
    (s.wordAt wk core ctx va lane).2.memOk = true := by
  unfold State.wordAt
  dsimp only
  split
  next heq =>
    have h1 := of_snd (memOk_translate h) heq
    exact h1
  next heq =>
    have h1 := of_snd (memOk_translate h) heq
    exact h1
  next heq =>
    have h1 := of_snd (memOk_translate h) heq
    split
    · exact h1
    · exact memOk_if_snd h1 (memOk_skSend h1)
  next heq =>
    have h1 := of_snd (memOk_translate h) heq
    split
    all_goals
      next heq =>
        have h2 := of_snd (memOk_homeRead h1) heq
        exact h2

theorem memOk_fetchFrom {wk core ctx base lane n q : Nat} {ws : List Word} (h : s.memOk = true) :
    (s.fetchFrom wk core ctx base lane n q ws).2.2.memOk = true := by
  induction n generalizing s q ws with
  | zero => exact h
  | succ n ih =>
    unfold State.fetchFrom
    split
    next heq => exact ih (of_snd (memOk_wordAt h) heq)
    next heq => exact of_snd (memOk_wordAt h) heq

theorem memOk_readConsts {i : Issue} {ns : List Nat} (h : s.memOk = true) : (s.readConsts i ns).memOk = true := by
  unfold State.readConsts
  dsimp only
  split
  · exact h
  · refine memOk_if h (memOk_access h fun _ _ _ _ h => memOk_fold (fun _ _ h => ?_) h)
    split
    · split
      · exact memOk_if h h
      · exact memOk_if h (memOk_skSend h)
    · exact memOk_if (memOk_swRead h) (memOk_swRead h)
    · exact memOk_if (memOk_readPart h) (memOk_readPart h)

theorem memOk_runMembers {ex : Instr → State → State} {pfx : Option Pfx} {ms : List Member} (hex : ∀ i, Keeps (ex i))
    (h : s.memOk = true) :
    (s.runMembers ex pfx ms).2.memOk = true := by
  induction ms generalizing s pfx with
  | nil => exact h
  | cons m ms ih =>
    unfold State.runMembers
    extract_lets s0 s1
    have h0 : s0.memOk = true := h
    have h1 : s1.memOk = true := hex _ _ h0
    clear_value s0 s1
    split
    · exact ih h0
    · exact ih (s := s1.noteSrcs _ _ _) h1

theorem memOk_retire {before : State} {i : Issue} {ms : List Member} (h : s.memOk = true) :
    (s.retire before i ms).memOk = true :=
  memOk_fold (fun _ _ h => h) h

theorem memOk_splitBundle {wk : Nat} {lanes : List Nat} (h : s.memOk = true) :
    (s.splitBundle wk lanes).memOk = true := by
  unfold State.splitBundle
  split
  · exact h
  · exact memOk_fold (fun _ _ h => h) h

theorem memOk_splitHelpers {wk : Nat} {hs : List Nat} (h : s.memOk = true) : (s.splitHelpers wk hs).memOk = true := by
  unfold State.splitHelpers
  split
  · exact h
  · exact memOk_fold (fun _ _ h => h) h

theorem memOk_passOver {wk : Nat} {kind : IssKind} {lanes : List Nat} {count : Bool} (h : s.memOk = true) :
    (s.passOver wk kind lanes count).memOk = true := by
  unfold State.passOver
  split <;> exact h

theorem memOk_pendWants {l : List Instr} (h : s.memOk = true) : (s.pendWants l).memOk = true :=
  memOk_fold (fun _ _ h => memOk_if h h) h

theorem memOk_dropFailed {i : Issue} (h : s.memOk = true) : (s.dropFailed i).memOk = true := by
  unfold State.dropFailed
  split <;> exact h

theorem memOk_groupError {i : Issue} {r : TrapRec} (h : s.memOk = true) : (s.groupError i r).2.memOk = true := by
  unfold State.groupError
  split
  · exact memOk_if_snd (memOk_readError h) h
  · exact h

theorem memOk_takeGroupTrap {i : Issue} {r : TrapRec} (h : s.memOk = true) : (s.takeGroupTrap i r).memOk = true := by
  unfold State.takeGroupTrap
  split
  · exact memOk_takeTrap _ _ _ (memOk_if (memOk_groupError (memOk_dropFailed h))
      (memOk_groupError (memOk_dropFailed h)))
  · exact memOk_helperTrap (memOk_groupError (memOk_dropFailed h))

theorem memOk_enterHelper {w : Warp} {x : SlotWait} {p : BatchPage} (h : s.memOk = true) :
    (s.enterHelper w x p).memOk = true := by
  unfold State.enterHelper
  dsimp only
  split
  · exact h
  · exact memOk_enterBatch h

theorem memOk_helperFault {wk : Nat} {f : PageFault} (h : s.memOk = true) : (s.helperFault wk f).memOk = true := by
  unfold State.helperFault
  split
  · split
    · exact memOk_enterHelper (memOk_abortChunk h)
    · exact h
  · exact h

theorem memOk_takeFaults {i : Issue} {fs : List PageFault} {run : Bool} (h : s.memOk = true) :
    (s.takeFaults i fs run).memOk = true := by
  unfold State.takeFaults
  split
  · exact memOk_warpFault h
  · exact memOk_fold (fun _ _ h => memOk_helperFault h) h

theorem memOk_dropDescs {wk : Nat} {ls : List Nat} (h : s.memOk = true) : (s.dropDescs wk ls).memOk = true := h

theorem memOk_afterGroup {before : State} {i : Issue} {ms : List Member} {count : Bool} (h : s.memOk = true) :
    (s.afterGroup before i ms count).memOk = true := by
  unfold State.afterGroup
  extract_lets ended s1 s2 s3 s4 here s5 s6 c s7
  have h3 : s3.memOk = true := memOk_passOver (memOk_dropFailed (memOk_dropDescs (s := s1) h))
  clear_value s3
  have h5 : s5.memOk = true := memOk_splitBundle (memOk_arrive (memOk_retire h3))
  clear_value s5
  have h6 : s6.memOk = true := by
    unfold s6
    split
    · exact memOk_if h5 h5
    · exact h5
  clear_value s6
  have h7 : s7.memOk = true := by
    unfold s7
    split
    · exact memOk_if h6 h6
    · exact h6
  clear_value s7
  split
  · exact memOk_splitHelpers h3
  · exact memOk_if (memOk_preemptPoll h7) h7

theorem memOk_setPcs {i : Issue} {pc : Nat} (h : s.memOk = true) : (s.setPcs i pc).memOk = true := by
  unfold State.setPcs
  split
  · exact h
  · exact memOk_fold (fun _ _ h => h) h

theorem memOk_settleGroup {pre post : State} {i : Issue} {traps : List TrapRec} {ms : List Member} {count : Bool}
    (h : pre.memOk = true) (h2 : post.memOk = true) :
    (State.settleGroup pre post i traps ms count).2.memOk = true := by
  unfold State.settleGroup
  split
  · exact memOk_takeGroupTrap h
  · split
    · exact h2
    · refine memOk_if_snd (memOk_takeFaults h) (memOk_if_snd ?_ (memOk_afterGroup h2))
      split <;> exact memOk_pendWants h

theorem memOk_runGroup {ex : Instr → State → State} {pre : State} {i : Issue} {pfx : Option Pfx} {ms : List Member}
    {next : Nat} {count : Bool} {enc : List TrapRec} (hex : ∀ a, Keeps (ex a)) (h : pre.memOk = true) :
    (State.runGroup ex pre i pfx ms next count enc).2.memOk = true := by
  unfold State.runGroup
  split
  · exact h
  · exact memOk_settleGroup h (memOk_runMembers hex (memOk_setPcs h))

theorem memOk_encodingTrap {i : Issue} {pfx : Option Pfx} {e : EncErr} {count : Bool} (h : s.memOk = true) :
    (s.encodingTrap i pfx e count).2.memOk = true :=
  memOk_if_snd (memOk_afterGroup (memOk_setPcs h)) (memOk_takeGroupTrap h)

theorem memOk_runHeader {ex : Instr → State → State} {pre : State} {i : Issue} {h : Instr} {count : Bool}
    (hex : ∀ a, Keeps (ex a)) (hs : pre.memOk = true) :
    (State.runHeader ex pre i h count).2.memOk = true :=
  memOk_settleGroup hs (hex _ _ (memOk_setPcs hs))

theorem memOk_parkDue {i : Issue} (h : s.memOk = true) {t : State} (e : s.parkDue i = some t) : t.memOk = true := by
  unfold State.parkDue at e
  extract_lets due at e
  split at e
  · cases e
    exact h
  · cases e

theorem memOk_lookEntries {i : Issue} {w : Warp} {t : Team} {idxs : List Nat} (h : s.memOk = true) :
    (s.lookEntries i w t idxs).2.memOk = true := by
  refine memOk_fold_snd (fun _ _ h => ?_) h
  split
  all_goals
    next heq =>
      have h1 := of_snd (memOk_wordAt h) heq
      exact h1

theorem memOk_lostWord {i : Issue} {va : Nat} (h : s.memOk = true) : (s.lostWord i va).2.memOk = true := h

theorem memOk_issueGroup {ex : Instr → State → State} {s1 : State} {i : Issue} {w : Warp} {t : Team}
    {pfx : Option Pfx} {ms : List Member} {after : Nat} {count : Bool} {enc : List TrapRec} (hex : ∀ a, Keeps (ex a))
    (h : s.memOk = true) (h2 : s1.memOk = true) :
    (s.issueGroup ex s1 i w t pfx ms after count enc).2.memOk = true := by
  unfold State.issueGroup
  extract_lets drop i2 s2 ns s3
  have hdrop : ∀ r : Bool × State, r.2.memOk = true → (drop r).2.memOk = true := fun _ hr => hr
  clear_value drop
  have h2 : s2.memOk = true := h2
  clear_value s2
  have h3 : s3.memOk = true := memOk_readConsts h2
  clear_value s3
  refine memOk_if_snd h ?_
  split
  · exact h
  next j _ =>
    extract_lets look
    have hlook : ∀ (u : State) (go : State → Bool × State), u.memOk = true →
        (∀ v, v.memOk = true → (go v).2.memOk = true) → (look u go).2.memOk = true := by
      intro u go hu hgo
      unfold look
      split
      next heq => exact hdrop _ (of_snd (memOk_lookEntries hu) heq)
      next va _ heq =>
        exact hdrop _ (memOk_takeGroupTrap (memOk_lostWord (i := i2) (va := va) (of_snd (memOk_lookEntries hu) heq)))
      next heq => exact hdrop _ (hgo _ (of_snd (memOk_lookEntries hu) heq))
    clear_value look
    split
    · exact memOk_if_snd (hlook _ _ h3 fun _ h => memOk_runGroup hex h) (hdrop _ (memOk_takeGroupTrap h2))
    · refine memOk_if_snd (hdrop _ (memOk_takeFaults h2)) (memOk_if_snd h (memOk_if_snd (hdrop _ h3) ?_))
      exact hlook _ _ h3 fun _ h => memOk_runGroup hex h

theorem memOk_issueWith {ex : Instr → State → State} {wk : Nat} {kind : IssKind} {lanes : List Nat} {pc : Nat}
    {count : Bool} (hex : ∀ a, Keeps (ex a)) (h : s.memOk = true) :
    (s.issueWith ex wk kind lanes pc count).2.memOk = true := by
  unfold State.issueWith
  split
  next w t _ _ =>
    extract_lets i s0 drop
    have h0 : s0.memOk = true := h
    clear_value s0
    have hdrop : ∀ r : Bool × State, r.2.memOk = true → (drop r).2.memOk = true := fun _ hr => hr
    clear_value drop
    refine memOk_if_snd h (memOk_if_snd (hdrop _ (memOk_takeGroupTrap h)) ?_)
    split
    next heq =>
      have h1 := of_trd (memOk_fetchFrom h0) heq
      split
      · exact hdrop _ (memOk_takeGroupTrap h1)
      · exact hdrop _ (memOk_takeFaults h1)
    next heq => exact hdrop _ (of_trd (memOk_fetchFrom h0) heq)
    next va _ _ heq =>
      exact hdrop _ (memOk_takeGroupTrap (memOk_lostWord (i := i) (va := va) (of_trd (memOk_fetchFrom h0) heq)))
    next heq =>
      have h1 := of_trd (memOk_fetchFrom h0) heq
      extract_lets word
      refine memOk_if_snd (hdrop _ (memOk_warpStops _ _ _ h1)) ?_
      split
      · split
        next heq => exact hdrop _ (memOk_parkDue h1 heq)
        · exact hdrop _ (memOk_runHeader hex h1)
      · exact memOk_if_snd (hdrop _ (memOk_encodingTrap h1)) (memOk_issueGroup hex h h1)
      · exact memOk_issueGroup hex h h1
  · exact h

/-! ### Ahead -/

theorem memOk_aheadDone {wk : Nat} {a : Ahead} (h : s.memOk = true) : (s.aheadDone wk a).memOk = true := h

theorem memOk_addPages {id : Nat} {fs : List PageFault} (h : s.memOk = true) : (s.addPages id fs).memOk = true := h

theorem memOk_aheadTurn {ex : Instr → State → State} {wk : Nat} {a : Ahead} (h : s.memOk = true) :
    (s.aheadTurn ex wk a).memOk = true := by
  unfold State.aheadTurn
  extract_lets t0
  clear_value t0
  split
  · extract_lets
    refine memOk_if h (memOk_if (memOk_aheadDone h) ?_)
    split
    · extract_lets word
      split
      · exact memOk_aheadDone h
      · exact h
      · exact memOk_aheadDone h
      · extract_lets i2 ms2 next t1 s1 chain t2 r s2
        have h1 : s1.memOk = true := memOk_addPages h
        clear_value s1 t1
        have h2 : s2.memOk = true := memOk_addPages h1
        clear_value s2
        refine memOk_if (memOk_aheadDone h1) ?_
        split
        · exact memOk_aheadDone h2
        next t3 _ =>
          have h3 : State.memOk { s2 with freeCount := t3.freeCount, oracle := t3.oracle } = true := h2
          exact memOk_if (memOk_aheadDone h3) h3
    · exact memOk_aheadDone h
  · exact h

/-! ### Select -/

theorem memOk_tryCands {ex : Instr → State → State} {wk : Nat} {kind : IssKind} {count : Bool} {l : List Cand}
    (hex : ∀ i, Keeps (ex i)) (h : s.memOk = true) :
    (s.tryCands ex wk kind count l).2.memOk = true := by
  induction l generalizing s with
  | nil => exact h
  | cons c r ih =>
    unfold State.tryCands
    split
    next heq => exact of_snd (memOk_issueWith hex h) heq
    next heq => exact ih (of_snd (memOk_issueWith hex h) heq)

theorem memOk_statusTrap {wk : Nat} {w : Warp} {t : Team} (h : s.memOk = true) :
    (s.statusTrap wk w t).memOk = true :=
  memOk_takeTrap _ _ _ h

theorem memOk_detTurn {wk : Nat} {c : Cand} {t : Team} {d : DetTeam} (h : s.memOk = true) :
    (s.detTurn wk c t d).memOk = true :=
  memOk_if h h

theorem memOk_tryWarp {ex : Instr → State → State} {wk : Nat} (hex : ∀ a, Keeps (ex a)) (h : s.memOk = true) :
    (s.tryWarp ex wk).2.memOk = true := by
  unfold State.tryWarp
  split
  · refine memOk_if_snd h ?_
    split
    · exact memOk_if_snd h (memOk_aheadTurn h)
    · refine memOk_if_snd (memOk_statusTrap h) ?_
      split
      · split
        all_goals
          next heq =>
            have h1 := of_snd (memOk_tryCands hex h) heq
            exact h1
      · split
        next heq =>
          have h1 := of_snd (memOk_tryCands hex h) heq
          exact memOk_detTurn h1
        next heq =>
          have h1 := of_snd (memOk_tryCands hex h) heq
          exact h1
    · exact h
  · exact h

theorem memOk_tryHelpers {ex : Instr → State → State} {wk : Nat} (hex : ∀ a, Keeps (ex a)) (h : s.memOk = true) :
    (s.tryHelpers ex wk).2.memOk = true := by
  unfold State.tryHelpers
  split
  · split
    · exact h
    · refine memOk_if_snd h ?_
      split
      all_goals
        next heq =>
          have h1 := of_snd (memOk_tryCands hex h) heq
          exact h1
  · exact h

theorem memOk_tryEntity {ex : Instr → State → State} {e : Nat} (hex : ∀ a, Keeps (ex a)) (h : s.memOk = true) :
    (s.tryEntity ex e).2.memOk = true :=
  memOk_if_snd (memOk_tryWarp hex h) (memOk_tryHelpers hex h)

theorem memOk_tryRotation {ex : Instr → State → State} {g : Nat} {l : List (Nat × Nat)} (hex : ∀ i, Keeps (ex i))
    (h : s.memOk = true) :
    (s.tryRotation ex g l).memOk = true := by
  induction l generalizing s with
  | nil => exact h
  | cons e r ih =>
    obtain ⟨cls, e⟩ := e
    unfold State.tryRotation
    split
    next heq => exact ih (of_snd (memOk_tryEntity hex h) heq)
    next heq =>
      have h1 := of_snd (memOk_tryEntity hex h) heq
      extract_lets wide sel s1 others
      have h2 : s1.memOk = true := h1
      clear_value s1
      exact memOk_fold (fun _ _ h => h) h2

theorem memOk_trySecond {ex : Instr → State → State} {l : List (Nat × Nat)} (hex : ∀ i, Keeps (ex i))
    (h : s.memOk = true) {t : State} (e : s.trySecond ex l = some t) :
    t.memOk = true := by
  induction l generalizing s with
  | nil => cases e
  | cons x r ih =>
    obtain ⟨wk, l⟩ := x
    unfold State.trySecond at e
    extract_lets here at e
    clear_value here
    split at e
    · exact ih h e
    · split at e
      next heq =>
        have h1 := of_snd (memOk_issueWith hex h) heq
        cases e
        split
        · exact memOk_detTurn h1
        · exact h1
      next heq => exact ih (of_snd (memOk_issueWith hex h) heq) e

theorem memOk_detRetry {g : Nat} (h : s.memOk = true) : (s.detRetry g).memOk = true :=
  memOk_fold (fun _ _ h => memOk_detSwitch h) h

theorem memOk_schedTurn {ex : Instr → State → State} {g : Nat} (hex : ∀ a, Keeps (ex a)) (h : s.memOk = true) :
    (s.schedTurn ex g).memOk = true := by
  unfold State.schedTurn
  split
  · exact h
  next sc _ =>
    extract_lets s1 s2 s3 s4
    have h3 : s3.memOk = true := memOk_fold (fun _ _ h => memOk_preemptPoll h) (memOk_detRetry (s := s1) h)
    clear_value s3
    have h4 : s4.memOk = true := by
      unfold s4
      split
      next heq => exact memOk_trySecond hex h3 heq
      · exact memOk_tryRotation hex h3
    exact memOk_if (memOk_fold (fun _ _ h => h) h4) h4

theorem memOk_controlTurn {ex : Instr → State → State} {wk : Nat} (hex : ∀ a, Keeps (ex a)) (h : s.memOk = true) :
    (s.controlTurn ex wk).memOk = true :=
  memOk_if (memOk_tryWarp hex h) (memOk_tryWarp hex h)

/-! ### Turn -/

theorem memOk_nextOr {r : Res} (hr : ResOk r) (h : s.memOk = true) : (r.nextOr s).memOk = true := by
  cases r with
  | next t => exact hr t rfl
  | fault => exact h
  | refused => exact h

theorem memOk_takePending {ex : Instr → State → State} {k : Nat} (hex : ∀ a, Keeps (ex a)) (h : s.memOk = true) :
    (s.takePending ex k).memOk = true := by
  unfold State.takePending
  split
  · exact h
  · exact hex _ _ h

theorem memOk_ownAccord {ex : Instr → State → State} (hex : ∀ a, Keeps (ex a)) (h : s.memOk = true) :
    (s.ownAccord ex).memOk = true := by
  have hc : ∀ {t : State} {n k : Nat} {u : State}, t.memOk = true → t.choose n = (k, u) → u.memOk = true :=
    fun h e => of_snd (memOk_choose h) e
  unfold State.ownAccord
  split
  next heq =>
    have h1 := hc h heq
    split
    · split
      · exact hex _ _ h1
      · exact h1
    · split
      next heq =>
        have h2 := hc h1 heq
        split
        next heq => exact hex _ _ (hc h2 heq)
    · split
      next heq => exact hex _ _ (hc h1 heq)
    · split
      next heq =>
        have h2 := hc h1 heq
        split
        · exact memOk_nextOr (ok_execDrop h2) h2
        · exact h2
    · split
      next heq =>
        have h2 := hc h1 heq
        split
        · exact memOk_nextOr (ok_execDrop h2) h2
        · exact h2
    · split
      next heq =>
        have h2 := hc h1 heq
        split
        next heq =>
          have h3 := hc h2 heq
          split
          next heq =>
            have h4 := hc h3 heq
            split
            · exact hex _ _ h4
            · exact h4
    · exact h1

theorem memOk_turn {ex : Instr → State → State} (hex : ∀ a, Keeps (ex a)) (h : s.memOk = true) :
    (s.turn ex).memOk = true := by
  unfold State.turn
  dsimp only
  split
  · exact memOk_schedTurn hex (memOk_choose h)
  · split
    · exact memOk_controlTurn hex (memOk_choose h)
    · exact memOk_if (memOk_takePending hex (memOk_choose h)) (memOk_ownAccord hex (memOk_choose h))

/-! ### Step -/

theorem memOk_run {i : Instr} (h : s.memOk = true) : (run i s).memOk = true := memOk_nextOr (ok_exec h) h

/-- One step, from an agenda or a turn. -/
theorem ok_step (h : s.memOk = true) : ResOk (step s) := by
  unfold step
  split
  · exact ok_exec (s := { s with agenda := _ }) h
  · exact ok_next (memOk_turn (fun _ _ h => memOk_run h) h)

/-- Settles O59: every function of the machine that leaves a state writes its memories only by the operations of `Laws.Tab`,
which keep the canonical form; one lemma per function, down to `exec` and the turn of the device. -/
theorem memoryStaysCanonical : Obligations.MemoryStaysCanonical := fun _ _ h e => ok_step h _ e

end Sys2Proof.Laws
end

section
/-! PROOF of O19: the returns of loads and atomics and the completion of stores. -/

namespace Sys2Proof.Laws

open Sys2Proof.Machine Sys2Proof.Claims

variable {s : State}

/-! ### What a completed operation leaves of its warp -/

/-- The end of a thread's operation changes no more of its warp than a flag. -/
theorem warp_endOp {id : Nat} {o : Op} {w : Warp} (ho : s.op id = some o) (hh : o.helper = none)
    (hw : s.warp o.warp = some w) : ∃ fl, (s.endOp id).warp o.warp = some { w with flags := fl } := by
  unfold State.endOp
  rw [ho]
  dsimp only
  cases o.flag with
  | none => exact ⟨w.flags, hw⟩
  | some f =>
    refine ⟨w.flags.modify f (· - 1), ?_⟩
    rw [hh]
    dsimp only [State.modFlag]
    rw [warp_modWarp, if_pos rfl]
    exact congrArg (Option.map _) hw

/-! ### Words landing in a live thread's registers -/

/-- Words of a thread's operation land one after the other in the registers of its live lane. -/
theorem landWords_eq_landed {o : Op} {w : Warp} {th : Thread} {l d : Nat} {ws : List Word} (hh : o.helper = none)
    (hw : s.warp o.warp = some w) (hk : w.kind = .normal) (ht : w.threads[l]? = some th) (hl : th.live = true) :
    s.landWords o l d ws = landed o.warp l d ws s := by
  unfold State.landWords landed
  have hcc : ((s.warp o.warp).map fun w => w.kind == .control).getD false = false := by simp [hw, hk]
  rw [hcc]
  dsimp only
  generalize (List.range ws.length).zip ws = es
  induction es generalizing s with
  | nil => rfl
  | cons e es ih =>
    have hone : s.landV o l (d + e.1) e.2 = s.setV o.warp l (d + e.1) e.2 := by
      simp [State.landV, hh, State.thread, hw, ht, hl]
    have hw' : (s.setV o.warp l (d + e.1) e.2).warp o.warp = some w := by rw [setV_warp]; exact hw
    simp only [List.foldl_cons, Bool.false_eq_true, if_false] at ih ⊢
    rw [hone]
    exact ih hw' (by simp [hw', hk])

theorem warp_landed (wk l d k : Nat) (ws : List Word) : (landed wk l d ws s).warp k = s.warp k := by
  unfold landed
  generalize (List.range ws.length).zip ws = es
  induction es generalizing s with
  | nil => rfl
  | cons e es ih => rw [List.foldl_cons, ih, setV_warp]

/-- The words of each part of a thread's operation, none of which met an error, land in their lane. -/
theorem foldl_landWords_eq_landed {o : Op} {w : Warp} (words : LanePart → List Word) (ps : List LanePart)
    (hh : o.helper = none) (hw : s.warp o.warp = some w) (hk : w.kind = .normal)
    (hl : ∀ p ∈ ps, ∃ th, w.threads[p.lane]? = some th ∧ th.live = true) :
    ps.foldl (fun s p => s.landWords o p.lane p.d (words p)) s =
      ps.foldl (fun s p => landed o.warp p.lane p.d (words p) s) s := by
  induction ps generalizing s with
  | nil => rfl
  | cons p ps ih =>
    obtain ⟨th, ht, hlive⟩ := hl p (List.mem_cons_self ..)
    rw [List.foldl_cons, List.foldl_cons, landWords_eq_landed hh hw hk ht hlive]
    exact ih ((warp_landed ..).trans hw) fun q hq => hl q (List.mem_cons_of_mem _ hq)

/-- The same after the operation has ended. -/
theorem landWords_endOp {op : Nat} {o : Op} {w : Warp} (words : LanePart → List Word) (ho : s.op op = some o)
    (hh : o.helper = none) (hw : s.warp o.warp = some w) (hk : w.kind = .normal)
    (hl : ∀ p ∈ o.parts, ∃ th, w.threads[p.lane]? = some th ∧ th.live = true) :
    o.parts.foldl (fun s p => s.landWords o p.lane p.d (words p)) (s.endOp op) =
      o.parts.foldl (fun s p => landed o.warp p.lane p.d (words p) s) (s.endOp op) := by
  obtain ⟨fl, hw'⟩ := warp_endOp ho hh hw
  exact foldl_landWords_eq_landed words o.parts hh hw' hk hl

theorem good_parts {ps : List LanePart} (h : ∀ p ∈ ps, p.bad = false) :
    ps.filter (·.bad) = [] ∧ (ps.filter fun p => !p.bad) = ps := by
  constructor
  · exact List.filter_eq_nil_iff.mpr fun p hp => by simp [h p hp]
  · exact List.filter_eq_self.mpr fun p hp => by simp [h p hp]

/-! ### Little-endian bytes and extension by size -/

/-- The number a concatenation spells. -/
theorem toNat_append_add {n m : Nat} (x : BitVec n) (y : BitVec m) : (x ++ y).toNat = y.toNat + 2 ^ m * x.toNat := by
  rw [BitVec.toNat_append, Nat.shiftLeft_eq, Nat.mul_comm, ← Nat.two_pow_add_eq_or_of_lt y.isLt, Nat.add_comm]

theorem leNat_pair (a b : Byte) : leNat [a, b] = (b ++ a).toNat := by
  rw [toNat_append_add]
  simp [leNat]

theorem leNat_quad (a b c d : Byte) : leNat [a, b, c, d] = (d ++ c ++ b ++ a).toNat := by
  simp only [toNat_append_add, leNat]
  omega

theorem sext_toNat {n : Nat} (x : BitVec (n + 1)) : sext (n + 1) x.toNat = x.toInt := by
  have hx := x.isLt
  unfold sext
  rw [Nat.mod_eq_of_lt hx, BitVec.toInt_eq_toNat_cond, Nat.add_sub_cancel, pow_succ' 2 n]
  simp only [Nat.cast_mul, Nat.cast_pow, Nat.cast_ofNat, pow_succ']
  simp

theorem toInt_ofInt_toInt {n : Nat} (x : BitVec (n + 1)) (h : n < 32) : (BitVec.ofInt 32 x.toInt).toInt = x.toInt :=
  BitVec.toInt_signExtend_of_le (by omega)

/-! ### Loads, stores and atomics -/

theorem exec_loadDataReturn {op : Nat} {o : Op} {w : Warp} (ho : s.op op = some o) (hkind : o.kind = .load)
    (hh : o.helper = none) (hp : o.performed = true) (hgood : ∀ p ∈ o.parts, p.bad = false)
    (hw : s.warp o.warp = some w) (hk : w.kind = .normal)
    (hl : ∀ p ∈ o.parts, ∃ th, w.threads[p.lane]? = some th ∧ th.live = true) :
    exec (.loadDataReturn op) s = .next (o.parts.foldl (fun s p =>
      landed o.warp p.lane p.d (loadWords (BitVec.ofNat 3 p.size) (p.bytes.map fun b => b.getD 0)) s) (s.endOp op)) := by
  obtain ⟨hnone, hall⟩ := good_parts hgood
  show execLoadDataReturn op s = _
  simp only [execLoadDataReturn, ho, hp, hkind, hnone, hall, Bool.not_true, Bool.false_eq_true, if_false]
  rw [landWords_endOp _ ho hh hw hk hl]

theorem loadWords_byte (b : Byte) :
    (loadWords 0 [b]).map (·.toInt) = [b.toInt] ∧ (loadWords 1 [b]).map (·.toNat) = [b.toNat] := by
  have hb := b.isLt
  constructor
  · have : leNat [b] = b.toNat := by simp [leNat]
    show [(BitVec.ofInt 32 (sext 8 (leNat [b]))).toInt] = _
    rw [this, sext_toNat, toInt_ofInt_toInt _ (by omega)]
  · show [(BitVec.ofNat 32 (leNat [b])).toNat] = _
    simp [leNat]
    omega

theorem loadWords_half (a b : Byte) :
    (loadWords 2 [a, b]).map (·.toInt) = [(b ++ a).toInt] ∧ loadWords 3 [a, b] = [(b ++ a).setWidth 32] := by
  constructor
  · show [(BitVec.ofInt 32 (sext 16 (leNat [a, b]))).toInt] = _
    rw [leNat_pair, sext_toNat (n := 15), toInt_ofInt_toInt (n := 15) _ (by omega)]
  · show [BitVec.ofNat 32 (leNat [a, b])] = _
    rw [leNat_pair, BitVec.ofNat_toNat]

theorem loadWords_word (a b c d : Byte) : loadWords 4 [a, b, c, d] = [d ++ c ++ b ++ a] := by
  show [BitVec.ofNat 32 (leNat [a, b, c, d])] = _
  rw [leNat_quad, BitVec.ofNat_toNat]
  rfl

theorem loadsReturn : LoadsReturn :=
  ⟨fun _ _ _ _ ho hkind hh hp hgood hw hk hl => exec_loadDataReturn ho hkind hh hp hgood hw hk hl,
    loadWords_byte, loadWords_half, loadWords_word⟩

theorem storesPerform : StoresPerform := by
  intro s op o ho waits
  constructor <;> intro h
  · show execStorePerformed op s = _
    unfold execStorePerformed
    rw [ho]
    exact congrArg Host.Outcome.next (if_neg (Bool.eq_false_iff.mp h))
  · show execStorePerformed op s = _
    unfold execStorePerformed
    rw [ho]
    exact congrArg Host.Outcome.next (if_pos h)

theorem atomicsReturn : AtomicsReturn := by
  intro s op o w ho hh hp hgood hw hk hl
  obtain ⟨hnone, hall⟩ := good_parts hgood
  constructor
  · intro hv
    have hv : o.vdests.isEmpty = false := by simpa using hv
    show execAtomicReturn op s = _
    simp only [execAtomicReturn, ho, hp, hnone, hall, hv, Bool.false_and, Bool.not_true, Bool.false_eq_true, if_false]
    rw [landWords_endOp _ ho hh hw hk hl]
  · intro hv hs
    show execAtomicReturn op s = _
    simp [execAtomicReturn, ho, hp, hnone, hv, hs]

/-- Settles O19, by landing each part's words in its live lane's registers, one part after the other. -/
theorem accessesComplete : Obligations.AccessesComplete := ⟨loadsReturn, storesPerform, atomicsReturn⟩

end Sys2Proof.Laws
end

section
/-! PROOF of O49: flits and messages, the requests of other devices and the responses to this one's. -/

namespace Sys2Proof.Laws

open Sys2Proof.Machine Sys2Proof.Claims

variable {s : State}

/-! ### Numbers as little-endian bytes -/

@[simp] theorem length_leBytes (n v : Nat) : (leBytes n v).length = n := by
  induction n generalizing v with
  | zero => rfl
  | succ n ih => simp [leBytes, ih]

theorem leNat_leBytes (n v : Nat) : leNat (leBytes n v) = v % 256 ^ n := by
  induction n generalizing v with
  | zero => simp [leBytes, leNat, Nat.mod_one]
  | succ n ih =>
    rw [leBytes, leNat, ih, BitVec.toNat_ofNat, pow_succ' 256 n]
    exact (Nat.mod_mul (a := 256)).symm

theorem leNat_eq_zero {bs : List Byte} (h : ∀ b ∈ bs, b = 0) : leNat bs = 0 := by
  induction bs with
  | nil => rfl
  | cons b bs ih =>
    rw [leNat, ih fun c hc => h c (List.mem_cons_of_mem _ hc), h b (List.mem_cons_self ..)]
    rfl

/-! ### Flits as bytes -/

/-- The word a flit begins with: LSEQ, ACK and TYPE (R411). -/
def flitWord (f : Flit) : Nat := f.lseq.toNat + at_ f.ack.toNat 12 + at_ f.type.toNat 24

/-- The payload of a flit as it travels: filled up with zeros. -/
def fullPayload (f : Flit) : List Byte := (f.payload ++ List.replicate 240 0).take 240

theorem body_eq (f : Flit) : f.body = leBytes 4 (flitWord f) ++ (fullPayload f ++ List.replicate 4 0) := by
  rw [← List.append_assoc]
  rfl

theorem length_fullPayload (f : Flit) : (fullPayload f).length = 240 := by
  rw [fullPayload, List.length_take, List.length_append, List.length_replicate]
  omega

theorem fullPayload_eq {f : Flit} (h : f.payload.length ≤ 240) :
    fullPayload f = f.payload ++ List.replicate (240 - f.payload.length) 0 := by
  rw [fullPayload, List.take_append, List.take_of_length_le h, List.take_replicate, Nat.min_eq_left (by omega)]

theorem length_body (f : Flit) : f.body.length = 248 := by
  simp [body_eq, length_fullPayload]

theorem length_flit (f : Flit) : f.bytes.length = 256 := by
  simp [Flit.bytes, length_body]

theorem fields_flitWord (f : Flit) :
    flitWord f < 256 ^ 4 ∧ bits (flitWord f) 31 24 = f.type.toNat ∧ bits (flitWord f) 23 12 = f.ack.toNat ∧
      bits (flitWord f) 11 0 = f.lseq.toNat := by
  have ht := f.type.isLt
  have ha := f.ack.isLt
  have hl := f.lseq.isLt
  simp only [flitWord, bits, at_]
  omega

/-- The bytes of a flit give it back, whatever the CRC is. -/
theorem flitOf_bytes (f : Flit) : flitOf f.bytes = some { f with payload := fullPayload f } := by
  obtain ⟨hlt, ht, ha, hl⟩ := fields_flitWord f
  have hbody : f.bytes.take 248 = f.body := by rw [Flit.bytes, List.take_left' (length_body f)]
  have hcrc : f.bytes.drop 248 = leBytes 8 (Config.crc64 f.body).toNat := by
    rw [Flit.bytes, List.drop_left' (length_body f)]
  have hword : leNat (f.bytes.take 4) = flitWord f := by
    rw [Flit.bytes, body_eq, List.append_assoc, List.take_left' (length_leBytes ..), leNat_leBytes, Nat.mod_eq_of_lt hlt]
  have hpay : (f.bytes.drop 4).take 240 = fullPayload f := by
    rw [Flit.bytes, body_eq, List.append_assoc, List.drop_left' (length_leBytes ..), List.append_assoc,
      List.take_left' (length_fullPayload f)]
  unfold flitOf
  rw [if_pos ⟨length_flit f, by rw [hbody, hcrc]⟩]
  simp only [hword, hpay, ht, ha, hl, BitVec.ofNat_toNat, BitVec.setWidth_eq]

/-! ### Messages as bytes -/

/-- The number that the header of a message spells (R412). -/
def headerWord (m : Msg) : Nat :=
  m.op.toNat + at_ m.status.toNat 8 + at_ (m.size % 2 ^ 18) 16 + (if m.w64 then 2 ^ 34 else 0) +
    at_ m.atop.toNat 35 + at_ m.order.toNat 39 + at_ m.scope.toNat 41 + at_ (m.src % 256) 45 + at_ (m.dst % 256) 53 +
    at_ (m.sseq % 2 ^ 16) 61 + at_ (m.tag % 2 ^ 12) 77 + at_ (m.paddr % 2 ^ 39) 89

theorem header_eq (m : Msg) : m.header = leBytes 16 (headerWord m) := rfl

/-- The fields of a message fit the header's. -/
structure Fits (m : Msg) : Prop where
  paddr : m.paddr < 2 ^ 39
  tag : m.tag < 2 ^ 12
  sseq : m.sseq < 2 ^ 16
  dst : m.dst < 256
  src : m.src < 256
  size : m.size < 2 ^ 18

/-- What the header's number says of a message. -/
structure HeaderFields (m : Msg) (v : Nat) : Prop where
  fits : v < 256 ^ 16
  paddr : bits v 127 89 = m.paddr
  tag : bits v 88 77 = m.tag
  sseq : bits v 76 61 = m.sseq
  dst : bits v 60 53 = m.dst
  src : bits v 52 45 = m.src
  scope : bits v 44 41 = m.scope.toNat
  order : bits v 40 39 = m.order.toNat
  atop : bits v 38 35 = m.atop.toNat
  w64 : v.testBit 34 = m.w64
  size : bits v 33 16 = m.size
  status : bits v 15 8 = m.status.toNat
  op : bits v 7 0 = m.op.toNat

theorem headerFields {m : Msg} (h : Fits m) : HeaderFields m (headerWord m) := by
  obtain ⟨hpaddr, htag, hsseq, hdst, hsrc, hsize⟩ := h
  have hscope := m.scope.isLt
  have horder := m.order.isLt
  have hatop := m.atop.isLt
  have hstatus := m.status.isLt
  have hop := m.op.isLt
  obtain ⟨w, hw, hlt⟩ : ∃ w, (if m.w64 then 2 ^ 34 else 0) = 2 ^ 34 * w ∧ w = m.w64.toNat :=
    ⟨m.w64.toNat, by cases m.w64 <;> rfl, rfl⟩
  have hw1 : w ≤ 1 := hlt ▸ Bool.toNat_le _
  constructor
  case w64 =>
    have : headerWord m / 2 ^ 34 % 2 = w := by
      simp only [headerWord, hw, at_]
      omega
    rw [Nat.testBit_eq_decide_div_mod_eq, this, hlt]
    cases m.w64 <;> rfl
  all_goals
    simp only [headerWord, hw, at_, bits]
    omega

theorem leNat_header {m : Msg} (h : Fits m) : leNat m.header = headerWord m := by
  rw [header_eq, leNat_leBytes, Nat.mod_eq_of_lt (headerFields h).fits]

theorem msgOf_header {m : Msg} (h : Fits m) : msgOf m.header m.data = m := by
  obtain ⟨-, hpaddr, htag, hsseq, hdst, hsrc, hscope, horder, hatop, hw, hsize, hstatus, hop⟩ := headerFields h
  simp only [msgOf, leNat_header h, hpaddr, htag, hsseq, hdst, hsrc, hscope, horder, hatop, hw, hsize, hstatus, hop,
    BitVec.ofNat_toNat, BitVec.setWidth_eq]

/-- A whole message that stands first in the received bytes. -/
theorem parseMsgs_header (n : Nat) {m : Msg} (h : Fits m) (hpos : 0 < m.size) (hmax : m.size ≤ 256)
    (hlen : m.data.length = if m.op = 0 then 0 else m.size) (rest : List Byte) :
    parseMsgs (n + 1) (m.bytes ++ rest) = (m :: (parseMsgs n rest).1, (parseMsgs n rest).2) := by
  have hf := headerFields h
  have hnat := leNat_header h
  have hl : m.header.length = 16 := length_leBytes ..
  have hh : (m.bytes ++ rest).take 16 = m.header := by
    rw [Msg.bytes, List.append_assoc, List.append_assoc, List.take_left' hl]
  have hd : (m.bytes ++ rest).drop 16 = m.data ++ (List.replicate ((16 - m.data.length % 16) % 16) 0 ++ rest) := by
    rw [Msg.bytes, List.append_assoc, List.append_assoc, List.drop_left' hl]
  have hz : m.header.all (· == 0) = false := by
    by_contra hc
    have h0 : leNat m.header = 0 := leNat_eq_zero (by simpa using hc)
    have := hf.size
    rw [← hnat, h0] at this
    simp [bits] at this
    omega
  have hop : (bits (headerWord m) 7 0 = 0) = (m.op = 0) := by
    rw [hf.op]
    exact propext ⟨fun h => BitVec.eq_of_toNat_eq h, fun h => by rw [h]; rfl⟩
  have hdata : (m.data ++ (List.replicate ((16 - m.data.length % 16) % 16) 0 ++ rest)).take m.data.length = m.data :=
    List.take_left
  have hrest : (m.bytes ++ rest).drop (16 + (m.data.length + 15) / 16 * 16) = rest := by
    have : (m.bytes).length = 16 + (m.data.length + 15) / 16 * 16 := by
      simp [Msg.bytes, hl]
      omega
    exact List.drop_left' this
  rw [parseMsgs]
  simp only [hh, hl, hz, hd, hnat, hf.size, hop, ← hlen, hdata, hrest, msgOf_header h]
  rw [if_neg (by omega), if_neg (by simp), if_neg (by omega), if_neg]
  simp
  omega

theorem flitBytes : FlitBytes := by
  refine ⟨fun f h => ⟨length_flit f, by rw [flitOf_bytes, fullPayload_eq h]⟩, fun bs _ hc => ?_, ?_⟩
  · unfold flitOf
    rw [if_neg fun h => hc h.2]
  · intro m hpaddr htag hsseq hdst hsrc hsize
    have h : Fits m := ⟨hpaddr, htag, hsseq, hdst, hsrc, hsize⟩
    refine ⟨msgOf_header h, fun hpos hmax hlen => ?_⟩
    have := parseMsgs_header 63 h hpos hmax hlen []
    rw [List.append_nil] at this
    rw [this]
    rfl

/-! ### The replay buffer of a port -/

/-- What a port still has to have acknowledged, in order: the flits of its replay buffer, then those that wait. -/
def pendingData (p : Port) : List (List Byte × List Msg) := (p.replay.map fun e => (e.1.payload, e.2)) ++ p.wait

theorem sendData_leaves {p : Port} (payload : List Byte) (ms : List Msg) (hw : p.wait = []) (hr : p.replay.length < 512) :
    p.sendData payload ms =
      let f : Flit := { type := 1, ack := p.rxSeq, lseq := p.txSeq, payload := payload }
      { p with txSeq := p.txSeq + 1, replay := p.replay ++ [(f, ms)], out := p.out ++ [f.bytes] } :=
  if_pos ⟨by rw [hw]; rfl, hr⟩

theorem sendData_waits {p : Port} (payload : List Byte) (ms : List Msg) (h : 512 ≤ p.replay.length ∨ p.wait ≠ []) :
    p.sendData payload ms = { p with wait := p.wait ++ [(payload, ms)] } := by
  refine if_neg fun ⟨hw, hr⟩ => ?_
  rcases h with h | h
  · omega
  · exact h (List.isEmpty_iff.mp hw)

/-- A data flit either leaves at once or waits. -/
theorem sendData_cases (p : Port) :
    (p.wait = [] ∧ p.replay.length < 512) ∨ (512 ≤ p.replay.length ∨ p.wait ≠ []) := by
  by_cases hw : p.wait = []
  · rcases Nat.lt_or_ge p.replay.length 512 with hr | hr
    · exact .inl ⟨hw, hr⟩
    · exact .inr (.inl hr)
  · exact .inr (.inr hw)

theorem replay_sendData_le {p : Port} (payload : List Byte) (ms : List Msg) (h : p.replay.length ≤ 512) :
    (p.sendData payload ms).replay.length ≤ 512 := by
  rcases sendData_cases p with ⟨hw, hr⟩ | hc
  · rw [sendData_leaves payload ms hw hr]
    simpa using hr
  · rw [sendData_waits payload ms hc]
    exact h

theorem pendingData_sendData (p : Port) (payload : List Byte) (ms : List Msg) :
    pendingData (p.sendData payload ms) = pendingData p ++ [(payload, ms)] := by
  rcases sendData_cases p with ⟨hw, hr⟩ | hc
  · rw [sendData_leaves payload ms hw hr]
    simp [pendingData, hw]
  · rw [sendData_waits payload ms hc]
    simp [pendingData]

@[simp] theorem up_sendData (p : Port) (payload : List Byte) (ms : List Msg) : (p.sendData payload ms).up = p.up := by
  unfold Port.sendData
  split <;> rfl

theorem refill_eq_foldl (p : Port) :
    p.refill = p.wait.foldl (fun p e => p.sendData e.1 e.2) { p with wait := [] } := rfl

theorem replay_refill_le {p : Port} (h : p.replay.length ≤ 512) : p.refill.replay.length ≤ 512 := by
  rw [refill_eq_foldl]
  generalize p.wait = es
  generalize hq : ({ p with wait := [] } : Port) = q
  have hr : q.replay.length ≤ 512 := by rw [← hq]; exact h
  clear hq h
  induction es generalizing q with
  | nil => exact hr
  | cons e es ih => exact ih _ (replay_sendData_le _ _ hr)

theorem pendingData_foldl_sendData (es : List (List Byte × List Msg)) (p : Port) :
    pendingData (es.foldl (fun p e => p.sendData e.1 e.2) p) = pendingData p ++ es := by
  induction es generalizing p with
  | nil => exact (List.append_nil _).symm
  | cons e es ih => rw [List.foldl_cons, ih, pendingData_sendData, List.append_assoc, List.singleton_append]

theorem pendingData_refill (p : Port) : pendingData p.refill = pendingData p := by
  rw [refill_eq_foldl, pendingData_foldl_sendData]
  simp [pendingData]

/-! ### Ports of the machine -/

theorem getElem?_ports_modPort (n : Nat) (f : Port → Port) :
    (s.modPort n f).sk.ports[n]? = (s.sk.ports[n]?).map f := by
  simp [State.modPort]

theorem ports_modPort_other {n k : Nat} (f : Port → Port) (h : k ≠ n) :
    (s.modPort k f).sk.ports[n]? = s.sk.ports[n]? := by
  simp [State.modPort, h]

/-- What becomes of a port depends on the port that stands there alone. -/
theorem modPort_congr {n : Nat} {p : Port} {f g : Port → Port} (hp : s.sk.ports[n]? = some p) (h : f p = g p) :
    s.modPort n f = s.modPort n g := by
  have : s.sk.ports.modify n f = s.sk.ports.modify n g := by
    refine List.ext_getElem? fun k => ?_
    rw [List.getElem?_modify, List.getElem?_modify]
    by_cases hk : n = k
    · subst hk
      simp [hp, h]
    · simp [hk]
  simp only [State.modPort, this]

theorem modPort_modPort (n : Nat) (f g : Port → Port) : (s.modPort n f).modPort n g = s.modPort n (g ∘ f) := by
  simp only [State.modPort, List.modify_modify_eq]

theorem skTransmit_eq_modPort (n : Nat) (m : Msg) : s.skTransmit n m = s.modPort n fun p => p.send m := rfl

theorem skPort_up {dst pa n : Nat} (h : s.skPort dst pa = some n) : ((s.sk.ports[n]?).map (·.up)).getD false = true := by
  have hmem := (List.mem_filter.mp (List.mem_of_getElem? h)).2
  exact (Bool.and_eq_true_iff.mp hmem).2

/-- A message leaves by a port that is up. -/
theorem skPort_ne_of_down {n dst pa k : Nat} {p : Port} (hp : s.sk.ports[n]? = some p) (hd : p.up = false)
    (h : s.skPort dst pa = some k) : k ≠ n := by
  rintro rfl
  have := skPort_up h
  simp [hp, hd] at this

/-- Sending messages again leaves a port that is down as it is. -/
theorem ports_resend {n : Nat} {p : Port} (ms : List Msg) (hp : s.sk.ports[n]? = some p) (hd : p.up = false) :
    (ms.foldl (fun s m => match s.skPort m.dst m.paddr with
      | some q => s.skTransmit q m
      | none => s) s).sk.ports[n]? = some p := by
  induction ms generalizing s with
  | nil => exact hp
  | cons m ms ih =>
    rw [List.foldl_cons]
    refine ih ?_
    split
    next k hk => rw [skTransmit_eq_modPort, ports_modPort_other _ (skPort_ne_of_down hp hd hk), hp]
    next => exact hp

theorem ports_failUnreachable : s.failUnreachable.sk.ports = s.sk.ports :=
  List.foldlRecOn _ _ (motive := fun t : State => t.sk.ports = s.sk.ports) rfl fun _ h _ _ => h

/-- A port that goes down holds nothing any more. -/
theorem ports_portDown {n : Nat} {p : Port} (hp : s.sk.ports[n]? = some p) (hu : p.up = true) :
    (s.portDown n).sk.ports[n]? = some { p with up := false, replay := [], wait := [], fails := 0, rx := [] } := by
  unfold State.portDown
  rw [hp]
  simp only [hu, Bool.not_true, Bool.false_eq_true, if_false]
  rw [ports_failUnreachable]
  exact ports_resend _ (by rw [getElem?_ports_modPort, hp]; rfl) rfl

/-! ### Received flits -/

theorem exec_flitReceive_down {n : Nat} {p : Port} (bs : List Byte) (hp : s.sk.ports[n]? = some p) (hu : p.up = false) :
    exec (.flitReceive n bs) s = .next s := by
  show execFlitReceive n bs s = _
  simp [execFlitReceive, hp, hu]

theorem exec_flitReceive_badCrc {n : Nat} {p : Port} {bs : List Byte} (hp : s.sk.ports[n]? = some p) (hu : p.up = true)
    (hf : flitOf bs = none) :
    exec (.flitReceive n bs) s = .next (s.modPort n fun p => { p with out := p.out ++ [(p.control 2).bytes] }) := by
  show execFlitReceive n bs s = _
  simp [execFlitReceive, hp, hu, hf]

/-- A port with the flits taken off that an acknowledgement covers. -/
def ackedPort (p : Port) (f : Flit) : Port :=
  { p with replay := afterAck p.replay f.ack
           fails := if (afterAck p.replay f.ack).length < p.replay.length then 0 else p.fails }

theorem exec_flitReceive_data {n : Nat} {p : Port} {bs : List Byte} {f : Flit} (hp : s.sk.ports[n]? = some p)
    (hu : p.up = true) (hf : flitOf bs = some f) (ht : f.type = 1) (hl : f.lseq = p.rxSeq + 1) :
    exec (.flitReceive n bs) s = .next ((s.modPort n fun _ => ackedPort p f).takeData n p f) := by
  show execFlitReceive n bs s = _
  have hm : (s.modPort n fun q => { q with
      replay := afterAck p.replay f.ack
      fails := if (afterAck p.replay f.ack).length < p.replay.length then 0 else p.fails }) =
      s.modPort n fun _ => ackedPort p f := modPort_congr hp rfl
  simp [execFlitReceive, hp, hu, hf, ht, hl, hm]

theorem exec_flitReceive_nak {n : Nat} {p : Port} {bs : List Byte} {f : Flit} (hp : s.sk.ports[n]? = some p)
    (hu : p.up = true) (hf : flitOf bs = some f) (ht : f.type = 2) (hall : ∀ g ∈ p.replay, 2048 ≤ (f.ack - g.1.lseq).toNat) :
    exec (.flitReceive n bs) s = .next (if 8 ≤ p.fails then s.portDown n else s.modPort n fun p =>
      ({ p with fails := p.fails + 1, out := p.out ++ p.replay.map fun e => e.1.bytes } : Port).refill) := by
  show execFlitReceive n bs s = _
  have hrest : afterAck p.replay f.ack = p.replay := List.filter_eq_self.mpr fun g hg => decide_eq_true (hall g hg)
  have hm : (s.modPort n fun q => { q with replay := p.replay, fails := p.fails }) = s := by
    refine (modPort_congr (f := fun q => { q with replay := p.replay, fails := p.fails }) (g := id) hp rfl).trans ?_
    simp [State.modPort]
  simp only [execFlitReceive, hp, hu, hf, ht, hrest, Bool.not_true, Bool.false_eq_true, if_false, Nat.lt_irrefl, hm]
  refine congrArg Host.Outcome.next ?_
  show (if 8 ≤ p.fails then _ else _) = _
  exact if_congr Iff.rfl rfl (modPort_congr hp rfl)

/-- A port that has taken a data flit in sequence and answered it by an idle flit. -/
def tookData (p : Port) (f : Flit) (rx : List Byte) : Port :=
  { p with rxSeq := f.lseq, rx := rx
           out := p.out ++ [({ type := 0, ack := f.lseq, lseq := p.txSeq, payload := [] } : Flit).bytes] }

/-- The messages that end in a data flit arrive, after the port has taken it. -/
theorem takeData_eq {n : Nat} {p : Port} {f : Flit} (q : Port) :
    (s.modPort n fun _ => q).takeData n p f =
      (parseMsgs 64 (p.rx ++ f.payload)).1.foldl State.arriveMsg (s.modPort n fun _ =>
        (tookData q f (parseMsgs 64 (p.rx ++ f.payload)).2).refill) := by
  simp only [State.takeData, modPort_modPort]
  rfl

theorem exec_portUp {n : Nat} {p : Port} (hp : s.sk.ports[n]? = some p) (hd : p.up = false) :
    exec (.portUp n) s = .next (s.modPort n fun p =>
      { p with up := true, txSeq := 0, replay := [], wait := [], fails := 0, rxSeq := 0xFFF, rx := [] }) := by
  refine congrArg Host.Outcome.next (modPort_congr hp ?_)
  rw [hd]
  rfl

/-- A request that is neither reserved nor held nor performed before is held. -/
theorem arriveMsg_request {m : Msg} (h3 : m.op ≠ 3) (h4 : m.op.toNat ≤ 4)
    (ha : (m.sseq + 65536 - (tget s.sk.seqIn m.src).getD 0) % 65536 < 32768)
    (hh : ∀ h ∈ s.sk.held, h.src ≠ m.src ∨ h.sseq ≠ m.sseq) :
    s.arriveMsg m = { s with sk := { s.sk with held := s.sk.held ++ [m] } }.pend (msgEvent m) := by
  have hnone : (s.sk.held.any fun h => h.src == m.src && h.sseq == m.sseq) = false := by
    refine List.any_eq_false.mpr fun h hm => ?_
    rcases hh h hm with hne | hne <;> simp [hne]
  unfold State.arriveMsg
  rw [if_neg h3, if_neg (by omega)]
  dsimp only
  rw [hnone, if_neg (by simpa using ha)]

theorem flits : Flits := by
  refine ⟨fun p payload ms => ⟨fun hw hr => sendData_leaves payload ms hw hr, fun h => sendData_waits payload ms h,
    fun h => ⟨replay_sendData_le payload ms h, replay_refill_le h⟩, pendingData_refill p⟩, ?_, ?_, ?_⟩
  · intro s n p bs hp hu
    refine ⟨fun hf => exec_flitReceive_badCrc hp hu hf, ?_, ?_, ?_, ?_⟩
    · intro f hf ht hl
      refine ⟨_, by rw [exec_flitReceive_data hp hu hf ht hl, takeData_eq],
        tookData (ackedPort p f) f (parseMsgs 64 (p.rx ++ f.payload)).2, ?_, rfl, rfl, rfl, rfl, rfl, rfl⟩
      rw [getElem?_ports_modPort, hp]
      rfl
    · intro f hf ht hfails hall
      rw [exec_flitReceive_nak hp hu hf ht hall, if_neg (by omega)]
      exact congrArg Host.Outcome.next (modPort_congr hp rfl)
    · intro f hf ht hfails hall
      refine ⟨s.portDown n, by rw [exec_flitReceive_nak hp hu hf ht hall, if_pos (by omega)], ?_⟩
      rw [ports_portDown hp hu]
      rfl
    · exact ⟨s.portDown n, rfl, by rw [ports_portDown hp hu]; rfl⟩
  · intro s n p bs hp hd
    refine ⟨exec_flitReceive_down bs hp hd, _, exec_portUp hp hd, ?_⟩
    rw [getElem?_ports_modPort, hp]
    rfl
  · intro s m h3 h4 ha hh
    rw [arriveMsg_request h3 h4 ha hh]
    exact ⟨rfl, List.mem_append_right _ (List.mem_singleton_self _)⟩

/-! ### Bytes at their home points -/

theorem homeBytes_eq_range' (s : State) (a n : Nat) : s.homeBytes a n = (List.range' a n).map s.homeByte := by
  rw [State.homeBytes, List.range'_eq_map_range, List.map_map]
  rfl

theorem range'_append_of_le {a b c : Nat} (hab : a ≤ b) (hbc : b ≤ c) :
    List.range' a (b - a) ++ List.range' b (c - b) = List.range' a (c - a) := by
  have h := List.range'_append_1 (s := a) (m := b - a) (n := c - b)
  rw [show a + (b - a) = b by omega, show b - a + (c - b) = c - a by omega] at h
  exact h

/-- The parts of a range of addresses in the rows it touches, one after the other, are the range. -/
theorem flatMap_rows (a e k : Nat) :
    ((List.range k).flatMap fun i => List.range' (max a ((a / 1024 + i) * 1024))
      (min e ((a / 1024 + i) * 1024 + 1024) - max a ((a / 1024 + i) * 1024))) =
      List.range' a (min e ((a / 1024 + k) * 1024) - a) := by
  induction k with
  | zero =>
    have : min e ((a / 1024 + 0) * 1024) - a = 0 := by omega
    rw [this]
    rfl
  | succ k ih =>
    rw [List.range_succ, List.flatMap_append, ih, List.flatMap_singleton]
    rcases Nat.lt_or_ge ((a / 1024 + k) * 1024) (min e ((a / 1024 + (k + 1)) * 1024)) with h | h
    · rcases Nat.lt_or_ge a ((a / 1024 + k) * 1024) with ha | ha
      · rw [Nat.max_eq_right (Nat.le_of_lt ha), Nat.min_eq_right (by omega : (a / 1024 + k) * 1024 ≤ e),
          show (a / 1024 + k) * 1024 + 1024 = (a / 1024 + (k + 1)) * 1024 by omega]
        exact range'_append_of_le (Nat.le_of_lt ha) (Nat.le_of_lt h)
      · rw [Nat.max_eq_left ha, show min e ((a / 1024 + k) * 1024) - a = 0 by omega,
          show (a / 1024 + k) * 1024 + 1024 = (a / 1024 + (k + 1)) * 1024 by omega]
        rfl
    · rw [show min e ((a / 1024 + k) * 1024 + 1024) - max a ((a / 1024 + k) * 1024) = 0 by omega,
        show min e ((a / 1024 + k) * 1024) - a = min e ((a / 1024 + (k + 1)) * 1024) - a by omega]
      exact List.append_nil _

theorem flatMap_rowsOf (s : State) (a n : Nat) :
    ((rowsOf a n).flatMap fun r => s.homeBytes (max a (r * 1024)) (min (a + n) (r * 1024 + 1024) - max a (r * 1024))) =
      s.homeBytes a n := by
  unfold rowsOf
  split
  next h => subst h; rfl
  next h =>
    have hrows := congrArg (List.map s.homeByte) (flatMap_rows a (a + n) ((a + n - 1) / 1024 - a / 1024 + 1))
    rw [List.map_flatMap, Nat.min_eq_left (by omega), Nat.add_sub_cancel_left, ← homeBytes_eq_range'] at hrows
    rw [List.flatMap_map, ← hrows]
    simp only [homeBytes_eq_range']

theorem homeBadAt_of_sound (h : s.m.ue = []) (a n : Nat) : s.homeBadAt a n = false := by
  simp [State.homeBadAt, State.homeBad, h]

/-- A read from outside the cores of no row of SW memory, in sound memory, reads the home points. -/
theorem outsideRead_home (ctx : Option Nat) (a n : Nat) (hue : s.m.ue = []) (hsw : ∀ r ∈ rowsOf a n, s.swRow r = false) :
    s.outsideRead ctx a n = (s.homeBytes a n, false, s) := by
  have hfold : ∀ (rows : List Nat) (acc : List Byte), (∀ r ∈ rows, s.swRow r = false) →
      rows.foldl (fun (p : List Byte × Bool × State) row =>
        let lo := max a (row * 1024)
        let hi := min (a + n) (row * 1024 + 1024)
        let (bs, u, s) := p.2.2.swRowRead row lo (hi - lo) ctx
        (p.1 ++ bs, p.2.1 || u, s)) (acc, false, s) =
      (acc ++ rows.flatMap fun r => s.homeBytes (max a (r * 1024)) (min (a + n) (r * 1024 + 1024) - max a (r * 1024)),
        false, s) := by
    intro rows
    induction rows with
    | nil => intro acc _; simp
    | cons r rows ih =>
      intro acc h
      have hr : ∀ lo len, s.swRowRead r lo len ctx = (s.homeBytes lo len, false, s) := fun lo len => by
        rw [State.swRowRead, h r (List.mem_cons_self ..), homeBadAt_of_sound hue]
        rfl
      rw [List.foldl_cons, List.flatMap_cons, ← List.append_assoc]
      simp only [hr, Bool.or_false]
      exact ih _ fun q hq => h q (List.mem_cons_of_mem _ hq)
  rw [State.outsideRead, hfold _ _ hsw, flatMap_rowsOf]
  rfl

/-! ### Writes at home points -/

theorem unsettledByte_append (l : List HWr) (w : HWr) (a : Nat) :
    unsettledByte (l ++ [w]) a = match tget w.bytes a with | some b => some b | none => unsettledByte l a := by
  rw [unsettledByte, List.foldl_append]
  rfl

/-- What a home point holds after a write: the bytes it wrote. -/
theorem homeByte_homeWrite (bytes : List (Nat × Byte)) (a : Nat) :
    (s.homeWrite bytes).homeByte a = (tget bytes a).getD (s.homeByte a) := by
  cases bytes with
  | nil => rfl
  | cons e l =>
    simp only [State.homeByte, State.homeWrite, State.stampBytes, unsettledByte_append]
    cases tget (e :: l) a <;> rfl

@[simp] theorem homeWrite_sw (bytes : List (Nat × Byte)) : (s.homeWrite bytes).sw = s.sw := by
  cases bytes <;> rfl

@[simp] theorem homeWrite_sk (bytes : List (Nat × Byte)) : (s.homeWrite bytes).sk = s.sk := by
  cases bytes <;> rfl

theorem swRow_congr {t : State} (h : t.sw = s.sw) (row : Nat) : t.swRow row = s.swRow row := by
  simp only [State.swRow, State.bankRegion, h]

/-- The bytes from `lo`, each with its address. -/
def placed (lo : Nat) (bs : List Byte) : List (Nat × Byte) := ((List.range bs.length).zip bs).map fun e => (lo + e.1, e.2)

theorem placed_cons (lo : Nat) (b : Byte) (bs : List Byte) : placed lo (b :: bs) = (lo, b) :: placed (lo + 1) bs := by
  simp only [placed, List.length_cons, List.range_succ_eq_map, List.zip_cons_cons, List.map_cons, Nat.add_zero]
  rw [List.zip_map_left, List.map_map]
  refine congrArg _ (List.map_congr_left fun e _ => ?_)
  simp only [Function.comp, Prod.map, id, Nat.succ_eq_add_one]
  congr 1
  omega

theorem tget_placed (lo a : Nat) (bs : List Byte) : tget (placed lo bs) a = if lo ≤ a then bs[a - lo]? else none := by
  induction bs generalizing lo with
  | nil => simp [placed, tget]
  | cons b bs ih =>
    rw [placed_cons, tget, ih]
    rcases Nat.lt_trichotomy lo a with h | rfl | h
    · rw [if_neg (by omega), if_pos (by omega), if_pos (by omega), show a - lo = a - (lo + 1) + 1 by omega,
        List.getElem?_cons_succ]
    · simp
    · rw [if_neg (by omega), if_neg (by omega), if_neg (by omega)]

/-- The bytes of a write that lie in block `b`. -/
def blockPart (a : Nat) (data : List Byte) (b : Nat) : List Byte :=
  (data.drop (max a (b * 8) - a)).take (min (a + data.length) (b * 8 + 8) - max a (b * 8))

theorem tget_blockPart (a : Nat) (data : List Byte) (b x : Nat) :
    tget (placed (max a (b * 8)) (blockPart a data b)) x =
      if x / 8 = b ∧ a ≤ x ∧ x < a + data.length then data[x - a]? else none := by
  rw [tget_placed, blockPart, List.getElem?_take, List.getElem?_drop]
  split
  next h1 =>
    split
    next h2 =>
      rw [if_pos (by omega)]
      congr 1
      omega
    next h2 => rw [if_neg (by omega)]
  next h1 => rw [if_neg (by omega)]

/-- A write of every block of a list at its home point, as a write from outside the cores makes it. -/
def writeBlocks (s : State) (a : Nat) (data : List Byte) (blks : List Nat) : State :=
  blks.foldl (fun s b => s.homeWrite (placed (max a (b * 8)) (blockPart a data b))) s

theorem sw_sk_writeBlocks (a : Nat) (data : List Byte) (blks : List Nat) :
    (writeBlocks s a data blks).sw = s.sw ∧ (writeBlocks s a data blks).sk = s.sk :=
  List.foldlRecOn blks _ (motive := fun t : State => t.sw = s.sw ∧ t.sk = s.sk) ⟨rfl, rfl⟩ fun _ ⟨hsw, hsk⟩ _ _ =>
    ⟨(homeWrite_sw ..).trans hsw, (homeWrite_sk ..).trans hsk⟩

theorem homeByte_writeBlocks (a x : Nat) (data : List Byte) (blks : List Nat) (hx : a ≤ x ∧ x < a + data.length) :
    (writeBlocks s a data blks).homeByte x = if x / 8 ∈ blks then data.getD (x - a) 0 else s.homeByte x := by
  induction blks generalizing s with
  | nil => simp [writeBlocks]
  | cons b blks ih =>
    have hone : (s.homeWrite (placed (max a (b * 8)) (blockPart a data b))).homeByte x =
        if x / 8 = b then data.getD (x - a) 0 else s.homeByte x := by
      have hlt : x - a < data.length := by omega
      rw [homeByte_homeWrite, tget_blockPart]
      by_cases hb : x / 8 = b
      · rw [if_pos ⟨hb, hx⟩, if_pos hb, List.getD_eq_getElem?_getD, List.getElem?_eq_getElem hlt]
        rfl
      · rw [if_neg fun h => hb h.1, if_neg hb]
        rfl
    show (writeBlocks (s.homeWrite _) a data blks).homeByte x = _
    rw [ih, hone]
    by_cases hm : x / 8 ∈ blks
    · simp [hm]
    · simp [hm]

theorem mem_blocksOf {a n x : Nat} (h : a ≤ x ∧ x < a + n) : x / 8 ∈ blocksOf a n := by
  rw [blocksOf, if_neg (by omega)]
  exact List.mem_map.mpr ⟨x / 8 - a / 8, List.mem_range.mpr (by omega), by omega⟩

/-- The first byte that a write writes of a block lies in one of the write's rows. -/
theorem row_mem_rowsOf {a n b : Nat} (h : b ∈ blocksOf a n) : max a (b * 8) / 1024 ∈ rowsOf a n := by
  unfold blocksOf at h
  split at h
  next => simp at h
  next hn =>
    obtain ⟨i, hi, rfl⟩ := List.mem_map.mp h
    have hi := List.mem_range.mp hi
    rw [rowsOf, if_neg hn]
    exact List.mem_map.mpr ⟨max a ((a / 8 + i) * 8) / 1024 - a / 1024, List.mem_range.mpr (by omega), by omega⟩

/-- A write from outside the cores to no row of SW memory reaches the home points of its blocks. -/
theorem outsideWrite_home (ctx : Option Nat) (a : Nat) (data : List Byte) (host : Bool)
    (hsw : ∀ r ∈ rowsOf a data.length, s.swRow r = false) :
    s.outsideWrite ctx a data host = writeBlocks s a data (blocksOf a data.length) := by
  have hfold : ∀ (blks : List Nat) (t : State), (∀ b ∈ blks, b ∈ blocksOf a data.length) → t.sw = s.sw →
      blks.foldl (fun s b =>
        let lo := max a (b * 8)
        let hi := min (a + data.length) (b * 8 + 8)
        let bs := (data.drop (lo - a)).take (hi - lo)
        if s.swRow (lo / 1024) then s.enqueue lo bs.length ctx (s.rowVa (lo / 1024)) (.write bs) host
        else s.homeWrite (((List.range bs.length).zip bs).map fun e => (lo + e.1, e.2))) t = writeBlocks t a data blks := by
    intro blks
    induction blks with
    | nil => intro t _ _; rfl
    | cons b blks ih =>
      intro t hb ht
      have hrow : t.swRow (max a (b * 8) / 1024) = false := by
        rw [swRow_congr ht]
        exact hsw _ (row_mem_rowsOf (hb b (List.mem_cons_self ..)))
      rw [List.foldl_cons]
      simp only [hrow, Bool.false_eq_true, if_false]
      exact ih _ (fun c hc => hb c (List.mem_cons_of_mem _ hc)) ((homeWrite_sw ..).trans ht)
  exact hfold _ s (fun _ h => h) rfl

theorem homeBytes_writeBlocks (a : Nat) (data : List Byte) :
    (writeBlocks s a data (blocksOf a data.length)).homeBytes a data.length = data := by
  refine List.ext_getElem (by simp [State.homeBytes]) fun i h _ => ?_
  have hi : i < data.length := by simpa [State.homeBytes] using h
  simp only [State.homeBytes, List.getElem_map, List.getElem_range]
  have hx : a ≤ a + i ∧ a + i < a + data.length := by omega
  rw [homeByte_writeBlocks a (a + i) data _ hx, if_pos (mem_blocksOf hx), Nat.add_sub_cancel_left,
    List.getD_eq_getElem _ _ hi]

/-! ### What a write to a pool in flight leaves alone -/

/-- Two machines with the same Skovlink and the same Sweep. -/
def SameLinks (s t : State) : Prop := t.sw = s.sw ∧ t.sk = s.sk

theorem SameLinks.trans {s t u : State} (h : SameLinks s t) (g : SameLinks t u) : SameLinks s u :=
  ⟨g.1.trans h.1, g.2.trans h.2⟩

theorem sameLinks_foldl {β : Type} {f : State → β → State} (hf : ∀ t b, SameLinks t (f t b)) (l : List β) (s : State) :
    SameLinks s (l.foldl f s) :=
  List.foldlRecOn l f (motive := fun t => SameLinks s t) ⟨rfl, rfl⟩ fun t h b _ => h.trans (hf t b)

theorem sameLinks_freeStore (ctx : Nat) (vas : List Nat) : SameLinks s (s.freeStore ctx vas) := by
  refine sameLinks_foldl (fun t va => ?_) vas s
  split
  next => exact ⟨rfl, rfl⟩
  next pa _ =>
    exact SameLinks.trans (t := t.freeWord.2) ⟨rfl, rfl⟩
      (sameLinks_foldl (fun t l => ⟨homeWrite_sw l, homeWrite_sk l⟩) _ _)

theorem sameLinks_kvRace (pa n : Nat) : SameLinks s (s.kvRace pa n) := by
  unfold State.kvRace
  split
  next => exact ⟨rfl, rfl⟩
  next =>
    exact SameLinks.trans (t := { s with kvPools := _ }) ⟨rfl, rfl⟩ (sameLinks_foldl (fun t p => sameLinks_freeStore ..) _ _)

/-! ### Requests in stream order -/

theorem held_respond (m : Msg) (st : Byte) (data : List Byte) : (s.respond m st data).sk.held = s.sk.held := by
  unfold State.respond
  split <;> rfl

theorem m_respond (m : Msg) (st : Byte) (data : List Byte) : (s.respond m st data).m = s.m := by
  unfold State.respond
  split <;> rfl

/-- The next request of a stream is performed; nothing else happens while the one after it has not arrived. -/
theorem inOrder_next {u : State} {src : Nat} {ev : Instr} {m : Msg} {f : Msg → State → State}
    (h : NextRequest s src ev m u) (hf : (f m u).sk.held = u.sk.held) : s.inOrder src ev f = f m u := by
  obtain ⟨hm, hev, hno, hu⟩ := h
  unfold State.inOrder
  dsimp only
  rw [hm]
  dsimp only
  rw [if_neg (by simpa using hev), ← hu, hf]
  have hheld : u.sk.held = s.sk.held.erase m := by rw [hu]
  rw [hheld, hno]

theorem inOrder_none {src : Nat} (ev : Instr) (f : Msg → State → State)
    (h : ∀ m ∈ s.sk.held, m.src = src → m.sseq ≠ (tget s.sk.seqIn src).getD 0) : s.inOrder src ev f = s := by
  have hnone : (s.sk.held.find? fun m => m.src == src && m.sseq == (tget s.sk.seqIn src).getD 0) = none :=
    List.find?_eq_none.mpr fun m hm => by simpa using h m hm
  unfold State.inOrder
  simp only [hnone]

theorem presentAll_of_next {u : State} {src : Nat} {ev : Instr} {m : Msg} (h : NextRequest s src ev m u) (a n : Nat) :
    u.presentAll a n = s.presentAll a n := by
  obtain ⟨-, -, -, rfl⟩ := h
  rfl

theorem swRow_of_next {u : State} {src : Nat} {ev : Instr} {m : Msg} (h : NextRequest s src ev m u) (r : Nat) :
    u.swRow r = s.swRow r := by
  obtain ⟨-, -, -, rfl⟩ := h
  rfl

theorem m_of_next {u : State} {src : Nat} {ev : Instr} {m : Msg} (h : NextRequest s src ev m u) : u.m = s.m := by
  obtain ⟨-, -, -, rfl⟩ := h
  rfl

theorem homeBytes_congr {t : State} (h : t.m = s.m) (a n : Nat) : t.homeBytes a n = s.homeBytes a n := by
  simp only [State.homeBytes, State.homeByte, h]

theorem exec_skovRead_present {u : State} {src : Nat} {m : Msg} (h : NextRequest s src (.skovRead src) m u)
    (hp : s.presentAll m.paddr m.size = true) (hue : s.m.ue = []) (hsw : ∀ r ∈ rowsOf m.paddr m.size, s.swRow r = false) :
    exec (.skovRead src) s = .next (u.respond m 0 (s.homeBytes m.paddr m.size)) := by
  have hread := outsideRead_home (s := u) none m.paddr m.size (by rw [m_of_next h, hue]) fun r hr => by
    rw [swRow_of_next h, hsw r hr]
  rw [homeBytes_congr (m_of_next h)] at hread
  refine congrArg Host.Outcome.next ?_
  rw [inOrder_next h]
  all_goals
    simp only [presentAll_of_next h, hp, hread, Bool.not_true, Bool.false_eq_true, if_false]
  exact held_respond ..

/-- A write's request that touches no row of SW memory reaches the home points. -/
theorem skovPut_home {m : Msg} (hp : s.presentAll m.paddr m.data.length = true)
    (hsw : ∀ r ∈ rowsOf m.paddr m.data.length, s.swRow r = false) :
    s.skovPut m = (writeBlocks (s.kvRace m.paddr m.data.length) m.paddr m.data
      (blocksOf m.paddr m.data.length)).respond m 0 [] := by
  obtain ⟨hsw1, -⟩ := sameLinks_kvRace (s := s) m.paddr m.data.length
  obtain ⟨hsw2, -⟩ := sw_sk_writeBlocks (s := s.kvRace m.paddr m.data.length) m.paddr m.data (blocksOf m.paddr m.data.length)
  unfold State.skovPut
  rw [hp]
  simp only [Bool.not_true, Bool.false_eq_true, if_false]
  rw [outsideWrite_home none m.paddr m.data false fun r hr => by rw [swRow_congr hsw1, hsw r hr]]
  congr 1
  refine List.foldlRecOn (rowsOf m.paddr m.data.length) _
    (motive := fun t => t = writeBlocks (s.kvRace m.paddr m.data.length) m.paddr m.data (blocksOf m.paddr m.data.length))
    rfl fun t ht r hr => ?_
  subst ht
  rw [swRow_congr (hsw2.trans hsw1), hsw r hr]
  rfl

/-- Both writes are performed by the same act. -/
theorem exec_skovPut {u : State} {src : Nat} {m : Msg} {ev : Instr} (hev : ev = .skovWrite src ∨ ev = .skovBulkWrite src)
    (h : NextRequest s src ev m u) (hheld : (u.skovPut m).sk.held = u.sk.held) : exec ev s = .next (u.skovPut m) := by
  rcases hev with rfl | rfl
  · exact congrArg Host.Outcome.next (inOrder_next h hheld)
  · exact congrArg Host.Outcome.next (inOrder_next h hheld)

theorem exec_skovPut_present {u : State} {src : Nat} {m : Msg} {ev : Instr}
    (hev : ev = .skovWrite src ∨ ev = .skovBulkWrite src) (h : NextRequest s src ev m u)
    (hp : s.presentAll m.paddr m.data.length = true) (hsw : ∀ r ∈ rowsOf m.paddr m.data.length, s.swRow r = false) :
    ∃ v, exec ev s = .next v ∧ v.homeBytes m.paddr m.data.length = m.data := by
  have hput := skovPut_home (s := u) (m := m) (by rw [presentAll_of_next h, hp]) fun r hr => by
    rw [swRow_of_next h, hsw r hr]
  obtain ⟨-, hsk1⟩ := sameLinks_kvRace (s := u) m.paddr m.data.length
  obtain ⟨-, hsk2⟩ := sw_sk_writeBlocks (s := u.kvRace m.paddr m.data.length) m.paddr m.data (blocksOf m.paddr m.data.length)
  refine ⟨_, exec_skovPut hev h ?_, ?_⟩
  · rw [hput, held_respond, hsk2, hsk1]
  · rw [hput, homeBytes_congr (m_respond ..), homeBytes_writeBlocks]

theorem exec_skovAtomic_present {u : State} {src : Nat} {m : Msg} (h : NextRequest s src (.skovAtomic src) m u)
    (hp : s.presentAll m.paddr (if m.w64 then 8 else 4) = true) (hue : s.m.ue = []) (hsw : s.swRow (m.paddr / 1024) = false)
    (hop : m.atop ≠ 15) :
    let n := if m.w64 then 8 else 4
    let old := s.homeBytes m.paddr n
    let new := leBytes n (atomNew m.atop.toNat m.w64 (leNat old) (leNat (m.data.take n)) (leNat ((m.data.drop n).take n)))
    exec (.skovAtomic src) s =
      .next (((u.kvRace m.paddr n).homeWrite (((List.range n).zip new).map fun x => (m.paddr + x.1, x.2))).respond m 0 old) := by
  intro n old new
  have hp : u.presentAll m.paddr n = true := by rw [presentAll_of_next h, hp]
  have hsw : u.swRow (m.paddr / 1024) = false := by rw [swRow_of_next h, hsw]
  have hold : u.homeBytes m.paddr n = old := homeBytes_congr (m_of_next h) ..
  have hbad : u.homeBadAt m.paddr n = false := homeBadAt_of_sound (by rw [m_of_next h, hue]) ..
  have hcode : ¬ m.atop.toNat = 15 := fun hc => hop (BitVec.eq_of_toNat_eq hc)
  have hheld : (((u.kvRace m.paddr n).homeWrite (((List.range n).zip new).map fun x => (m.paddr + x.1, x.2))).respond m 0
      old).sk.held = u.sk.held := by
    rw [held_respond, homeWrite_sk, (sameLinks_kvRace ..).2]
  refine congrArg Host.Outcome.next ?_
  rw [inOrder_next h]
  all_goals
    simp only [n] at hp hold hbad hheld
    simp only [hp, hsw, hold, hbad, hcode, Bool.not_true, Bool.false_eq_true, if_false, or_self]
  · rfl
  · exact hheld

theorem exec_absent {u : State} {src : Nat} {m : Msg} {ev : Instr} (h : NextRequest s src ev m u) :
    let n := if m.w64 then 8 else 4
    (ev = .skovRead src → s.presentAll m.paddr m.size = false →
      exec ev s = .next (u.respond m 3 (List.replicate m.size 0))) ∧
    (ev = .skovWrite src ∨ ev = .skovBulkWrite src → s.presentAll m.paddr m.data.length = false →
      exec ev s = .next (u.respond m 3 [])) ∧
    (ev = .skovAtomic src → s.presentAll m.paddr n = false → exec ev s = .next (u.respond m 3 (List.replicate n 0))) := by
  refine ⟨?_, ?_, ?_⟩
  · rintro rfl hp
    refine congrArg Host.Outcome.next ?_
    rw [inOrder_next h]
    all_goals simp only [presentAll_of_next h, hp, Bool.not_false, if_true]
    exact held_respond ..
  · intro hev hp
    have hput : u.skovPut m = u.respond m 3 [] := by
      unfold State.skovPut
      rw [presentAll_of_next h, hp]
      rfl
    rw [exec_skovPut hev h (by rw [hput, held_respond]), hput]
  · rintro rfl hp
    refine congrArg Host.Outcome.next ?_
    rw [inOrder_next h]
    all_goals simp only [presentAll_of_next h, hp, Bool.not_false, if_true]
    exact held_respond ..

theorem requests : Requests := by
  refine ⟨?_, fun s u src m h hp hue hsw => exec_skovRead_present h hp hue hsw,
    fun s u src m ev hev h hp hsw => exec_skovPut_present hev h hp hsw,
    fun s u src m h hp hue hsw hop => exec_skovAtomic_present h hp hue hsw hop,
    fun s u src m ev h => exec_absent h, ?_⟩
  · intro s src ev hev h
    simp only [List.mem_cons, List.not_mem_nil, or_false] at hev
    rcases hev with rfl | rfl | rfl | rfl <;> exact congrArg Host.Outcome.next (inOrder_none _ _ h)
  · intro s m st data p hport
    rw [State.respond, hport]

/-! ### Responses -/

/-- The oldest response of a source is taken by the request that awaits it. -/
theorem exec_skovResponse {src : Nat} {m : Msg} {r : SkReq} (hm : (s.sk.resps.find? fun m => m.src == src) = some m)
    (hr : (s.sk.reqs.find? fun r => r.dst == src && r.tag == m.tag) = some r) :
    exec (.skovResponse src) s =
      .next ({ s with sk := { s.sk with resps := s.sk.resps.erase m, reqs := s.sk.reqs.erase r } }.answer r m) := by
  show execSkovResponse src s = _
  simp only [execSkovResponse, hm, hr]

theorem answer_part {r : SkReq} {m : Msg} {op lane off : Nat} {o : Op} {p : LanePart} {w : Warp}
    (hwho : r.who = .part op lane off) (ho : s.op op = some o) (hw : s.warp o.warp = some w)
    (hp : (o.parts.find? fun p => p.lane == lane) = some p) :
    (m.status = 0 → s.answer r m = (if o.kind = .load then s.fillPeer w.core r.dst r.pa r.stamp m.data else s).fillPart op lane
      ((m.data ++ List.replicate p.bytes.length 0).take p.bytes.length) false) ∧
    (m.status ≠ 0 → s.answer r m = s.fillPart op lane (List.replicate p.bytes.length 0) true) := by
  constructor <;> intro hst
  · simp [State.answer, hwho, ho, hw, hp, hst]
  · simp only [State.answer, hwho, ho, hw, hp, hst, decide_false, Bool.false_and, Bool.false_eq_true, if_false,
      Option.map_some, Option.getD_some, Bool.not_false]

theorem answer_desc {r : SkReq} {m : Msg} {key : Nat} (hwho : r.who = .desc key) (hkey : key < 2 ^ 200) :
    (m.status = 0 → m.data ≠ [] → s.answer r m = { s with descs := s.descs ++ [(key, m.data)] }) ∧
    (m.status ≠ 0 → s.answer r m = { s with descs := s.descs ++ [(key, [])] }) := by
  constructor
  · intro hst hd
    simp [State.answer, hwho, hst, hd]
  · intro hst
    simp only [State.answer, hwho, hst, hkey, decide_false, decide_true, Bool.or_true, Bool.not_false, if_true]

theorem answer_store {r : SkReq} {m : Msg} {op w l : Nat} (hwho : r.who = .store op w l) (hst : m.status = 0) :
    s.answer r m = s := by
  simp [State.answer, hwho, hst]

theorem responses : Responses := fun _ _ _ _ hm hr =>
  ⟨exec_skovResponse hm hr, fun _ _ _ _ _ _ hwho ho hw hp => answer_part hwho ho hw hp,
    fun _ hwho hkey => answer_desc hwho hkey, fun _ _ _ hwho hst => answer_store hwho hst⟩

/-- Settles O49: flits and messages read back from their bytes, the replay buffer as a queue, requests in stream order at the
home points, and responses by the request that awaits them. -/
theorem skovlinkTraffic : Obligations.SkovlinkTraffic := ⟨flitBytes, flits, requests, responses⟩

end Sys2Proof.Laws
end

section
/-! PROOF of O9: the words on special registers. -/

namespace Sys2Proof.Laws

open Sys2Proof.Machine Sys2Proof.Claims

variable {s : State}

/-- A sub-cause from 0x20 marks the lanes in which the word acts, and none where it acts in none (R170). -/
theorem forbid_lanes (i : Issue) {c : Nat} (hc : 0x20 ≤ c) (ls : List Nat) :
    s.forbid i c ls = if ls = [] then s else s.illegal c ls := by
  simp [State.forbid, Nat.not_lt.mpr hc]

/-! ### SYS words with a vector or a scalar register -/

theorem withKind_vector {i : Issue} {srcs dsts : List Nat} (h : s.Ready i srcs dsts) (f : Issue → State → State) :
    s.withKind 0 srcs dsts f = f i s := by
  unfold State.withKind
  rw [h.issuing]
  exact withRegs_ready h f

/-- A thread's word that writes a scalar runs while no recruitment of its warp is open (R296). -/
theorem withKind_scalar {i : Issue} (hi : s.iss = some i) (ht : i.kind = .thread) (hr : s.recruiter i = none)
    (srcs dsts : List Nat) (f : Issue → State → State) : s.withKind 1 srcs dsts f = f i s := by
  simp [State.withKind, hi, ht, hr]

/-- A thread's word that writes no register runs once its vector source may be named. -/
theorem withKind_source {i : Issue} {w : Warp} {k : BitVec 1} {x : BitVec 7} (h : SetReady s i w k x)
    (f : Issue → State → State) : s.withKind k [x.toNat] [] f = f i s := by
  obtain ⟨hi, ht, -, hk⟩ := h
  by_cases k0 : k = 0
  · subst k0
    exact withKind_vector ⟨hi, hk rfl, by simp [State.recruitHeld]⟩ f
  · unfold State.withKind
    rw [hi]
    simp only [if_neg k0]
    simp [ht]

/-! ### GETSR -/

theorem readSpecial : ReadSpecial := by
  refine ⟨?vector, ?scalar, ?absent⟩
  case vector =>
    intro s i x y nd h hsr
    refine ⟨_, ?_, actorsTake_writeLanes s i x.toNat (fun l => (s.srOf i l y.toNat).getD 0) (acting_nodup s i nd)⟩
    show execGetsr x y 0 s = _
    unfold execGetsr
    rw [withKind_vector h]
    simp [hsr]
  case scalar =>
    intro s i x y l hi ht hr hsr hl
    show execGetsr x y 1 s = _
    unfold execGetsr
    rw [withKind_scalar hi ht hr]
    simp [hsr, hl]
  case absent =>
    intro s i x y h hsr
    show execGetsr x y 0 s = _
    unfold execGetsr
    rw [withKind_vector h]
    simp [hsr, forbid_lanes]

/-! ### SETSR -/

/-- In a thread SETSR takes its source and asks for the register it may write. -/
theorem exec_setsr_thread {i : Issue} {w : Warp} {k : BitVec 1} {x : BitVec 7} (y : BitVec 7) (h : SetReady s i w k x) :
    exec (.setsr x y k) s = .next (
      if y = 19 then
        (s.acting i).foldl (fun t l => t.modThread i.warp l fun th => { th with draws := setSource s i k x l }) s
      else if y = 33 ∧ ((s.rdWarp i).map fun w => w.trap == .handling).getD false then match s.leader i with
        | some l => s.modWarp i.warp fun w => { w with trappc := setSource s i k x l &&& 0xFFFF_FFFC }
        | none => s
      else if (s.srOf i i.lowest y.toNat).isNone then s.forbid i 0x21 (s.acting i)
      else s.forbid i 0x22 (s.acting i)) := by
  show execSetsr x y k s = _
  unfold execSetsr
  obtain ⟨hi, ht, -, -⟩ := id h
  simp only [hi, ht, reduceCtorEq, if_false]
  rw [withKind_source h]
  rfl

theorem exec_setsr_helper {i : Issue} (x y : BitVec 7) (k : BitVec 1) (hi : s.iss = some i) (hh : i.kind = .helper) :
    exec (.setsr x y k) s = .next (if s.acting i = [] then s else s.illegal 0x24 (s.acting i)) := by
  show execSetsr x y k s = _
  unfold execSetsr
  simp [hi, hh, forbid_lanes]

theorem writeSpecial : WriteSpecial := by
  refine ⟨?draws, ?trappc, ?refused, fun s i k x y hi hh => exec_setsr_helper x y k hi hh⟩
  case draws =>
    intro s i w k x nd h
    exact ⟨_, exec_setsr_thread 19 h,
      threadsBecome_fold (fun l th => { th with draws := setSource s i k x l }) _ (acting_nodup s i nd) s⟩
  case trappc =>
    intro s i w v k x l h hv htrap hl
    rw [exec_setsr_thread 33 h]
    simp [hv, htrap, hl]
  case refused =>
    intro s i w v k x y h hy hv hn
    have hno : ¬(y = 33 ∧ ((s.rdWarp i).map fun w => w.trap == .handling).getD false = true) := by
      rintro ⟨h33, ht⟩
      exact hn h33 (by simpa [hv] using ht)
    rw [exec_setsr_thread y h, if_neg hy, if_neg hno]
    constructor <;> intro hsr <;> simp [hsr, forbid_lanes]

/-- Settles O9: GETSR and SETSR run once their register may be named, and what they do is a case split over the register. -/
theorem specialRegisterWords : Obligations.SpecialRegisterWords := ⟨readSpecial, writeSpecial⟩

end Sys2Proof.Laws
end

section
/-! PROOF of O10: draws, the clock, the constant window and replacement data. -/

namespace Sys2Proof.Laws

open Sys2Proof.Machine Sys2Proof.Claims

variable {s : State}

/-! ### Writes of several vector registers -/

/-- Writes to registers of a warp, one after the other: lane, register and value. -/
def setVs (s : State) (wk : Nat) (ws : List (Nat × Nat × Word)) : State :=
  ws.foldl (fun t e => t.setV wk e.1 e.2.1 e.2.2) s

@[simp] theorem setVs_cons (wk : Nat) (e : Nat × Nat × Word) (ws : List (Nat × Nat × Word)) :
    setVs s wk (e :: ws) = setVs (s.setV wk e.1 e.2.1 e.2.2) wk ws := rfl

theorem setVs_append (wk : Nat) (as bs : List (Nat × Nat × Word)) :
    setVs s wk (as ++ bs) = setVs (setVs s wk as) wk bs := List.foldl_append

theorem setVs_warp (wk j : Nat) (ws : List (Nat × Nat × Word)) : (setVs s wk ws).warp j = s.warp j := by
  induction ws generalizing s with
  | nil => rfl
  | cons e ws ih => rw [setVs_cons, ih, setV_warp]

theorem onlyVectors_setVs (wk : Nat) (ws : List (Nat × Nat × Word)) : OnlyVectors s (setVs s wk ws) := by
  induction ws generalizing s with
  | nil => exact onlyVectors_refl s
  | cons e ws ih => exact onlyVectors_trans (onlyVectors_setV ..) ih

/-- A word that none of the writes names is as it was. -/
theorem setVs_other {wk k : Nat} {w : Warp} (hw : s.warp wk = some w) (ws : List (Nat × Nat × Word))
    (h : ∀ e ∈ ws, w.vkey e.1 e.2.1 ≠ some k) : s.reg.SameAt (setVs s wk ws).reg k := by
  induction ws generalizing s with
  | nil => exact sameAt_refl _ _
  | cons e ws ih =>
    refine sameAt_trans ?_ (ih ((setV_warp ..).trans hw) fun x hx => h x (List.mem_cons_of_mem _ hx))
    show s.reg.SameAt (s.setV wk e.1 e.2.1 e.2.2).reg k
    rw [setV_eq hw]
    cases hk : w.vkey e.1 e.2.1 with
    | none => exact sameAt_refl _ _
    | some j => exact put_other s.reg fun hj => h e (List.mem_cons_self ..) (hj ▸ hk)

/-- A word that some write names, and no write gives another value, holds it, and its owner sees it. -/
theorem setVs_same {wk k : Nat} {w : Warp} {v : Word} (hw : s.warp wk = some w) (ws : List (Nat × Nat × Word))
    (hin : ∃ e ∈ ws, w.vkey e.1 e.2.1 = some k) (h : ∀ e ∈ ws, w.vkey e.1 e.2.1 = some k → e.2.2 = v) :
    tget (setVs s wk ws).reg.rf k = some v ∧ (setVs s wk ws).reg.Seen k := by
  induction ws generalizing s with
  | nil => simp at hin
  | cons e ws ih =>
    have hw' : (s.setV wk e.1 e.2.1 e.2.2).warp wk = some w := (setV_warp ..).trans hw
    by_cases hlater : ∃ x ∈ ws, w.vkey x.1 x.2.1 = some k
    · exact ih hw' hlater fun x hx => h x (List.mem_cons_of_mem _ hx)
    · have hk : w.vkey e.1 e.2.1 = some k := by
        obtain ⟨x, hx, hxk⟩ := hin
        rcases List.mem_cons.mp hx with rfl | hx
        · exact hxk
        · exact absurd ⟨x, hx, hxk⟩ hlater
      obtain ⟨hrf, hsh⟩ := setVs_other hw' ws fun x hx hxk => hlater ⟨x, hx, hxk⟩
      have hput := put_eq s.reg k e.2.2
      rw [setV_eq hw, hk] at hrf hsh
      rw [setVs_cons, ← h e (List.mem_cons_self ..) hk]
      rw [setV_eq hw, hk]
      exact ⟨hrf.trans hput.1, fun j hj => (hsh j hj).trans (hput.2 j hj)⟩

/-- Registers of one block of sixteen: each lane has its own word for each. -/
theorem vkey_inj_block {w : Warp} {a b m n k : Nat} (hb : m / 16 = n / 16) (hm : w.vkey a m = some k)
    (hn : w.vkey b n = some k) : a = b ∧ m = n := by
  unfold Warp.vkey at hm hn
  by_cases h : m < 64
  · have h' : n < 64 := by omega
    simp only [h, h', if_true, Option.some.injEq] at hm hn
    omega
  · have h' : ¬n < 64 := by omega
    simp only [h, h', if_false] at hm hn
    have hq : (n - 64) / 16 = (m - 64) / 16 := by omega
    rw [hq] at hn
    cases hx : tget w.ext ((m - 64) / 16) with
    | none => simp [hx] at hm
    | some off =>
      simp only [hx, Option.map_some, Option.some.injEq] at hm hn
      omega

/-! ### Register writes and changes of the warp -/

/-- A change of a warp that leaves where its registers lie. -/
def KeepsKeys (f : Warp → Warp) : Prop := ∀ w l n, (f w).vkey l n = w.vkey l n

theorem setV_modWarp {f : Warp → Warp} (hf : KeepsKeys f) (wk l n : Nat) (v : Word) :
    (s.modWarp wk f).setV wk l n v = (s.setV wk l n v).modWarp wk f := by
  have hkey : ((s.modWarp wk f).warp wk).bind (fun w => w.vkey l n) = (s.warp wk).bind fun w => w.vkey l n := by
    rw [warp_modWarp, if_pos rfl]
    cases s.warp wk with
    | none => rfl
    | some w => exact hf w l n
  unfold State.setV
  rw [hkey]
  cases (s.warp wk).bind fun w => w.vkey l n <;> rfl

theorem setVs_modWarp {f : Warp → Warp} (hf : KeepsKeys f) (wk : Nat) (ws : List (Nat × Nat × Word)) :
    setVs (s.modWarp wk f) wk ws = (setVs s wk ws).modWarp wk f := by
  induction ws generalizing s with
  | nil => rfl
  | cons e ws ih => rw [setVs_cons, setV_modWarp hf, ih, setVs_cons]

/-- Writes and such changes by turns: first the writes, then the changes. -/
theorem foldl_setVs_modWarp {α : Type} {f : α → Warp → Warp} (hf : ∀ a, KeepsKeys (f a)) (wk : Nat)
    (g : α → List (Nat × Nat × Word)) (as : List α) :
    as.foldl (fun t a => (setVs t wk (g a)).modWarp wk (f a)) s =
      as.foldl (fun t a => t.modWarp wk (f a)) (setVs s wk (as.flatMap g)) := by
  induction as generalizing s with
  | nil => rfl
  | cons a as ih =>
    rw [List.foldl_cons, ih, setVs_modWarp (hf a), List.flatMap_cons, setVs_append, List.foldl_cons]

theorem foldl_wrV_thread {α : Type} {i : Issue} (ht : i.kind = .thread) (e : α → Nat × Nat × Word) (as : List α) :
    as.foldl (fun t a => t.wrV i (e a).1 (e a).2.1 (e a).2.2) s = setVs s i.warp (as.map e) := by
  simp only [setVs, List.foldl_map, State.wrV, ht]

/-! ### RAND -/

/-- The four words of a draw. -/
def drawWords (r : Word × Word × Word × Word) : List Word := [r.1, r.2.1, r.2.2.1, r.2.2.2]

/-- The writes of one lane's draw into the `n` registers from `d`. -/
def drawWrites (d n l : Nat) (r : Word × Word × Word × Word) : List (Nat × Nat × Word) :=
  ((List.range n).zip ((drawWords r).take n)).map fun e => (l, d + e.1, e.2)

theorem mem_drawWrites {d n l : Nat} {r : Word × Word × Word × Word} (e : Nat × Nat × Word) :
    e ∈ drawWrites d n l r ↔ ∃ j < n, e.1 = l ∧ e.2.1 = d + j ∧ (drawWords r)[j]? = some e.2.2 := by
  obtain ⟨a, b, v⟩ := e
  rw [drawWrites, List.mem_map]
  simp only [Prod.exists, Prod.mk.injEq]
  constructor
  · rintro ⟨j, x, hjx, rfl, rfl, rfl⟩
    obtain ⟨k, hk⟩ := List.mem_iff_getElem?.mp hjx
    obtain ⟨hj, hx⟩ := List.getElem?_zip_eq_some.mp hk
    obtain ⟨hkn, rfl⟩ : k < n ∧ k = j := by simpa [List.getElem?_eq_some_iff] using hj
    exact ⟨k, hkn, rfl, rfl, by simpa [List.getElem?_take, hkn] using hx⟩
  · rintro ⟨j, hj, rfl, rfl, hx⟩
    refine ⟨j, v, List.mem_iff_getElem?.mpr ⟨j, List.getElem?_zip_eq_some.mpr ⟨?_, ?_⟩⟩, rfl, rfl, rfl⟩
    · simp [hj]
    · simpa [List.getElem?_take, hj] using hx

/-- RAND's meaning: the writes of all draws, and then the counts. -/
theorem exec_rand {i : Issue} {w : Warp} {d : BitVec 7} {z : BitVec 2} {n : Nat}
    (hn : (if z = 0 then 1 else if z = 1 then 2 else 4) = n) (h : s.ReadyT i w [] (regRange d.toNat n))
    (draw : Nat → Word × Word × Word × Word)
    (hd : ∀ l, draw l = philox ((s.srOf i l 19).getD 0, (s.srOf i l 6).getD 0, (s.srOf i l 2).getD 0,
      (s.srOf i l 10).getD 0) ((s.srOf i l 13).getD 0, (s.srOf i l 14).getD 0)) :
    exec (.rand d z) s = .next ((s.acting i).foldl
      (fun t l => t.modThread i.warp l fun th => { th with draws := th.draws + 1 })
      (setVs s i.warp ((s.acting i).flatMap fun l => drawWrites d.toNat n l (draw l)))) := by
  show execRand d z s = _
  unfold execRand
  simp only [hn]
  rw [withThread_ready h.toReady h.threads]
  refine congrArg Host.Outcome.next ?_
  simp only [State.modThread]
  rw [← foldl_setVs_modWarp (f := fun l x => x.modThread l fun th => { th with draws := th.draws + 1 })
    (fun _ _ _ _ => rfl)]
  refine congrArg (fun f => List.foldl f s (s.acting i)) ?_
  funext t l
  rw [hd, drawWrites, ← foldl_wrV_thread h.threads]
  rfl

theorem randomDraw : RandomDraw := by
  intro s i w d z n nd h haligned draw
  have hcases : n = 1 ∨ n = 2 ∨ n = 4 := by
    simp only [n]
    split
    · exact .inl rfl
    · split
      · exact .inr (.inl rfl)
      · exact .inr (.inr rfl)
  have hn4 : n ≤ 4 := by omega
  have hblock : ∀ a < n, ∀ b < n, (d.toNat + a) / 16 = (d.toNat + b) / 16 := by
    intro a ha b hb
    rcases hcases with h1 | h1 | h1 <;> rw [h1] at ha hb haligned <;> omega
  let writes := (s.acting i).flatMap fun l => drawWrites d.toNat n l (draw l)
  have hmem : ∀ e ∈ writes, ∃ l ∈ s.acting i, ∃ j < n, e.1 = l ∧ e.2.1 = d.toNat + j ∧
      (drawWords (draw l))[j]? = some e.2.2 := by
    intro e he
    obtain ⟨l, hl, hel⟩ := List.mem_flatMap.mp he
    exact ⟨l, hl, (mem_drawWrites e).mp hel⟩
  let u := setVs s i.warp writes
  obtain ⟨⟨hw1, hw2⟩, hth⟩ := threadsBecome_fold (wk := i.warp) (fun _ th => { th with draws := th.draws + 1 }) (s.acting i)
    (acting_nodup s i nd) u
  obtain ⟨hv, -⟩ := onlyVectors_setVs (s := s) i.warp writes
  have hreg : ∀ t : State, OnlyWarps u t → t.reg = u.reg := fun t ht => by rw [ht]
  refine ⟨_, exec_rand rfl h draw fun _ => rfl, ?written, ?others, ?counts, ?frame⟩
  case written =>
    intro l hl j hj k hk
    rw [hreg _ hw1]
    have hx : ∃ x, (drawWords (draw l))[j]? = some x := by
      simp [drawWords, ← Option.isSome_iff_exists]
      omega
    obtain ⟨x, hx⟩ := hx
    show _ = (drawWords (draw l))[j]? ∧ _
    rw [hx]
    refine setVs_same h.warp writes ⟨(l, d.toNat + j, x), ?_, hk⟩ ?_
    · exact List.mem_flatMap.mpr ⟨l, hl, (mem_drawWrites _).mpr ⟨j, hj, rfl, rfl, hx⟩⟩
    · intro e he hek
      obtain ⟨l', hl', j', hj', h1, h2, h3⟩ := hmem e he
      rw [h1, h2] at hek
      obtain ⟨rfl, hjj⟩ := vkey_inj_block (hblock j' hj' j hj) hek hk
      obtain rfl : j' = j := by omega
      exact Option.some.inj (h3.symm.trans hx)
  case others =>
    intro k hk
    rw [hreg _ hw1]
    refine setVs_other h.warp writes fun e he hek => ?_
    obtain ⟨l, hl, j, hj, h1, h2, -⟩ := hmem e he
    rw [h1, h2] at hek
    exact hk l hl j hj hek
  case counts =>
    intro k l
    rw [hth k l]
    simp only [State.thread, u, setVs_warp]
  case frame =>
    rw [hw1]
    simp only [u]
    rw [hv]

/-! ### CLOCK and CWIN -/

/-- The writes of a pair. -/
def pairWrites (d : Nat) (val : Nat → DWord) (l : Nat) : List (Nat × Nat × Word) :=
  [(l, d, (val l).setWidth 32), (l, d + 1, (val l).extractLsb' 32 32)]

theorem writePairs_eq {i : Issue} (ht : i.kind = .thread) (d : Nat) (val : Nat → DWord) :
    s.writePairs i d val = setVs s i.warp ((s.acting i).flatMap (pairWrites d val)) := by
  unfold State.writePairs
  generalize s.acting i = ls
  induction ls generalizing s with
  | nil => rfl
  | cons l ls ih =>
    rw [List.foldl_cons, ih, List.flatMap_cons, setVs_append]
    simp only [State.wrV, ht]
    rfl

/-- WRITING A PAIR: the acting threads take it, low word in the even register. -/
theorem pairsTaken_writePairs {i : Issue} {w : Warp} {d : Nat} (ht : i.kind = .thread) (hw : s.warp i.warp = some w)
    (hd : d % 2 = 0) (val : Nat → DWord) : PairsTaken s w (s.acting i) d val (s.writePairs i d val) := by
  rw [writePairs_eq ht]
  have hmem : ∀ e ∈ (s.acting i).flatMap (pairWrites d val), e.1 ∈ s.acting i ∧
      (e.2.1 = d ∧ e.2.2 = (val e.1).extractLsb' 0 32 ∨ e.2.1 = d + 1 ∧ e.2.2 = (val e.1).extractLsb' 32 32) := by
    intro e he
    obtain ⟨l, hl, hel⟩ := List.mem_flatMap.mp he
    simp only [pairWrites, List.mem_cons, List.not_mem_nil, or_false] at hel
    rcases hel with rfl | rfl
    · exact ⟨hl, .inl ⟨rfl, rfl⟩⟩
    · exact ⟨hl, .inr ⟨rfl, rfl⟩⟩
  have hsame : ∀ l n k, w.vkey l n = some k → n = d ∨ n = d + 1 → ∀ e ∈ (s.acting i).flatMap (pairWrites d val),
      w.vkey e.1 e.2.1 = some k → e.1 = l ∧ e.2.1 = n := by
    intro l n k hk hn e he hek
    obtain ⟨-, h⟩ := hmem e he
    exact vkey_inj_block (by rcases h with ⟨h, -⟩ | ⟨h, -⟩ <;> omega) hek hk
  refine ⟨onlyVectors_setVs .., fun l hl k => ⟨fun hk => ?_, fun hk => ?_⟩, fun k hk => ?_⟩
  · refine setVs_same hw _ ⟨(l, d, (val l).setWidth 32), List.mem_flatMap.mpr ⟨l, hl, by simp [pairWrites]⟩, hk⟩ ?_
    intro e he hek
    obtain ⟨rfl, hd'⟩ := hsame l d k hk (.inl rfl) e he hek
    obtain ⟨-, ⟨-, hv⟩ | ⟨hv, -⟩⟩ := hmem e he
    · exact hv
    · omega
  · refine setVs_same hw _ ⟨(l, d + 1, (val l).extractLsb' 32 32), List.mem_flatMap.mpr ⟨l, hl, by simp [pairWrites]⟩, hk⟩ ?_
    intro e he hek
    obtain ⟨rfl, hd'⟩ := hsame l (d + 1) k hk (.inr rfl) e he hek
    obtain ⟨-, ⟨hv, -⟩ | ⟨-, hv⟩⟩ := hmem e he
    · omega
    · exact hv
  · refine setVs_other hw _ fun e he hek => ?_
    obtain ⟨hl, ⟨hn, -⟩ | ⟨hn, -⟩⟩ := hmem e he
    · exact (hk e.1 hl).1 (hn ▸ hek)
    · exact (hk e.1 hl).2 (hn ▸ hek)

/-- A thread's word that acts once per bundle, its guard true at the lowest lane. -/
theorem once_thread {i : Issue} (hi : s.iss = some i) (ht : i.kind = .thread) (ha : s.bundleActs i = true)
    (k : Issue → State → State) : s.once true k = k i s := by
  simp [State.once, hi, ht, ha]

theorem clockAndWindow : ClockAndWindow := by
  refine ⟨?clock, ?count, ?cwin, ?args⟩
  case clock =>
    intro s i w d h hd
    refine ⟨_, ?_, pairsTaken_writePairs h.threads h.warp hd fun l => s.clockOf i l⟩
    show execClock d 0 s = _
    unfold execClock
    simp only [h.issuing, h.threads, reduceCtorEq, if_false]
    rw [withKind_vector h.toReady]
    rfl
  case count =>
    intro s i w t l th hw ht hl
    simp [State.clockOf, hw, ht, hl]
  case cwin =>
    intro s i a hi ht ha v
    constructor <;> intro hv <;> show execCwin a s = _ <;> unfold execCwin <;> rw [once_thread hi ht ha]
    · exact congrArg Host.Outcome.next (if_neg (not_not.mpr hv))
    · exact congrArg Host.Outcome.next (if_pos hv)
  case args =>
    intro s i hi ht ha
    show execCwinArgs s = _
    unfold execCwinArgs
    rw [once_thread hi ht ha]

/-! ### UERPL -/

/-- The lanes note that they have replaced word `k`. -/
theorem warp_foldl_noteReplaced {wk k : Nat} {w : Warp} (ls : List Nat) (hw : s.warp wk = some w) (j : Nat) :
    (ls.foldl (fun t l => t.modWarp wk fun w => { w with uerpl := (l, k) :: w.uerpl }) s).warp j =
      if j = wk then some { w with uerpl := (ls.map fun l => (l, k)).reverse ++ w.uerpl } else s.warp j := by
  induction ls generalizing s w with
  | nil => split <;> simp_all
  | cons l ls ih =>
    rw [List.foldl_cons, ih (w := { w with uerpl := (l, k) :: w.uerpl }) (by rw [warp_modWarp, if_pos rfl, hw]; rfl)]
    split
    · simp
    · rename_i hj
      rw [warp_modWarp, if_neg hj]

theorem onlyWarps_modWarp (s : State) (k : Nat) (f : Warp → Warp) : OnlyWarps s (s.modWarp k f) := rfl

theorem onlyWarps_foldl {α : Type} {f : State → α → State} (hf : ∀ t a, OnlyWarps t (f t a)) (as : List α) (s : State) :
    OnlyWarps s (as.foldl f s) := by
  induction as generalizing s with
  | nil => exact onlyWarps_refl s
  | cons a as ih => exact onlyWarps_trans (hf s a) (ih _)

/-- UERPL's meaning in a handler for an uncorrectable error, for a word of the destination that no recruitment holds. -/
theorem exec_uerpl {i : Issue} {w : Warp} {r : BitVec 7} {k : BitVec 2} {d n : Nat} {ls : List Nat}
    (h : s.ReadyT i w [r.toNat] []) (hr : s.rdWarp i = some w) (ht : w.trap = .handling) (hc : w.trapcause = 7)
    (hd : d = bits w.trapinfo.toNat 6 0)
    (hn : n = if w.trapinfo.getLsbD 11 ∨ w.uedests = [] then 0
      else sizeWords (sizeBytes (BitVec.ofNat 3 (bits w.trapinfo.toNat 9 7))))
    (hls : ls = (s.acting i).filter fun l => ((w.threads[l]?).map (·.marked)).getD false) :
    exec (.uerpl r k) s = .next (
      if n ≤ k.toNat then s.illegal 3 i.lanes
      else if s.recruitHeld i ls [d + k.toNat] then s.stall
      else ls.foldl (fun t l => t.modWarp i.warp fun w => { w with uerpl := (l, k.toNat) :: w.uerpl })
        (setVs s i.warp (ls.flatMap fun l => [(l, d + k.toNat, s.rdV i l r.toNat)]))) := by
  show execUerpl r k s = _
  unfold execUerpl
  rw [withThread_ready h.toReady h.threads]
  simp only [hr, ht, hc, ne_eq, not_true_eq_false, or_self, if_false]
  rw [← foldl_setVs_modWarp (f := fun l w => { w with uerpl := (l, k.toNat) :: w.uerpl }) (fun _ _ _ _ => rfl)]
  simp only [hd, hn, hls, List.isEmpty_iff]
  rfl

theorem replacement : Replacement := by
  refine ⟨?outside, ?inside⟩
  case outside =>
    intro s i w r k h hr hout
    show execUerpl r k s = _
    unfold execUerpl
    rw [withThread_ready h.toReady h.threads]
    simp only [hr, hout, if_true]
    rw [forbid_lanes i (by omega)]
  case inside =>
    intro s i w r k nd h hr ht hc d n ls
    have hexec := exec_uerpl (k := k) h hr ht hc (d := d) (n := n) (ls := ls) rfl rfl rfl
    refine ⟨fun hk => by rw [hexec, if_pos hk], fun hk hfree => ?_⟩
    rw [if_neg (by omega), if_neg (by simp [hfree])] at hexec
    let writes := ls.flatMap fun l => [(l, d + k.toNat, s.rdV i l r.toNat)]
    have hmem : ∀ e ∈ writes, e.1 ∈ ls ∧ e.2.1 = d + k.toNat ∧ e.2.2 = s.rdV i e.1 r.toNat := by
      intro e he
      obtain ⟨l, hl, hel⟩ := List.mem_flatMap.mp he
      obtain rfl := List.mem_singleton.mp hel
      exact ⟨hl, rfl, rfl⟩
    let u := setVs s i.warp writes
    have huw : u.warp i.warp = some w := (setVs_warp ..).trans h.warp
    have hw1 : OnlyWarps u (ls.foldl (fun t l => t.modWarp i.warp fun w => { w with uerpl := (l, k.toNat) :: w.uerpl }) u) :=
      onlyWarps_foldl (fun t _ => onlyWarps_modWarp t _ _) ls u
    have hwarp := warp_foldl_noteReplaced (k := k.toNat) ls huw
    obtain ⟨hv, -⟩ := onlyVectors_setVs (s := s) i.warp writes
    have hreg : ∀ t : State, OnlyWarps u t → t.reg = u.reg := fun t ht => by rw [ht]
    refine ⟨_, hexec, ?written, ?others, ?mine, ?theirs, ?frame⟩
    case written =>
      intro l hl j hj
      rw [hreg _ hw1]
      refine setVs_same h.warp writes ⟨(l, d + k.toNat, s.rdV i l r.toNat), ?_, hj⟩ ?_
      · exact List.mem_flatMap.mpr ⟨l, hl, List.mem_singleton.mpr rfl⟩
      · intro e he hej
        obtain ⟨-, h2, h3⟩ := hmem e he
        rw [h2] at hej
        rw [h3, vkey_inj hej hj]
    case others =>
      intro j hj
      rw [hreg _ hw1]
      refine setVs_other h.warp writes fun e he hej => ?_
      obtain ⟨hl, h2, -⟩ := hmem e he
      exact hj e.1 hl (h2 ▸ hej)
    case mine => rw [hwarp i.warp, if_pos rfl]
    case theirs =>
      intro j hj
      rw [hwarp j, if_neg hj, setVs_warp]
    case frame =>
      rw [hw1]
      simp only [u]
      rw [hv]

/-- Settles O10, by taking the register writes of each word before its changes of the warp. -/
theorem drawClockWindowAndReplacement : Obligations.DrawClockWindowAndReplacement :=
  ⟨randomDraw, clockAndWindow, replacement⟩

end Sys2Proof.Laws
end

section
/-! PROOF of O12, O13 and O14: meeting points and parking, calls and returns, ends of threads and restart records. -/

namespace Sys2Proof.Laws

open Sys2Proof.Machine Sys2Proof.Claims

variable {s : State}

/-! ### CTRL words of threads -/

/-- A CTRL word of threads runs, whatever its predicate, when the vector register it reads may be named. -/
theorem ctrl_thread {i : Issue} {w : Warp} {t : Team} {regs : List Nat} (h : s.ReadyC i w t)
    (hr : regs = [] ∨ s.regError i regs [] = none) (ho co : Bool) (k : Issue → Warp → Team → State → State)
    (who : State → Issue → List Nat) : s.ctrl ho co regs k who = k i w t s := by
  rcases hr with rfl | hr
  · simp [State.ctrl, h.issuing, h.warp, h.team, h.threads, h.normal]
  · simp [State.ctrl, h.issuing, h.warp, h.team, h.threads, h.normal, hr]

theorem formOk_named {i : Issue} {w : Warp} {regs : List Nat} (h : FormOk s i w regs) :
    regs = [] ∨ s.regError i regs [] = none := h.imp_right And.right

theorem actingP_nodup {i : Issue} (nd : i.lanes.Nodup) (neg : BitVec 1) (pred : BitVec 3) :
    (s.actingP i neg pred).Nodup := nd.filter _

/-! ### Arriving at a packet -/

theorem thread_modThreads_one (wk l : Nat) (f : Thread → Thread) :
    (s.modThreads wk [l] f).thread wk l = (s.thread wk l).map f := by
  rw [(threadsBecome_modThreads s wk [l] f (List.nodup_singleton l)).2 wk l]
  simp

/-- Changes of threads leave a warp in its team. -/
theorem teamOf_modThreads (wk k : Nat) (ls : List Nat) (f : Thread → Thread) :
    (s.modThreads wk ls f).teamOf k = s.teamOf k := by
  have hteam : ∀ w : Warp, (ls.foldl (fun x l => x.modThread l f) w).team = w.team := by
    intro w
    induction ls generalizing w with
    | nil => rfl
    | cons l ls ih => exact ih (w.modThread l f)
  unfold State.teamOf State.modThreads
  rw [warp_modWarp]
  split
  · rename_i hk
    subst hk
    cases s.warp k with
    | none => rfl
    | some w => exact congrArg s.team (hteam w)
  · rfl

/-- What the fetch tells of a packet is no matter of the threads. -/
theorem clauseLook_modThreads (wk k x : Nat) (t : Team) (ls : List Nat) (f : Thread → Thread) :
    (s.modThreads wk ls f).clauseLook k t x = s.clauseLook k t x := rfl

theorem arrive_one {wk l : Nat} {t : Team} {th : Thread} (ht : s.teamOf wk = some t) (hth : s.thread wk l = some th) :
    (s.arrive wk [l]).thread wk l = some (th.arrived (s.clauseLook wk t (th.pc / 12))) := by
  unfold State.arrive
  rw [ht]
  dsimp only
  rw [thread_modThreads_one, hth]
  rfl

theorem goto_one {i : Issue} {t : Team} {l pc : Nat} {th : Thread} (hi : i.kind = .thread)
    (ht : s.teamOf i.warp = some t) (hth : s.thread i.warp l = some th) :
    (s.goto i [l] pc).thread i.warp l =
      some (({ th with pc := pc } : Thread).arrived (s.clauseLook i.warp t (pc / 12))) := by
  unfold State.goto
  rw [hi]
  exact arrive_one ((teamOf_modThreads ..).trans ht) ((thread_modThreads_one ..).trans (congrArg _ hth))

theorem parksAt_iff (th : Thread) : th.parksAt = true ↔ th.pc % 12 = 0 ∧ th.meet.getLsbD 31 = true ∧
    th.meet.toNat % 2 ^ 23 = th.pc / 12 ∧ th.meet.toNat / 2 ^ 23 % 256 = th.depth := by
  simp [Thread.parksAt, bits, and_assoc]

section
variable {th : Thread} {look : Option Bool}

theorem arrived_runnable (h : th.st = .runnable) : th.arrived look =
    if th.handling || !th.parksAt || look == some false then { th with due := false }
    else if look == some true then { th with st := .parked, due := false }
    else { th with due := true } := by
  simp only [Thread.arrived, h]

theorem arrived_blocked {b : Block} (h : th.st = .blocked b) : th.arrived look =
    { th with due := !th.handling && th.parksAt && look != some false } := by
  simp only [Thread.arrived, h]

theorem arrived_other (h : th.st = .parked ∨ th.st = .exited ∨ th.st = .killed) : th.arrived look = th := by
  rcases h with h | h | h <;> simp only [Thread.arrived, h]

end

theorem parking : Parking := by
  intro s i w t l pc th hi hw ht hth hpc meets look u
  let at_pc : Thread := { th with pc := pc }
  have hu : u = some (at_pc.arrived look) := goto_one hi ht hth
  have hmeets : meets ↔ at_pc.handling = false ∧ at_pc.parksAt = true := by
    rw [parksAt_iff]
    simp [meets, at_pc, hpc]
  rw [hu]
  refine ⟨fun hst hm hl => ?_, fun hst hm => ?_, fun hst hm hl => ?_, fun b hst hm hl => ?_, fun b hst hm => ?_,
    fun hst => congrArg some (arrived_other (th := at_pc) hst)⟩
  · obtain ⟨hh, hp⟩ := hmeets.mp hm
    rw [arrived_runnable (th := at_pc) hst, hh, hp, hl]
    rfl
  · rw [arrived_runnable (th := at_pc) hst, if_pos]
    rw [hmeets] at hm
    rcases hm with hm | hm
    · cases hh : at_pc.handling <;> simp_all
    · simp [hm]
  · obtain ⟨hh, hp⟩ := hmeets.mp hm
    rw [arrived_runnable (th := at_pc) hst, hh, hp, hl]
    rfl
  · obtain ⟨hh, hp⟩ := hmeets.mp hm
    rw [arrived_blocked (th := at_pc) hst, hh, hp]
    simp [at_pc, hl]
  · rw [arrived_blocked (th := at_pc) hst]
    have : (!at_pc.handling && at_pc.parksAt && look != some false) = false := by
      rw [hmeets] at hm
      rcases hm with hm | hm
      · cases hh : at_pc.handling <;> simp_all
      · simp [hm]
    rw [this]

theorem waking : Waking := by
  intro s wk l t th ht hth look
  let run : Thread := { th with st := .runnable }
  let s1 := s.modThreads wk [l] fun t => { t with st := .runnable }
  have hrun : s1.thread wk l = some run := (thread_modThreads_one ..).trans (congrArg _ hth)
  have hdue : ((s1.thread wk l).map (·.due)).getD false = th.due := by
    rw [hrun]
    rfl
  have hteam : s1.teamOf wk = some t := (teamOf_modThreads ..).trans ht
  constructor
  · intro hd
    show (s1.arrive wk ([l].filter fun l => ((s1.thread wk l).map (·.due)).getD false)).thread wk l = _
    rw [List.filter_cons_of_neg (by simp [hdue, hd]), List.filter_nil]
    unfold State.arrive
    rw [hteam]
    dsimp only
    rw [(threadsBecome_modThreads _ wk [] _ List.nodup_nil).2 wk l, hrun]
    simp [run]
  · intro hd hh hp hl
    show (s1.arrive wk ([l].filter fun l => ((s1.thread wk l).map (·.due)).getD false)).thread wk l = _
    rw [List.filter_cons_of_pos (by rw [hdue, hd]), List.filter_nil, arrive_one hteam hrun,
      show s1.clauseLook wk t (run.pc / 12) = some true from hl, arrived_runnable (th := run) rfl,
      show run.handling = false from hh, show run.parksAt = true from hp]
    rfl

/-! ### MEET and MEETX -/

theorem meetings : Meetings := by
  constructor
  · intro s i w t f nd h
    refine ⟨_, ?_, threadsBecome_modThreads s i.warp _ (fun th =>
      { th with meetout := th.meet, meet := meetWord th.depth (i.offTarget f.off) }) (actingP_nodup nd f.neg f.pred)⟩
    show execMeet f s = _
    unfold execMeet
    rw [ctrl_thread h (.inl rfl)]
  · intro s i w t f nd h hf
    refine ⟨_, ?_, threadsBecome_fold (wk := i.warp) (fun l th =>
      if f.sel = 1 then { th with meet := s.regForm i l f.tag f.reg }
      else { th with meetout := s.regForm i l f.tag f.reg }) _ (actingP_nodup nd f.neg f.pred) s⟩
    show execMeetx f s = _
    unfold execMeetx
    rw [ctrl_thread h (formOk_named hf)]

/-- Settles O12, by what the test at a new PC makes of one thread. -/
theorem meetingWordsAndParking : Obligations.MeetingWordsAndParking := ⟨parking, waking, meetings⟩

/-! ### Calls and returns -/

theorem mem_of_mem_dedup {x : Nat} {xs : List Nat} (h : x ∈ dedup xs) : x ∈ xs := by
  induction xs with
  | nil => exact h
  | cons y xs ih =>
    rcases List.mem_cons.mp h with rfl | h
    · exact List.mem_cons_self ..
    · exact List.mem_cons_of_mem _ (ih (List.mem_of_mem_filter h))

/-- A word goes on past the checks of its targets when each is a clause start on a translated page. -/
theorem withTargets_ok {i : Issue} {w : Warp} {t : Team} {xs : List Nat} (h : s.TargetsOk i w t xs)
    (k : State → State) : s.withTargets i w t xs k = k s := by
  have hfold : ∀ (ys : List Nat) (es : List Entry), (∀ y ∈ ys, s.targetCheck i w t y = (.ok, s)) → (∀ e ∈ es, e = .ok) →
      ∃ es', ys.foldl (fun (p : List Entry × State) x =>
        let (e, s) := p.2.targetCheck i w t x
        (p.1 ++ [e], s)) (es, s) = (es', s) ∧ ∀ e ∈ es', e = .ok := by
    intro ys
    induction ys with
    | nil => exact fun es _ hes => ⟨es, rfl, hes⟩
    | cons y ys ih =>
      intro es hys hes
      rw [List.foldl_cons, hys y (List.mem_cons_self ..)]
      refine ih (es ++ [.ok]) (fun z hz => hys z (List.mem_cons_of_mem _ hz)) fun e he => ?_
      rcases List.mem_append.mp he with he | he
      · exact hes e he
      · exact List.mem_singleton.mp he
  obtain ⟨es, hes, hok⟩ := hfold (dedup xs) [] (fun y hy => h y (mem_of_mem_dedup hy)) (by simp)
  obtain ⟨n, rfl⟩ : ∃ n, es = List.replicate n .ok := ⟨es.length, List.eq_replicate_of_mem hok⟩
  unfold State.withTargets
  rw [hes]
  simp [minNat?]

/-- An access whose lanes are all reached goes on. -/
theorem access_reaches {i : Issue} {w : Warp} {t : Team} {n : Nat} {a : Access} {acc : List (Nat × Nat)}
    {accs : List LaneAcc} {s1 : State} (hw : s.warp i.warp = some w) (ht : s.teamOf i.warp = some t)
    (h : s.Reaches i w t n a acc accs s1) (k : Warp → Team → List LaneAcc → State → State) :
    s.access i n a acc k = k w t accs s1 := by
  obtain ⟨htrap, hloc⟩ := h
  simp [State.access, hw, ht, htrap, hloc]

/-- The depth of a lane's thread. -/
def laneDepth (w : Warp) (l : Nat) : Nat := ((w.threads[l]?).getD (freshThread 0 0)).depth

/-- The return record of a call by the group. -/
def returnRecord (s : State) (i : Issue) : Nat :=
  (i.p + 1) % 2 ^ 23 + at_ (s.clauseSets i).1.toNat 23 + at_ (s.clauseSets i).2.toNat 27

/-- A call below the depth limit whose targets and stores pass pushes its records and branches. -/
theorem call_pushes {i : Issue} {w : Warp} {t : Team} {ls : List Nat} {target : Nat → Nat} {accs : List LaneAcc}
    {s1 s2 : State} (hw : s.warp i.warp = some w) (ht : s.teamOf i.warp = some t)
    (hd : ∀ l ∈ ls, laneDepth w l ≠ 255) (ha : s.acqWait i ls = false) (hx : s.TargetsOk i w t (ls.map target))
    (hr : s.Reaches i w t 8 .store (ls.map fun l => (l, recordAddr (laneDepth w l))) accs s1)
    (hf : s1.relFences i w.core ls = (s2, true)) :
    s.call i w t ls target = ((accs.foldl (fun (v : State) (x : LaneAcc) =>
      v.bufferWrite i.warp x.lane w.core 0 x.va x.loc (leBytes 8 (returnRecord s i))) s2).modThreads i.warp ls
        fun x => { x with depth := x.depth + 1 }).branched i ls target := by
  have hfull : (ls.filter fun l => laneDepth w l == 255) = [] :=
    List.filter_eq_nil_iff.mpr fun l hl => by simp [hd l hl]
  rcases hab : s.clauseSets i with ⟨a, b⟩
  unfold State.call
  unfold laneDepth at hfull hr
  dsimp only
  rw [hfull, hab]
  dsimp only
  rw [ha, if_neg Bool.false_ne_true, withTargets_ok hx, access_reaches hw ht hr]
  rw [hf]
  dsimp only [returnRecord, State.branched, State.passOn]
  rw [hab]

theorem call_overflows {i : Issue} {w : Warp} {t : Team} {ls : List Nat} {target : Nat → Nat} {l : Nat} {r : List Nat}
    (h : (ls.filter fun l => laneDepth w l == 255) = l :: r) : s.call i w t ls target = s.raise 0x0E (l :: r) 0 0 := by
  unfold State.call
  unfold laneDepth at h
  dsimp only
  rw [h]

theorem targetsOk_const {i : Issue} {w : Warp} {t : Team} {ls : List Nat} {x : Nat}
    (h : ls ≠ [] → s.TargetsOk i w t [x]) : s.TargetsOk i w t (ls.map fun _ => x) := by
  intro y hy
  obtain ⟨l, hl, rfl⟩ := List.mem_map.mp hy
  exact h (List.ne_nil_of_mem hl) _ (List.mem_singleton.mpr rfl)

theorem absTarget_eq (i : Issue) (f : FmtBr) :
    s.absTarget i f = fun l => (s.regForm i l f.tag f.reg).toNat % 2 ^ 23 := by
  funext l
  simp [State.absTarget, bits]

theorem calls : Calls := by
  refine ⟨?call, ?calli, ?full⟩
  case call =>
    intro s i w t f accs s1 s2 h ls depth rec_ hd ha hx hr hf
    show execCall f s = _
    unfold execCall
    have hrec : rec_ = returnRecord s i := rfl
    clear_value rec_
    rw [ctrl_thread h (.inl rfl), hrec]
    exact congrArg Host.Outcome.next (call_pushes h.warp h.team hd ha (targetsOk_const hx) hr hf)
  case calli =>
    intro s i w t f accs s1 s2 h hform ls depth x rec_ hd ha hx hr hf
    show execCalli f s = _
    unfold execCalli
    have hrec : rec_ = returnRecord s i := rfl
    clear_value rec_
    rw [ctrl_thread h (formOk_named hform), absTarget_eq, hrec]
    exact congrArg Host.Outcome.next (call_pushes h.warp h.team hd ha hx hr hf)
  case full =>
    intro s i w t l r h full
    constructor
    · intro f hfull
      show execCall f s = _
      unfold execCall
      rw [ctrl_thread h (.inl rfl)]
      exact congrArg Host.Outcome.next (call_overflows hfull)
    · intro f hform hfull
      show execCalli f s = _
      unfold execCalli
      rw [ctrl_thread h (formOk_named hform)]
      exact congrArg Host.Outcome.next (call_overflows hfull)

theorem returns : Returns := by
  constructor
  · intro s s1 s2 i w t f accs ps h ls depth hne hd ha hr hread hx
    have hzero : (ls.filter fun l => laneDepth w l == 0) = [] :=
      List.filter_eq_nil_iff.mpr fun l hl => by simp [show laneDepth w l ≠ 0 from hd l hl]
    have hin : (ps.any fun p => decide (t.vals.codelen ≤ bits (leNat (p.bytes.map fun b => b.getD 0)) 22 0)) = false := by
      rw [List.any_eq_false]
      intro p hp
      simpa [bits] using hx p hp
    show execRet f s = _
    unfold execRet
    rw [ctrl_thread h (.inl rfl)]
    unfold laneDepth at hzero
    dsimp only
    rw [hzero]
    dsimp only
    rw [if_neg (by simpa using hne), ha, if_neg Bool.false_ne_true]
    have hid : s1.startOp { blankOp i.warp .ret with lanes := ls } =
        (s1.nextId, (s1.startOp { blankOp i.warp .ret with lanes := ls }).2) := rfl
    refine congrArg Host.Outcome.next ((access_reaches h.warp h.team hr _).trans ?_)
    rw [hid]
    dsimp only
    rw [hread]
    dsimp only
    rw [hin, Bool.and_false, if_neg Bool.false_ne_true]
    rfl
  · intro s i w t f l r h hzero
    show execRet f s = _
    unfold execRet
    rw [ctrl_thread h (.inl rfl)]
    dsimp only
    rw [hzero]

/-- Settles O13, by running each word past its checks. -/
theorem callsAndReturns : Obligations.CallsAndReturns := ⟨calls, returns⟩

/-! ### Ends of threads and restart records -/

theorem exits : Exits := by
  constructor
  · intro s i w t f h hr ls u
    show execExit f s = _
    unfold execExit
    rw [ctrl_thread h (.inl rfl)]
    dsimp only
    cases hrec : w.recruit with
    | none => rfl
    | some r =>
      have hout : (s.actingP i f.neg f.pred).contains r.lane = false := by
        simpa using hr r hrec
      dsimp only
      rw [hout]
      rfl
  · intro s i w t f r h hrec hin
    show execExit f s = _
    unfold execExit
    rw [ctrl_thread h (.inl rfl), hrec]
    exact congrArg Host.Outcome.next (if_pos (List.contains_iff_mem.mpr hin))

theorem restartWords : RestartWords := by
  refine ⟨?idemb, ?ideme, ?trig⟩
  case idemb =>
    intro s i w t f nd h hstart
    let u := s.modThreads i.warp (s.actingP i f.neg f.pred) fun x =>
      { x with inside := true, rpc := i.p, rdepth := x.depth, rdraws := x.draws, idemAt := x.retired + 1 }
    suffices hexec : ∃ v, exec (.idemb f) s = .next v ∧ (v = u ∨ v = u.recordHoldings w.team) by
      obtain ⟨v, hv, hor⟩ := hexec
      exact ⟨u, v, hv, threadsBecome_modThreads s i.warp _ _ (actingP_nodup nd f.neg f.pred), hor⟩
    show ∃ v, execIdemb f s = .next v ∧ (v = u ∨ v = u.recordHoldings w.team)
    unfold execIdemb
    rw [ctrl_thread h (.inl rfl), hstart]
    refine ⟨_, rfl, ?_⟩
    dsimp only
    split
    · exact .inl rfl
    · split
      · exact .inr rfl
      · exact .inl rfl
  case ideme =>
    intro s i w t f nd h
    refine ⟨_, ?_, threadsBecome_modThreads s i.warp _ (fun x => { x with inside := false }) (actingP_nodup nd f.neg f.pred)⟩
    show execIdeme f s = _
    unfold execIdeme
    rw [ctrl_thread h (.inl rfl)]
  case trig =>
    intro s i w t f h
    show execTrig f s = _
    unfold execTrig
    rw [ctrl_thread h (.inl rfl)]

/-- Settles O14, by running each word in its acting threads. -/
theorem exitAndRestartWords : Obligations.ExitAndRestartWords := ⟨exits, restartWords⟩

end Sys2Proof.Laws
end

section
/-! PROOF of O28: bundles re-formed, parked threads released and deferred traps delivered. -/

namespace Sys2Proof.Laws

open Sys2Proof.Machine Sys2Proof.Claims

variable {s : State}

/-! ### Bundles -/

theorem reform_thread {wk l : Nat} {w : Warp} (hw : s.warp wk = some w) :
    (s.reform wk).thread wk l = (w.threads[l]?).map fun t => { t with bundle := s.bundleOf wk w w.lanes l } := by
  unfold State.reform
  rw [hw]
  simp [State.thread, warp_modWarp, hw]

/-- The runnable threads at a packet whose PCs are known, as bundles are made of them. -/
def standsAt (s : State) (wk : Nat) (w : Warp) (pc k : Nat) : Bool :=
  !s.returning wk k && ((w.threads[k]?).map fun x => x.pc == pc && x.runs).getD false

/-- A runnable thread stands in the bundle of the lowest one at its PC. -/
theorem bundleOf_runnable {wk l : Nat} {w : Warp} {a : Thread} (hl : w.threads[l]? = some a) (ha : a.st = .runnable)
    (hr : s.returning wk l = false) :
    s.bundleOf wk w w.lanes l = (w.lanes.find? (standsAt s wk w a.pc)).getD l := by
  have hret : s.retLanes wk l = none := by simpa [State.returning] using hr
  have hb : a.beside = fun x => x.pc == a.pc && x.runs := by
    funext x
    simp [Thread.beside, Thread.runs, ha, BEq.comm (a := a.pc)]
  unfold State.bundleOf
  rw [hret, hl, Option.bind_some, hb]
  rfl

theorem standsAt_self {wk l : Nat} {w : Warp} {a : Thread} (hl : w.threads[l]? = some a) (ha : a.st = .runnable)
    (hr : s.returning wk l = false) : standsAt s wk w a.pc l = true := by
  simp [standsAt, hr, hl, Thread.runs, ha]

theorem mem_lanes {w : Warp} {l : Nat} {a : Thread} (hl : w.threads[l]? = some a) : l ∈ w.lanes :=
  List.mem_range.mpr (List.getElem?_eq_some_iff.mp hl).1

/-- The lowest lane at a runnable thread's PC: it stands there, and is no higher than the thread. -/
theorem find_standsAt {wk l : Nat} {w : Warp} {a : Thread} (hl : w.threads[l]? = some a) (ha : a.st = .runnable)
    (hr : s.returning wk l = false) :
    ∃ m, w.lanes.find? (standsAt s wk w a.pc) = some m ∧ m ≤ l ∧ ∃ x, w.threads[m]? = some x ∧ x.pc = a.pc := by
  have hself := standsAt_self hl ha hr
  cases hm : w.lanes.find? (standsAt s wk w a.pc) with
  | none => exact absurd hself (List.find?_eq_none.mp hm l (mem_lanes hl))
  | some m =>
    refine ⟨m, rfl, ?_, ?_⟩
    · unfold Warp.lanes at hm
      rw [List.find?_range_eq_some] at hm
      by_contra hlt
      have := hm.2.2 l (by omega)
      simp [hself] at this
    · have hs := List.find?_some hm
      cases hx : w.threads[m]? with
      | none => simp [standsAt, hx] at hs
      | some x => exact ⟨x, rfl, by simp [standsAt, hx] at hs; exact hs.2.1⟩

theorem reforms : Reforms := by
  refine ⟨fun _ _ => rfl, fun s wk w l k a b hw hl hk ha hb hra hrb => ?_⟩
  obtain ⟨m, hm, hml, x, hx, hxa⟩ := find_standsAt hl ha hra
  obtain ⟨n, hn, -, y, hy, hyb⟩ := find_standsAt hk hb hrb
  have hbl : s.bundleOf wk w w.lanes l = m := by rw [bundleOf_runnable hl ha hra, hm]; rfl
  have hbk : s.bundleOf wk w w.lanes k = n := by rw [bundleOf_runnable hk hb hrb, hn]; rfl
  refine ⟨{ a with bundle := m }, { b with bundle := n }, ?_, ?_, rfl, ?_, hml⟩
  · rw [reform_thread hw, hl, hbl]; rfl
  · rw [reform_thread hw, hk, hbk]; rfl
  · show m = n ↔ a.pc = b.pc
    constructor
    · rintro rfl
      rw [← hxa, ← hyb, Option.some.inj (hx.symm.trans hy)]
    · intro hpc
      rw [hpc, hn] at hm
      exact (Option.some.inj hm).symm

/-! ### Released threads -/

theorem awaitedAt_iff (x : Thread) (a d : Nat) : x.awaitedAt a d = true ↔ Awaits x a d := by
  simp only [Thread.awaitedAt, Awaits, bits, pow_zero, Nat.div_one, List.mem_cons, List.not_mem_nil, or_false,
    exists_eq_or_imp, exists_eq_left, Bool.and_eq_true, Bool.or_eq_true, Bool.not_eq_true', beq_iff_eq, and_assoc,
    ← Bool.not_eq_true]
  rfl

theorem releasable_iff {w : Warp} {l : Nat} {th : Thread} (h : w.threads[l]? = some th) :
    w.releasable l = true ↔ th.st = .parked ∧ (th.freed = true ∨ ∀ x ∈ w.threads, ¬Awaits x (th.pc / 12) th.depth) := by
  simp only [Warp.releasable, h, Bool.and_eq_true, beq_iff_eq, Bool.or_eq_true, List.all_eq_true, Bool.not_eq_true',
    ← awaitedAt_iff, Bool.not_eq_true]

/-- The helper of an index in a warp of the machine. -/
def helperAt (s : State) (wk idx : Nat) : Option Helper := (s.warp wk).bind fun w => w.helper idx

theorem helperAt_congr {t : State} {k : Nat} (h : t.warp k = s.warp k) (idx : Nat) : helperAt t k idx = helperAt s k idx := by
  unfold helperAt
  rw [h]

theorem warp_wakeHelpers (wk k : Nat) : (s.wakeHelpers wk).warp k = s.warp k := by
  unfold State.wakeHelpers
  split <;> rfl

theorem helperAt_modHelper (wk i k l : Nat) (f : Helper → Helper) (hf : ∀ h, (f h).idx = h.idx) :
    helperAt (s.modHelper wk i f) k l = (helperAt s k l).map fun h => if k = wk ∧ l = i then f h else h := by
  by_cases hk : k = wk
  · subst hk
    simpa [helperAt] using helper_modHelper s k i l f hf
  · rw [helperAt_congr (s := s) (by rw [State.modHelper, warp_modWarp, if_neg hk])]
    simp [hk]

theorem helperAt_modChunk (wk c i k l : Nat) (g : Chunk → Chunk) (f : Helper → Helper) :
    helperAt (s.modRecruit wk fun r => (r.modChunk c g).modHelper i f) k l = helperAt (s.modHelper wk i f) k l := by
  simp only [helperAt, State.modRecruit, State.modHelper, warp_modWarp]
  split
  · cases s.warp wk with
    | none => rfl
    | some w => cases hr : w.recruit <;> simp [Warp.helper, hr, Recruit.modHelper, Recruit.modChunk]
  · rfl

/-- Aborting a chunk changes its helper alone. -/
theorem helperAt_abortChunk (wk idx : Nat) (st : ChunkSt) : ∃ f : Helper → Helper, ∀ k l,
    helperAt (s.abortChunk wk idx st) k l = (helperAt s k l).map fun h => if k = wk ∧ l = idx then f h else h := by
  have hid : ∃ f : Helper → Helper, ∀ k l,
      helperAt s k l = (helperAt s k l).map fun h => if k = wk ∧ l = idx then f h else h := ⟨id, by simp⟩
  unfold State.abortChunk
  split
  · exact hid
  · split
    · exact ⟨fun h => { h with buf := [], st := .free }, fun k l =>
        (helperAt_modChunk ..).trans (helperAt_modHelper wk idx k l _ fun _ => rfl)⟩
    · exact hid

/-- A helper that is forced back is being reclaimed; every other one is as it was. -/
theorem helperAt_forceBack (wk idx : Nat) : ∃ f : Helper → Helper, (∀ h, (f h).st = .reclaim) ∧ ∀ k l,
    helperAt (s.forceBack wk idx) k l = (helperAt s k l).map fun h => if k = wk ∧ l = idx then f h else h := by
  unfold State.forceBack
  cases hh : (s.warp wk).bind fun w => w.helper idx with
  | none =>
    refine ⟨fun h => { h with st := .reclaim }, fun _ => rfl, fun k l => ?_⟩
    by_cases hkl : k = wk ∧ l = idx
    · obtain ⟨rfl, rfl⟩ := hkl
      simp [helperAt, hh]
    · simp [hkl]
  | some h =>
    dsimp only
    split
    · rename_i hst
      refine ⟨fun _ => h, fun _ => hst, fun k l => ?_⟩
      by_cases hkl : k = wk ∧ l = idx
      · obtain ⟨rfl, rfl⟩ := hkl
        simp [helperAt, hh]
      · simp [hkl]
    · obtain ⟨f, hf⟩ := helperAt_abortChunk (s := s) wk idx .unclaimed
      refine ⟨fun h => { f h with st := .reclaim }, fun _ => rfl, fun k l => ?_⟩
      have hw : ∀ t : State, helperAt ((t.wakeHelpers wk).pend (.forcedReleaseReturn wk idx)) k l = helperAt t k l :=
        fun t => helperAt_congr (warp_wakeHelpers (s := t) wk k) l
      rw [hw, helperAt_modHelper wk idx k l (fun h => { h with st := .reclaim }) fun _ => rfl, hf]
      cases helperAt s k l with
      | none => rfl
      | some x => by_cases hkl : k = wk ∧ l = idx <;> simp [hkl]

theorem thread_modRecruit (wk k l : Nat) (f : Recruit → Recruit) : (s.modRecruit wk f).thread k l = s.thread k l := by
  simp only [State.thread, State.modRecruit, warp_modWarp]
  split
  · rename_i hk
    subst hk
    cases s.warp k <;> rfl
  · rfl

theorem thread_abortChunk (wk idx k l : Nat) (st : ChunkSt) : (s.abortChunk wk idx st).thread k l = s.thread k l := by
  unfold State.abortChunk
  split
  · rfl
  · split
    · exact thread_modRecruit ..
    · rfl

theorem thread_forceBack (wk idx k l : Nat) : (s.forceBack wk idx).thread k l = s.thread k l := by
  unfold State.forceBack
  split
  · rfl
  · split
    · rfl
    · show (State.wakeHelpers _ wk).thread k l = _
      unfold State.thread
      rw [warp_wakeHelpers]
      exact (thread_modRecruit ..).trans (thread_abortChunk ..)

/-- The lanes of a list of helpers are forced back, one after the other. -/
def forceBacks (s : State) (lent : List (Nat × Nat × Nat)) : State := lent.foldl (fun s e => s.forceBack e.2.1 e.2.2) s

theorem thread_forceBacks (lent : List (Nat × Nat × Nat)) (k l : Nat) : (forceBacks s lent).thread k l = s.thread k l := by
  induction lent generalizing s with
  | nil => rfl
  | cons e lent ih => exact ih.trans (thread_forceBack ..)

theorem forceBacks_reclaims {o idx : Nat} {h : Helper} (lent : List (Nat × Nat × Nat)) (hh : helperAt s o idx = some h)
    (hin : h.st = .reclaim ∨ ∃ e ∈ lent, e.2 = (o, idx)) :
    ∃ h', helperAt (forceBacks s lent) o idx = some h' ∧ h'.st = .reclaim := by
  induction lent generalizing s h with
  | nil => exact ⟨h, hh, by simpa using hin⟩
  | cons e lent ih =>
    obtain ⟨f, hf, hat⟩ := helperAt_forceBack (s := s) e.2.1 e.2.2
    have hnext := hat o idx
    rw [hh, Option.map_some] at hnext
    refine ih hnext ?_
    by_cases he : o = e.2.1 ∧ idx = e.2.2
    · rw [if_pos he]
      exact .inl (hf h)
    · rw [if_neg he]
      rcases hin with hin | ⟨x, hx, hxe⟩
      · exact .inl hin
      · rcases List.mem_cons.mp hx with rfl | hx
        · exact absurd ⟨by rw [hxe], by rw [hxe]⟩ he
        · exact .inr ⟨x, hx, hxe⟩

/-! ### PARK_RELEASE -/

/-- The set of a parked lane: its packet and depth, as one number. -/
def setKey (w : Warp) (l : Nat) : Nat := ((w.threads[l]?).map fun t => t.pc * 256 + t.depth).getD 0

/-- The releasable lanes of a warp. -/
def releasableLanes (w : Warp) : List Nat := (w.lanesWhere fun t => t.st == .parked).filter fun l => w.releasable l

/-- Their lent lanes: set, the warp that they work for, and their index there. -/
def lentLanes (s : State) (wk : Nat) (w : Warp) : List (Nat × Nat × Nat) :=
  (releasableLanes w).filterMap fun l => (s.lentFrom wk l).map fun x => (setKey w l, x)

/-- Is a lane of a releasable lane's set lent? -/
def setHeld (s : State) (wk : Nat) (w : Warp) (l : Nat) : Bool := (lentLanes s wk w).any fun e => e.1 == setKey w l

theorem parkRelease_eq {wk : Nat} {w : Warp} (hw : s.warp wk = some w) : s.parkRelease wk =
    ((forceBacks s (lentLanes s wk w)).modThreads wk ((releasableLanes w).filter (setHeld s wk w)) fun t =>
      { t with freed := true }).modThreads wk ((releasableLanes w).filter fun l => !setHeld s wk w l) Thread.release := by
  unfold State.parkRelease
  rw [hw]
  rfl

theorem mem_releasableLanes {w : Warp} {l : Nat} : l ∈ releasableLanes w ↔ w.releasable l = true := by
  constructor
  · exact fun h => (List.mem_filter.mp h).2
  · intro h
    refine List.mem_filter.mpr ⟨?_, h⟩
    unfold Warp.releasable at h
    cases hl : w.threads[l]? with
    | none => simp [hl] at h
    | some t =>
      simp only [hl, Bool.and_eq_true] at h
      exact List.mem_filter.mpr ⟨mem_lanes hl, by simp [hl, h.1]⟩

theorem nodup_releasableLanes (w : Warp) : (releasableLanes w).Nodup := (List.nodup_range.filter _).filter _

theorem mem_lentLanes {wk : Nat} {w : Warp} {e : Nat × Nat × Nat} : e ∈ lentLanes s wk w ↔
    ∃ k, w.releasable k = true ∧ s.lentFrom wk k = some e.2 ∧ setKey w k = e.1 := by
  obtain ⟨a, x⟩ := e
  simp only [lentLanes, List.mem_filterMap, Option.map_eq_some_iff, mem_releasableLanes, Prod.mk.injEq]
  constructor
  · rintro ⟨k, hk, y, hy, rfl, rfl⟩
    exact ⟨k, hk, hy, rfl⟩
  · rintro ⟨k, hk, hy, rfl⟩
    exact ⟨k, hk, x, hy, rfl, rfl⟩

theorem setHeld_iff {wk : Nat} {w : Warp} {l : Nat} : setHeld s wk w l = true ↔
    ∃ k, (w.releasable k = true ∧ (s.lentFrom wk k).isSome = true) ∧ setKey w k = setKey w l := by
  simp only [setHeld, List.any_eq_true, mem_lentLanes, beq_iff_eq, Option.isSome_iff_exists]
  constructor
  · rintro ⟨e, ⟨k, hk, hx, hs⟩, he⟩
    exact ⟨k, ⟨hk, _, hx⟩, hs.trans he⟩
  · rintro ⟨k, ⟨hk, x, hx⟩, hs⟩
    exact ⟨(setKey w k, x), ⟨k, hk, hx, rfl⟩, hs⟩

/-- What PARK_RELEASE makes of one thread. -/
theorem thread_parkRelease {wk l : Nat} {w : Warp} {th : Thread} (hw : s.warp wk = some w) (hl : w.threads[l]? = some th) :
    (s.parkRelease wk).thread wk l = some (
      if w.releasable l then if setHeld s wk w l then { th with freed := true } else th.release else th) := by
  have hth : s.thread wk l = some th := by simp [State.thread, hw, hl]
  rw [parkRelease_eq hw, (threadsBecome_modThreads _ wk _ _ ((nodup_releasableLanes w).filter _)).2 wk l,
    (threadsBecome_modThreads _ wk _ _ ((nodup_releasableLanes w).filter _)).2 wk l, thread_forceBacks, hth]
  simp only [List.mem_filter, mem_releasableLanes, true_and, Option.map_some]
  cases hr : w.releasable l <;> cases hh : setHeld s wk w l <;> simp

/-- A warp's helpers are no matter of its threads. -/
theorem helperAt_modThreads (wk k l : Nat) (ls : List Nat) (f : Thread → Thread) :
    helperAt (s.modThreads wk ls f) k l = helperAt s k l := by
  have hrec : ∀ w : Warp, (ls.foldl (fun x l => x.modThread l f) w).recruit = w.recruit := by
    intro w
    induction ls generalizing w with
    | nil => rfl
    | cons l ls ih => exact ih (w.modThread l f)
  simp only [helperAt, State.modThreads, warp_modWarp]
  split
  · rename_i hk
    subst hk
    cases s.warp k with
    | none => rfl
    | some w => simp only [Option.map_some, Option.bind_some, Warp.helper, hrec]
  · rfl

theorem setKey_inj {w : Warp} {k l : Nat} {th : Thread} (hd : ∀ x ∈ w.threads, x.depth < 256)
    (hl : w.threads[l]? = some th) (hk : (w.threads[k]?).isSome = true) (h : setKey w k = setKey w l) :
    ((w.threads[k]?).map fun x => (x.pc, x.depth)) = (w.threads[l]?).map fun x => (x.pc, x.depth) := by
  obtain ⟨x, hx⟩ := Option.isSome_iff_exists.mp hk
  have hdx := hd x (List.mem_of_getElem? hx)
  have hdl := hd th (List.mem_of_getElem? hl)
  simp only [setKey, hx, hl, Option.map_some, Option.getD_some, Option.some.injEq, Prod.mk.injEq] at h ⊢
  omega

theorem isSome_of_releasable {w : Warp} {k : Nat} (h : w.releasable k = true) : (w.threads[k]?).isSome = true := by
  unfold Warp.releasable at h
  cases hk : w.threads[k]? with
  | none => simp [hk] at h
  | some t => rfl

theorem releases : Releases := by
  refine ⟨fun w l th h => releasable_iff h, fun s wk l w th hw hl => ?_⟩
  intro u set lent
  have hu : u.thread wk l = some (
      if w.releasable l then if setHeld s wk w l then { th with freed := true } else th.release else th) :=
    thread_parkRelease hw hl
  refine ⟨fun hr => by rw [hu, hr]; rfl, fun hr hd hno => ?_, fun hr hyes => ?_, fun hnone => ?_,
    fun o idx h v hr hlent ho hh => ?_⟩
  · have hfree : setHeld s wk w l = false := by
      rw [Bool.eq_false_iff, Ne, setHeld_iff]
      rintro ⟨k, hk, hkl⟩
      exact hno k hk (setKey_inj hd hl (isSome_of_releasable hk.1) hkl)
    rw [hu, hr, hfree]
    rfl
  · have hheld : setHeld s wk w l = true := by
      obtain ⟨k, hk, hkl⟩ := hyes
      refine setHeld_iff.mpr ⟨k, hk, ?_⟩
      obtain ⟨x, hx⟩ := Option.isSome_iff_exists.mp (isSome_of_releasable hk.1)
      have hkl : (x.pc, x.depth) = (th.pc, th.depth) := by simpa [set, hx, hl] using hkl
      simp only [Prod.mk.injEq] at hkl
      simp [setKey, hx, hl, hkl]
    rw [hu, hr, hheld]
    rfl
  · have hlent : lentLanes s wk w = [] := by
      refine List.eq_nil_iff_forall_not_mem.mpr fun e he => ?_
      obtain ⟨k, hk, hx, -⟩ := mem_lentLanes.mp he
      exact hnone k ⟨hk, by rw [hx]; rfl⟩
    show OnlyThreads s (s.parkRelease wk)
    rw [parkRelease_eq hw, hlent]
    exact onlyThreads_trans (threadsBecome_modThreads s wk _ _ ((nodup_releasableLanes w).filter _)).1
      (threadsBecome_modThreads _ wk _ _ ((nodup_releasableLanes w).filter _)).1
  · have hat : helperAt s o idx = some h := by simp [helperAt, ho, hh]
    obtain ⟨h', hh', hst⟩ := forceBacks_reclaims (lentLanes s wk w) hat
      (.inr ⟨(setKey w l, o, idx), mem_lentLanes.mpr ⟨l, hr, hlent, rfl⟩, rfl⟩)
    have hu' : helperAt u o idx = some h' := by
      show helperAt (s.parkRelease wk) o idx = _
      rw [parkRelease_eq hw, helperAt_modThreads, helperAt_modThreads, hh']
    obtain ⟨v', hv', hvh⟩ := Option.bind_eq_some_iff.mp hu'
    exact ⟨v', h', hv', hvh, hst⟩

/-! ### Deferred traps -/

theorem tmod_tmod {α : Type} (t : Tab α) (k : Nat) (f g : α → α) : tmod (tmod t k f) k g = tmod t k (g ∘ f) := by
  induction t with
  | nil => rfl
  | cons e t ih =>
    obtain ⟨j, v⟩ := e
    by_cases h : j = k <;> simp [tmod, h, ih]

theorem modWarp_modWarp (k : Nat) (f g : Warp → Warp) : (s.modWarp k f).modWarp k g = s.modWarp k (g ∘ f) := by
  simp only [State.modWarp, tmod_tmod]

/-- Can a warp take a deferred trap, as it stands with its handler? -/
def trapReady (w : Warp) (d : Deferred) : Bool :=
  match w.trap with
  | .idle => true
  | .handling => !d.again
  | .entering _ => false

theorem trapReady_iff (w : Warp) (d : Deferred) :
    trapReady w d = true ↔ w.trap = .idle ∨ (w.trap = .handling ∧ d.again = false) := by
  unfold trapReady
  cases w.trap <;> simp

/-- The live threads that a deferred trap names, rising. -/
def liveNamed (w : Warp) (d : Deferred) : List Nat :=
  sortNat (d.lanes.filter fun l => ((w.threads[l]?).map Thread.live).getD false)

theorem deliverOne_dropped {wk : Nat} {w : Warp} {d : Deferred} (hw : s.warp wk = some w) (hl : liveNamed w d = []) :
    s.deliverOne wk d = (true, s.modWarp wk fun w => { w with deferred := w.deferred.erase d }) := by
  unfold liveNamed at hl
  unfold State.deliverOne
  rw [hw]
  dsimp only
  rw [hl]
  rfl

theorem deliverOne_live {wk l : Nat} {r : List Nat} {w : Warp} {d : Deferred} {th : Thread} (hw : s.warp wk = some w)
    (hl : liveNamed w d = l :: r) (hth : w.threads[l]? = some th) :
    s.deliverOne wk d = if !trapReady w d || !th.runs || s.returning wk l then (false, s) else
      let b := s.bundleLanes wk th.bundle
      let marked := (liveNamed w d).filter fun x => b.contains x
      let rest := (liveNamed w d).filter fun x => !b.contains x
      (true, (s.modWarp wk fun w => { w with
          deferred := (if rest = [] then [] else
            [{ d with lanes := rest, again := true, dests := d.dests.filter fun x => !marked.contains x.1 }]) ++
              w.deferred.erase d
          uedests := d.dests.filter fun x => marked.contains x.1 }).takeTrap wk b {
        cause := d.cause, pc := th.pc, mask := marked, addr := ((d.addrs.find? fun x => x.1 == l).map (·.2)).getD 0
        info := d.info, uerec := d.uerec }) := by
  rw [hl]
  unfold liveNamed at hl
  unfold State.deliverOne
  rw [hw]
  dsimp only
  rw [hl]
  dsimp only
  rw [hth]
  simp only [modWarp_modWarp, List.isEmpty_iff]
  rfl

/-- A deferred trap that is not taken changes nothing. -/
theorem deliverOne_waits {wk : Nat} {d : Deferred} (h : (s.deliverOne wk d).1 = false) : s.deliverOne wk d = (false, s) := by
  unfold State.deliverOne at h ⊢
  dsimp only at h ⊢
  repeat' split
  all_goals simp_all

/-- Deferred traps none of which can be taken are passed by. -/
theorem deliver_passes {wk : Nat} (ds : List Deferred) (h : ∀ d ∈ ds, (s.deliverOne wk d).1 = false) :
    ds.foldl (fun (p : Bool × State) d => if p.1 then p else p.2.deliverOne wk d) (false, s) = (false, s) := by
  induction ds with
  | nil => rfl
  | cons d ds ih =>
    rw [List.foldl_cons, if_neg Bool.false_ne_true, deliverOne_waits (h d (List.mem_cons_self ..))]
    exact ih fun x hx => h x (List.mem_cons_of_mem _ hx)

/-- Once one is taken, the others wait. -/
theorem deliver_taken {wk : Nat} (ds : List Deferred) :
    ds.foldl (fun (p : Bool × State) d => if p.1 then p else p.2.deliverOne wk d) (true, s) = (true, s) := by
  induction ds with
  | nil => rfl
  | cons d ds ih => exact ih

theorem deliveries : Deliveries := by
  refine ⟨fun s wk w d hw => ?one, fun s wk w hw hnone => ?none, fun s t wk w before after d hw hds hbefore hd => ?first⟩
  case one =>
    intro lives ready
    refine ⟨fun hl => deliverOne_dropped hw hl, fun l r th hl hth => ⟨fun hno => ?_, fun hready hruns hret => ?_⟩⟩
    · rw [deliverOne_live hw hl hth, if_pos]
      rcases hno with hno | hno | hno
      · have : trapReady w d = false := by rw [Bool.eq_false_iff, Ne, trapReady_iff]; exact hno
        simp [this]
      · simp [hno]
      · simp [hno]
    · have : trapReady w d = true := (trapReady_iff w d).mpr hready
      rw [deliverOne_live hw hl hth, if_neg (by simp [this, hruns, hret])]
      rfl
  case none =>
    unfold State.deliver
    rw [hw]
    dsimp only
    rw [deliver_passes w.deferred hnone]
  case first =>
    unfold State.deliver
    rw [hw]
    dsimp only
    rw [hds, List.foldl_append, deliver_passes before hbefore, List.foldl_cons, if_neg Bool.false_ne_true, hd,
      deliver_taken]

/-- Settles O28, thread by thread for the bundles and the releases, and trap by trap for the deliveries. -/
theorem bundlesReform : Obligations.BundlesReform := ⟨reforms, releases, deliveries⟩

end Sys2Proof.Laws
end

section
/-! PROOF of O55: the first bundle of a scheduler's turn, in the order of its warps and of R17. -/

namespace Sys2Proof.Laws

open Sys2Proof.Machine Sys2Proof.Claims

variable {s : State}

/-! ### The order of R17 -/

/-- `b` comes no earlier than `a` in the order of R17. -/
def RankLe (a b : Cand) : Prop := b.passover < a.passover ∨ (b.passover = a.passover ∧ a.pc ≤ b.pc)

theorem RankLe.trans {a b c : Cand} (h : RankLe a b) (g : RankLe b c) : RankLe a c := by
  unfold RankLe at *
  omega

theorem insertCand_perm (c : Cand) (l : List Cand) : (insertCand c l).Perm (c :: l) := by
  induction l with
  | nil => exact .refl _
  | cons d r ih =>
    unfold insertCand
    split
    · exact .refl _
    · exact (ih.cons d).trans (.swap c d r)

theorem insertCand_sorted (c : Cand) {l : List Cand} (h : l.Pairwise RankLe) : (insertCand c l).Pairwise RankLe := by
  induction l with
  | nil => exact List.pairwise_singleton ..
  | cons d r ih =>
    obtain ⟨hd, hr⟩ := List.pairwise_cons.mp h
    unfold insertCand
    split
    next hlt =>
      have hcd : RankLe c d := hlt.imp_right (And.imp_right Nat.le_of_lt)
      refine List.pairwise_cons.mpr ⟨fun x hx => ?_, h⟩
      rcases List.mem_cons.mp hx with rfl | hx
      · exact hcd
      · exact hcd.trans (hd x hx)
    next hge =>
      have hdc : RankLe d c := by
        unfold RankLe
        omega
      refine List.pairwise_cons.mpr ⟨fun x hx => ?_, ih hr⟩
      rcases List.mem_cons.mp ((insertCand_perm c r).mem_iff.mp hx) with rfl | hx
      · exact hdc
      · exact hd x hx

theorem rankCands_perm (l : List Cand) : (rankCands l).Perm l := by
  induction l with
  | nil => exact .refl _
  | cons c r ih => exact (insertCand_perm c _).trans (ih.cons c)

theorem rankCands_sorted (l : List Cand) : (rankCands l).Pairwise RankLe := by
  induction l with
  | nil => exact .nil
  | cons c r ih => exact insertCand_sorted c ih

/-! ### The bundles of a warp -/

/-- A bundle to be tried holds a lane, and its threads are runnable at its PC. -/
theorem warpCands_runnable {wk : Nat} {w : Warp} {c : Cand} (h : c ∈ s.warpCands wk w) :
    c.lanes ≠ [] ∧ ∀ l ∈ c.lanes, ∃ th, w.threads[l]? = some th ∧ th.st = .runnable ∧ th.pc = c.pc := by
  unfold State.warpCands at h
  extract_lets rs th firsts at h
  obtain ⟨l, hl, rfl⟩ := List.mem_map.mp h
  have hlrs : l ∈ rs := (List.mem_filter.mp hl).1
  refine ⟨List.ne_nil_of_mem (a := l) (List.mem_filter.mpr ⟨hlrs, by simp⟩), fun x hx => ?_⟩
  obtain ⟨hxrs, hsame⟩ := List.mem_filter.mp hx
  simp only [Bool.and_eq_true, beq_iff_eq] at hsame
  obtain ⟨t, ht, hruns⟩ : ∃ t, w.threads[x]? = some t ∧ t.runs = true := by
    have hx := (List.mem_filter.mp (List.mem_filter.mp hxrs).1).2
    cases ht : w.threads[x]? with
    | none => simp [ht] at hx
    | some t =>
      simp only [ht, Option.map_some, Option.getD_some, Bool.and_eq_true] at hx
      exact ⟨t, rfl, hx.1⟩
  refine ⟨t, ht, by simpa [Thread.runs] using hruns, ?_⟩
  have hpc : (th x).2.1 = t.pc := by simp [th, ht]
  exact hpc.symm.trans hsame.2

/-! ### What posting and discarding leaves of the teams -/

theorem teams_foldl {α : Type} (f : State → α → State) (hf : ∀ t a, (f t a).teams = t.teams) (l : List α) (s : State) :
    (l.foldl f s).teams = s.teams :=
  foldl_keeps (fun t => t.teams = s.teams) (fun t a h => (hf t a).trans h) l rfl

theorem noteWritten_teams (s : State) (a n : Nat) : (s.noteWritten a n).teams = s.teams := by
  unfold State.noteWritten
  split <;> rfl

theorem settleWr_teams (s : State) (w : HWr) : (s.settleWr w).teams = s.teams :=
  teams_foldl (fun t (e : Nat × Byte) => t.noteWritten e.1 1) (fun _ _ => noteWritten_teams _ _ _) _ _

theorem settleBlock_teams (s : State) (b : Nat) : (s.settleBlock b).teams = s.teams := by
  unfold State.settleBlock
  split
  · rfl
  · exact settleWr_teams _ _

theorem settleBlockAll_teams (s : State) (b : Nat) : (s.settleBlockAll b).teams = s.teams :=
  teams_foldl _ (fun t _ => settleBlock_teams t b) _ _

theorem noteDropped_teams (s : State) (a n : Nat) : (s.noteDropped a n).teams = s.teams := by
  unfold State.noteDropped
  split <;> rfl

theorem noteWhole_teams (s : State) (a n : Nat) : (s.noteWhole a n).teams = s.teams := by
  unfold State.noteWhole
  split <;> rfl

theorem finalWrite_teams (s : State) (a : Nat) (l : List Byte) : (s.finalWrite a l).teams = s.teams :=
  (noteWhole_teams _ _ _).trans ((noteDropped_teams _ _ _).trans (teams_foldl _ settleBlockAll_teams _ s))

theorem ucWrite_teams (s : State) (a : Nat) (l : List Byte) : (s.ucWrite a l).teams = s.teams :=
  teams_foldl _ (fun t _ => finalWrite_teams t _ _) _ s

theorem homeWrite_teams (s : State) (l : List (Nat × Byte)) : (s.homeWrite l).teams = s.teams := by
  cases l <;> rfl

theorem pushByte_teams (s : State) (c pa : Nat) : (s.pushByte c pa).teams = s.teams := by
  unfold State.pushByte
  split
  · rfl
  · exact homeWrite_teams s _

theorem pushCore_teams (s : State) (c : Nat) : (s.pushCore c).teams = s.teams :=
  teams_foldl _ (fun t _ => teams_foldl _ (fun t _ => pushByte_teams t c _) _ t) _ s

theorem corePut_teams (s : State) (c : Nat) (l : List (Nat × Byte)) : (s.corePut c l).teams = s.teams := by
  cases l <;> rfl

theorem coreWrite_teams (s : State) (c pa : Nat) (l : List Byte) : (s.coreWrite c pa l).teams = s.teams :=
  teams_foldl _ (fun t => corePut_teams t c) _ s

theorem spadStore_teams (s : State) (wk c o : Nat) (l : List Byte) : (s.spadStore wk c o l).teams = s.teams := by
  unfold State.spadStore
  split <;> rfl

theorem onchipSet_teams (s : State) (c o : Nat) (b : Byte) (k : Nat) : (s.onchipSet c o b k).teams = s.teams := by
  unfold State.onchipSet
  dsimp only
  split <;> rfl

theorem onchipWrite_teams (s : State) (c o : Nat) (l : List Byte) : (s.onchipWrite c o l).teams = s.teams :=
  teams_foldl (fun t (e : Nat × Byte) => t.onchipSet c (o + e.1) e.2 s.nextId)
    (fun _ _ => onchipSet_teams _ _ _ _ _) _ s.fresh.2

theorem noteMigr_teams (s : State) (p : Migr → Bool) : (s.noteMigr p).teams = s.teams := by
  unfold State.noteMigr
  split <;> rfl

theorem skSend_teams (s : State) (m : Msg) (c va : Nat) (who : SkWho) : (s.skSend m c va who).1.teams = s.teams := by
  unfold State.skSend
  dsimp only
  split
  · rfl
  · show (if m.op = 0 then _ else _ : State).teams = s.teams
    split
    · rfl
    · exact noteMigr_teams _ _

theorem peerFloor_teams (s : State) (a : Agent) (d pa n : Nat) : (s.peerFloor a d pa n).teams = s.teams :=
  teams_foldl (fun t i => t.raiseFloor a (peerKey d pa + i) t.stampCtr) (fun _ _ => rfl) _ s

theorem postWr_teams (s : State) (w : Wr) (c : Nat) : (s.postWr w c).teams = s.teams := by
  unfold State.postWr
  dsimp only
  split
  · exact spadStore_teams _ _ _ _ _
  · exact onchipWrite_teams _ _ _ _
  · exact coreWrite_teams _ _ _ _
  · exact coreWrite_teams _ _ _ _
  · rfl
  · exact ucWrite_teams _ _ _
  · exact noteMigr_teams _ _
  · exact (peerFloor_teams _ _ _ _ _).trans (skSend_teams _ _ _ _ _)

theorem postWarp_teams (s : State) (wk : Nat) : (s.postWarp wk).teams = s.teams :=
  teams_foldl _ (fun t w => postWr_teams t w _) _ s

theorem leaveWarp_teams (s : State) (wk : Nat) : ((s.postWarp wk).leaveBatches wk).teams = s.teams := postWarp_teams s wk

theorem removeTeam_teams (s : State) (tk : Nat) {e : Nat × Team} (h : e ∈ (s.removeTeam tk).teams) : e ∈ s.teams := by
  unfold State.removeTeam at h
  split at h
  · exact h
  · have h := mem_terase h
    rwa [pushCore_teams, teams_foldl (fun t w => (t.postWarp w).leaveBatches w) leaveWarp_teams] at h

theorem mem_tmod {α : Type} {t : Tab α} {k : Nat} {f : α → α} {e : Nat × α} (h : e ∈ tmod t k f) :
    e ∈ t ∨ ∃ v, (k, v) ∈ t ∧ e = (k, f v) := by
  induction t with
  | nil => exact .inl h
  | cons d r ih =>
    obtain ⟨j, v⟩ := d
    unfold tmod at h
    split at h
    next hjk =>
      rcases List.mem_cons.mp h with rfl | h
      · exact .inr ⟨v, hjk ▸ List.mem_cons_self, by rw [hjk]⟩
      · exact .inl (List.mem_cons_of_mem _ h)
    next =>
      rcases List.mem_cons.mp h with rfl | h
      · exact .inl List.mem_cons_self
      · exact (ih h).imp (List.mem_cons_of_mem _) fun ⟨v, hv, he⟩ => ⟨v, List.mem_cons_of_mem _ hv, he⟩

theorem mem_of_tget {α : Type} {t : Tab α} {k : Nat} {v : α} (h : tget t k = some v) : (k, v) ∈ t := by
  induction t with
  | nil => cases h
  | cons d r ih =>
    obtain ⟨j, w⟩ := d
    unfold tget at h
    split at h
    next hjk =>
      cases h
      exact hjk ▸ List.mem_cons_self
    next => exact List.mem_cons_of_mem _ (ih h)

/-! ### A pre-emption's moment makes no team deterministic -/

/-- No team is deterministic. -/
def NoDet (s : State) : Prop := ∀ e ∈ s.teams, e.2.det = none

theorem NoDet.team {k : Nat} {t : Team} (h : NoDet s) (ht : s.team k = some t) : t.det = none :=
  h (k, t) (mem_of_tget ht)

theorem NoDet.of_teams {t : State} (h : NoDet s) (ht : t.teams = s.teams) : NoDet t := fun e he => h e (ht ▸ he)

theorem noDet_discardTeam (tk : Nat) (h : NoDet s) : NoDet (s.discardTeam tk) := by
  unfold State.discardTeam
  split
  · exact h
  · exact fun e he => h e (removeTeam_teams s tk he)

theorem noDet_performIdembs (tk : Nat) (h : NoDet s) : NoDet (s.performIdembs tk) := by
  unfold State.performIdembs
  split
  · exact h
  next t _ =>
    extract_lets u
    have hu : NoDet u := foldl_keeps NoDet (fun r e hr => by split <;> exact hr) _ h
    clear_value u
    unfold State.recordHoldings
    split
    · exact hu
    · intro e he
      rcases mem_tmod he with he | ⟨v, hv, rfl⟩
      · exact hu e he
      · exact hu (tk, v) hv

theorem noDet_preemptPoll (c : Nat) (h : NoDet s) : NoDet (s.preemptPoll c) := by
  have hstep : ∀ (r : State) (l : List (Nat × Team)), NoDet r →
      NoDet (l.foldl (fun s f => (s.performIdembs f.1).discardTeam f.1) r) := fun r l hr =>
    foldl_keeps NoDet (fun _ _ h => noDet_discardTeam _ (noDet_performIdembs _ h)) l hr
  unfold State.preemptPoll
  split
  · exact h
  · split
    · exact h
    · extract_lets u
      have hu : NoDet u := by
        refine foldl_keeps NoDet (fun r e hr => ?_) _ h
        split
        · exact hr
        · split
          · extract_lets ts round v
            split
            · exact hstep r ts hr
            · exact hr
          · split
            · exact noDet_discardTeam _ hr
            · exact hr
      clear_value u
      split <;> exact hu

/-! ### One selection -/

theorem detRetry_noDet (g : Nat) (h : NoDet s) : s.detRetry g = s := by
  have hnone : (s.teams.filter fun e => e.2.core == g / 6 && (e.2.det.map (·.switching)).getD false) = [] :=
    List.filter_eq_nil_iff.mpr fun e he => by simp [h e he]
  unfold State.detRetry
  rw [hnone]
  rfl

/-- A warp that may issue, and whose first bundle does, is what the selection takes. -/
theorem tryWarp_first {ex : Instr → State → State} {v : State} {wk : Nat} {w : Warp} {t : Team} {c : Cand} {cs : List Cand}
    (hw : s.warp wk = some w) (ht : s.teamOf wk = some t) (hmay : s.mayIssue w t = true) (hf : w.fault = .none)
    (hdc : w.dcPending = false) (hdet : t.det = none) (hc : rankCands (s.warpCands wk w) = c :: cs)
    (hiss : s.issueWith ex wk .thread c.lanes c.pc true = (true, v)) : s.tryWarp ex wk = (some cs, v) := by
  have htry : s.tryCands ex wk .thread true (c :: cs) = (some (c, cs), v) := by
    unfold State.tryCands
    rw [hiss]
  unfold State.tryWarp
  simp only [hw, ht, hmay, hf, hdc, hdet, hc, htry, Bool.not_true, Bool.false_eq_true, if_false]

/-- What a turn's bookkeeping keeps: memory, registers, operations and every thread. -/
def KeepsWork (t v : State) : Prop := t.m = v.m ∧ t.reg = v.reg ∧ t.ops = v.ops ∧ ∀ k l, t.thread k l = v.thread k l

theorem KeepsWork.refl (v : State) : KeepsWork v v := ⟨rfl, rfl, rfl, fun _ _ => rfl⟩

theorem KeepsWork.soon {t v : State} (h : KeepsWork t v) (i : Instr) : KeepsWork (t.soon i) v := h

theorem KeepsWork.modSched {t v : State} (h : KeepsWork t v) (g : Nat) (f : Sched → Sched) : KeepsWork (t.modSched g f) v := h

/-- A warp's turn is no part of its threads. -/
theorem KeepsWork.yielded {t v : State} (h : KeepsWork t v) (k : Nat) :
    KeepsWork (t.modWarp k fun w => { w with yielded := false }) v := by
  obtain ⟨hm, hreg, hops, hth⟩ := h
  refine ⟨hm, hreg, hops, fun j l => (hth j l).symm ▸ ?_⟩
  unfold State.thread
  rw [warp_modWarp]
  split
  next hj =>
    subst hj
    cases t.warp j <;> rfl
  next => rfl

/-- The first entity of a rotation that issues is selected, and nothing else of the turn touches the work done. -/
theorem tryRotation_first {ex : Instr → State → State} {v : State} {g cls e : Nat} {rest : List (Nat × Nat)}
    {cs : List Cand} (h : s.tryEntity ex e = (some cs, v)) : KeepsWork (s.tryRotation ex g ((cls, e) :: rest)) v := by
  unfold State.tryRotation
  rw [h]
  exact foldl_keeps (fun t => KeepsWork t v) (fun t x ht => ht.yielded x.1) _ ((KeepsWork.refl v).modSched g _)

theorem tryEntity_warp (ex : Instr → State → State) (s : State) (wk : Nat) : s.tryEntity ex (2 * wk) = s.tryWarp ex wk := by
  unfold State.tryEntity
  rw [if_pos (Nat.mul_mod_right 2 wk), Nat.mul_div_cancel_left wk Nat.two_pos]

/-- Settles O55: where no team is deterministic nothing stands between the poll of the pre-emptions and the rotation, whose
first bundle issues; the ranking is an insertion sort; a bundle is a filter of the warp's running threads. -/
theorem schedulersSelect : Obligations.SchedulersSelect := by
  refine ⟨?turn, fun l => ⟨rankCands_perm l, rankCands_sorted l⟩, fun s wk w c h => warpCands_runnable h⟩
  case turn =>
    intro s v g cls wk sc w t c cs rest hsc hsel hdet u hrot hw ht hmay hf hdc hc hiss
    have hu : NoDet u := foldl_keeps NoDet (fun r e hr => noDet_preemptPoll e.1 hr) _ hdet
    have htd : t.det = none := by
      unfold State.teamOf at ht
      rw [hw] at ht
      exact hu.team ht
    have hfirst := tryRotation_first (g := g) (cls := cls) (rest := rest)
      ((tryEntity_warp run u wk).trans (tryWarp_first hw ht hmay hf hdc htd hc hiss))
    have hturn : s.schedTurn run g = (let r := u.tryRotation run g ((cls, 2 * wk) :: rest)
        if (sc.cycle + 1) % 4 = 0 then (r.schedWarps g).foldl (fun s e => s.soon (.bolterReform e.1)) r else r) := by
      have hretry : (s.modSched g fun x => { x with cycle := x.cycle + 1, sel := [] }).detRetry g =
          s.modSched g fun x => { x with cycle := x.cycle + 1, sel := [] } := detRetry_noDet g hdet
      unfold State.schedTurn
      rw [hsc]
      dsimp only
      rw [hretry, hsel]
      show (let r := u.tryRotation run g (u.rotation g sc)
        if (sc.cycle + 1) % 4 = 0 then (r.schedWarps g).foldl (fun s e => s.soon (.bolterReform e.1)) r else r) = _
      rw [hrot]
    rw [hturn]
    show KeepsWork _ v
    dsimp only
    split
    · exact foldl_keeps (fun t => KeepsWork t v) (fun t e ht => ht.soon _) _ hfirst
    · exact hfirst

end Sys2Proof.Laws
end

section
/-! PROOF of O47: what PREEMPT does where the table of warps lists one number twice. -/

namespace Sys2Proof.Laws

open Sys2Proof.Machine Sys2Proof.Claims

/-- The table of warps lists warp 1 twice: for team 0, with no thread, and behind that for team 1, whose threads run outside
any restart region. The claim's premises ask for a sorted table of teams only. -/
def twiceListed : State :=
  { State.reset.place 0#32 with
    teams := [(0, { wordTeam with warps := [] }), (1, wordTeam)]
    warps := [(1, { wordWarp 4 with team := 0, threads := [] }), (1, wordWarp 4)] }

/-- Before the pre-emption team 1 has no live thread: warp 1 is the entry of team 0. -/
theorem twiceListed_inside : twiceListed.teamInside wordTeam = true := by decide +kernel

/-- The discard of team 0 takes its entry away, and warp 1 is then the one outside a restart region: team 1 stays. -/
theorem twiceListed_stays (v : State) (h : exec (.preempt 0 0) twiceListed = .next v) : (v.team 1).isSome = true := by
  have hrun : (match execPreempt 0 0 twiceListed with
    | .next v => (v.team 1).isSome
    | _ => true) = true := by decide +kernel
  have h : execPreempt 0 0 twiceListed = .next v := h
  rwa [h] at hrun

/-- Refutes O47: PREEMPT discards one team after another, and the warps of a discarded team leave the table of warps. Where that
table lists a number twice (no premise excludes it), the second entry comes to light, and a team that stood inside a restart
region when the pre-emption began no longer does when its turn comes. -/
theorem not_preemptSaveResumeReset : ¬ Obligations.PreemptSaveResumeReset := by
  rintro ⟨⟨hpreempt, -, -⟩, -, -⟩
  obtain ⟨v, hv, -, -, hgone⟩ := hpreempt twiceListed 0 0 { Ctx.reset with state := 0 } rfl rfl (by decide) (by decide)
  have hnone : v.team 1 = none := hgone 1 wordTeam rfl rfl rfl rfl twiceListed_inside
  have hstays := twiceListed_stays v hv
  rw [hnone] at hstays
  cases hstays

end Sys2Proof.Laws
end

section
/-! PROOF of O43: what TEAM_PLACE does where the table of launches lists one number twice. -/

namespace Sys2Proof.Laws

open Sys2Proof.Machine Sys2Proof.Claims

/-- A launch of a team that fits on no core: its warp wants 65 blocks of a pool that has room for 64. -/
def tooLarge : Launch := { wordLaunch with next := 0, vals := { wordVals with cur := 256, xblk := 65 } }

/-- The table of launches lists launch 1 twice: `tooLarge`, and behind it one whose team fits. -/
def twiceLaunched : State :=
  { State.reset.place 0#32 with
    teams := [], warps := [], launches := [(1, tooLarge), (1, { wordLaunch with next := 0, vals := { wordVals with cur := 256 } })] }

/-- Placement goes through the table's entries: it chooses the one that fits. -/
theorem twiceLaunched_placement : twiceLaunched.placement = some (1, 0, 0, 0) := by decide +kernel

theorem twiceLaunched_ready : twiceLaunched.readyTeam 1 tooLarge = some (0, none) := by decide +kernel

/-- TEAM_PLACE looks the number up, and the launch it finds does not fit: no team is placed. -/
theorem twiceLaunched_unplaced (v : State) (h : exec (.teamPlace 1 0 0 0) twiceLaunched = .next v) : v.teams = [] := by
  have hrun : (match execTeamPlace 1 0 0 0 twiceLaunched with
    | .next v => v.teams.isEmpty
    | _ => true) = true := by decide +kernel
  have h : execTeamPlace 1 0 0 0 twiceLaunched = .next v := h
  rw [h] at hrun
  exact List.isEmpty_iff.mp hrun

/-- Refutes O43: placement chooses an entry of the table of launches, and TEAM_PLACE places the launch that the entry's number
names. Where the table lists a number twice (the clause for a launch that is not deterministic has no premise against it, as
the others have), the chosen entry is not the one found, and nothing is placed. -/
theorem not_launchesTeamsAndWarps : ¬ Obligations.LaunchesTeamsAndWarps := by
  rintro ⟨-, ⟨hplaced, -, -⟩, -, -⟩
  obtain ⟨v, hv, -, t, ht, -⟩ :=
    hplaced twiceLaunched 1 0 0 0 tooLarge twiceLaunched_placement rfl rfl twiceLaunched_ready
  rw [twiceLaunched_unplaced v hv] at ht
  cases ht

end Sys2Proof.Laws
end

section
/-! PROOF of O17: loads and stores past their checks, in threads and in helpers. -/

namespace Sys2Proof.Laws

open Sys2Proof.Machine Sys2Proof.Claims

variable {s : State} {i : Issue} {w : Warp} {t : Team}

/-! ### Registers and addresses off the control core -/

/-- A control core may name no vector register, so a group that may name some is on none. -/
theorem onControl_ready {srcs dsts : List Nat} (h : s.Ready i srcs dsts) : s.onControl i = false := by
  have hnamed := h.named
  unfold State.regError at hnamed
  unfold State.onControl
  cases hw : s.rdWarp i with
  | none => rfl
  | some v =>
    have hv : v.kind ≠ .control := fun hc => by simp [hw, hc] at hnamed
    simp [hv]

theorem withMem_ready {srcs dsts : List Nat} (h : s.Ready i srcs dsts) (ccOk : Bool) (k : Issue → State → State) :
    s.withMem srcs dsts ccOk k = k i s := by
  unfold State.withMem
  rw [h.issuing]
  dsimp only
  rw [onControl_ready h, if_neg Bool.false_ne_true, withRegs_ready h]

theorem rdD_vector (hc : s.onControl i = false) (l n : Nat) : s.rdD i l n = s.rdV i l n := by
  unfold State.rdD
  rw [hc, if_neg Bool.false_ne_true]

theorem addrV_eq_pairAddr (hc : s.onControl i = false) (f : FmtMv) : s.addrV i f = pairAddr s i f := by
  funext l
  unfold State.addrV State.rdAddr pairAddr wrap64
  rw [rdD_vector hc, rdD_vector hc, toNat_append_add, Nat.add_comm, Nat.mul_comm]

/-- A word without a PFX adds no HI7. -/
theorem addrS_eq_scalarAddr (f : FmtMs) : s.addrS i f = scalarAddr s i f := by
  funext l
  unfold State.addrS scalarAddr wrap64 Issue.hi7
  rw [toNat_append_add, Nat.add_comm (s.rdS i _).toNat, Nat.mul_comm (2 ^ 32)]
  push_cast
  cases i.pfx <;> rfl

/-! ### Lanes located, operations started -/

/-- What is located is the access of a lane that asked. -/
theorem locate_lane {a : Access} {acc : List (Nat × Nat)} {x : LaneAcc} (h : x ∈ (s.locate w t a acc).1) :
    x.lane ∈ acc.map (·.1) := by
  induction acc generalizing s with
  | nil => cases h
  | cons e rest ih =>
    have later {v : State} (hx : x ∈ (v.locate w t a rest).1) : x.lane ∈ (e :: rest).map (·.1) :=
      List.mem_cons_of_mem _ (ih hx)
    have here {v : State} {y : LaneAcc} (hy : y.lane = e.1) (hx : x ∈ y :: (v.locate w t a rest).1) :
        x.lane ∈ (e :: rest).map (·.1) := by
      rcases List.mem_cons.mp hx with rfl | hx
      · exact hy ▸ List.mem_cons_self
      · exact later hx
    simp only [State.locate] at h
    split at h
    · exact here rfl h
    · exact here rfl h
    · split at h
      · split at h
        · exact here rfl h
        · exact later h
        · exact later h
      · exact later h

theorem filter_located {a : Access} {acc : List (Nat × Nat)} {accs : List LaneAcc} {n : Nat} {s1 : State}
    (h : s.Reaches i w t n a acc accs s1) : accs.filter (fun x => (acc.map (·.1)).contains x.lane) = accs := by
  obtain ⟨-, hloc⟩ := h
  rw [List.filter_eq_self]
  intro x hx
  exact List.contains_iff_mem.mpr (locate_lane (by rw [hloc]; exact hx))

/-- The acting lanes of a word with their addresses. -/
abbrev laneAddrs (s : State) (i : Issue) (addr : State → Issue → Nat → Nat) : List (Nat × Nat) :=
  (s.acting i).map fun l => (l, addr s i l)

theorem lanes_laneAddrs (addr : State → Issue → Nat → Nat) : (laneAddrs s i addr).map (·.1) = s.acting i := by
  rw [List.map_map]
  exact List.map_id _

theorem memoryFree_unstalled {flag : Option Nat} (h : s.MemoryFree i flag) :
    (!s.roomFor i flag (s.acting i) || s.acqWait i (s.acting i)) = false := by
  obtain ⟨hroom, hacq⟩ := h
  rw [hroom, hacq]
  rfl

/-- An access that deterministic mode does not hold and whose lanes are all reached goes on. -/
theorem access_unheld {n : Nat} {a : Access} {acc : List (Nat × Nat)} {accs : List LaneAcc} {s1 : State}
    {hold : Warp → Team → Bool} (hw : s.warp i.warp = some w) (ht : s.teamOf i.warp = some t)
    (hh : hold w t = false) (h : s.Reaches i w t n a acc accs s1) (k : Warp → Team → List LaneAcc → State → State) :
    s.access i n a acc k (hold := hold) = k w t accs s1 := by
  obtain ⟨htrap, hloc⟩ := h
  simp [State.access, hw, ht, htrap, hloc, hh]

/-- Threads start one operation for the bundle. -/
theorem startOps_thread (hk : i.kind = .thread) {ls : List Nat} (hl : ls ≠ []) (mk : List Nat → Op) (ev : Nat → Instr)
    (body : State → Nat → List Nat → State) :
    s.startOps i mk ev ls body = (body (s.startOp (mk ls)).2 s.nextId ls).pend (ev s.nextId) := by
  unfold State.startOps
  rw [hk]
  dsimp only
  rw [if_neg (by simpa using hl)]
  rfl

/-- A helper that acts alone starts its own operation. -/
theorem startOps_helper (hk : i.kind = .helper) (l : Nat) (mk : List Nat → Op) (ev : Nat → Instr)
    (body : State → Nat → List Nat → State) :
    s.startOps i mk ev [l] body =
      (body (s.startOp { mk [l] with helper := some l }).2 s.nextId [l]).pend (ev s.nextId) := by
  unfold State.startOps
  rw [hk]
  rfl

/-! ### What starts -/

/-- The operation a load starts for the lanes `ls`. -/
def loadOp (s : State) (i : Issue) (d n : Nat) (ls : List Nat) : Op :=
  { blankOp i.warp .load with
    lanes := ls, flag := s.flagOf i none, vdests := ls.flatMap fun l => (regRange d (sizeWords n)).map fun r => (l, r) }

/-- The located lanes of a load are read, under the operation started for them. -/
def loadBody (i : Issue) (w : Warp) (t : Team) (d : Nat) (size : BitVec 3) (accs : List LaneAcc) (s : State) (id : Nat)
    (ls : List Nat) : State :=
  let (ps, s) := (s.detLoad w t).readLanes i w d size id t.ctx (accs.filter fun x => ls.contains x.lane)
  s.modOp id fun o => { o with parts := s.detParts t accs ps }

/-- Lanes that were all located are all read. -/
theorem loadBody_reads {d id : Nat} {size : BitVec 3} {accs : List LaneAcc} {ls : List Nat} {ps : List LanePart} {v : State}
    (hall : accs.filter (fun x => ls.contains x.lane) = accs)
    (hread : (s.detLoad w t).readLanes i w d size id t.ctx accs = (ps, v)) :
    loadBody i w t d size accs s id ls = v.modOp id fun o => { o with parts := v.detParts t accs ps } := by
  unfold loadBody
  rw [hall, hread]

/-- The operation a store starts for the lanes `ls`. -/
def storeOp (s : State) (i : Issue) (ls : List Nat) : Op :=
  { blankOp i.warp .store with lanes := ls, flag := s.flagOf i none }

theorem storeBytes_eq (hc : s.onControl i = false) (d n l : Nat) :
    (wordsBytes ((regRange d (sizeWords n)).map fun r => s.rdD i l r)).take n = storeBytes s i d n l := by
  simp only [rdD_vector hc, storeBytes]

section
variable {srcs : List Nat} {d : Nat} {size : BitVec 3} {addr : State → Issue → Nat → Nat} {s1 s2 : State}
  (hw : s.warp i.warp = some w) (ht : s.teamOf i.warp = some t) (hm : s.MemoryFree i (s.flagOf i none))
include hw ht hm

/-- A load past its checks starts its operations. -/
theorem load_starts {accs : List LaneAcc} (h : s.Ready i srcs (regRange d (sizeWords (sizeBytes size))))
    (hn : w.kind = .normal) (hp : i.kind = .helper → helperPlaces (laneAddrs s i addr) = true)
    (hg : s.gated w t true (sizeBytes size) (laneAddrs s i addr) = false)
    (hr : s.Reaches i w t (sizeBytes size) .load (laneAddrs s i addr) accs s1) (ccOk : Bool) :
    s.load srcs ccOk d size addr = s1.startOps i (loadOp s i d (sizeBytes size)) (fun id => .loadDataReturn id)
      (s.acting i) (loadBody i w t d size accs) := by
  have hplace : ¬(i.kind = .helper ∧ ((laneAddrs s i addr).any fun e => !helperPlace e.2) = true) := by
    rintro ⟨hk, hout⟩
    obtain ⟨e, he, hout⟩ := List.any_eq_true.mp hout
    simp [List.all_eq_true.mp (hp hk) e he] at hout
  unfold State.load
  dsimp only
  rw [withMem_ready h, if_neg hplace, lanes_laneAddrs, memoryFree_unstalled hm, if_neg Bool.false_ne_true,
    access_unheld hw ht hg hr, hn]
  rfl

/-- A thread's store past its checks, its fences met, starts one operation and buffers the bytes of its lanes. -/
theorem store_threads {accs : List LaneAcc} (h : s.Ready i (srcs ++ regRange d (sizeWords (sizeBytes size))) [])
    (hk : i.kind = .thread) (hne : s.acting i ≠ []) (hg : s.gated w t false (sizeBytes size) (laneAddrs s i addr) = false)
    (hr : s.Reaches i w t (sizeBytes size) .store (laneAddrs s i addr) accs s1)
    (hf : s1.relFences i w.core (s.acting i) = (s2, true)) (ccOk : Bool) :
    s.store srcs ccOk d size addr = ((accs.foldl (fun (v : State) (x : LaneAcc) =>
      v.bufferWrite i.warp x.lane w.core s2.nextId x.va x.loc (storeBytes s i d (sizeBytes size) x.lane))
        (s2.startOp (storeOp s i (s.acting i))).2).detStore i.warp t).pend (.storePerformed s2.nextId) := by
  have hheld : (i.kind == .thread && s.gated w t false (sizeBytes size) (laneAddrs s i addr)) = false := by
    rw [hg, Bool.and_false]
  unfold State.store
  dsimp only
  rw [withMem_ready h, hw, ht]
  dsimp only
  rw [if_neg fun hout => by simp [hk] at hout, lanes_laneAddrs, memoryFree_unstalled hm, if_neg Bool.false_ne_true,
    access_unheld hw ht hheld hr, hk]
  dsimp only
  rw [hf]
  dsimp only
  rw [startOps_thread hk hne]
  simp only [storeBytes_eq (onControl_ready h)]
  rfl

/-- A lone helper's store past its checks enters its chunk buffer, where that has room, and starts an operation. -/
theorem store_helper {x : LaneAcc} {b : Helper} (h : s.Ready i (srcs ++ regRange d (sizeWords (sizeBytes size))) [])
    (hk : i.kind = .helper) (hp : helperPlaces (laneAddrs s i addr) = true)
    (hd : t.vals.det = true → ∀ e ∈ laneAddrs s i addr, ∀ va, steer e.2 = .global va →
      inRanges t w va (sizeBytes size) true false = true)
    (hr : s.Reaches i w t (sizeBytes size) .store (laneAddrs s i addr) [x] s1)
    (hl : s.acting i = [x.lane]) (hb : w.helper x.lane = some b)
    (hroom : (b.store x.va x.loc (storeBytes s i d (sizeBytes size) x.lane)).buf.length ≤ 32) (ccOk : Bool) :
    s.store srcs ccOk d size addr = (((s1.modHelper i.warp x.lane fun _ =>
      b.store x.va x.loc (storeBytes s i d (sizeBytes size) x.lane)).startOp
        { storeOp s i [x.lane] with helper := some x.lane }).2).pend (.storePerformed s1.nextId) := by
  have hheld : (i.kind == .thread && s.gated w t false (sizeBytes size) (laneAddrs s i addr)) = false := by
    rw [hk]
    rfl
  unfold State.store
  dsimp only
  rw [withMem_ready h, hw, ht]
  dsimp only
  refine (if_neg ?inPlace).trans ?stored
  case inPlace =>
    rintro ⟨-, hout⟩
    obtain ⟨e, he, hout⟩ := List.any_eq_true.mp hout
    rw [List.all_eq_true.mp hp e he, Bool.not_true, Bool.false_or, Bool.and_eq_true] at hout
    obtain ⟨hdet, hout⟩ := hout
    split at hout
    next va hva => simp [hd hdet e he va hva] at hout
    next => cases hout
  case stored =>
    rw [lanes_laneAddrs, memoryFree_unstalled hm, if_neg Bool.false_ne_true, access_unheld hw ht hheld hr, hk]
    simp only [storeBytes_eq (onControl_ready h), List.map_cons, List.map_nil, List.any_cons, List.any_nil, hb,
      Option.map_some, decide_eq_false (Nat.not_lt.mpr hroom), Bool.or_false, if_neg Bool.false_ne_true, List.foldl_cons,
      List.foldl_nil, hl]
    rw [startOps_helper hk]
    rfl

end

/-! ### The words -/

/-- A word that loads from the lanes' addresses is a load word. -/
theorem loadWord_of_exec {word : Instr} {srcs : List Nat} {ccOk : Bool} {d : Nat} {size : BitVec 3}
    {from_ addr : State → Issue → Nat → Nat} (hexec : ∀ s, exec word s = .next (s.load srcs ccOk d size from_))
    (haddr : ∀ s i, s.onControl i = false → from_ s i = addr s i) : LoadWord word srcs d size addr := by
  intro s s1 i w t accs n dsts acc h hw hn ht hne hm hr op hg
  have hacc : laneAddrs s i from_ = acc := by rw [laneAddrs, haddr s i (onControl_ready h)]
  have hstart (hp : i.kind = .helper → helperPlaces acc = true) : exec word s = .next
      (s1.startOps i (loadOp s i d n) (fun id => .loadDataReturn id) (s.acting i) (loadBody i w t d size accs)) := by
    rw [hexec, load_starts hw ht hm h hn (by rwa [hacc]) (by rwa [hacc]) (by rwa [hacc])]
  have hall := filter_located hr
  rw [lanes_laneAddrs] at hall
  have hop : op = loadOp s i d n := rfl
  constructor
  · intro hk ps s2 hread
    rw [hop] at hread
    rw [hstart (by simp [hk]), startOps_thread hk (by simpa [acc] using hne), loadBody_reads hall hread]
  · rintro hk hp l x ps s2 hl rfl hread
    rw [hop] at hread
    rw [hstart fun _ => hp, hl, startOps_helper hk, loadBody_reads (hl ▸ hall) hread]

theorem loads : Loads :=
  ⟨fun f => loadWord_of_exec (fun _ => rfl) fun _ _ hc => addrV_eq_pairAddr hc f,
   fun f => loadWord_of_exec (fun _ => rfl) fun _ _ _ => addrS_eq_scalarAddr f⟩

/-- A word that stores at the lanes' addresses is a store word. -/
theorem storeWord_of_exec {word : Instr} {srcs : List Nat} {ccOk : Bool} {d : Nat} {size : BitVec 3}
    {from_ addr : State → Issue → Nat → Nat} (hexec : ∀ s, exec word s = .next (s.store srcs ccOk d size from_))
    (haddr : ∀ s i, s.onControl i = false → from_ s i = addr s i) : StoreWord word srcs d size addr := by
  intro s s1 i w t accs n acc h hw hn ht hne hm hr op
  have hacc : laneAddrs s i from_ = acc := by rw [laneAddrs, haddr s i (onControl_ready h)]
  rw [hexec]
  constructor
  · intro hk hg s2 hf
    exact congrArg Host.Outcome.next
      (store_threads hw ht hm h hk (by simpa [acc] using hne) (by rwa [hacc]) (by rwa [hacc]) hf ccOk)
  · rintro hk hp hd l x b hl rfl rfl hb hroom
    exact congrArg Host.Outcome.next
      (store_helper hw ht hm h hk (by rwa [hacc]) (by rwa [hacc]) (by rwa [hacc]) hl hb hroom ccOk)

theorem stores : Stores :=
  ⟨fun f => storeWord_of_exec (fun _ => rfl) fun _ _ hc => addrV_eq_pairAddr hc f,
   fun f => storeWord_of_exec (fun _ => rfl) fun _ _ _ => addrS_eq_scalarAddr f⟩

/-- Settles O17, by running each word past its checks to the operation it starts. -/
theorem loadAndStoreWords : Obligations.LoadAndStoreWords := ⟨loads, stores⟩

end Sys2Proof.Laws
end

section
/-! PROOF of O51, O52 and O53: the words of the instructions. -/

namespace Sys2Proof.Laws

open Sys2Proof.Machine Sys2Proof.Claims

variable {w : Word} {i : Instr}

/-! ### The parsers -/

/-- A word decodes to what it parses to, when that has no reserved field. -/
theorem decodeWord_eq_ok_iff : decodeWord w = .ok i ↔ parseWord w = .ok i ∧ i.fieldError = none := by
  unfold decodeWord
  cases parseWord w with
  | error e => simp
  | ok j =>
    cases hf : j.fieldError with
    | none =>
      simp only [hf, Except.ok.injEq]
      exact ⟨fun h => ⟨h, h ▸ hf⟩, And.left⟩
    | some e =>
      simp only [hf, reduceCtorEq, Except.ok.injEq, false_iff, not_and]
      rintro rfl
      simp [hf]

/-- The parser of a major that has minors (R81). -/
def minorParser : Nat → Option (Word → Except DecodeErr Instr)
  | 0x28 => some parseUnary
  | 0x2a => some parseSalu
  | 0x2b => some parseCtrl
  | 0x2c => some parseLd
  | 0x2d => some parseSt
  | 0x2e => some parseAtom
  | 0x2f => some parseSync
  | 0x30 => some parseMat
  | 0x31 => some parseXlane
  | 0x32 => some parseAcopy
  | 0x33 => some parseRes
  | 0x34 => some parseHelp
  | 0x35 => some parseSweep
  | 0x36 => some parseKv
  | 0x37 => some parseNmem
  | 0x38 => some parseTask
  | 0x39 => some parseSys
  | _ => none

theorem parseWord_minor {p : Word → Except DecodeErr Instr} (h : minorParser (w.extractLsb' 25 6).toNat = some p) :
    parseWord w = p w := by
  unfold minorParser at h
  unfold parseWord
  split at h
  all_goals cases h
  all_goals simp only [*]

theorem parseWord_eq_minorParser (w : Word) :
    parseWord w = (minorParser (w.extractLsb' 25 6).toNat).getD parseWord w := by
  cases hp : minorParser (w.extractLsb' 25 6).toNat with
  | none => rfl
  | some p => exact parseWord_minor hp

/-- A word of Format A parses by its major. -/
theorem parseWord_formatA {mk : FmtA → Instr} {m : BitVec 7}
    (harm : ∀ w : Word, w.extractLsb' 25 6 = m.extractLsb' 0 6 → parseWord w = .ok (mk ⟨w.extractLsb' 18 7,
      w.extractLsb' 16 2, w.extractLsb' 9 7, w.extractLsb' 7 2, w.extractLsb' 0 7⟩)) (f : FmtA) :
    parseWord (m ++ f.d ++ f.ta ++ f.a ++ f.tb ++ f.b) = .ok (mk f) := by
  rw [harm] <;> simp (disch := decide) only [BitVec.extractLsb'_append_eq_of_add_le,
    BitVec.extractLsb'_append_eq_of_le, BitVec.extractLsb'_eq_self, Nat.reduceSub]

/-- A word of Format U parses by its minor, but for CVT. -/
theorem parseWord_formatU {mk : FmtU → Instr} {m : BitVec 9}
    (harm : ∀ w : Word, w.extractLsb' 0 9 = m → parseUnary w = .ok (mk ⟨w.extractLsb' 18 7, w.extractLsb' 16 2,
      w.extractLsb' 9 7⟩)) (f : FmtU) :
    parseWord ((0x28 : BitVec 7) ++ f.d ++ f.ta ++ f.a ++ m) = .ok (mk f) := by
  rw [parseWord_minor (p := parseUnary), harm]
  all_goals simp (disch := decide) [minorParser, BitVec.extractLsb'_append_eq_of_add_le,
    BitVec.extractLsb'_append_eq_of_le, BitVec.extractLsb'_eq_self, -Nat.reduceAdd]

/-- A word of Format S parses by its minor, but for SCMP and the words without SA. -/
theorem parseWord_formatS {mk : FmtS → Instr} {m : BitVec 5}
    (harm : ∀ w : Word, w.extractLsb' 14 5 = m → parseSalu w = .ok (mk ⟨w.extractLsb' 19 6, w.extractLsb' 8 6,
      w.extractLsb' 6 2, w.extractLsb' 0 6⟩)) (f : FmtS) :
    parseWord ((0x2a : BitVec 7) ++ f.sd ++ m ++ f.sa ++ f.tb ++ f.b) = .ok (mk f) := by
  rw [parseWord_minor (p := parseSalu), harm]
  all_goals simp (disch := decide) [minorParser, BitVec.extractLsb'_append_eq_of_add_le,
    BitVec.extractLsb'_append_eq_of_le, BitVec.extractLsb'_eq_self, -Nat.reduceAdd]

/-- An ATOM whose order is free parses by its op. -/
theorem parseWord_atom {mk : FmtAtom → Instr} {m : BitVec 4}
    (harm : ∀ w : Word, w.extractLsb' 7 4 = m → parseAtom w = .ok (mk ⟨w.extractLsb' 18 7, w.extractLsb' 11 7,
      w.extractLsb' 3 4, w.extractLsb' 1 2, w.extractLsb' 0 1⟩)) (f : FmtAtom) :
    parseWord ((0x2e : BitVec 7) ++ f.d ++ f.a ++ m ++ f.scope ++ f.order ++ f.fsel) = .ok (mk f) := by
  rw [parseWord_minor (p := parseAtom), harm]
  all_goals simp (disch := decide) [minorParser, BitVec.extractLsb'_append_eq_of_add_le,
    BitVec.extractLsb'_append_eq_of_le, BitVec.extractLsb'_eq_self, -Nat.reduceAdd]

/-! ### Encoded words parse back -/

/-- The minors of MAJ 0x28 from 0x180 hold the fields of CVT (R82). -/
theorem parseUnary_cvt (h : 0x180 ≤ (w.extractLsb' 0 9).toNat) : parseUnary w = .ok (.cvt ⟨w.extractLsb' 18 7,
    w.extractLsb' 16 2, w.extractLsb' 9 7, w.extractLsb' 4 3, w.extractLsb' 1 3, w.extractLsb' 0 1⟩) := by
  unfold parseUnary
  split
  case h_20 => exact if_pos h
  all_goals omega

/-- The minors of MAJ 0x2A from 16 hold the condition of SCMP (R83). -/
theorem parseSalu_scmp (h : 16 ≤ (w.extractLsb' 14 5).toNat) (hz : w.extractLsb' 22 3 = 0) :
    parseSalu w = .ok (.scmp ⟨w.extractLsb' 19 3, w.extractLsb' 14 4, w.extractLsb' 8 6, w.extractLsb' 6 2,
      w.extractLsb' 0 6⟩) := by
  unfold parseSalu
  split
  case h_17 => exact if_pos (beq_iff_eq.mpr hz)
  all_goals omega

/-- The word of an encoded instruction parses to it: major by major, the parser finds each field where the word has it. -/
theorem parseWord_encodeWord (h : i.isEncoded = true) : ∃ w, encodeWord i = some w ∧ parseWord w = .ok i := by
  cases i
  case iadd | isub | imul | imulhs | imulhn | imad | imins | iminn | imaxs | imaxn | iaddsat | isubsat | and | or | xor |
      andn | shl | shrn | shrs | bfx | bfi | iadd64 | perm | sel | fadd | fsub | fmul | ffma | fmin | fmax | fscale |
      badd2 | bmul2 | bfma2 | hadd2 | hmul2 | hfma2 | pack2 | bdot2 | hdot2 =>
    exact ⟨_, rfl, parseWord_formatA (fun w hm => by unfold parseWord; rw [hm]; rfl) _⟩
  case mov | not | ineg | iabs | clz | popc | brev | mov64 | frcp | frsq | fsqrt | fexp2 | flog2 | fsint | fcost | ftanh |
      frnd | ffract | fclass =>
    exact ⟨_, rfl, parseWord_formatU (fun w hm => by unfold parseUnary; rw [hm]; rfl) _⟩
  case sadd | ssub | smul | sand | sor | sxor | sshl | sshrn | sshrs | smins | smaxs | sminn | smaxn | sadd64 =>
    exact ⟨_, rfl, parseWord_formatS (fun w hm => by unfold parseSalu; rw [hm]; rfl) _⟩
  case atomAdd | atomMins | atomMaxs | atomMinn | atomMaxn | atomAnd | atomOr | atomXor | atomXchg | atomCas | atomFadd |
      atomBadd2 | atomInc | atomDec =>
    exact ⟨_, rfl, parseWord_atom (fun w hm => by unfold parseAtom; rw [hm]; rfl) _⟩
  case cmp | clause =>
    refine ⟨_, rfl, ?_⟩
    unfold parseWord
    simp (disch := decide) only [BitVec.extractLsb'_append_eq_of_add_le, BitVec.extractLsb'_append_eq_of_le,
      BitVec.extractLsb'_eq_self, Nat.reduceSub]
    rfl
  case cvt =>
    refine ⟨_, rfl, (parseWord_minor ?_).trans ((parseUnary_cvt ?_).trans ?_)⟩
    case refine_2 => simp only [BitVec.extractLsb'_toNat, toNat_append_add, BitVec.reduceToNat]; omega
    all_goals simp (disch := decide) [minorParser, BitVec.extractLsb'_append_eq_of_add_le,
      BitVec.extractLsb'_append_eq_of_le, BitVec.extractLsb'_eq_self, -Nat.reduceAdd]
  case scmp =>
    refine ⟨_, rfl, (parseWord_minor ?_).trans ((parseSalu_scmp ?_ ?_).trans ?_)⟩
    case refine_2 => simp only [BitVec.extractLsb'_toNat, toNat_append_add, BitVec.reduceToNat]; omega
    all_goals simp (disch := decide) [minorParser, BitVec.extractLsb'_append_eq_of_add_le,
      BitVec.extractLsb'_append_eq_of_le, BitVec.extractLsb'_eq_self, -Nat.reduceAdd]
  all_goals cases h
  all_goals refine ⟨_, rfl, (parseWord_eq_minorParser _).trans ?_⟩
  all_goals simp (disch := decide) [minorParser, parseSalu, parseCtrl, parseLd, parseSt, parseAtom, parseSync,
    parseMat, parseXlane, parseAcopy, parseRes, parseHelp, parseSweep, parseKv, parseNmem, parseTask, parseSys,
    BitVec.extractLsb'_append_eq_of_add_le, BitVec.extractLsb'_append_eq_of_le, BitVec.extractLsb'_eq_self, -Nat.reduceAdd]

/-- Settles O51: the word of an instruction parses to it, and a well-formed one has no reserved field. -/
theorem encodedWordsDecode : Obligations.EncodedWordsDecode := by
  rintro i ⟨henc, hok⟩
  obtain ⟨w, hw, hp⟩ := parseWord_encodeWord henc
  exact ⟨w, hw, decodeWord_eq_ok_iff.mpr ⟨hp, hok⟩⟩

/-! ### Parsed words encode back -/

theorem unchained_toNat (w : Word) : (w &&& 0x7FFF_FFFF).toNat = w.toNat % 2 ^ 31 := by
  rw [BitVec.toNat_and]
  exact Nat.and_two_pow_sub_one_eq_mod _ 31

/-- Two adjoining fields of a word spell the field that covers both. -/
theorem append_eq_field {n a b s : Nat} {w : BitVec n} {y : BitVec b} {x : BitVec a} (hy : y = w.extractLsb' (s + a) b)
    (hx : x = w.extractLsb' s a) : y ++ x = w.extractLsb' s (b + a) := by
  rw [hy, hx]
  exact BitVec.extractLsb'_append_extractLsb'_eq_extractLsb' rfl

theorem eq_field {n s k : Nat} {w : BitVec n} {x : BitVec k} (h : x.toNat = w.toNat / 2 ^ s % 2 ^ k) :
    x = w.extractLsb' s k := by
  refine BitVec.eq_of_toNat_eq ?_
  rw [BitVec.extractLsb'_toNat, Nat.shiftRight_eq_div_pow, h]

theorem eq_majorField {c : BitVec 7} (h : w.toNat / 2 ^ 25 = c.toNat) : c = w.extractLsb' 25 7 :=
  eq_field (by rw [h, Nat.mod_eq_of_lt c.isLt])

theorem field_append_low {a b : Nat} (y : BitVec b) (x : BitVec a) : (y ++ x).extractLsb' 0 a = x :=
  (BitVec.extractLsb'_append_eq_of_add_le (Nat.zero_add a).le).trans BitVec.extractLsb'_eq_self

theorem field_append_high {a b : Nat} (y : BitVec b) (x : BitVec a) : (y ++ x).extractLsb' a b = y := by
  rw [BitVec.extractLsb'_append_eq_of_le le_rfl, Nat.sub_self, BitVec.extractLsb'_eq_self]

/-- The instruction has the word `w`. -/
def HasWord (w : Word) (i : Instr) : Prop := i.isEncoded = true ∧ encodeWord i = some w

theorem hasWord_of_fields {x : Word} (henc : i.isEncoded = true) (hx : encodeWord i = some x)
    (h : x = w.extractLsb' 0 32) : HasWord w i :=
  ⟨henc, hx.trans (congrArg some (h.trans BitVec.extractLsb'_eq_self))⟩

/-- What the parser of a major makes of a word without chain bit has that word. -/
def ParsesOwnWords (p : Word → Except DecodeErr Instr) (major : Nat) : Prop :=
  ∀ w i, w.toNat / 2 ^ 25 = major → p w = .ok i → HasWord w i

/-- Each parser of minors gives instructions their own words: branch by branch, the fields that the instruction takes and the
constants that the branch tests for are all of the word. -/
theorem minorParser_ownWords {m : Nat} {p : Word → Except DecodeErr Instr} (hp : minorParser m = some p) :
    ParsesOwnWords p m := by
  intro w i hm h
  delta minorParser parseUnary parseSalu parseCtrl parseLd parseSt parseAtom parseSync parseMat parseXlane parseAcopy parseRes
    parseHelp parseSweep parseKv parseNmem parseTask parseSys at hp
  split at hp
  all_goals cases hp
  all_goals beta_reduce at h
  all_goals split at h
  all_goals try split at h
  all_goals try split at h
  all_goals cases h
  all_goals refine hasWord_of_fields rfl rfl ?_
  all_goals repeat' refine append_eq_field ?_ ?_
  all_goals try simp only [field_append_low, field_append_high]
  all_goals refine eq_field ?_
  all_goals simp only [BitVec.extractLsb'_toNat, Nat.shiftRight_eq_div_pow, BitVec.reduceToNat, Bool.and_eq_true, beq_iff_eq,
    BitVec.toNat_eq, imp_false, Nat.reduceAdd, Nat.reducePow] at *
  all_goals omega

/-- So does the parser of whole words. -/
theorem hasWord_of_parseWord (hc : w.toNat < 2 ^ 31) (h : parseWord w = .ok i) : HasWord w i := by
  have hm {m : Nat} (hmaj : (w.extractLsb' 25 6).toNat = m) : w.toNat / 2 ^ 25 = m := by
    rw [BitVec.extractLsb'_toNat, Nat.shiftRight_eq_div_pow] at hmaj
    omega
  unfold parseWord at h
  split at h
  case h_41 | h_43 | h_44 | h_45 | h_46 | h_47 | h_48 | h_49 | h_50 | h_51 | h_52 | h_53 | h_54 | h_55 | h_56 | h_57 | h_58 =>
    exact minorParser_ownWords rfl w i (hm ‹_›) h
  case h_64 =>
    have hmaj : (w.extractLsb' 25 6).toNat = 0x3F := by
      simp only [imp_false] at *
      omega
    split at h
    · cases h
      exact hasWord_of_fields rfl rfl (append_eq_field (append_eq_field (append_eq_field (append_eq_field (append_eq_field
        (eq_majorField (hm hmaj)) rfl) rfl) rfl) rfl) (eq_of_beq ‹_›).symm)
    · cases h
  all_goals cases h
  all_goals refine hasWord_of_fields rfl rfl ?_
  all_goals repeat' refine append_eq_field ?_ ?_
  all_goals try rfl
  all_goals exact eq_majorField (hm ‹_›)

/-- The chain bit is no part of the instruction (R61). -/
theorem parseWord_unchained (w : Word) : parseWord (w &&& 0x7FFF_FFFF) = parseWord w := by
  have hfield {s n : Nat} (h : s + n ≤ 31) : (w &&& 0x7FFF_FFFF).extractLsb' s n = w.extractLsb' s n := by
    refine BitVec.eq_of_toNat_eq ?_
    simp only [BitVec.extractLsb'_toNat, unchained_toNat, Nat.shiftRight_eq_div_pow]
    rw [← Nat.mod_mul_right_div_self, ← Nat.mod_mul_right_div_self, ← pow_add, Nat.mod_mod_of_dvd _ (pow_dvd_pow 2 h)]
  unfold parseWord parseUnary parseSalu parseCtrl parseLd parseSt parseAtom parseSync parseMat parseXlane parseAcopy parseRes
    parseHelp parseSweep parseKv parseNmem parseTask parseSys
  simp (disch := decide) only [hfield]

/-- Settles O52, by the fields of a parsed word without its chain bit. -/
theorem decodedWordsEncode : Obligations.DecodedWordsEncode := by
  constructor
  · intro w i h
    obtain ⟨hp, hf⟩ := decodeWord_eq_ok_iff.mp h
    have hc : (w &&& 0x7FFF_FFFF).toNat < 2 ^ 31 := unchained_toNat w ▸ Nat.mod_lt _ (Nat.two_pow_pos 31)
    obtain ⟨henc, hw⟩ := hasWord_of_parseWord hc ((parseWord_unchained w).trans hp)
    exact ⟨⟨henc, hf⟩, hw⟩
  · intro w hlo hhi
    obtain hm | hm | hm | hm : (w.extractLsb' 25 6).toNat = 0x3A ∨ (w.extractLsb' 25 6).toNat = 0x3B ∨
        (w.extractLsb' 25 6).toNat = 0x3C ∨ (w.extractLsb' 25 6).toNat = 0x3D := by omega
    all_goals
      unfold decodeWord parseWord
      rw [hm]
      rfl

/-- Settles O53, by running the decoder. -/
theorem sampleWordsDecode : Obligations.SampleWordsDecode := by
  refine ⟨?_, ?_, ?_, ?_⟩ <;> rfl

end Sys2Proof.Laws
end

section
/-! PROOF of O3: float and packed words. -/

namespace Sys2Proof.Laws

open Sys2Proof.Machine Sys2Proof.Claims

variable {s : State} {i : Issue} {f : FmtA}

/-! ### Words that write one register of each actor -/

/-- A word past its register checks that writes its lanes' values leaves the actors with them. -/
theorem actorsTake_withRegs {srcs : List Nat} {d : Nat} (nd : i.lanes.Nodup) (h : s.Ready i srcs [d])
    (val : State → Issue → Nat → Word) :
    ∃ t, s.withRegs srcs [d] (fun i s => s.writeLanes i d (val s i)) = t ∧ ActorsTake s i d (val s i) t :=
  ⟨_, withRegs_ready h _, actorsTake_writeLanes s i d (val s i) (acting_nodup s i nd)⟩

/-! ### FP32 -/

theorem toF32_toNat (v : Machine.Num) (m : RMode) (sat : Bool) : (toF32 v m sat).toNat = roundTo v .f32 m sat % 2 ^ 32 :=
  BitVec.toNat_ofNat _ 32

/-- A word of two f32 sources whose result is that of `op`, where this is as the rules say. -/
theorem floatTwo_of_op {mk : FmtA → Instr} {op : Issue → Machine.Num → Machine.Num → Word}
    {spec : Issue → Machine.Num → Machine.Num → Word → Prop} (hexec : ∀ f s, exec (mk f) s = .next (s.falu2 f op))
    (hop : ∀ i a b, spec i a b (op i a b)) : FloatTwo mk spec := by
  intro s i f nd h
  obtain ⟨t, ht, htake⟩ := actorsTake_withRegs nd h fun s i l =>
    op i (i.modA (f32 (s.opndF i l .f32 false f.ta f.a))) (i.modB (f32 (s.opndF i l .f32 false f.tb f.b)))
  exact ⟨t, _, (hexec f s).trans (congrArg Host.Outcome.next ht), fun l => hop .., htake⟩

/-- The smaller of two operands (R116). -/
theorem fminmax_smaller (a b : Machine.Num) :
    (a.isNaN ∧ b.isNaN → fminmax true a b = 0x7FC0_0000) ∧
    (a.isNaN ∧ ¬b.isNaN → fminmax true a b = toF32 b .rne false) ∧
    (¬a.isNaN ∧ (b.isNaN ∨ below a b) → fminmax true a b = toF32 a .rne false) ∧
    (¬a.isNaN ∧ ¬b.isNaN ∧ ¬below a b → fminmax true a b = toF32 b .rne false) := by
  unfold fminmax
  rw [show (decide (a.cmp b < 0) || (a.isNegZero && b.isPosZero)) = below a b from rfl]
  cases a.isNaN <;> cases b.isNaN <;> cases below a b <;> simp

/-- The larger of two operands (R116). -/
theorem fminmax_larger (a b : Machine.Num) :
    (a.isNaN ∧ b.isNaN → fminmax false a b = 0x7FC0_0000) ∧
    (a.isNaN ∧ ¬b.isNaN → fminmax false a b = toF32 b .rne false) ∧
    (¬a.isNaN ∧ (b.isNaN ∨ ¬below a b) → fminmax false a b = toF32 a .rne false) ∧
    (¬a.isNaN ∧ ¬b.isNaN ∧ below a b → fminmax false a b = toF32 b .rne false) := by
  unfold fminmax
  rw [show (decide (a.cmp b < 0) || (a.isNegZero && b.isPosZero)) = below a b from rfl]
  cases a.isNaN <;> cases b.isNaN <;> cases below a b <;> simp

theorem floatResults : FloatResults := by
  refine ⟨floatTwo_of_op (fun _ _ => rfl) fun _ _ _ => toF32_toNat .., floatTwo_of_op (fun _ _ => rfl) fun _ _ _ => toF32_toNat ..,
    floatTwo_of_op (fun _ _ => rfl) fun _ _ _ => toF32_toNat .., floatTwo_of_op (fun _ _ => rfl) fun _ => fminmax_smaller,
    floatTwo_of_op (fun _ _ => rfl) fun _ => fminmax_larger, ?fscale, ?ffma⟩
  case fscale =>
    intro s i f nd h
    obtain ⟨t, ht, htake⟩ := actorsTake_withRegs nd h fun s i l =>
      toF32 ((i.modA (f32 (s.opndF i l .f32 false f.ta f.a))).scale (s.opnd i l f.tb f.b).toInt) i.mode i.sat
    exact ⟨t, congrArg Host.Outcome.next ht, htake⟩
  case ffma =>
    intro s i f nd h
    refine ⟨_, ?_, actorsTake_writeLanes s i f.d.toNat _ (acting_nodup s i nd)⟩
    show execFfma f s = _
    unfold execFfma
    rw [h.issuing]
    exact congrArg Host.Outcome.next (withRegs_ready h _)

/-! ### Packed bf16 and f16 -/

/-- Element `k` of the result of a packed word in lane `l`. -/
def packedElem (ty : FType) (op : RMode → Machine.Num → Machine.Num → Machine.Num → Machine.Num) (s : State) (i : Issue)
    (f : FmtA) (l k : Nat) : BitVec 16 :=
  BitVec.ofNat 16 (roundTo (op i.mode
    (i.modA (decodeF ty (half (s.opndF i l ty true f.ta f.a) k).toNat))
    (i.modB (decodeF ty (half (s.opndF i l ty true f.tb f.b) k).toNat))
    (decodeF ty (half (s.opndF i l ty true (i.cOpnd f.d).1 (i.cOpnd f.d).2) k).toNat)) ty i.mode i.sat)

/-- The halves of a packed word are what it was packed of. -/
theorem half_packHalves (x : Nat → BitVec 16) : ∀ e < 2, half (packHalves (x 1) (x 0)) e = x e := by
  intro e he
  obtain rfl | rfl : e = 0 ∨ e = 1 := by omega
  · exact (BitVec.extractLsb'_append_eq_of_add_le (Nat.le_refl 16)).trans BitVec.extractLsb'_eq_self
  · exact (BitVec.extractLsb'_append_eq_of_le (Nat.le_refl 16)).trans BitVec.extractLsb'_eq_self

/-- The sources of a packed word. -/
abbrev packedSrcs (three : Bool) (i : Issue) (f : FmtA) : List Nat :=
  vregsOf f.ta f.a ++ vregsOf f.tb f.b ++ if three then vregsOf (i.cOpnd f.d).1 (i.cOpnd f.d).2 else []

theorem packedWord_of_elems {mk : FmtA → Instr} {ty : FType} {three : Bool}
    {op : RMode → Machine.Num → Machine.Num → Machine.Num → Machine.Num}
    (hexec : ∀ s i f, s.Ready i (packedSrcs three i f) [f.d.toNat] → exec (mk f) s = .next (s.writeLanes i f.d.toNat fun l =>
      packHalves (packedElem ty op s i f l 1) (packedElem ty op s i f l 0))) : PackedWord mk ty three op := by
  intro s i f nd h
  refine ⟨_, _, hexec s i f h, actorsTake_writeLanes s i f.d.toNat _ (acting_nodup s i nd), fun l e he => ?_⟩
  rw [half_packHalves (packedElem ty op s i f l) e he]
  exact BitVec.toNat_ofNat _ 16

/-- A packed word of two sources whose elements' results are those of `op`. -/
theorem packedWord_of_pack2 {mk : FmtA → Instr} {ty : FType} {op : RMode → Machine.Num → Machine.Num → Machine.Num}
    (hexec : ∀ f s, exec (mk f) s = .next (s.pack2 f ty fun i a b => roundTo (op i.mode a b) ty i.mode i.sat)) :
    PackedWord mk ty false fun m a b _ => op m a b := by
  refine packedWord_of_elems fun s i f h => (hexec f s).trans (congrArg Host.Outcome.next ?_)
  rw [packedSrcs, if_neg Bool.false_ne_true, List.append_nil] at h
  exact withRegs_ready h _

/-- A packed multiply-add rounds the exact sum of product and addend (R118). -/
theorem packedWord_of_packFma {mk : FmtA → Instr} {ty : FType} (hexec : ∀ f s, exec (mk f) s = .next (s.packFma f ty)) :
    PackedWord mk ty true fun m a b c => sumExact m [a.mul b, c] := by
  refine packedWord_of_elems fun s i f h => (hexec f s).trans (congrArg Host.Outcome.next ?_)
  unfold State.packFma
  rw [h.issuing]
  exact withRegs_ready h _

theorem dotWord_of_packDot {mk : FmtA → Instr} {ty : FType} (hexec : ∀ f s, exec (mk f) s = .next (s.packDot f ty)) :
    DotWord mk ty := by
  intro s i f nd h
  refine ⟨_, (hexec f s).trans (congrArg Host.Outcome.next ?_), actorsTake_writeLanes s i f.d.toNat _ (acting_nodup s i nd)⟩
  unfold State.packDot
  rw [h.issuing]
  exact withRegs_ready h _

theorem packedResults : PackedResults :=
  ⟨packedWord_of_pack2 fun _ _ => rfl, packedWord_of_pack2 fun _ _ => rfl, packedWord_of_packFma fun _ _ => rfl,
    packedWord_of_pack2 fun _ _ => rfl, packedWord_of_pack2 fun _ _ => rfl, packedWord_of_packFma fun _ _ => rfl,
    dotWord_of_packDot fun _ _ => rfl, dotWord_of_packDot fun _ _ => rfl⟩

/-- Settles O3, by the one result that each word writes in its actors' lanes. -/
theorem floatAndPackedResults : Obligations.FloatAndPackedResults := ⟨floatResults, packedResults⟩

end Sys2Proof.Laws
end

section
/-! PROOF of O6: the special functions. -/

namespace Sys2Proof.Laws

open Sys2Proof.Machine Sys2Proof.Claims

/-! ### Issue and return -/

/-- In a bundle with room on its flag a special function starts one operation for its acting lanes (R122). -/
theorem sfu_started {s : State} {i : Issue} {w : Warp} {f : FmtU} (fn : SfuFn)
    (h : s.ReadyT i w (vregsOf f.ta f.a) [f.d.toNat]) (ha : s.acting i ≠ []) (hroom : s.flagRoom i.warp none (s.flagOf i none)) :
    s.sfu f fn = s.started { blankOp i.warp (.sfu ((s.acting i).map fun l => (l, f.d.toNat,
        sfuResult fn i.mode ((i.pfx.map (·.nega)).getD 0 == 1) ((i.pfx.map (·.absa)).getD 0 == 1)
          (s.opndF i l .f32 false f.ta f.a)))) with
      lanes := s.acting i, flag := s.flagOf i none, vdests := (s.acting i).map fun l => (l, f.d.toNat) } .sfuResult := by
  unfold State.sfu
  rw [withRegs_ready h.toReady]
  simp only [h.threads, hroom, Bool.not_true, Bool.false_eq_true, if_false, List.isEmpty_iff, ha]
  rfl

theorem specialStarts_of_sfu {mk : FmtU → Instr} {fn : SfuFn} (hexec : ∀ f s, exec (mk f) s = .next (s.sfu f fn)) :
    SpecialStarts mk fn := fun _ _ _ f h ha hroom =>
  (hexec f _).trans (congrArg Host.Outcome.next (sfu_started fn h ha hroom))

theorem specialFunctions : SpecialFunctions := by
  refine ⟨specialStarts_of_sfu fun _ _ => rfl, specialStarts_of_sfu fun _ _ => rfl, specialStarts_of_sfu fun _ _ => rfl,
    specialStarts_of_sfu fun _ _ => rfl, specialStarts_of_sfu fun _ _ => rfl, specialStarts_of_sfu fun _ _ => rfl,
    specialStarts_of_sfu fun _ _ => rfl, specialStarts_of_sfu fun _ _ => rfl, fun s id o res ho hk => ?_⟩
  show execSfuResult id s = _
  simp only [execSfuResult, ho, hk]

/-! ### The inputs with an exact result -/

/-- Only FSQRT honours the mode (R122), and at its fixed inputs it rounds nothing: each function is evaluated once per mode. -/
theorem specialExact : SpecialExact := by
  intro m
  cases m <;> decide

/-- Settles O6, by unfolding the special functions at a bundle that may run, and by evaluation at the fixed inputs. -/
theorem specialFunctionResults : Obligations.SpecialFunctionResults := ⟨specialFunctions, specialExact⟩

end Sys2Proof.Laws
end

section
/-! PROOF of O7: the scalar words. -/

namespace Sys2Proof.Laws

open Sys2Proof.Machine Sys2Proof.Claims

variable {s : State} {i : Issue}

/-! ### Shifts by an unreduced count (R110) -/

theorem shiftLeft_toNat (a b : Word) : (shiftLeft a b).toNat = a.toNat * 2 ^ b.toNat % 2 ^ 32 := by
  unfold shiftLeft
  split
  · next h =>
    have : 2 ^ 32 ∣ a.toNat * 2 ^ b.toNat := Dvd.dvd.mul_left (pow_dvd_pow 2 h) _
    rw [Nat.mod_eq_zero_of_dvd this]; rfl
  · rw [BitVec.toNat_shiftLeft, Nat.shiftLeft_eq]

theorem shiftRightN_toNat (a b : Word) : (shiftRightN a b).toNat = a.toNat / 2 ^ b.toNat := by
  unfold shiftRightN
  split
  · next h =>
    have : a.toNat < 2 ^ b.toNat := lt_of_lt_of_le a.isLt (Nat.pow_le_pow_right (by decide) h)
    simp [Nat.div_eq_of_lt this]
  · rw [BitVec.toNat_ushiftRight, Nat.shiftRight_eq_div_pow]

/-- A number of 32 bits divided by 2^31 or by a higher power is its sign. -/
theorem ediv_pow_eq_sign (a : Int) (n : Nat) (hn : 31 ≤ n) (lo : -2 ^ 31 ≤ a) (hi : a < 2 ^ 31) :
    a / 2 ^ n = if a < 0 then -1 else 0 := by
  have hp : (2 : Int) ^ 31 ≤ 2 ^ n := by exact_mod_cast Nat.pow_le_pow_right (by decide : 0 < 2) hn
  split
  · exact Int.ediv_eq_neg_one_of_neg_of_le (by omega) (by omega)
  · exact Int.ediv_eq_zero_of_lt (by omega) (by omega)

theorem shiftRightS_toInt (a b : Word) : (shiftRightS a b).toInt = a.toInt / 2 ^ b.toNat := by
  unfold shiftRightS
  rw [BitVec.toInt_sshiftRight, Int.shiftRight_eq_div_pow]
  rcases le_total b.toNat 31 with h | h
  · rw [Nat.min_eq_left h]; norm_cast
  · have lo := BitVec.le_toInt a
    have hi := BitVec.toInt_lt (x := a)
    rw [Nat.min_eq_right h, ediv_pow_eq_sign _ _ h lo hi]
    exact_mod_cast ediv_pow_eq_sign _ 31 le_rfl lo hi

/-! ### Where a scalar word runs -/

/-- A scalar word that may run runs. -/
theorem salu_ready {tb : BitVec 2} {b : BitVec 6} {pair : Bool}
    (h : ScalarReady s i (if pair then vpairOf tb (i.scalarB tb b) else vregsOf tb (i.scalarB tb b)))
    (k : Issue → BitVec 7 → State → State) : s.salu tb b pair k = k i (i.scalarB tb b) s := by
  obtain ⟨hi, ht, hn, ha, hc⟩ := h
  unfold State.salu State.withScalar
  rcases hn with hn | hn <;> simp [hi, ht, hn, ha, hc]

/-- A two-source scalar word whose operation is as the rules say. -/
theorem scalarWord_of_op {mk : FmtS → Instr} {op : Word → Word → Word} {spec : Word → Word → Word → Prop}
    (hexec : ∀ f s, exec (mk f) s = .next (s.salu2 f op)) (hop : ∀ a b, spec a b (op a b)) : ScalarWord mk spec :=
  fun _ _ f h => ⟨_, hop .., (hexec f _).trans (congrArg Host.Outcome.next (salu_ready (pair := false) h _))⟩

/-- The low half of a pair. -/
theorem setS64_eq (s : State) (wk n : Nat) (v : DWord) :
    s.setS64 wk n v = (s.setS wk n (v.extractLsb' 0 32)).setS wk (n + 1) (v.extractLsb' 32 32) := by
  unfold State.setS64
  rw [BitVec.setWidth_eq_extractLsb' (by decide)]

theorem ite_slt (a b x y : Word) : (if a.slt b then x else y) = if a.toInt < b.toInt then x else y := by
  simp only [BitVec.slt, decide_eq_true_eq]

theorem ite_ult (a b x y : Word) : (if a.ult b then x else y) = if a.toNat < b.toNat then x else y := by
  simp only [BitVec.ult, decide_eq_true_eq]

theorem sub_toNat_int (a b : Word) : ((a - b).toNat : Int) = ((a.toNat : Int) - b.toNat) % 2 ^ 32 := by
  have := a.isLt
  have := b.isLt
  rw [BitVec.toNat_sub]
  omega

theorem scalarResults : ScalarResults := by
  refine ⟨scalarWord_of_op (fun _ _ => rfl) fun _ _ => BitVec.toNat_add .., scalarWord_of_op (fun _ _ => rfl) sub_toNat_int,
    scalarWord_of_op (fun _ _ => rfl) fun _ _ => BitVec.toNat_mul ..,
    scalarWord_of_op (fun _ _ => rfl) fun _ _ _ _ => BitVec.getLsbD_and,
    scalarWord_of_op (fun _ _ => rfl) fun _ _ _ _ => BitVec.getLsbD_or,
    scalarWord_of_op (fun _ _ => rfl) fun _ _ _ _ => BitVec.getLsbD_xor,
    scalarWord_of_op (fun _ _ => rfl) shiftLeft_toNat, scalarWord_of_op (fun _ _ => rfl) shiftRightN_toNat,
    scalarWord_of_op (fun _ _ => rfl) shiftRightS_toInt, scalarWord_of_op (fun _ _ => rfl) fun a b => ite_slt a b a b,
    scalarWord_of_op (fun _ _ => rfl) fun a b => ite_slt b a a b, scalarWord_of_op (fun _ _ => rfl) fun a b => ite_ult a b a b,
    scalarWord_of_op (fun _ _ => rfl) fun a b => ite_ult b a a b, ?smov, ?smov64, ?sadd64⟩
  case smov =>
    intro s i f h
    exact congrArg Host.Outcome.next (salu_ready (pair := false) h _)
  case smov64 =>
    intro s i f h
    refine ⟨_, rfl, ?_⟩
    rw [← setS64_eq]
    exact congrArg Host.Outcome.next (salu_ready (pair := true) h _)
  case sadd64 =>
    intro s i f h
    refine ⟨_, rfl, ?_⟩
    rw [← setS64_eq]
    exact congrArg Host.Outcome.next (salu_ready (pair := true) h _)

/-! ### Where it does not run -/

/-- The registers of a scalar word's vector operand, if it has one, may be named. -/
def ScalarNamed (s : State) (i : Issue) (tb : BitVec 2) (b : BitVec 6) : Prop :=
  vregsOf tb (i.scalarB tb b) = [] ∨ s.regError i (vregsOf tb (i.scalarB tb b)) [] = none

theorem withScalar_named {tb : BitVec 2} {b : BitVec 6} (hi : s.iss = some i) (hn : ScalarNamed s i tb b)
    (k : Issue → BitVec 7 → State → State) : s.withScalar tb b false k = k i (i.scalarB tb b) s := by
  unfold State.withScalar
  rcases hn with hn | hn <;> simp [hi, hn]

/-- A scalar word in a helper traps the lowest lane, if its guard is true there (R297). -/
theorem salu_helper {tb : BitVec 2} {b : BitVec 6} (hi : s.iss = some i) (hn : ScalarNamed s i tb b) (hh : i.kind = .helper)
    (ha : s.bundleActs i = true) (k : Issue → BitVec 7 → State → State) :
    s.salu tb b false k = s.illegal 0x24 [i.lowest] := by
  rw [State.salu, withScalar_named hi hn]
  simp [hh, forbid_lanes, State.onceLanes, ha]

/-- A scalar word whose guard is false in the lowest lane changes nothing (R75). -/
theorem salu_unguarded {tb : BitVec 2} {b : BitVec 6} (hi : s.iss = some i) (hn : ScalarNamed s i tb b)
    (ha : s.bundleActs i = false) (k : Issue → BitVec 7 → State → State) : s.salu tb b false k = s := by
  rw [State.salu, withScalar_named hi hn]
  simp [forbid_lanes, State.onceLanes, ha]

/-- An open recruitment of the warp holds a scalar word (R296). -/
theorem salu_held {tb : BitVec 2} {b : BitVec 6} (hi : s.iss = some i) (hn : ScalarNamed s i tb b) (ht : i.kind = .thread)
    (ha : s.bundleActs i = true) (hr : s.recruiter i ≠ none) (k : Issue → BitVec 7 → State → State) :
    s.salu tb b false k = s.stall := by
  rw [State.salu, withScalar_named hi hn]
  simp [ht, ha, Option.isSome_iff_ne_none, hr]

/-- Each of the two-source scalar words is `State.salu2` of its operation. -/
theorem exec_twoSource (mk : FmtS → Instr)
    (hm : mk ∈ [Instr.sadd, .ssub, .smul, .sand, .sor, .sxor, .sshl, .sshrn, .sshrs, .smins, .smaxs, .sminn, .smaxn]) :
    ∃ op : Word → Word → Word, ∀ f s, exec (mk f) s = .next (s.salu2 f op) := by
  fin_cases hm <;> exact ⟨_, fun _ _ => rfl⟩

theorem scalarForms : ScalarForms := by
  intro s i f mk hm hi hn
  obtain ⟨op, hexec⟩ := exec_twoSource mk hm
  simp only [hexec, State.salu2]
  refine ⟨fun hh ha => ⟨[i.lowest], by simp, ?_⟩, fun ha => ?_, fun ht ha hr => ?_⟩
  · rw [salu_helper hi hn hh ha]
  · rw [salu_unguarded hi hn ha]
  · rw [salu_held hi hn ht ha hr]

/-! ### SCMP -/

/-- The conditions of R128, as the rules say them. -/
theorem condHolds_iff (c : BitVec 4) (a b : Word) (ma mb : Machine.Num → Machine.Num) :
    condHolds c a b ma mb ↔ if c.toNat < 10 then condTrue c.toNat a b .nan .nan
      else condTrue c.toNat 0 0 (ma (f32 a)) (mb (f32 b)) := by
  unfold condHolds
  split
  case h_16 =>
    obtain rfl : c = 15#4 := by revert c; decide
    simp [condTrue]
  all_goals simp [condTrue, BitVec.slt, BitVec.sle, BitVec.ult, BitVec.ule]

/-- A word that writes one predicate of each of the lanes `ls`. -/
theorem actorsTest_wrP (n : Nat) (ls : List Nat) (nd : ls.Nodup) (val : Nat → Bool) :
    ActorsTest s i n ls val (ls.foldl (fun t l => t.wrP i l n (val l)) s) := by
  unfold ActorsTest State.wrP
  cases i.kind with
  | thread => exact threadsBecome_fold (fun l th => { th with preds := setPredBit th.preds n (val l) }) ls nd s
  | helper => exact helpersBecome_fold (fun l h => { h with preds := setPredBit h.preds n (val l) }) (fun _ _ => rfl) ls nd s

theorem scalarCompare : ScalarCompare := by
  intro s i f nd hi ha hn
  let b := if f.cond.toNat < 10 then s.opnd i i.lowest f.tb (i.scalarB f.tb f.b)
    else s.opndF i i.lowest .f32 false f.tb (i.scalarB f.tb f.b)
  have hexec : exec (.scmp f) s = .next (i.lanes.foldl (fun t l =>
      t.wrP i l f.pd.toNat (condHolds f.cond (s.rdS i f.sa.toNat) b id id)) s) := by
    show execScmp f s = _
    rw [execScmp, withScalar_named hi hn]
    simp only [ha, Bool.not_true, Bool.false_eq_true, if_false]
    rfl
  refine ⟨_, _, hexec, actorsTest_wrP f.pd.toNat i.lanes nd _, ?_⟩
  rw [condHolds_iff]
  by_cases hc : f.cond.toNat < 10 <;> simp only [hc, if_true, if_false, b, id]

/-- Settles O7: a scalar word that may run is one write of its operation's result, and the cases in which it does not run
follow the order of the checks. -/
theorem scalarWordResults : Obligations.ScalarWordResults := ⟨scalarResults, scalarForms, scalarCompare⟩

end Sys2Proof.Laws
end

section
/-! PROOF of O11: branches. -/

namespace Sys2Proof.Laws

open Sys2Proof.Machine Sys2Proof.Claims

variable {s : State} {i : Issue} {w : Warp} {t : Team}

/-- A branch runs, in threads and helpers, when the register it reads may be named. -/
theorem ctrl_branch {regs : List Nat} (hi : s.iss = some i) (hw : s.warp i.warp = some w) (ht : s.teamOf i.warp = some t)
    (hr : FormOk s i w regs) (k : Issue → Warp → Team → State → State) (who : State → Issue → List Nat) :
    s.ctrl true true regs k who = k i w t s := by
  rcases hr with rfl | ⟨hn, hr⟩
  · simp [State.ctrl, hi, hw, ht]
  · simp [State.ctrl, hi, hw, ht, hn, hr]

theorem branchTo_ok {ls : List Nat} {target : Nat → Nat} (hx : s.TargetsOk i w t (ls.map target)) :
    s.branchTo i w t ls target = s.branched i ls target :=
  withTargets_ok hx _

/-- Without a PFX the offset counts packets, modulo 2^23 (R80). -/
theorem offTarget_bare {off : BitVec 16} (hp : i.pfx = none) :
    i.offTarget off = (((i.p : Int) + off.toInt) % 2 ^ 23).toNat := by
  simp only [Issue.offTarget, hp]

theorem branches : Branches := by
  refine ⟨?bra, ?brx, ?jmpi, ?offset⟩
  case bra =>
    intro s i w t f hi hw ht ls x hx
    refine congrArg Host.Outcome.next ((ctrl_branch hi hw ht (.inl rfl) _ _).trans ?_)
    exact branchTo_ok (targetsOk_const hx)
  case brx =>
    intro s i w t f hi hw ht hf ls x hx
    exact congrArg Host.Outcome.next ((ctrl_branch hi hw ht hf _ _).trans (branchTo_ok hx))
  case jmpi =>
    intro s i w t f hi hw ht hf ls x hx
    refine congrArg Host.Outcome.next ((ctrl_branch hi hw ht hf _ _).trans ?_)
    rw [absTarget_eq]
    exact branchTo_ok hx
  case offset =>
    intro i off hp _
    rw [offTarget_bare hp]
    omega

/-! ### Targets that trap -/

theorem mem_dedup {x : Nat} {xs : List Nat} (h : x ∈ xs) : x ∈ dedup xs := by
  induction xs with
  | nil => exact h
  | cons y xs ih =>
    by_cases hxy : x = y
    · exact hxy ▸ List.mem_cons_self ..
    · have hx : x ∈ xs := (List.mem_cons.mp h).resolve_left hxy
      exact List.mem_cons_of_mem _ (List.mem_filter.mpr ⟨ih hx, by simpa using hxy⟩)

theorem minNat?_eq_min? (xs : List Nat) : minNat? xs = xs.min? := by
  induction xs with
  | nil => rfl
  | cons x xs ih =>
    rw [minNat?, ih, List.min?_cons]
    cases xs.min? <;> rfl

/-- Checks of targets that leave the machine as it is, one after the other. -/
theorem foldl_targetCheck {ys : List Nat} (h : ∀ y ∈ ys, (s.targetCheck i w t y).2 = s) (es : List Entry) :
    ys.foldl (fun (p : List Entry × State) x =>
      let (e, s) := p.2.targetCheck i w t x
      (p.1 ++ [e], s)) (es, s) = (es ++ ys.map fun y => (s.targetCheck i w t y).1, s) := by
  induction ys generalizing es with
  | nil => simp
  | cons y ys ih =>
    have hy := h y (List.mem_cons_self ..)
    rw [List.foldl_cons]
    dsimp only
    rw [hy, ih (fun z hz => h z (List.mem_cons_of_mem _ hz))]
    simp

/-- A bad target traps the group with the lowest sub-cause (R139). -/
theorem withTargets_bad {xs : List Nat} {c : Nat} (h : BadTargets s i w t xs c) (k : State → State) :
    s.withTargets i w t xs k = s.illegal c i.lanes := by
  obtain ⟨hall, x, hx, hc⟩ := h
  have hstay : ∀ y ∈ dedup xs, (s.targetCheck i w t y).2 = s := fun y hy => by
    rcases hall y (mem_of_mem_dedup hy) with h | ⟨c', -, h⟩ <;> rw [h]
  unfold State.withTargets
  rw [foldl_targetCheck hstay, List.nil_append]
  dsimp only
  rw [if_neg ?nofault, minNat?_eq_min?, List.min?_eq_some_iff.mpr ⟨List.mem_filterMap.mpr ?attained, ?least⟩]
  case nofault =>
    simp only [Bool.not_eq_true', List.isEmpty_eq_false_iff, ne_eq, not_not, List.filterMap_eq_nil_iff, List.forall_mem_map]
    intro y hy
    rcases hall y (mem_of_mem_dedup hy) with h | ⟨c', -, h⟩ <;> rw [h]
  case attained => exact ⟨.bad c, List.mem_map.mpr ⟨x, mem_dedup hx, by rw [hc]⟩, rfl⟩
  case least =>
    intro b hb
    obtain ⟨e, he, heb⟩ := List.mem_filterMap.mp hb
    obtain ⟨y, hy, rfl⟩ := List.mem_map.mp he
    rcases hall y (mem_of_mem_dedup hy) with h | ⟨c', hle, h⟩ <;> rw [h] at heb
    · cases heb
    · cases heb
      exact hle

/-- All actors of a branch to one packet go to that packet. -/
theorem badTargets_const {ls : List Nat} {x c : Nat} (hne : ls ≠ []) (h : BadTargets s i w t [x] c) :
    BadTargets s i w t (ls.map fun _ => x) c := by
  obtain ⟨a, ha⟩ := List.exists_mem_of_ne_nil ls hne
  unfold BadTargets at h ⊢
  simp only [List.mem_singleton, forall_eq, exists_eq_left] at h
  refine ⟨fun y hy => ?_, x, List.mem_map.mpr ⟨a, ha, rfl⟩, h.2⟩
  obtain ⟨-, -, rfl⟩ := List.mem_map.mp hy
  exact h.1

theorem branchTraps : BranchTraps := by
  intro s i w t hi hw ht
  refine ⟨fun x hx => ?_, fun x hx c hc => ?_, fun f c hne hb => ?_, fun f c hf => ⟨fun hb => ?_, fun hb => ?_⟩⟩
  · rw [State.targetCheck, if_pos hx]
  · rw [State.targetCheck, if_neg (by omega)] at hc
    dsimp only at hc
    split at hc
    · cases hc
    · cases hc
    · split at hc <;> cases hc
      rfl
  · refine congrArg Host.Outcome.next ((ctrl_branch hi hw ht (.inl rfl) _ _).trans ?_)
    exact withTargets_bad (badTargets_const hne hb) _
  · exact congrArg Host.Outcome.next ((ctrl_branch hi hw ht hf _ _).trans (withTargets_bad hb _))
  · refine congrArg Host.Outcome.next ((ctrl_branch hi hw ht hf _ _).trans ?_)
    rw [absTarget_eq]
    exact withTargets_bad hb _

/-- Settles O11, by running each word past its checks, and by the outcomes of the checks of its targets. -/
theorem branchWordTargets : Obligations.BranchWordTargets := ⟨branches, branchTraps⟩

end Sys2Proof.Laws
end

section
/-! PROOF of O16: turns and clause headers. -/

namespace Sys2Proof.Laws

open Sys2Proof.Machine Sys2Proof.Claims

variable {s : State} {i : Issue}

/-! ### NOP, YIELD and PRIOPASS -/

/-- The lead of a team of two warps on one scheduler passes to the other warp (R146). -/
theorem teamWarps_others {w v : Warp} {t : Team} {k : Nat} (hw : s.warp i.warp = some w) (hteam : s.teamWarps t = [i.warp, k])
    (hk : k ≠ i.warp) (hv : s.warp k = some v) (hs : v.sched = w.sched) :
    ((s.teamWarps t).filter fun k => ((s.warp k).map fun x => x.sched == w.sched && k != i.warp).getD false) = [k] := by
  simp [hteam, hw, hv, hs, hk]

theorem turnWords : TurnWords := by
  refine ⟨fun _ => rfl, ?yield, ?yieldDet, ?passNone, ?pass⟩
  case yield =>
    intro s i w t h hd
    show execYield s = _
    rw [execYield, ctrl_ready h, hd, if_neg Bool.false_ne_true]
  case yieldDet =>
    intro s i w t h hd
    show execYield s = _
    rw [execYield, ctrl_ready h, hd, if_pos rfl]
  case passNone =>
    intro s i w t h hl
    show execPriopass s = _
    rw [execPriopass, ctrl_ready h, if_pos (by simpa using hl)]
  case pass =>
    intro s i w v t k h hl hd hteam hk hv hs
    show execPriopass s = _
    rw [execPriopass, ctrl_ready h, if_neg (by simp [hl, hd])]
    dsimp only
    rw [teamWarps_others h.warp hteam hk hv hs]
    cases hlater : ((s.warp k).map fun x => decide (w.k < x.k)).getD false <;> simp [hlater]

/-! ### Clause headers -/

/-- What the copies in flight have written is no matter of the teams. -/
theorem teamOf_regsAcquired (wk k : Nat) : (s.regsAcquired wk).teamOf k = s.teamOf k := by
  unfold State.regsAcquired
  split <;> rfl

/-- The state in which a header's clause begins: a wait that has been met is an acquire of the warp's registers. -/
def headerAcquired (s : State) (i : Issue) (wait : BitVec 12) : State := if wait = 0 then s else s.regsAcquired i.warp

theorem teamOf_headerAcquired (wait : BitVec 12) (k : Nat) : (headerAcquired s i wait).teamOf k = s.teamOf k := by
  unfold headerAcquired
  split
  · rfl
  · exact teamOf_regsAcquired ..

/-- A clause of threads whose flags read zero begins, and ends the turn where it asks for that. -/
theorem exec_clause_thread {wait : BitVec 12} (a b : BitVec 4) (yld : BitVec 1) (hi : s.iss = some i) (hk : i.kind = .thread)
    (hf : s.flagsClear i.warp none wait = true) :
    let u := (headerAcquired s i wait).modThreads i.warp i.lanes fun th => { th with seta := a, setb := b, wait := wait }
    exec (.clause wait a b yld) s = .next (if yld = 1 ∧ ¬∃ t, s.teamOf i.warp = some t ∧ t.vals.det = true then
      (u.modWarp i.warp fun w => { w with yielded := true }).endTurn i.warp else u) := by
  intro u
  have hdet : ((!((u.teamOf i.warp).map fun t => t.vals.det).getD false) = true) ↔
      ¬∃ t, s.teamOf i.warp = some t ∧ t.vals.det = true := by
    rw [teamOf_modThreads, teamOf_headerAcquired]
    cases s.teamOf i.warp <;> simp
  show execClause wait a b yld s = _
  simp only [execClause, hi, hk, hf, Bool.not_true, Bool.false_eq_true, if_false]
  exact congrArg Host.Outcome.next (if_congr (and_congr_right fun _ => hdet) rfl rfl)

theorem exec_clause_threads_wait {wait : BitVec 12} (a b : BitVec 4) (yld : BitVec 1) (hi : s.iss = some i)
    (hk : i.kind = .thread) (hf : s.flagsClear i.warp none wait = false) :
    exec (.clause wait a b yld) s = .next s.stall := by
  show execClause wait a b yld s = _
  simp only [execClause, hi, hk, hf, Bool.not_false, if_true]

theorem exec_clause_helpers {wait : BitVec 12} (a b : BitVec 4) (yld : BitVec 1) (hi : s.iss = some i) (hk : i.kind = .helper) :
    exec (.clause wait a b yld) s = .next (if ∃ l ∈ i.lanes, s.flagsClear i.warp (some l) wait = false then s.stall
      else i.lanes.foldl (fun s l => s.modHelper i.warp l fun h => { h with seta := a, setb := b, wait := wait }) s) := by
  show execClause wait a b yld s = _
  simp only [execClause, hi, hk, List.any_eq_true, Bool.not_eq_true']

/-- The wait of a header stands until its first word has issued: a group with a flag of it pending does not issue (R69). -/
theorem issueWith_waits {ex : Instr → State → State} {wk : Nat} {w : Warp} {t : Team} {kind : IssKind} {lanes : List Nat}
    {pc : Nat} (count : Bool) (hw : s.warp wk = some w) (ht : s.teamOf wk = some t)
    (h : s.waitsMet (blankIssue wk kind lanes pc) = false) : s.issueWith ex wk kind lanes pc count = (false, s) := by
  unfold State.issueWith
  simp [hw, ht, h]

theorem clauseHeaders : ClauseHeaders := by
  refine ⟨?header, ?first⟩
  case header =>
    intro s i wait a b yld nd hi s' det
    refine ⟨fun hk hf => ⟨_, threadsBecome_modThreads s' i.warp i.lanes _ nd, fun hy => ?_, fun hy hd => ?_⟩,
      fun hk hf => ⟨_, ?_, helpersBecome_fold (fun _ h => { h with seta := a, setb := b, wait := wait }) (fun _ _ => rfl) _ nd s⟩,
      fun hk hf => exec_clause_threads_wait a b yld hi hk hf, fun hk hf => ?_⟩
    · refine (exec_clause_thread a b yld hi hk hf).trans (congrArg Host.Outcome.next (if_neg ?_))
      rintro ⟨h1, hn⟩
      rcases hy with h0 | hd
      · exact absurd (h1.symm.trans h0) (by decide)
      · exact hn hd
    · exact (exec_clause_thread a b yld hi hk hf).trans (congrArg Host.Outcome.next (if_pos ⟨hy, hd⟩))
    · refine (exec_clause_helpers a b yld hi hk).trans (congrArg Host.Outcome.next (if_neg ?_))
      rintro ⟨l, hl, h⟩
      simp [hf l hl] at h
    · exact (exec_clause_helpers a b yld hi hk).trans (congrArg Host.Outcome.next (if_pos hf))
  case first =>
    intro s ex wk w t lanes pc count hw ht
    refine ⟨?_, ?_⟩
    · rintro ⟨l, hl, th, hth, hf⟩
      refine issueWith_waits count hw ht (List.all_eq_false.mpr ⟨l, hl, ?_⟩)
      simp [blankIssue, hth, hf]
    · rintro ⟨l, hl, h, hh, hf⟩
      refine issueWith_waits count hw ht (List.all_eq_false.mpr ⟨l, hl, ?_⟩)
      simp [blankIssue, hw, hh, hf]

/-- Settles O16: each word runs past the checks of CTRL words, and a header by whether its flags read zero. -/
theorem turnAndClauseWords : Obligations.TurnAndClauseWords := ⟨turnWords, clauseHeaders⟩

end Sys2Proof.Laws
end

section
/-! PROOF of O20: what operations count on their flags. -/

namespace Sys2Proof.Laws

open Sys2Proof.Machine Sys2Proof.Claims

variable {s : State}

/-- A change of one flag of a warp changes no other. -/
theorem flagCount_modFlag {wk : Nat} {w : Warp} (hw : s.warp wk = some w) (f g : Nat) (h : Nat → Nat) :
    (s.modFlag wk none f h).flagCount wk none g =
      if g = f then (w.flags[f]?.map h).getD 0 else s.flagCount wk none g := by
  simp only [State.flagCount, State.modFlag, warp_modWarp, if_true, hw, Option.map_some, List.getD_eq_getElem?_getD,
    List.getElem?_modify]
  by_cases hg : g = f
  · subst hg
    simp
  · simp [hg, Ne.symm hg]

theorem flagCount_eq {wk : Nat} {w : Warp} (hw : s.warp wk = some w) (f : Nat) :
    s.flagCount wk none f = (w.flags[f]?).getD 0 := by
  simp only [State.flagCount, hw, List.getD_eq_getElem?_getD]

/-- An operation that starts raises its flag by one (R70). -/
theorem flagCount_startOp {o : Op} {w : Warp} {f : Nat} (hf : o.flag = some f) (hh : o.helper = none)
    (hw : s.warp o.warp = some w) (hlen : f < w.flags.length) (g : Nat) :
    (s.startOp o).2.flagCount o.warp none g = s.flagCount o.warp none g + (if g = f then 1 else 0) := by
  simp only [State.startOp, hf, hh]
  refine (flagCount_modFlag hw f g (· + 1)).trans ?_
  by_cases hg : g = f
  · subst hg
    simp [flagCount_eq hw, hlen]
  · rw [if_neg hg, if_neg hg]
    rfl

/-- An operation that completes lowers its flag by one (R71). -/
theorem flagCount_endOp {id : Nat} {o : Op} {f : Nat} (ho : s.op id = some o) (hf : o.flag = some f) (hh : o.helper = none)
    (g : Nat) : (s.endOp id).flagCount o.warp none g = s.flagCount o.warp none g - (if g = f then 1 else 0) := by
  simp only [State.endOp, ho, hf, hh]
  cases hw : s.warp o.warp with
  | none =>
    have hend : ((s.dropOp id).modFlag o.warp none f (· - 1)).warp o.warp = none := by
      simp only [State.modFlag, warp_modWarp, if_true]
      exact congrArg _ hw
    simp [State.flagCount, hw, hend]
  | some w =>
    refine (flagCount_modFlag (s := s.dropOp id) hw f g (· - 1)).trans ?_
    by_cases hg : g = f
    · subst hg
      rw [if_pos rfl, if_pos rfl, flagCount_eq hw]
      cases w.flags[g]? <;> rfl
    · rw [if_neg hg, if_neg hg]
      rfl

/-- Settles O20: a start and a completion each change one flag of the warp, by one. -/
theorem flagsCountOperations : Obligations.FlagsCountOperations := by
  refine ⟨fun s o w f g hf hh hw hlen => flagCount_startOp hf hh hw hlen g, fun s id o f g ho hf hh =>
    ⟨flagCount_endOp ho hf hh g, ?_⟩⟩
  simp only [State.endOp, ho, hf, hh]
  rfl

end Sys2Proof.Laws
end

section
/-! PROOF of O22: atomics past their checks. -/

namespace Sys2Proof.Laws

open Sys2Proof.Machine Sys2Proof.Claims

variable {s : State} {i : Issue}

/-! ### Widths, addresses and operands -/

theorem w64_eq (i : Issue) : ((i.pfx.map (·.w64)).getD 0 == 1) = (atomBytes i == 8) := by
  unfold atomBytes
  split
  · next h => rw [h]; rfl
  · next h => rw [beq_eq_false_iff_ne.mpr h]; rfl

theorem width_eq (i : Issue) : (if atomBytes i == 8 then 8 else 4) = atomBytes i := by
  unfold atomBytes
  split <;> rfl

/-- The address pair of a lane, off the control core. -/
theorem rdAddr_vector (hc : s.onControl i = false) (l a : Nat) :
    s.rdAddr i l a = (s.rdV i l (a + 1)).toNat * 2 ^ 32 + (s.rdV i l a).toNat := by
  unfold State.rdAddr
  rw [rdD_vector hc, rdD_vector hc, toNat_append_add]
  omega

/-- The registers an atomic op reads: its address, then D and, of a CAS, E after it. -/
def atomSrcs (i : Issue) (code : Nat) (d a : BitVec 7) : List Nat :=
  [a.toNat, a.toNat + 1] ++
    (if code = 15 then [] else regRange d.toNat (if code = 9 then 2 * (atomBytes i / 4) else atomBytes i / 4))

/-- The registers its return writes. -/
def atomDsts (i : Issue) (code : Nat) (d : BitVec 7) : List Nat :=
  if code = 14 then [] else regRange d.toNat (atomBytes i / 4)

/-- The operation an atomic starts for the lanes `ls`. -/
def atomOp (s : State) (i : Issue) (code : Nat) (d : BitVec 7) (fsel : BitVec 1) (ls : List Nat) : Op :=
  { blankOp i.warp .atomic with
    lanes := ls, flag := s.flagOf i (some fsel), vdests := ls.flatMap fun l => (atomDsts i code d).map fun r => (l, r) }

/-- The located lanes of an atomic perform or send their ops, in order, under the operation `id`; an acquire holds the
threads' later accesses. `s0` is the machine whose registers the word reads. -/
def atomBody (s0 : State) (i : Issue) (w : Warp) (t : Team) (code : Nat) (d : BitVec 7) (scope : BitVec 4) (order : BitVec 2)
    (accs : List LaneAcc) (s : State) (id : Nat) (ls : List Nat) : State :=
  let (ps, s) := accs.foldl (fun (p : List LanePart × State) x =>
    let relSc := if code = 15 then 0 else if order.getLsbD 1 then scope.toNat else
      ((p.2.thread i.warp x.lane).bind (·.relHold)).getD 0
    let (q, s) := p.2.atomLane i w id t.ctx code scope.toNat (atomBytes i == 8) (order.getLsbD 0)
      ((i.pfx.map (·.rp)).getD 0 == 1) order relSc (atomWord s0 i d.toNat x.lane)
      (atomWord s0 i (d.toNat + atomBytes i / 4) x.lane) x d.toNat
    (q :: p.1, s)) ([], s)
  let s := s.modOp id fun o => { o with parts := if code = 15 then s.detParts t accs ps.reverse else ps.reverse }
  if order.getLsbD 0 then
    s.modThreads i.warp ls fun t => { t with acqOps := t.acqOps ++ [(id, decide (5 ≤ scope.toNat))] }
  else s

/-- An access that deterministic mode does not hold and whose lanes are all reached goes on, whatever it writes. -/
theorem access_writes {w : Warp} {t : Team} {n : Nat} {a : Access} {acc : List (Nat × Nat)} {accs : List LaneAcc} {s1 : State}
    {hold : Warp → Team → Bool} {writes : Bool} (hw : s.warp i.warp = some w) (ht : s.teamOf i.warp = some t)
    (hh : hold w t = false) (h : s.Reaches i w t n a acc accs s1 writes) (k : Warp → Team → List LaneAcc → State → State) :
    s.access i n a acc k (hold := hold) (writes := writes) = k w t accs s1 := by
  obtain ⟨htrap, hloc⟩ := h
  simp [State.access, hw, ht, htrap, hloc, hh]

/-- An atomic of threads past its checks, its release brought about, starts one operation and runs its lanes. -/
theorem atom_starts {w : Warp} {t : Team} {code : Nat} {d a : BitVec 7} {scope : BitVec 4} {order : BitVec 2} {fsel : BitVec 1}
    {accs : List LaneAcc} {s1 s2 : State} (h : s.ReadyT i w (atomSrcs i code d a) (atomDsts i code d)) (hn : w.kind = .normal)
    (ht : s.teamOf i.warp = some t) (hne : s.acting i ≠ []) (h2 : atomBytes i = 8 → d.toNat % 2 = 0)
    (h4 : atomBytes i = 8 ∧ code = 9 → d.toNat % 4 = 0) (hm : s.MemoryFree i (s.flagOf i (some fsel)))
    (hdet : t.vals.det = true → s.holdsToken w t = true)
    (hperf : order.getLsbD 1 = true → ∀ l ∈ s.acting i, s.unperformed i.warp l = false)
    (hr : s.Reaches i w t (atomBytes i) .atomic (laneAddrs s i fun s i l => s.rdAddr i l a.toNat) accs s1 (code != 15))
    (hhost : ∀ x ∈ accs, ∀ c ha, x.loc = .host c ha → code = 0 ∨ code = 8 ∨ code = 9)
    (hrel : Released s1 i w.core scope.toNat (order.getLsbD 1) (s.acting i) s2) :
    s.atom code d a scope order fsel =
      (atomBody s i w t code d scope order accs (s2.startOp (atomOp s i code d fsel (s.acting i))).2 s2.nextId
        (s.acting i)).pend (.atomicReturn s2.nextId) := by
  have hc := onControl_ready h.toReady
  obtain ⟨u, hfence, hrels⟩ := hrel
  unfold State.atom
  rw [h.issuing]
  dsimp only
  rw [w64_eq, width_eq, if_neg (by simp [h.threads]), if_neg ?aligned]
  case aligned =>
    simp only [Bool.or_eq_true, Bool.and_eq_true, beq_iff_eq, bne_iff_ne, not_or, not_and, not_not, and_imp]
    exact ⟨h2, fun h8 hcas => h4 ⟨h8, hcas⟩⟩
  refine (withMem_ready h.toReady _ _).trans ?_
  rw [lanes_laneAddrs fun s i l => s.rdAddr i l a.toNat, memoryFree_unstalled hm, if_neg ?performed,
    access_writes h.warp ht ?token hr]
  case performed =>
    simp only [Bool.false_or, Bool.and_eq_true, List.any_eq_true, not_and, not_exists, Bool.not_eq_true]
    exact fun hrel l hl => hperf hrel l hl
  case token => simpa using hdet
  split
  next x r hx =>
    exfalso
    obtain ⟨hmem, hbad⟩ := List.mem_filter.mp (hx ▸ List.mem_cons_self : x ∈ accs.filter _)
    split at hbad
    next c ha hloc =>
      rcases hhost x hmem c ha hloc with rfl | rfl | rfl <;> cases hbad
    next => cases hbad
  next =>
    dsimp only at hrels
    rw [hfence]
    dsimp only
    rw [hrels, if_neg (by simp), startOps_thread h.threads hne, hn]
    simp only [rdD_vector hc]
    rfl

/-- A word that runs an atomic op is an atomic word. -/
theorem atomWord_of_exec {word : Instr} {code : Nat} {d a : BitVec 7} {scope : BitVec 4} {order : BitVec 2} {fsel : BitVec 1}
    (hexec : ∀ s, exec word s = .next (s.atom code d a scope order fsel)) : AtomWord word code d a scope order fsel := by
  intro s s1 s2 i w t accs ps s3 n w64 dsts srcs ls acc acq rel flag h hn ht hne h2 h4 hm hdet hperf hr hhost hrel o hfold s4
  have hacc : laneAddrs s i (fun s i l => s.rdAddr i l a.toNat) = acc := by
    simp only [laneAddrs, rdAddr_vector (onControl_ready h.toReady), acc, ls]
  have hbody : atomBody s i w t code d scope order accs (s2.startOp o).2 s2.nextId ls =
      if acq then s4.modThreads i.warp ls fun th =>
        { th with acqOps := th.acqOps ++ [(s2.nextId, decide (5 ≤ scope.toNat))] }
      else s4 := by
    unfold atomBody
    rw [hfold]
  rw [hexec, atom_starts h hn ht (by simpa [acc] using hne) h2 h4 hm hdet hperf (hacc ▸ hr) hhost hrel, ← hbody]
  rfl

/-- Settles O22, by running each word past its checks to the operation it starts. -/
theorem atomicWords : Obligations.AtomicWords := by
  refine ⟨fun f => ⟨?_, ?_, ?_, ?_, ?_, ?_, ?_, ?_, ?_, ?_, ?_, ?_, ?_, ?_⟩, fun f => ⟨?_, ?_⟩⟩ <;>
    exact atomWord_of_exec fun _ => rfl

end Sys2Proof.Laws
end

section
/-! PROOF of O54: the word that a bundle's turn runs. -/

namespace Sys2Proof.Laws

open Sys2Proof.Machine Sys2Proof.Claims

variable {s : State}

/-! ### Fetching a word leaves the group that is issuing as it is -/

/-- Steps that leave the issuing group as it is, one after the other. -/
theorem iss_foldl {α : Type} {f : State → α → State} (h : ∀ s x, (f s x).iss = s.iss) (l : List α) (s : State) :
    (l.foldl f s).iss = s.iss := by
  induction l generalizing s with
  | nil => rfl
  | cons x l ih => exact (ih _).trans (h s x)

theorem iss_foldl_snd {α β : Type} {f : β × State → α → β × State} (h : ∀ p x, (f p x).2.iss = p.2.iss) (l : List α)
    (p : β × State) : (l.foldl f p).2.iss = p.2.iss := by
  induction l generalizing p with
  | nil => rfl
  | cons x l ih => exact (ih _).trans (h p x)

/-- So does a choice between two such states. -/
theorem iss_if {c : Prop} [Decidable c] {a b : State} (ha : a.iss = s.iss) (hb : b.iss = s.iss) :
    (if c then a else b).iss = s.iss := by
  split
  · exact ha
  · exact hb

theorem iss_if_snd {β : Type} {c : Prop} [Decidable c] {a b : β × State} (ha : a.2.iss = s.iss) (hb : b.2.iss = s.iss) :
    (if c then a else b).2.iss = s.iss := by
  split
  · exact ha
  · exact hb

theorem iss_of_snd {β : Type} {p : β × State} {t : State} {b : β} (h : p.2.iss = s.iss) (e : p = (b, t)) :
    t.iss = s.iss := by
  subst e
  exact h

/-! Home points, stamps and settled writes -/

theorem noteWritten_iss (a n : Nat) : (s.noteWritten a n).iss = s.iss := iss_if rfl rfl

theorem noteWhole_iss (a n : Nat) : (s.noteWhole a n).iss = s.iss := iss_if rfl rfl

theorem noteDropped_iss (a n : Nat) : (s.noteDropped a n).iss = s.iss := iss_if rfl rfl

theorem settleWr_iss (w : HWr) : (s.settleWr w).iss = s.iss := iss_foldl (fun _ _ => noteWritten_iss ..) _ _

theorem settleBlock_iss (b : Nat) : (s.settleBlock b).iss = s.iss := by
  unfold State.settleBlock
  split
  · rfl
  · exact settleWr_iss _

theorem settleBlockAll_iss (b : Nat) : (s.settleBlockAll b).iss = s.iss := iss_foldl (fun _ _ => settleBlock_iss _) _ _

theorem finalWrite_iss (a : Nat) (d : List Byte) : (s.finalWrite a d).iss = s.iss := by
  unfold State.finalWrite
  rw [noteWhole_iss, noteDropped_iss]
  exact iss_foldl (fun _ _ => settleBlockAll_iss _) _ _

theorem physWrite_iss (a n v : Nat) : (s.physWrite a n v).iss = s.iss := finalWrite_iss ..

theorem homeWrite_iss (bs : List (Nat × Byte)) : (s.homeWrite bs).iss = s.iss := by
  unfold State.homeWrite
  split <;> rfl

theorem homeStore_iss (a : Nat) (d : List Byte) : (s.homeStore a d).iss = s.iss := iss_foldl (fun _ _ => homeWrite_iss _) _ _

theorem noteMigr_iss (p : Migr → Bool) : (s.noteMigr p).iss = s.iss := iss_if rfl rfl

/-! Operations that end -/

theorem modFlag_iss (wk : Nat) (h : Option Nat) (f : Nat) (g : Nat → Nat) : (s.modFlag wk h f g).iss = s.iss := by
  cases h <;> rfl

theorem endOp_iss (id : Nat) : (s.endOp id).iss = s.iss := by
  unfold State.endOp
  cases s.op id with
  | none => rfl
  | some o =>
    cases hf : o.flag with
    | none => simp [hf]
    | some f => simp [hf, modFlag_iss]

theorem endOpAcq_iss (id : Nat) : (s.endOpAcq id).iss = s.iss := by
  unfold State.endOpAcq
  rw [endOp_iss]
  split <;> rfl

theorem regsAcquired_iss (wk : Nat) : (s.regsAcquired wk).iss = s.iss := by
  unfold State.regsAcquired
  split <;> rfl

theorem fenceEnd_iss (op : Nat) : (s.fenceEnd op).iss = s.iss := by
  unfold State.fenceEnd
  split
  · rfl
  · have hacq {c : Prop} [Decidable c] : (if c then s.regsAcquired ((s.op op).map (·.warp) |>.getD 0) else s).iss = s.iss :=
      iss_if (regsAcquired_iss _) rfl
    exact iss_if hacq hacq

theorem fillPart_iss (op lane : Nat) (bs : List Byte) (bad : Bool) : (s.fillPart op lane bs bad).iss = s.iss := by
  unfold State.fillPart
  split
  · rfl
  · exact fenceEnd_iss _

theorem swPart_iss (op : Nat) : (s.swPart op).iss = s.iss := by
  unfold State.swPart
  exact iss_if (endOpAcq_iss _) rfl

/-! Error records -/

theorem signal_iss (fn v : Nat) : (s.signal fn v).iss = s.iss := iss_if rfl (noteMigr_iss _)

theorem ringPut_iss (d : Nat) (r : List Byte) : (s.ringPut d r).iss = s.iss := by
  unfold State.ringPut
  rw [physWrite_iss, finalWrite_iss]

theorem history_iss (r : List Byte) : (s.history r).iss = s.iss := by
  unfold State.history
  rfl

theorem errorRecord_iss (c : Option Nat) (r : ErrRec) : (s.errorRecord c r).iss = s.iss := by
  unfold State.errorRecord
  split
  · exact history_iss _
  · exact iss_if ((signal_iss ..).trans (ringPut_iss ..)) (physWrite_iss ..)

theorem millRecord_iss (k row : Nat) (who : Option (Nat × Nat)) : (s.millRecord k row who).iss = s.iss := by
  unfold State.millRecord
  rw [errorRecord_iss]
  rfl

/-! Rows of SW memory restored and served -/

theorem retireShot_iss (x : Shot) : (s.retireShot x).iss = s.iss := swPart_iss _

theorem refuseShot_iss (x : Shot) : (s.refuseShot x).iss = s.iss := (millRecord_iss ..).trans (retireShot_iss x)

theorem enterShot_iss (x : Shot) : (s.enterShot x).iss = s.iss :=
  iss_if rfl ((millRecord_iss ..).trans (retireShot_iss x))

theorem unstage_iss (ch : Nat) : (s.unstage ch).iss = s.iss :=
  iss_foldl (fun _ x => iss_if (enterShot_iss x) rfl) _ _

theorem applyFn_iss (row code : Nat) (lw16 : Bool) (k0 k1 : Word) (who : Option (Nat × Nat)) :
    (s.applyFn row code lw16 k0 k1 who).iss = s.iss := by
  have hset : (if code = 0 ∨ code = 11 then s else s.setRow row (applyRow code lw16 k0 k1 (s.rowBytes row)).1).iss = s.iss :=
    iss_if rfl rfl
  exact iss_if ((millRecord_iss ..).trans hset) hset

theorem applyShot_iss (x : Shot) : (s.applyShot x).iss = s.iss := (retireShot_iss x).trans (applyFn_iss ..)

theorem periodic_iss (row : Nat) : (s.periodic row).iss = s.iss := by
  unfold State.periodic
  split
  · rfl
  · exact applyFn_iss ..

theorem restoreRow_iss (row : Nat) (refresh : Bool) (who : Option (Nat × Nat)) : (s.restoreRow row refresh who).iss = s.iss := by
  unfold State.restoreRow
  extract_lets ues pend m s1 owner fills s2 known s3 s4 s5
  have h1 : s1.iss = s.iss := rfl
  clear_value s1
  have hshots (l : List Shot) (t : State) : (l.foldl State.applyShot t).iss = t.iss :=
    iss_foldl (fun _ _ => applyShot_iss _) ..
  have hrefuse (l : List Shot) (t : State) : (l.foldl State.refuseShot t).iss = t.iss :=
    iss_foldl (fun _ _ => refuseShot_iss _) ..
  have h2 : s2.iss = s.iss := (hshots ..).trans h1
  clear_value s2
  have h3 : s3.iss = s.iss := by
    unfold s3
    split
    · exact (hrefuse pend s1).trans h1
    next f _ =>
      extract_lets before from_ t1 t2
      have ht : t2.iss = s.iss := (hshots from_ t1).trans ((hrefuse before s1).trans h1)
      exact iss_if ((periodic_iss _).trans ht) ht
  clear_value s3
  have h4 : s4.iss = s.iss :=
    iss_if (iss_if ((periodic_iss _).trans h2) h2) (iss_if h3 ((millRecord_iss ..).trans h3))
  clear_value s4
  have h5 : s5.iss = s.iss := (unstage_iss _).trans h4
  clear_value s5
  exact iss_if h5 h5

theorem serveEnt_iss (e : QEnt) : (s.serveEnt e).iss = s.iss := by
  refine iss_if ?dead ?live
  case dead =>
    split
    · exact fillPart_iss ..
    · exact millRecord_iss ..
    · exact (millRecord_iss ..).trans (fillPart_iss ..)
    · exact swPart_iss _
  case live =>
    split
    · exact (restoreRow_iss ..).trans (fillPart_iss ..)
    · exact restoreRow_iss ..
    · exact (restoreRow_iss ..).trans (iss_if (fillPart_iss ..) (fillPart_iss ..))
    · exact (swPart_iss _).trans (restoreRow_iss ..)

theorem serveRow_iss (row : Nat) : (s.serveRow row).iss = s.iss := iss_foldl (fun _ _ => serveEnt_iss _) _ _

theorem swRead_iss (pa n : Nat) (who : Option (Nat × Nat)) : (s.swRead pa n who).2.2.iss = s.iss := by
  unfold State.swRead
  dsimp only
  split
  · exact (restoreRow_iss ..).trans (serveRow_iss _)
  · exact serveRow_iss _

theorem homeRead_iss (loc : Loc) (n ctx va : Nat) : (s.homeRead loc n ctx va).2.iss = s.iss := by
  unfold State.homeRead
  split
  case h_3 => exact swRead_iss ..
  all_goals rfl

/-! Translation -/

theorem walkRead_iss (fd ctx addr level lg : Nat) : (s.walkRead fd ctx addr level lg).2.iss = s.iss := by
  unfold State.walkRead
  split
  · rfl
  · dsimp only
    split <;> rfl

theorem walkFrom_iss (fd ctx va : Nat) (ls : List (Nat × Nat × Nat × Nat)) (table : Nat) :
    (s.walkFrom fd ctx va ls table).2.iss = s.iss := by
  induction ls generalizing s table with
  | nil => rfl
  | cons l ls ih =>
    obtain ⟨level, hi, lo, lg⟩ := l
    have h1 : (s.walkRead fd ctx (table + 8 * bits va hi lo) level lg).2.iss = s.iss := walkRead_iss ..
    unfold State.walkFrom
    refine iss_if_snd h1 (iss_if_snd h1 (iss_if_snd (iss_if_snd h1 h1) (iss_if_snd ?_ h1)))
    exact (ih _).trans h1

theorem raiseHeat_iss (a : Access) (addr e : Nat) : (s.raiseHeat a addr e).iss = s.iss := by
  unfold State.raiseHeat
  exact iss_if rfl (iss_if (physWrite_iss ..) (homeStore_iss ..))

theorem pageWalk_iss (u : XUnit) (ctx va : Nat) (a : Access) : (s.pageWalk u ctx va a).2.iss = s.iss := by
  unfold State.pageWalk
  dsimp only
  split
  · rfl
  next c _ =>
    have hwalk : (if s.present c.ptroot then s.walkFrom (unitField u) ctx va walkLevels c.ptroot
        else (.fail 4 0 16, s)).2.iss = s.iss := iss_if_snd (walkFrom_iss ..) rfl
    split
    · exact hwalk
    · exact iss_if ((raiseHeat_iss ..).trans hwalk) ((raiseHeat_iss ..).trans hwalk)

theorem atsAsk_iss (key : Nat × Option (BitVec 20) × Nat) : (s.atsAsk key).2.iss = s.iss := by
  refine iss_if ?_ ?_ <;> split <;> rfl

theorem hostXlate_iss (ctx ha base lg : Nat) (a : Access) : (s.hostXlate ctx ha base lg a).2.iss = s.iss := by
  unfold State.hostXlate
  split
  · rfl
  · refine iss_if_snd rfl ?_
    split
    · rfl
    · have hask : ∀ key, (s.atsAsk key).2.iss = s.iss := fun key => atsAsk_iss key
      exact iss_if_snd rfl (iss_if_snd rfl (iss_if_snd (hask _) (iss_if_snd (hask _) (hask _))))

theorem leafLoc_iss (ctx va leaf base lg : Nat) (a : Access) : (s.leafLoc ctx va leaf base lg a).2.iss = s.iss := by
  unfold State.leafLoc
  split
  case h_5 => exact hostXlate_iss ..
  case h_6 => exact iss_if_snd rfl rfl
  all_goals rfl

theorem translate_iss (u : XUnit) (ctx va : Nat) (a : Access) : (s.translate u ctx va a).2.iss = s.iss := by
  unfold State.translate
  split
  · exact iss_if_snd (leafLoc_iss ..) rfl
  · split
    next heq =>
      have h1 := iss_of_snd (pageWalk_iss ..) heq
      exact iss_if_snd ((leafLoc_iss ..).trans h1) h1
    next heq => exact iss_of_snd (pageWalk_iss ..) heq

/-! The fetch -/

theorem skSend_iss (m : Msg) (ctx va : Nat) (who : SkWho) : (s.skSend m ctx va who).1.iss = s.iss := by
  unfold State.skSend
  dsimp only
  split
  · rfl
  · exact iss_if rfl (noteMigr_iss _)

theorem wordAt_iss (wk core ctx va lane : Nat) : (s.wordAt wk core ctx va lane).2.iss = s.iss := by
  unfold State.wordAt
  dsimp only
  split
  next heq => exact iss_of_snd (translate_iss ..) heq
  next heq => exact iss_of_snd (translate_iss ..) heq
  next heq =>
    have h1 := iss_of_snd (translate_iss ..) heq
    split
    · exact h1
    · exact iss_if_snd h1 ((skSend_iss ..).trans h1)
  next heq =>
    have h1 := iss_of_snd (translate_iss ..) heq
    split
    all_goals
      next heq => exact iss_of_snd ((homeRead_iss ..).trans h1) heq

/-- The packets a group's words ask about are looked at without a change of the group. -/
theorem lookEntries_iss (i : Issue) (w : Warp) (t : Team) (xs : List Nat) : (s.lookEntries i w t xs).2.iss = s.iss := by
  unfold State.lookEntries
  refine iss_foldl_snd (fun p x => ?_) _ _
  split
  all_goals next heq => exact iss_of_snd (wordAt_iss ..) heq


/-! ### What stands at a slot -/

/-- The member that a word alone at slot `q` makes. -/
def aloneMember (ws : Nat → Word) (q : Nat) (cc : Bool) (reach : List Nat) (a : Instr) : Member :=
  { slot := q, instr := a, uses := (usesOf a none cc).reaches reach, lit := ws (q + 1) }

/-- Which tiles a word reaches is no matter of its literal, its tags or its constants. -/
theorem reaches_fields (u : Uses) (reach : List Nat) : (u.reaches reach).lit = u.lit ∧ (u.reaches reach).badTag = u.badTag ∧
    (u.reaches reach).consts = u.consts := by
  unfold Uses.reaches
  split <;> exact ⟨rfl, rfl, rfl⟩

theorem decodeShape_ok {x : Word} {a : Instr} (h : decodeWord x = .ok a) : decodeShape x = (none, .ok a) := by
  unfold decodeShape
  rw [h]

/-- The sub-cause of a CVT of one type to itself is above 3. -/
theorem decodeShape_error {x : Word} {e : DecodeErr} (h : decodeWord x = .error e) (hc : e.code ≤ 3) :
    decodeShape x = (none, .error e) := by
  unfold decodeShape
  rw [h]
  split
  next heq =>
    cases heq
    exact absurd hc (by decide)
  next => rfl

theorem gather_alone {ws : Nat → Word} {q : Nat} {cc : Bool} {a : Instr} (reach : List Nat) (h : Alone (ws q) cc a) (n : Nat) :
    gather ws none cc reach (n + 1) q true = ([], [aloneMember ws q cc reach a], q + 1) := by
  obtain ⟨hchain, -, hdec, htag, hlit, -⟩ := h
  replace hchain : chained (ws q) = false := hchain
  obtain ⟨rlit, rtag, -⟩ := reaches_fields (usesOf a none cc) reach
  simp [gather, decodeShape_ok hdec, hchain, rlit, rtag, hlit, htag, aloneMember]

theorem scan_alone {ws : Nat → Word} {q : Nat} {x : Word} {cc : Bool} {a : Instr} (reach : List Nat) (hx : ws q = x)
    (h : Alone x cc a) : scan ws q cc reach = .group none [aloneMember ws q cc reach a] (q + 1) := by
  subst hx
  obtain ⟨-, hmaj, -⟩ := id h
  replace hmaj : major (ws q) < 0x3E := hmaj
  unfold scan
  rw [gather_alone reach h]
  simp [hmaj.ne, (show major (ws q) ≠ 0x3F by omega), pairErrors, worst]

/-- A word that decodes to nothing makes no member. -/
theorem gather_error {ws : Nat → Word} {q : Nat} {e : DecodeErr} (cc : Bool) (reach : List Nat)
    (hchain : chained (ws q) = false) (hdec : decodeWord (ws q) = .error e) (hc : e.code ≤ 3) (n : Nat) :
    ∃ after, gather ws none cc reach (n + 1) q true = ([{ code := e.code, slot := q, word := ws q }], [], after) := by
  simp [gather, decodeShape_error hdec hc, hchain]

theorem scan_error {ws : Nat → Word} {q : Nat} {x : Word} {e : DecodeErr} (cc : Bool) (reach : List Nat) (hx : ws q = x)
    (hchain : chained x = false) (hmaj : major x < 0x3E) (hdec : decodeWord x = .error e) (hc : e.code ≤ 3) :
    ∃ after, scan ws q cc reach = .bad { code := e.code, slot := q, word := x } none [] after := by
  subst hx
  obtain ⟨after, hg⟩ := gather_error cc reach hchain hdec hc 2
  unfold scan
  rw [hg]
  simp [hmaj.ne, (show major (ws q) ≠ 0x3F by omega), pairErrors, worst]

/-! ### A group of one member -/

theorem setPcs_iss (i : Issue) (pc : Nat) : (s.setPcs i pc).iss = s.iss := by
  unfold State.setPcs
  split
  · rfl
  · exact iss_foldl (f := fun s l => s.modHelper i.warp l _) (fun _ _ => rfl) _ _

/-- A member of a group with no PFX is under none. -/
theorem under_none (i : Issue) (ms : List Member) (m : Member) : i.under none ms m = { i with pfx := none } := by
  simp only [Issue.under, ite_self]

theorem readConsts_nil (i : Issue) : s.readConsts i [] = s := by
  unfold State.readConsts
  split <;> rfl

/-- The state in which the one member `m` of a group runs, with the group's actors at byte offset `next`. -/
def memberStart (pre : State) (i : Issue) (m : Member) (next : Nat) : State :=
  (pre.setPcs i next).modIss fun j => { j with slot := m.slot, lit := m.lit }

section
variable {pre u : State} {i j : Issue} {m : Member} {next : Nat} (hi : pre.iss = some i) (hv : i.view = none) (hp : i.pfx = none)
include hi hv hp

/-- A group of one member reads the machine as it runs, under no PFX. -/
theorem memberStart_eq : (((pre.setPcs i next).modIss fun j => { j with view := none }).modIss fun j =>
    { j with slot := m.slot, lit := m.lit, pfx := none }) = memberStart pre i m next := by
  simp only [memberStart, State.modIss, setPcs_iss, hi, Option.map_some, ← hv, ← hp]

/-- The one member of a group runs; a trap of it is the group's, and else what its meaning leaves, with the sources that the
operations it started keep (R201). -/
theorem runMembers_one (ex : Instr → State → State) (hu : ex m.instr (memberStart pre i m next) = u) (hj : u.iss = some j) :
    let members := ((pre.setPcs i next).modIss fun j => { j with view := none }).runMembers ex none [m]
    (∀ r, j.trap = some r → members.1 = [r]) ∧
    (j.trap = none → members = ([], u.noteSrcs i.warp (memberStart pre i m next).nextId m.uses.srcV)) := by
  subst hu
  have hwarp : ((memberStart pre i m next).iss.map (·.warp)).getD 0 = i.warp := by
    simp [memberStart, State.modIss, setPcs_iss, hi]
  dsimp only [State.runMembers]
  rw [memberStart_eq hi hv hp, hj, Option.bind_some]
  refine ⟨fun r hr => ?_, fun hr => ?_⟩
  · rw [hr]
  · rw [hr, hwarp]

/-- The outcome of a group of one member: its trap, its faults, or what follows the group. -/
theorem runGroup_one (ex : Instr → State → State) {w : Warp} (count : Bool) (hw : pre.warp i.warp = some w)
    (hu : ex m.instr (memberStart pre i m next) = u) (hj : u.iss = some j) :
    let out := pre.runGroup ex i none [m] next count
    (j.trap = none → j.faults = [] → j.stalled = false → out =
      (true, (u.noteSrcs i.warp (memberStart pre i m next).nextId m.uses.srcV).afterGroup pre i [m] count)) ∧
    (∀ r, j.trap = some r → out = (true, { pre with iss := none }.takeGroupTrap i r)) ∧
    (j.trap = none → j.faults ≠ [] → out =
      (true, { pre with iss := none }.takeFaults i j.faults (j.faults.all fun e => e.acc != 8))) := by
  obtain ⟨htrap, hnone⟩ := runMembers_one hi hv hp ex hu hj
  have hpost : (u.noteSrcs i.warp (memberStart pre i m next).nextId m.uses.srcV).iss = some j := hj
  have hrun : pre.runGroup ex i none [m] next count =
      let members := ((pre.setPcs i next).modIss fun j => { j with view := none }).runMembers ex none [m]
      pre.settleGroup members.2 i members.1 [m] count := by
    unfold State.runGroup
    rw [hw]
    rfl
  refine ⟨fun hr hf hs => ?_, fun r hr => ?_, fun hr hf => ?_⟩
  · rw [hrun, hnone hr]
    simp [State.settleGroup, pickTrap, hpost, hf, hs]
  · rw [hrun]
    dsimp only
    rw [htrap r hr]
    rfl
  · rw [hrun, hnone hr]
    simp [State.settleGroup, pickTrap, hpost, hf]

end

/-! ### Issue -/

section
variable {s1 s2 pre : State} {i : Issue} {wk pc : Nat} {kind : IssKind} {lanes : List Nat} {w : Warp} {t : Team} {m : Member}
  (ex : Instr → State → State) (count : Bool)

/-- A group of one member that reads no constant runs once its registers are free and the packets it asks about are looked
at. -/
theorem issueGroup_one {after : Nat} (hi : i = blankIssue wk kind lanes pc) (hs2 : ({ s1 with iss := some i } : State) = s2)
    (hc : m.uses.consts = []) (hf : s2.regsFree i m.uses = true)
    (hl : s2.lookEntries i w t (s2.entriesOf i m.instr) = (.word 0, pre)) :
    let out := pre.runGroup ex i none [m] (if 3 ≤ after then 12 * (i.p + 1) else 12 * i.p + 4 * after) count
    s.issueGroup ex s1 i w t none [m] after count [] = (out.1, { out.2 with iss := none }) := by
  intro out
  have hpfx : ({ i with pfx := none } : Issue) = i := by rw [hi]; rfl
  have hiss : s2.iss = some i := by rw [← hs2]
  have htrap : i.trap = none := by rw [hi]; rfl
  have hfaults : i.faults = [] := by rw [hi]; rfl
  have hstalled : i.stalled = false := by rw [hi]; rfl
  unfold State.issueGroup
  simp only [under_none, hpfx, hs2, List.all_cons, List.all_nil, Bool.and_true, List.flatMap_cons, List.flatMap_nil,
    List.append_nil, hc, readConsts_nil, hiss, hf, hl]
  simp only [htrap, hfaults, hstalled, Option.toList_none, List.append_nil, pickTrap, List.isEmpty_nil, Bool.not_true,
    Bool.false_eq_true, if_false]
  rfl

/-- Where no entry packet lacks its header, what stands at a slot is what the scan finds. -/
theorem scanAt_false (ws : Nat → Word) (q : Nat) (cc : Bool) (reach : List Nat) :
    scanAt false ws q cc reach = scan ws q cc reach := by
  unfold scanAt
  cases scan ws q cc reach <;> simp

/-- What stands at the slot of a bundle that may issue is scanned. -/
theorem issueWith_scan {g : Word} {ws : List Word} {found : Scan} (hw : s.warp wk = some w) (ht : s.teamOf wk = some t)
    (hcode : pc / 12 < t.vals.codelen) (hi : i = blankIssue wk kind lanes pc)
    (hfetch : ({ s with iss := some i } : State).fetchFrom wk w.core t.ctx (t.vals.code + 12 * i.p) i.lowest (3 - i.slot)
      i.slot [] = (.word g, ws, s1))
    (hwait : s.waitsMet i = true) (hentry : badEntry i w t (ws.getD 0 0) = false)
    (hhandler : badHandler i w t (ws.getD 0 0) = false)
    (hfound : scan (fun q => ws.getD (q - i.slot) 0) i.slot (w.kind == .control) (reachOf lanes) = found) :
    let drop (r : Bool × State) : Bool × State := (r.1, { r.2 with iss := none })
    (∀ pfx ms after, found = .group pfx ms after →
      s.issueWith ex wk kind lanes pc count = s.issueGroup ex s1 i w t pfx ms after count []) ∧
    (∀ e pfx ms after, found = .bad e pfx ms after → e.code ≤ 3 →
      s.issueWith ex wk kind lanes pc count = drop (s1.encodingTrap i pfx e count)) := by
  intro drop
  have hp : i.p = pc / 12 := by rw [hi]; rfl
  unfold State.issueWith
  simp only [hw, ht, ← hi, hwait, Bool.not_true, Bool.false_eq_true, if_false]
  rw [if_neg (by omega), hfetch]
  simp only [Nat.zero_sub, hhandler, Bool.false_eq_true, if_false, hentry, scanAt_false, hfound]
  refine ⟨fun pfx ms after h => by rw [h], fun e pfx ms after h he => ?_⟩
  rw [h]
  exact if_pos (.inl he)

/-- A word that decodes to nothing traps the whole bundle; a reserved field of a KV word or an NMC marks the leader (R274,
R332). -/
theorem encodingTrap_alone {e : EncErr} (hi : i = blankIssue wk kind lanes pc) (hne : lanes ≠ []) :
    let maj := major e.word
    let leads := e.code = 3 ∧ (maj = 0x36 ∨ (maj = 0x37 ∧ e.word.extractLsb' 21 4 = 0))
    s.encodingTrap i none e count = (true, s.takeGroupTrap i
      (TrapRec.mk 1 pc (if leads then lanes.take 1 else lanes) 0 (BitVec.ofNat 32 (e.code + 256 * e.slot)) none)) := by
  intro maj leads
  have hact : s.acting { i with pfx := none } = lanes := by rw [hi]; rfl
  have hlanes : i.lanes = lanes := by rw [hi]; rfl
  have hgpc : i.gpc = pc := by rw [hi]; rfl
  have hfield : bits e.word.toNat 24 21 = 0 ↔ e.word.extractLsb' 21 4 = 0 := by
    rw [← BitVec.toNat_inj, BitVec.extractLsb'_toNat, Nat.shiftRight_eq_div_pow]
    rfl
  have hleads : ((major e.word = 0x32 ∨ major e.word = 0x36 ∨ major e.word = 0x37) ∧ e.code = 3) ∧
      (major e.word = 0x36 ∨ (major e.word = 0x37 ∧ bits e.word.toNat 24 21 = 0)) ↔ leads := by
    rw [hfield]
    simp only [leads, maj]
    tauto
  unfold State.encodingTrap
  simp only [ite_self, hact]
  simp only [hlanes, List.isEmpty_iff, hne, and_false, if_false, EncErr.trapRec, hgpc, hleads]

end

/-! ### A bundle's turn -/

/-- A packet has three slots: the one after the last is the next packet. -/
theorem offset_after (pc : Nat) : (if 3 ≤ pc % 12 / 4 + 1 then 12 * (pc / 12 + 1) else 12 * (pc / 12) + 4 * (pc % 12 / 4 + 1)) =
    12 * (pc / 12) + 4 * (pc % 12 / 4 + 1) := by
  split <;> omega

theorem run_of_exec {a : Instr} {t : State} (h : exec a s = .next t) : run a s = t := congrArg (Res.nextOr · s) h

/-- Settles O54: what stands at the slot of a bundle is scanned, and a word alone there makes a group of one member, whose
outcome is that of its meaning. -/
theorem stepsRunDecodedWords : Obligations.StepsRunDecodedWords := by
  refine ⟨fun s i r h => by simp only [step, h], fun s h => by simp only [step, h], fun s t i => run_of_exec, ?_⟩
  intro s s1 wk pc lanes count w t ws g kind hw ht hcode i q x hfetch hwait hentry hhandler
  obtain ⟨hgroup, hbad⟩ := issueWith_scan run count hw ht hcode (i := i) rfl hfetch hwait hentry hhandler rfl
  have hx : (fun k => ws.getD (k - q) 0) q = x := by simp [x]
  refine ⟨?decodes, ?reserved⟩
  case decodes =>
    intro a ha us s2 hfree pre w1 hlook hpre start u j hexec hj
    let m := aloneMember (fun k => ws.getD (k - q) 0) q (w.kind == .control) (reachOf lanes) a
    have hconsts : m.uses.consts = [] := by
      obtain ⟨-, -, -, -, -, hnone⟩ := ha
      obtain ⟨-, -, hsame⟩ := reaches_fields (usesOf a none (w.kind == .control)) (reachOf lanes)
      exact hsame.trans hnone
    have hiss : pre.iss = some i := iss_of_snd (lookEntries_iss ..) hlook
    have hout : s.issueWith run wk kind lanes pc count =
        let out := pre.runGroup run i none [m] (12 * (pc / 12) + 4 * (q + 1)) count
        (out.1, { out.2 with iss := none }) := by
      rw [← offset_after]
      exact (hgroup none _ _ (scan_alone (reachOf lanes) hx ha)).trans (issueGroup_one run count rfl rfl hconsts hfree hlook)
    have hstart : memberStart pre i m (12 * (pc / 12) + 4 * (q + 1)) = start := by simp [memberStart, start, m, aloneMember]
    have hrun : run m.instr (memberStart pre i m (12 * (pc / 12) + 4 * (q + 1))) = u := by
      rw [hstart]
      exact run_of_exec hexec
    obtain ⟨hdone, htrap, hfault⟩ := runGroup_one hiss rfl rfl run count hpre hrun hj
    refine ⟨fun hr hf hst => ⟨[m], ?_, rfl⟩, fun r hr => ?_, fun hr hf => ?_⟩
    · rw [hout, hdone hr hf hst]
      rfl
    · rw [hout, htrap r hr]
    · rw [hout, hfault hr hf]
  case reserved =>
    intro e hchain hmaj hdec hc hne maj leads r
    obtain ⟨after, hs⟩ := scan_error (ws := fun k => ws.getD (k - q) 0) (w.kind == .control) (reachOf lanes) hx hchain hmaj
      hdec hc
    rw [hbad _ _ _ _ hs hc, encodingTrap_alone count rfl hne]
    rfl

end Sys2Proof.Laws
end

section
/-! PROOF of O5: decoding a pattern by its fields, and rounding what it holds back to the pattern. -/

namespace Sys2Proof.Laws

open Sys2Proof.Machine Sys2Proof.Claims

variable {t : FType} {x : Nat}

/-! ### The fields of a pattern (R88) -/

/-- The sign of a pattern. -/
def signOf (t : FType) (x : Nat) : Bool := x / t.signBit % 2 == 1

/-- The exponent field of a pattern. -/
def expOf (t : FType) (x : Nat) : Nat := x / 2 ^ t.mb % 2 ^ t.eb

/-- The mantissa field of a pattern. -/
def fracOf (t : FType) (x : Nat) : Nat := x % 2 ^ t.mb

/-- The exponent of the last bit of a subnormal. -/
def qminOf (t : FType) : Int := 1 - t.bias - t.mb

theorem fracOf_lt (t : FType) (x : Nat) : fracOf t x < 2 ^ t.mb := Nat.mod_lt _ (Nat.two_pow_pos _)

theorem expOf_lt (t : FType) (x : Nat) : expOf t x < 2 ^ t.eb := Nat.mod_lt _ (Nat.two_pow_pos _)

/-- A pattern is its fields put together. -/
theorem fields_eq (hx : x < 2 * t.signBit) :
    (if signOf t x then t.signBit else 0) + (expOf t x * 2 ^ t.mb + fracOf t x) = x := by
  have hsign : x / t.signBit < 2 := Nat.div_lt_of_lt_mul (by rwa [Nat.mul_comm])
  have htop : (if signOf t x then t.signBit else 0) = t.signBit * (x / t.signBit) := by
    unfold signOf
    obtain h | h := Nat.le_one_iff_eq_zero_or_eq_one.mp (Nat.le_of_lt_succ hsign)
    all_goals simp [h]
  have hdiv : x / 2 ^ t.mb / 2 ^ t.eb = x / t.signBit := by rw [Nat.div_div_eq_div_mul, ← pow_add]; rfl
  have hexp : 2 ^ t.eb * (x / t.signBit) + expOf t x = x / 2 ^ t.mb := hdiv ▸ Nat.div_add_mod (x / 2 ^ t.mb) (2 ^ t.eb)
  calc (if signOf t x then t.signBit else 0) + (expOf t x * 2 ^ t.mb + fracOf t x)
      = 2 ^ t.mb * (2 ^ t.eb * (x / t.signBit) + expOf t x) + fracOf t x := by
        rw [htop, FType.signBit, pow_add]; ring
    _ = x := by rw [hexp]; exact Nat.div_add_mod x (2 ^ t.mb)

/-- The types without infinities (R88). -/
theorem ne_of_hasInf (ht : t.hasInf = true) : t ≠ .e4m3 ∧ t ≠ .e2m1 :=
  ⟨fun h => absurd (h ▸ ht) (by decide), fun h => absurd (h ▸ ht) (by decide)⟩

/-- What a pattern of a type with infinities holds, by its fields (R89). -/
theorem decodeF_eq (ht : t.hasInf = true) (x : Nat) : decodeF t x =
    if expOf t x = 2 ^ t.eb - 1 then (if fracOf t x = 0 then .inf (signOf t x) else .nan)
    else if expOf t x = 0 then .fin (signOf t x) (fracOf t x) (qminOf t)
    else .fin (signOf t x) (fracOf t x + 2 ^ t.mb) (qminOf t + (expOf t x - 1 : Nat)) := by
  unfold decodeF
  simp only [ht, beq_eq_false_iff_ne.mpr (ne_of_hasInf ht).1, Bool.true_and, Bool.false_and,
    Bool.false_eq_true, if_false, beq_iff_eq]
  rfl

/-! ### Rounding without a rest (R95) -/

/-- The largest finite value of a type with infinities. -/
theorem decodeF_maxFinite (ht : t.hasInf = true) :
    decodeF t t.maxFinite = .fin false (2 ^ (t.mb + 1) - 1) (qminOf t + (2 ^ t.eb - 3 : Nat)) := by
  obtain ⟨h4, h2⟩ := ne_of_hasInf ht
  cases t with
  | e4m3 => exact absurd rfl h4
  | e2m1 => exact absurd rfl h2
  | _ => decide

theorem magLe_of_le {m n : Nat} {e f : Int} (hm : m ≤ n) (he : e ≤ f) : magLe m e n f = true := by
  unfold magLe
  split
  · next h =>
    obtain rfl : e = f := le_antisymm he h
    simpa using hm
  · simpa using hm.trans ((by rw [Nat.shiftLeft_eq]; exact Nat.le_mul_of_pos_right n (Nat.two_pow_pos _)))

/-- A finite value whose last bit stands where the type's would, and which is no larger than the largest, is encoded. -/
theorem roundTo_exact (ht : t.hasInf = true) {m : Nat} {e : Int} (neg : Bool) (mode : RMode) (sat : Bool) (h0 : m ≠ 0)
    (hq : max ((Nat.log2 m : Int) + e - t.mb) (qminOf t) = e) (hm : m < 2 ^ (t.mb + 1))
    (he : e ≤ qminOf t + (2 ^ t.eb - 3 : Nat)) :
    roundTo (.fin neg m e) t mode sat = (if neg then t.signBit else 0) + encodeMag t m e := by
  have hle : magLe m e (2 ^ (t.mb + 1) - 1) (qminOf t + (2 ^ t.eb - 3 : Nat)) = true := magLe_of_le (by omega) he
  unfold qminOf at hq
  unfold roundTo
  simp only [hq, beq_iff_eq, h0, if_false, le_refl, if_true, sub_self, Int.toNat_zero, Nat.shiftLeft_zero,
    decodeF_maxFinite ht, hle]

theorem encodeMag_subnormal {m : Nat} (h0 : m ≠ 0) (hm : m < 2 ^ t.mb) : encodeMag t m (qminOf t) = m := by
  have hl : Nat.log2 m < t.mb := (Nat.log2_lt h0).mpr hm
  unfold encodeMag
  simp only [beq_iff_eq, h0, if_false]
  rw [if_pos (by unfold qminOf; omega)]
  simp [qminOf]

theorem log2_normal {m : Nat} (hm : m < 2 ^ t.mb) : Nat.log2 (m + 2 ^ t.mb) = t.mb :=
  (Nat.log2_eq_iff (by have := Nat.two_pow_pos t.mb; omega)).mpr ⟨by omega, by rw [pow_succ]; omega⟩

theorem encodeMag_normal {m e : Nat} (he : e ≠ 0) (hm : m < 2 ^ t.mb) :
    encodeMag t (m + 2 ^ t.mb) (qminOf t + (e - 1 : Nat)) = e * 2 ^ t.mb + m := by
  have hp := Nat.two_pow_pos t.mb
  have hbias : (t.mb : Int) + (qminOf t + (e - 1 : Nat)) + t.bias = e := by unfold qminOf; omega
  unfold encodeMag
  simp only [beq_iff_eq, log2_normal hm, hbias, Int.toNat_natCast, le_refl, if_true, Nat.sub_self, Nat.shiftLeft_zero]
  rw [if_neg (by omega), if_neg (by omega)]
  omega

/-- What a type with infinities holds is rounded to itself, in every mode. -/
theorem roundTo_decodeF (ht : t.hasInf = true) (hx : x < 2 * t.signBit) (mode : RMode) (hn : (decodeF t x).isNaN = false) :
    roundTo (decodeF t x) t mode false = x := by
  have hfields := fields_eq hx
  have hf := fracOf_lt t x
  have he := expOf_lt t x
  rw [decodeF_eq ht] at hn ⊢
  split_ifs at hn ⊢ with hmax hfrac hzero
  · rw [hmax, hfrac] at hfields
    simpa [roundTo, infResult, (ne_of_hasInf ht).2, ht] using hfields
  · cases hn
  · rw [hzero, Nat.zero_mul, Nat.zero_add] at hfields
    by_cases h0 : fracOf t x = 0
    · simpa [roundTo, h0] using hfields
    · have hl : Nat.log2 (fracOf t x) < t.mb := (Nat.log2_lt h0).mpr hf
      rw [roundTo_exact ht _ _ _ h0 (by omega) (by rw [pow_succ]; omega) (by omega), encodeMag_subnormal h0 hf]
      exact hfields
  · rw [roundTo_exact ht _ _ _ (by omega) (by rw [log2_normal hf]; omega) (by rw [pow_succ]; omega) (by omega),
      encodeMag_normal hzero hf]
    exact hfields

/-- Settles O5, by what the fields of a pattern hold and how that is encoded. -/
theorem roundingKeepsHeldValues : Obligations.RoundingKeepsHeldValues := by
  refine ⟨fun a m hn => ?_, fun a m hn => ?_, fun a m hn => ?_⟩
  · rw [toF32, f32, roundTo_decodeF rfl a.isLt m hn, BitVec.ofNat_toNat, BitVec.setWidth_eq]
  · exact roundTo_decodeF rfl a.isLt m hn
  · exact roundTo_decodeF rfl a.isLt m hn

end Sys2Proof.Laws
end

section
/-! PROOF of O4: the unary float words, conversions and CMP. -/

namespace Sys2Proof.Laws

open Sys2Proof.Machine Sys2Proof.Claims

variable {s : State} {i : Issue}

/-! ### Words of one source -/

/-- A unary float word whose operation is `op` writes its results in the actors' lanes. -/
theorem falu1_takes {f : FmtU} (nd : i.lanes.Nodup) (h : s.Ready i (vregsOf f.ta f.a) [f.d.toNat])
    (op : Issue → Machine.Num → Word) :
    ∃ t, s.falu1 f op = t ∧
      ActorsTake s i f.d.toNat (fun l => op i (i.modA (f32 (s.opndF i l .f32 false f.ta f.a)))) t :=
  actorsTake_withRegs nd h fun s i l => op i (i.modA (f32 (s.opndF i l .f32 false f.ta f.a)))

/-! ### FCLASS (R126) -/

/-- The class bit of a pattern, by its fields. -/
theorem classBit_eq (a : Word) : classBit a =
    if expOf .f32 a.toNat = 255 then (if fracOf .f32 a.toNat = 0 then (if signOf .f32 a.toNat then 0 else 7) else 8)
    else if expOf .f32 a.toNat = 0 then
      (if fracOf .f32 a.toNat = 0 then (if signOf .f32 a.toNat then 3 else 4) else (if signOf .f32 a.toNat then 2 else 5))
    else if signOf .f32 a.toNat then 1 else 6 := by
  have hexp : (a.extractLsb' 23 8).toNat = expOf .f32 a.toNat := by
    rw [BitVec.extractLsb'_toNat, Nat.shiftRight_eq_div_pow]; rfl
  have hfrac : (a.extractLsb' 0 23 == 0) = decide (fracOf .f32 a.toNat = 0) := by
    rw [Bool.eq_iff_iff, beq_iff_eq, decide_eq_true_iff, ← BitVec.toNat_inj, BitVec.extractLsb'_toNat]; rfl
  have hsign : a.getLsbD 31 = signOf .f32 a.toNat := by
    rw [BitVec.getLsbD, Nat.testBit_eq_decide_div_mod_eq, signOf]; rfl
  simp only [classBit, hexp, hfrac, hsign, decide_eq_true_eq]

theorem classOf_subnormal {m : Nat} (n : Bool) (h0 : m ≠ 0) (hm : m < 2 ^ 23) :
    classOf (.fin n m (-149)) = if n then 4 else 0x20 := by
  have hl : Nat.log2 m < 23 := (Nat.log2_lt h0).mpr hm
  simp only [classOf, h0, if_false, decide_eq_true_eq]
  rw [if_neg (by omega)]

theorem classOf_normal {m : Nat} (n : Bool) (e : Nat) (hm : m < 2 ^ 23) :
    classOf (.fin n (m + 2 ^ 23) (-149 + (e : Int))) = if n then 2 else 0x40 := by
  have hl : Nat.log2 (m + 2 ^ 23) = 23 := log2_normal (t := .f32) hm
  simp only [classOf, hl, decide_eq_true_eq]
  rw [if_neg (by omega), if_pos (by omega)]

/-- What an f32 pattern holds, by its fields. -/
theorem f32_eq (a : Word) : f32 a =
    if expOf .f32 a.toNat = 255 then (if fracOf .f32 a.toNat = 0 then .inf (signOf .f32 a.toNat) else .nan)
    else if expOf .f32 a.toNat = 0 then .fin (signOf .f32 a.toNat) (fracOf .f32 a.toNat) (-149)
    else .fin (signOf .f32 a.toNat) (fracOf .f32 a.toNat + 2 ^ 23) (-149 + (expOf .f32 a.toNat - 1 : Nat)) :=
  decodeF_eq rfl _

/-- The class of what a pattern holds is the one that its fields give. -/
theorem classOf_f32 (a : Word) : (classOf (f32 a)).toNat = 2 ^ classBit a := by
  have hf : fracOf .f32 a.toNat < 2 ^ 23 := fracOf_lt ..
  rw [f32_eq, classBit_eq]
  generalize signOf .f32 a.toNat = n
  by_cases hmax : expOf .f32 a.toNat = 255
  · by_cases hfrac : fracOf .f32 a.toNat = 0
    · rw [if_pos hmax, if_pos hmax, if_pos hfrac, if_pos hfrac]
      cases n <;> rfl
    · rw [if_pos hmax, if_pos hmax, if_neg hfrac, if_neg hfrac]
      rfl
  rw [if_neg hmax, if_neg hmax]
  by_cases hzero : expOf .f32 a.toNat = 0
  · by_cases hfrac : fracOf .f32 a.toNat = 0
    · rw [if_pos hzero, if_pos hzero, if_pos hfrac, hfrac]
      cases n <;> rfl
    · rw [if_pos hzero, if_pos hzero, if_neg hfrac, classOf_subnormal n hfrac hf]
      cases n <;> rfl
  · rw [if_neg hzero, if_neg hzero, classOf_normal n _ hf]
    cases n <;> rfl

/-! ### CMP (R128) -/

/-- A CMP that may run writes the truth of its condition in each actor's predicate. -/
theorem compareResults : Compare := by
  intro s i f nd h
  let rd (l : Nat) (t : BitVec 2) (r : BitVec 7) : Word :=
    if f.cond.toNat < 10 then s.opnd i l t r else s.opndF i l .f32 false t r
  refine ⟨_, fun l => condHolds f.cond (rd l f.ta f.a) (rd l f.tb f.b) i.modA i.modB,
    congrArg Host.Outcome.next (withRegs_ready h _),
    actorsTest_wrP f.pd.toNat (s.acting i) (acting_nodup s i nd) _, fun l => ?_⟩
  rw [condHolds_iff]
  by_cases hc : f.cond.toNat < 10 <;> simp only [hc, if_true, if_false, rd]

theorem floatUnary : FloatUnary := by
  refine ⟨fun s i f nd h => ?frnd, fun s i f nd h => ?ffract, fun s i f nd h => ?fclass, fun s i f nd h => ?cvt⟩
  case frnd =>
    obtain ⟨t, ht, htake⟩ := falu1_takes nd h fun i a => toF32 (roundIntegral i.mode a) .rne false
    exact ⟨t, congrArg Host.Outcome.next ht, htake⟩
  case ffract =>
    obtain ⟨t, ht, htake⟩ := falu1_takes nd h fun _ a => fractOf a
    exact ⟨t, congrArg Host.Outcome.next ht, htake⟩
  case fclass =>
    obtain ⟨t, ht, htake⟩ := falu1_takes nd h fun _ a => classOf a
    refine ⟨t, _, congrArg Host.Outcome.next ht, htake, fun l => ⟨fun hp => ?_, rfl⟩⟩
    simpa only [Issue.modA, hp] using classOf_f32 _
  case cvt =>
    obtain ⟨t, ht, htake⟩ := actorsTake_withRegs nd h fun s i l =>
      if f.x.toNat < 6 then
        cvtResult f.x f.y (s.opndF i l (FType.ofCvt f.x.toNat) false f.ta f.a)
          (i.modA (cvtSource f.x (s.opndF i l (FType.ofCvt f.x.toNat) false f.ta f.a))) i.mode (f.s == 1)
      else cvtResult f.x f.y (s.opnd i l f.ta f.a) (cvtSource f.x (s.opnd i l f.ta f.a)) i.mode (f.s == 1)
    refine ⟨t, ?_, htake⟩
    rw [← ht]
    show execCvt f s = _
    unfold execCvt
    by_cases hx : f.x.toNat < 6 <;> simp only [hx, if_true, if_false]

/-- Settles O4, by the one result that each word writes in its actors' lanes or predicates, and by the fields of a pattern for
its class. -/
theorem floatUnaryAndCompareResults : Obligations.FloatUnaryAndCompareResults := ⟨floatUnary, compareResults⟩

end Sys2Proof.Laws
end

section
/-! PROOF of O31: what quarters of matrix operations do, and how the operation completes. -/

namespace Sys2Proof.Laws

open Sys2Proof.Machine Sys2Proof.Claims

variable {s : State} {m : Mop} {q : QOp} {r : MRow}

/-! ### The accumulator store -/

@[simp] theorem accWord_setAcc (k j : Nat) (v : Word) : (s.setAcc k v).accWord j = if j = k then v else s.accWord j := by
  simp only [State.accWord, State.setAcc, tget_tset]
  split <;> rfl

theorem accWord_tileZero (core t k : Nat) : (s.tileZero core t).accWord k =
    if accKey core t 0 0 ≤ k ∧ k < accKey core (t + 1) 0 0 then 0 else s.accWord k := by
  simp only [State.accWord, State.tileZero, tget_tclear]
  split <;> rfl

@[simp] theorem accWord_setV (wk l n k : Nat) (v : Word) : (s.setV wk l n v).accWord k = s.accWord k := by
  unfold State.setV
  split <;> rfl

theorem accKey_injective (core t i : Nat) : Function.Injective (accKey core t i) :=
  fun _ _ h => Nat.add_left_cancel h

/-- A free value is put in a word. -/
def putFree (s : State) (k : Nat) : State := s.freeWord.2.setAcc k s.freeWord.1

theorem accWord_putFree (k j : Nat) : (putFree s k).accWord j = if j = k then Config.freeValue s.freeCount else s.accWord j :=
  accWord_setAcc k j _

/-- `t` differs from `s` at most in its accumulator store. -/
def OnlyAcc (s t : State) : Prop := t = { s with m := { s.m with acc := t.m.acc } }

theorem onlyAcc_trans {a b c : State} (h : OnlyAcc a b) (g : OnlyAcc b c) : OnlyAcc a c := by
  unfold OnlyAcc at *
  rw [g, h]

theorem onlyAcc_setAcc (k : Nat) (v : Word) : OnlyAcc s (s.setAcc k v) := rfl

/-! ### Words written one after the other -/

section
variable {f : State → Nat → State} {key : Nat → Nat} (hput : ∀ t j k, k ≠ key j → (f t j).accWord k = t.accWord k)
include hput

/-- A word that no step writes is as it was. -/
theorem accWord_foldl_other {k : Nat} (l : List Nat) (hk : ∀ j ∈ l, k ≠ key j) (s : State) :
    (l.foldl f s).accWord k = s.accWord k := by
  induction l generalizing s with
  | nil => rfl
  | cons a l ih =>
    rw [List.foldl_cons, ih (fun j hj => hk j (List.mem_cons_of_mem _ hj)), hput s a k (hk a List.mem_cons_self)]

/-- A word that one step writes is what this step makes of the word before. -/
theorem accWord_foldl_same (inj : Function.Injective key) {n : Nat} {l : List Nat} (nd : l.Nodup) (hn : n ∈ l) (s : State) :
    ∃ u, u.accWord (key n) = s.accWord (key n) ∧ (l.foldl f s).accWord (key n) = (f u n).accWord (key n) := by
  induction l generalizing s with
  | nil => cases hn
  | cons a l ih =>
    obtain ⟨ha, nd⟩ := List.nodup_cons.mp nd
    rcases List.mem_cons.mp hn with rfl | hn
    · exact ⟨s, rfl, accWord_foldl_other hput l (fun j hj hkey => ha (by rwa [inj hkey])) _⟩
    · obtain ⟨u, hu, hfold⟩ := ih nd hn (f s a)
      exact ⟨u, hu.trans (hput s a _ fun hkey => ha (inj hkey ▸ hn)), hfold⟩

end

/-! ### Rows that become undefined (R185, R186) -/

/-- The columns of a row that become undefined: of a product row all, of an MWR those of its group. -/
def undefCols (m : Mop) : List Nat :=
  match m.kind with
  | .mmq => List.range 64
  | .mmg => List.range 64
  | .mwr => (List.range 16).map fun k => 16 * m.g + k
  | _ => []

theorem undefRow_eq (s : State) (m : Mop) (r : MRow) :
    s.undefRow m r = (undefCols m).foldl (fun t n => putFree t (accKey m.core r.tile r.row n)) s := by
  unfold State.undefRow undefCols
  cases m.kind with
  | mwr =>
    dsimp only
    rw [List.foldl_map]
    rfl
  | _ => rfl

theorem undefCols_product (h : m.kind = .mmq ∨ m.kind = .mmg) : undefCols m = List.range 64 := by
  unfold undefCols
  rcases h with h | h <;> rw [h]

@[simp] theorem putFree_mops (s : State) (k : Nat) : (putFree s k).mops = s.mops := rfl

theorem undefRow_mops (s : State) (m : Mop) (r : MRow) : (s.undefRow m r).mops = s.mops := by
  rw [undefRow_eq]
  exact foldl_keeps (fun t : State => t.mops = s.mops) (fun _ _ h => (putFree_mops ..).trans h) _ rfl

theorem undefRows_mops (s : State) (m : Mop) (rs : List MRow) : (rs.foldl (fun t r => t.undefRow m r) s).mops = s.mops :=
  foldl_keeps (fun t : State => t.mops = s.mops) (fun t r h => (undefRow_mops t m r).trans h) rs rfl

theorem accWord_undefRow (h : m.kind = .mmq ∨ m.kind = .mmg) {n : Nat} (hn : n < 64) :
    (∃ k, (s.undefRow m r).accWord (accKey m.core r.tile r.row n) = Config.freeValue k) ∧
    ∀ k, (∀ n < 64, k ≠ accKey m.core r.tile r.row n) → (s.undefRow m r).accWord k = s.accWord k := by
  have hput (t : State) (j k : Nat) (hk : k ≠ accKey m.core r.tile r.row j) :
      (putFree t (accKey m.core r.tile r.row j)).accWord k = t.accWord k := by rw [accWord_putFree, if_neg hk]
  rw [undefRow_eq, undefCols_product h]
  refine ⟨?_, fun k hk => accWord_foldl_other hput _ (fun j hj => hk j (List.mem_range.mp hj)) s⟩
  obtain ⟨u, -, hfold⟩ := accWord_foldl_same hput (accKey_injective ..) List.nodup_range (List.mem_range.mpr hn) s
  exact ⟨u.freeCount, by rw [hfold, accWord_putFree, if_pos rfl]⟩

/-! ### Product rows (R101, R184) -/

theorem productRow_defined {core gs acc : Nat} {fw : FmtWord} (hr : r.undef = false) : s.productRow core gs fw acc r =
    (List.range 64).foldl (fun t n => t.setAcc (accKey core r.tile r.row n) (Machine.chunkSum fw acc r.bytes r.scale
      (s.qarray gs r.q).act.bytes (t.accWord (accKey core r.tile r.row n)) n)) s := by
  unfold State.productRow
  simp only [hr, Bool.false_eq_true, if_false]

theorem productRow_accumulates {core gs acc : Nat} {fw : FmtWord} (hr : r.undef = false) :
    let t := s.productRow core gs fw acc r
    (∀ n < 64, t.accWord (accKey core r.tile r.row n) = Machine.chunkSum fw acc r.bytes r.scale
      (s.qarray gs r.q).act.bytes (s.accWord (accKey core r.tile r.row n)) n) ∧
    (∀ k, (∀ n < 64, k ≠ accKey core r.tile r.row n) → t.accWord k = s.accWord k) ∧ OnlyAcc s t := by
  intro t
  have ht : t = _ := productRow_defined hr
  have hput (u : State) (j k : Nat) (hk : k ≠ accKey core r.tile r.row j) :
      (u.setAcc (accKey core r.tile r.row j) (Machine.chunkSum fw acc r.bytes r.scale (s.qarray gs r.q).act.bytes
        (u.accWord (accKey core r.tile r.row j)) j)).accWord k = u.accWord k := by rw [accWord_setAcc, if_neg hk]
  refine ⟨fun n hn => ?_, fun k hk => ?_, ?_⟩
  · obtain ⟨u, hu, hfold⟩ := accWord_foldl_same hput (accKey_injective ..) List.nodup_range (List.mem_range.mpr hn) s
    rw [ht, hfold, accWord_setAcc, if_pos rfl, hu]
  · rw [ht]
    exact accWord_foldl_other hput _ (fun j hj => hk j (List.mem_range.mp hj)) s
  · rw [ht]
    exact foldl_keeps (OnlyAcc s) (fun _ _ h => onlyAcc_trans h (onlyAcc_setAcc _ _)) _ rfl

/-! ### MCLR (R187) -/

theorem performQuarter_mclr (h : m.kind = .mclr) :
    s.performQuarter m q = m.tiles.foldl (fun t ct => t.tileZero m.core ct) s := by
  unfold State.performQuarter
  rw [h]

/-- A word of a tile that is zeroed reads zero whatever else is zeroed after it. -/
theorem accWord_tileZeros {core ct k : Nat} (hk : accKey core ct 0 0 ≤ k ∧ k < accKey core (ct + 1) 0 0) {ts : List Nat}
    (hct : ct ∈ ts) (s : State) : (ts.foldl (fun t x => t.tileZero core x) s).accWord k = 0 := by
  induction ts generalizing s with
  | nil => cases hct
  | cons x ts ih =>
    rw [List.foldl_cons]
    rcases List.mem_cons.mp hct with rfl | hct
    · refine foldl_keeps (fun t : State => t.accWord k = 0) (fun t y h => ?_) ts ?_
      · rw [accWord_tileZero, h, ite_self]
      · rw [accWord_tileZero, if_pos hk]
    · exact ih hct _

theorem accKey_in_tile {core ct i c : Nat} (hi : i < 8) (hc : c < 64) :
    accKey core ct 0 0 ≤ accKey core ct i c ∧ accKey core ct i c < accKey core (ct + 1) 0 0 := by
  unfold accKey
  omega

/-! ### Planes (R174, R182) -/

@[simp] theorem qarray_modQArray (s : State) (gs q : Nat) (f : QArray → QArray) :
    (s.modQArray gs q f).qarray gs q = f (s.qarray gs q) := by
  simp only [State.qarray, State.modQArray, tget_tset_same]
  rfl

/-- A choice uses up the oracle or a counter and leaves the storage and the planes. -/
theorem choose_keeps (s : State) (n : Nat) : (s.choose n).2.m = s.m ∧ (s.choose n).2.qarrays = s.qarrays := by
  unfold State.choose
  split
  · exact ⟨rfl, rfl⟩
  · split <;> exact ⟨rfl, rfl⟩

theorem spadByte_choose (s : State) (n core off : Nat) : (s.choose n).2.spadByte core off = s.spadByte core off := by
  simp only [State.spadByte, (choose_keeps s n).1]

/-- A byte from before the stores of other warps that no OPFENCE has passed on yet. -/
def heldByte (s : State) (wk core off i : Nat) : Option Byte :=
  (tget s.m.unfenced (core * 2 ^ 21 + off + i)).bind fun e =>
    if !e.2.contains wk && e.2.any fun x => (s.warp x).isSome then some e.1 else none

theorem matBytes_eq (s : State) (wk core off n : Nat) : s.matBytes wk core off n =
    if (List.range n).any fun i => (heldByte s wk core off i).isSome then
      ((List.range n).map fun i =>
        if (s.choose 2).1 = 0 then (heldByte s wk core off i).getD ((s.choose 2).2.spadByte core (off + i))
        else (s.choose 2).2.spadByte core (off + i), (s.choose 2).2)
    else (s.spadBytes core off n, s) := rfl

theorem matBytes_qarray (s : State) (wk core off n gs q : Nat) :
    (s.matBytes wk core off n).2.qarray gs q = s.qarray gs q := by
  rw [matBytes_eq]
  split
  · exact congrArg (fun t => (tget t (gs * 4 + q)).getD blankQArray) (choose_keeps s 2).2
  · rfl

theorem heldByte_some {wk core off i : Nat} {b : Byte} (h : heldByte s wk core off i = some b) :
    ∃ e, tget s.m.unfenced (core * 2 ^ 21 + off + i) = some e ∧ wk ∉ e.2 ∧ (∃ x ∈ e.2, (s.warp x).isSome = true) ∧
      b = e.1 := by
  obtain ⟨e, he, hb⟩ := Option.bind_eq_some_iff.mp h
  split at hb
  · next hc =>
    simp only [Bool.and_eq_true, Bool.not_eq_true', List.contains_eq_mem, decide_eq_false_iff_not, List.any_eq_true] at hc
    exact ⟨e, he, hc.1, hc.2, (Option.some.inj hb).symm⟩
  · cases hb

/-- What a matrix operation reads of the scratchpad it may read (R188). -/
theorem matRead_matBytes (s : State) (wk core off n : Nat) : MatRead s wk core off n (s.matBytes wk core off n).1 := by
  rw [matBytes_eq]
  split
  · refine ⟨by simp, fun k hk => ?_⟩
    simp only [List.getElem?_map, List.getElem?_range hk, Option.map_some, Option.some.injEq, spadByte_choose]
    split
    · cases hh : heldByte s wk core off k with
      | none => exact .inl rfl
      | some b =>
        obtain ⟨e, he, hwk, hx, rfl⟩ := heldByte_some hh
        exact .inr ⟨e, he, hwk, hx, rfl⟩
    · exact .inl rfl
  · refine ⟨by simp [State.spadBytes], fun k hk => .inl ?_⟩
    simp only [State.spadBytes, List.getElem?_map, List.getElem?_range hk, Option.map_some]

theorem performQuarter_mswap (h : m.kind = .mswap) :
    s.performQuarter m q = s.modQArray m.gs q.q fun x => { x with act := x.sh, sh := x.act } := by
  unfold State.performQuarter
  rw [h]

theorem performQuarter_mlds {pid : PlaneId} {off size : Nat} (h : m.kind = .mlds) (hl : m.loads = [(q.q, pid, off, size)]) :
    s.performQuarter m q = (s.matBytes m.warp m.core off size).2.modQArray m.gs q.q fun x =>
      { x with sh := { id := some pid, bytes := (s.matBytes m.warp m.core off size).1 } } := by
  unfold State.performQuarter
  rw [h]
  simp only [hl, List.find?_cons, beq_self_eq_true]

/-! ### MWR (R187) -/

theorem length_leWords (n : Nat) : ∀ bs : List Byte, bs.length = 4 * n → (leWords bs).length = n := by
  induction n with
  | zero => intro bs h; rw [List.eq_nil_of_length_eq_zero h]; rfl
  | succ n ih =>
    intro bs h
    match bs, h with
    | a :: b :: c :: d :: t, h =>
      exact congrArg (· + 1) (ih t (by simp only [List.length_cons] at h; omega))

theorem performQuarter_mwr (h : m.kind = .mwr) (hq : q.rows = [r]) (hr : r.undef = false) : s.performQuarter m q =
    (List.range 16).foldl (fun t k =>
      t.setAcc (accKey m.core r.tile r.row (16 * m.g + k)) (((leWords r.bytes)[k]?).getD 0)) s := by
  unfold State.performQuarter
  rw [h]
  simp only [hq, List.foldl_cons, List.foldl_nil, hr, Bool.false_eq_true, if_false]

theorem accWord_mwr (h : m.kind = .mwr) (hq : q.rows = [r]) (hr : r.undef = false) (hb : r.bytes.length = 64)
    {k : Nat} (hk : k < 16) :
    some ((s.performQuarter m q).accWord (accKey m.core r.tile r.row (16 * m.g + k))) = (leWords r.bytes)[k]? := by
  let key (j : Nat) : Nat := accKey m.core r.tile r.row (16 * m.g + j)
  have hput (t : State) (j i : Nat) (hi : i ≠ key j) :
      (t.setAcc (key j) (((leWords r.bytes)[j]?).getD 0)).accWord i = t.accWord i := by rw [accWord_setAcc, if_neg hi]
  have inj : Function.Injective key := fun a b hab => Nat.add_left_cancel (accKey_injective _ _ _ hab)
  obtain ⟨u, -, hfold⟩ := accWord_foldl_same hput inj List.nodup_range (List.mem_range.mpr hk) s
  have hlen : k < (leWords r.bytes).length := by rwa [length_leWords 16 _ hb]
  rw [performQuarter_mwr h hq hr, hfold, accWord_setAcc, if_pos rfl, List.getElem?_eq_getElem hlen]
  rfl

/-! ### MRD (R187) -/

/-- A word of a thread's operation lands in the register of its live lane. -/
theorem landV_live {o : Op} {w : Warp} {th : Thread} {l : Nat} (hh : o.helper = none) (hw : s.warp o.warp = some w)
    (ht : w.threads[l]? = some th) (hl : th.live = true) (n : Nat) (v : Word) : s.landV o l n v = s.setV o.warp l n v := by
  simp [State.landV, hh, State.thread, hw, ht, hl]

/-- Words of the accumulators land one after the other in the registers of a live lane. -/
theorem foldl_landV_eq_setVs {o : Op} {w : Warp} {th : Thread} {l d : Nat} {key : Nat → Nat} (hh : o.helper = none)
    (hw : s.warp o.warp = some w) (ht : w.threads[l]? = some th) (hl : th.live = true) (ks : List Nat) :
    ks.foldl (fun t k => t.landV o l (d + k) (t.accWord (key k))) s =
      setVs s o.warp (ks.map fun k => (l, d + k, s.accWord (key k))) := by
  induction ks generalizing s with
  | nil => rfl
  | cons k ks ih =>
    rw [List.foldl_cons, landV_live hh hw ht hl, ih ((setV_warp ..).trans hw)]
    simp only [accWord_setV, List.map_cons, setVs_cons]

theorem performQuarter_mrd {o : Op} (h : m.kind = .mrd) (ho : s.op m.id = some o) (hq : q.rows = [r]) :
    s.performQuarter m q = (List.range 16).foldl
      (fun t k => t.landV o r.lane (m.d + k) (t.accWord (accKey m.core r.tile r.row (16 * m.g + k)))) s := by
  unfold State.performQuarter
  rw [h]
  simp only [ho, hq, List.foldl_cons, List.foldl_nil]

theorem matrixResults : MatrixResults := by
  refine ⟨fun s m r n h hn => accWord_undefRow h hn, fun s core gs acc fw r hr _ _ => productRow_accumulates hr,
    fun s m q h ct hct i c hi hc => ?mclr, fun s m q h => ?mswap, fun s m q pid off size h hl => ?mlds,
    fun s m q r h hq hr hb _ k hk => accWord_mwr h hq hr hb hk,
    fun s m q r o w th k key h ho hh hw ht hl hq hk hkey hone => ?mrd⟩
  case mclr =>
    rw [performQuarter_mclr h]
    exact accWord_tileZeros (accKey_in_tile hi hc) hct s
  case mswap =>
    rw [performQuarter_mswap h, qarray_modQArray]
    exact ⟨rfl, rfl⟩
  case mlds =>
    rw [performQuarter_mlds h hl, qarray_modQArray, matBytes_qarray]
    exact ⟨⟨_, matRead_matBytes .., rfl⟩, rfl⟩
  case mrd =>
    rw [performQuarter_mrd h ho hq, foldl_landV_eq_setVs hh hw ht hl]
    refine (setVs_same hw _ ⟨_, List.mem_map_of_mem (List.mem_range.mpr hk), hkey⟩ fun e he hek => ?_).1
    obtain ⟨j, hj, rfl⟩ := List.mem_map.mp he
    rw [hone j (List.mem_range.mp hj) hek]

/-! ### MATRIX_OP_COMPLETE (R174, R188) -/

/-- The operation and those accepted before it, as MATRIX_OP_COMPLETE finds them. -/
theorem mops_split {before rest : List Mop} (h : s.mops = before ++ m :: rest) (hb : ∀ b ∈ before, b.id ≠ m.id) :
    (s.mops.find? fun x => x.id == m.id) = some m ∧ (s.mops.takeWhile fun x => x.id != m.id) = before := by
  rw [h]
  constructor
  · rw [List.find?_append, List.find?_eq_none.mpr fun b hb' => by simpa using hb b hb', List.find?_cons_of_pos (by simp)]
    rfl
  · rw [List.takeWhile_append_of_pos fun b hb' => by simpa using hb b hb', List.takeWhile_cons_of_neg (by simp), List.append_nil]

theorem matrixCompletion : MatrixCompletion := by
  intro s m before rest h hb
  obtain ⟨hfind, hbefore⟩ := mops_split h hb
  have hexec : exec (.matrixOpComplete m.id) s = execMatrixOpComplete m.id s := rfl
  refine ⟨fun q hq => ?performs, fun hnil q _ => ?first, fun hq hw => ?completes, fun hfree hwait => ?waits⟩
  case performs => simp only [hexec, execMatrixOpComplete, hfind, hbefore, hq]
  case first => rw [hnil]; rfl
  case completes =>
    have hno : (before.any fun b => b.warp == m.warp) = false := by simpa using hw
    simp only [hexec, execMatrixOpComplete, hfind, hbefore, hq, hno, List.find?_nil, List.isEmpty_nil, Bool.not_false,
      Bool.and_self, if_true, undefRows_mops]
  case waits =>
    have hnone : (m.quarters.find? fun q => m.free before q) = none :=
      List.find?_eq_none.mpr fun q hq => by simp [hfree q hq]
    have hnot : (m.quarters.isEmpty && !(before.any fun b => b.warp == m.warp)) = false := by
      rcases hwait with hne | ⟨b, hb, hbw⟩
      · simp [hne]
      · simpa using fun _ => ⟨b, hb, hbw⟩
    simp only [hexec, execMatrixOpComplete, hfind, hbefore, hnone, hnot, Bool.false_eq_true, if_false]

/-- Settles O31, by what each kind of quarter writes, and by the cases of MATRIX_OP_COMPLETE. -/
theorem matrixOperationResults : Obligations.MatrixOperationResults := ⟨matrixResults, matrixCompletion⟩

end Sys2Proof.Laws
end

section
/-! PROOF of O1: the integer words of two and three sources, and the shifts. -/

namespace Sys2Proof.Laws

open Sys2Proof.Machine Sys2Proof.Claims

/-! ### Words of integer operands -/

/-- A two-source word whose operation is as the rules say. -/
theorem twoSource_of_op {mk : FmtA → Instr} {op : Word → Word → Word} {spec : Word → Word → Word → Prop}
    (hexec : ∀ f s, exec (mk f) s = .next (s.alu2 f op)) (hop : ∀ a b, spec a b (op a b)) : TwoSource mk spec := by
  intro s i f nd h
  obtain ⟨t, ht, htake⟩ := actorsTake_withRegs nd h fun s i l => op (s.opnd i l f.ta f.a) (s.opnd i l f.tb f.b)
  exact ⟨t, _, (hexec f s).trans (congrArg Host.Outcome.next ht), fun l => hop .., htake⟩

/-- A three-source word whose operation is as the rules say. -/
theorem threeSource_of_op {mk : FmtA → Instr} {op : Word → Word → Word → Word} {spec : Word → Word → Word → Word → Prop}
    (hexec : ∀ f s, exec (mk f) s = .next (s.alu3 f op)) (hop : ∀ a b c, spec a b c (op a b c)) : ThreeSource mk spec := by
  intro s i f nd h
  obtain ⟨t, ht, htake⟩ := actorsTake_withRegs nd h fun s i' l =>
    op (s.opnd i' l f.ta f.a) (s.opnd i' l f.tb f.b) (s.opnd i' l (i.cOpnd f.d).1 (i.cOpnd f.d).2)
  refine ⟨t, _, (hexec f s).trans (congrArg Host.Outcome.next ?_), fun l => hop .., htake⟩
  rw [State.alu3, h.issuing]
  exact ht

/-! ### Products, saturation and multiply-add (R109) -/

/-- The product of two signed words lies within 2^62. -/
theorem toInt_mul_bounds (a b : Word) : -2 ^ 62 ≤ a.toInt * b.toInt ∧ a.toInt * b.toInt ≤ 2 ^ 62 := by
  have ha : |a.toInt| ≤ 2 ^ 31 := abs_le.mpr ⟨BitVec.le_toInt a, (BitVec.toInt_lt (x := a)).le⟩
  have hb : |b.toInt| ≤ 2 ^ 31 := abs_le.mpr ⟨BitVec.le_toInt b, (BitVec.toInt_lt (x := b)).le⟩
  have hab : |a.toInt * b.toInt| ≤ 2 ^ 31 * 2 ^ 31 :=
    abs_mul a.toInt b.toInt ▸ mul_le_mul ha hb (abs_nonneg _) (by norm_num)
  exact abs_le.mp (hab.trans (by norm_num))

/-- A number of the signed 32-bit range is what its word holds. -/
theorem toInt_ofInt_word {v : Int} (hlo : -2 ^ 31 ≤ v) (hhi : v < 2 ^ 31) : (BitVec.ofInt 32 v).toInt = v :=
  BitVec.toInt_ofInt_eq_self (by decide) hlo hhi

theorem mulHighS_toInt (a b : Word) : (mulHighS a b).toInt = a.toInt * b.toInt / 2 ^ 32 := by
  obtain ⟨hlo, hhi⟩ := toInt_mul_bounds a b
  exact toInt_ofInt_word (by omega) (by omega)

theorem mulHighN_toNat (a b : Word) : (mulHighN a b).toNat = a.toNat * b.toNat / 2 ^ 32 := by
  have hab : a.toNat * b.toNat < 2 ^ 32 * 2 ^ 32 := Nat.mul_lt_mul'' a.isLt b.isLt
  exact BitVec.toNat_ofNat .. |>.trans (Nat.mod_eq_of_lt (Nat.div_lt_of_lt_mul hab))

theorem clampInt_eq {lo hi : Int} (h : lo ≤ hi) (v : Int) : clampInt lo hi v = max lo (min hi v) := by
  unfold clampInt
  split_ifs <;> omega

/-- Saturation to the signed 32-bit range (R104). -/
theorem satS32_toInt (v : Int) : (satS32 v).toInt = max (-2 ^ 31) (min (2 ^ 31 - 1) v) := by
  rw [satS32, clampInt_eq (by decide), toInt_ofInt_word (by omega) (by omega)]
  rfl

theorem mul_add_toNat (a b c : Word) : (a * b + c).toNat = (a.toNat * b.toNat + c.toNat) % 2 ^ 32 := by
  rw [BitVec.toNat_add, BitVec.toNat_mul, Nat.mod_add_mod]

theorem getLsbD_andn (a b : Word) : ∀ k < 32, (a &&& ~~~b).getLsbD k = (a.getLsbD k && !b.getLsbD k) := by
  intro k hk
  simp [hk]

theorem integerTwoSource : IntegerTwoSource :=
  ⟨twoSource_of_op (fun _ _ => rfl) fun _ _ => BitVec.toNat_add .., twoSource_of_op (fun _ _ => rfl) sub_toNat_int,
    twoSource_of_op (fun _ _ => rfl) fun _ _ => BitVec.toNat_mul .., twoSource_of_op (fun _ _ => rfl) mulHighS_toInt,
    twoSource_of_op (fun _ _ => rfl) mulHighN_toNat, twoSource_of_op (fun _ _ => rfl) fun a b => ite_slt a b a b,
    twoSource_of_op (fun _ _ => rfl) fun a b => ite_ult a b a b, twoSource_of_op (fun _ _ => rfl) fun a b => ite_slt b a a b,
    twoSource_of_op (fun _ _ => rfl) fun a b => ite_ult b a a b, twoSource_of_op (fun _ _ => rfl) fun _ _ => satS32_toInt _,
    twoSource_of_op (fun _ _ => rfl) fun _ _ => satS32_toInt _,
    twoSource_of_op (fun _ _ => rfl) fun _ _ _ _ => BitVec.getLsbD_and,
    twoSource_of_op (fun _ _ => rfl) fun _ _ _ _ => BitVec.getLsbD_or,
    twoSource_of_op (fun _ _ => rfl) fun _ _ _ _ => BitVec.getLsbD_xor, twoSource_of_op (fun _ _ => rfl) getLsbD_andn,
    threeSource_of_op (fun _ _ => rfl) mul_add_toNat⟩

theorem shifts : Shifts :=
  ⟨twoSource_of_op (fun _ _ => rfl) shiftLeft_toNat, twoSource_of_op (fun _ _ => rfl) shiftRightN_toNat,
    twoSource_of_op (fun _ _ => rfl) shiftRightS_toInt⟩

/-- Settles O1, by the one result that each word writes in its actors' lanes. -/
theorem integerWordResults : Obligations.IntegerWordResults := ⟨integerTwoSource, shifts⟩

end Sys2Proof.Laws
end

section
/-! PROOF of O2: bit fields, bytes, selection, packing, pairs and the unary integer words. -/

namespace Sys2Proof.Laws

open Sys2Proof.Machine Sys2Proof.Claims

/-! ### Bit fields (R111) -/

theorem fieldAt_eq (b : Word) : fieldAt b = (fieldOffset b, fieldWidth b) := by
  simp only [fieldAt, fieldWidth, fieldOffset, BitVec.extractLsb'_toNat, Nat.shiftRight_eq_div_pow,
    Nat.reducePow, Nat.div_one]

/-- A field of a positive width, extended by its sign or by zeros. -/
theorem bitExtract_eq (a b : Word) {n : Nat} (hn : fieldWidth b = n + 1) :
    bitExtract a b = if b.getLsbD 15 then (a.extractLsb' (fieldOffset b) (n + 1)).signExtend 32
      else (a.extractLsb' (fieldOffset b) (n + 1)).setWidth 32 := by
  have hfield : (a >>> fieldOffset b).toNat % 2 ^ (n + 1) = (a.extractLsb' (fieldOffset b) (n + 1)).toNat := by
    rw [BitVec.extractLsb'_toNat, BitVec.toNat_ushiftRight]
  simp only [bitExtract, hn, Nat.add_one_ne_zero, if_false, hfield, sext_toNat, BitVec.ofNat_toNat]
  rfl

theorem getLsbD_bitExtract (a b : Word) : ∀ k < 32, (bitExtract a b).getLsbD k =
    if k < (fieldAt b).2 then a.getLsbD ((fieldAt b).1 + k)
    else b.getLsbD 15 && (fieldAt b).2 != 0 && a.getLsbD ((fieldAt b).1 + (fieldAt b).2 - 1) := by
  intro k hk
  rw [fieldAt_eq]
  cases hw : fieldWidth b with
  | zero => simp [bitExtract, hw]
  | succ n =>
    rw [bitExtract_eq a b hw]
    have hlast : fieldOffset b + (n + 1) - 1 = fieldOffset b + n := rfl
    cases b.getLsbD 15
    · simp only [Bool.false_eq_true, if_false, BitVec.getLsbD_setWidth, BitVec.getLsbD_extractLsb']
      by_cases hkn : k < n + 1 <;> simp [hk, hkn]
    · simp only [if_true, BitVec.getLsbD_signExtend, BitVec.msb_eq_getLsbD_last, BitVec.getLsbD_extractLsb']
      by_cases hkn : k < n + 1 <;> simp [hk, hkn, hlast]

/-- The mask of a field has its bits. -/
theorem getLsbD_fieldMask (w o k : Nat) (hk : k < 32) :
    (BitVec.ofNat 32 ((2 ^ w - 1) * 2 ^ o)).getLsbD k = decide (o ≤ k ∧ k < o + w) := by
  rw [BitVec.getLsbD_ofNat, Nat.testBit_mul_two_pow, Nat.testBit_two_pow_sub_one]
  simp only [hk, decide_true, Bool.true_and, ← Bool.decide_and]
  exact decide_eq_decide.mpr (by omega)

theorem getLsbD_bitInsert (a b c : Word) : ∀ k < 32, (bitInsert a b c).getLsbD k =
    if (fieldAt b).1 ≤ k ∧ k < (fieldAt b).1 + (fieldAt b).2 then a.getLsbD (k - (fieldAt b).1) else c.getLsbD k := by
  intro k hk
  rw [fieldAt_eq]
  simp only [bitInsert, BitVec.getLsbD_or, BitVec.getLsbD_and, BitVec.getLsbD_not, BitVec.getLsbD_shiftLeft,
    getLsbD_fieldMask _ _ _ hk, hk]
  by_cases hin : fieldOffset b ≤ k ∧ k < fieldOffset b + fieldWidth b
  · have hlow : ¬k < fieldOffset b := by omega
    simp [hin, hlow]
  · simp [hin]

/-! ### Bytes (R112) -/

/-- The byte that the low two bits of a selector nibble name. -/
theorem nibbleIndex (n : BitVec 4) : (n.extractLsb' 0 2).toNat = (n.getLsbD 0).toNat + 2 * (n.getLsbD 1).toNat := by
  revert n
  decide

theorem getLsbD_permByte (a : Word) (n : BitVec 4) {k : Nat} (hk : k < 8) : (permByte a n).getLsbD k =
    (!n.getLsbD 2 && a.getLsbD (8 * ((n.getLsbD 0).toNat + 2 * (n.getLsbD 1).toNat) + if n.getLsbD 3 then 7 else k)) := by
  have hones : (255#8).getLsbD k = true := by
    revert k
    decide
  unfold permByte
  rw [nibbleIndex]
  generalize (n.getLsbD 0).toNat + 2 * (n.getLsbD 1).toNat = y
  cases n.getLsbD 2
  · cases n.getLsbD 3
    · simp [hk]
    · cases hs : a.getLsbD (8 * y + 7) <;> simp [hs, hones]
  · simp

/-- Byte `y` of the result is the one that nibble `y` makes. -/
theorem getLsbD_permBytes (a b : Word) {y k : Nat} (hy : y < 4) (hk : k < 8) :
    (permBytes a b).getLsbD (8 * y + k) = (permByte a (b.extractLsb' (4 * y) 4)).getLsbD k := by
  simp only [permBytes, BitVec.getLsbD_append]
  obtain rfl | rfl | rfl | rfl : y = 0 ∨ y = 1 ∨ y = 2 ∨ y = 3 := by omega
  · simp [hk]
  · rw [if_neg (by omega), if_pos (by omega), show 8 * 1 + k - 8 = k by omega]
  · rw [if_neg (by omega), if_neg (by omega), if_pos (by omega), show 8 * 2 + k - 8 - 8 = k by omega]
  · rw [if_neg (by omega), if_neg (by omega), if_neg (by omega), show 8 * 3 + k - 8 - 8 - 8 = k by omega]

theorem permBytes_spec (a b : Word) : ∀ y < 4, ∀ k < 8, (permBytes a b).getLsbD (8 * y + k) =
    (!b.getLsbD (4 * y + 2) &&
      a.getLsbD (8 * ((b.getLsbD (4 * y)).toNat + 2 * (b.getLsbD (4 * y + 1)).toNat) +
        (if b.getLsbD (4 * y + 3) then 7 else k))) := by
  intro y hy k hk
  rw [getLsbD_permBytes a b hy hk, getLsbD_permByte _ _ hk]
  simp

/-! ### Selection and packing (R113, R120) -/

theorem fieldsAndBytes : FieldsAndBytes := by
  refine ⟨twoSource_of_op (fun _ _ => rfl) getLsbD_bitExtract, threeSource_of_op (fun _ _ => rfl) getLsbD_bitInsert,
    twoSource_of_op (fun _ _ => rfl) permBytes_spec, twoSource_of_op (fun _ _ => rfl) fun _ _ => rfl, fun s i f nd h => ?_⟩
  obtain ⟨t, ht, htake⟩ := actorsTake_withRegs nd h fun s i l =>
    if s.opnd i l f.ta f.a = 0 then s.rdV i l f.d.toNat else s.opnd i l f.tb f.b
  simp only [ne_eq, ite_not]
  exact ⟨t, congrArg Host.Outcome.next ht, htake⟩

/-! ### Pairs (R114, R121) -/

/-- A word of threads past its checks that writes pairs leaves the acting threads with them. -/
theorem pairsTaken_withRegs {s : State} {i : Issue} {w : Warp} {srcs : List Nat} {d : Nat} (hd : d % 2 = 0)
    (h : s.ReadyT i w srcs [d, d + 1]) (val : State → Issue → Nat → DWord) :
    ∃ t, s.withRegs srcs [d, d + 1] (fun i s => s.writePairs i d (val s i)) = t ∧
      PairsTaken s w (s.acting i) d (val s i) t :=
  ⟨_, withRegs_ready h.toReady _, pairsTaken_writePairs h.threads h.warp hd _⟩

theorem pairResults : PairResults := by
  refine ⟨fun s i w f hd h => ?iadd64, fun s i w f hd h => ?mov64⟩
  case iadd64 =>
    obtain ⟨t, ht, htake⟩ := pairsTaken_withRegs hd h fun s i l => s.opnd64 i l f.ta f.a + s.opnd64 i l f.tb f.b
    exact ⟨t, congrArg Host.Outcome.next ht, htake⟩
  case mov64 =>
    obtain ⟨t, ht, htake⟩ := pairsTaken_withRegs hd h fun s i l => s.opnd64 i l f.ta f.a
    exact ⟨t, congrArg Host.Outcome.next ht, htake⟩

/-! ### Unary integer words (R121) -/

/-- A unary word whose operation is as the rules say. -/
theorem oneSource_of_op {mk : FmtU → Instr} {op : Issue → Word → Word} {spec : Issue → Word → Word → Prop}
    (hexec : ∀ f s, exec (mk f) s = .next (s.alu1 f op)) (hop : ∀ i a, spec i a (op i a)) : OneSource mk spec := by
  intro s i f nd h
  obtain ⟨t, ht, htake⟩ := actorsTake_withRegs nd h fun s i l => op i (s.opnd i l f.ta f.a)
  exact ⟨t, _, (hexec f s).trans (congrArg Host.Outcome.next ht), fun l => hop .., htake⟩

theorem neg_toNat_int (a : Word) : ((-a).toNat : Int) = (-a.toInt) % 2 ^ 32 := by
  have ha := a.isLt
  rw [BitVec.toNat_neg, BitVec.toInt_eq_toNat_cond]
  split <;> omega

/-- Negation wraps, or saturates at the largest number (R121). -/
theorem ineg_spec (sat : Bool) (a : Word) :
    if sat then (if sat then satS32 (-a.toInt) else -a).toInt = min (2 ^ 31 - 1) (-a.toInt)
    else ((if sat then satS32 (-a.toInt) else -a).toNat : Int) = (-a.toInt) % 2 ^ 32 := by
  have hhi := BitVec.toInt_lt (x := a)
  cases sat
  · exact neg_toNat_int a
  · simp only [if_true, satS32_toInt]
    omega

/-- The absolute value fits the word as a natural number, and saturates at the largest signed one (R121). -/
theorem iabs_spec (sat : Bool) (a : Word) :
    if sat then (if sat then satS32 a.toInt.natAbs else BitVec.ofInt 32 a.toInt.natAbs).toInt =
      min (2 ^ 31 - 1) (a.toInt.natAbs : Int)
    else (if sat then satS32 a.toInt.natAbs else BitVec.ofInt 32 a.toInt.natAbs).toNat = a.toInt.natAbs := by
  have hlo := BitVec.le_toInt a
  have hhi := BitVec.toInt_lt (x := a)
  cases sat
  · simp only [Bool.false_eq_true, if_false, BitVec.ofInt_natCast, BitVec.toNat_ofNat]
    omega
  · simp only [if_true, satS32_toInt]
    omega

theorem leadingZeros_le (a : Word) : leadingZeros a ≤ 32 := by
  unfold leadingZeros
  split <;> omega

theorem leadingZeros_toNat (a : Word) : (BitVec.ofNat 32 (leadingZeros a)).toNat = leadingZeros a :=
  (BitVec.toNat_ofNat ..).trans (Nat.mod_eq_of_lt (Nat.lt_of_le_of_lt (leadingZeros_le a) (by decide)))

/-- The leading zeros are zeros, and the bit below them is the highest set one. -/
theorem leadingZeros_bits (a : Word) : (∀ k < leadingZeros a, a.getLsbD (31 - k) = false) ∧
    (leadingZeros a < 32 → a.getLsbD (31 - leadingZeros a) = true) := by
  unfold leadingZeros
  by_cases ha : a = 0
  · simp [ha]
  · have hne : a.toNat ≠ 0 := fun h => ha (BitVec.eq_of_toNat_eq h)
    have htop : Nat.log2 a.toNat < 32 := (Nat.log2_lt hne).mpr a.isLt
    simp only [ha, if_false]
    refine ⟨fun k hk => Nat.testBit_lt_two_pow ((Nat.log2_lt hne).mp (by omega)), fun _ => ?_⟩
    rw [Nat.sub_sub_self (by omega)]
    exact Nat.testBit_log2 hne

theorem countBits_toNat (a : Word) : (BitVec.ofNat 32 (countBits a)).toNat = countBits a := by
  have hle : countBits a ≤ 32 := (List.length_filter_le ..).trans_eq List.length_range
  exact (BitVec.toNat_ofNat ..).trans (Nat.mod_eq_of_lt (by omega))

theorem getLsbD_reverse_word (a : Word) : ∀ k < 32, a.reverse.getLsbD (31 - k) = a.getLsbD k := by
  intro k hk
  have hlt : 31 - k < 32 := by omega
  rw [BitVec.getLsbD_reverse, BitVec.getMsbD_eq_getLsbD, Nat.sub_sub_self (by omega)]
  simp [hlt]

theorem integerUnary : IntegerUnary := by
  refine ⟨oneSource_of_op (fun _ _ => rfl) fun _ _ => rfl, oneSource_of_op (fun _ _ => rfl) fun _ a k hk => ?not,
    oneSource_of_op (fun _ _ => rfl) fun i => ineg_spec i.sat, oneSource_of_op (fun _ _ => rfl) fun i => iabs_spec i.sat,
    oneSource_of_op (fun _ _ => rfl) fun _ a => ?clz, oneSource_of_op (fun _ _ => rfl) fun _ => countBits_toNat,
    oneSource_of_op (fun _ _ => rfl) fun _ => getLsbD_reverse_word⟩
  case not => simp [hk]
  case clz =>
    rw [leadingZeros_toNat]
    exact ⟨leadingZeros_le a, leadingZeros_bits a⟩

/-- Settles O2, by the bits of each word's one result, and by the two writes of a pair. -/
theorem fieldPairAndUnaryResults : Obligations.FieldPairAndUnaryResults := ⟨fieldsAndBytes, pairResults, integerUnary⟩

end Sys2Proof.Laws
end

section
/-! PROOF of O8: the cross-lane words. -/

namespace Sys2Proof.Laws

open Sys2Proof.Machine Sys2Proof.Claims

variable {s : State} {i : Issue} {w : Warp}

/-! ### Words of threads that write one register -/

/-- A word of threads past its checks that writes its lanes' values leaves the acting threads with them. -/
theorem threadsTake_withThread {srcs : List Nat} {d : Nat} (h : s.ReadyT i w srcs [d]) (val : State → Issue → Nat → Word) :
    ∃ t, s.withThread srcs [d] (fun i s => s.writeLanes i d (val s i)) = t ∧
      ThreadsTake s w (s.acting i) d (val s i) t := by
  refine ⟨_, withThread_ready h.toReady h.threads _, ?_⟩
  simp only [State.writeLanes, State.wrV, h.threads]
  exact threadsTake_fold (val s i) (s.acting i) s h.warp

/-! ### Shuffles, SWAPPAIR and BCASTL (R133 to R135) -/

/-- A lane is served from its row's source lane, or by itself where that is not active (R132). -/
theorem fromLane_eq (ta : BitVec 2) (a : BitVec 7) (l : Nat) (src : Int) :
    s.fromLane i ta a l src = s.opnd i (servedBy (s.acting i) l src) ta a := by
  have hlane : (if (s.acting i).contains (if 0 ≤ src ∧ src < 32 then l / 32 * 32 + src.toNat else l)
      then (if 0 ≤ src ∧ src < 32 then l / 32 * 32 + src.toNat else l) else l) = servedBy (s.acting i) l src := by
    unfold servedBy
    by_cases hsrc : 0 ≤ src ∧ src < 32
    · simp [hsrc]
    · have hno : ¬(0 ≤ src ∧ src < 32 ∧ l / 32 * 32 + src.toNat ∈ s.acting i) := fun ⟨h0, h1, _⟩ => hsrc ⟨h0, h1⟩
      rw [if_neg hsrc, if_neg hno, ite_self]
  exact congrArg (s.opnd i · ta a) hlane

theorem shuffle_of_src {mk : FmtL → Instr} {src : Nat → Nat → Int} (hexec : ∀ f s, exec (mk f) s = .next (s.shuffle f src)) :
    Shuffle mk src := by
  intro s i w f h
  obtain ⟨t, ht, htake⟩ := threadsTake_withThread h fun s i l => s.fromLane i f.ta f.a l (src (l % 32) (s.laneOpnd i f l))
  refine ⟨t, (hexec f s).trans (congrArg Host.Outcome.next ?_), ?_⟩
  · rw [State.shuffle, laneRegs, h.issuing]
    exact ht
  · simp only [fromLane_eq] at htake
    exact htake

/-- The partner of a lane under a distance below 32 lies in its row (R134). -/
theorem partner_eq (l : Nat) {k : Nat} (hk : k ≤ 4) : l / 32 * 32 + (l % 32 ^^^ 2 ^ k) = l ^^^ 2 ^ k := by
  have hlt : 2 ^ k < 2 ^ 5 := Nat.pow_lt_pow_right (by decide) (by omega)
  have hdiv : (l ^^^ 2 ^ k) / 2 ^ 5 = l / 2 ^ 5 := by
    rw [Nat.xor_div_two_pow, Nat.div_eq_of_lt hlt, Nat.xor_zero]
  have hmod : (l ^^^ 2 ^ k) % 2 ^ 5 = l % 2 ^ 5 ^^^ 2 ^ k := by
    rw [Nat.xor_mod_two_pow, Nat.mod_eq_of_lt hlt]
  exact hdiv ▸ hmod ▸ Nat.div_add_mod' _ _

theorem swappair_takes {f : FmtL} (h : s.ReadyT i w (vregsOf f.ta f.a) [f.d.toNat]) (hf : f.lane.toNat ≤ 4) :
    ∃ t, exec (.swappair f) s = .next t ∧ ThreadsTake s w (s.acting i) f.d.toNat (fun l =>
      let u := l ^^^ 2 ^ f.lane.toNat
      let own := s.opnd i l f.ta f.a
      let far := s.opnd i u f.ta f.a
      if u ∉ s.acting i then own
      else if l < u then far.extractLsb' 0 16 ++ own.extractLsb' 0 16
      else own.extractLsb' 16 16 ++ far.extractLsb' 16 16) t := by
  obtain ⟨t, ht, htake⟩ := threadsTake_withThread h fun s i l =>
    let u := l / 32 * 32 + (l % 32 ^^^ 2 ^ (f.lane.toNat % 8))
    let own := s.opnd i l f.ta f.a
    if !(s.acting i).contains u then own
    else
      let other := s.opnd i u f.ta f.a
      if l < u then packHalves (half other 0) (half own 0) else packHalves (half own 1) (half other 1)
  refine ⟨t, congrArg Host.Outcome.next ht, ?_⟩
  simp only [Nat.mod_eq_of_lt (show f.lane.toNat < 8 by omega), partner_eq _ hf, Bool.not_eq_true', List.contains_eq_mem,
    decide_eq_false_iff_not] at htake
  exact htake

theorem shuffles : Shuffles := by
  refine ⟨shuffle_of_src fun _ _ => rfl, shuffle_of_src fun _ _ => rfl, shuffle_of_src fun _ _ => rfl,
    shuffle_of_src fun _ _ => rfl, fun s i w f h hf => swappair_takes h hf, fun s i w f h => ?_⟩
  obtain ⟨t, ht, htake⟩ := threadsTake_withThread h fun s i l => s.opnd i ((minNat? (s.rowLanes i l)).getD l) f.ta f.a
  simp only [minNat?_eq_min?] at htake
  exact ⟨t, congrArg Host.Outcome.next ht, htake⟩

/-! ### The lanes of a census -/

/-- The scope of a census: the active lanes of the row, or with `bundle` those of the bundle. -/
theorem scope_eq (bundle : Bool) (l : Nat) : (if bundle then s.acting i else s.rowLanes i l) =
    (s.acting i).filter fun k => bundle || k / 32 == l / 32 := by
  cases bundle
  · simp [State.rowLanes]
  · simp

/-- Bit `b` of a mask of lanes is set when one of them stands at place `b` of its row. -/
theorem getLsbD_rowMask (ls : List Nat) {b : Nat} (hb : b < 32) : (rowMask ls).getLsbD b = ls.any fun k => k % 32 == b := by
  have hfold : ∀ m : Nat, (ls.foldl (fun m l => m ||| 2 ^ (l % 32)) m).testBit b =
      (m.testBit b || ls.any fun k => k % 32 == b) := by
    induction ls with
    | nil => simp
    | cons k ls ih =>
      intro m
      rw [List.foldl_cons, ih, Nat.testBit_or, Nat.testBit_two_pow, List.any_cons, Bool.or_assoc]
      rfl
  rw [rowMask, BitVec.getLsbD_ofNat, hfold]
  simp [hb]

/-- The mask of lanes of one row `r`. -/
theorem getLsbD_rowMask_row {ls : List Nat} {r : Nat} (hrow : ∀ k ∈ ls, k / 32 = r) :
    ∀ b < 32, (rowMask ls).getLsbD b = decide (r * 32 + b ∈ ls) := by
  intro b hb
  rw [getLsbD_rowMask ls hb, Bool.eq_iff_iff, List.any_eq_true, decide_eq_true_iff]
  constructor
  · rintro ⟨k, hk, hkb⟩
    have := hrow k hk
    have : k % 32 = b := beq_iff_eq.mp hkb
    rwa [show r * 32 + b = k by omega]
  · exact fun hk => ⟨_, hk, beq_iff_eq.mpr (by omega)⟩

/-- The index of the least lane of a list, or the default where it is empty. -/
theorem least_index (cs : List Nat) (ix : Nat → Word) (e : Word) : (cs = [] → ((minNat? cs).map ix).getD e = e) ∧
    (cs ≠ [] → ∃ k ∈ cs, (∀ j ∈ cs, k ≤ j) ∧ ((minNat? cs).map ix).getD e = ix k) := by
  refine ⟨fun h => by rw [h]; rfl, fun h => ?_⟩
  obtain ⟨k, hk⟩ := Option.ne_none_iff_exists'.mp (mt List.min?_eq_none_iff.mp h)
  obtain ⟨hmem, hle⟩ := List.min?_eq_some_iff.mp hk
  exact ⟨k, hmem, hle, by rw [minNat?_eq_min?, hk]; rfl⟩

/-- The index of the greatest lane of a list, or the default where it is empty. -/
theorem greatest_index (cs : List Nat) (ix : Nat → Word) (e : Word) : (cs = [] → (cs.max?.map ix).getD e = e) ∧
    (cs ≠ [] → ∃ k ∈ cs, (∀ j ∈ cs, j ≤ k) ∧ (cs.max?.map ix).getD e = ix k) := by
  refine ⟨fun h => by rw [h]; rfl, fun h => ?_⟩
  obtain ⟨k, hk⟩ := Option.ne_none_iff_exists'.mp (mt List.max?_eq_none_iff.mp h)
  obtain ⟨hmem, hle⟩ := List.max?_eq_some_iff.mp hk
  exact ⟨k, hmem, hle, by rw [hk]; rfl⟩

/-- A truth value as a word is 1 where it holds and 0 where it does not. -/
theorem truth_word (p : Prop) [Decidable p] : ((if p then (1 : Word) else 0) = 1 ↔ p) ∧
    ((if p then (1 : Word) else 0) = 0 ↔ ¬p) := by
  by_cases h : p <;> simp [h]

/-! ### VOTEB (R135) -/

section Vote

variable {row : Bool} {scope : List Nat} {a : Nat → Word}

/-- The ballot of a row: the lanes of the scope whose value is not zero. -/
theorem vote_ballot {r : Nat} (hrow : ∀ k ∈ scope, k / 32 = r) : ∀ b < 32,
    (voteResult 0 row scope a).getLsbD b = decide (r * 32 + b ∈ scope.filter fun k => a k != 0) :=
  getLsbD_rowMask_row fun k hk => hrow k (List.mem_of_mem_filter hk)

/-- All lanes of the scope count. -/
theorem vote_all : (voteResult 4 row scope a = 1 ↔ ∀ k ∈ scope, a k ≠ 0) ∧
    (voteResult 4 row scope a = 0 ↔ ∃ k ∈ scope, a k = 0) := by
  have hall : (scope.filter fun k => a k != 0).length = scope.length ↔ ∀ k ∈ scope, a k ≠ 0 := by
    rw [List.length_filter_eq_length_iff]
    simp only [bne_iff_ne]
  obtain ⟨hone, hzero⟩ := truth_word ((scope.filter fun k => a k != 0).length = scope.length)
  refine ⟨hone.trans hall, hzero.trans ((not_congr hall).trans ?_)⟩
  push Not
  rfl

/-- Some lane of the scope counts. -/
theorem vote_any : (voteResult 5 row scope a = 1 ↔ ∃ k ∈ scope, a k ≠ 0) ∧
    (voteResult 5 row scope a = 0 ↔ ∀ k ∈ scope, a k = 0) := by
  have hnone : (scope.filter fun k => a k != 0).isEmpty = true ↔ ∀ k ∈ scope, a k = 0 := by
    simp [List.filter_eq_nil_iff]
  have hword : voteResult 5 row scope a = if ¬(scope.filter fun k => a k != 0).isEmpty then 1 else 0 := (ite_not ..).symm
  obtain ⟨hone, hzero⟩ := truth_word (¬(scope.filter fun k => a k != 0).isEmpty)
  rw [hword]
  refine ⟨hone.trans ((not_congr hnone).trans ?_), hzero.trans (not_not.trans hnone)⟩
  push Not
  rfl

/-- The lanes of a row that hold what its lowest lane holds. -/
theorem vote_match {r low : Nat} (hrow : ∀ k ∈ scope, k / 32 = r) (hlow : scope.min? = some low) : ∀ b < 32,
    (voteResult 6 row scope a).getLsbD b = (decide (r * 32 + b ∈ scope) && a (r * 32 + b) == a low) := by
  intro b hb
  have hmask : voteResult 6 row scope a = rowMask (scope.filter fun k => a k == a low) := by
    simp only [voteResult, minNat?_eq_min?, hlow]
  rw [hmask, getLsbD_rowMask_row (fun k hk => hrow k (List.mem_of_mem_filter hk)) b hb]
  simp only [List.mem_filter, Bool.decide_and, Bool.decide_eq_true]

end Vote

/-- The lowest active lane of a row in which a lane is active. -/
theorem min?_row {act : List Nat} {l : Nat} (hl : l ∈ act) :
    (act.filter fun k => k / 32 == l / 32).min? = some (rowLowest act l) := by
  have hmem : l ∈ act.filter fun k => k / 32 == l / 32 := List.mem_filter.mpr ⟨hl, beq_self_eq_true _⟩
  obtain ⟨low, hlow⟩ := Option.ne_none_iff_exists'.mp (mt List.min?_eq_none_iff.mp (List.ne_nil_of_mem hmem))
  rw [rowLowest, hlow]
  rfl

/-! ### REDUX (R136) -/

/-- An operation with the neutral element 0 folds from it. -/
theorem reduxFold_cons {op : Nat} (h0 : ∀ x, reduxOp op x 0 = x) (x : Word) (xs : List Word) :
    reduxFold op (x :: xs) = reduxOp op x (reduxFold op xs) := by
  cases xs with
  | nil => exact (h0 x).symm
  | cons y ys => rfl

theorem redux_sum (a : Nat → Word) (scope : List Nat) :
    (reduxFold 0 (scope.map a)).toNat = (scope.map fun k => (a k).toNat).sum % 2 ^ 32 := by
  induction scope with
  | nil => rfl
  | cons l ls ih =>
    rw [List.map_cons, reduxFold_cons fun _ => BitVec.add_zero _, List.map_cons, List.sum_cons, ← Nat.add_mod_mod, ← ih]
    exact BitVec.toNat_add ..

/-- An operation that keeps the operand of the smaller key finds a lane whose value has the least. -/
theorem redux_least {op : Nat} (key : Word → Int) (hop : ∀ x y, reduxOp op x y = if key x < key y then x else y)
    (a : Nat → Word) {scope : List Nat} (hne : scope ≠ []) :
    (∃ k ∈ scope, reduxFold op (scope.map a) = a k) ∧ ∀ k ∈ scope, key (reduxFold op (scope.map a)) ≤ key (a k) := by
  induction scope with
  | nil => exact absurd rfl hne
  | cons l ls ih =>
    cases ls with
    | nil => simp [reduxFold]
    | cons m ms =>
      obtain ⟨⟨k, hk, hka⟩, hle⟩ := ih (List.cons_ne_nil _ _)
      rw [show reduxFold op ((l :: m :: ms).map a) = reduxOp op (a l) (reduxFold op ((m :: ms).map a)) from rfl, hop]
      split
      · next hlt =>
        exact ⟨⟨l, List.mem_cons_self .., rfl⟩, List.forall_mem_cons.mpr ⟨le_rfl, fun j hj => hlt.le.trans (hle j hj)⟩⟩
      · next hlt =>
        exact ⟨⟨k, List.mem_cons_of_mem _ hk, hka⟩, List.forall_mem_cons.mpr ⟨not_lt.mp hlt, hle⟩⟩

section Redux

variable (a : Nat → Word) {scope : List Nat} (hne : scope ≠ [])

include hne

theorem redux_minS :
    (∃ k ∈ scope, reduxFold 1 (scope.map a) = a k) ∧ ∀ k ∈ scope, (reduxFold 1 (scope.map a)).toInt ≤ (a k).toInt :=
  redux_least (op := 1) BitVec.toInt (fun x y => ite_slt x y x y) a hne

theorem redux_maxS :
    (∃ k ∈ scope, reduxFold 2 (scope.map a) = a k) ∧ ∀ k ∈ scope, (a k).toInt ≤ (reduxFold 2 (scope.map a)).toInt := by
  obtain ⟨hin, hle⟩ := redux_least (op := 2) (fun x => -x.toInt)
    (fun x y => (ite_slt y x x y).trans (by simp only [neg_lt_neg_iff])) a hne
  exact ⟨hin, fun k hk => neg_le_neg_iff.mp (hle k hk)⟩

theorem redux_minN :
    (∃ k ∈ scope, reduxFold 3 (scope.map a) = a k) ∧ ∀ k ∈ scope, (reduxFold 3 (scope.map a)).toNat ≤ (a k).toNat := by
  obtain ⟨hin, hle⟩ := redux_least (op := 3) (fun x => (x.toNat : Int))
    (fun x y => (ite_ult x y x y).trans (by simp only [Nat.cast_lt])) a hne
  exact ⟨hin, fun k hk => Nat.cast_le.mp (hle k hk)⟩

theorem redux_maxN :
    (∃ k ∈ scope, reduxFold 4 (scope.map a) = a k) ∧ ∀ k ∈ scope, (a k).toNat ≤ (reduxFold 4 (scope.map a)).toNat := by
  obtain ⟨hin, hle⟩ := redux_least (op := 4) (fun x => -(x.toNat : Int))
    (fun x y => (ite_ult y x x y).trans (by simp only [neg_lt_neg_iff, Nat.cast_lt])) a hne
  exact ⟨hin, fun k hk => Nat.cast_le.mp (neg_le_neg_iff.mp (hle k hk))⟩

theorem redux_and (b : Nat) : (reduxFold 5 (scope.map a)).getLsbD b = scope.all fun k => (a k).getLsbD b := by
  induction scope with
  | nil => exact absurd rfl hne
  | cons l ls ih =>
    cases ls with
    | nil => simp [reduxFold]
    | cons m ms =>
      rw [List.all_cons, ← ih (List.cons_ne_nil _ _)]
      exact BitVec.getLsbD_and

end Redux

theorem redux_or (a : Nat → Word) (scope : List Nat) (b : Nat) :
    (reduxFold 6 (scope.map a)).getLsbD b = scope.any fun k => (a k).getLsbD b := by
  induction scope with
  | nil => exact BitVec.getLsbD_zero
  | cons l ls ih =>
    rw [List.map_cons, reduxFold_cons fun _ => BitVec.or_zero, List.any_cons, ← ih]
    exact BitVec.getLsbD_or

/-- The parity of a number and of its successor. -/
theorem odd_succ (n : Nat) : ((n + 1) % 2 == 1) = !(n % 2 == 1) := by
  rcases Nat.mod_two_eq_zero_or_one n with h | h <;> simp [Nat.add_mod, h]

theorem redux_xor (a : Nat → Word) (scope : List Nat) (b : Nat) :
    (reduxFold 7 (scope.map a)).getLsbD b = ((scope.filter fun k => (a k).getLsbD b).length % 2 == 1) := by
  induction scope with
  | nil => exact BitVec.getLsbD_zero
  | cons l ls ih =>
    rw [List.map_cons, reduxFold_cons fun _ => BitVec.xor_zero, List.filter_cons]
    refine BitVec.getLsbD_xor.trans ?_
    rw [ih]
    cases (a l).getLsbD b
    · exact Bool.false_xor _
    · exact (Bool.true_xor _).trans (odd_succ _).symm

/-! ### The words -/

theorem censuses : Censuses := by
  refine ⟨fun s i w f h => ?voteb, fun s i w f h => ?redux⟩
  case voteb =>
    obtain ⟨t, ht, htake⟩ := threadsTake_withThread h fun s i l =>
      voteResult (f.lane.toNat % 8) (!f.lane.getLsbD 3) (if f.lane.getLsbD 3 then s.acting i else s.rowLanes i l)
        fun t => s.opnd i t f.ta f.a
    refine ⟨t, _, congrArg Host.Outcome.next ht, htake, fun l hl => ?_⟩
    rw [scope_eq]
    simp only [Bool.not_not]
    generalize f.lane.getLsbD 3 = bundle, f.lane.toNat % 8 = mode
    have hrow : (!bundle) = true → ∀ k ∈ (s.acting i).filter fun k => bundle || k / 32 == l / 32, k / 32 = l / 32 := by
      rintro hb k hk
      simpa [(Bool.not_eq_true' _).mp hb] using (List.mem_filter.mp hk).2
    have hlow : (!bundle) = true →
        ((s.acting i).filter fun k => bundle || k / 32 == l / 32).min? = some (rowLowest (s.acting i) l) := by
      intro hb
      rw [(Bool.not_eq_true' _).mp hb]
      exact min?_row hl
    generalize ((s.acting i).filter fun k => bundle || k / 32 == l / 32) = scope at hrow hlow
    refine ⟨?_, ?_, ?_, ?_, ?_, ?_, ?_, ?_, ?_⟩ <;> rintro rfl
    · exact fun hb => vote_ballot (hrow hb)
    · exact BitVec.toNat_ofNat ..
    · exact (least_index _ _ _).1
    · exact (least_index _ _ _).2
    · exact (greatest_index _ _ _).1
    · exact (greatest_index _ _ _).2
    · exact vote_all
    · exact vote_any
    · exact fun hb => vote_match (hrow hb) (hlow hb)
  case redux =>
    obtain ⟨t, ht, htake⟩ := threadsTake_withThread h fun s i l =>
      reduxFold (f.lane.toNat % 8)
        ((if f.lane.getLsbD 3 then s.acting i else s.rowLanes i l).map fun t => s.opnd i t f.ta f.a)
    refine ⟨t, _, congrArg Host.Outcome.next ht, htake, fun l hl => ?_⟩
    rw [scope_eq]
    have hne : ((s.acting i).filter fun k => f.lane.getLsbD 3 || k / 32 == l / 32) ≠ [] :=
      List.ne_nil_of_mem (List.mem_filter.mpr ⟨hl, by simp⟩)
    dsimp only
    generalize ((s.acting i).filter fun k => f.lane.getLsbD 3 || k / 32 == l / 32) = scope at hne
    generalize f.lane.toNat % 8 = op
    refine ⟨?_, ?_, ?_, ?_, ?_, ?_, ?_, ?_⟩ <;> rintro rfl
    · exact redux_sum _ scope
    · exact redux_minS _ hne
    · exact redux_maxS _ hne
    · exact redux_minN _ hne
    · exact redux_maxN _ hne
    · exact fun b _ => redux_and _ hne b
    · exact fun b _ => redux_or _ scope b
    · exact fun b _ => redux_xor _ scope b

/-- Settles O8, by what each lane reads of the others, and by the census of each mode over its lanes. -/
theorem crossLaneResults : Obligations.CrossLaneResults := ⟨shuffles, censuses⟩

end Sys2Proof.Laws
end

section
/-! PROOF of O15: barriers. -/

namespace Sys2Proof.Laws

open Sys2Proof.Machine Sys2Proof.Claims

variable {s : State}

/-! ### BAR and BARA -/

/-- The acting threads that have not arrived in the phase of the barrier that the word names. -/
def newArrivals (s : State) (i : Issue) (w : Warp) (f : FmtBar) : List Nat :=
  (s.actingP i f.neg f.pred).filter fun l => !(s.bar w.team f.bar.toNat).arrived.contains (w.k * w.w + l)

section
variable {i : Issue} {w : Warp} {t : Team} (h : s.ReadyC i w t) (f : FmtBar) (block : Bool)
include h

theorem barrier_idle (hls : s.actingP i f.neg f.pred = []) : s.barrier f block = s := by
  unfold State.barrier
  rw [ctrl_thread h (.inl rfl), hls]
  rfl

theorem barrier_mismatch {c : BitVec 12} (hnew : newArrivals s i w f ≠ [])
    (hc : (s.bar w.team f.bar.toNat).expect = some c) (hne : c ≠ f.count) :
    s.barrier f block = s.illegal 0x26 (newArrivals s i w f) := by
  have hls : s.actingP i f.neg f.pred ≠ [] := fun e => hnew (by simp [newArrivals, e])
  unfold State.barrier
  rw [ctrl_thread h (.inl rfl)]
  dsimp only
  rw [if_neg (by simpa using hls), hc]
  exact if_pos (by simpa [newArrivals, hne] using hnew)

theorem barrier_arrives (hls : s.actingP i f.neg f.pred ≠ []) (hcount : newArrivals s i w f = [] ∨
      (s.bar w.team f.bar.toNat).expect = none ∨ (s.bar w.team f.bar.toNat).expect = some f.count) :
    s.barrier f block = (((((s.actingP i f.neg f.pred).foldl (fun s l => s.postThread i.warp l none) s).barArrive w.team
      i.warp (s.actingP i f.neg f.pred) f.bar.toNat f.count block i.gpc).switchPoint i.warp).endTurn i.warp) := by
  unfold State.barrier
  rw [ctrl_thread h (.inl rfl)]
  dsimp only
  rw [if_neg (by simpa using hls)]
  refine if_neg ?_
  rcases hcount with hnew | hnone | hsame
  · rw [show List.filter _ _ = [] from hnew]
    exact Bool.false_ne_true
  · simp [hnone]
  · simp [hsame]

end

theorem barriers : Barriers := by
  intro s i w t f mk block h hmk ls b fresh
  have hexec : exec (mk f) s = .next (s.barrier f block) := by
    rcases hmk with hmk | hmk <;> cases hmk <;> rfl
  rw [hexec]
  refine ⟨fun hls => ?_, fun hnew hcount => ?_, fun hls hcount => ?_⟩
  · rw [barrier_idle h f block hls]
  · obtain ⟨c, hc, hne⟩ := hcount
    exact congrArg Host.Outcome.next (barrier_mismatch h f block hnew hc hne)
  · exact congrArg Host.Outcome.next (barrier_arrives h f block hls hcount)

/-! ### One arrival -/

theorem bar_setBar_same {tk b : Nat} {t : Team} (ht : s.team tk = some t) (v : Barrier) : (s.setBar tk b v).bar tk b = v := by
  have hteam : (s.setBar tk b v).team tk = some { t with bars := tset t.bars b v } := by
    unfold State.setBar State.team State.modTeam
    rw [tget_tmod, if_pos rfl, show tget s.teams tk = some t from ht]
    rfl
  unfold State.bar
  rw [hteam]
  simp

theorem thread_setBar (tk b k l : Nat) (v : Barrier) : (s.setBar tk b v).thread k l = s.thread k l := rfl

/-- A first arrival in a phase: the barrier counts it, and the thread of a BAR waits. -/
theorem barArriveOne_first {tk wk l b gpc : Nat} {w : Warp} {count : BitVec 12} {block : Bool} (hw : s.warp wk = some w)
    (hnew : (s.bar tk b).arrived.contains (w.k * w.w + l) = false) :
    s.barArriveOne tk wk l b count block gpc =
      let v := s.bar tk b
      let u := s.setBar tk b { v with
        count := v.count + 1, expect := some (v.expect.getD count), arrived := v.arrived ++ [w.k * w.w + l] }
      if block then u.modThread wk l fun t => { t with st := .blocked (.bar b none) } else u := by
  unfold State.barArriveOne
  rw [hw]
  dsimp only
  rw [hnew]
  rfl

theorem arrivals : Arrivals := by
  intro s tk wk l b gpc w t th count block hw ht hth hnew u
  have hthread : s.thread wk l = some th := by rw [State.thread, hw]; exact hth
  have hu : u = _ := barArriveOne_first hw hnew
  have hbar : u.bar tk b = { s.bar tk b with
      count := (s.bar tk b).count + 1, expect := some ((s.bar tk b).expect.getD count)
      arrived := (s.bar tk b).arrived ++ [w.k * w.w + l] } := by
    rw [hu]
    cases block
    · exact bar_setBar_same ht _
    · exact bar_setBar_same ht _
  refine ⟨by rw [hbar], by rw [hbar], ?_, ?_⟩
  · rw [hu]
    cases block
    · exact hthread
    · refine (thread_modThread _ wk l _ wk l).trans ?_
      rw [thread_setBar, hthread]
      simp
  · rw [hu]
    cases block <;> rfl

/-- Settles O15, by running each word past its checks, and by the one change of a first arrival. -/
theorem barrierArrivals : Obligations.BarrierArrivals := ⟨barriers, arrivals⟩

end Sys2Proof.Laws
end

section
/-! PROOF of O18 and O21: a thread's own buffered bytes, and the results of atomics. -/

namespace Sys2Proof.Laws

open Sys2Proof.Machine Sys2Proof.Claims

variable {s : State}

/-! ### Reading one's own stores -/

/-- The newest write of a thread's buffer that holds a byte gives it. -/
theorem ownByte_newest {ag : Agent} {loc : Loc} {buf : List Wr} {x : Wr} {b : Byte} (hag : ag.helper = none)
    (hbuf : s.m.tbuf = buf ++ [x]) (hx : x.warp = ag.warp ∧ x.lane = ag.lane ∧ x.helper = ag.helper)
    (hb : x.byteAt loc = some b) : s.ownByte ag loc = some b := by
  obtain ⟨hw, hl, hh⟩ := hx
  unfold State.ownByte
  rw [hag]
  dsimp only
  rw [hbuf, List.foldl_append, List.foldl_cons, List.foldl_nil, hb]
  simp [hw, hl, hh, hag]

/-- A store of at most 8 bytes is one write. -/
theorem storeParts_of_le {loc : Loc} {data : List Byte} (h : data.length ≤ 8) : storeParts loc data = [(loc, data)] := by
  unfold storeParts
  split
  · rfl
  · exact if_neg (by omega)

theorem key_add (loc : Loc) (k : Nat) : (loc.add k).key = (loc.key.1, loc.key.2 + k) := by
  cases loc <;> rfl

/-- Byte `k` of a write stands `k` places after its first. -/
theorem byteAt_add (x : Wr) (k : Nat) : x.byteAt (x.loc.add k) = x.data[k]? := by
  unfold Wr.byteAt
  rw [key_add, if_pos ⟨rfl, Nat.le_add_right ..⟩, Nat.add_sub_cancel_left]

theorem ownByte_bufferWrite (wk l core op va : Nat) (loc : Loc) {data : List Byte} {k : Nat} (hlen : data.length ≤ 8)
    (hk : k < data.length) : (s.bufferWrite wk l core op va loc data).ownByte
      { warp := wk, lane := l, helper := none, core := core } (loc.add k) = data[k]? := by
  have hbuf : ∃ buf id va', (s.bufferWrite wk l core op va loc data).m.tbuf =
      buf ++ [{ id := id, warp := wk, helper := none, lane := l, core := core, op := op, va := va', loc := loc, data := data }] := by
    unfold State.bufferWrite
    rw [storeParts_of_le hlen]
    exact ⟨_, _, _, rfl⟩
  obtain ⟨buf, id, va', hbuf⟩ := hbuf
  rw [List.getElem?_eq_getElem hk]
  exact ownByte_newest rfl hbuf ⟨rfl, rfl, rfl⟩ ((byteAt_add _ k).trans (List.getElem?_eq_getElem hk))

theorem ownStoresRead : OwnStoresRead := by
  refine ⟨fun s wk l core op va c o data k hlen hk => ?_, fun s wk l core op va pa mt data k hlen hk => ?_,
    fun s ag c o n p => rfl⟩
  · exact ownByte_bufferWrite wk l core op va (.spad c o) hlen hk
  · exact ownByte_bufferWrite wk l core op va (.mem mt pa) hlen hk

/-- Settles O18: what a store adds to its thread's buffer is the newest write there. -/
theorem ownStoresAreRead : Obligations.OwnStoresAreRead := ownStoresRead

/-! ### Magnitudes that an encoding holds -/

section
variable {t : FType}

/-- A magnitude below the sign bit keeps its place beside the sign. -/
theorem sign_add_lt (neg : Bool) {x : Nat} (hx : x < t.signBit) : (if neg then t.signBit else 0) + x < 2 * t.signBit := by
  cases neg <;> simp <;> omega

theorem maxFinite_lt (t : FType) : t.maxFinite < t.signBit := by cases t <;> decide

theorem canonNaN_lt (t : FType) : t.canonNaN < t.signBit := by cases t <;> decide

theorem infinity_lt (t : FType) : (2 ^ t.eb - 1) * 2 ^ t.mb < t.signBit := by cases t <;> decide

theorem infResult_lt (t : FType) (neg sat : Bool) : infResult t neg sat < 2 * t.signBit := by
  unfold infResult
  dsimp only
  split
  · exact sign_add_lt neg (maxFinite_lt t)
  · split
    · exact sign_add_lt neg (infinity_lt t)
    · exact sign_add_lt neg (canonNaN_lt t)

theorem eb_ne_zero (t : FType) : t.eb ≠ 0 := by cases t <;> decide

/-- A type with infinities has room for finite exponents. -/
theorem four_le_exponents (ht : t.hasInf = true) : 4 ≤ 2 ^ t.eb := by
  obtain ⟨h4, h2⟩ := ne_of_hasInf ht
  cases t with
  | e4m3 => exact absurd rfl h4
  | e2m1 => exact absurd rfl h2
  | _ => decide

/-- The leading bit of a value that is no larger than another stands no higher. -/
theorem log2_le_of_magLe {m n p : Nat} {e f : Int} (hm : m ≠ 0) (hn : n < 2 ^ (p + 1)) (h : magLe m e n f = true) :
    (Nat.log2 m : Int) + e ≤ p + f := by
  have hlow : 2 ^ Nat.log2 m ≤ m := Nat.log2_self_le hm
  unfold magLe at h
  split at h
  · next hfe =>
    rw [decide_eq_true_eq, Nat.shiftLeft_eq] at h
    have : 2 ^ (Nat.log2 m + (e - f).toNat) < 2 ^ (p + 1) :=
      calc 2 ^ (Nat.log2 m + (e - f).toNat) = 2 ^ Nat.log2 m * 2 ^ (e - f).toNat := pow_add ..
        _ ≤ m * 2 ^ (e - f).toNat := Nat.mul_le_mul_right _ hlow
        _ < 2 ^ (p + 1) := h.trans_lt hn
    have := (Nat.pow_lt_pow_iff_right (by omega : 1 < 2)).mp this
    omega
  · next hfe =>
    rw [decide_eq_true_eq, Nat.shiftLeft_eq] at h
    have : 2 ^ Nat.log2 m < 2 ^ (p + 1 + (f - e).toNat) :=
      calc 2 ^ Nat.log2 m ≤ n * 2 ^ (f - e).toNat := hlow.trans h
        _ < 2 ^ (p + 1) * 2 ^ (f - e).toNat := Nat.mul_lt_mul_of_pos_right hn (Nat.two_pow_pos _)
        _ = 2 ^ (p + 1 + (f - e).toNat) := (pow_add ..).symm
    have := (Nat.pow_lt_pow_iff_right (by omega : 1 < 2)).mp this
    omega

/-- A number moved so that its leading bit stands at bit `p`. -/
theorem leading_lt (k p : Nat) :
    (if Nat.log2 k ≤ p then k <<< (p - Nat.log2 k) else k >>> (Nat.log2 k - p)) < 2 ^ (p + 1) := by
  have hk : k < 2 ^ (Nat.log2 k + 1) := Nat.lt_log2_self
  split
  · next h =>
    rw [Nat.shiftLeft_eq]
    calc k * 2 ^ (p - Nat.log2 k) < 2 ^ (Nat.log2 k + 1) * 2 ^ (p - Nat.log2 k) :=
          Nat.mul_lt_mul_of_pos_right hk (Nat.two_pow_pos _)
      _ = 2 ^ (p + 1) := by rw [← pow_add]; congr 1; omega
  · next h =>
    rw [Nat.shiftRight_eq_div_pow, Nat.div_lt_iff_lt_mul (Nat.two_pow_pos _), ← pow_add]
    exact hk.trans_le (Nat.pow_le_pow_right (by omega) (by omega))

/-- A magnitude whose leading bit is no higher than the largest's fits beside the sign. -/
theorem encodeMag_lt {k : Nat} {q : Int} (hq : qminOf t ≤ q) (hmax : (Nat.log2 k : Int) + q + t.bias ≤ (2 ^ t.eb - 2 : Nat)) :
    encodeMag t k q < t.signBit := by
  have hk : k < 2 ^ (Nat.log2 k + 1) := Nat.lt_log2_self
  unfold encodeMag
  dsimp only
  split
  · exact Nat.two_pow_pos _
  split
  · rw [Nat.shiftLeft_eq]
    unfold qminOf at hq
    calc k * 2 ^ (q - (1 - t.bias - t.mb)).toNat < 2 ^ (Nat.log2 k + 1) * 2 ^ (q - (1 - t.bias - t.mb)).toNat :=
          Nat.mul_lt_mul_of_pos_right hk (Nat.two_pow_pos _)
      _ = 2 ^ (Nat.log2 k + 1 + (q - (1 - t.bias - t.mb)).toNat) := (pow_add ..).symm
      _ ≤ 2 ^ (t.mb + t.eb) := Nat.pow_le_pow_right (by omega) (by omega)
  · have hlead := leading_lt k t.mb
    have hexp : ((Nat.log2 k : Int) + q + t.bias).toNat * 2 ^ t.mb ≤ (2 ^ t.eb - 2) * 2 ^ t.mb :=
      Nat.mul_le_mul_right _ (by omega)
    have heb : (2 ^ t.eb - 2) * 2 ^ t.mb + 2 * 2 ^ t.mb = t.signBit := by
      rw [← Nat.add_mul, Nat.sub_add_cancel (Nat.one_lt_two_pow (eb_ne_zero t)), FType.signBit, pow_add, Nat.mul_comm]
    have hp := Nat.two_pow_pos t.mb
    rw [pow_succ] at hlead
    generalize (if Nat.log2 k ≤ t.mb then k <<< (t.mb - Nat.log2 k) else k >>> (Nat.log2 k - t.mb)) = lead at hlead ⊢
    generalize ((Nat.log2 k : Int) + q + t.bias).toNat * 2 ^ t.mb = top at hexp ⊢
    generalize (2 ^ t.eb - 2) * 2 ^ t.mb = most at hexp heb
    omega

/-- What a type with infinities encodes is a pattern of it. -/
theorem roundTo_lt (ht : t.hasInf = true) (v : Machine.Num) (mode : RMode) (sat : Bool) :
    roundTo v t mode sat < 2 * t.signBit := by
  cases v with
  | nan => exact (canonNaN_lt t).trans_le (Nat.le_mul_of_pos_left _ (by omega))
  | inf neg => exact infResult_lt t neg sat
  | fin neg m e =>
    have hsign : ∀ x < t.signBit, (if neg then t.signBit else 0) + x < 2 * t.signBit := fun x => sign_add_lt neg
    have hzero := hsign 0 (Nat.two_pow_pos _)
    unfold roundTo
    dsimp only
    rw [decodeF_maxFinite ht]
    dsimp only
    generalize (if neg = true then t.signBit else 0) = sign at hsign hzero ⊢
    generalize hq : max ((Nat.log2 m : Int) + e - t.mb) (1 - t.bias - t.mb) = q
    generalize (if q ≤ e then m <<< (e - q).toNat else roundShift mode neg m (q - e).toNat) = k
    split_ifs with hm hk hle
    · exact hzero
    · exact hzero
    · have htop := log2_le_of_magLe (by simpa using hk) (Nat.sub_lt (Nat.two_pow_pos _) Nat.one_pos) hle
      refine hsign _ (encodeMag_lt (by unfold qminOf; omega) ?_)
      have heb := four_le_exponents ht
      unfold qminOf at htop
      omega
    · exact hsign _ (maxFinite_lt t)
    · exact hsign _ (maxFinite_lt t)
    · exact infResult_lt t neg false

end

/-! ### Results of the ops (R155) -/

theorem sext_eq_toInt {n x : Nat} (hn : 0 < n) (hx : x < 2 ^ n) : sext n x = (BitVec.ofNat n x).toInt := by
  obtain ⟨m, rfl⟩ := Nat.exists_eq_succ_of_ne_zero hn.ne'
  rw [← sext_toNat, BitVec.toNat_ofNat, Nat.mod_eq_of_lt hx]

/-- The signed minimum and maximum, by what each chooses. -/
theorem signed_choice {n a b : Nat} (hn : 0 < n) (ha : a < 2 ^ n) (hb : b < 2 ^ n) :
    (BitVec.ofNat n (if sext n a < sext n b then a else b)).toInt = min (BitVec.ofNat n a).toInt (BitVec.ofNat n b).toInt ∧
    (BitVec.ofNat n (if sext n b < sext n a then a else b)).toInt = max (BitVec.ofNat n a).toInt (BitVec.ofNat n b).toInt := by
  rw [sext_eq_toInt hn ha, sext_eq_toInt hn hb]
  constructor
  · split
    · next h => exact (min_eq_left h.le).symm
    · next h => exact (min_eq_right (not_lt.mp h)).symm
  · split
    · next h => exact (max_eq_left h.le).symm
    · next h => exact (max_eq_right (not_lt.mp h)).symm

/-- Two halves put together are read back. -/
theorem halves_read {f : Nat → Nat} (hf : ∀ k, f k < 2 ^ 16) {k : Nat} (hk : k < 2) :
    (f 0 + at_ (f 1) 16) / 2 ^ (16 * k) % 2 ^ 16 = f k := by
  have h0 := hf 0
  have h1 := hf 1
  unfold at_
  obtain rfl | rfl : k = 0 ∨ k = 1 := by omega
  · omega
  · omega

/-- The sum that a half of ATOM.badd2 makes. -/
def halfSum (old d k : Nat) : Nat :=
  roundTo (sumExact .rne [decodeF .bf16 (old / 2 ^ (16 * k) % 2 ^ 16), decodeF .bf16 (d / 2 ^ (16 * k) % 2 ^ 16)]) .bf16 .rne
    false

theorem atomNew_badd2 (w64 : Bool) (old d e : Nat) : atomNew 11 w64 old d e = halfSum old d 0 + at_ (halfSum old d 1) 16 := rfl

theorem halfSum_lt (old d k : Nat) : halfSum old d k < 2 ^ 16 := roundTo_lt rfl _ _ _

theorem atomicResults : AtomicResults := by
  intro w64 old d e n hold hd he
  have hn : 0 < n := by cases w64 <;> decide
  obtain ⟨hmin, hmax⟩ := signed_choice hn hold hd
  refine ⟨rfl, ite_eq_or_eq .., hmin, ite_eq_or_eq .., hmax, rfl, rfl, ?and, ?or, ?xor, rfl, rfl, fun _ => rfl,
    fun _ k hk => halves_read (halfSum_lt old d) hk, fun _ => ⟨roundTo_lt rfl _ _ _, ?badd2⟩, rfl, rfl, rfl, rfl⟩
  case and => exact fun k => Nat.testBit_and old d k
  case or => exact fun k => Nat.testBit_or old d k
  case xor => exact fun k => Nat.testBit_xor old d k
  case badd2 =>
    have h0 := halfSum_lt old d 0
    have h1 := halfSum_lt old d 1
    rw [atomNew_badd2, at_]
    omega

/-! ### Atomics on a scratchpad -/

theorem tget_foldl_tset_placed (lo : Nat) (bs : List Byte) (m : Tab Byte) (a : Nat) :
    tget ((placed lo bs).foldl (fun t e => tset t e.1 e.2) m) a =
      if lo ≤ a ∧ a < lo + bs.length then bs[a - lo]? else tget m a := by
  induction bs generalizing lo m with
  | nil => simp [placed]
  | cons b bs ih =>
    rw [placed_cons, List.foldl_cons, ih, tget_tset, List.length_cons]
    rcases Nat.lt_trichotomy a lo with h | rfl | h
    · rw [if_neg (by omega), if_neg (by omega), if_neg (by omega)]
    · rw [if_neg (by omega), if_pos rfl, if_pos (by omega), Nat.sub_self, List.getElem?_cons_zero]
    · rw [show a - lo = a - (lo + 1) + 1 by omega, List.getElem?_cons_succ]
      by_cases hin : a < lo + 1 + bs.length
      · rw [if_pos (by omega), if_pos (by omega)]
      · rw [if_neg (by omega), if_neg (by omega), if_neg (by omega)]

theorem spad_spadWrite (c o : Nat) (bs : List Byte) : (s.spadWrite c o bs).m.spad =
    (placed (c * 2 ^ 21 + o) bs).foldl (fun t e => tset t e.1 e.2) s.m.spad := by
  rw [placed, List.foldl_map]
  rfl

theorem spadByte_spadWrite_same (c o : Nat) {bs : List Byte} {k : Nat} (hk : k < bs.length) :
    some ((s.spadWrite c o bs).spadByte c (o + k)) = bs[k]? := by
  unfold State.spadByte
  rw [spad_spadWrite, tget_foldl_tset_placed, if_pos (by omega), show c * 2 ^ 21 + (o + k) - (c * 2 ^ 21 + o) = k by omega,
    List.getElem?_eq_getElem hk]

theorem spadByte_spadWrite_other (c o : Nat) (bs : List Byte) {k q : Nat} (ho : o + bs.length ≤ 2 ^ 21) (hq : q < 2 ^ 21)
    (h : k ≠ c ∨ q < o ∨ o + bs.length ≤ q) : (s.spadWrite c o bs).spadByte k q = s.spadByte k q := by
  unfold State.spadByte
  rw [spad_spadWrite, tget_foldl_tset_placed, if_neg (by omega)]
  rfl

/-- An atomic on a scratchpad, once the thread's own writes there have been posted. -/
theorem rmwNow_spad (ag : Agent) (c o scope code : Nat) (w64 : Bool) (d e : Nat) :
    let n := if w64 then 8 else 4
    let u := s.postWhere fun b => b.warp == ag.warp && b.lane == ag.lane && b.helper == ag.helper &&
      b.loc.meets b.data.length (.spad c o) n
    s.rmwNow ag (.spad c o) scope code w64 d e = ({ old := u.spadBytes c o n, bad := false },
      u.spadWrite c o (leBytes n (atomNew code w64 (leNat (u.spadBytes c o n)) d e))) := by
  unfold State.rmwNow
  dsimp only
  rw [show ∀ (u : State) (n : Nat), (if code = 15 then u else u.kvRaceAt (.spad c o) n) = u from fun u n => ite_self _]

theorem scratchpadAtomics : ScratchpadAtomics := by
  intro s ag c o scope code w64 d e n u r ho
  have hr : r = _ := rmwNow_spad ag c o scope code w64 d e
  rw [hr]
  refine ⟨rfl, rfl, fun k hk => spadByte_spadWrite_same c o (by rwa [length_leBytes]), fun k q hq h => ?_⟩
  exact spadByte_spadWrite_other c o _ (by rwa [length_leBytes]) hq (by rwa [length_leBytes])

/-- Settles O21, by what each op makes of its operands, and by what a write to a scratchpad leaves. -/
theorem atomicOperationResults : Obligations.AtomicOperationResults := ⟨atomicResults, scratchpadAtomics⟩

end Sys2Proof.Laws
end

section
/-! PROOF of O56: the checks of an access. -/

namespace Sys2Proof.Laws

open Sys2Proof.Machine Sys2Proof.Claims

variable {s : State}

/-! ### Apertures (R151) -/

theorem steer_global {a : Nat} (h : a ≤ 0x01FF_FFFF_FFFF_FFFF) : steer a = .global a := if_pos h

theorem steer_unmapped {a : Nat} (h : 0x01FF_FFFF_FFFF_FFFF < a) (h' : a < 0xFC00_0000_0000_0000) : steer a = .none := by
  unfold steer
  rw [if_neg (by omega), if_neg (by omega), if_neg (by omega), if_neg (by omega)]

theorem steer_onchip {o : Nat} (h : o < 2 ^ 24) : steer (0xFC00_0000_0000_0000 + o) = .onchip 0 o := by
  unfold steer
  rw [if_neg (by omega), if_pos (by omega)]
  congr 1 <;> omega

theorem steer_stack {o : Nat} (h : o < 2 ^ 56) : steer (0xFD00_0000_0000_0000 + o) = .stack o := by
  unfold steer
  rw [if_neg (by omega), if_neg (by omega), if_pos (by omega)]
  congr 1
  omega

theorem steer_spad {o : Nat} (h : o < 2 ^ 56) : steer (0xFE00_0000_0000_0000 + o) = .spad o := by
  unfold steer
  rw [if_neg (by omega), if_neg (by omega), if_neg (by omega), if_pos (by omega)]
  congr 1
  omega

/-! ### The checks of one lane (R152) -/

/-- Check 2 for a thread: an on-chip address without the grant. -/
def grantError (t : Team) : Where → Option Nat
  | .onchip _ _ => if t.vals.grant then none else some 0
  | _ => none

/-- Check 3: misalignment. -/
def alignError (n a : Nat) : Option Nat := if a % n = 0 then none else some (n % 16 + at_ (log2Size n) 4)

/-- Check 4: a scratchpad offset beyond the team's bytes. -/
def spadError (t : Team) (n : Nat) : Where → Option Nat
  | .spad off => if off + n ≤ t.vals.spbytes then none else some t.vals.spbytes
  | _ => none

/-- Check 5: a store that is barred. -/
def barError (s : State) (w : Warp) (t : Team) (n l a : Nat) (store : Bool) : Option Nat :=
  if store && s.storeBarred w t n l a then some 0 else none

/-- The trap of one lane's access. -/
def laneTrap (l a cause info : Nat) : CheckTrap := { cause := cause, lanes := [l], addr := a, info := info }

/-- The lanes that fail a check, with its code at the first, as `accessTrap` finds them. -/
def failing (acc : List (Nat × Nat)) (p : Nat × Nat → Option Nat) : Option (List (Nat × Nat) × Nat) :=
  match acc.filter fun e => (p e).isSome with
  | [] => none
  | e :: r => some (e :: r, (p e).getD 0)

theorem failing_one (p : Nat × Nat → Option Nat) (e : Nat × Nat) : failing [e] p = (p e).map fun c => ([e], c) := by
  unfold failing
  cases h : p e <;> simp [h]

/-- The trap of a failed check, as `accessTrap` makes it. -/
def trapOf (cause : Nat) (r : List (Nat × Nat) × Nat) : CheckTrap :=
  { cause := cause, lanes := r.1.map (·.1), addr := ((r.1.head?).map (·.2)).getD 0, info := r.2 }

theorem check_last (p : Nat × Nat → Option Nat) (l a cause : Nat) :
    (failing [(l, a)] p).map (trapOf cause) = (p (l, a)).map (laneTrap l a cause) := by
  rw [failing_one, Option.map_map]
  rfl

/-- A check of one lane, with the checks after it. -/
theorem check_then (p : Nat × Nat → Option Nat) (l a cause : Nat) {y z : Option CheckTrap} (h : y = z) :
    (match failing [(l, a)] p with
      | some r => some (trapOf cause r)
      | none => y) = ((p (l, a)).map (laneTrap l a cause)).or z := by
  rw [failing_one, h]
  cases p (l, a) <;> rfl

/-- The checks of one thread's access, the first that fails giving the trap. -/
theorem accessTrap_one (w : Warp) (t : Team) (n l a : Nat) (store : Bool) :
    s.accessTrap w t false n store false [(l, a)] =
      ((apertureError t.vals.stkstride store n (steer a)).map (laneTrap l a 2)).or
      (((grantError t (steer a)).map (laneTrap l a 3)).or
      (((alignError n a).map (laneTrap l a 4)).or
      (((spadError t n (steer a)).map (laneTrap l a 5)).or
      ((barError s w t n l a store).map (laneTrap l a 0x13))))) := by
  unfold State.accessTrap
  simp only [Bool.or_false]
  exact check_then (fun e => apertureError t.vals.stkstride store n (steer e.2)) l a 2 <|
    check_then (fun e => grantError t (steer e.2)) l a 3 <|
    check_then (fun e => alignError n e.2) l a 4 <|
    check_then (fun e => spadError t n (steer e.2)) l a 5 <|
    check_last (fun e => barError s w t n e.1 e.2 store) l a 0x13

theorem alignError_none {n a : Nat} (h : a % n = 0) : alignError n a = none := if_pos h

theorem alignError_some {n a : Nat} (h : a % n ≠ 0) : alignError n a = some (n % 16 + at_ (log2Size n) 4) := if_neg h

theorem globalAddr_global {w : Warp} {l a : Nat} (ha : a ≤ 0x01FF_FFFF_FFFF_FFFF) : s.globalAddr w l a = some a := by
  unfold State.globalAddr
  rw [steer_global ha]

/-- A store to a page of KVP memory is barred. -/
theorem barError_kvp {w : Warp} {t : Team} {n l a va : Nat} (hva : s.globalAddr w l a = some va)
    (hkvp : s.kvpPage (.core w.core) t.ctx va = true) : barError s w t n l a true = some 0 := by
  unfold barError State.storeBarred
  rw [hva]
  simp [hkvp]

/-- A store to a read-only range of a deterministic team is barred. -/
theorem barError_readOnly {w : Warp} {t : Team} {n l a : Nat} {g : RangeEnt} (hg : g ∈ t.vals.ranges) (hkind : g.kind = 2)
    (hdet : t.vals.det = true) (hn : 0 < n) (hlo : g.base ≤ a) (hhi : a < g.base + g.size) (ha : a ≤ 0x01FF_FFFF_FFFF_FFFF) :
    barError s w t n l a true = some 0 := by
  have hin : inRanges t w a 1 false true = true :=
    List.any_eq_true.mpr ⟨g, hg, by simp [hkind, hlo]; omega⟩
  have hany : ((List.range n).any fun k => inRanges t w (a + k) 1 false true) = true :=
    List.any_eq_true.mpr ⟨0, List.mem_range.mpr hn, hin⟩
  unfold barError State.storeBarred
  rw [steer_global ha]
  simp only [hdet, hany, Bool.and_true, Bool.or_true, if_true]

theorem barError_load (w : Warp) (t : Team) (n l a : Nat) : barError s w t n l a false = none := rfl

/-! ### Sizes of accesses (R45) -/

theorem size_pos {n : Nat} (hn : n ∈ [1, 2, 4, 8, 16]) : 0 < n := by
  revert n
  decide

theorem size_dvd {n : Nat} (hn : n ∈ [1, 2, 4, 8, 16]) : n ∣ 16 := by
  revert n
  decide

/-- The start of an aperture is aligned for every access. -/
theorem aligned_add {n o base : Nat} (hn : n ∈ [1, 2, 4, 8, 16]) (ho : o % n = 0) (hbase : base % 16 = 0) :
    (base + o) % n = 0 := by
  exact Nat.mod_eq_zero_of_dvd (((size_dvd hn).trans (Nat.dvd_of_mod_eq_zero hbase)).add (Nat.dvd_of_mod_eq_zero ho))

/-! ### Groups that fault -/

/-- Where the driver has given up no page, a group that faults waits. -/
theorem groupFaults_unfailed {w : Warp} (h : w.failed = []) (f : PageFault) (fs : List PageFault) :
    s.groupFaults w (f :: fs) = s.modIss fun i => { i with faults := i.faults ++ f :: fs, stalled := true } := by
  have hnone : (f :: fs).filter (fun f => (w.failedPage f).isSome) = [] :=
    List.filter_eq_nil_iff.mpr fun g _ => by simp [Warp.failedPage, h]
  unfold State.groupFaults
  rw [hnone]

/-- Settles O56, by the checks of one lane in their order, and by what an access does with their outcome. -/
theorem accessChecks : Obligations.AccessChecks := by
  refine ⟨fun s w t n l a store hn => ?_, fun s i n a acc k w t hw ht => ⟨fun c hc => ?_, fun accs s1 hr => ?_, ?_⟩⟩
  · rw [accessTrap_one w t n l a store]
    dsimp only
    refine ⟨fun hlo hhi => ?_, fun o ho hlt hgrant => ?_, fun ha hmis => ?_, fun o ho hlt hal hover => ?_,
      fun ha hal hst hkvp => ?_, fun o ho hstride hmax hal hst hres hkvp => ?_,
      fun g hg hkind hdet hst hal hlo hhi ha => ?_, fun ha hal hst => ?_⟩
    · rw [steer_unmapped hlo hhi]
      rfl
    · subst ho
      have hspad : onChipAt 0 o = .spad o := if_pos (by omega)
      rw [steer_onchip (by omega)]
      simp [apertureError, grantError, hspad, hgrant, laneTrap]
    · rw [steer_global ha, alignError_some hmis]
      simp [apertureError, grantError, laneTrap, at_]
    · subst ho
      rw [steer_spad hlt, alignError_none (aligned_add hn hal (by decide))]
      simp [apertureError, grantError, spadError, laneTrap, Nat.not_le.mpr hover]
    · subst hst
      rw [steer_global ha, alignError_none hal, barError_kvp (globalAddr_global ha) hkvp]
      rfl
    · subst ho hst
      have hsteer : steer (0xFD00_0000_0000_0000 + o) = .stack o := steer_stack (by omega)
      have hva : s.globalAddr w l (0xFD00_0000_0000_0000 + o) = some ((s.stackBase w l + o) % 2 ^ 64) := by
        unfold State.globalAddr
        rw [hsteer]
      have hplace : apertureError t.vals.stkstride true n (.stack o) = none := if_neg (by omega)
      rw [hsteer, hplace, alignError_none (aligned_add hn hal (by decide)), barError_kvp hva hkvp]
      rfl
    · subst hst
      rw [steer_global ha, alignError_none hal, barError_readOnly hg hkind hdet (size_pos hn) hlo hhi ha]
      rfl
    · subst hst
      rw [steer_global ha, alignError_none hal]
      rfl
  · unfold State.access
    rw [hw, ht]
    dsimp only
    rw [hc]
  · exact access_reaches hw ht hr k
  · intro x f fs b s1 htrap hloc hfailed
    unfold State.access
    rw [hw, ht]
    dsimp only
    rw [htrap]
    dsimp only
    rw [hloc]
    exact groupFaults_unfailed hfailed f fs

end Sys2Proof.Laws
end

section
/-! PROOF of O27: traps of software, and returns from a handler. -/

namespace Sys2Proof.Laws

open Sys2Proof.Machine Sys2Proof.Claims

variable {s : State}

/-! ### Software traps -/

/-- A trap of a group of threads is taken in its bundle. -/
theorem raiseRec_thread {i : Issue} (hi : s.iss = some i) (hk : i.kind = .thread) (r : TrapRec) :
    s.raiseRec r = (s.modIss fun i => { i with trap := some r }).takeTrap i.warp i.lanes r := by
  unfold State.raiseRec
  rw [hi]
  dsimp only
  rw [hk]

theorem softwareTraps : SoftwareTraps := by
  refine ⟨fun s i w t f h hls => ?trap, fun s i w t f h hls => ?brkpt, fun s i w t f h hls => ?trapNone,
    fun s i w t f h hls => ?brkptNone⟩
  case trap =>
    obtain ⟨l, r, hlr⟩ := List.exists_cons_of_ne_nil hls
    refine ⟨{ cause := 0x0B, pc := 12 * (i.p + 1), mask := l :: r, addr := 0, info := f.code.setWidth 32, uerec := none },
      rfl, rfl, hlr.symm, rfl, rfl, rfl, ?_⟩
    show execTrap f s = _
    unfold execTrap
    rw [ctrl_thread h (.inl rfl), hlr]
    exact congrArg Host.Outcome.next (raiseRec_thread h.issuing h.threads _)
  case brkpt =>
    obtain ⟨l, r, hlr⟩ := List.exists_cons_of_ne_nil hls
    show execBrkpt f s = _
    unfold execBrkpt
    rw [ctrl_thread h (.inl rfl), hlr]
  case trapNone =>
    show execTrap f s = _
    unfold execTrap
    rw [ctrl_thread h (.inl rfl), hls]
  case brkptNone =>
    show execBrkpt f s = _
    unfold execBrkpt
    rw [ctrl_thread h (.inl rfl), hls]

/-! ### Threads of a warp changed one after the other -/

/-- Changing threads changes nothing else of their warp. -/
theorem foldl_modThread_eq (ls : List Nat) (f : Thread → Thread) (w : Warp) :
    ls.foldl (fun x l => x.modThread l f) w = { w with threads := ls.foldl (fun ts l => ts.modify l f) w.threads } := by
  induction ls generalizing w with
  | nil => rfl
  | cons l ls ih => exact ih (w.modThread l f)

theorem getElem?_foldl_modify_other {α : Type} {ls : List Nat} {l : Nat} (h : l ∉ ls) (f : α → α) (ts : List α) :
    (ls.foldl (fun ts l => ts.modify l f) ts)[l]? = ts[l]? := by
  induction ls generalizing ts with
  | nil => rfl
  | cons k ls ih =>
    obtain ⟨hk, hls⟩ := List.ne_and_not_mem_of_not_mem_cons h
    rw [List.foldl_cons, ih hls, List.getElem?_modify_ne _ _ hk.symm]

theorem getElem?_foldl_modify_mem {α : Type} {ls : List Nat} (nd : ls.Nodup) {l : Nat} (h : l ∈ ls) (f : α → α)
    (ts : List α) : (ls.foldl (fun ts l => ts.modify l f) ts)[l]? = (ts[l]?).map f := by
  induction ls generalizing ts with
  | nil => cases h
  | cons k ls ih =>
    obtain ⟨hk, hnd⟩ := List.nodup_cons.mp nd
    rw [List.foldl_cons]
    rcases List.mem_cons.mp h with rfl | h
    · rw [getElem?_foldl_modify_other hk, List.getElem?_modify_eq]
      rfl
    · rw [ih hnd h, List.getElem?_modify_ne _ _ (ne_of_mem_of_not_mem h hk).symm]

/-- A warp with threads changed. -/
def withThreads (w : Warp) (ls : List Nat) (f : Thread → Thread) : Warp :=
  { w with threads := ls.foldl (fun ts l => ts.modify l f) w.threads }

theorem thread_withThreads {w : Warp} {ls : List Nat} (nd : ls.Nodup) {l : Nat} (h : l ∈ ls) (f : Thread → Thread) :
    (withThreads w ls f).threads[l]? = (w.threads[l]?).map f := getElem?_foldl_modify_mem nd h f w.threads

theorem thread_withThreads_other {w : Warp} {ls : List Nat} {l : Nat} (h : l ∉ ls) (f : Thread → Thread) :
    (withThreads w ls f).threads[l]? = w.threads[l]? := getElem?_foldl_modify_other h f w.threads

theorem warp_modThreads {wk : Nat} {w : Warp} (hw : s.warp wk = some w) (ls : List Nat) (f : Thread → Thread) :
    (s.modThreads wk ls f).warp wk = some (withThreads w ls f) := by
  unfold State.modThreads
  rw [warp_modWarp, if_pos rfl, hw]
  exact congrArg some (foldl_modThread_eq ls f w)

theorem mem_lanesWhere {w : Warp} {p : Thread → Bool} {l : Nat} :
    l ∈ w.lanesWhere p ↔ ∃ th, w.threads[l]? = some th ∧ p th = true := by
  unfold Warp.lanesWhere
  rw [List.mem_filter]
  constructor
  · rintro ⟨-, h⟩
    cases hl : w.threads[l]? with
    | none => simp [hl] at h
    | some th => exact ⟨th, rfl, by simpa [hl] using h⟩
  · rintro ⟨th, hl, hp⟩
    exact ⟨mem_lanes hl, by simp [hl, hp]⟩

theorem nodup_lanesWhere (w : Warp) (p : Thread → Bool) : (w.lanesWhere p).Nodup := List.nodup_range.filter _

/-! ### TRAPRET -/

/-- The handler threads of a warp that have not ended. -/
def handlers (w : Warp) : List Nat := w.lanesWhere fun t => t.handling && t.live

theorem nodup_handlers (w : Warp) : (handlers w).Nodup := nodup_lanesWhere ..

/-- A thread as it waits for the others of its handler. -/
def returned (t : Thread) : Thread := { t with st := .blocked .trapret }

/-- A handler thread as the return makes it. -/
def resumed (pc : Nat) (t : Thread) : Thread := { t with st := .runnable, pc := pc, seta := t.ssa, setb := t.ssb }

/-- The return waits for a handler thread that has not issued TRAPRET. -/
theorem trapCheck_waits {wk l pc : Nat} {w : Warp} {th : Thread} (hw : s.warp wk = some w) (hl : w.threads[l]? = some th)
    (hh : th.handling = true) (hlive : th.live = true) (hst : th.st ≠ .blocked .trapret) : s.trapCheck wk pc = s := by
  have hin : l ∈ handlers w := mem_lanesWhere.mpr ⟨th, hl, by simp [hh, hlive]⟩
  unfold State.trapCheck
  rw [hw]
  refine if_neg fun ⟨_, hall⟩ => hst ?_
  simpa [hl] using List.all_eq_true.mp hall l hin

/-- The return completes when every handler thread has issued TRAPRET. -/
theorem trapCheck_completes {wk pc : Nat} {w : Warp} (hw : s.warp wk = some w) (htrap : w.trap = .handling)
    (hall : ∀ l ∈ handlers w, ∃ th, w.threads[l]? = some th ∧ th.st = .blocked .trapret) :
    s.trapCheck wk pc = (s.trapReturn wk pc).arrive wk (handlers w) := by
  unfold State.trapCheck
  rw [hw]
  refine if_pos ⟨htrap, List.all_eq_true.mpr fun l hl => ?_⟩
  obtain ⟨th, hth, hst⟩ := hall l hl
  simp [hth, hst]

/-- A warp after the return from its handler, with no destination left without data. -/
def afterReturn (w : Warp) (pc : Nat) : Warp :=
  { withThreads w (handlers w) (resumed pc) with
    trap := .idle, uerpl := [], uedests := []
    threads := (withThreads w (handlers w) (resumed pc)).threads.map fun t => { t with handling := false } }

theorem warp_trapReturn {wk pc : Nat} {w : Warp} (hw : s.warp wk = some w) (hue : w.uedests = []) :
    (s.trapReturn wk pc).warp wk = some (afterReturn w pc) := by
  unfold State.trapReturn
  rw [hw]
  dsimp only
  rw [hue, List.flatMap_nil, List.foldl_nil, warp_modWarp, if_pos rfl, hw, Option.map_some, foldl_modThread_eq]
  rfl

/-- A handler thread of a warp that has returned. -/
theorem thread_afterReturn {w : Warp} {l : Nat} {th : Thread} (hl : l ∈ handlers w) (hth : w.threads[l]? = some th)
    (pc : Nat) : (afterReturn w pc).threads[l]? = some { resumed pc th with handling := false } := by
  have hres : (withThreads w (handlers w) (resumed pc)).threads[l]? = some (resumed pc th) := by
    rw [thread_withThreads (nodup_handlers w) hl, hth]
    rfl
  rw [afterReturn, List.getElem?_map, hres]
  rfl

theorem teamOf_trapReturn {wk pc : Nat} {w : Warp} {t : Team} (hw : s.warp wk = some w) (hue : w.uedests = [])
    (ht : s.teamOf wk = some t) : (s.trapReturn wk pc).teamOf wk = some t := by
  have hteams : (s.trapReturn wk pc).teams = s.teams := by
    unfold State.trapReturn
    rw [hw]
    dsimp only
    rw [hue]
    rfl
  unfold State.teamOf at ht ⊢
  rw [hw] at ht
  rw [warp_trapReturn hw hue]
  exact (congrArg (tget · w.team) hteams).trans ht

theorem trapPc_eq {i : Issue} {v : Warp} (hv : s.rdWarp i = some v) : s.trapPc i = v.trappc.toNat := by
  unfold State.trapPc
  rw [hv]
  rfl

/-- Threads that arrive at a packet: their warp is otherwise as it was. -/
theorem warp_arrive {wk : Nat} {w : Warp} {t : Team} (hw : s.warp wk = some w) (ht : s.teamOf wk = some t) (ls : List Nat) :
    (s.arrive wk ls).warp wk = some (withThreads w ls fun th => th.arrived (s.clauseLook wk t (th.pc / 12))) := by
  unfold State.arrive
  rw [ht]
  exact warp_modThreads hw ls _

theorem execTrapret_ready {i : Issue} {w : Warp} {t : Team} (h : s.ReadyC i w t) : exec .trapret s = .next
    (if w.trap ≠ .handling then s.illegal 0x23 i.lanes
    else (s.modThreads i.warp i.lanes returned).trapCheck i.warp (s.trapPc i)) := by
  show execTrapret s = _
  unfold execTrapret
  rw [ctrl_thread h (.inl rfl)]
  rfl

/-- A runnable thread that arrives runs or parks, and keeps all else that a return sets. -/
theorem arrived_of_runnable {th : Thread} (h : th.st = .runnable) (look : Option Bool) :
    (th.arrived look).pc = th.pc ∧ (th.arrived look).handling = th.handling ∧ (th.arrived look).seta = th.seta ∧
      (th.arrived look).setb = th.setb ∧ ((th.arrived look).st = .runnable ∨ (th.arrived look).st = .parked) := by
  rw [arrived_runnable h]
  split_ifs
  · exact ⟨rfl, rfl, rfl, rfl, .inl h⟩
  · exact ⟨rfl, rfl, rfl, rfl, .inr rfl⟩
  · exact ⟨rfl, rfl, rfl, rfl, .inl h⟩

section
variable {w : Warp} {ls : List Nat} (nd : ls.Nodup)
  (hall : ∀ l th, w.threads[l]? = some th → (l ∈ ls ↔ th.handling = true ∧ th.live = true))
include nd hall

/-- When all of a handler's threads issue TRAPRET at once, they are its threads afterwards. -/
theorem mem_handlers_returned {l : Nat} :
    l ∈ handlers (withThreads w ls returned) ↔ l ∈ ls ∧ (w.threads[l]?).isSome = true := by
  rw [handlers, mem_lanesWhere]
  by_cases hl : l ∈ ls
  · rw [thread_withThreads nd hl]
    cases hth : w.threads[l]? with
    | none => simp
    | some th =>
      have hhand := ((hall l th hth).mp hl).1
      simp [hl, returned, hhand, Thread.live]
  · rw [thread_withThreads_other hl]
    constructor
    · rintro ⟨th, hth, hp⟩
      exact absurd ((hall l th hth).mpr (by simpa using hp)) hl
    · exact fun hc => absurd hc.1 hl

theorem handlers_returned_wait : ∀ l ∈ handlers (withThreads w ls returned),
    ∃ th, (withThreads w ls returned).threads[l]? = some th ∧ th.st = .blocked .trapret := by
  intro l hl
  obtain ⟨hl, hsome⟩ := (mem_handlers_returned nd hall).mp hl
  obtain ⟨th, hth⟩ := Option.isSome_iff_exists.mp hsome
  exact ⟨returned th, by rw [thread_withThreads nd hl, hth]; rfl, rfl⟩

end

/-- A handler whose threads have all issued TRAPRET is over, and each of them arrives at the packet it resumes at. -/
theorem trapCheck_resumes {wk pc : Nat} {w : Warp} {t : Team} (hw : s.warp wk = some w) (ht : s.teamOf wk = some t)
    (htrap : w.trap = .handling) (hue : w.uedests = [])
    (hall : ∀ l ∈ handlers w, ∃ th, w.threads[l]? = some th ∧ th.st = .blocked .trapret) :
    ((s.trapCheck wk pc).warp wk).map (·.trap) = some .idle ∧ ∀ l ∈ handlers w, ∀ th, w.threads[l]? = some th →
      ∃ look, (s.trapCheck wk pc).thread wk l = some (({ resumed pc th with handling := false } : Thread).arrived look) := by
  have hw' := warp_arrive (warp_trapReturn (pc := pc) hw hue) (teamOf_trapReturn hw hue ht) (handlers w)
  rw [trapCheck_completes hw htrap hall]
  refine ⟨by rw [hw']; rfl, fun l hl th hth => ?_⟩
  rw [State.thread, hw', Option.bind_some, thread_withThreads (nodup_handlers w) hl, thread_afterReturn hl hth]
  exact ⟨_, rfl⟩

theorem trapReturns : TrapReturns := by
  intro s i w v t h hv
  rw [execTrapret_ready h]
  refine ⟨fun hno => by rw [if_pos hno], fun hyes hwaits => ?_, fun hyes nd hue hall => ?_⟩
  · obtain ⟨l, th, hl, hh, hlive, hnot, hst⟩ := hwaits
    have hl' : (withThreads w i.lanes returned).threads[l]? = some th := (thread_withThreads_other hnot _).trans hl
    rw [if_neg (not_not.mpr hyes), trapCheck_waits (warp_modThreads h.warp ..) hl' hh hlive hst]
    rfl
  · have hw := warp_modThreads h.warp i.lanes returned
    have ht := (teamOf_modThreads (s := s) i.warp i.warp i.lanes returned).trans h.team
    obtain ⟨hidle, hthreads⟩ := trapCheck_resumes (pc := v.trappc.toNat) hw ht hyes hue (handlers_returned_wait nd hall)
    rw [if_neg (not_not.mpr hyes), trapPc_eq hv]
    refine ⟨_, rfl, hidle, fun l th hth hl => ?_⟩
    obtain ⟨look, hlook⟩ := hthreads l ((mem_handlers_returned nd hall).mpr ⟨hl, by rw [hth]; rfl⟩) (returned th)
      (by rw [thread_withThreads nd hl, hth]; rfl)
    exact ⟨_, hlook, arrived_of_runnable (th := { resumed v.trappc.toNat (returned th) with handling := false }) rfl look⟩

/-- Settles O27, by running each word past its checks, and by what the return makes of each handler thread. -/
theorem softwareTrapsAndTrapReturn : Obligations.SoftwareTrapsAndTrapReturn := ⟨softwareTraps, trapReturns⟩

end Sys2Proof.Laws
end

section
/-! PROOF of O26: taking a trap, and the start of a handler. -/

namespace Sys2Proof.Laws

open Sys2Proof.Machine Sys2Proof.Claims

variable {s : State}

/-! ### Taking a trap -/

theorem tmod_const {α : Type} {t : Tab α} {k : Nat} {v : α} (h : tget t k = some v) (f : α → α) :
    tmod t k f = tmod t k fun _ => f v := by
  induction t with
  | nil => rfl
  | cons e t ih =>
    obtain ⟨j, x⟩ := e
    unfold tget at h
    unfold tmod
    split at h
    · next hj => rw [if_pos hj, if_pos hj, Option.some.inj h]
    · next hj => rw [if_neg hj, if_neg hj, ih h]

theorem modWarp_const {wk : Nat} {w : Warp} (hw : s.warp wk = some w) (f : Warp → Warp) :
    s.modWarp wk f = s.modWarp wk fun _ => f w := by
  unfold State.modWarp
  rw [tmod_const hw f]

/-- A warp whose special registers have taken a trap and that waits to enter its handler. -/
def trapped (bundle : List Nat) (r : TrapRec) (w : Warp) : Warp := { w with
  trapcause := BitVec.ofNat 32 r.cause
  trappc := BitVec.ofNat 32 r.pc
  trapaddr := BitVec.ofNat 64 r.addr
  trapinfo := r.info
  uerec := r.uerec.getD w.uerec
  trap := .entering bundle
  threads := w.threads.mapIdx fun l t => { t with marked := r.mask.contains l } }

/-- What taking a trap does, by the handler that runs, the fault policy and the handler's packet. -/
theorem takeTrap_eq {wk : Nat} {w : Warp} {t : Team} (hw : s.warp wk = some w) (ht : s.teamOf wk = some t)
    (bundle : List Nat) (r : TrapRec) : s.takeTrap wk bundle r =
      if w.trap = .handling then s.warpStops wk 1 r.pc
      else if t.vals.fpol = 1 then
        let u := s.killLanes wk r
        let rest := bundle.filter fun l => !r.mask.contains l
        if r.cause = 0x0B then (u.modThreads wk rest fun x => { x with pc := r.pc, wait := 0 }).arrive wk rest else u
      else if t.vals.fpol = 2 ∨ s.clauseLook wk t t.vals.hpc = some false then s.warpStops wk 3 r.pc
      else (s.modWarp wk (trapped bundle r)).pend (.handlerStart wk) := by
  unfold State.takeTrap
  rw [hw, ht]
  rfl

theorem trapsAreTaken : TrapsAreTaken := by
  intro s wk bundle r w t hw ht htrap hfpol hlook
  refine ⟨trapped bundle r w, ?_, rfl, rfl, rfl, rfl, rfl, rfl, fun l th hl => ?_, rfl, rfl, rfl⟩
  · have hpol : ¬(t.vals.fpol = 2 ∨ s.clauseLook wk t t.vals.hpc = some false) := by
      rintro (h | h)
      · omega
      · exact hlook h
    rw [takeTrap_eq hw ht, if_neg htrap, if_neg (by omega), if_neg hpol, modWarp_const hw]
    rfl
  · rw [trapped, List.getElem?_mapIdx, hl]
    rfl

theorem trapsWithoutHandler : TrapsWithoutHandler := by
  intro s wk bundle r w t hw ht
  refine ⟨fun htrap => ?_, fun htrap hfpol hcause => ?_, fun htrap hfpol hcause => ?_, fun htrap hfpol hstop => ?_⟩
  · rw [takeTrap_eq hw ht, if_pos htrap]
  · rw [takeTrap_eq hw ht, if_neg htrap, if_pos hfpol]
    exact if_neg hcause
  · intro rest
    rw [takeTrap_eq hw ht, if_neg htrap, if_pos hfpol]
    exact if_pos hcause
  · rw [takeTrap_eq hw ht, if_neg htrap, if_neg hfpol, if_pos hstop]

/-! ### HANDLER_START -/

theorem thread_withThreads_ite {w : Warp} {ls : List Nat} (nd : ls.Nodup) (f : Thread → Thread) (l : Nat) :
    (withThreads w ls f).threads[l]? = (w.threads[l]?).map fun x => if l ∈ ls then f x else x := by
  by_cases h : l ∈ ls
  · simp only [if_pos h]
    exact thread_withThreads nd h f
  · simp only [if_neg h, Option.map_id']
    exact thread_withThreads_other h f

/-- Does the deferred error of a lane join the delivery to the bundle `b`? -/
def joinsDelivery (w : Warp) (b : List Nat) (l : Nat) : Bool :=
  w.trapcause == 7 && b.contains l && w.deferred.any fun d => d.cause == 7 && d.lanes.contains l

/-- A warp before its handler begins: for an uncorrectable error, with the errors that join it. -/
def joined (w : Warp) (b : List Nat) : Warp := if w.trapcause = 7 then w.joinErrors b else w

theorem thread_joined (w : Warp) (b : List Nat) (l : Nat) : (joined w b).threads[l]? =
    (w.threads[l]?).map fun x => if joinsDelivery w b l then { x with marked := true } else x := by
  unfold joined joinsDelivery
  split
  · next h =>
    have hany : (w.deferred.any fun d => d.lanes.contains l && (d.cause == 7 && b.contains l)) =
        (b.contains l && w.deferred.any fun d => d.cause == 7 && d.lanes.contains l) := by
      cases b.contains l
      · simp
      · simp [Bool.and_comm]
    rw [Warp.joinErrors, List.getElem?_mapIdx, hany, h]
    rfl
  · next h =>
    rw [beq_eq_false_iff_ne.mpr h]
    simp

/-- A thread as it enters the handler at packet `hpc`, in the bundle named by `m`. -/
def entered (hpc m : Nat) (x : Thread) : Thread := { x with
  st := .runnable, pc := 12 * hpc, handling := true, bundle := m, ssa := x.seta, ssb := x.setb, wait := 0, due := false }

/-- A warp whose threads `ls` have entered the handler. -/
def handlerWarp (hpc m : Nat) (b ls : List Nat) (v : Warp) : Warp :=
  { withThreads (joined v b) ls (entered hpc m) with trap := .handling, uerpl := [] }

/-- HANDLER_START with no older access of the warp to await. -/
theorem execHandlerStart_enters {wk m : Nat} {w v : Warp} {t : Team} {b : List Nat} (hw : s.warp wk = some w)
    (ht : s.teamOf wk = some t) (htrap : w.trap = .entering b) (hv : (s.postWarp wk).warp wk = some v)
    (hops : ∀ o ∈ (s.postWarp wk).ops, o.warp = wk → o.helper = none →
      o.kind ≠ .load ∧ o.kind ≠ .store ∧ o.kind ≠ .atomic ∧ o.kind ≠ .ret)
    (hm : minNat? (b.filter fun l => ((w.threads[l]?).map Thread.live).getD false) = some m) :
    exec (.handlerStart wk) s = .next ((s.postWarp wk).modWarp wk fun _ =>
      handlerWarp t.vals.hpc m b (b.filter fun l => ((w.threads[l]?).map Thread.live).getD false) v) := by
  have holder : ((s.postWarp wk).ops.any fun o => o.warp == wk && o.helper.isNone &&
      (o.kind == .load || o.kind == .store || o.kind == .atomic || o.kind == .ret)) = false := by
    refine List.any_eq_false.mpr fun o ho => ?_
    simp only [Bool.and_eq_true, Bool.or_eq_true, beq_iff_eq, Option.isNone_iff_eq_none]
    rintro ⟨⟨howner, hhelper⟩, hkind⟩
    obtain ⟨hload, hstore, hatomic, hret⟩ := hops o ho howner hhelper
    rcases hkind with ((h | h) | h) | h
    · exact hload h
    · exact hstore h
    · exact hatomic h
    · exact hret h
  show execHandlerStart wk s = _
  unfold execHandlerStart
  rw [hw, ht]
  dsimp only
  rw [htrap]
  dsimp only
  rw [holder, if_neg Bool.false_ne_true, hm]
  dsimp only
  rw [modWarp_const hv]
  simp only [foldl_modThread_eq]
  rfl

theorem handlersStart : HandlersStart := by
  intro s wk w v t b m hw ht htrap nd hv hops ls joins hm
  refine ⟨_, execHandlerStart_enters hw ht htrap hv hops hm, rfl, fun l => ?_⟩
  refine (thread_withThreads_ite (nd.filter _) _ l).trans ?_
  rw [thread_joined, Option.map_map]
  rfl

/-- Settles O26, by the cases of taking a trap, and thread by thread for the start of a handler. -/
theorem trapsAreDelivered : Obligations.TrapsAreDelivered := ⟨trapsAreTaken, trapsWithoutHandler, handlersStart⟩

end Sys2Proof.Laws
end

section
/-! PROOF of O24: waits, the words on caches, and their completions. -/

namespace Sys2Proof.Laws

open Sys2Proof.Machine Sys2Proof.Claims

variable {s : State} {i : Issue} {w : Warp} {t : Team}

/-! ### Words that act once for a bundle -/

theorem rdWarp_unchained (hv : i.view = none) : s.rdWarp i = s.warp i.warp := by
  unfold State.rdWarp
  rw [hv]

theorem onControl_once (h : s.ReadyOnce i w t) : s.onControl i = false := by
  unfold State.onControl
  rw [rdWarp_unchained h.view, h.warp]
  simp [h.normal]

theorem once_ready (h : s.ReadyOnce i w t) (ccOk : Bool) (k : Issue → State → State) : s.once ccOk k = k i s := by
  simp [State.once, h.issuing, h.threads, onControl_once h, h.acts]

theorem before_unchained (hv : i.view = none) (id : Nat) : i.before id = true := by
  unfold Issue.before
  rw [hv]

/-- A word that names no destination is not held by a recruitment. -/
theorem recruitHeld_nil (ls : List Nat) : s.recruitHeld i ls [] = false := by
  simp [State.recruitHeld]

/-! ### OPFENCE and WAITF -/

theorem execOpfence_ready (h : s.ReadyOnce i w t) : exec .opfence s = .next
    (if s.ops.any fun o => o.warp == i.warp && !o.vdests.isEmpty then s.stall else (s.spadPost i.warp).unfence i.warp) := by
  show execOpfence s = _
  unfold execOpfence
  rw [once_ready h]
  simp only [before_unchained h.view, Bool.and_true]
  rfl

/-- The flags of a mask as a bundle reads them. -/
theorem flagsRead_thread (hk : i.kind = .thread) (hw : s.rdWarp i = some w) (mask : BitVec 12) :
    s.flagsRead i mask = true ↔ ∀ f < 12, mask.getLsbD f = true → w.flags.getD f 0 = 0 := by
  unfold State.flagsRead
  rw [hw]
  dsimp only
  rw [hk]
  simp only [List.all_eq_true, List.mem_range, Bool.or_eq_true, Bool.not_eq_true', beq_iff_eq, ← Bool.not_eq_true,
    ← imp_iff_not_or]

theorem execWaitf_thread (hi : s.iss = some i) (hk : i.kind = .thread) (ha : s.bundleActs i = true) (mask : BitVec 12) :
    exec (.waitf mask) s = .next (if s.flagsRead i mask then s.regsAcquired i.warp else s.stall) := by
  show execWaitf mask s = _
  cases hf : s.flagsRead i mask <;> simp [execWaitf, hi, ha, hk, hf]

theorem operationWaits : OperationWaits := by
  constructor
  · intro s i w t h
    rw [execOpfence_ready h]
    refine ⟨fun hno => ?_, fun ⟨o, ho, hown, hdests⟩ => ?_⟩
    · rw [if_neg]
      simpa using hno
    · rw [if_pos]
      exact List.any_eq_true.mpr ⟨o, ho, by simp [hown, hdests]⟩
  · intro s i w mask hi hk ha hw
    rw [execWaitf_thread hi hk ha]
    refine ⟨fun hclear => ?_, fun ⟨f, hf, hmask, hset⟩ => ?_⟩
    · rw [if_pos ((flagsRead_thread hk hw mask).mpr hclear)]
    · rw [if_neg]
      exact fun hread => hset ((flagsRead_thread hk hw mask).mp hread f hf hmask)

/-! ### The words on caches -/

/-- An operation of a bundle starts when its flag has room. -/
theorem onceOp_room {fsel : BitVec 1} (h : s.flagRoom i.warp none (s.flagOf i (some fsel)) = true) (kind : OpKind)
    (ev : Nat → Instr) : s.onceOp i fsel kind ev = s.started (onceOpOf i (s.flagOf i (some fsel)) kind) ev := by
  unfold State.onceOp
  dsimp only
  rw [h]
  rfl

/-- The address pair of a lane, as one word. -/
theorem rdAddr_append (hc : s.onControl i = false) (l a : Nat) : s.rdAddr i l a = (s.rdV i l (a + 1) ++ s.rdV i l a).toNat := by
  unfold State.rdAddr
  rw [rdD_vector hc, rdD_vector hc]

/-- A word that acts once, off the control core, and reads vectors that its lanes may name. -/
theorem withMem_once {srcs : List Nat} (h : s.ReadyOnce i w t) (hr : s.Ready i srcs []) (ccOk : Bool)
    (k : Issue → State → State) : s.withMem srcs [] ccOk k (who := State.onceLanes) = k i s := by
  simp [State.withMem, State.withRegs, h.issuing, onControl_once h, hr.named, recruitHeld_nil]

theorem withThread_once {srcs : List Nat} (h : s.ReadyOnce i w t) (hr : s.Ready i srcs []) (k : Issue → State → State) :
    s.withThread srcs [] k (who := State.onceLanes) = k i s := by
  simp [State.withThread, h.issuing, h.threads, hr.named, recruitHeld_nil]

/-- The 128-byte lines of `n` bytes from `a`. -/
def linesOf (a n : Nat) : List Nat :=
  if n = 0 then [] else (List.range ((a + n - 1) / 128 - a / 128 + 1)).map fun k => (a / 128 + k) * 128

theorem apertureCode_global {a : Nat} (h : a ≤ 0x01FF_FFFF_FFFF_FFFF) : apertureCode a = 0 := by
  unfold apertureCode
  rw [steer_global h]

/-- CINV or CWB of a range of global addresses. -/
theorem cacheOp_starts (h : s.ReadyOnce i w t) {f : FmtIc} (hr : s.Ready i [f.x.toNat, f.x.toNat + 1] [])
    (hroom : s.flagRoom i.warp none (s.flagOf i (some f.fsel)) = true) {a n : Nat}
    (ha : (s.rdV i i.lowest (f.x.toNat + 1) ++ s.rdV i i.lowest f.x.toNat).toNat = a) (hn : (s.rdS i f.y.toNat).toNat = n)
    (hrange : n = 0 ∨ a + n ≤ 0x0200_0000_0000_0000) (inv : Bool) :
    s.cacheOp f inv = s.started (onceOpOf i (s.flagOf i (some f.fsel)) (.cache inv (f.level == 1) (linesOf a n)))
      fun id => .cacheOpDone id := by
  have hstart : ¬(n ≠ 0 ∧ apertureCode a ≠ 0) := fun ⟨hn0, hcode⟩ => hcode (apertureCode_global (by omega))
  have hend : ¬(n ≠ 0 ∧ 0x01FF_FFFF_FFFF_FFFF < a + n - 1) := by omega
  unfold State.cacheOp
  rw [h.issuing]
  dsimp only
  rw [withMem_once h hr, h.threads, if_neg (by decide), h.acts, rdAddr_append (onControl_once h), ha, hn, if_neg (by decide), if_neg hstart,
    if_neg hend]
  exact onceOp_room hroom _ _

theorem cacheOperations : CacheOperations := by
  intro s i w t h
  refine ⟨?tlrflush, ?ipref, ?range⟩
  case tlrflush =>
    intro x fsel hr hroom
    show execTlrflush x fsel s = _
    unfold execTlrflush
    rw [withThread_once h hr, if_pos h.acts, rdAddr_append (onControl_once h), onceOp_room hroom]
  case ipref =>
    intro f hroom
    show execIpref f s = _
    unfold execIpref
    rw [once_ready h, onceOp_room hroom]
  case range =>
    intro f hr hroom a n lines hrange
    have hstarts (inv : Bool) := cacheOp_starts h hr hroom (a := a) (n := n) rfl rfl hrange inv
    exact ⟨congrArg Host.Outcome.next (hstarts true), congrArg Host.Outcome.next (hstarts false)⟩

/-! ### Pinned fetch blocks -/

theorem mem_blockRange {t : Team} {first n b : Nat} :
    b ∈ blockRange t first n ↔ first ≤ b ∧ b < first + n ∧ b < (t.vals.codelen + 31) / 32 := by
  unfold blockRange
  rw [List.mem_map]
  constructor
  · rintro ⟨k, hk, rfl⟩
    rw [List.mem_range] at hk
    omega
  · rintro ⟨hlo, hhi, hend⟩
    exact ⟨b - first, List.mem_range.mpr (by omega), by omega⟩

theorem length_blockRange (t : Team) (first n : Nat) : (blockRange t first n).length ≤ n := by
  rw [blockRange, List.length_map, List.length_range]
  exact Nat.min_le_left ..

/-- A scheduler that has pinned the blocks `bs` of a team, as many as its 64 places take. -/
def pinned (tm : Nat) (bs : List Nat) (g : Sched) : Sched :=
  { g with pins := (g.pins ++ (bs.filter fun b => !g.pins.contains (tm, b)).map fun b => (tm, b)).take 64 }

/-- A scheduler that has let the blocks `bs` of a team go. -/
def unpinned (tm : Nat) (bs : List Nat) (g : Sched) : Sched :=
  { g with pins := g.pins.filter fun p => !(p.1 == tm && bs.contains p.2) }

theorem modSched_const {k : Nat} {g : Sched} (hg : tget s.scheds k = some g) (f : Sched → Sched) :
    s.modSched k f = s.modSched k fun _ => f g := by
  unfold State.modSched
  rw [tmod_const hg f]

section
variable {g : Sched} (h : s.ReadyOnce i w t) (hg : tget s.scheds (w.core * 6 + w.sched) = some g) (x y : BitVec 7)
include h hg

theorem execIpin_ready : exec (.ipin x y) s = .next (s.modSched (w.core * 6 + w.sched) fun _ =>
    pinned w.team (blockRange t (s.rdS i x.toNat).toNat (s.rdS i y.toNat).toNat) g) := by
  show execIpin x y s = _
  unfold execIpin
  rw [once_ready h, h.warp]
  dsimp only
  rw [h.team]
  exact congrArg Host.Outcome.next (modSched_const hg _)

theorem execIunpin_ready : exec (.iunpin x y) s = .next (s.modSched (w.core * 6 + w.sched) fun _ =>
    unpinned w.team (blockRange t (s.rdS i x.toNat).toNat (s.rdS i y.toNat).toNat) g) := by
  show execIunpin x y s = _
  unfold execIunpin
  rw [once_ready h, h.warp]
  dsimp only
  rw [h.team]
  exact congrArg Host.Outcome.next (modSched_const hg _)

end

/-- Where all of them find a place, every block is pinned. -/
theorem mem_pinned {tm b : Nat} {bs : List Nat} {g : Sched} (hroom : g.pins.length + bs.length ≤ 64) (hb : b ∈ bs) :
    (tm, b) ∈ (pinned tm bs g).pins := by
  have hlen : (g.pins ++ (bs.filter fun b => !g.pins.contains (tm, b)).map fun b => (tm, b)).length ≤ 64 := by
    rw [List.length_append, List.length_map]
    exact (Nat.add_le_add_left (List.length_filter_le ..) _).trans hroom
  rw [pinned, List.take_of_length_le hlen, List.mem_append]
  by_cases hin : (tm, b) ∈ g.pins
  · exact .inl hin
  · exact .inr (List.mem_map.mpr ⟨b, List.mem_filter.mpr ⟨hb, by simpa using hin⟩, rfl⟩)

theorem of_mem_pinned {tm : Nat} {bs : List Nat} {g : Sched} {p : Nat × Nat} (hp : p ∈ (pinned tm bs g).pins) :
    p ∈ g.pins ∨ (p.1 = tm ∧ p.2 ∈ bs) := by
  rcases List.mem_append.mp (List.mem_of_mem_take hp) with hp | hp
  · exact .inl hp
  · obtain ⟨b, hb, rfl⟩ := List.mem_map.mp hp
    exact .inr ⟨rfl, List.mem_of_mem_filter hb⟩

theorem mem_unpinned {tm : Nat} {bs : List Nat} {g : Sched} {p : Nat × Nat} :
    p ∈ (unpinned tm bs g).pins ↔ p ∈ g.pins ∧ ¬(p.1 = tm ∧ p.2 ∈ bs) := by
  rw [unpinned, List.mem_filter]
  simp [imp_iff_not_or]

theorem pins : Pins := by
  intro s i w t g x y h hg first named
  have hnamed (b : Nat) : b ∈ blockRange t first (s.rdS i y.toNat).toNat ↔ named b := mem_blockRange
  refine ⟨⟨_, execIpin_ready h hg x y, List.length_take_le .., rfl, fun p hp => ?_, fun hroom b hb => ?_⟩,
    ⟨_, execIunpin_ready h hg x y, rfl, fun p => ?_⟩⟩
  · exact (of_mem_pinned hp).imp_right fun ⟨htm, hb⟩ => ⟨htm, (hnamed _).mp hb⟩
  · exact mem_pinned ((Nat.add_le_add_left (length_blockRange t first _) _).trans hroom) ((hnamed b).mpr hb)
  · rw [mem_unpinned]
    exact and_congr_right fun _ => not_congr (and_congr_right fun _ => hnamed p.2)

/-! ### Completions -/

/-- Does a request await a fill of a record under one of the keys? -/
theorem awaits_desc_iff {keys : List Nat} : (s.sk.reqs.any fun r => match r.who with
      | .desc k => keys.contains k
      | _ => false) = true ↔ ∃ r ∈ s.sk.reqs, ∃ k ∈ keys, r.who = .desc k := by
  rw [List.any_eq_true]
  refine exists_congr fun r => and_congr_right fun _ => ?_
  cases r.who <;> simp

theorem cacheCompletions : CacheCompletions := by
  intro s id o w ho hw
  refine ⟨?tlrflush, ?ipref, ?cache⟩
  case tlrflush =>
    intro a ha keys
    show (_ → execTlrflushDone id s = _) ∧ (_ → execTlrflushDone id s = _)
    unfold execTlrflushDone
    rw [ho]
    dsimp only
    rw [ha, hw]
    refine ⟨fun hnone => congrArg Host.Outcome.next (if_neg fun h => ?_),
      fun hsome => congrArg Host.Outcome.next (if_pos (awaits_desc_iff.mpr hsome))⟩
    obtain ⟨r, hr, k, hk, he⟩ := awaits_desc_iff.mp h
    exact hnone r hr k hk he
  case ipref =>
    intro g x y l p hk
    show execCacheOpDone id s = _
    unfold execCacheOpDone
    rw [ho]
    dsimp only
    rw [hk]
  case cache =>
    intro inv l2 lines hk
    show execCacheOpDone id s = _
    unfold execCacheOpDone
    rw [ho]
    dsimp only
    rw [hk, hw]
    dsimp only
    refine congrArg (fun f => Host.Outcome.next ((lines.foldl f s).endOp id)) (funext₂ fun u va => ?_)
    cases u.cacheKey (s.ctxOf o.warp) va with
    | none => rfl
    | some pa => cases l2 <;> cases inv <;> rfl

/-- Settles O24, by running each word and each completion past its checks, and by the blocks that a pin names. -/
theorem waitAndCacheWords : Obligations.WaitAndCacheWords := ⟨operationWaits, cacheOperations, pins, cacheCompletions⟩

end Sys2Proof.Laws
end

section
/-! PROOF of O23: FENCE, what a release brings about and what an acquire drops (R159, R209 to R212). -/

namespace Sys2Proof.Laws

open Sys2Proof.Machine Sys2Proof.Claims

variable {s : State}

/-! ### Steps behind the thread buffers: they keep what these hold and make no dirty copy -/

/-- `u` holds the buffered writes of `s`, and no dirty copy that `s` does not. -/
structure Behind (s u : State) : Prop where
  tbuf : u.m.tbuf = s.m.tbuf
  dirty : u.m.cDirty ⊆ s.m.cDirty

theorem behind_refl (s : State) : Behind s s := ⟨rfl, List.Subset.refl _⟩

theorem Behind.trans {s u v : State} (h : Behind s u) (h' : Behind u v) : Behind s v :=
  ⟨h'.tbuf.trans h.tbuf, List.Subset.trans h'.dirty h.dirty⟩

theorem behind_foldl {α : Type} {f : State → α → State} (hf : ∀ s x, Behind s (f s x)) (l : List α) (s : State) :
    Behind s (l.foldl f s) :=
  foldl_keeps (Behind s) (fun u x h => h.trans (hf u x)) l (behind_refl s)

theorem behind_noteWritten (s : State) (a n : Nat) : Behind s (s.noteWritten a n) := by
  unfold State.noteWritten
  split <;> exact ⟨rfl, List.Subset.refl _⟩

theorem behind_noteWhole (s : State) (a n : Nat) : Behind s (s.noteWhole a n) := by
  unfold State.noteWhole
  split <;> exact ⟨rfl, List.Subset.refl _⟩

theorem behind_noteDropped (s : State) (a n : Nat) : Behind s (s.noteDropped a n) := by
  unfold State.noteDropped
  split <;> exact ⟨rfl, List.Subset.refl _⟩

theorem behind_settleWr (s : State) (w : HWr) : Behind s (s.settleWr w) := by
  unfold State.settleWr
  refine Behind.trans ?_ (behind_foldl (fun s (e : Nat × Byte) => behind_noteWritten s e.1 1) _ _)
  exact ⟨rfl, List.Subset.refl _⟩

theorem behind_settleBlock (s : State) (b : Nat) : Behind s (s.settleBlock b) := by
  unfold State.settleBlock
  split
  · exact behind_refl s
  · exact behind_settleWr s _

theorem behind_settleBlockAll (s : State) (b : Nat) : Behind s (s.settleBlockAll b) :=
  behind_foldl (fun s _ => behind_settleBlock s b) _ _

theorem behind_settleAll (s : State) : Behind s s.settleAll := by
  refine behind_foldl (fun s w => ?_) _ _
  split
  · exact behind_settleBlock s _
  · exact behind_refl s

theorem behind_stampBytes (s : State) (l : List Nat) (p : Nat → Bool) : Behind s (s.stampBytes l p) :=
  ⟨rfl, List.Subset.refl _⟩

theorem behind_homeWrite (s : State) (l : List (Nat × Byte)) : Behind s (s.homeWrite l) := by
  unfold State.homeWrite
  split <;> exact ⟨rfl, List.Subset.refl _⟩

theorem behind_finalWrite (s : State) (a : Nat) (data : List Byte) : Behind s (s.finalWrite a data) := by
  unfold State.finalWrite
  have settled : Behind s ((blocksOf a data.length).foldl State.settleBlockAll s) := behind_foldl behind_settleBlockAll _ _
  refine Behind.trans ?_ (behind_noteWhole _ _ _)
  refine Behind.trans ?_ (behind_noteDropped _ _ _)
  exact ⟨settled.tbuf, settled.dirty⟩

theorem behind_ucWrite (s : State) (a : Nat) (data : List Byte) : Behind s (s.ucWrite a data) :=
  behind_foldl (fun s _ => behind_finalWrite s _ _) _ _

/-! ### PUSH -/

theorem tget_ne_none_of_mem {α : Type} {t : Tab α} {e : Nat × α} (h : e ∈ t) : tget t e.1 ≠ none := by
  induction t with
  | nil => exact absurd h List.not_mem_nil
  | cons f t ih =>
    obtain ⟨j, v⟩ := f
    unfold tget
    split
    · exact Option.some_ne_none v
    · rename_i hj
      rcases List.mem_cons.mp h with rfl | h
      · exact absurd rfl hj
      · exact ih h

theorem mem_foldl_terase {α β : Type} {key : β → Nat} (l : List β) {t : Tab α} {e : Nat × α}
    (h : e ∈ l.foldl (fun t x => terase t (key x)) t) : e ∈ t ∧ ∀ x ∈ l, e.1 ≠ key x := by
  induction l generalizing t with
  | nil => exact ⟨h, fun x hx => absurd hx List.not_mem_nil⟩
  | cons x l ih =>
    obtain ⟨hm, hk⟩ := ih h
    refine ⟨mem_terase hm, fun y hy => ?_⟩
    rcases List.mem_cons.mp hy with rfl | hy
    · intro he
      exact tget_ne_none_of_mem hm (by rw [tget_terase, if_pos he])
    · exact hk y hy

/-- A dirty byte is one of those that its PUSH moves. -/
theorem mem_dirtyGroup {core pa g : Nat} {b : Byte} (h : tget s.m.cDirty (ckey core pa) = some (b, g)) :
    (pa, b) ∈ s.dirtyGroup core pa := by
  have own : pa / 8 * 8 + pa % 8 = pa := by omega
  unfold State.dirtyGroup
  rw [h]
  refine List.mem_filterMap.mpr ⟨pa % 8, List.mem_range.mpr (by omega), ?_⟩
  rw [own, h]
  simp

/-- What PUSH of a byte leaves dirty: only what was, and the byte not. -/
theorem mem_cDirty_pushByte {core pa : Nat} {e : Nat × Byte × Nat} (h : e ∈ (s.pushByte core pa).m.cDirty) :
    e ∈ s.m.cDirty ∧ e.1 ≠ ckey core pa := by
  unfold State.pushByte at h
  split at h
  case h_1 hnone =>
    refine ⟨h, fun he => ?_⟩
    cases hd : tget s.m.cDirty (ckey core pa) with
    | none => exact tget_ne_none_of_mem h (he ▸ hd)
    | some x => exact absurd (mem_dirtyGroup hd) (hnone ▸ List.not_mem_nil)
  case h_2 hnone =>
    obtain ⟨hm, hk⟩ := mem_foldl_terase _ h
    have hs := (behind_homeWrite s _).dirty hm
    refine ⟨hs, fun he => ?_⟩
    cases hd : tget s.m.cDirty (ckey core pa) with
    | none => exact tget_ne_none_of_mem hs (he ▸ hd)
    | some x => exact hk _ (mem_dirtyGroup hd) he

theorem behind_pushByte (s : State) (core pa : Nat) : Behind s (s.pushByte core pa) := by
  refine ⟨?_, fun e he => (mem_cDirty_pushByte he).1⟩
  unfold State.pushByte
  split
  · rfl
  · exact (behind_homeWrite s _).tbuf

theorem behind_pushBytes (s : State) (core pa n : Nat) : Behind s (s.pushBytes core pa n) :=
  behind_foldl (fun s i => behind_pushByte s core (pa + i)) _ _

theorem behind_pushBlock (s : State) (core b : Nat) : Behind s (s.pushBlock core b) := behind_pushBytes s core _ _

theorem behind_pushCore (s : State) (core : Nat) : Behind s (s.pushCore core) :=
  behind_foldl (fun s b => behind_pushBlock s core b) _ _

/-- A fold of steps that make no dirty copy, of which one leaves the copy `e` away. -/
theorem notMem_cDirty_foldl {α : Type} {f : State → α → State} (hf : ∀ s x, Behind s (f s x)) {e : Nat × Byte × Nat} {x : α}
    (hx : ∀ s, e ∉ (f s x).m.cDirty) {l : List α} (hl : x ∈ l) (s : State) : e ∉ (l.foldl f s).m.cDirty := by
  obtain ⟨r, q, rfl⟩ := List.append_of_mem hl
  rw [List.foldl_append, List.foldl_cons]
  exact fun h => hx _ ((behind_foldl hf q _).dirty h)

theorem notMem_cDirty_pushBlock {e : Nat × Byte × Nat} {core b : Nat} (hc : e.1 / 2 ^ 50 = core)
    (hb : e.1 % 2 ^ 50 / 8 = b) (s : State) : e ∉ (s.pushBlock core b).m.cDirty := by
  have key : e.1 = ckey core (b * 8 + e.1 % 2 ^ 50 % 8) := by
    unfold ckey
    omega
  have listed : e.1 % 2 ^ 50 % 8 ∈ List.range 8 := List.mem_range.mpr (Nat.mod_lt _ (by decide))
  generalize e.1 % 2 ^ 50 % 8 = i at key listed
  exact notMem_cDirty_foldl (fun s j => behind_pushByte s core (b * 8 + j)) (fun u h => (mem_cDirty_pushByte h).2 key)
    listed s

/-- A core from which every dirty copy is pushed holds none. -/
theorem ne_core_of_mem_pushCore {core : Nat} {e : Nat × Byte × Nat} (h : e ∈ (s.pushCore core).m.cDirty) :
    e.1 / 2 ^ 50 ≠ core := by
  intro hc
  have hs := (behind_pushCore s core).dirty h
  have listed : e.1 % 2 ^ 50 / 8 ∈ s.dirtyBlocks core :=
    mem_dedup (List.mem_map.mpr ⟨e, List.mem_filter.mpr ⟨hs, beq_iff_eq.mpr hc⟩, rfl⟩)
  exact notMem_cDirty_foldl (fun s b => behind_pushBlock s core b) (notMem_cDirty_pushBlock hc rfl) listed s h

/-! ### POST -/

/-- Steps that keep the thread buffers, one after the other. -/
theorem tbuf_foldl {α : Type} {f : State → α → State} (hf : ∀ s x, (f s x).m.tbuf = s.m.tbuf) (l : List α) (s : State) :
    (l.foldl f s).m.tbuf = s.m.tbuf :=
  foldl_keeps (fun u : State => u.m.tbuf = s.m.tbuf) (fun u x h => (hf u x).trans h) l rfl

theorem tbuf_corePut (s : State) (core : Nat) (l : List (Nat × Byte)) : (s.corePut core l).m.tbuf = s.m.tbuf := by
  unfold State.corePut
  split <;> rfl

theorem tbuf_coreWrite (s : State) (core pa : Nat) (data : List Byte) : (s.coreWrite core pa data).m.tbuf = s.m.tbuf :=
  tbuf_foldl (fun s l => tbuf_corePut s core l) _ _

theorem tbuf_spadStore (s : State) (wk core off : Nat) (data : List Byte) :
    (s.spadStore wk core off data).m.tbuf = s.m.tbuf := by
  unfold State.spadStore
  split <;> rfl

theorem tbuf_onchipSet (s : State) (core off : Nat) (b : Byte) (k : Nat) : (s.onchipSet core off b k).m.tbuf = s.m.tbuf := by
  unfold State.onchipSet
  dsimp only
  split <;> rfl

theorem tbuf_onchipWrite (s : State) (core off : Nat) (data : List Byte) :
    (s.onchipWrite core off data).m.tbuf = s.m.tbuf :=
  tbuf_foldl (fun s (e : Nat × Byte) => tbuf_onchipSet s core (off + e.1) e.2 _) _ _

theorem tbuf_hostStore (s : State) (c ha : Nat) (data : List Byte) : (s.hostStore c ha data).m.tbuf = s.m.tbuf := by
  simp [State.hostStore]

theorem tbuf_peerFloor (s : State) (a : Agent) (d pa n : Nat) : (s.peerFloor a d pa n).m.tbuf = s.m.tbuf :=
  tbuf_foldl (f := fun s i => s.raiseFloor a (peerKey d pa + i) s.stampCtr) (fun _ _ => rfl) _ s

/-- POST takes its write out of the buffers and leaves the others there. -/
theorem tbuf_postWr (s : State) (w : Wr) (ctx : Nat) :
    (s.postWr w ctx).m.tbuf = s.m.tbuf.filter fun x => x.id != w.id := by
  unfold State.postWr
  dsimp only
  split
  · exact tbuf_spadStore ..
  · exact tbuf_onchipWrite ..
  · exact tbuf_coreWrite ..
  · exact tbuf_coreWrite ..
  · rfl
  · exact (behind_ucWrite _ _ _).tbuf
  · exact tbuf_hostStore ..
  · rw [tbuf_peerFloor, skSend_m]

/-- Writes posted one after the other are out of the buffers, and no other write comes there. -/
theorem mem_tbuf_foldl_postWr {ctx : State → Wr → Nat} (l : List Wr) (s : State) {x : Wr}
    (h : x ∈ (l.foldl (fun s w => s.postWr w (ctx s w)) s).m.tbuf) : x ∈ s.m.tbuf ∧ ∀ w ∈ l, x.id ≠ w.id := by
  induction l generalizing s with
  | nil => exact ⟨h, fun w hw => absurd hw List.not_mem_nil⟩
  | cons w l ih =>
    obtain ⟨hx, hl⟩ := ih _ h
    rw [tbuf_postWr, List.mem_filter] at hx
    obtain ⟨hx, hne⟩ := hx
    exact ⟨hx, List.forall_mem_cons.mpr ⟨by simpa using hne, hl⟩⟩

theorem mem_leadWrs {buf : List Wr} {p : Wr → Bool} {x : Wr} (hx : x ∈ buf) (hp : p x = true) : x ∈ leadWrs buf p := by
  induction buf with
  | nil => exact absurd hx List.not_mem_nil
  | cons w buf ih =>
    show x ∈ if p w || (leadWrs buf p).any w.leads then w :: leadWrs buf p else leadWrs buf p
    rcases List.mem_cons.mp hx with rfl | hx
    · simp [hp]
    · split
      · exact List.mem_cons_of_mem w (ih hx)
      · exact ih hx

theorem not_of_mem_postWhere {p : Wr → Bool} {x : Wr} (h : x ∈ (s.postWhere p).m.tbuf) : p x = false := by
  obtain ⟨hx, hne⟩ := mem_tbuf_foldl_postWr (ctx := fun s w => s.ctxOf w.warp) _ s h
  exact Bool.eq_false_iff.mpr fun hp => hne x (mem_leadWrs hx hp) rfl

theorem not_of_mem_postThread {wk l : Nat} {x : Wr} (h : x ∈ (s.postThread wk l none).m.tbuf) :
    ¬(x.warp = wk ∧ x.lane = l ∧ x.helper = none) := by
  have hp := not_of_mem_postWhere h
  rintro ⟨hw, hl, hh⟩
  simp [hw, hl, hh] at hp

/-! ### A release -/

theorem release_snd {wk l core sc : Nat} (h : sc < 9) : (s.release wk l core sc).2 = true := by
  simp [State.release, Nat.not_le.mpr h]

theorem release_zero (s : State) (wk l core : Nat) : (s.release wk l core 0).1 = s := by simp [State.release]

/-- After its thread's writes have been posted, a release pushes at scopes 5 and wider and settles at 7 and 10. -/
theorem release_fst {wk l core sc : Nat} (h : 1 ≤ sc) : ∃ v,
    v = (if 5 ≤ sc then (s.postThread wk l none).pushCore core else s.postThread wk l none) ∧
    Behind v (s.release wk l core sc).1 := by
  refine ⟨_, rfl, ?_⟩
  unfold State.release
  dsimp only
  rw [if_neg (Nat.ne_of_gt h)]
  by_cases hs : sc = 7 ∨ sc = 10
  · rw [if_pos hs]
    exact behind_settleAll _
  · rw [if_neg hs]
    exact behind_refl _

theorem releasesDrain : ReleasesDrain := by
  intro s wk l core sc u
  refine ⟨fun h => ?_, fun h x hx => ?_, fun h _ e he => ?_, release_snd⟩
  · subst h
    exact release_zero s wk l core
  · obtain ⟨v, hv, hu⟩ := release_fst (s := s) (wk := wk) (l := l) (core := core) h
    rw [hu.tbuf, hv] at hx
    refine not_of_mem_postThread (s := s) ?_
    split at hx
    · exact (behind_pushCore _ core).tbuf ▸ hx
    · exact hx
  · obtain ⟨v, hv, hu⟩ := release_fst (s := s) (wk := wk) (l := l) (core := core) (Nat.le_trans (by decide) h)
    rw [if_pos h] at hv
    exact ne_core_of_mem_pushCore (hv ▸ hu.dirty he)

/-! ### What an acquire drops -/

theorem tget_acquireDrop {core scope k pa : Nat} (hs : 5 ≤ scope) (hpa : pa < 2 ^ 50) :
    tget (s.acquireDrop core scope).m.cClean (ckey k pa) = if k = core then none else tget s.m.cClean (ckey k pa) := by
  unfold State.acquireDrop
  rw [if_pos hs]
  refine (tget_tclear _ _ _ _).trans (if_congr ?_ rfl rfl)
  unfold ckey
  omega

/-- A table whose entries are kept, changed or dropped, as its look-up sees it. -/
theorem tget_filterMap_keys {α β : Type} {t : Tab α} (hs : tsorted t = true) (g : Nat → α → Option β) (k : Nat) :
    tget (t.filterMap fun e => (g e.1 e.2).map (e.1, ·)) k = (tget t k).bind (g k) := by
  induction t with
  | nil => rfl
  | cons e t ih =>
    obtain ⟨j, v⟩ := e
    have rest := ih (tsorted_tail hs)
    by_cases hj : j = k
    · subst hj
      have absent : tget t j = none := tget_none_of_lt (tsorted_head hs)
      rw [absent] at rest
      cases hg : g j v with
      | none => simpa [tget, hg] using rest
      | some x => simp [tget, hg]
    · cases hg : g j v with
      | none => simpa [tget, hg, hj] using rest
      | some x => simpa [tget, hg, hj] using rest

/-- The writes after the last one that is done. -/
def notDone (done : Byte × Nat → Bool) (l : List (Byte × Nat)) : List (Byte × Nat) :=
  (l.reverse.takeWhile fun x => !done x).reverse

theorem notDone_append_cons {done : Byte × Nat → Bool} {x : Byte × Nat} {q : List (Byte × Nat)} (r : List (Byte × Nat))
    (hx : done x = true) (hq : ∀ y ∈ q, done y = false) : notDone done (r ++ x :: q) = q := by
  unfold notDone
  rw [List.reverse_append, List.reverse_cons, List.append_assoc,
    List.takeWhile_append_of_pos fun y hy => by rw [hq y (List.mem_reverse.mp hy)]; rfl]
  simp [hx]

/-- Has the command or store that made a write completed? -/
def writeDone (s : State) (x : Byte × Nat) : Bool := !s.copies.any fun c => c.id == x.2

theorem writeDone_true {x : Byte × Nat} (h : ∀ c ∈ s.copies, c.id ≠ x.2) : writeDone s x = true := by
  simpa [writeDone] using h

theorem writeDone_false {x : Byte × Nat} (h : ∃ c ∈ s.copies, c.id = x.2) : writeDone s x = false := by
  simpa [writeDone] using h

/-- What stays of the writes that hide a register byte. -/
def leftHidden (s : State) (w : Warp) (k : Nat) (l : List (Byte × Nat)) : Option (List (Byte × Nat)) :=
  let r := if w.ownsKey (k / 4) then notDone (writeDone s) l else l
  if r.isEmpty then none else some r

theorem regsAcquired_frame (s : State) (wk : Nat) :
    s.regsAcquired wk = { s with reg := { s.reg with shadow := (s.regsAcquired wk).reg.shadow } } := by
  unfold State.regsAcquired
  split <;> rfl

theorem tget_regsAcquired {wk : Nat} {w : Warp} (hw : s.warp wk = some w) (hs : tsorted s.reg.shadow = true) (k : Nat) :
    tget (s.regsAcquired wk).reg.shadow k = (tget s.reg.shadow k).bind (leftHidden s w k) := by
  unfold State.regsAcquired
  rw [hw]
  cases hsh : s.reg.shadow with
  | nil => simp [hsh, tget]
  | cons e t =>
    rw [← hsh, ← tget_filterMap_keys hs]
    rw [show s.reg.shadow.isEmpty = false by rw [hsh]; rfl]
    refine congrArg (fun f => tget (s.reg.shadow.filterMap f) k) (funext fun e => ?_)
    unfold leftHidden
    dsimp only
    rw [apply_ite (Option.map _)]
    rfl

theorem acquiresDrop : AcquiresDrop := by
  refine ⟨fun s core scope hs k pa hpa => tget_acquireDrop hs hpa, ?_⟩
  intro s wk w hw hs u
  refine ⟨regsAcquired_frame s wk, fun k hown hne => ?others, fun k l hown hl => ⟨fun x r he hx => ?all, ?part⟩⟩
  case others =>
    rw [tget_regsAcquired hw hs]
    cases hl : tget s.reg.shadow k with
    | none => rfl
    | some l => simpa [leftHidden, hown] using hne l hl
  case all =>
    rw [tget_regsAcquired hw hs, hl, he]
    simp [leftHidden, hown, notDone_append_cons r (writeDone_true hx)]
  case part =>
    intro r x q he hx hq hne
    rw [tget_regsAcquired hw hs, hl, he]
    simp [leftHidden, hown, notDone_append_cons r (writeDone_true hx) fun y hy => writeDone_false (hq y hy), hne]

/-! ### FENCE -/

/-- The lanes of a bundle release one after the other, and whether each could at once. -/
def releaseAll (i : Issue) (core sc : Nat) (ls : List Nat) (s : State) : State × Bool :=
  ls.foldl (fun p l => ((p.1.release i.warp l core sc).1, p.2 && (p.1.release i.warp l core sc).2)) (s, true)

theorem execFence_thread {i : Issue} {w : Warp} (hi : s.iss = some i) (hk : i.kind = .thread) (hw : s.warp i.warp = some w)
    (order : BitVec 2) (scope : BitVec 4) : exec (.fence order scope) s = .next (
      if order = 2 then (s.acting i).foldl (fun u l => u.fenceRel i.warp l scope.toNat) s
      else if order = 3 then
        if (releaseAll i w.core scope.toNat (s.acting i) s).2 then
          (s.acting i).foldl (fun u l => (u.fenceRel i.warp l scope.toNat).fenceAcq i.warp l w.core scope.toNat)
            (releaseAll i w.core scope.toNat (s.acting i) s).1
        else (releaseAll i w.core scope.toNat (s.acting i) s).1.stall
      else (s.acting i).foldl (fun u l => u.fenceAcq i.warp l w.core scope.toNat) s) := by
  show execFence order scope s = _
  unfold execFence
  rw [hi]
  dsimp only
  rw [if_neg (by simp [hk]), hw]
  rfl

/-- The loads and atomics of a thread that are not performed. -/
def openOps (wk : Nat) (ops : List Op) (l : Nat) : List Nat :=
  (ops.filter fun o => o.warp == wk && o.lanes.contains l && o.helper.isNone && !o.performed).map (·.id)

/-- A thread that has issued a release fence at `scope` over the operations `ops`. -/
def Thread.fenced (scope : BitVec 4) (ops : List Nat) (th : Thread) : Thread := { th with
  relOps := th.relOps ++ ops
  relHold := some (match th.relHold with
    | none => scope.toNat
    | some x => if (x = 8 ∧ scope = 9) ∨ (x = 9 ∧ scope = 8) then 10 else max x scope.toNat) }

theorem joinScope_toNat (x : Nat) (scope : BitVec 4) :
    joinScope x scope.toNat = if (x = 8 ∧ scope = 9) ∨ (x = 9 ∧ scope = 8) then 10 else max x scope.toNat := by
  unfold joinScope
  simp only [← BitVec.toNat_inj]
  rfl

theorem fenceRel_eq (s : State) (wk l : Nat) (scope : BitVec 4) :
    s.fenceRel wk l scope.toNat = s.modThread wk l (Thread.fenced scope (openOps wk s.ops l)) := by
  refine congrArg (s.modThread wk l) (funext fun th => ?_)
  unfold Thread.fenced
  cases th.relHold with
  | none => rfl
  | some x => dsimp only; rw [joinScope_toNat]; rfl

/-- Release fences of the lanes of a bundle name the operations that were open before the first. -/
theorem foldl_fenceRel (wk : Nat) (scope : BitVec 4) (ls : List Nat) (s : State) :
    ls.foldl (fun u l => u.fenceRel wk l scope.toNat) s =
      ls.foldl (fun u l => u.modThread wk l (Thread.fenced scope (openOps wk s.ops l))) s := by
  induction ls generalizing s with
  | nil => rfl
  | cons l ls ih =>
    simp only [List.foldl_cons]
    rw [ih, fenceRel_eq]
    rfl

theorem fences : Fences := by
  intro s i w order scope hi hk hw open_ stores acquire released before
  rw [execFence_thread hi hk hw]
  refine ⟨fun h2 h3 => ?acq, fun h2 nd => ?rel, fun h3 u hu => ?both, fun h3 u hu => ?waits⟩
  case acq => rw [if_neg h2, if_neg h3]; rfl
  case rel =>
    rw [if_pos h2, foldl_fenceRel]
    exact ⟨_, rfl, threadsBecome_fold _ _ (acting_nodup s i nd) s⟩
  case both =>
    have hall : releaseAll i w.core scope.toNat (s.acting i) s = (u, true) := hu
    rw [if_neg (by rw [h3]; decide), if_pos h3, hall, if_pos rfl]
    refine congrArg (fun f => Host.Outcome.next ((s.acting i).foldl f u)) (funext₂ fun v l => ?_)
    rw [fenceRel_eq]
    rfl
  case waits =>
    have hall : releaseAll i w.core scope.toNat (s.acting i) s = (u, false) := hu
    rw [if_neg (by rw [h3]; decide), if_pos h3, hall]
    rfl

/-- Settles O23, by FENCE's three orders, by the steps that a release takes behind the thread buffers, which make no dirty copy,
and by what an acquire leaves of each table entry. -/
theorem fencesReleasesAndAcquires : Obligations.FencesReleasesAndAcquires := ⟨fences, releasesDrain, acquiresDrop⟩

end Sys2Proof.Laws
end

section
/-! PROOF of O29: extended registers and accumulator tiles, taken, awaited, granted and given back. -/

namespace Sys2Proof.Laws

open Sys2Proof.Machine Sys2Proof.Claims

variable {s : State} {i : Issue} {w : Warp} {t : Team}

/-! ### A bundle at a word that acts once -/

theorem teamOf_once (h : s.ReadyOnce i w t) : s.teamOf i.warp = some t := by
  unfold State.teamOf
  rw [h.warp]
  exact h.team

/-- A word that names no vector register is not stopped by one, off the control core. -/
theorem ready_once (h : s.ReadyOnce i w t) : s.Ready i [] [] := by
  refine ⟨h.issuing, ?_, recruitHeld_nil _⟩
  unfold State.regError
  rw [rdWarp_unchained h.view, h.warp]
  simp [h.normal, h.threads]

/-! ### Sets of blocks and tiles -/

theorem mem_regRange {r n k : Nat} : k ∈ regRange r n ↔ r ≤ k ∧ k < r + n := by
  unfold regRange
  rw [List.mem_map]
  constructor
  · rintro ⟨j, hj, rfl⟩
    rw [List.mem_range] at hj
    omega
  · rintro ⟨hlo, hhi⟩
    exact ⟨k - r, List.mem_range.mpr (by omega), by omega⟩

theorem mem_maskBlocks {m : BitVec 4} {b : Nat} : b ∈ maskBlocks m ↔ b < 4 ∧ m.getLsbD b = true := by
  rw [maskBlocks, List.mem_filter, List.mem_range]

theorem mem_tilesOf {base : BitVec 8} {n : BitVec 7} {k : Nat} :
    k ∈ tilesOf base n ↔ base.toNat ≤ k ∧ k ≤ base.toNat + n.toNat := by
  rw [tilesOf, mem_regRange]
  omega

theorem blocksOver_iff (m : BitVec 4) (v : TaskVals) : blocksOver m v = true ↔ 2 ^ v.xblk ≤ m.toNat := by
  simp [blocksOver, Nat.div_eq_zero_iff]

theorem blocksOver_false {m : BitVec 4} {v : TaskVals} (h : m.toNat < 2 ^ v.xblk) : blocksOver m v = false :=
  Bool.eq_false_iff.mpr fun hover => absurd ((blocksOver_iff m v).mp hover) (by omega)

theorem tilesOver_false {base : BitVec 8} {n : BitVec 7} {v : TaskVals} (h : base.toNat + n.toNat < min 256 v.tiles) :
    tilesOver base n v = false := by
  unfold tilesOver
  exact decide_eq_false (by omega)

/-! ### Tables with entries added and taken out -/

/-- A table with one entry after another put in. -/
def putAll {α : Type} (t : Tab α) (ps : List (Nat × α)) : Tab α := ps.foldl (fun t e => tset t e.1 e.2) t

theorem tget_putAll_other {α : Type} {ps : List (Nat × α)} {k : Nat} (h : k ∉ ps.map (·.1)) (t : Tab α) :
    tget (putAll t ps) k = tget t k := by
  induction ps generalizing t with
  | nil => rfl
  | cons e ps ih =>
    obtain ⟨he, hps⟩ := List.ne_and_not_mem_of_not_mem_cons h
    exact (ih hps _).trans (tget_tset_other _ _ _ _ he)

theorem tget_putAll_mem {α : Type} {ps : List (Nat × α)} {k : Nat} (h : k ∈ ps.map (·.1)) (t : Tab α) :
    ∃ v, (k, v) ∈ ps ∧ tget (putAll t ps) k = some v := by
  induction ps generalizing t with
  | nil => cases h
  | cons e ps ih =>
    by_cases hps : k ∈ ps.map (·.1)
    · obtain ⟨v, hv, hget⟩ := ih hps (tset t e.1 e.2)
      exact ⟨v, List.mem_cons_of_mem _ hv, hget⟩
    · have he : k = e.1 := (List.mem_cons.mp h).resolve_right hps
      exact ⟨e.2, he ▸ List.mem_cons_self, (tget_putAll_other hps _).trans (he ▸ tget_tset_same ..)⟩

theorem tget_foldl_terase {α : Type} (ks : List Nat) (t : Tab α) (k : Nat) :
    tget (ks.foldl terase t) k = if k ∈ ks then none else tget t k := by
  induction ks generalizing t with
  | nil => rfl
  | cons j ks ih =>
    rw [List.foldl_cons, ih, tget_terase]
    by_cases hk : k = j <;> simp [hk]

/-- What a table lacks of `ks`, each with a free place, as far as the places go. -/
def fills (t : Tab Nat) (ks places : List Nat) : List (Nat × Nat) := (ks.filter fun k => (tget t k).isNone).zip places

section
variable {tab : Tab Nat} {ks places : List Nat}

theorem tget_fills_held {k v : Nat} (h : tget tab k = some v) : tget (putAll tab (fills tab ks places)) k = some v := by
  rw [tget_putAll_other, h]
  intro hk
  obtain ⟨e, he, rfl⟩ := List.mem_map.mp hk
  have := (List.mem_filter.mp (List.of_mem_zip he).1).2
  simp [h] at this

theorem tget_fills_new (hroom : (ks.filter fun k => (tget tab k).isNone).length ≤ places.length) {k : Nat} (hk : k ∈ ks)
    (hnone : tget tab k = none) :
    ∃ v, (k, v) ∈ fills tab ks places ∧ tget (putAll tab (fills tab ks places)) k = some v := by
  refine tget_putAll_mem ?_ tab
  rw [fills, List.map_fst_zip hroom]
  exact List.mem_filter.mpr ⟨hk, by simp [hnone]⟩

end

/-! ### Blocks and tiles granted -/

/-- One block of warp `wk` gets its pool offset, its registers undefined. -/
def giveBlock (wk : Nat) (w : Warp) (s : State) (e : Nat × Nat) : State :=
  (s.modWarp wk fun w => { w with ext := tset w.ext e.1 e.2 }).undefRegs (w.gs * 131072 + 65536 + e.2 * 16 * w.w)
    (w.gs * 131072 + 65536 + (e.2 + 1) * 16 * w.w)

theorem warp_giveBlocks {wk : Nat} (x : Warp) (ps : List (Nat × Nat)) {s : State} {w : Warp} (hw : s.warp wk = some w) :
    (ps.foldl (giveBlock wk x) s).warp wk = some { w with ext := putAll w.ext ps } := by
  induction ps generalizing s w with
  | nil => exact hw
  | cons e ps ih =>
    have hstep : (giveBlock wk x s e).warp wk = some { w with ext := tset w.ext e.1 e.2 } := by
      show (s.modWarp wk _).warp wk = _
      rw [warp_modWarp, if_pos rfl, hw]
      rfl
    exact ih hstep

theorem grantBlocks_eq {wk : Nat} (hw : s.warp wk = some w) (bs : List Nat) :
    s.grantBlocks wk bs = (fills w.ext bs (s.poolFree w.gs w.w)).foldl (giveBlock wk w) s := by
  unfold State.grantBlocks
  rw [hw]
  rfl

/-- The pool meets a request of the warp: it holds every block asked for, and those it held where they were. -/
theorem grantBlocks_met (hw : s.warp i.warp = some w) (ht : s.teamOf i.warp = some t) {bs : List Nat}
    (hfit : s.resFits i.warp true bs = true) : ∃ w', (s.grantBlocks i.warp bs).warp i.warp = some w' ∧
      w'.threads = w.threads ∧ (∀ b ∈ bs, (tget w'.ext b).isSome = true) ∧
      (∀ b off, tget w.ext b = some off → tget w'.ext b = some off) ∧
      (s.grantBlocks i.warp bs).m = s.m ∧ (s.grantBlocks i.warp bs).resReqs = s.resReqs := by
  have hroom : (bs.filter fun b => (tget w.ext b).isNone).length ≤ (s.poolFree w.gs w.w).length := by
    simpa [State.resFits, State.lacking, hw, ht] using hfit
  rw [grantBlocks_eq hw]
  refine ⟨_, warp_giveBlocks w _ hw, rfl, fun b hb => ?_, fun b off => tget_fills_held,
    foldl_keeps (f := giveBlock i.warp w) (fun u : State => u.m = s.m) (fun _ _ h => h) _ rfl,
    foldl_keeps (f := giveBlock i.warp w) (fun u : State => u.resReqs = s.resReqs) (fun _ _ h => h) _ rfl⟩
  cases hheld : tget w.ext b with
  | none =>
    obtain ⟨v, -, hv⟩ := tget_fills_new hroom hb hheld
    exact Option.isSome_of_eq_some hv
  | some off => exact Option.isSome_of_eq_some (tget_fills_held hheld)

/-- One tile of team `tk` is mapped to a core tile, which is zeroed. -/
def giveTile (tk core : Nat) (s : State) (e : Nat × Nat) : State :=
  (s.modTeam tk fun t => { t with tiles := tset t.tiles e.1 e.2 }).tileZero core e.2

theorem team_giveTiles {tk core : Nat} (ps : List (Nat × Nat)) {s : State} {t : Team} (ht : s.team tk = some t) :
    (ps.foldl (giveTile tk core) s).team tk = some { t with tiles := putAll t.tiles ps } := by
  induction ps generalizing s t with
  | nil => exact ht
  | cons e ps ih =>
    have hstep : (giveTile tk core s e).team tk = some { t with tiles := tset t.tiles e.1 e.2 } := by
      show tget (tmod s.teams tk _) tk = _
      rw [tget_tmod, if_pos rfl, show tget s.teams tk = some t from ht]
      rfl
    exact ih hstep

/-- Mapping tiles writes the accumulators as zeroing the core tiles does. -/
theorem m_giveTiles {tk core : Nat} (ps : List (Nat × Nat)) {s u : State} (h : s.m = u.m) :
    (ps.foldl (giveTile tk core) s).m = ((ps.map (·.2)).foldl (fun u c => u.tileZero core c) u).m := by
  induction ps generalizing s u with
  | nil => exact h
  | cons e ps ih =>
    refine ih ?_
    simp only [giveTile, State.tileZero, State.modTeam, h]

theorem accWord_giveTiles {tk core ct r c : Nat} (hr : r < 8) (hc : c < 64) {ps : List (Nat × Nat)} {k : Nat}
    (h : (k, ct) ∈ ps) (s : State) : (ps.foldl (giveTile tk core) s).accWord (accKey core ct r c) = 0 := by
  unfold State.accWord
  rw [m_giveTiles ps (rfl : s.m = s.m)]
  exact accWord_tileZeros (accKey_in_tile hr hc) (List.mem_map.mpr ⟨_, h, rfl⟩) s

theorem grantTiles_eq {tk : Nat} (ht : s.team tk = some t) (ts : List Nat) :
    s.grantTiles tk ts = (fills t.tiles ts (s.freeTiles t.core)).foldl (giveTile tk t.core) s := by
  unfold State.grantTiles
  rw [ht]
  rfl

/-- The core meets a request of the team: every tile asked for is mapped, one newly mapped reads zero, and those mapped before
stay where they were. -/
theorem grantTiles_met (hw : s.warp i.warp = some w) (ht : s.team w.team = some t) (hcore : t.core = w.core) {ts : List Nat}
    (hfit : s.resFits i.warp false ts = true) : ∃ t', (s.grantTiles w.team ts).team w.team = some t' ∧
      (∀ k ∈ ts, ∃ ct, tget t'.tiles k = some ct ∧
        (tget t.tiles k = none → ∀ r c, r < 8 → c < 64 → (s.grantTiles w.team ts).accWord (accKey w.core ct r c) = 0)) ∧
      (∀ k ct, tget t.tiles k = some ct → tget t'.tiles k = some ct) ∧
      (s.grantTiles w.team ts).resReqs = s.resReqs ∧ (s.grantTiles w.team ts).warps = s.warps := by
  have hroom : (ts.filter fun k => (tget t.tiles k).isNone).length ≤ (s.freeTiles t.core).length := by
    simpa [State.resFits, State.lacking, State.teamOf, hw, ht, hcore] using hfit
  rw [grantTiles_eq ht]
  refine ⟨_, team_giveTiles _ ht, fun k hk => ?_, fun k ct => tget_fills_held,
    foldl_keeps (f := giveTile w.team t.core) (fun u : State => u.resReqs = s.resReqs) (fun _ _ h => h) _ rfl,
    foldl_keeps (f := giveTile w.team t.core) (fun u : State => u.warps = s.warps) (fun _ _ h => h) _ rfl⟩
  cases hheld : tget t.tiles k with
  | none =>
    obtain ⟨ct, hmem, hct⟩ := tget_fills_new hroom hk hheld
    exact ⟨ct, hct, fun _ r c hr hc => hcore ▸ accWord_giveTiles hr hc hmem s⟩
  | some ct => exact ⟨ct, tget_fills_held hheld, fun h => nomatch h⟩

/-! ### XACQ and AACQ -/

/-- What an acquisition does inside its budget, while its team need not wait. -/
theorem acquireRes_asks (h : s.ReadyOnce i w t) {tooBig : TaskVals → Bool} (hover : tooBig t.vals = false)
    (hheld : s.resHeld t = false) (ext tryIt : Bool) (items : List Nat) (p : Nat) :
    s.acquireRes ext items tooBig tryIt p =
      let ok := s.resFits i.warp ext items
      let s := if ok then s.resGrant i.warp ext items else s
      if tryIt then i.lanes.foldl (fun s l => s.wrP i l p ok) s
      else if ok then s
      else { s with
        nextId := s.nextId + 1
        warps := (s.modThreads i.warp i.lanes fun th => { th with st := .blocked (.res s.nextId) }).warps
        resReqs := s.resReqs ++ [{ id := s.nextId, warp := i.warp, lanes := i.lanes, ext := ext, items := items }]
        pending := s.pending ++ [.resourceGrant s.nextId] } := by
  unfold State.acquireRes
  rw [withThread_once h (ready_once h)]
  simp only [h.warp, teamOf_once h, h.acts, hover, hheld, Bool.not_true, Bool.false_eq_true, if_false]
  rfl

theorem acquireRes_over (h : s.ReadyOnce i w t) {tooBig : TaskVals → Bool} (hover : tooBig t.vals = true)
    (ext tryIt : Bool) (items : List Nat) (p : Nat) : s.acquireRes ext items tooBig tryIt p = s.illegal 3 i.lanes := by
  unfold State.acquireRes
  rw [withThread_once h (ready_once h)]
  simp [h.warp, teamOf_once h, h.acts, hover]

theorem acquireRes_held (h : s.ReadyOnce i w t) {tooBig : TaskVals → Bool} (hover : tooBig t.vals = false)
    (hheld : s.resHeld t = true) (ext tryIt : Bool) (items : List Nat) (p : Nat) :
    s.acquireRes ext items tooBig tryIt p = s.stall := by
  unfold State.acquireRes
  rw [withThread_once h (ready_once h)]
  simp [h.warp, teamOf_once h, h.acts, hover, hheld]

/-- The threads of the bundle take the answer of a TRY. -/
theorem foldl_wrP_thread (hk : i.kind = .thread) (hw : s.warp i.warp = some w) (p : Nat) (b : Bool) (ls : List Nat) :
    ls.foldl (fun s l => s.wrP i l p b) s =
      s.modThreads i.warp ls fun th => { th with preds := setPredBit th.preds p b } := by
  simp only [State.wrP, hk]
  exact ((modThreads_fold ..).resolve_right (by simp [hw])).symm

theorem predBit_setPredBit {p : Nat} (hp : p < 7) (ps : BitVec 7) : predBit (setPredBit ps p true) p = true := by
  have h : ¬7 ≤ p := by omega
  unfold predBit setPredBit
  rw [if_neg h, if_pos rfl, BitVec.getLsbD_or, BitVec.getLsbD_ofNat, Nat.testBit_two_pow_self]
  simp [hp]

/-- A thread changed, perhaps more than once, is as each change leaves it. -/
theorem of_getElem?_foldl_modify {α : Type} {P : α → Prop} {f : α → α} (hf : ∀ x, P (f x)) {ls : List Nat} {l : Nat}
    (h : l ∈ ls) {ts : List α} {x : α} (hx : (ls.foldl (fun ts l => ts.modify l f) ts)[l]? = some x) : P x := by
  induction ls generalizing ts with
  | nil => cases h
  | cons k ls ih =>
    by_cases hl : l ∈ ls
    · exact ih hl hx
    · obtain rfl := (List.mem_cons.mp h).resolve_right hl
      rw [List.foldl_cons, getElem?_foldl_modify_other hl, List.getElem?_modify_eq] at hx
      obtain ⟨y, -, rfl⟩ := Option.map_eq_some_iff.mp hx
      exact hf y

theorem resourcesTaken : ResourcesTaken := by
  constructor
  · intro s i w t mask tryIt p h hin hheld hfit
    obtain ⟨w', hw', hthreads, hblocks, hkept, hm, hreqs⟩ := grantBlocks_met h.warp (teamOf_once h) hfit
    have hmask (b : Nat) (hb : b < 4) (hbit : mask.getLsbD b = true) := hblocks b (mem_maskBlocks.mpr ⟨hb, hbit⟩)
    show ∃ u w', execXacq mask tryIt p s = _ ∧ _
    unfold execXacq
    rw [acquireRes_asks h (blocksOver_false hin) hheld, hfit]
    simp only [State.resGrant, if_true]
    by_cases htry : tryIt = 1
    · rw [if_pos (by simp [htry]), foldl_wrP_thread h.threads hw']
      exact ⟨_, _, rfl, warp_modThreads hw' _ _, hm, hreqs, hmask, hkept, fun _ hp l hl th hth =>
          of_getElem?_foldl_modify (P := fun th : Thread => predBit th.preds p.toNat = true)
            (fun x => predBit_setPredBit hp x.preds) hl hth,
        fun h0 => absurd (htry.symm.trans h0) (by decide)⟩
    · rw [if_neg (by simpa using htry)]
      exact ⟨_, w', rfl, hw', hm, hreqs, hmask, hkept, fun h1 => absurd h1 htry, fun _ => hthreads⟩
  · intro s i w t base n tryIt p h hin hcore hheld hfit
    obtain ⟨t', ht', hmapped, hkept, hreqs, hwarps⟩ := grantTiles_met h.warp h.team hcore hfit
    have hgrant : s.resGrant i.warp false (tilesOf base n) = s.grantTiles w.team (tilesOf base n) := by
      simp [State.resGrant, h.warp]
    have hw' : (s.grantTiles w.team (tilesOf base n)).warp i.warp = some w := (congrArg (tget · i.warp) hwarps).trans h.warp
    have hrange (k : Nat) (hlo : base.toNat ≤ k) (hhi : k ≤ base.toNat + n.toNat) := hmapped k (mem_tilesOf.mpr ⟨hlo, hhi⟩)
    show ∃ u t', execAacq base n tryIt p s = _ ∧ _
    unfold execAacq
    rw [acquireRes_asks h (tilesOver_false hin) hheld, hfit]
    simp only [if_true, hgrant, foldl_wrP_thread h.threads hw']
    split <;> exact ⟨_, t', rfl, ht', hreqs, hrange, hkept⟩

theorem resourcesWait : ResourcesWait := by
  intro s i w t mask p h
  refine ⟨fun hbig y => ?illegal, fun hdet => ?free, fun hin hheld y => ?held,
    fun hin hheld hfit => ⟨?waits, fun nd => ?refused⟩⟩
  case illegal => exact congrArg Host.Outcome.next (acquireRes_over h ((blocksOver_iff ..).mpr hbig) ..)
  case free => simp [State.resHeld, hdet]
  case held => exact congrArg Host.Outcome.next (acquireRes_held h (blocksOver_false hin) hheld ..)
  case waits =>
    show execXacq mask 0 p s = _
    unfold execXacq
    rw [acquireRes_asks h (blocksOver_false hin) hheld, hfit]
    rfl
  case refused =>
    refine ⟨_, ?_, threadsBecome_modThreads s i.warp i.lanes _ nd⟩
    show execXacq mask 1 p s = _
    unfold execXacq
    rw [acquireRes_asks h (blocksOver_false hin) hheld, hfit]
    exact congrArg Host.Outcome.next (foldl_wrP_thread h.threads h.warp _ _ _)

/-! ### XREL and AREL -/

/-- What uses registers of several blocks uses registers of one of them. -/
theorem regsBusy_flatMap {bs : List Nat} {f : Nat → List Nat} (h : s.regsBusy i (bs.flatMap f) = true) :
    ∃ b ∈ bs, s.regsBusy i (f b) = true := by
  simp only [State.regsBusy, Bool.or_eq_true, Bool.and_eq_true, List.any_eq_true, List.contains_iff_mem, List.mem_flatMap] at h ⊢
  rcases h with (⟨o, ho, hown, ⟨r, hr, b, hb, hrb⟩ | ⟨e, he, b, hb, heb⟩⟩ | ⟨m, hm, hown, r, hr, b, hb, hrb⟩) |
      hdeferred
  · exact ⟨b, hb, .inl (.inl ⟨o, ho, hown, .inl ⟨r, hr, hrb⟩⟩)⟩
  · exact ⟨b, hb, .inl (.inl ⟨o, ho, hown, .inr ⟨e, he, heb⟩⟩)⟩
  · exact ⟨b, hb, .inl (.inr ⟨m, hm, hown, r, hr, hrb⟩)⟩
  · cases hw : s.warp i.warp with
    | none => simp [hw] at hdeferred
    | some w =>
      simp only [hw, Option.map_some, Option.getD_some, List.any_eq_true, List.contains_iff_mem, List.mem_flatMap] at hdeferred ⊢
      obtain ⟨d, hd, e, he, r, hr, b, hb, hrb⟩ := hdeferred
      exact ⟨b, hb, .inr ⟨d, hd, e, he, r, hr, hrb⟩⟩

theorem execXrel_free (h : s.ReadyOnce i w t) {mask : BitVec 4} (hin : mask.toNat < 2 ^ t.vals.xblk)
    (hfree : ∀ b < 4, mask.getLsbD b = true → s.regsBusy i (blockRegs b) = false) : exec (.xrel mask) s = .next
      ((s.modWarp i.warp fun x =>
        { x with ext := ((maskBlocks mask).filter fun b => (tget w.ext b).isSome).foldl terase x.ext }).detGrants w.team) := by
  have hidle : s.regsBusy i (((maskBlocks mask).filter fun b => (tget w.ext b).isSome).flatMap blockRegs) = false :=
    Bool.eq_false_iff.mpr fun hbusy => by
      obtain ⟨b, hb, hb'⟩ := regsBusy_flatMap hbusy
      obtain ⟨hlt, hbit⟩ := mem_maskBlocks.mp (List.mem_of_mem_filter hb)
      rw [hfree b hlt hbit] at hb'
      cases hb'
  show execXrel mask s = _
  unfold execXrel
  rw [withThread_once h (ready_once h)]
  simp only [h.warp, teamOf_once h, h.acts, blocksOver_false hin, hidle, Bool.not_true, Bool.false_eq_true, if_false]

theorem execArel_free (h : s.ReadyOnce i w t) {base : BitVec 8} {n : BitVec 7}
    (hin : base.toNat + n.toNat < min 256 t.vals.tiles)
    (hfree : ∀ m ∈ s.mops, m.team = w.team → i.before m.id = true → ∀ k ct, base.toNat ≤ k → k ≤ base.toNat + n.toNat →
      tget t.tiles k = some ct → ct ∉ m.tiles) : exec (.arel base n) s = .next
      ((s.modTeam w.team fun x => { x with tiles := (tilesOf base n).foldl terase x.tiles }).detGrants w.team) := by
  have hidle : (s.mops.any fun m => m.team == w.team && i.before m.id &&
      m.tiles.any fun x => ((tilesOf base n).filterMap fun x => tget t.tiles x).contains x) = false := by
    rw [List.any_eq_false]
    intro m hm hbusy
    simp only [Bool.and_eq_true, beq_iff_eq, List.any_eq_true, List.contains_iff_mem, List.mem_filterMap] at hbusy
    obtain ⟨⟨hteam, hbefore⟩, ct, hct, k, hk, hget⟩ := hbusy
    obtain ⟨hlo, hhi⟩ := mem_tilesOf.mp hk
    exact hfree m hm hteam hbefore k ct hlo hhi hget hct
  show execArel base n s = _
  unfold execArel
  rw [withThread_once h (ready_once h)]
  simp only [h.warp, teamOf_once h, h.acts, tilesOver_false hin, hidle, Bool.not_true, Bool.false_eq_true, if_false]

theorem resourcesReleased : ResourcesReleased := by
  refine ⟨fun s i w t mask h hin hfree => ?xrel, fun s tk hdet => ?nodet, fun s i w t base n h hin hfree => ?arel⟩
  case xrel =>
    let gone := (maskBlocks mask).filter fun b => (tget w.ext b).isSome
    refine ⟨_, { w with ext := gone.foldl terase w.ext }, execXrel_free h hin hfree, onlyWarps_modWarp .., ?_, rfl, fun b => ?_⟩
    · rw [warp_modWarp, if_pos rfl, h.warp]
      rfl
    · rw [tget_foldl_terase]
      cases hb : tget w.ext b <;> simp [gone, hb, mem_maskBlocks]
  case nodet =>
    unfold State.detGrants
    cases ht : s.team tk with
    | none => rfl
    | some t => simp [hdet t ht]
  case arel =>
    refine ⟨{ t with tiles := (tilesOf base n).foldl terase t.tiles }, ?_, rfl, fun k => ?_⟩
    · rw [execArel_free h hin hfree]
      unfold State.modTeam
      rw [tmod_const h.team]
    · show tget (List.foldl terase t.tiles _) k = _
      rw [tget_foldl_terase]
      simp only [mem_tilesOf]

/-! ### RESOURCE_GRANT -/

theorem resourcesGranted : ResourcesGranted := by
  intro s r w rest hr hw hq hfit u
  show execResourceGrant r.id s = _
  unfold execResourceGrant
  have hdue : s.resDue r = true := by simp [State.resDue, hw, hq, hfit]
  rw [hr]
  simp only [hw, hdue, Option.isNone_some, Bool.false_eq_true, if_false, if_true]
  rfl

/-- Settles O29, by what a grant of blocks or tiles leaves of the warp and its team, and by the cases of an acquisition. -/
theorem resourceWords : Obligations.ResourceWords := ⟨resourcesTaken, resourcesWait, resourcesReleased, resourcesGranted⟩

end Sys2Proof.Laws
end

section
/-! PROOF of O30: the matrix words past their checks. -/

namespace Sys2Proof.Laws

open Sys2Proof.Machine Sys2Proof.Claims

variable {s : State} {i : Issue} {w : Warp} {t : Team} {qs : List (Nat × Nat)} {regs : List Nat}

/-! ### Participation (R175) -/

/-- A word whose quarters are whole runs on them. -/
theorem mat_ready (h : s.ReadyMatrix i w t regs qs) (k : Issue → Warp → Team → List (Nat × Nat) → State → State)
    (counts : Bool) : s.mat regs k counts = k i w t qs s := by
  have hrange : regs.any (127 < ·) = false := by
    simpa using fun r hr => Nat.le_of_lt_succ (h.inRange r hr)
  have hw : s.rdWarp i = some w := (rdWarp_unchained h.view).trans h.warp
  have ht : s.rdTeam i = some t := by
    unfold State.rdTeam State.teamOf
    rw [h.view, h.warp]
    exact h.team
  have hsome : qs.isEmpty = false := by simpa using h.some_quarter
  unfold State.mat
  simp [h.issuing, hrange, h.named, h.threads, hw, ht, h.whole, hsome]

/-- A word of which no quarter takes part does nothing, once the flag it counts on has room. -/
theorem mat_idle (hi : s.iss = some i) (hk : i.kind = .thread) (hno : quartersOf (s.acting i) = ([], []))
    (hrange : ∀ r ∈ regs, r < 128) (hnamed : s.regError i regs [] = none)
    (k : Issue → Warp → Team → List (Nat × Nat) → State → State) {counts : Bool}
    (hroom : counts = true → s.flagRoom i.warp none (s.flagOf i none) = true) : s.mat regs k counts = s := by
  have hrange : regs.any (127 < ·) = false := by
    simpa using fun r hr => Nat.le_of_lt_succ (hrange r hr)
  have hflag : (counts && !s.flagRoom i.warp none (s.flagOf i none)) = false := by
    cases counts with
    | false => rfl
    | true => rw [hroom rfl]; rfl
  unfold State.mat
  simp only [hi, hrange, hnamed, hk, hno, hflag]
  cases s.rdWarp i with
  | none => rfl
  | some w => cases s.rdTeam i <;> rfl

theorem matrixWordsWithoutQuarters : MatrixWordsWithoutQuarters := by
  intro s i w t hi hk _ _ hno named
  have hidle {regs : List Nat} (hn : named regs) (k) {counts : Bool}
      (hroom : counts = true → s.flagRoom i.warp none (s.flagOf i none) = true) :
      Host.Outcome.next (s.mat regs k counts) = (.next s : Res) :=
    congrArg Host.Outcome.next (mat_idle hi hk hno hn.1 hn.2 k hroom)
  exact ⟨fun hn => hidle hn _ nofun, fun hroom =>
    ⟨fun f => ⟨fun hn => hidle hn _ fun _ => hroom, fun hn => hidle hn _ fun _ => hroom⟩,
      fun a f hn => hidle hn _ fun _ => hroom,
      fun tile a g hn => ⟨hidle hn _ fun _ => hroom, hidle hn _ fun _ => hroom⟩⟩⟩

/-! ### Acceptance (R174) -/

theorem acceptMop_counts {m : Mop} {vd : List (Nat × Nat)} (hroom : s.flagRoom i.warp none (s.flagOf i none) = true) :
    s.acceptMop i w m vd true = s.accepted i w m (s.flagOf i none) vd := by
  unfold State.acceptMop
  simp only [if_true, hroom]
  rfl

/-! ### The format vote and the planes (R178, R179) -/

theorem lanesOf_ne_nil (h : qs ≠ []) : lanesOf qs ≠ [] := by
  cases qs with
  | nil => exact absurd rfl h
  | cons e qs => simp [lanesOf, quarterLanes]

theorem mem_of_minNat? {xs : List Nat} {x : Nat} (h : minNat? xs = some x) : x ∈ xs :=
  List.min?_mem (minNat?_eq_min? xs ▸ h)

theorem minNat?_ne_none {xs : List Nat} (h : xs ≠ []) : minNat? xs ≠ none := by
  cases xs with
  | nil => exact absurd rfl h
  | cons x xs => exact nofun

theorem vote_agrees {f : BitVec 7} {word : Word} {fw : FmtWord} (h : VoteOk s i w f qs word fw) (hne : qs ≠ []) :
    s.vote i f (lanesOf qs) = .ok (word, fw) := by
  obtain ⟨hword, hvalid, hfmt, -⟩ := h
  obtain ⟨low, hlow⟩ := Option.ne_none_iff_exists'.mp (minNat?_ne_none (lanesOf_ne_nil hne))
  have hlowWord : s.rdV i low f.toNat = word := hword low (mem_of_minNat? hlow)
  have hsame : (lanesOf qs).filter (fun l => s.rdV i l f.toNat != word) = [] :=
    List.filter_eq_nil_iff.mpr fun l hl => by simp [hword l hl]
  simp only [State.vote, hlow, Option.getD_some, hlowWord, hsame, hvalid, hfmt]

theorem planes_stand {f : BitVec 7} {word : Word} {fw : FmtWord} (h : VoteOk s i w f qs word fw) :
    (qs.findSome? fun e => s.planeReason w.gs word e) = none := by
  obtain ⟨-, -, -, hplanes⟩ := h
  exact List.findSome?_eq_none_iff.mpr hplanes

/-! ### MMQ, MRD, MWR, MCLR and MSWAP -/

section
variable {f : FmtX} {word : Word} {fw : FmtWord}
  (h : s.ReadyMatrix i w t (regRange f.a.toNat 16 ++ [f.f.toNat]) qs) (hvote : VoteOk s i w f.f qs word fw)
  (hscale : fw.scale = 1 → f.a.toNat + 16 < 128 ∧ (w.vkey 0 (f.a.toNat + 16)).isSome = true)

include hscale in
/-- A scale register that the format word asks for is in range, and the warp holds it. -/
theorem scaleRegister_named : ¬(fw.scale = 1 ∧ 127 < f.a.toNat + 16) ∧
    ¬(fw.scale = 1 ∧ (w.vkey 0 (f.a.toNat + 16)).isNone = true) := by
  refine ⟨fun ⟨h1, h2⟩ => ?_, fun ⟨h1, h2⟩ => ?_⟩
  · have := (hscale h1).1
    omega
  · rw [Option.isNone_iff_eq_none] at h2
    simpa [h2] using (hscale h1).2

include h hvote hscale

theorem execMmq_held (hheld : (fw.scale = 1 && (lanesOf qs).any fun l => s.vHeld i.warp none l (f.a.toNat + 16)) = true) :
    exec (.mmq f) s = .next s.stall := by
  obtain ⟨hrange, hnamed⟩ := scaleRegister_named hscale
  show execMmq f s = _
  unfold execMmq
  rw [mat_ready h]
  simp only [vote_agrees hvote h.some_quarter, hrange, hnamed, hheld, if_false, if_true]

theorem execMmq_mapped {tm : List ((Nat × Nat) × Nat)} (hmap : tileMap t f.tile.toNat qs = .ok tm)
    (hfree : (fw.scale = 1 && (lanesOf qs).any fun l => s.vHeld i.warp none l (f.a.toNat + 16)) = false)
    (hroom : s.flagRoom i.warp none (s.flagOf i none) = true) : exec (.mmq f) s = .next (s.accepted i w { blankMop .mmq with
      fw := word
      quarters := tm.map fun e => { r := e.1.1, q := e.1.2, tile := e.2, rows := (quarterLanes e.1.1 e.1.2).map fun l =>
        { lane := l, bytes := wordsBytes ((regRange f.a.toNat 16).map fun r => s.rdV i l r)
          scale := if fw.scale = 1 then s.rdV i l (f.a.toNat + 16) else 0, off := 0, tile := e.2, row := l % 8, q := e.1.2
          undef := false } }
      arrays := arraysOf qs, tiles := dedup (tm.map (·.2))
      srcs := regRange f.a.toNat (if fw.scale = 1 then 17 else 16) } (s.flagOf i none) []) := by
  obtain ⟨hrange, hnamed⟩ := scaleRegister_named hscale
  show execMmq f s = _
  unfold execMmq
  rw [mat_ready h]
  simp only [vote_agrees hvote h.some_quarter, hrange, hnamed, hfree, hmap, planes_stand hvote, if_false, Bool.false_eq_true]
  exact congrArg Host.Outcome.next (acceptMop_counts hroom)

end

theorem tileMove_mapped {tile : BitVec 8} {a : BitVec 7} {g : BitVec 2} {tm : List ((Nat × Nat) × Nat)}
    (h : s.ReadyMatrix i w t (regRange a.toNat 16) qs) (hmap : tileMap t tile.toNat qs = .ok tm)
    (hroom : s.flagRoom i.warp none (s.flagOf i none) = true) {read : Bool}
    (hheld : (read && s.recruitHeld i (lanesOf qs) (regRange a.toNat 16)) = false) : s.tileMove tile a g read =
      s.accepted i w { blankMop (if read then .mrd else .mwr) with
        quarters := tm.map fun e => { r := e.1.1, q := e.1.2, tile := e.2, rows := (quarterLanes e.1.1 e.1.2).map fun l =>
          { lane := l, bytes := if read then [] else wordsBytes ((regRange a.toNat 16).map fun r => s.rdV i l r), scale := 0
            off := 0, tile := e.2, row := l % 8, q := e.1.2, undef := false } }
        arrays := arraysOf qs, tiles := dedup (tm.map (·.2)), g := g.toNat, d := a.toNat
        srcs := if read then [] else regRange a.toNat 16 } (s.flagOf i none)
        (if read then (lanesOf qs).flatMap fun l => (regRange a.toNat 16).map fun r => (l, r) else []) := by
  unfold State.tileMove
  rw [mat_ready h]
  simp only [hheld, hmap, Bool.false_eq_true, if_false]
  exact acceptMop_counts hroom

theorem execMclr_mapped {tile : BitVec 8} {n : BitVec 7} (h : s.ReadyOnce i w t) (hrange : tile.toNat + n.toNat ≤ 255)
    (hmapped : ∀ k, tile.toNat ≤ k → k ≤ tile.toNat + n.toNat → (tget t.tiles k).isSome = true)
    (hroom : s.flagRoom i.warp none (s.flagOf i none) = true) : exec (.mclr tile n) s = .next
      (s.accepted i w { blankMop .mclr with
        quarters := [{ r := 0, q := 0, tile := 0, rows := [] }], arrays := [0, 1, 2, 3]
        tiles := (regRange tile.toNat (n.toNat + 1)).map fun x => (tget t.tiles x).getD 0 } (s.flagOf i none) []) := by
  have hin : ¬255 < tile.toNat + n.toNat := by omega
  have hall : ((regRange tile.toNat (n.toNat + 1)).any fun x => (tget t.tiles x).isNone) = false := by
    rw [List.any_eq_false]
    intro k hk
    obtain ⟨hlo, hhi⟩ := mem_regRange.mp hk
    simpa [← Option.isSome_iff_ne_none] using hmapped k hlo (by omega)
  show execMclr tile n s = _
  unfold execMclr
  simp only [h.issuing, hin, h.threads, onControl_once h, h.warp, teamOf_once h, h.acts, hall, Bool.not_true, Bool.false_eq_true,
    if_false]
  exact congrArg Host.Outcome.next (acceptMop_counts hroom)

theorem execMswap_ready (h : s.ReadyMatrix i w t [] qs) : exec .mswap s = .next
    (State.accepted ((arraysOf qs).foldl (fun (u : State) q => u.modQArray w.gs q fun x =>
      { x with nextAct := x.nextSh, nextSh := x.nextAct }) s) i w { blankMop .mswap with
      quarters := (arraysOf qs).map fun q => { r := 0, q := q, tile := 0, rows := [] }, arrays := arraysOf qs } none []) := by
  show execMswap s = _
  unfold execMswap
  rw [mat_ready h]
  rfl

/-! ### MMG (R186, R188) -/

/-- `v` has taken choices and free values; nothing else differs from `s`. -/
def Chose (s v : State) : Prop := v = { s with freeCount := v.freeCount, oracle := v.oracle }

theorem Chose.trans {s u v : State} (h : Chose s u) (g : Chose u v) : Chose s v := by
  unfold Chose at *
  rw [g, h]

theorem chose_choose (s : State) (n : Nat) : Chose s (s.choose n).2 := by
  unfold State.choose
  split
  · rfl
  · split <;> rfl

theorem chose_matBytes (s : State) (wk core off n : Nat) : Chose s (s.matBytes wk core off n).2 := by
  rw [matBytes_eq]
  split
  · exact chose_choose s 2
  · rfl

/-- A choice changes nothing of what a matrix operation may read. -/
theorem Chose.matRead {s v : State} (h : Chose s v) {wk core off n : Nat} {bs : List Byte} (hv : MatRead v wk core off n bs) :
    MatRead s wk core off n bs := by
  rw [h] at hv
  exact hv

/-- One lane's row of an MMG is read. -/
def gather (wk core : Nat) (place : Nat → Nat) (row : State → Nat → List Byte → MRow) (p : List MRow × State) (l : Nat) :
    List MRow × State :=
  (p.1 ++ [row (p.2.matBytes wk core (place l) 64).2 l (p.2.matBytes wk core (place l) 64).1],
    (p.2.matBytes wk core (place l) 64).2)

/-- The rows of distinct lanes, read one after the other: each holds bytes that it may read in the first state. -/
theorem foldl_gather {wk core : Nat} {place : Nat → Nat} {row : State → Nat → List Byte → MRow}
    (hrow : ∀ s v, Chose s v → row v = row s) {ls : List Nat} (nd : ls.Nodup) (rows : List MRow) (s : State) :
    ∃ (bs : Nat → List Byte) (v : State), Chose s v ∧ (∀ l ∈ ls, MatRead s wk core (place l) 64 (bs l)) ∧
      ls.foldl (gather wk core place row) (rows, s) = (rows ++ ls.map fun l => row s l (bs l), v) := by
  induction ls generalizing rows s with
  | nil => exact ⟨fun _ => [], s, rfl, nofun, by simp⟩
  | cons a ls ih =>
    obtain ⟨ha, nd⟩ := List.nodup_cons.mp nd
    have hchose := chose_matBytes s wk core (place a) 64
    obtain ⟨bs, v, hv, hread, hfold⟩ := ih nd (gather wk core place row (rows, s) a).1 (s.matBytes wk core (place a) 64).2
    have hbs : ∀ l ∈ ls, Function.update bs a (s.matBytes wk core (place a) 64).1 l = bs l := fun l hl =>
      Function.update_of_ne (ne_of_mem_of_not_mem hl ha) _ _
    refine ⟨Function.update bs a (s.matBytes wk core (place a) 64).1, v, hchose.trans hv, fun l hl => ?_, ?_⟩
    · rcases List.mem_cons.mp hl with rfl | hl
      · rw [Function.update_self]
        exact matRead_matBytes ..
      · rw [hbs l hl]
        exact hchose.matRead (hread l hl)
    · have hmap := List.map_congr_left fun l hl => congrArg (row s l) (hbs l hl)
      rw [List.foldl_cons, List.map_cons, hmap, Function.update_self, List.append_cons]
      refine hfold.trans ?_
      rw [hrow _ _ hchose, gather, hrow _ _ hchose]

theorem nodup_lanesOf (h : s.ReadyMatrix i w t regs qs) : (lanesOf qs).Nodup := by
  have hall : lanesOf allQuarters = List.range 128 := rfl
  have hsub : qs.Sublist allQuarters := by
    rw [show qs = (quartersOf (s.acting i)).1 by rw [h.whole]]
    exact List.filter_sublist
  exact (hsub.flatMap _).nodup (hall.symm ▸ List.nodup_range : (lanesOf allQuarters).Nodup)

/-- The row that an MMG gathers for a lane: its place at `off`, its row number `j`. -/
def gatheredRow (i : Issue) (t : Team) (f : FmtX) (fw : FmtWord) (off j : Nat → Nat) (u : State) (l : Nat) (bs : List Byte) :
    MRow :=
  { lane := l, bytes := bs, scale := if fw.scale = 1 then u.rdV i l (f.a.toNat + 2) else 0, off := t.spbase + off l
    tile := (tget t.tiles (f.tile.toNat + j l / 8)).getD 0, row := j l % 8, q := l % 32 / 8, undef := false }

theorem gatheredRow_chose {f : FmtX} {fw : FmtWord} {off j : Nat → Nat} (s v : State) (h : Chose s v) :
    gatheredRow i t f fw off j v = gatheredRow i t f fw off j s := by
  rw [h]
  rfl

section
variable {f : FmtX} {word : Word} {fw : FmtWord} {off j : Nat → Nat}
  (h : s.ReadyMatrix i w t (regRange f.a.toNat 3 ++ [f.f.toNat]) qs) (hvote : VoteOk s i w f.f qs word fw)
  (hoff : off = fun l => (s.rdV i l f.a.toNat).toNat) (hj : j = fun l => (s.rdV i l (f.a.toNat + 1)).toNat)
  (hrows : ∀ l ∈ lanesOf qs, off l % 64 = 0 ∧ off l + 64 ≤ t.vals.spbytes ∧ f.tile.toNat + j l / 8 ≤ 255 ∧
    (tget t.tiles (f.tile.toNat + j l / 8)).isSome = true)
include h hvote hoff hj hrows

/-- MMG past its checks gathers the rows of its lanes. -/
theorem execMmg_checked : exec (.mmg f) s = .next (
    let p := (lanesOf qs).foldl (gather i.warp w.core (fun l => t.spbase + off l) (gatheredRow i t f fw off j))
      ([], s.spadPost i.warp)
    p.2.acceptMop i w { blankMop .mmg with
      fw := word, quarters := [{ r := 0, q := 0, tile := 0, rows := p.1 }], arrays := arraysOf qs
      tiles := dedup (p.1.map (·.tile)) } [] true) := by
  subst hoff hj
  have haligned : (lanesOf qs).filter (fun l => (s.rdV i l f.a.toNat).toNat % 64 != 0) = [] :=
    List.filter_eq_nil_iff.mpr fun l hl => by simpa using (hrows l hl).1
  have hinside : (lanesOf qs).filter (fun l => decide (t.vals.spbytes < (s.rdV i l f.a.toNat).toNat + 64)) = [] :=
    List.filter_eq_nil_iff.mpr fun l hl => by simpa using (hrows l hl).2.1
  have hnumbered : (lanesOf qs).filter (fun l => decide (255 < f.tile.toNat + (s.rdV i l (f.a.toNat + 1)).toNat / 8)) = [] :=
    List.filter_eq_nil_iff.mpr fun l hl => by simpa using (hrows l hl).2.2.1
  have hmapped : (lanesOf qs).filter (fun l =>
      (tget t.tiles (f.tile.toNat + (s.rdV i l (f.a.toNat + 1)).toNat / 8)).isNone) = [] :=
    List.filter_eq_nil_iff.mpr fun l hl => by simpa [← Option.isSome_iff_ne_none] using (hrows l hl).2.2.2
  show execMmg f s = _
  unfold execMmg
  rw [mat_ready h]
  simp only [vote_agrees hvote h.some_quarter, haligned, hinside, hnumbered, hmapped, planes_stand hvote]
  rfl

theorem execMmg_gathers (hroom : (s.spadPost i.warp).flagRoom i.warp none ((s.spadPost i.warp).flagOf i none) = true) :
    ∃ (bs : Nat → List Byte) (v : State), Chose (s.spadPost i.warp) v ∧
      (∀ l ∈ lanesOf qs, MatRead (s.spadPost i.warp) i.warp w.core (t.spbase + off l) 64 (bs l)) ∧
      let rows := (lanesOf qs).map fun l => gatheredRow i t f fw off j (s.spadPost i.warp) l (bs l)
      exec (.mmg f) s = .next (v.accepted i w { blankMop .mmg with
        fw := word, quarters := [{ r := 0, q := 0, tile := 0, rows := rows }], arrays := arraysOf qs
        tiles := dedup (rows.map (·.tile)) } ((s.spadPost i.warp).flagOf i none) []) := by
  obtain ⟨bs, v, hv, hread, hfold⟩ := foldl_gather (wk := i.warp) (core := w.core) (place := fun l => t.spbase + off l)
    (row := gatheredRow i t f fw off j) gatheredRow_chose (nodup_lanesOf h) [] (s.spadPost i.warp)
  have hflag : v.flagOf i none = (s.spadPost i.warp).flagOf i none := by
    rw [hv]
    rfl
  have hroomV : v.flagRoom i.warp none (v.flagOf i none) = true := by
    rw [hflag, hv]
    exact hroom
  refine ⟨bs, v, hv, hread, ?_⟩
  rw [execMmg_checked h hvote hoff hj hrows, hfold]
  dsimp only
  rw [acceptMop_counts hroomV, hflag, List.nil_append]

end

/-! ### MLDS (R180) -/

/-- The lane whose registers a quarter-array of an MLDS reads: the first of its first quarter. -/
def mldsLane (qs : List (Nat × Nat)) (q : Nat) : Nat := ((qs.find? fun e => e.2 == q).map fun e => 32 * e.1 + 8 * q).getD 0

theorem execMlds_checked {a f : BitVec 7} (h : s.ReadyMatrix i w t [a.toNat, f.toNat] qs)
    {src : Nat → Nat} (hsrc : src = mldsLane qs) {word : Nat → Word} (hword : word = fun q => s.rdV i (src q) f.toNat)
    {off : Nat → Nat} (hoff : off = fun q => (s.rdV i (src q) a.toNat).toNat)
    {size : Nat → Nat} (hsize : size = fun q => ((fmtWord (word q)).map planeSize).getD 0)
    (hgood : ∀ q ∈ arraysOf qs, fmtWordReason (word q) = none ∧ off q % 128 = 0 ∧ off q + size q ≤ t.vals.spbytes)
    (hroom : s.flagRoom i.warp none (s.flagOf i none) = true) :
    let pid (q : Nat) : PlaneId := { word := word q, off := off q, mlds := (s.spadPost i.warp).nextId }
    exec (.mlds a f) s = .next (State.acceptMop ((arraysOf qs).foldl (fun (u : State) q =>
        u.modQArray w.gs q fun x => { x with nextSh := some (pid q) }) (s.spadPost i.warp)) i w { blankMop .mlds with
      quarters := (arraysOf qs).map fun q => { r := 0, q := q, tile := 0, rows := [] }, arrays := arraysOf qs
      loads := (arraysOf qs).map fun q => (q, pid q, t.spbase + off q, size q) } [] true) := by
  have hlane : mldsLane qs = fun q => match qs.find? fun e => e.2 == q with
      | some e => 32 * e.1 + 8 * q
      | none => 0 := funext fun q => by
    unfold mldsLane
    cases qs.find? fun e => e.2 == q <;> rfl
  subst hsize hoff hword hsrc
  rw [hlane] at hgood ⊢
  show execMlds a f s = _
  unfold execMlds
  rw [mat_ready h]
  dsimp only
  rw [List.findSome?_eq_none_iff.mpr ?valid]
  case valid => exact fun q hq => (hgood q hq).1
  dsimp only
  rw [List.filter_eq_nil_iff.mpr ?aligned]
  case aligned => exact fun q hq hodd => bne_iff_ne.mp hodd (hgood q hq).2.1
  dsimp only
  rw [List.filter_eq_nil_iff.mpr ?inside, hroom]
  case inside => exact fun q hq hover => Nat.not_lt.mpr (hgood q hq).2.2 (of_decide_eq_true hover)
  rfl

theorem matrixWords : MatrixWords := by
  refine ⟨?mmq, ?mmg, fun s i w t qs h => execMswap_ready h, ?tiles,
    fun s i w t tile n h hrange hmapped hroom => execMclr_mapped h hrange hmapped hroom, ?mlds⟩
  case mmq =>
    intro s i w t f qs word fw tm h hvote hscale
    exact ⟨fun h1 ⟨l, hl, hheld⟩ => execMmq_held h hvote hscale (by simpa [h1] using ⟨l, hl, hheld⟩),
      fun hfree hmap hroom => execMmq_mapped h hvote hscale hmap (by simpa using hfree) hroom⟩
  case mmg =>
    intro s i w t f qs word fw h hvote off j hrows u hroom
    exact execMmg_gathers h hvote rfl rfl hrows hroom
  case tiles =>
    intro s i w t tile a g qs tm h hmap hroom row m
    exact ⟨fun hheld => congrArg Host.Outcome.next (tileMove_mapped h hmap hroom (read := true) hheld),
      congrArg Host.Outcome.next (tileMove_mapped h hmap hroom (read := false) rfl)⟩
  case mlds =>
    intro s i w t a f qs h src word off size hgood hroom pid u hroomU
    rw [execMlds_checked h (src := src) rfl rfl rfl rfl hgood hroom]
    exact congrArg Host.Outcome.next (acceptMop_counts hroomU)

/-- Settles O30, by running each word past its checks; the rows of an MMG by induction on its lanes. -/
theorem matrixWordsAreAccepted : Obligations.MatrixWordsAreAccepted := ⟨matrixWords, matrixWordsWithoutQuarters⟩

end Sys2Proof.Laws
end

section
/-! PROOF of O32: what TLR_FILL does with an answer of more bytes than a layout record has. -/

namespace Sys2Proof.Laws

open Sys2Proof.Machine Sys2Proof.Claims

/-- The key under which core 0 keeps what it has read of the record at address 0 of context 0. -/
def fillKey : Nat := 2 ^ 100

/-- The request for the 192 bytes of that record, where another device holds its page. -/
def recordRequest : SkReq := { tag := 0, dst := 3, ctx := 0, va := 0, pa := 0, who := .desc fillKey, stamp := 0 }

/-- The device has answered with 193 bytes, and all of them are kept for the fill. -/
def longAnswer : State := (State.reset.place 0#32).answer recordRequest { blankMsg with data := List.replicate 193 0 }

theorem longAnswer_keeps : (longAnswer.descs.find? fun e => e.1 == fillKey) = some (fillKey, List.replicate 193 0) := by
  have hanswer := (answer_desc (s := State.reset.place 0#32) (r := recordRequest)
    (m := { blankMsg with data := List.replicate 193 0 }) rfl (by decide)).1 rfl (by decide)
  rw [longAnswer, hanswer]
  rfl

/-- TLR_FILL enters no more than the record's 192 bytes of it. -/
theorem longAnswer_cut (v : State) (h : exec (.tlrFill 0 0 0) longAnswer = .next v) : ∀ e ∈ v.tlrs, e.bytes.length = 192 := by
  have hrun : (match execTlrFill 0 0 0 longAnswer with
    | .next v => v.tlrs.all fun e => e.bytes.length == 192
    | _ => true) = true := by decide +kernel
  have h : execTlrFill 0 0 0 longAnswer = .next v := h
  rw [h] at hrun
  simpa using hrun

/-- Refutes O32: another device's answer is kept as it came, and TLR_FILL takes the record's 192 bytes of it. The claim has all that
is kept enter the cache, and no premise bounds it: after an answer of 193 bytes, the entry that TLR_FILL makes has one fewer. -/
theorem not_copyWordsAndEngine : ¬ Obligations.CopyWordsAndEngine := by
  rintro ⟨-, -, -, hfill, -, -⟩
  obtain ⟨-, -, hkept⟩ := hfill longAnswer 0 0 0 fillKey (by decide) (by decide) (by decide)
  obtain ⟨henters, -⟩ := hkept (List.replicate 193 0) longAnswer_keeps
  have hlength := longAnswer_cut _ (henters (by decide)) _ (List.mem_append_right _ List.mem_cons_self)
  rw [List.length_replicate] at hlength
  omega

end Sys2Proof.Laws
end

section
/-! PROOF of O42: what EVPOP does with a record that holds fewer words than the four of R195. -/

namespace Sys2Proof.Laws

open Sys2Proof.Machine Sys2Proof.Claims

/-- A record of one word. EVPUSH makes records of four, but a queue may hold any. -/
def shortRecord : EvRec :=
  { detail := 0, team := 0, status := 0, minor := 0, source := 0, id := 0, ctx := 0, seq := 0, raw := [0] }

def poppingGroup : Issue := blankIssue 1 .thread [0] 4

/-- Thread 0 of warp 1 issues, and its core's queue holds `shortRecord`. -/
def shortQueue : State :=
  { State.reset.place 0#32 with iss := some poppingGroup, cores := [(0, { blankCore with evq := [shortRecord] })] }

theorem shortQueue_ready :
    TaskReady shortQueue poppingGroup (wordWarp 4) wordTeam 1 [] (regRange 0 4) 0 (shortQueue.flagOf poppingGroup (some 0)) :=
  { issuing := rfl, threads := rfl, view := rfl, warp := rfl, team := rfl, leader := rfl, unheld := by decide
    vectors := fun h => absurd h (by decide), scalars := fun _ _ => rfl }

/-- EVPOP writes the record's one word: s1 stays unwritten. -/
theorem shortQueue_unwritten (v : State) (h : exec (.evpop 0 1 1 0) shortQueue = .next v) :
    (v.warp 1).bind (fun w => tget w.sregs 1) = none := by
  have hrun : (match execEvpop 0 1 1 0 shortQueue with
    | .next v => ((v.warp 1).bind fun w => tget w.sregs 1).isNone
    | _ => true) = true := by decide +kernel
  have h : execEvpop 0 1 1 0 shortQueue = .next v := h
  rw [h] at hrun
  exact Option.isNone_iff_eq_none.mp hrun

/-- Refutes O42: EVPOP writes a register for each word of the record it takes. No premise says that the records of a queue hold
four words, and of one that holds a single word the other three registers stay as they were, where the claim has them read
zero. -/
theorem not_eventRecordWords : ¬ Obligations.EventRecordWords := by
  rintro ⟨hpop, -, -, -⟩
  obtain ⟨v, hv, -, hregs, -⟩ := hpop shortQueue poppingGroup (wordWarp 4) wordTeam 0 1 0 0
    { blankCore with evq := [shortRecord] } shortQueue_ready rfl (fun h => absurd h (by decide)) (by decide)
  have hs1 : Holds v 1 0 1 1 0 := hregs 1 (by decide)
  obtain ⟨w, hw, hget⟩ := hs1
  have hnone := shortQueue_unwritten v hv
  rw [hw, Option.bind_some, hget] at hnone
  cases hnone

end Sys2Proof.Laws
end

section
/-! PROOF of O25: the steps that move a write along its path (R207), and what a write at the final point leaves to read (R208). -/

namespace Sys2Proof.Laws

open Sys2Proof.Machine Sys2Proof.Claims

variable {s : State}

/-! ### Tables with entries set one after the other -/

theorem tget_foldl_tset_of_notMem {α β : Type} {key : β → Nat} {val : β → α} {l : List β} {k : Nat}
    (h : ∀ x ∈ l, k ≠ key x) (t : Tab α) : tget (l.foldl (fun t x => tset t (key x) (val x)) t) k = tget t k := by
  induction l generalizing t with
  | nil => rfl
  | cons x l ih =>
    obtain ⟨hx, hl⟩ := List.forall_mem_cons.mp h
    exact (ih hl _).trans (tget_tset_other t (key x) k (val x) hx)

theorem tget_foldl_tset_of_mem {α β : Type} {key : β → Nat} {val : β → α} {l : List β} (hd : (l.map key).Nodup) {x : β}
    (hx : x ∈ l) (t : Tab α) : tget (l.foldl (fun t x => tset t (key x) (val x)) t) (key x) = some (val x) := by
  induction l generalizing t with
  | nil => exact absurd hx List.not_mem_nil
  | cons y l ih =>
    obtain ⟨hy, hl⟩ := List.nodup_cons.mp hd
    rcases List.mem_cons.mp hx with rfl | hx
    · rw [List.foldl_cons, tget_foldl_tset_of_notMem fun z hz he => hy (List.mem_map.mpr ⟨z, hz, he.symm⟩), tget_tset_same]
    · exact ih hl hx _

theorem mget_foldl_mset_of_notMem {l : List (Nat × Byte)} {a : Nat} (h : ∀ e ∈ l, a ≠ e.1) (m : Memory) :
    mget (l.foldl (fun m e => mset m e.1 e.2) m) a = mget m a := by
  induction l generalizing m with
  | nil => rfl
  | cons e l ih =>
    obtain ⟨he, hl⟩ := List.forall_mem_cons.mp h
    rw [List.foldl_cons, ih hl, mget_mset, if_neg he]

theorem ne_of_tget_eq_none {α : Type} {t : Tab α} {k : Nat} (h : tget t k = none) : ∀ e ∈ t, k ≠ e.1 :=
  fun _ he hk => tget_ne_none_of_mem he (hk ▸ h)

/-! ### What is noted of uncorrectable code words -/

/-- `t` differs from `s` at most in what it knows of uncorrectable code words. -/
def OnlyUe (s t : State) : Prop := t = { s with m := { s.m with ue := t.m.ue } }

theorem OnlyUe.trans {s t u : State} (h : OnlyUe s t) (g : OnlyUe t u) : OnlyUe s u := by
  unfold OnlyUe at *
  rw [g, h]

theorem onlyUe_noteWritten (a n : Nat) : OnlyUe s (s.noteWritten a n) := by
  unfold State.noteWritten
  split <;> rfl

theorem onlyUe_noteDropped (a n : Nat) : OnlyUe s (s.noteDropped a n) := by
  unfold State.noteDropped
  split <;> rfl

theorem onlyUe_noteWhole (a n : Nat) : OnlyUe s (s.noteWhole a n) := by
  unfold State.noteWhole
  split <;> rfl

theorem onlyUe_foldl {α : Type} {f : State → α → State} (hf : ∀ t x, OnlyUe t (f t x)) (l : List α) (s : State) :
    OnlyUe s (l.foldl f s) :=
  foldl_keeps (OnlyUe s) (fun t x h => h.trans (hf t x)) l rfl

theorem OnlyUe.homeByte {s t : State} (h : OnlyUe s t) (a : Nat) : t.homeByte a = s.homeByte a := by
  rw [h]
  rfl

/-- A drop changes no syndrome. -/
theorem noteDropped_syndromes (a n : Nat) :
    (s.noteDropped a n).m.ue.map (fun e => (e.1, e.2.syndrome)) = s.m.ue.map fun e => (e.1, e.2.syndrome) := by
  unfold State.noteDropped
  split
  · rfl
  · rw [List.map_map]
    rfl

/-! ### POST (R207) -/

theorem exec_post_oldest {x : Wr} (hx : (s.m.tbuf.find? fun y => y.id == x.id) = some x) (ho : s.oldestWr x = true) :
    exec (.post x.id) s = .next (s.postWr x (s.ctxOf x.warp)) := by
  show execPost x.id s = _
  rw [execPost, hx]
  exact congrArg _ (if_pos ho)

theorem exec_post_waits {x : Wr} (hx : (s.m.tbuf.find? fun y => y.id == x.id) = some x) (ho : s.oldestWr x = false) :
    exec (.post x.id) s = .next (s.pend (.post x.id)) := by
  show execPost x.id s = _
  rw [execPost, hx]
  exact congrArg _ (if_neg (by simp [ho]))

/-! ### PUSH (R207, R253) -/

theorem homeWrite_unsettled {l : List (Nat × Byte)} (h : l ≠ []) :
    (s.homeWrite l).m.unsettled = s.m.unsettled ++ [{ stamp := s.stampCtr + 1, bytes := l }] := by
  cases l with
  | nil => exact absurd rfl h
  | cons e l => rfl

theorem homeWrite_stampCtr {l : List (Nat × Byte)} (h : l ≠ []) : (s.homeWrite l).stampCtr = s.stampCtr + 1 := by
  cases l with
  | nil => exact absurd rfl h
  | cons e l => rfl

/-- PUSH of a dirty byte, by what its write leaves at the home point. -/
theorem pushByte_eq {core pa : Nat} {l : List (Nat × Byte)} {u : State} (hl : s.dirtyGroup core pa = l) (hne : l ≠ [])
    (hu : s.homeWrite l = u) : s.pushByte core pa = { u with m := { u.m with
      cDirty := l.foldl (fun t e => terase t (ckey core e.1)) u.m.cDirty
      cClean := (if u.homeBad (l.map (·.1)) then [] else l).foldl
        (fun t e => tset t (ckey core e.1) { byte := e.2, stamp := u.stampCtr, gone := none }) u.m.cClean } } := by
  subst hl hu
  unfold State.pushByte
  split
  next h => exact absurd h hne
  next => rfl

/-- No byte is twice among those that a PUSH moves. -/
theorem nodup_dirtyGroup (core pa : Nat) : ((s.dirtyGroup core pa).map fun e => ckey core e.1).Nodup := by
  unfold State.dirtyGroup
  split
  · exact List.nodup_nil
  next b g _ =>
    refine List.pairwise_map.mpr (List.Pairwise.filterMap _ ?_ (List.nodup_range (n := 8)))
    intro i j hij x hx y hy
    obtain ⟨p, -, hp⟩ := Option.bind_eq_some_iff.mp hx
    obtain ⟨q, -, hq⟩ := Option.bind_eq_some_iff.mp hy
    obtain ⟨-, hp⟩ := Option.ite_none_right_eq_some.mp hp
    obtain ⟨-, hq⟩ := Option.ite_none_right_eq_some.mp hq
    cases hp
    cases hq
    show ckey core (pa / 8 * 8 + i) ≠ ckey core (pa / 8 * 8 + j)
    unfold ckey
    omega

theorem dirtyGroup_pushByte (core pa : Nat) : (s.pushByte core pa).dirtyGroup core pa = [] := by
  have hnone : tget (s.pushByte core pa).m.cDirty (ckey core pa) = none := by
    cases h : tget (s.pushByte core pa).m.cDirty (ckey core pa) with
    | none => rfl
    | some x => exact absurd rfl (mem_cDirty_pushByte (mem_of_tget h)).2
  unfold State.dirtyGroup
  rw [hnone]

/-- What PUSH of a dirty byte does, at the home point and at the core. -/
theorem exec_push {core a : Nat} (h : s.dirtyGroup core a ≠ []) : ∃ t, exec (.push core a) s = .next t ∧
    t.m.unsettled = s.m.unsettled ++ [{ stamp := s.stampCtr + 1, bytes := s.dirtyGroup core a }] ∧ t.m.mem = s.m.mem ∧
    t.dirtyGroup core a = [] ∧
    (t.homeBad ((s.dirtyGroup core a).map (·.1)) = false → ∀ e ∈ s.dirtyGroup core a,
      tget t.m.cClean (ckey core e.1) = some { byte := e.2, stamp := s.stampCtr + 1, gone := none }) := by
  have heq := pushByte_eq rfl h rfl
  refine ⟨s.pushByte core a, rfl, ?_, ?_, dirtyGroup_pushByte core a, fun hbad e he => ?clean⟩
  · rw [heq]
    exact homeWrite_unsettled h
  · rw [heq]
    exact homeWrite_mem s _
  case clean =>
    have hsound : (s.homeWrite (s.dirtyGroup core a)).homeBad ((s.dirtyGroup core a).map (·.1)) = false := by
      rw [heq] at hbad
      exact hbad
    rw [heq, hsound, ← homeWrite_stampCtr h]
    exact tget_foldl_tset_of_mem (nodup_dirtyGroup core a) he _

/-! ### SETTLE (R207) -/

/-- The write that a SETTLE of a byte takes, where no older write shares a byte with it. -/
theorem settleNext_of_first {a : Nat} {older newer : List HWr} {x : HWr} (hx : x.writes a = true)
    (ho : ∀ y ∈ older, y.writes a = false ∧ y.overlaps x = false) : settleNext (older ++ x :: newer) a = some x := by
  have hfind : (older ++ x :: newer).find? (fun w => w.writes a) = some x :=
    List.find?_eq_some_iff_append.mpr ⟨hx, older, newer, rfl, fun y hy => by simp [(ho y hy).1]⟩
  have htake : (older ++ x :: newer).takeWhile (fun w => !w.writes a) = older := by
    rw [List.takeWhile_append_of_pos fun y hy => by simp [(ho y hy).1], List.takeWhile_cons_of_neg (by simp [hx]),
      List.append_nil]
  have hfree : older.foldr (fun y acc => if acc.any y.overlaps then y :: acc else acc) [x] = [x] := by
    clear hfind htake
    induction older with
    | nil => rfl
    | cons y older ih =>
      obtain ⟨hy, hrest⟩ := List.forall_mem_cons.mp ho
      rw [List.foldr_cons, ih hrest]
      simp [hy.2]
  unfold settleNext
  rw [hfind, Option.bind_some, htake, hfree]
  rfl

/-- A settled write stands in the bank, and as a clean copy at the home point. -/
theorem settleWr_eq (w : HWr) : OnlyUe { s with m := { s.m with
    unsettled := s.m.unsettled.erase w
    mem := w.bytes.foldl (fun t e => mset t e.1 e.2) s.m.mem
    hClean := w.bytes.foldl (fun t e => tset t e.1 e.2) s.m.hClean } } (s.settleWr w) :=
  onlyUe_foldl (f := fun t (e : Nat × Byte) => t.noteWritten e.1 1) (fun _ _ => onlyUe_noteWritten _ _) _ _

theorem exec_settle {a : Nat} {x : HWr} (h : settleNext s.m.unsettled a = some x) : ∃ t, exec (.settle a) s = .next t ∧
    t.m.unsettled = s.m.unsettled.erase x ∧ t.m.mem = x.bytes.foldl (fun m e => mset m e.1 e.2) s.m.mem := by
  refine ⟨s.settleWr x, ?_, ?_, ?_⟩
  · show execSettle a s = _
    rw [execSettle, h]
  · rw [settleWr_eq]
  · rw [settleWr_eq]

/-! ### The steps -/

theorem orderingSteps : OrderingSteps := by
  refine ⟨?post, fun s x hx ho => exec_post_waits hx ho, fun s core a h => exec_push h,
    fun a older newer x hx ho => settleNext_of_first hx ho, fun s a x h => exec_settle h, fun s core a => ⟨rfl, ?drop⟩⟩
  case post =>
    intro s x hx ho u
    have post := exec_post_oldest hx ho
    refine ⟨fun k o hl => ?_, fun k o hl => ?_, fun pa hl => ?_, fun pa hl => ?_, fun pa hl => ?_, fun c ha hl => ?_⟩
    case refine_3 => rcases hl with hl | hl <;> · rw [post, State.postWr, hl]
    all_goals rw [post, State.postWr, hl]
  case drop => exact ⟨_, rfl, onlyUe_noteDropped (a / 8 * 8) 8, noteDropped_syndromes (a / 8 * 8) 8⟩

/-! ### What home points hold while writes settle -/

theorem unsettledByte_cons (w : HWr) (l : List HWr) (a : Nat) :
    unsettledByte (w :: l) a = (unsettledByte l a).or (tget w.bytes a) := by
  induction l using List.reverseRecOn with
  | nil => unfold unsettledByte; cases h : tget w.bytes a <;> simp [h]
  | append_singleton l x ih =>
    rw [← List.cons_append, unsettledByte_append, unsettledByte_append, ih]
    cases tget x.bytes a <;> rfl

theorem unsettledByte_append_list (l r : List HWr) (a : Nat) :
    unsettledByte (l ++ r) a = (unsettledByte r a).or (unsettledByte l a) := by
  induction l with
  | nil => exact (Option.or_none ..).symm
  | cons w l ih => rw [List.cons_append, unsettledByte_cons, ih, unsettledByte_cons, Option.or_assoc]

theorem unsettledByte_eq_none {l : List HWr} {a : Nat} (h : ∀ w ∈ l, tget w.bytes a = none) : unsettledByte l a = none := by
  induction l with
  | nil => rfl
  | cons w l ih =>
    obtain ⟨hw, hl⟩ := List.forall_mem_cons.mp h
    rw [unsettledByte_cons, ih hl, hw]
    rfl

/-- Does a write at a home point write a byte of block `b`? -/
def HWr.inBlock (w : HWr) (b : Nat) : Bool := w.bytes.any fun e => e.1 / 8 == b

theorem tget_eq_none_of_inBlock {w : HWr} {a : Nat} (h : HWr.inBlock w (a / 8) = false) : tget w.bytes a = none := by
  cases ha : tget w.bytes a with
  | none => rfl
  | some v =>
    have : HWr.inBlock w (a / 8) = true := List.any_eq_true.mpr ⟨(a, v), mem_of_tget ha, beq_self_eq_true _⟩
    rw [h] at this
    cases this

/-- What `State.unsettledOk` says of one write. -/
structure HWr.Ok (w : HWr) : Prop where
  nodup : (w.bytes.map (·.1)).Nodup
  block : ∀ e ∈ w.bytes, ∀ f ∈ w.bytes, e.1 / 8 = f.1 / 8

theorem unsettledOk_iff : s.unsettledOk = true ↔ ∀ w ∈ s.m.unsettled, HWr.Ok w := by
  simp only [State.unsettledOk, List.all_eq_true, Bool.and_eq_true, decide_eq_true_eq, beq_iff_eq]
  exact ⟨fun h w hw => ⟨(h w hw).1, (h w hw).2⟩, fun h w hw => ⟨(h w hw).nodup, (h w hw).block⟩⟩

/-- A home point holds the same after its oldest write of a block has settled. -/
theorem homeByte_settleWr {older newer : List HWr} {w : HWr} {b : Nat} (hl : s.m.unsettled = older ++ w :: newer)
    (hw : HWr.Ok w) (hb : HWr.inBlock w b = true) (ho : ∀ y ∈ older, HWr.inBlock y b = false) (a : Nat) :
    (s.settleWr w).homeByte a = s.homeByte a := by
  have habsent : w ∉ older := fun h => by simp [ho w h] at hb
  rw [(settleWr_eq w).homeByte, State.homeByte, State.homeByte, hl, List.erase_append_right _ habsent, List.erase_cons_head]
  dsimp only
  rw [unsettledByte_append_list, unsettledByte_append_list, unsettledByte_cons]
  cases ha : tget w.bytes a with
  | none =>
    have hne := ne_of_tget_eq_none ha
    rw [tget_foldl_tset_of_notMem (key := fun e : Nat × Byte => e.1) (val := fun e => e.2) hne,
      mget_foldl_mset_of_notMem hne, Option.or_none]
  | some v =>
    have hmem := mem_of_tget ha
    obtain ⟨e, he, heb⟩ := List.any_eq_true.mp hb
    have hblock : a / 8 = b := (hw.block _ hmem e he).trans (beq_iff_eq.mp heb)
    have hold : unsettledByte older a = none :=
      unsettledByte_eq_none fun y hy => tget_eq_none_of_inBlock (hblock ▸ ho y hy)
    rw [hold, tget_foldl_tset_of_mem (key := fun e : Nat × Byte => e.1) (val := fun e => e.2) hw.nodup hmem]
    cases unsettledByte newer a <;> rfl

/-- `t` is `s` after writes have settled: none is new, and home points hold the same. -/
structure Settles (s t : State) : Prop where
  unsettled : t.m.unsettled ⊆ s.m.unsettled
  homeByte : ∀ a, t.homeByte a = s.homeByte a

theorem Settles.refl (s : State) : Settles s s := ⟨List.Subset.refl _, fun _ => rfl⟩

theorem Settles.trans {s t u : State} (h : Settles s t) (g : Settles t u) : Settles s u :=
  ⟨List.Subset.trans g.unsettled h.unsettled, fun a => (g.homeByte a).trans (h.homeByte a)⟩

theorem Settles.ok {s t : State} (h : Settles s t) (hs : s.unsettledOk = true) : t.unsettledOk = true :=
  unsettledOk_iff.mpr fun w hw => unsettledOk_iff.mp hs w (h.unsettled hw)

theorem settles_foldl {α : Type} {f : State → α → State} (hf : ∀ t x, t.unsettledOk = true → Settles t (f t x)) (l : List α)
    (hs : s.unsettledOk = true) : Settles s (l.foldl f s) :=
  foldl_keeps (Settles s) (fun t x h => h.trans (hf t x (h.ok hs))) l (Settles.refl s)

/-- The oldest write of a block settles, where there is one. -/
theorem settleBlock_cases (s : State) (b : Nat) :
    (s.settleBlock b = s ∧ ∀ w ∈ s.m.unsettled, HWr.inBlock w b = false) ∨
    ∃ older w newer, s.m.unsettled = older ++ w :: newer ∧ HWr.inBlock w b = true ∧
      (∀ y ∈ older, HWr.inBlock y b = false) ∧ s.settleBlock b = s.settleWr w := by
  unfold State.settleBlock
  split
  next h => exact .inl ⟨rfl, fun w hw => Bool.eq_false_iff.mpr (List.find?_eq_none.mp h w hw)⟩
  next w h =>
    obtain ⟨hw, older, newer, hl, ho⟩ := List.find?_eq_some_iff_append.mp h
    exact .inr ⟨older, w, newer, hl, hw, fun y hy => (Bool.not_eq_true' _).mp (ho y hy), rfl⟩

theorem unsettled_settleWr {older newer : List HWr} {w : HWr} {b : Nat} (hl : s.m.unsettled = older ++ w :: newer)
    (hb : HWr.inBlock w b = true) (ho : ∀ y ∈ older, HWr.inBlock y b = false) :
    (s.settleWr w).m.unsettled = older ++ newer := by
  have habsent : w ∉ older := fun h => by simp [ho w h] at hb
  rw [settleWr_eq, hl]
  dsimp only
  rw [List.erase_append_right _ habsent, List.erase_cons_head]

theorem settles_settleBlock (b : Nat) (hs : s.unsettledOk = true) : Settles s (s.settleBlock b) := by
  rcases settleBlock_cases s b with ⟨heq, -⟩ | ⟨older, w, newer, hl, hb, ho, heq⟩
  · rw [heq]
    exact Settles.refl s
  · rw [heq]
    have hw : HWr.Ok w := unsettledOk_iff.mp hs w (by simp [hl])
    refine ⟨?_, homeByte_settleWr hl hw hb ho⟩
    rw [unsettled_settleWr hl hb ho, hl]
    exact (List.append_subset.mpr ⟨List.subset_append_left .., fun y hy => by simp [hy]⟩)

theorem settles_settleBlockAll (b : Nat) (hs : s.unsettledOk = true) : Settles s (s.settleBlockAll b) :=
  settles_foldl (fun _ _ h => settles_settleBlock b h) _ hs

theorem settles_foldl_settleBlockAll (blks : List Nat) (hs : s.unsettledOk = true) :
    Settles s (blks.foldl State.settleBlockAll s) :=
  settles_foldl (fun _ b h => settles_settleBlockAll b h) blks hs

/-- As many settles of a block as it has writes leave none. -/
theorem notInBlock_foldl_settleBlock {b : Nat} {l : List HWr} {s : State}
    (hn : (s.m.unsettled.filter fun w => HWr.inBlock w b).length ≤ l.length) :
    ∀ w ∈ (l.foldl (fun s _ => s.settleBlock b) s).m.unsettled, HWr.inBlock w b = false := by
  induction l generalizing s with
  | nil => exact fun w hw => by simpa using List.filter_eq_nil_iff.mp (List.eq_nil_of_length_eq_zero (Nat.le_zero.mp hn)) w hw
  | cons x l ih =>
    refine ih (s := s.settleBlock b) ?_
    rcases settleBlock_cases s b with ⟨heq, hnone⟩ | ⟨older, w, newer, hl, hb, ho, heq⟩
    · rw [heq, List.filter_eq_nil_iff.mpr fun w hw => by simp [hnone w hw]]
      exact Nat.zero_le _
    · rw [heq, unsettled_settleWr hl hb ho]
      rw [hl] at hn
      simp only [List.filter_append, List.filter_cons, hb, if_true, List.length_append, List.length_cons] at hn ⊢
      omega

theorem notInBlock_settleBlockAll (b : Nat) : ∀ w ∈ (s.settleBlockAll b).m.unsettled, HWr.inBlock w b = false :=
  notInBlock_foldl_settleBlock (Nat.le_refl _)

/-- Before a final write its blocks hold no unsettled write. -/
theorem unsettledByte_settled {blks : List Nat} {x : Nat} (hx : x / 8 ∈ blks) (hs : s.unsettledOk = true) :
    unsettledByte (blks.foldl State.settleBlockAll s).m.unsettled x = none := by
  obtain ⟨r, q, rfl⟩ := List.append_of_mem hx
  rw [List.foldl_append, List.foldl_cons]
  have hr := (settles_foldl_settleBlockAll r hs).ok hs
  have hx := (settles_settleBlockAll (x / 8) hr).ok hr
  have hq := settles_foldl_settleBlockAll q hx
  exact unsettledByte_eq_none fun w hw => tget_eq_none_of_inBlock (notInBlock_settleBlockAll _ w (hq.unsettled hw))

/-! ### Final writes (R208) -/

/-- What home points hold after a final write. -/
theorem homeByte_finalWrite (a x : Nat) (data : List Byte) (hs : s.unsettledOk = true) :
    (s.finalWrite a data).homeByte x = if a ≤ x ∧ x < a + data.length then data.getD (x - a) 0 else s.homeByte x := by
  have hue : OnlyUe _ (s.finalWrite a data) := OnlyUe.trans (onlyUe_noteDropped _ _) (onlyUe_noteWhole _ _)
  have hsettles := settles_foldl_settleBlockAll (blocksOf a data.length) hs
  rw [hue.homeByte, State.homeByte]
  dsimp only [State.stampBytes]
  rw [tget_tclear, mget_mstore]
  by_cases hx : a ≤ x ∧ x < a + data.length
  · rw [if_pos hx, if_pos hx, if_pos hx, unsettledByte_settled (mem_blocksOf hx) hs]
  · rw [if_neg hx, if_neg hx, if_neg hx]
    exact hsettles.homeByte x

theorem finalWrites : FinalWrites := by
  intro s a data _ hs
  refine ⟨fun k hk => ?_, fun b hb => ?_⟩
  · rw [homeByte_finalWrite a (a + k) data hs, if_pos (by omega), Nat.add_sub_cancel_left, List.getD_eq_getElem _ _ hk,
      List.getElem?_eq_getElem hk]
  · rw [homeByte_finalWrite a b data hs, if_neg (by omega)]

/-- Settles O25: each step moves its write by one point of the path, and a final write leaves no unsettled write of its blocks,
whose earlier writes have settled without a change of what their home points hold. -/
theorem orderingStepsMoveWrites : Obligations.OrderingStepsMoveWrites := ⟨orderingSteps, finalWrites⟩

end Sys2Proof.Laws
end

section
/-! PROOF of O36: what banks do with the entries of their queues, their restores and snapshots (R216, R238, R246, R249, R250),
and the restore functions (R240, R241). -/

namespace Sys2Proof.Laws

open Sys2Proof.Machine Sys2Proof.Claims

variable {s : State}

/-! ### SERVE and SWURGE_ACTIVATION (R216, R250) -/

theorem exec_serve_oldest {e : QEnt} (he : (s.sw.bankq.find? fun x => x.id == e.id) = some e)
    (ho : s.oldestEnt (e.pa / 1024) = some e) : exec (.serve e.id) s = .next (s.serveEnt e) := by
  show execServe e.id s = _
  rw [execServe, he]
  exact congrArg _ (if_pos (by rw [ho]; rfl))

theorem exec_serve_waits {e f : QEnt} (he : (s.sw.bankq.find? fun x => x.id == e.id) = some e)
    (hf : s.oldestEnt (e.pa / 1024) = some f) (hne : f.id ≠ e.id) :
    exec (.serve e.id) s = .next (s.pend (.serve e.id)) := by
  show execServe e.id s = _
  rw [execServe, he]
  exact congrArg _ (if_neg (by rw [hf]; simpa using hne))

theorem olderShot_eq_false {row id : Nat} (h : ∀ x ∈ s.sw.shots, x.st = .sent → x.row = row → id ≤ x.id) :
    s.olderShot row id = false := by
  refine List.any_eq_false.mpr fun x hx hc => ?_
  simp only [Bool.and_eq_true, beq_iff_eq, decide_eq_true_eq] at hc
  obtain ⟨⟨hst, hrow⟩, hid⟩ := hc
  exact absurd hid (Nat.not_lt.mpr (h x hx hst hrow))

theorem exec_swurgeActivation {e : QEnt} (he : (s.sw.bankq.find? fun x => x.id == e.id) = some e)
    (ho : s.oldestEnt (e.pa / 1024) = some e)
    (hs : ∀ x ∈ s.sw.shots, x.st = .sent → x.row = e.pa / 1024 → e.id ≤ x.id) :
    exec (.swurgeActivation e.id) s = .next (s.serveEnt e) := by
  show execSwurgeActivation e.id s = _
  rw [execSwurgeActivation, he]
  exact congrArg _ (if_pos ⟨by rw [ho]; rfl, olderShot_eq_false hs⟩)

/-! ### Entries served (R216, R251) -/

/-- A demand activation of a sound row without requests stores nothing. -/
theorem restoreRow_mem_quiet (row : Nat) (who : Option (Nat × Nat)) (hue : s.m.ue = []) (hs : s.sw.shots = []) :
    (s.restoreRow row false who).m.mem = s.m.mem := by
  simp [State.restoreRow, State.rowUe, State.unstage, hue, hs]

/-- A served write stands in the bank's cells, where neither errors nor requests await the activation. -/
theorem serveEnt_write_mem {e : QEnt} {data : List Byte} (hact : e.act = .write data)
    (hlive : s.liveRow (e.pa / 1024) = true) (hue : s.m.ue = []) (hs : s.sw.shots = []) :
    (s.serveEnt e).m.mem = mstore s.m.mem e.pa data := by
  unfold State.serveEnt
  dsimp only
  rw [if_neg (by simpa [State.liveRow] using hlive), hact]
  exact restoreRow_mem_quiet _ _ hue hs

theorem serveEnt_dead_write {e : QEnt} {data : List Byte} (hact : e.act = .write data)
    (hdead : s.liveRow (e.pa / 1024) = false) :
    s.serveEnt e = State.millRecord { s with sw := { s.sw with bankq := s.sw.bankq.filter fun x => x.id != e.id } } 1
      (e.pa / 1024) e.who := by
  unfold State.serveEnt
  dsimp only
  rw [if_pos (by simpa [State.liveRow] using hdead), hact]

theorem serveEnt_dead_read {e : QEnt} {op lane : Nat} (hact : e.act = .read op lane)
    (hdead : s.liveRow (e.pa / 1024) = false) :
    s.serveEnt e = State.fillPart { s with sw := { s.sw with bankq := s.sw.bankq.filter fun x => x.id != e.id } } op lane
      (List.replicate e.len 0) false := by
  unfold State.serveEnt
  dsimp only
  rw [if_pos (by simpa [State.liveRow] using hdead), hact]

/-! ### SWQ_ARRIVAL (R246) -/

theorem olderEntry_eq_false {row id : Nat} (h : ∀ e ∈ s.sw.bankq, e.pa / 1024 = row → id ≤ e.id) :
    s.olderEntry row id = false := by
  refine List.any_eq_false.mpr fun e he hc => ?_
  simp only [Bool.and_eq_true, beq_iff_eq, decide_eq_true_eq] at hc
  exact absurd hc.2 (Nat.not_lt.mpr (h e he hc.1))

/-- A request that is the last of the list, and the only one of its number, enters its bank's queue. -/
theorem enterShot_last {x : Shot} {rest : List Shot} (hs : s.sw.shots = rest ++ [x]) (hne : ∀ y ∈ rest, y.id ≠ x.id)
    (hlive : s.liveRow x.row = true) :
    s.enterShot x = { s with sw := { s.sw with shots := rest ++ [{ x with st := .queued }] } } := by
  have hmap : (s.sw.shots.map fun y => if y.id = x.id then { y with st := .queued } else y) =
      rest ++ [{ x with st := .queued }] := by
    rw [hs, List.map_append, List.map_congr_left fun y hy => if_neg (hne y hy), List.map_id', List.map_singleton, if_pos rfl]
  unfold State.enterShot
  rw [if_pos hlive, hmap]

theorem exec_swqArrival {x : Shot} (hx : (s.sw.shots.find? fun y => y.id == x.id) = some x) (hst : x.st = .sent)
    (hfirst : ((s.sw.shots.find? fun y => y.st == .sent && y.op == x.op && y.row == x.row).map (·.id)) = some x.id)
    (hroom : s.bankShots (rowBank x.row) < 32) (hstaged : ∀ y ∈ s.sw.shots, y.st = .staged → rowBank y.row ≠ rowBank x.row)
    (hlive : s.liveRow x.row = true) (holder : ∀ e ∈ s.sw.bankq, e.pa / 1024 = x.row → x.id ≤ e.id) :
    exec (.swqArrival x.id) s = .next { s with sw := { s.sw with
      shots := (s.sw.shots.filter fun y => y.id != x.id) ++ [{ x with st := .queued }] } } := by
  have hahead : (s.sw.shots.any fun y => y.st == .staged && rowBank y.row == rowBank x.row) = false :=
    List.any_eq_false.mpr fun y hy hc => by
      simp only [Bool.and_eq_true, beq_iff_eq] at hc
      exact hstaged y hy hc.1 hc.2
  show execSwqArrival x.id s = _
  rw [execSwqArrival, hx]
  dsimp only
  rw [if_neg (not_not.mpr hst), if_neg (by rw [hfirst, olderEntry_eq_false holder]; simp),
    if_neg (by rw [hahead]; simpa using hroom)]
  exact congrArg _ (enterShot_last rfl (fun y hy => by simpa using (List.mem_filter.mp hy).2) hlive)

/-! ### SWSTAT_SNAPSHOT (R249) -/

theorem setV_sw (wk l n : Nat) (v : Word) : (s.setV wk l n v).sw = s.sw := by
  unfold State.setV
  split <;> rfl

theorem landV_sw (o : Op) (l n : Nat) (v : Word) : (s.landV o l n v).sw = s.sw := by
  unfold State.landV
  split
  · rfl
  · split
    · split
      · exact setV_sw ..
      · rfl
    · rfl

/-- Words that land in registers leave the sweep alone. -/
theorem landWords_sw (o : Op) (l d : Nat) (ws : List Word) : (s.landWords o l d ws).sw = s.sw := by
  unfold State.landWords
  refine foldl_keeps (fun t : State => t.sw = s.sw) (fun t e h => ?_) _ rfl
  split
  · exact h
  · exact (landV_sw ..).trans h

theorem exec_swstatSnapshot {op lane d row : Nat} {rest : List SwOp} {o : Op}
    (hops : s.sw.ops = SwOp.stat op d [(lane, row)] :: rest) (hrest : ∀ x ∈ rest, ∀ a b, x ≠ .stat op a b)
    (ho : s.op op = some o) :
    exec (.swstatSnapshot op lane) s = .next (State.endOp { (s.landWords o lane d (s.rowStatus row)) with
      sw := { (s.landWords o lane d (s.rowStatus row)).sw with ops := rest } } op) := by
  show execSwstatSnapshot op lane s = _
  have hland := landWords_sw (s := s) o lane d (s.rowStatus row)
  simp only [execSwstatSnapshot, hops, List.find?_cons, beq_self_eq_true, ho, List.filter_cons, bne_self_eq_false,
    Bool.false_eq_true, if_false, List.filter_nil, List.isEmpty_nil, if_true, hland, Bool.not_true]
  refine congrArg (fun l => Host.Outcome.next (State.endOp { (s.landWords o lane d (s.rowStatus row)) with
    sw := { s.sw with ops := l } } op)) (List.filter_eq_self.mpr fun x hx => ?_)
  split
  next p a b =>
    refine (Bool.not_eq_true' _).mpr (beq_eq_false_iff_ne.mpr fun hp => ?_)
    exact hrest _ hx a b (by rw [hp])
  next => rfl

/-! ### RESTORE (R216, R217, R238, R330) -/

/-- A restore in `bank` waits: for the end of a slice, or for one pending at a lower bank of the channel. -/
def RestoreWaits (s : State) (bank : Nat) : Prop :=
  s.midSlice bank = true ∨ ∃ b c, .restore b c ∈ s.pending ∧ b < bank ∧ bankChannel b = bankChannel bank

section

variable {bank cls : Nat} (hb : bank < 8192) (hc : cls < 4) (hp : s.present (bankRow bank 0 * 1024) = true)
include hb hc hp

theorem exec_restore_now (hw : ¬ RestoreWaits s bank) :
    exec (.restore bank cls) s = .next ((s.endSlices bank).refresh bank cls) := by
  show execRestore bank cls s = _
  unfold execRestore
  rw [if_neg (by simp [Nat.not_le.mpr hb, Nat.not_le.mpr hc, hp])]
  refine congrArg _ (if_neg fun h => hw (h.imp id fun h => ?_))
  obtain ⟨i, hi, hm⟩ := List.any_eq_true.mp h
  split at hm
  next b c =>
    simp only [Bool.and_eq_true, decide_eq_true_eq, beq_iff_eq] at hm
    exact ⟨b, c, hi, hm.1, hm.2⟩
  next => cases hm

theorem exec_restore_waits (hw : RestoreWaits s bank) (hn : .restore bank cls ∉ s.pending) :
    exec (.restore bank cls) s = .next (s.pend (.restore bank cls)) := by
  show execRestore bank cls s = _
  unfold execRestore
  rw [if_neg (by simp [Nat.not_le.mpr hb, Nat.not_le.mpr hc, hp])]
  refine congrArg _ ((if_pos (hw.imp id ?_)).trans (if_neg (by simpa using hn)))
  rintro ⟨b, c, hmem, hlt, hch⟩
  exact List.any_eq_true.mpr ⟨_, hmem, by simp [hlt, hch]⟩

end

/-- After a restore no command stands in a slice of the bank's channel. -/
theorem slices_endSlices {bank : Nat} : ∀ c ∈ (s.endSlices bank).nms, ∀ e ∈ c.slices, bankChannel e.1 ≠ bankChannel bank := by
  intro c hc e he
  obtain ⟨d, -, rfl⟩ := List.mem_map.mp hc
  simpa using (List.mem_filter.mp he).2

/-! ### Sweep positions (R238) -/

@[simp] theorem sweepPos_tset (bank cls : Nat) (p : SweepPos) :
    State.sweepPos { s with sw := { s.sw with pos := tset s.sw.pos (bank * 4 + cls) p } } bank cls = p := by
  simp [State.sweepPos]

theorem sweepPos_endPass (bank cls : Nat) :
    (s.endPass bank cls).sweepPos bank cls = { pass := (s.sweepPos bank cls).pass + 1, next := 0, begun := false } := by
  simp [State.endPass, State.sweepPos]

theorem sweepPos_beginPass (bank cls b c : Nat) : (s.beginPass bank cls).sweepPos b c = s.sweepPos b c := by
  unfold State.beginPass
  split <;> rfl

section

variable {bank cls r : Nat}

/-- The restore at a position inside its pass. -/
theorem refresh_begun (hb : (s.sweepPos bank cls).begun = true)
    (hn : s.nextOfClass bank cls 65536 (s.sweepPos bank cls).next = some r) :
    let u := s.restoreRow (bankRow bank r) true none
    s.refresh bank cls = { u with sw := { u.sw with
      pos := tset u.sw.pos (bank * 4 + cls) { pass := (s.sweepPos bank cls).pass, next := r + 1, begun := true } } } := by
  simp only [State.refresh, hb, hn, reduceCtorEq, and_false, if_false, if_true]

/-- A position past the last row of its class begins the next pass. -/
theorem refresh_past (hb : (s.sweepPos bank cls).begun = true)
    (hn : s.nextOfClass bank cls 65536 (s.sweepPos bank cls).next = none)
    (hr : ((s.endPass bank cls).beginPass bank cls).nextOfClass bank cls 65536 0 = some r) :
    (s.refresh bank cls).sweepPos bank cls = { pass := (s.sweepPos bank cls).pass + 1, next := r + 1, begun := true } := by
  simp only [State.refresh, hb, hn, and_self, if_true, sweepPos_endPass, Bool.false_eq_true, if_false, hr, sweepPos_tset]

/-- A pass whose rows are all not live ends as it begins. -/
theorem refresh_empty (hb : (s.sweepPos bank cls).begun = false)
    (hn : (s.beginPass bank cls).nextOfClass bank cls 65536 (s.sweepPos bank cls).next = none)
    (hh : (s.beginPass bank cls).holdsClass bank cls 65536 = true) :
    ((s.refresh bank cls).sweepPos bank cls).pass = (s.sweepPos bank cls).pass + 1 := by
  simp only [State.refresh, hb, Bool.false_eq_true, false_and, if_false, hn, hh, if_true, sweepPos_endPass,
    sweepPos_beginPass]

end

theorem bankSteps : BankSteps := by
  refine ⟨fun s e he ho => ⟨exec_serve_oldest he ho, exec_swurgeActivation he ho⟩,
    fun s e f he hf hne => exec_serve_waits he hf hne, ?write, ?dead, ?arrival,
    fun s op lane d row rest o hops hrest ho => exec_swstatSnapshot hops hrest ho, ?restore,
    fun s bank cls r _ _ => refresh_begun, fun s bank cls r _ _ => refresh_past, fun s bank cls _ _ => refresh_empty⟩
  case write =>
    intro s e data hact hlive hue hs _
    rw [serveEnt_write_mem hact hlive hue hs]
    refine ⟨fun k hk => ?_, fun a ha => ?_⟩
    · rw [mget_mstore, if_pos (by omega), Nat.add_sub_cancel_left, List.getD_eq_getElem _ _ hk, List.getElem?_eq_getElem hk]
    · rw [mget_mstore, if_neg (by omega)]
  case dead => exact fun s e hdead => ⟨fun data hact => serveEnt_dead_write hact hdead,
    fun op lane hact => serveEnt_dead_read hact hdead⟩
  case arrival => exact fun s x hx hst hfirst hroom hstaged hlive holder =>
    ⟨_, exec_swqArrival hx hst hfirst hroom hstaged hlive holder, rfl, rfl⟩
  case restore => exact fun s bank cls hb hc hp =>
    ⟨fun hw => ⟨exec_restore_now hb hc hp hw, slices_endSlices⟩, exec_restore_waits hb hc hp⟩

/-! ### Restore functions (R240, R241) -/

theorem ofNat_emod_word (v : Int) : BitVec.ofNat 32 (v % 2 ^ 32).toNat = BitVec.ofInt 32 v := by
  refine BitVec.eq_of_toNat_eq ?_
  rw [BitVec.toNat_ofNat, BitVec.toNat_ofInt]
  exact Nat.mod_eq_of_lt (by omega)

theorem toNat_mod_word (k : Word) : k.toNat % 2 ^ 32 = k.toNat := Nat.mod_eq_of_lt k.isLt

/-- The saturating addition of a lane is that of R104. -/
theorem fnLane_satadd (k x : Word) : BitVec.ofNat 32 (fnLane 2 32 k.toNat 0 x.toNat) = satS32 (x.toInt + k.toInt) := by
  rw [← sext_toNat x, ← sext_toNat k, satS32, ← ofNat_emod_word]
  simp only [fnLane, toNat_mod_word]
  rfl

/-- The shift of a lane is arithmetic. -/
theorem fnLane_shift (k x : Word) : BitVec.ofNat 32 (fnLane 4 32 k.toNat 0 x.toNat) = x.sshiftRight (k.toNat % 32) := by
  have hshift : sext 32 x.toNat / 2 ^ (k.toNat % 32) = (x.sshiftRight (k.toNat % 32)).toInt := by
    rw [BitVec.toInt_sshiftRight, Int.shiftRight_eq_div_pow, ← sext_toNat x]
    rfl
  rw [← BitVec.ofInt_toInt (x := x.sshiftRight (k.toNat % 32)), ← hshift, ← ofNat_emod_word]
  rfl

theorem sweepFunctions : SweepFunctions := by
  refine ⟨fun k x => ⟨?add, ?sub, ?fill, ?xor, ?and, ?satadd, ?shift⟩, ?crc⟩
  case add => rw [BitVec.toNat_add, fnLane, toNat_mod_word]
  case sub => rw [fnLane, toNat_mod_word]
  case fill => rw [fnLane, toNat_mod_word]
  case xor => rw [BitVec.toNat_xor, fnLane, toNat_mod_word]
  case and => rw [BitVec.toNat_and, fnLane, toNat_mod_word]
  case satadd => rw [fnLane_satadd, satS32_toInt]
  case shift =>
    rw [fnLane_shift, BitVec.toInt_sshiftRight, Int.shiftRight_eq_div_pow]
    rfl
  case crc => decide +kernel

/-- Settles O36, by the cases of the banks' steps, the positions of a sweep, and one lane of each function. -/
theorem bankStepsAndRestoreFunctions : Obligations.BankStepsAndRestoreFunctions := ⟨bankSteps, sweepFunctions⟩

end Sys2Proof.Laws
end

section
/-! PROOF of O48: what the host does with a function's registers, its links and the device's memory (R202, R390, R404 to R409). -/

namespace Sys2Proof.Laws

open Sys2Proof.Machine Sys2Proof.Claims

variable {s : State}

/-! ### What a write changes on its path: points and queues, and no context, core or host link -/

/-- `t` differs from `s` at most where writes travel: their points, registers and bank queues, Skovlink, migrations, and the
steps and numbers that come with them. -/
def OnlyPaths (s t : State) : Prop := t = { s with
  m := t.m, reg := t.reg, sw := t.sw, sk := t.sk, tr := t.tr, pending := t.pending, stampCtr := t.stampCtr, nextId := t.nextId }

theorem OnlyPaths.trans {s t u : State} (h : OnlyPaths s t) (g : OnlyPaths t u) : OnlyPaths s u := by
  unfold OnlyPaths at *
  rw [g, h]

theorem onlyPaths_foldl {α : Type} {f : State → α → State} (hf : ∀ t x, OnlyPaths t (f t x)) (l : List α) (s : State) :
    OnlyPaths s (l.foldl f s) :=
  foldl_keeps (OnlyPaths s) (fun t x h => h.trans (hf t x)) l rfl

theorem OnlyPaths.ctxs {s t : State} (h : OnlyPaths s t) : t.ctxs = s.ctxs := by rw [h]

theorem OnlyPaths.cores {s t : State} (h : OnlyPaths s t) : t.cores = s.cores := by rw [h]

theorem OnlyPaths.hl {s t : State} (h : OnlyPaths s t) : t.hl = s.hl := by rw [h]

theorem OnlyUe.onlyPaths {s t : State} (h : OnlyUe s t) : OnlyPaths s t := by
  rw [h]
  rfl

theorem onlyPaths_settleBlock (b : Nat) : OnlyPaths s (s.settleBlock b) := by
  rcases settleBlock_cases s b with ⟨heq, -⟩ | ⟨-, w, -, -, -, -, heq⟩
  · rw [heq]
    rfl
  · rw [heq]
    exact OnlyPaths.trans (by rfl) (settleWr_eq w).onlyPaths

theorem onlyPaths_finalWrite (a : Nat) (data : List Byte) : OnlyPaths s (s.finalWrite a data) := by
  have hsettled : OnlyPaths s ((blocksOf a data.length).foldl State.settleBlockAll s) :=
    onlyPaths_foldl (fun t b => onlyPaths_foldl (fun t _ => onlyPaths_settleBlock b) _ t) _ s
  refine hsettled.trans (OnlyPaths.trans ?_ ((onlyUe_noteDropped _ _).trans (onlyUe_noteWhole _ _)).onlyPaths)
  rfl

theorem onlyPaths_ucWrite (a : Nat) (data : List Byte) : OnlyPaths s (s.ucWrite a data) :=
  onlyPaths_foldl (fun _ _ => onlyPaths_finalWrite _ _) _ s

theorem onlyPaths_homeWrite (l : List (Nat × Byte)) : OnlyPaths s (s.homeWrite l) := by
  cases l <;> rfl

theorem onlyPaths_pushByte (core pa : Nat) : OnlyPaths s (s.pushByte core pa) := by
  by_cases h : s.dirtyGroup core pa = []
  · unfold State.pushByte
    rw [h]
    rfl
  · rw [pushByte_eq rfl h rfl]
    exact (onlyPaths_homeWrite _).trans rfl

theorem onlyPaths_pushCore (core : Nat) : OnlyPaths s (s.pushCore core) :=
  onlyPaths_foldl (fun t _ => onlyPaths_foldl (fun _ _ => onlyPaths_pushByte core _) _ t) _ s

theorem onlyPaths_coreWrite (core pa : Nat) (data : List Byte) : OnlyPaths s (s.coreWrite core pa data) :=
  onlyPaths_foldl (fun t l => by cases l <;> rfl) _ s

theorem onlyPaths_spadStore (wk core off : Nat) (data : List Byte) : OnlyPaths s (s.spadStore wk core off data) := by
  unfold State.spadStore
  split <;> rfl

theorem onlyPaths_onchipSet (core off : Nat) (b : Byte) (k : Nat) : OnlyPaths s (s.onchipSet core off b k) := by
  unfold State.onchipSet
  dsimp only
  split <;> rfl

theorem onlyPaths_onchipWrite (core off : Nat) (data : List Byte) : OnlyPaths s (s.onchipWrite core off data) :=
  OnlyPaths.trans (t := s.fresh.2) rfl
    (onlyPaths_foldl (f := fun t (e : Nat × Byte) => t.onchipSet core (off + e.1) e.2 s.nextId)
      (fun _ _ => onlyPaths_onchipSet ..) _ _)

theorem onlyPaths_noteMigr (p : Migr → Bool) : OnlyPaths s (s.noteMigr p) := by
  unfold State.noteMigr
  split <;> rfl

theorem onlyPaths_hostStore (c ha : Nat) (data : List Byte) : OnlyPaths s (s.hostStore c ha data) :=
  (onlyPaths_noteMigr _).trans rfl

theorem onlyPaths_skSend (m : Msg) (c va : Nat) (who : SkWho) : OnlyPaths s (s.skSend m c va who).1 := by
  unfold State.skSend
  dsimp only
  split
  · rfl
  · refine OnlyPaths.trans (t := if m.op = 0 then _ else _) ?_ rfl
    split
    · rfl
    · exact OnlyPaths.trans (by rfl) (onlyPaths_noteMigr _)

theorem onlyPaths_peerFloor (a : Agent) (d pa n : Nat) : OnlyPaths s (s.peerFloor a d pa n) :=
  onlyPaths_foldl (f := fun t i => t.raiseFloor a (peerKey d pa + i) t.stampCtr) (fun _ _ => rfl) _ s

theorem onlyPaths_postWr (w : Wr) (c : Nat) : OnlyPaths s (s.postWr w c) := by
  unfold State.postWr
  refine OnlyPaths.trans (t := { s with m := { s.m with tbuf := s.m.tbuf.filter fun x => x.id != w.id } }) rfl ?_
  dsimp only
  split
  · exact onlyPaths_spadStore ..
  · exact onlyPaths_onchipWrite ..
  · exact onlyPaths_coreWrite ..
  · exact onlyPaths_coreWrite ..
  · rfl
  · exact onlyPaths_ucWrite ..
  · exact onlyPaths_hostStore ..
  · exact (onlyPaths_skSend ..).trans (onlyPaths_peerFloor ..)

theorem onlyPaths_postHost : OnlyPaths s s.postHost := onlyPaths_foldl (fun _ w => onlyPaths_postWr w _) _ s

theorem onlyPaths_physWrite (a n v : Nat) : OnlyPaths s (s.physWrite a n v) := onlyPaths_finalWrite ..

theorem onlyPaths_ringPut (d : Nat) (r : List Byte) : OnlyPaths s (s.ringPut d r) :=
  (onlyPaths_finalWrite ..).trans (onlyPaths_physWrite ..)

/-! ### Records of a context (R384, R390) -/

theorem tget_modCtx {c : Nat} {x : Ctx} (hx : tget s.ctxs c = some x) (f : Ctx → Ctx) :
    tget (s.modCtx c f).ctxs c = some (f x) := by
  rw [modCtx_ctxs, tget_tmod, if_pos rfl, hx]
  rfl

/-- In `t` context `c` is `x`, but for its records: how many there were, and those that wait. -/
def RecordsOnly (c : Nat) (x : Ctx) (t : State) : Prop := ∃ q r, tget t.ctxs c = some { x with fqueue := q, recs := r }

section

variable {c : Nat} {x : Ctx} {t : State}

theorem RecordsOnly.of_ctxs (h : RecordsOnly c x s) (ht : t.ctxs = s.ctxs) : RecordsOnly c x t := by
  obtain ⟨q, r, h⟩ := h
  exact ⟨q, r, ht ▸ h⟩

theorem RecordsOnly.modCtx_fqueue (h : RecordsOnly c x s) (f : Ctx → List (List Byte)) :
    RecordsOnly c x (s.modCtx c fun y => { y with fqueue := f y }) := by
  obtain ⟨q, r, h⟩ := h
  exact ⟨f { x with fqueue := q, recs := r }, r, tget_modCtx h _⟩

theorem signal_ctxs (fn v : Nat) : (s.signal fn v).ctxs = s.ctxs := by
  unfold State.signal
  extract_lets w
  split
  · rfl
  · exact (onlyPaths_hostStore ..).ctxs

theorem RecordsOnly.flushFaults (h : RecordsOnly c x s) : RecordsOnly c x (s.flushFaults c) := by
  unfold State.flushFaults
  split
  next => exact h
  next y _ =>
    refine foldl_keeps (RecordsOnly c x) (fun u rec hu => ?_) _ h
    split
    · have hput := (hu.of_ctxs (onlyPaths_ringPut y.fq rec).ctxs).modCtx_fqueue fun y => y.fqueue.drop 1
      have hsent := hput.of_ctxs (signal_ctxs c 0)
      split
      · exact hsent.of_ctxs (signal_ctxs c 2)
      · exact hsent
    · exact hu

theorem recordsOnly_ctxRecord (h : tget s.ctxs c = some x) (r : FaultRec) : RecordsOnly c x (s.ctxRecord c r) := by
  unfold State.ctxRecord
  rw [h]
  exact RecordsOnly.flushFaults (RecordsOnly.modCtx_fqueue ⟨x.fqueue, _, tget_modCtx h _⟩ _)

/-- A change of STATE changes no more of the context but its records. -/
theorem exists_ctx_setCtxState {P : Ctx → Prop} (h : tget s.ctxs c = some x) (st : Nat)
    (hP : ∀ q r, P { x with state := st, fqueue := q, recs := r }) :
    ∃ y, tget (s.setCtxState c st).ctxs c = some y ∧ P y := by
  obtain ⟨q, r, hr⟩ := recordsOnly_ctxRecord (tget_modCtx h fun y => { y with state := st }) { kind := 5, src := 6, reason := st }
  exact ⟨_, hr, hP q r⟩

end

/-! ### Control cores bound and unbound (R369, R407) -/

theorem removeTeam_cores (tk : Nat) : (s.removeTeam tk).cores = s.cores := by
  unfold State.removeTeam
  split
  · rfl
  · refine ((onlyPaths_pushCore _).cores).trans (foldl_keeps (fun t : State => t.cores = s.cores) (fun t w h => ?_) _ rfl)
    exact (onlyPaths_foldl (fun _ _ => onlyPaths_postWr ..) _ t).cores.trans h

theorem cores_unbind {core : Nat} {k : Core} (hk : tget s.cores core = some k) :
    tget (s.unbind core).cores core = some { k with cc := none, ccWcb := 0 } := by
  have hgone : (match k.cc.bind s.warp with
      | some w => s.removeTeam w.team
      | none => s).cores = s.cores := by
    split
    · exact removeTeam_cores _
    · rfl
  unfold State.unbind
  rw [hk, modCore_cores, tget_tmod, if_pos rfl]
  refine (congrArg (fun t => (tget t core).map _) ?_).trans (congrArg (Option.map _) hk)
  exact hgone

/-- A bound control core runs its task's one thread from ENTRY. -/
theorem bind_control {core : Nat} {k : Core} (hk : tget s.cores core = some k) (c : Nat) (v : TaskVals) :
    ∃ y wk w, tget (s.bind c core v).cores core = some y ∧ y.cc = some wk ∧ y.ccWcb = v.wcb ∧ y.ccCtx = c ∧
      (s.bind c core v).warp wk = some w ∧ w.kind = .control ∧ w.core = core ∧
      w.threads.map (fun h => (h.st, h.pc)) = [(.runnable, 12 * v.entry)] := by
  refine ⟨{ k with cc := some (s.nextId + 1), ccWcb := v.wcb, ccCtx := c }, s.nextId + 1, _, ?_, rfl, rfl, rfl, tget_tset_same ..,
    rfl, rfl, rfl⟩
  show tget (tmod s.cores core _) core = _
  rw [tget_tmod, if_pos rfl, hk]
  rfl

section

variable {c : Nat} {v : DWord} {x : Ctx} (hx : tget s.ctxs c = some x) (hst : x.state < 5)
include hx hst

theorem exec_cctask_binds {k : Core} {t : TaskVals} (hk : tget s.cores x.cccore = some k) (hw : k.ccWcb = 0) (hv : v ≠ 0)
    (ht : s.checkWcb c v.toNat false = .task t) :
    exec (.cctaskWrite c v) s = .next ((s.unbind x.cccore).bind c x.cccore t) := by
  show execCctaskWrite c v s = _
  unfold execCctaskWrite
  rw [hx]
  dsimp only
  rw [if_neg (by omega), hk]
  dsimp only
  rw [if_neg (fun h => h.1 hw), if_neg hv, ht]

theorem exec_cctask_unbinds {k : Core} (hk : tget s.cores x.cccore = some k) (hw : k.ccWcb ≠ 0) (hc : k.ccCtx = c) :
    exec (.cctaskWrite c 0) s = .next (s.unbind x.cccore) := by
  show execCctaskWrite c 0 s = _
  unfold execCctaskWrite
  rw [hx]
  dsimp only
  rw [if_neg (by omega), hk]
  dsimp only
  rw [if_neg (fun h => h.2 hc), if_pos rfl, if_pos hw]

theorem exec_cctask_refused
    (h : tget s.cores x.cccore = none ∨ ∃ k, tget s.cores x.cccore = some k ∧ k.ccWcb ≠ 0 ∧ k.ccCtx ≠ c) :
    exec (.cctaskWrite c v) s =
      .next (s.freeWord.2.ctxRecord c { kind := 2, src := 6, reason := (Config.freeValue s.freeCount).toNat }) := by
  show execCctaskWrite c v s = _
  unfold execCctaskWrite
  rw [hx]
  dsimp only
  rw [if_neg (by omega)]
  rcases h with h | ⟨k, h, hw, hc⟩
  · rw [h]
    rfl
  · rw [h]
    exact congrArg Host.Outcome.next (if_pos ⟨hw, hc⟩)

end

/-! ### The commands -/

theorem exec_ctxwcbWrite {c : Nat} {v : DWord} {x : Ctx} (hx : tget s.ctxs c = some x) (hst : x.state = 6)
    (ha : v.toNat % 256 = 0) (hp : s.present v.toNat = true) :
    let w := s.physNat v.toNat 256
    ∃ r, exec (.ctxwcbWrite c v) s = .next r ∧ ∃ y, tget r.ctxs c = some y ∧ y.state = 0 ∧ y.wcb = v.toNat ∧
      y.ptroot = bits w 1599 1536 ∧ y.ctbase = bits w 1663 1600 ∧ y.ctsize = bits w 1695 1664 ∧
      y.plimit = bits w 1727 1696 ∧ y.save = bits w 1791 1728 ∧ y.fq = bits w 1855 1792 ∧ y.err = bits w 1919 1856 ∧
      y.prio = bits w 19 16 ∧ y.ptgen = x.ptgen := by
  intro w
  show ∃ r, execCtxwcbWrite c v s = .next r ∧ _
  unfold execCtxwcbWrite
  rw [hx]
  dsimp only
  rw [if_neg (by simp [hst, ha, hp])]
  exact ⟨_, rfl, exists_ctx_setCtxState (tget_modCtx hx _) 0 fun q r => ⟨rfl, rfl, rfl, rfl, rfl, rfl, rfl, rfl, rfl, rfl, rfl⟩⟩

theorem exec_doorbell {c q : Nat} {v : Word} {x : Ctx} {a w pa : Nat} (hx : tget s.ctxs c = some x) (hst : x.state ≠ 6)
    (hq : x.qwcb[q]? = some a) (ha : a ≠ 0) (hw : s.readWcb c a = some w) (hpa : s.peekPa c a = some pa) :
    exec (.doorbell c q v) s = .next (
      if (v.toNat + 2 ^ 32 - bits w 1695 1664) % 2 ^ 32 < 2 ^ 31 ∧
          (v.toNat + 2 ^ 32 - bits w 1663 1632) % 2 ^ 32 ≤ 2 ^ bits w 1607 1600 then
        ((s.physWrite (pa + 208) 4 v.toNat).modCtx c fun x =>
          { x with qtail := x.qtail.set q (some v.toNat) }).pend (.frontEndLaunch c q)
      else s) := by
  show execDoorbell c q v s = _
  unfold execDoorbell
  rw [hx]
  dsimp only
  rw [hq, Option.getD_some, if_neg (by simp [hst, ha]), hw, hpa]

theorem hostCommands : HostCommands := by
  refine ⟨fun s c v x hx hst ha hp => exec_ctxwcbWrite hx hst ha hp, ?binds, ?unbinds, ?refused, ?doorbell⟩
  case binds =>
    intro s c v x k t hx hst hk hw hv ht
    exact ⟨_, exec_cctask_binds hx hst hk hw hv ht, bind_control (cores_unbind hk) c t⟩
  case unbinds =>
    intro s c x k hx hst hk hw hc
    exact ⟨_, exec_cctask_unbinds hx hst hk hw hc, _, cores_unbind hk, rfl, rfl⟩
  case refused =>
    intro s c v x hx hst h
    exact ⟨s.freeWord.2, s.freeCount, rfl, rfl, rfl, exec_cctask_refused hx hst h⟩
  case doorbell =>
    intro s c q v x a w pa hx hst hq ha hw hpa tail head ok
    rw [exec_doorbell hx hst hq ha hw hpa]
    exact ⟨fun h => congrArg Host.Outcome.next (if_pos h), fun h => congrArg Host.Outcome.next (if_neg h)⟩

/-! ### Registers (R390, R407, R424) -/

theorem hostRegisters : HostRegisters := by
  intro s v
  refine ⟨fun f hf => ⟨_, rfl, ?fldlim⟩, ⟨_, rfl, apply_ite (fun t : State => t.mg.pkglim) ..⟩,
    ⟨_, rfl, apply_ite (fun t : State => t.mg.actcap) ..⟩, fun c x hx => ⟨?drain, ?ptwaddr, ?pasid, ?qwcb, ?cccore⟩⟩
  case fldlim =>
    rw [apply_ite (fun t : State => t.mg.fldlim)]
    exact if_congr (and_iff_right hf) rfl rfl
  case drain =>
    intro hv
    refine ⟨_, congrArg Host.Outcome.next (if_pos hv), (tget_modCtx hx _).trans ?_⟩
    rw [BitVec.ofNat_toNat]
  case ptwaddr => exact fun hv => ⟨_, congrArg Host.Outcome.next (if_pos hv), tget_modCtx hx _⟩
  case pasid =>
    intro hv hz
    refine ⟨_, congrArg Host.Outcome.next (if_pos ⟨hv, hz⟩), (tget_modCtx hx _).trans ?_⟩
    have hpasid : BitVec.ofNat 20 (v.toNat % 2 ^ 20) = v.setWidth 20 := BitVec.eq_of_toNat_eq (by simp)
    rw [hpasid, BitVec.testBit_toNat]
  case qwcb =>
    intro q hq
    refine ⟨_, rfl, (tget_modCtx hx _).trans (congrArg some ?_)⟩
    exact if_congr (and_iff_left hq) rfl rfl
  case cccore => exact fun hv => ⟨_, congrArg Host.Outcome.next (if_pos hv), tget_modCtx hx _⟩

/-! ### Links (R409, R418) -/

theorem getD_up_eq_true {l : List Bool} {b : Nat} : l.getD b false = true ↔ l[b]? = some true := by
  rw [List.getD_eq_getElem?_getD]
  cases l[b]? <;> simp

/-- The link of an access: its own, or the other one where that is down. -/
theorem hostLink_eq (ha : Nat) : s.hostLink ha =
    if s.hl.up[ha / 65536 % 2]? = some true then some (ha / 65536 % 2)
    else if s.hl.up[1 - ha / 65536 % 2]? = some true then some (1 - ha / 65536 % 2) else none := by
  unfold State.hostLink
  simp only [getD_up_eq_true]

theorem exec_hostLinkDown {b : Nat} (hb : b < 2) (hup : s.hl.up.length = 2) :
    ∃ v, exec (.hostLinkDown b) s = .next v ∧ (∀ e ∈ v.hl.ats, e.link ≠ b) ∧ (∀ e ∈ v.hl.pri, e.1 ≠ b) ∧
      ∀ ha, v.hostLink ha = if s.hl.up[1 - b]? = some true then some (1 - b) else none := by
  refine ⟨_, rfl, fun e he => by simpa using (List.mem_filter.mp he).2, fun e he => by simpa using (List.mem_filter.mp he).2,
    fun ha => ?_⟩
  rw [hostLink_eq]
  have hdown : (s.hl.up.set b false)[b]? ≠ some true := by simp [hup, hb]
  have hother : (s.hl.up.set b false)[1 - b]? = s.hl.up[1 - b]? := List.getElem?_set_ne (by omega)
  rcases (by omega : ha / 65536 % 2 = b ∨ ha / 65536 % 2 = 1 - b) with h | h
  · rw [h]
    exact (if_neg hdown).trans (if_congr (by rw [hother]) rfl rfl)
  · rw [h, show 1 - (1 - b) = b by omega]
    exact if_congr (by rw [← hother]) rfl (if_neg hdown)

theorem exec_hostLinkUp_on {b : Nat} (hb : b < 2) (hup : s.hl.up.length = 2) (hon : s.mg.offLinks = false) :
    ∃ v, exec (.hostLinkUp b) s = .next v ∧ ∀ ha, ha / 65536 % 2 = b → v.hostLink ha = some b := by
  refine ⟨_, congrArg Host.Outcome.next (if_neg (by simp [hon])), fun ha hha => ?_⟩
  rw [hostLink_eq, hha]
  exact if_pos (by simp [hup, hb])

/-! ### Translations of a link (R409) -/

theorem atsEnt_of_iff {e : AtsEnt} {b f : Nat} {p : Option (BitVec 20)} :
    e.of (b, p, f) = true ↔ e.link = b ∧ e.pasid = p ∧ e.frame = f := by
  simp [AtsEnt.of]

/-- After a post of the buffered writes to host memory none is left. -/
theorem not_host_of_mem_postHost {w : Wr} (h : w ∈ s.postHost.m.tbuf) (c ha : Nat) : w.loc ≠ .host c ha := by
  obtain ⟨hw, hne⟩ := mem_tbuf_foldl_postWr (ctx := fun s w => s.ctxOf w.warp) _ s h
  exact fun hl => hne w (List.mem_filter.mpr ⟨hw, by rw [hl]⟩) rfl

section

variable {b f : Nat} {p : Option (BitVec 20)}

theorem exec_atsInvalidate_held (h : ∃ e ∈ s.postHost.hl.xlats, e.of (b, p, f) = true ∧ s.postHost.heldHost p e.host = true) :
    exec (.atsInvalidate b p f) s = .next (s.postHost.pend (.atsInvalidate b p f)) := by
  obtain ⟨e, he, hof, hheld⟩ := h
  exact congrArg Host.Outcome.next (if_pos (List.any_eq_true.mpr ⟨e, he, by rw [hof, hheld]; rfl⟩))

theorem exec_atsInvalidate_free
    (h : ¬∃ e ∈ s.postHost.hl.xlats, e.of (b, p, f) = true ∧ s.postHost.heldHost p e.host = true) :
    ∃ v, exec (.atsInvalidate b p f) s = .next v ∧ (∀ w ∈ v.m.tbuf, ∀ c ha, w.loc ≠ .host c ha) ∧
      (∀ e, e ∈ v.hl.ats ↔ e ∈ s.hl.ats ∧ ¬(e.link = b ∧ e.pasid = p ∧ e.frame = f)) ∧
      ∀ e ∈ v.hl.xlats, ¬(e.link = b ∧ e.pasid = p ∧ e.frame = f) := by
  refine ⟨_, congrArg Host.Outcome.next (if_neg fun hany => h ?_), fun w hw => ?_, fun e => ?_, fun e he => ?_⟩
  · obtain ⟨e, he, hm⟩ := List.any_eq_true.mp hany
    exact ⟨e, he, (Bool.and_eq_true ..).mp hm⟩
  · exact not_host_of_mem_postHost (noteMigr_m s.postHost _ ▸ hw)
  · have hl : (s.postHost.noteMigr fun m => s.postHost.pasidOf m.ctx == p &&
        (hostPage m.oldLeaf.toNat m.lg f || hostPage m.newLeaf.toNat m.lg f)).hl = s.hl :=
      (onlyPaths_noteMigr _).hl.trans onlyPaths_postHost.hl
    rw [← atsEnt_of_iff, ← hl]
    simp
  · rw [← atsEnt_of_iff]
    simpa using (List.mem_filter.mp he).2

theorem exec_priResponse_granted (h : (b, p, f) ∈ s.hl.pri) (g : Nat) :
    ∃ v, exec (.priResponse b p f (some g)) s = .next v ∧
      { link := b, pasid := p, frame := f, host := g, perm := 3 } ∈ v.hl.ats ∧ v.hl.pri = s.hl.pri.erase (b, p, f) :=
  ⟨_, congrArg Host.Outcome.next (if_neg (by simpa using h)), List.mem_append_right _ List.mem_cons_self, rfl⟩

theorem exec_priResponse_refused (h : (b, p, f) ∈ s.hl.pri) :
    ∃ v, exec (.priResponse b p f none) s = .next v ∧ (b, p, f) ∈ v.hl.refused ∧ v.hl.pri = s.hl.pri.erase (b, p, f) :=
  ⟨_, congrArg Host.Outcome.next (if_neg (by simpa using h)), List.mem_append_right _ List.mem_cons_self, rfl⟩

end

theorem mem_atsEnable (b fn : Nat) (on : Bool) : ∃ v, exec (.hostAgentAccess (.atsEnable b fn on)) s = .next v ∧
    ∀ e, e ∈ v.hl.atsOn ↔ (e ≠ (b, fn) ∧ e ∈ s.hl.atsOn) ∨ (on = true ∧ e = (b, fn)) := by
  refine ⟨_, rfl, fun e => ?_⟩
  cases on <;> simp [and_comm]

/-! ### Reads from outside the cores (R202) -/

/-- A read from outside the cores of no row of SW memory reads the home points. -/
theorem outsideRead_homeBytes (ctx : Option Nat) (a n : Nat) (hsw : ∀ r ∈ rowsOf a n, s.swRow r = false) :
    (s.outsideRead ctx a n).1 = s.homeBytes a n ∧ (s.outsideRead ctx a n).2.2 = s := by
  have hfold : ∀ (rows : List Nat) (acc : List Byte) (u : Bool), (∀ r ∈ rows, s.swRow r = false) → ∃ v,
      rows.foldl (fun (p : List Byte × Bool × State) row =>
        let lo := max a (row * 1024)
        let hi := min (a + n) (row * 1024 + 1024)
        let (bs, u, s) := p.2.2.swRowRead row lo (hi - lo) ctx
        (p.1 ++ bs, p.2.1 || u, s)) (acc, u, s) =
      (acc ++ rows.flatMap fun r => s.homeBytes (max a (r * 1024)) (min (a + n) (r * 1024 + 1024) - max a (r * 1024)),
        v, s) := by
    intro rows
    induction rows with
    | nil => exact fun acc u _ => ⟨u, by simp⟩
    | cons r rows ih =>
      intro acc u h
      obtain ⟨hr, hrows⟩ := List.forall_mem_cons.mp h
      have hread : ∀ lo len, s.swRowRead r lo len ctx = (s.homeBytes lo len, s.homeBadAt lo len, s) := fun lo len => by
        rw [State.swRowRead, hr]
        rfl
      rw [List.foldl_cons, List.flatMap_cons, ← List.append_assoc]
      simp only [hread]
      exact ih _ _ hrows
  obtain ⟨v, hv⟩ := hfold (rowsOf a n) [] false hsw
  have heq : s.outsideRead ctx a n = (s.homeBytes a n, v, s) := by
    rw [← flatMap_rowsOf]
    exact hv
  rw [heq]
  exact ⟨rfl, rfl⟩

theorem exec_read_reachable (c : Option Nat) {a n : Nat} (h : s.reachable a n = true) :
    exec (.hostAgentAccess (.read c a n)) s = .next ((s.outsideRead c a n).2.2.answered (s.outsideRead c a n).1) :=
  congrArg Host.Outcome.next (if_pos h)

/-! ### Error reporting registers (R404) -/

theorem aerWord_setAer (l g j link fn k : Nat) (v : Word) : (s.setAer link fn k v).aerWord l g j =
    if (l * 64 + g) * 16 + j = (link * 64 + fn) * 16 + k then v else s.aerWord l g j := by
  unfold State.aerWord State.setAer
  dsimp only
  rw [tget_tset]
  split <;> rfl

theorem aerWord_aerPut (link fn k : Nat) (v : Word) : (s.aerPut link fn k v).aerWord link fn k =
    if k = 0 ∨ k = 3 then s.aerWord link fn k &&& ~~~(v &&& aerBits k)
    else (s.aerWord link fn k &&& ~~~(aerBits k)) ||| (v &&& aerBits k) :=
  (aerWord_setAer ..).trans (if_pos rfl)

theorem aerWord_aerPut_other {link fn k l g j : Nat} (v : Word) (hf : fn < 64) (hk : k < 10) (hg : g < 64) (hj : j < 10)
    (hne : (l, g, j) ≠ (link, fn, k)) : (s.aerPut link fn k v).aerWord l g j = s.aerWord l g j := by
  refine (aerWord_setAer ..).trans (if_neg fun h => hne ?_)
  have hjk : j = k := by omega
  have hgf : g = fn := by omega
  have hl : l = link := by omega
  rw [hjk, hgf, hl]

/-- An error that its register can hold has its status bit set. -/
theorem status_aerError (link fn : Nat) (cor : Bool) {bit : Nat} (hbit : bit < 32)
    (hm : (aerBits (if cor then 3 else 0)).getLsbD bit = true) :
    ((s.aerError link fn cor bit).aerWord link fn (if cor then 3 else 0)).getLsbD bit = true := by
  have hk : (if cor then 3 else 0) < 5 := by cases cor <;> decide
  unfold State.aerError
  extract_lets k b first free u
  change (aerBits k).getLsbD bit = true at hm
  change k < 5 at hk
  have hb : b.getLsbD bit = true := by simp [b, hbit]
  have hkeep : ∀ (t : State) (j : Nat) (v : Word), 5 ≤ j → (t.aerWord link fn k).getLsbD bit = true →
      ((t.setAer link fn j v).aerWord link fn k).getLsbD bit = true := fun t j v hj ht => by
    rw [aerWord_setAer, if_neg (by omega)]
    exact ht
  have hset : (u.aerWord link fn k).getLsbD bit = true := by
    rw [aerWord_setAer, if_pos rfl, BitVec.getLsbD_or, hb, Bool.or_true]
  rw [if_neg]
  · split
    · exact hset
    · exact foldl_keeps (fun t : State => (t.aerWord link fn k).getLsbD bit = true)
        (fun t j ht => hkeep t.freeWord.2 (6 + j) _ (by omega) ht) _ (hkeep u 5 _ (Nat.le_refl 5) hset)
  · intro hz
    have : (b &&& aerBits k).getLsbD bit = true := by rw [BitVec.getLsbD_and, hb, hm]; rfl
    exact absurd (hz ▸ this) (by simp)

theorem exec_aer_down {link fn k : Nat} (v : Word) (h : s.hl.up[link]? ≠ some true) :
    exec (.hostAgentAccess (.aerRead link fn k)) s = .next s ∧
      exec (.hostAgentAccess (.aerWrite link fn k v)) s = .next s := by
  have hdown : ¬ s.hl.up.getD link false = true := getD_up_eq_true.not.mpr h
  exact ⟨congrArg Host.Outcome.next (if_neg hdown), congrArg Host.Outcome.next (if_neg hdown)⟩

theorem exec_aer_up {link fn k : Nat} (v : Word) (h : s.hl.up[link]? = some true) :
    exec (.hostAgentAccess (.aerRead link fn k)) s = .next (s.answered (leBytes 4 (s.aerWord link fn k).toNat)) ∧
      exec (.hostAgentAccess (.aerWrite link fn k v)) s = .next (s.aerPut link fn k v) := by
  have hup : s.hl.up.getD link false = true := getD_up_eq_true.mpr h
  exact ⟨congrArg Host.Outcome.next (if_pos hup), congrArg Host.Outcome.next (if_pos hup)⟩

theorem hostLinks : HostLinks := by
  refine ⟨fun s b hb hup =>
      ⟨exec_hostLinkDown hb hup, exec_hostLinkUp_on hb hup, fun h => congrArg Host.Outcome.next (if_pos h)⟩,
    fun s b p f => ⟨exec_atsInvalidate_held, exec_atsInvalidate_free⟩,
    fun s b p f h => ⟨exec_priResponse_granted h, exec_priResponse_refused h⟩,
    fun s c a data =>
      ⟨fun h => congrArg Host.Outcome.next (if_pos h), fun h => congrArg Host.Outcome.next (if_neg (by simp [h]))⟩,
    ?written,
    fun s c a n => ⟨exec_read_reachable c, fun h => congrArg Host.Outcome.next (if_neg (by simp [h]))⟩,
    fun s c a n hsw => outsideRead_homeBytes c a n hsw,
    fun s b fn on => mem_atsEnable b fn on, ?aer,
    fun s link fn bit cor hbit hm => ⟨_, rfl, status_aerError link fn cor hbit hm⟩, fun s a data => rfl⟩
  case written =>
    intro s c a data host hsw
    rw [outsideWrite_home c a data host hsw]
    exact homeBytes_writeBlocks a data
  case aer =>
    intro s link fn k v _ hf hk
    refine ⟨exec_aer_down v, fun h => ?_⟩
    obtain ⟨hread, hwrite⟩ := exec_aer_up (fn := fn) (k := k) v h
    exact ⟨hread, _, hwrite, aerWord_aerPut link fn k v, fun l g j _ hg hj hne => aerWord_aerPut_other v hf hk hg hj hne⟩

/-! ### The BAR (R406) -/

theorem leBytes_eq_map (n v : Nat) : leBytes n v = (List.range n).map fun i => BitVec.ofNat 8 (v / 2 ^ (i * 8)) := by
  induction n generalizing v with
  | zero => rfl
  | succ n ih =>
    rw [leBytes, ih, List.range_succ_eq_map, List.map_cons, List.map_map]
    refine congrArg₂ _ (by simp) (List.map_congr_left fun i _ => ?_)
    show BitVec.ofNat 8 (v / 2 ^ 8 / 2 ^ (i * 8)) = BitVec.ofNat 8 (v / 2 ^ ((i + 1) * 8))
    rw [Nat.div_div_eq_div_mul, ← Nat.pow_add, Nat.succ_mul, Nat.add_comm]

/-- A read within 64 bits of a BAR is answered with their bytes. -/
theorem exec_barRead {fn k n q : Nat} (hn : n ≤ 8) (hq : s.barQword fn k = q) :
    exec (.hostAgentAccess (.barRead fn (8 * k) n)) s = .next (s.answered (leBytes n q)) := by
  refine congrArg (fun l => Host.Outcome.next (s.answered l)) ?_
  rw [leBytes_eq_map]
  refine List.map_congr_left fun i hi => ?_
  have hi : i < n := List.mem_range.mp hi
  unfold State.barByte
  rw [show (8 * k + i) / 8 = k by omega, show (8 * k + i) % 8 = i by omega, hq]

theorem word_leBytes (v : Word) : BitVec.ofNat 32 (leNat (leBytes 4 v.toNat)) = v := by
  rw [leNat_leBytes, Nat.mod_eq_of_lt (show v.toNat < 256 ^ 4 from v.isLt), BitVec.ofNat_toNat, BitVec.setWidth_eq]

theorem dword_leBytes (v : DWord) : BitVec.ofNat 64 (leNat (leBytes 8 v.toNat)) = v := by
  rw [leNat_leBytes, Nat.mod_eq_of_lt (show v.toNat < 256 ^ 8 from v.isLt), BitVec.ofNat_toNat, BitVec.setWidth_eq]

section

variable {fn : Nat} (hf : fn < 64)
include hf

/-- A write of CMD gives its command. -/
theorem exec_barWrite_cmd {x : Ctx} (hx : tget s.ctxs fn = some x) {n : Nat} (hn : n < 2 ^ 32) :
    exec (.hostAgentAccess (.barWrite fn 0x000 (leBytes 4 n))) s =
      if n % 256 = 1 then exec (.preempt fn x.drain) s else if n % 256 = 2 then exec (.resume fn) s
      else if n % 256 = 3 then exec (.reset fn) s else .next s := by
  have hle : leNat (leBytes 4 n) = n := by rw [leNat_leBytes]; exact Nat.mod_eq_of_lt hn
  show execBarWrite fn 0x000 (leBytes 4 n) s = _
  unfold execBarWrite
  dsimp only
  rw [length_leBytes, hle, hx, if_neg (by simpa using hf), if_pos rfl, if_neg (by decide)]
  unfold execCmd
  split
  next h => rw [if_pos h]; rfl
  next h => rw [h]; rfl
  next h => rw [h]; rfl
  next h1 h2 h3 => rw [if_neg h1, if_neg h2, if_neg h3]

/-- A write of a 32-bit register acts as the event that names it. -/
theorem exec_barWrite_word (v : Word) :
    exec (.hostAgentAccess (.barWrite fn 0x004 (leBytes 4 v.toNat))) s = exec (.registerWrite (.drain fn) (v.zeroExtend 64)) s ∧
    exec (.hostAgentAccess (.barWrite fn 0x028 (leBytes 4 v.toNat))) s = exec (.replayDoorbell fn v) s ∧
    ∀ q < 8, exec (.hostAgentAccess (.barWrite fn (0x1000 + 8 * q) (leBytes 4 v.toNat))) s = exec (.doorbell fn q v) s := by
  have hexec (off : Nat) : exec (.hostAgentAccess (.barWrite fn off (leBytes 4 v.toNat))) s =
    execBarWrite fn off (leBytes 4 v.toNat) s := rfl
  refine ⟨?_, ?_, fun q hq => ?_⟩
  all_goals
    rw [hexec, execBarWrite]
    simp (disch := omega) only [length_leBytes, word_leBytes, if_neg, if_pos]
  · rfl
  · rfl
  · rw [show (0x1000 + 8 * q - 0x1000) / 8 = q by omega]
    rfl

/-- A write of a 64-bit register acts as the event that names it. -/
theorem exec_barWrite_dword (v : DWord) :
    exec (.hostAgentAccess (.barWrite fn 0x018 (leBytes 8 v.toNat))) s = exec (.registerWrite (.ptwaddr fn) v) s ∧
    exec (.hostAgentAccess (.barWrite fn 0x020 (leBytes 8 v.toNat))) s = exec (.ptwdataWrite fn v) s ∧
    exec (.hostAgentAccess (.barWrite fn 0x030 (leBytes 8 v.toNat))) s = exec (.ctxwcbWrite fn v) s ∧
    exec (.hostAgentAccess (.barWrite fn 0x088 (leBytes 8 v.toNat))) s = exec (.cctaskWrite fn v) s ∧
    ∀ q < 8, exec (.hostAgentAccess (.barWrite fn (0x040 + 8 * q) (leBytes 8 v.toNat))) s =
      exec (.registerWrite (.qwcb fn q) v) s := by
  have hexec (off : Nat) : exec (.hostAgentAccess (.barWrite fn off (leBytes 8 v.toNat))) s =
    execBarWrite fn off (leBytes 8 v.toNat) s := rfl
  refine ⟨?_, ?_, ?_, ?_, fun q hq => ?_⟩
  all_goals
    rw [hexec, execBarWrite]
    simp (disch := omega) only [length_leBytes, dword_leBytes, if_neg, if_pos]
  case refine_5 =>
    rw [show (0x040 + 8 * q - 0x040) / 8 = q by omega]
    rfl
  all_goals rfl

end

theorem barAccesses : BarAccesses := by
  intro s fn x hx hf
  refine ⟨?reads, fun n hn => exec_barWrite_cmd hf hx hn, exec_barWrite_word hf, exec_barWrite_dword hf⟩
  obtain ⟨hstate, hptgen, hwcb, hpasid⟩ : s.barQword fn 1 = x.state ∧ s.barQword fn 2 = x.ptgen.toNat ∧
      s.barQword fn 6 = x.wcb ∧ s.barQword fn 7 = (if x.pasiden then 2 ^ 31 else 0) + x.pasid.toNat := by
    simp only [State.barQword, hx]
    exact ⟨rfl, rfl, rfl, rfl⟩
  simp only [List.forall_mem_cons, List.not_mem_nil, false_imp_iff, implies_true, and_true]
  exact ⟨exec_barRead (k := 1) (by decide) hstate, exec_barRead (k := 2) (by decide) hptgen,
    exec_barRead (k := 6) (by decide) hwcb, exec_barRead (k := 7) (by decide) hpasid⟩

/-- Settles O48: commands and register writes by their checks, links and their translations by what each event takes out and
puts in, accesses of host agents by the home points, and the BAR register by register. -/
theorem hostActions : Obligations.HostActions := ⟨hostCommands, hostRegisters, hostLinks, barAccesses⟩

end Sys2Proof.Laws
end

section
/-! PROOF of O35: what the SWEEP words start once their checks pass and their release fences are met (R212, R242 to R258). -/

namespace Sys2Proof.Laws

open Sys2Proof.Machine Sys2Proof.Claims

variable {s : State} {i : Issue} {w : Warp} {t : Team}

/-! ### Release fences that are met (R212, R215) -/

theorem onlyPaths_postWhere (p : Wr → Bool) : OnlyPaths s (s.postWhere p) :=
  onlyPaths_foldl (fun t x => onlyPaths_postWr x (t.ctxOf x.warp)) _ s

theorem onlyPaths_settleAll : OnlyPaths s s.settleAll :=
  onlyPaths_foldl (fun t x => by split <;> [exact onlyPaths_settleBlock _; rfl]) _ s

theorem onlyPaths_ite {p : Prop} {_ : Decidable p} {u : State} (h : OnlyPaths s u) : OnlyPaths s (if p then u else s) := by
  split
  · exact h
  · rfl

theorem onlyPaths_release (wk l core sc : Nat) : OnlyPaths s (s.release wk l core sc).1 := by
  have post : OnlyPaths s (if sc = 0 then s else s.postThread wk l none) := by
    split
    · rfl
    · exact onlyPaths_postWhere _
  exact (post.trans (onlyPaths_ite (onlyPaths_pushCore core))).trans (onlyPaths_ite onlyPaths_settleAll)

theorem onlyPaths_fencesOf (wk core : Nat) (ls : List Nat) : OnlyPaths s (s.fencesOf wk core ls).1 := by
  refine foldl_keeps (fun p : State × Bool => OnlyPaths s p.1) (fun p l hp => ?_) ls rfl
  split
  · exact hp
  · split
    · exact hp
    · split
      · exact hp
      · exact hp.trans (onlyPaths_release ..)

theorem onlyPaths_relFences (core : Nat) (ls : List Nat) : OnlyPaths s (s.relFences i core ls).1 := by
  unfold State.relFences
  split
  · rfl
  · exact onlyPaths_fencesOf ..

/-- Fences that are met change no warp, so the word goes on in the warp it was issued in. -/
theorem warp_of_fencesMet {ls : List Nat} {u : State} {v : Warp} (h : FencesMet s i w ls u v t) (hw : s.warp i.warp = some w) :
    v = w := by
  obtain ⟨hmet, hv, -⟩ := h
  have hpaths : OnlyPaths s (s.relFences i w.core ls).1 := onlyPaths_relFences w.core ls
  have hwarp : u.warp i.warp = s.warp i.warp := by
    rw [hmet] at hpaths
    rw [show u = _ from hpaths]
    rfl
  rw [hwarp, hw] at hv
  exact (Option.some.inj hv).symm

theorem fenced_met {ls : List Nat} {u : State} {v : Warp} (h : FencesMet s i w ls u v t) (hw : s.warp i.warp = some w)
    (k : State → State) : s.fenced i ls k = k u := by
  unfold State.fenced
  rw [hw]
  dsimp only
  rw [h.1]

theorem onControl_normal (hv : i.view = none) (hw : s.warp i.warp = some w) (hn : w.kind = .normal) : s.onControl i = false := by
  unfold State.onControl
  rw [rdWarp_unchained hv, hw]
  simp [hn]

theorem rdAddr_eq_pairV (hc : s.onControl i = false) (l n : Nat) : s.rdAddr i l n = pairV s i l n := by
  rw [rdAddr_append hc, toNat_append_add, Nat.add_comm, Nat.mul_comm]
  rfl

/-! ### The start of an engine's operation -/

/-- A start changes the operations, the numbers given and the flags of a warp. -/
theorem startOp_frame (o : Op) : (s.startOp o).2 = { s with
    nextId := s.nextId + 1, ops := s.ops ++ [{ o with id := s.nextId }], warps := (s.startOp o).2.warps } := by
  unfold State.startOp State.modFlag State.modHelper
  dsimp only
  split
  · rfl
  · split <;> rfl

@[simp] theorem startOp_m (o : Op) : (s.startOp o).2.m = s.m := by rw [startOp_frame]
@[simp] theorem startOp_sw (o : Op) : (s.startOp o).2.sw = s.sw := by rw [startOp_frame]

/-- A start leaves what a thread reads of its registers. -/
theorem rdV_startOp {o : Op} (hk : i.kind = .thread) (hh : o.helper = none) (l n : Nat) :
    (s.startOp o).2.rdV i l n = s.rdV i l n := by
  have hreg : (s.startOp o).2.reg = s.reg := by rw [startOp_frame]
  have hrf : (s.startOp o).2.rdRf i = s.rdRf i := by
    unfold State.rdRf
    rw [hreg]
  have hkey : ((s.startOp o).2.rdWarp i).map (·.vkey l n) = (s.rdWarp i).map (·.vkey l n) := by
    unfold State.rdWarp
    split
    · rfl
    · unfold State.startOp State.modFlag
      rw [hh]
      dsimp only
      split
      · rfl
      · rw [warp_modWarp]
        split
        · rename_i heq
          rw [heq]
          exact Option.map_map ..
        · rfl
  unfold State.rdV
  rw [hk, hreg, hrf]
  revert hkey
  cases (s.startOp o).2.rdWarp i <;> cases s.rdWarp i <;> intro hkey
  · rfl
  · cases hkey
  · cases hkey
  · rw [Option.map_some, Option.map_some, Option.some.injEq] at hkey
    dsimp only
    rw [hkey]

/-! ### Entries that are numbered as they are made -/

/-- What is made of each of `xs`, numbered from `n` on. -/
def numbered {α E : Type} (mk : α → Nat → E) (n : Nat) (xs : List α) : List E := (xs.zipIdx n).map fun e => mk e.1 e.2

theorem length_numbered {α E : Type} (mk : α → Nat → E) (n : Nat) (xs : List α) : (numbered mk n xs).length = xs.length := by
  simp [numbered]

theorem getElem?_numbered {α E : Type} {mk : α → Nat → E} {n k : Nat} {xs : List α} {a : α} {z : E} (ha : xs[k]? = some a)
    (hz : (numbered mk n xs)[k]? = some z) : z = mk a (n + k) := by
  rw [numbered, List.getElem?_map, List.getElem?_zipIdx, ha] at hz
  exact (Option.some.inj hz).symm

/-- Steps that each put one entry with the next number into a queue, one after the other. -/
theorem foldl_numbered {α E : Type} {put : State → List E → State} {step : State → α → State} {mk : α → Nat → E}
    (hnil : put s [] = s) (happend : ∀ l r, put (put s l) r = put s (l ++ r))
    (hid : ∀ l, (put s l).nextId = s.nextId + l.length)
    (hstep : ∀ l a, step (put s l) a = put (put s l) [mk a (put s l).nextId]) (xs : List α) :
    xs.foldl step s = put s (numbered mk s.nextId xs) := by
  suffices h : ∀ l, xs.foldl step (put s l) = put s (l ++ numbered mk (s.nextId + l.length) xs) by
    simpa [hnil] using h []
  induction xs with
  | nil => intro l; rw [List.foldl_nil, numbered, List.zipIdx_nil, List.map_nil, List.append_nil]
  | cons a xs ih =>
    intro l
    rw [List.foldl_cons, hstep, happend, ih, List.append_assoc, hid, List.length_append]
    rfl

/-! ### The per-thread words (R257) -/

/-- What a per-thread SWEEP word may go on with: the threads' rows lie in SW memory. -/
theorem swRows_located {x : Nat} {xs : List LaneAcc} {s1 : State} (hc : s.onControl i = false) (hw : s.warp i.warp = some w)
    (ht : s.teamOf i.warp = some t) (h : RowsAt s i w t x xs s1) (k : Warp → Team → List LaneAcc → State → State) :
    s.swRows i x k = k w t xs s1 := by
  obtain ⟨hglobal, hloc, hsw⟩ := h
  have hacc : ((s.acting i).map fun l => (l, s.rdAddr i l x)) = (s.acting i).map fun l => (l, pairV s i l x) :=
    List.map_congr_left fun l _ => by rw [rdAddr_eq_pairV hc]
  have hnone : (((s.acting i).map fun l => (l, pairV s i l x)).filter fun e => apertureCode e.2 != 0) = [] := by
    rw [List.filter_eq_nil_iff, List.forall_mem_map]
    intro l hl
    simp [apertureCode_global (Nat.le_of_lt_succ (hglobal l hl))]
  have hrows : (xs.filter fun y => match y.loc with
      | .mem .sw _ => false
      | _ => true) = [] := by
    rw [List.filter_eq_nil_iff]
    intro y hy
    obtain ⟨pa, hpa⟩ := hsw y hy
    simp [hpa]
  unfold State.swRows
  dsimp only
  rw [hacc, hnone, hw, ht]
  dsimp only
  rw [hloc]
  dsimp only
  rw [if_pos]
  exact List.isEmpty_iff.mpr hrows

section PerThread

variable {s0 s1 : State} {w0 : Warp} {x : BitVec 7} {xs : List LaneAcc} {fsel : BitVec 1}

/-- The state in which `zs` are on their way to their banks. -/
def sendShots (u : State) (zs : List Shot) : State := { u with
  nextId := u.nextId + zs.length
  sw := { u.sw with shots := u.sw.shots ++ zs }
  pending := u.pending ++ zs.map fun z => .swqArrival z.id }

/-- SWQ's request for the row of a located lane. -/
def shotOf (s : State) (i : Issue) (op ctx y : Nat) (a : LaneAcc) (n : Nat) : Shot := {
  id := n, op := op, lane := a.lane, row := a.row, st := .sent, func := swqFn (s.rdV i a.lane y)
  lw16 := (s.rdV i a.lane y).getLsbD 8, k0 := s.rdV i a.lane (y + 1), k1 := s.rdV i a.lane (y + 2), ctx := ctx, va := a.addr }

/-- The state in which the activations `es` stand in their banks' queues. -/
def queueEnts (u : State) (es : List QEnt) : State := { u with
  nextId := u.nextId + es.length
  sw := { u.sw with bankq := u.sw.bankq ++ es }
  pending := u.pending ++ es.map fun e => .swurgeActivation e.id }

/-- SWURGE's activation of the row of a located lane. -/
def activationOf (op ctx : Nat) (a : LaneAcc) (n : Nat) : QEnt :=
  { id := n, host := false, pa := a.row * 1024, len := 0, ctx := some ctx, va := a.addr, act := .urge op a.lane }

/-- The state in which the sweep also holds the operation `o`. -/
def withSwOp (u : State) (o : SwOp) : State := { u with sw := { u.sw with ops := u.sw.ops ++ [o] } }

/-- A per-thread SWEEP word that nothing holds goes on with its rows once the release fences of its threads are met. -/
theorem swRows_runs {srcs dsts : List Nat} {x : Nat} {flag : Option Nat} {gate : Bool} (hready : s.ReadyT i w srcs dsts)
    (hn : w.kind = .normal) (hv : i.view = none) (hne : s.acting i ≠ []) (hheld : s.engHeld i flag (s.acting i) gate = false)
    (hmet : FencesMet s i w (s.acting i) s0 w0 t) (hrows : RowsAt s0 i w0 t x xs s1)
    (k : Warp → Team → List LaneAcc → State → State) :
    (if (s.acting i).isEmpty then s else if s.engHeld i flag (s.acting i) gate then s.stall
      else s.fenced i (s.acting i) fun u => u.swRows i x k) = k w0 t xs s1 := by
  have hw0 : w0.kind = .normal := warp_of_fencesMet hmet hready.warp ▸ hn
  obtain ⟨-, hwarp, hteam⟩ := id hmet
  rw [if_neg (by simpa using hne), hheld, if_neg Bool.false_ne_true, fenced_met hmet hready.warp,
    swRows_located (onControl_normal hv hwarp hw0) hwarp hteam hrows]

/-- SWQ's requests leave as one operation. -/
theorem foldl_sendShots {u : State} (op ctx y : Nat) (hread : ∀ l n, u.rdV i l n = s.rdV i l n) :
    xs.foldl (fun v a => { v.fresh.2 with
      sw := { v.fresh.2.sw with shots := v.fresh.2.sw.shots ++ [{
        id := v.fresh.1, op := op, lane := a.lane, row := a.row, st := .sent, func := swqFn (s.rdV i a.lane y)
        lw16 := (s.rdV i a.lane y).getLsbD 8, k0 := v.fresh.2.rdV i a.lane (y + 1), k1 := v.fresh.2.rdV i a.lane (y + 2)
        ctx := ctx, va := a.addr }] }
      pending := v.fresh.2.pending ++ [.swqArrival v.fresh.1] }) u =
      sendShots u (numbered (shotOf s i op ctx y) u.nextId xs) := by
  refine foldl_numbered (put := sendShots) ?nil ?append (fun _ => rfl) ?step xs
  case nil => simp [sendShots]
  case append => intro l r; simp [sendShots, Nat.add_assoc]
  case step =>
    intro l a
    show _ = sendShots (sendShots u l) [shotOf s i op ctx y a _]
    unfold shotOf
    rw [← hread a.lane (y + 1), ← hread a.lane (y + 2)]
    rfl

/-- SWURGE's activations leave as one operation. -/
theorem foldl_queueEnts (op ctx : Nat) (u : State) :
    xs.foldl (fun v a => { v.fresh.2 with
      sw := { v.fresh.2.sw with bankq := v.fresh.2.sw.bankq ++ [activationOf op ctx a v.fresh.1] }
      pending := v.fresh.2.pending ++ [.swurgeActivation v.fresh.1] }) u =
      queueEnts u (numbered (activationOf op ctx) u.nextId xs) := by
  refine foldl_numbered (put := queueEnts) ?nil ?append (fun _ => rfl) (fun _ _ => rfl) xs
  case nil => simp [queueEnts]
  case append => intro l r; simp [queueEnts, Nat.add_assoc]

theorem swqFn_eq (v : Word) : swqFn v = v.toNat % 256 := by
  unfold swqFn bits
  rw [Nat.pow_zero, Nat.div_one]
  rfl

/-- A word of SWQ whose function and width pass the checks. -/
theorem swqFn_passes {v : Word} (h : v.toNat % 256 ≤ 12 ∧ v.toNat < 512 ∧
    (256 ≤ v.toNat → v.toNat % 256 ≠ 5 ∧ v.toNat % 256 ≠ 11 ∧ v.toNat % 256 ≠ 12)) :
    (bits v.toNat 31 9 != 0 || !fnKnown (swqFn v)) = false ∧ fnWidthOk (swqFn v) (v.getLsbD 8) = true := by
  obtain ⟨hfn, hlt, hwidth⟩ := h
  have hhigh : bits v.toNat 31 9 = 0 := by
    unfold bits
    rw [Nat.div_eq_of_lt (by omega), Nat.zero_mod]
  rw [hhigh, swqFn_eq]
  refine ⟨by simp [fnKnown, hfn], ?_⟩
  cases hlane : v.getLsbD 8 with
  | false => rfl
  | true =>
    have hbit : 256 ≤ v.toNat := Nat.ge_two_pow_of_testBit hlane
    obtain ⟨h5, h11, h12⟩ := hwidth hbit
    simp [fnWidthOk, h5, h11, h12]

theorem sweepRequests : SweepRequests := by
  refine ⟨?swq, ?swurge, ?swstat⟩
  case swq =>
    intro s s0 s1 i w w0 t x y fsel xs hready hn hv ht hne hheld hmet hrows hroom fw hfw u
    have hrun : exec (.swq x y fsel) s = .next (sendShots (withSwOp u (.q s1.nextId (s.acting i).length))
        (numbered (shotOf s1 i s1.nextId t.ctx y.toNat) u.nextId xs)) := by
      show execSwq x y fsel s = _
      unfold execSwq
      rw [withThread_ready hready.toReady hready.threads]
      refine congrArg Host.Outcome.next ((swRows_runs hready hn hv hne hheld hmet hrows _).trans ?_)
      have hknown : ((s.acting i).filter fun l => bits (fw l).toNat 31 9 != 0 || !fnKnown (swqFn (fw l))) = [] :=
        List.filter_eq_nil_iff.mpr fun l hl => by rw [(swqFn_passes (hfw l hl)).1]; decide
      have hwidth : ((s.acting i).filter fun l => !fnWidthOk (swqFn (fw l)) ((fw l).getLsbD 8)) = [] :=
        List.filter_eq_nil_iff.mpr fun l hl => by rw [(swqFn_passes (hfw l hl)).2]; decide
      dsimp only
      rw [hknown, hwidth]
      dsimp only
      rw [hroom, Bool.not_true, if_neg Bool.false_ne_true]
      exact foldl_sendShots s1.nextId t.ctx y.toNat fun l n => rdV_startOp (s := s1) hready.threads rfl l n
    have hsw : u.sw = s1.sw := startOp_sw _
    refine ⟨_, hrun, startOp_m _, rfl, congrArg (fun z => SweepSt.ops z ++ _) hsw,
      numbered (shotOf s1 i s1.nextId t.ctx y.toNat) u.nextId xs, by rw [← hsw]; rfl, length_numbered ..,
      fun k a z ha hz => ?_⟩
    have hmem := List.mem_of_getElem? hz
    rw [getElem?_numbered ha hz] at hmem ⊢
    exact ⟨rfl, rfl, rfl, rfl, swqFn_eq _, rfl, rfl, rfl,
      List.mem_append_right _ (List.mem_map_of_mem (f := fun z : Shot => Instr.swqArrival z.id) hmem)⟩
  case swurge =>
    intro s s0 s1 i w w0 t x fsel xs hready hn hv ht hne hheld hmet hrows
    obtain ⟨u, hu⟩ : ∃ u, u = (s1.startOp (engineOp i.warp (s.acting i) (s.flagOf i (some fsel)) [])).2 := ⟨_, rfl⟩
    have hrun : exec (.swurge x fsel) s = .next (queueEnts (withSwOp u (.urge s1.nextId (s.acting i).length))
        (numbered (activationOf s1.nextId t.ctx) u.nextId xs)) := by
      show execSwurge x fsel s = _
      unfold execSwurge
      rw [withThread_ready hready.toReady hready.threads, hu]
      exact congrArg Host.Outcome.next ((swRows_runs hready hn hv hne hheld hmet hrows _).trans (foldl_queueEnts ..))
    have hsw : u.sw = s1.sw := hu ▸ startOp_sw _
    refine ⟨_, hrun, hu ▸ startOp_m _, congrArg (fun z => SweepSt.ops z ++ _) hsw,
      numbered (activationOf s1.nextId t.ctx) u.nextId xs, by rw [← hsw]; rfl, length_numbered .., fun k a z ha hz => ?_⟩
    have hmem := List.mem_of_getElem? hz
    rw [getElem?_numbered ha hz] at hmem ⊢
    exact ⟨rfl, rfl, List.mem_append_right _ (List.mem_map_of_mem (f := fun e : QEnt => Instr.swurgeActivation e.id) hmem)⟩
  case swstat =>
    intro s s0 s1 i w w0 t x d fsel xs hready hn hv ht hne hheld hmet hrows u
    show execSwstat x d fsel s = _
    unfold execSwstat
    rw [withThread_ready hready.toReady hready.threads]
    exact congrArg Host.Outcome.next (swRows_runs hready hn hv hne hheld hmet hrows _)

end PerThread

/-! ### Regions (R242, R243, R256) -/

/-- A word that acts through a leader runs when its leader may issue it. -/
theorem withThread_leader {srcs dsts : List Nat} {l : Nat} {flag : Option Nat} {gate : Bool}
    (h : LeaderReady s i w t srcs dsts l flag gate) (k : Issue → State → State) :
    s.withThread srcs dsts k (who := State.leaderLanes) = k i s := by
  obtain ⟨⟨⟨hiss, hnamed, hheld⟩, hthread, -⟩, -, -, -, hleader, -⟩ := h
  have hmem : l ∈ s.acting i := mem_of_minNat? hleader
  have hfree : s.recruitHeld i (s.leaderLanes i) dsts = false := by
    rw [State.leaderLanes, hleader]
    revert hheld
    unfold State.recruitHeld
    cases s.recruiter i with
    | none => exact id
    | some r =>
      by_cases hr : r = l
      · subst hr
        simp [hmem]
      · simp [hr]
  simp [State.withThread, hiss, hnamed, hthread, hfree]

section Leader

variable {srcs dsts : List Nat} {l : Nat} {flag : Option Nat} {gate : Bool} {s0 : State} {w0 : Warp}

/-- A SWEEP or NMEM word that acts once goes on once the release fences of its warp's threads are met. -/
theorem leader_runs (h : LeaderReady s i w t srcs dsts l flag gate) (hmet : FencesMet s i w w.lanes s0 w0 t)
    (k : Nat → State → State) :
    (match s.leader i with
      | none => s
      | some l => if s.engHeld i flag [l] gate then s.stall else s.fenced i (s.warpLanes i) (k l)) = k l s0 := by
  have hlanes : s.warpLanes i = w.lanes := by
    rw [State.warpLanes, h.ready.warp]
    rfl
  rw [h.leader]
  dsimp only
  rw [h.unheld, if_neg Bool.false_ne_true, hlanes, fenced_met hmet h.ready.warp]

theorem onControl_fenced (h : LeaderReady s i w t srcs dsts l flag gate) (hmet : FencesMet s i w w.lanes s0 w0 t) :
    s0.onControl i = false := by
  have hw0 : w0.kind = .normal := warp_of_fencesMet hmet h.ready.warp ▸ h.normal
  exact onControl_normal h.view hmet.2.1 hw0

end Leader

theorem structAddr_global {l a lg : Nat} (h : GlobalAt a (2 ^ lg)) (k : State → State) : s.structAddr l a lg k = k s := by
  obtain ⟨hlt, hmod⟩ := h
  unfold State.structAddr
  rw [apertureCode_global (Nat.le_of_lt_succ hlt), if_neg (by decide), if_neg (by simp [hmod])]

/-- A descriptor that has been read serves the held group. -/
theorem withDesc_read {l a : Nat} {e : Nat × List Byte} (hw : s.warp i.warp = some w) (ht : s.teamOf i.warp = some t)
    (he : (s.descs.find? fun e => e.1 == (i.warp * 128 + l) * 2 ^ 64 + a) = some e) (hne : e.2 ≠ []) (ev : Nat → Instr)
    (k : Warp → Team → List Byte → State → State) : s.withDesc i l a ev k =
      k w t e.2 { s with descs := s.descs.filter fun y => y.1 != (i.warp * 128 + l) * 2 ^ 64 + a } := by
  unfold State.withDesc descKey
  rw [hw, ht]
  dsimp only
  rw [he]
  dsimp only
  rw [if_neg (by simpa using hne)]

theorem sweepRegions : SweepRegions := by
  refine ⟨?swreg, ?register, ?swdereg, ?swlive⟩
  case swreg =>
    intro s s0 i w w0 t x d fsel l h e hready hmet
    dsimp only
    intro ha he hne hbad hfn hwidth hfree hhandle
    show execSwreg x d fsel s = _
    unfold execSwreg
    rw [withThread_leader hready]
    refine congrArg Host.Outcome.next ((leader_runs hready hmet _).trans ?_)
    dsimp only
    rw [rdAddr_eq_pairV (onControl_fenced hready hmet), structAddr_global (lg := 6) ha,
      withDesc_read hmet.2.1 hmet.2.2 he hne]
    have hknown : fnKnown (bits (leNat e.2) 103 96) = true := decide_eq_true hfn
    simp only [hbad, hknown, hwidth, hfree, hhandle, Bool.not_true, Bool.false_eq_true, if_false]
  case register =>
    intro s i w ctx wcb l d h v flag
    have hsw : (s.startOp { blankOp i.warp .engine with lanes := [l], flag := flag, vdests := [(l, d)] }).2.sw = s.sw :=
      startOp_sw _
    exact ⟨_, congrArg (· ++ _) (congrArg SweepSt.regions hsw), rfl, rfl, congrArg (· % 2 ^ 64) (Nat.div_one v), rfl, rfl, rfl,
      (BitVec.toNat_ofNat ..).trans (Nat.mod_mod (v / 2 ^ 128) _), (BitVec.toNat_ofNat ..).trans (Nat.mod_mod (v / 2 ^ 160) _),
      rfl, rfl, List.mem_append_right _ List.mem_cons_self⟩
  case swdereg =>
    intro s s0 i w w0 t h fsel l r hready hmet hr
    dsimp only
    have hctx : s0.ctxOf i.warp = t.ctx := by rw [State.ctxOf, hmet.2.2]; rfl
    have hrun : exec (.swdereg h fsel) s = .next (if r.st ≠ .registered ∨ r.ctx ≠ t.ctx then s0.raise 0x12 [l] 0 0x26
        else State.deregister (withSwOp (s0.startOp (engineOp i.warp [l] (s.flagOf i (some fsel)) [])).2
          (.dereg s0.nextId r.handle)) r) := by
      show execSwdereg h fsel s = _
      unfold execSwdereg
      rw [withThread_leader hready]
      refine congrArg Host.Outcome.next ((leader_runs hready hmet _).trans ?_)
      dsimp only
      rw [hr, hctx]
      rfl
    rw [hrun]
    exact ⟨fun ⟨hst, hown⟩ => congrArg Host.Outcome.next (if_neg (by simp [hst, hown])),
      fun hbad => congrArg Host.Outcome.next (if_pos hbad)⟩
  case swlive =>
    intro s s0 s1 i w w0 t x n fsel l alive word hword hready hmet a cnt ha hpos hmax hend hfold u
    have hexec : exec word s = .next (s.swlive x.toNat n.toNat fsel alive) := by
      rcases hword with h | h <;> cases h <;> rfl
    rw [hexec]
    unfold State.swlive
    rw [withThread_leader hready]
    refine congrArg Host.Outcome.next ((leader_runs hready hmet _).trans ?_)
    dsimp only
    have haddr : ¬(apertureCode a ≠ 0 ∨ gapTop < a + 65536 * cnt - 1) := by
      unfold gapTop
      rw [apertureCode_global (by omega)]
      omega
    rw [rdAddr_eq_pairV (onControl_fenced hready hmet), if_neg (show ¬(a % 65536 ≠ 0 ∨ cnt = 0 ∨ 2 ^ 20 < cnt) by omega),
      if_neg haddr, hmet.2.1, hmet.2.2]
    dsimp only
    generalize hp : List.foldl _ _ _ = p
    rw [show p = (false, s1) from hp.symm.trans hfold]
    rfl

/-- Settles O35, by running each word past its checks to what it starts. -/
theorem sweepWords : Obligations.SweepWords := ⟨sweepRequests, sweepRegions⟩

end Sys2Proof.Laws
end

section
/-! PROOF of O37: registrations, deregistrations and granules of the sweep (R243, R244, R251, R256, R258), and the levels it
notes (R237, R421). -/

namespace Sys2Proof.Laws

open Sys2Proof.Machine Sys2Proof.Claims

variable {s : State}

/-! ### The end of an operation -/

/-- An end changes the operations and the flags of a warp. -/
theorem endOp_frame (id : Nat) : s.endOp id = { s with
    ops := s.ops.filter fun o => o.id != id, warps := (s.endOp id).warps } := by
  unfold State.endOp State.modFlag State.modHelper
  split
  next h =>
    have hnone := List.find?_eq_none.mp h
    rw [List.filter_eq_self.mpr fun o ho => by simpa using hnone o ho]
  next => split <;> [rfl; (split <;> rfl)]

@[simp] theorem endOp_ops (id : Nat) : (s.endOp id).ops = s.ops.filter fun o => o.id != id := by rw [endOp_frame]
@[simp] theorem endOp_sw (id : Nat) : (s.endOp id).sw = s.sw := by rw [endOp_frame]

/-! ### Registrations (R244, R256) -/

theorem region_single {r : Region} (h : s.sw.regions = [r]) : s.region r.handle = some r := by
  rw [State.region, h]
  exact List.find?_cons_of_pos (beq_self_eq_true _)

theorem modRegion_single {r : Region} (h : s.sw.regions = [r]) (f : Region → Region) :
    s.modRegion r.handle f = { s with sw := { s.sw with regions := [f r] } } := by
  simp [State.modRegion, h]

/-- A registration reaches a bank behind the entries that were queued before it. -/
theorem exec_sweepRegArrive {bank : Nat} {r : Region} (hr : s.sw.regions = [r]) (hst : r.st = .registering)
    (hbank : bank ∉ r.arrived) (hq : ∀ e ∈ s.sw.bankq, rowBank (e.pa / 1024) = bank → r.op ≤ e.id) :
    exec (.sweepRegArrive r.handle bank) s = .next { s with
      sw := { s.sw with regions := [{ r with arrived := r.arrived ++ [bank] }] } } := by
  have hfree : (s.sw.bankq.any fun e => rowBank (e.pa / 1024) == bank && decide (e.id < r.op)) = false := by
    rw [List.any_eq_false]
    intro e he hold
    obtain ⟨hb, hid⟩ := Bool.and_eq_true_iff.mp hold
    exact Nat.not_le_of_lt (of_decide_eq_true hid) (hq e he (beq_iff_eq.mp hb))
  show execSweepRegArrive r.handle bank s = _
  unfold execSweepRegArrive
  rw [region_single hr]
  dsimp only
  rw [hfree, if_neg Bool.false_ne_true, modRegion_single hr, if_neg]
  simp [hst, hbank]

theorem exec_swregComplete {op lane d core wcb : Nat} {rest : List SwOp} {r : Region}
    (hops : s.sw.ops = SwOp.reg op r.handle lane d core wcb :: rest) (hr : s.region r.handle = some r)
    (hpages : (r.base + 1024 * r.rows - 1) / 65536 - r.base / 65536 + 1 ≤ r.pages.length) (hall : ∀ b ∈ r.banks, b ∈ r.arrived) :
    exec (.swregComplete op) s = .next ((s.modRegion r.handle fun r => { r with st := .registered }).swregEnd op lane d
      r.handle) := by
  have hbanks : (r.banks.all fun b => r.arrived.contains b) = true :=
    List.all_eq_true.mpr fun b hb => List.contains_iff_mem.mpr (hall b hb)
  show execSwregComplete op s = _
  unfold execSwregComplete
  simp only [hops, List.find?_cons, beq_self_eq_true, hr, if_neg (Nat.not_lt.mpr hpages), hbanks, if_true]

/-! ### Deregistrations (R244, R256) -/

/-- The words that wait for the deregistration of a region. -/
def deregsOf (ops : List SwOp) (handle : Nat) : List Nat := ops.filterMap fun x => match x with
  | .dereg o h => if h = handle then some o else none
  | _ => none

theorem exec_sweepDeregArrive {bank : Nat} {r : Region} (hr : s.region r.handle = some r) (hst : r.st = .leaving)
    (hbank : bank ∉ r.left) : exec (.sweepDeregArrive r.handle bank) s = .next (
      let u := s.modRegion r.handle fun x => { x with left := r.left ++ [bank] }
      if !(r.banks.all fun b => (r.left ++ [bank]).contains b) then u
      else (deregsOf u.sw.ops r.handle).foldl (fun s o => (s.endOp o).dropSwOp o) (u.dropRegion r.handle)) := by
  have hnew : r.left.contains bank = false := Bool.eq_false_iff.mpr fun h => hbank (List.contains_iff_mem.mp h)
  show execSweepDeregArrive r.handle bank s = _
  unfold execSweepDeregArrive
  rw [hr]
  dsimp only
  rw [hst, hnew]
  rfl

/-! ### Granules (R251, R252, R258) -/

theorem serveRow_of_empty (h : s.sw.bankq = []) (row : Nat) : s.serveRow row = s := by
  rw [State.serveRow, h]
  rfl

theorem serveRows_of_empty (h : s.sw.bankq = []) (rows : List Nat) : rows.foldl (fun s row => s.serveRow row) s = s := by
  induction rows with
  | nil => rfl
  | cons row rows ih => rw [List.foldl_cons, serveRow_of_empty h, ih]

/-- With nothing in its banks' queues and lists, a granule that goes dead loses its bytes. -/
theorem setLive_dead {g : Nat} (hq : s.sw.bankq = []) (hs : s.sw.shots = []) (hd : s.sw.dead.contains g = false) :
    (s.setLive g false).m.mem = tclear s.m.mem (g * 65536) ((g + 1) * 65536) := by
  unfold State.setLive
  rw [serveRows_of_empty hq]
  simp only [hd, hs, List.filter_nil]
  rfl

/-- A granule that comes to life holds zeros, and only the marks of errors change after. -/
theorem setLive_live {g : Nat} (hq : s.sw.bankq = []) (hd : s.sw.dead.contains g = true) :
    (s.setLive g true).m.mem = tclear s.m.mem (g * 65536) ((g + 1) * 65536) ∧
    (s.setLive g true).sw.dead = s.sw.dead.filter (· != g) := by
  unfold State.setLive
  rw [serveRows_of_empty hq]
  simp only [hd, if_true, Bool.not_true, Bool.false_eq_true, if_false]
  rw [onlyUe_foldl (f := fun t row => t.cleanRow row) (fun _ _ => rfl) (regRange (g * 64) 64) _]
  exact ⟨rfl, rfl⟩

theorem mget_cleared {g a : Nat} (m : Memory) (h : a / 65536 = g) : mget (tclear m (g * 65536) ((g + 1) * 65536)) a = 0 := by
  rw [mget, tget_tclear, if_pos (by omega)]
  rfl

theorem exec_swliveArrive {s1 : State} {op g ctx va core wcb pa : Nat} {alive : Bool} {rest : List SwOp}
    (hops : s.sw.ops = SwOp.live op alive [g] ctx va core wcb :: rest) (hw : s.waits (.engine op g) = false)
    (hx : s.engineXlate (.core core) ctx (va + 65536 * g) 0 .store = (.at (.mem .sw pa), s1)) :
    exec (.swliveArrive op g) s = .next ((((s1.setLive (pa / 65536) alive).dropSwOp op).endOp op).clearFailed op) := by
  show execSwliveArrive op g s = _
  unfold execSwliveArrive
  simp [hops, hw, hx]

theorem sweepEvents : SweepEvents := by
  refine ⟨?arrives, ?registered, ?leaves, ?left, fun _ _ => ⟨rfl, rfl⟩, ?granule, ?zeros, fun _ _ => ⟨rfl, rfl⟩,
    fun _ _ => ⟨rfl, rfl⟩⟩
  case arrives =>
    rintro s _ bank r hr rfl
    exact exec_sweepRegArrive hr
  case registered =>
    intro s op lane d core wcb rest r
    exact exec_swregComplete
  case leaves =>
    intro s bank r hr hst hbank ⟨b, hb, hleft, hne⟩
    have hmore : (r.banks.all fun b => (r.left ++ [bank]).contains b) = false :=
      List.all_eq_false.mpr ⟨b, hb, by simp [hleft, hne]⟩
    rw [exec_sweepDeregArrive hr hst hbank, hmore]
    rfl
  case left =>
    intro s r bank op hr hst hbank hall hops
    have hlast : (r.banks.all fun b => (r.left ++ [bank]).contains b) = true :=
      List.all_eq_true.mpr fun b hb => by simpa using hall b hb
    rw [exec_sweepDeregArrive (region_single hr) hst hbank, hlast, modRegion_single hr]
    simp [State.dropSwOp, State.dropRegion, deregsOf, hops]
  case granule =>
    intro s s1 op g ctx va core wcb pa alive rest
    exact exec_swliveArrive
  case zeros =>
    intro s g hq hs
    refine ⟨fun a ha hd => ?_, fun a ha hd => ?_⟩
    · rw [setLive_dead hq hs hd]
      exact mget_cleared _ ha
    · obtain ⟨hmem, hdead⟩ := setLive_live hq hd
      have hgranule : a / 1024 / 64 = g := by omega
      refine ⟨hmem ▸ mget_cleared _ ha, ?_⟩
      rw [State.liveRow, hdead, hgranule]
      simp

/-- Settles O37, by the arrivals at single banks and what the last one completes, and by what a granule's change clears. -/
theorem sweepRegionEvents : Obligations.SweepRegionEvents := sweepEvents

end Sys2Proof.Laws
end

section
/-! PROOF of O39: what the read of a descriptor keeps where its bytes cannot be read (R253). -/

namespace Sys2Proof.Laws

open Sys2Proof.Machine Sys2Proof.Claims

/-- The key of the descriptor at 0x3_8000 that lane 0 of warp 1 names. -/
def heldKey : Nat := descKey 1 0 0x3_8000

/-- Warp 1 runs, the page at 0x3_0000 is translated, and the first code word of its 64 bytes at 0x3_8000 is uncorrectable. -/
def spoiledDesc : State :=
  let s := State.reset.place 0#32
  { s with m := { s.m with ue := [(0x1_8000 / 32, { syndrome := false, written := 0 })] } }

theorem spoiledDesc_translated : spoiledDesc.engineXlate (.core (wordWarp 4).core) wordTeam.ctx (heldKey % 2 ^ 64) 0 .load =
    (.at (.mem .normal 0x1_8000), spoiledDesc) := by
  rfl

theorem spoiledDesc_fences : spoiledDesc.fencesOf 1 0 (wordWarp 4).lanes = (spoiledDesc, true) := by
  rfl

/-- SWREG_DESCRIPTOR_READ keeps no byte for the group, which will trap. -/
theorem spoiledDesc_kept (v : State) (h : exec (.swregDescriptorRead heldKey) spoiledDesc = .next v) :
    v.descs = [(heldKey, [])] := by
  have hrun : (match execSwregDescriptorRead heldKey spoiledDesc with
    | .next v => v.descs == [(heldKey, [])]
    | _ => true) = true := by decide +kernel
  have h : execSwregDescriptorRead heldKey spoiledDesc = .next v := h
  rw [h] at hrun
  exact beq_iff_eq.mp hrun

/-- Refutes O39: the read of a descriptor keeps the 64 bytes at its home point only where every code word of them can be read. The
claim has no such premise, and where one is uncorrectable the group is left an empty descriptor, at which it traps. -/
theorem not_nearMemoryWordsAndCompletion : ¬ Obligations.NearMemoryWordsAndCompletion := by
  rintro ⟨-, hreads, -⟩
  obtain ⟨hread, -⟩ := hreads spoiledDesc heldKey 0x1_8000 (wordWarp 4) wordTeam .normal rfl rfl spoiledDesc_fences
    (fun _ h => absurd h List.not_mem_nil) spoiledDesc_translated (by decide)
  have hempty := spoiledDesc_kept _ hread
  exact absurd hempty (by decide)

end Sys2Proof.Laws
end

section
/-! PROOF of O50: the bring-up and its boot-step records (R410, R416 to R418), and the rules of the management controller
(R253, R419 to R424). -/

namespace Sys2Proof.Laws

open Sys2Proof.Machine Sys2Proof.Claims

variable {s : State}

/-! ### Boot-step records (R417) -/

theorem bootRec_toNat (r : BootRec) : r.bits.toNat =
    r.step.toNat + 2 ^ 8 * r.outcome.toNat + 2 ^ 16 * r.cores.toNat + 2 ^ 24 * r.rate.toNat + 2 ^ 32 * r.seq.toNat := by
  unfold BootRec.bits
  simp only [toNat_append_add, BitVec.toNat_ofNat]
  omega

theorem ofBits_bits (r : BootRec) : BootRec.ofBits r.bits = r := by
  obtain ⟨seq, rate, cores, outcome, step⟩ := r
  have hbits := bootRec_toNat ⟨seq, rate, cores, outcome, step⟩
  dsimp only at hbits
  unfold BootRec.ofBits
  congr 1
  all_goals
    rw [← BitVec.toNat_inj, BitVec.extractLsb'_toNat, hbits, Nat.shiftRight_eq_div_pow]
    omega

/-- The record of a step's outcome that the flash takes next. -/
def nextRecord (s : State) (st rate outcome cores : Nat) : BootRec := {
  seq := BitVec.ofNat 32 ((s.mg.records.map fun r => r.seq.toNat).foldl max 0 + 1), rate := BitVec.ofNat 8 rate
  cores := BitVec.ofNat 8 cores, outcome := BitVec.ofNat 8 outcome, step := BitVec.ofNat 8 st }

theorem bootRecord_eq (st rate outcome cores : Nat) : s.bootRecord st rate outcome cores =
    { s with mg := { s.mg with boot := s.mg.boot ++ [(nextRecord s st rate outcome cores).bits] } } := rfl

@[simp] theorem fence_bootRecord (st rate outcome cores : Nat) : (s.bootRecord st rate outcome cores).mg.fence = s.mg.fence := rfl

@[simp] theorem doneFields_bootRecord (st rate outcome cores : Nat) :
    (s.bootRecord st rate outcome cores).mg.doneFields = s.mg.doneFields := rfl

theorem records_bootRecord (st rate outcome cores : Nat) :
    (s.bootRecord st rate outcome cores).mg.records = s.mg.records ++ [nextRecord s st rate outcome cores] := by
  rw [bootRecord_eq]
  unfold MgmtSt.records
  rw [List.map_append, List.map_singleton, ofBits_bits]

theorem ofNat_ne {a b : Nat} (ha : a < 256) (hb : b < 256) (h : a ≠ b) : BitVec.ofNat 8 a ≠ BitVec.ofNat 8 b := by
  intro he
  have := congrArg BitVec.toNat he
  rw [BitVec.toNat_ofNat, BitVec.toNat_ofNat] at this
  omega

/-- A record of one step is not the latest of another. -/
theorem latest_bootRecord {st n : Nat} (rate outcome cores : Nat) (hst : st < 256) (hn : n < 256) (hne : n ≠ st) :
    (s.bootRecord st rate outcome cores).mg.latest n = s.mg.latest n := by
  unfold MgmtSt.latest
  rw [records_bootRecord, List.reverse_append, List.reverse_singleton, List.singleton_append, List.find?_cons_of_neg]
  exact fun h => ofNat_ne hst hn hne.symm (beq_iff_eq.mp h)

theorem rate_congr {m k : MgmtSt} {n : Nat} (h : m.latest n = k.latest n) : m.rate n = k.rate n := by
  unfold MgmtSt.rate
  rw [h]

theorem rate_done {m : MgmtSt} {st : Nat} {r : BootRec} (h : m.latest st = some r) (ho : r.outcome = 1) :
    m.rate st = some r.rate.toNat := by
  unfold MgmtSt.rate
  rw [h]
  exact if_pos ho

/-- A step that failed at 10 or 8 Gb/s runs 2 Gb/s slower; one that failed at 6 leaves its field fenced. -/
theorem rate_failed {m : MgmtSt} {st : Nat} {r : BootRec} (h : m.latest st = some r) (ho : r.outcome = 2) :
    (r.rate = 10 → m.rate st = some 8) ∧ (r.rate = 8 → m.rate st = some 6) ∧ (r.rate = 6 → m.rate st = none) := by
  unfold MgmtSt.rate
  rw [h]
  dsimp only
  rw [ho, if_neg (by decide), if_neg (by decide)]
  refine ⟨fun hr => ?_, fun hr => ?_, fun hr => ?_⟩
  all_goals
    rw [hr]
    rfl

theorem rate_of_erased {m : MgmtSt} (h : m.boot = []) (st : Nat) : m.rate st = some (if stackStep st then 10 else 0) := by
  have hnone : m.latest st = none := by rw [MgmtSt.latest, MgmtSt.records, h]; rfl
  rw [MgmtSt.rate, hnone]

/-! ### Steps of a start (R416, R417) -/

/-- Where one element of a fold brings about what every element keeps, it holds at the end. -/
theorem foldl_reaches {α β : Type} {P : β → Prop} {f : β → α → β} {x : α} {l : List α} (hmem : x ∈ l) (hx : ∀ b, P (f b x))
    (hkeep : ∀ b y, P b → P (f b y)) (b : β) : P (l.foldl f b) := by
  obtain ⟨r, q, rfl⟩ := List.append_of_mem hmem
  rw [List.foldl_append, List.foldl_cons]
  exact foldl_keeps P hkeep q (hx _)

/-- `t` differs from `s` at most in its cores and schedulers. -/
def OnlyCores (s t : State) : Prop := t = { s with cores := t.cores, scheds := t.scheds }

theorem OnlyCores.mg {t : State} (h : OnlyCores s t) : t.mg = s.mg := by rw [h]

theorem OnlyCores.sk {t : State} (h : OnlyCores s t) : t.sk = s.sk := by rw [h]

theorem onlyCores_foldl {α : Type} {f : State → α → State} (hf : ∀ t x, OnlyCores t (f t x)) (l : List α) (s : State) :
    OnlyCores s (l.foldl f s) :=
  foldl_keeps (OnlyCores s) (fun t x h => by
    unfold OnlyCores at *
    rw [hf t x, h]) l rfl

theorem onlyCores_presentField (f : Nat) : OnlyCores s (s.presentField f) := by
  unfold State.presentField
  refine onlyCores_foldl (fun t i => ?_) _ s
  rfl

theorem core_presentField_keeps {k : Nat} (f : Nat) (h : tget s.cores k = some blankCore) :
    tget (s.presentField f).cores k = some blankCore := by
  refine foldl_keeps (fun t : State => tget t.cores k = some blankCore) (fun t i ht => ?_) _ h
  show tget (tset t.cores (12 * f + i) blankCore) k = _
  rw [tget_tset, ht]
  exact ite_self _

theorem core_presentField (f : Nat) {i : Nat} (hi : i < 12) : tget (s.presentField f).cores (12 * f + i) = some blankCore := by
  refine foldl_reaches (P := fun t : State => tget t.cores (12 * f + i) = some blankCore) (List.mem_range.mpr hi)
    (fun t => tget_tset_same ..) (fun t j ht => ?_) s
  show tget (tset t.cores (12 * f + j) blankCore) _ = _
  rw [tget_tset, ht]
  exact ite_self _

theorem bootNext_runs {st : Nat} (rest : List Nat) (h : stepField st < s.mg.fence) : s.bootNext (st :: rest) =
    let u := s.bootRecord st ((s.mg.rate st).getD 0) 0 s.mg.cores
    { u with mg := { u.mg with todo := rest, running := some (st, (s.mg.rate st).getD 0) } } :=
  if_neg (Nat.not_le.mpr h)

theorem bootNext_skips {st : Nat} (rest : List Nat) (h : s.mg.fence ≤ stepField st) :
    s.bootNext (st :: rest) = (s.bootRecord st 0 3 s.mg.cores).bootNext rest := if_pos h

/-- The machine once firmware has set up Skovlink at the end of a start. -/
def routed (s : State) : State := { s with mg := { s.mg with todo := [], running := none } }.setRoutes

/-- The fields whose cores a start presents. -/
def upFields (m : MgmtSt) : List Nat := m.doneFields.filter fun f => f < m.fence

/-- Free bytes change nothing but the count of what is free. -/
theorem freeBytes_eq (n : Nat) : (s.freeBytes n).1.length = 4 * n ∧
    (s.freeBytes n).2 = { s with freeCount := (s.freeBytes n).2.freeCount } := by
  unfold State.freeBytes
  induction n with
  | zero => exact ⟨rfl, rfl⟩
  | succ n ih =>
    rw [List.range_succ, List.foldl_append]
    revert ih
    generalize List.foldl _ ([], s) (List.range n) = p
    obtain ⟨b, u⟩ := p
    rintro ⟨hlen, hframe⟩
    dsimp only at hlen hframe
    refine ⟨?_, ?_⟩
    · show (b ++ leBytes 4 _).length = _
      rw [List.length_append, hlen, length_leBytes]
      rfl
    · show ({ u with freeCount := u.freeCount + 1 } : State) = { s with freeCount := u.freeCount + 1 }
      rw [hframe]

theorem setRoutes_eq : s.setRoutes.mg = s.mg ∧ s.setRoutes.sk.routes.map (·.1) = List.range 256 := by
  have hbytes := freeBytes_eq (s := s) 65
  unfold State.setRoutes
  revert hbytes
  generalize s.freeBytes 65 = p
  obtain ⟨b, u⟩ := p
  rintro ⟨hlen, hframe⟩
  dsimp only at hlen hframe ⊢
  refine ⟨by rw [hframe], List.map_fst_zip ?_⟩
  rw [List.length_range, List.length_map, hlen]
  decide

theorem mg_routed : (routed s).mg = { s.mg with todo := [], running := none } :=
  (setRoutes_eq (s := { s with mg := { s.mg with todo := [], running := none } })).1

theorem routes_routed : (routed s).sk.routes.map (·.1) = List.range 256 :=
  (setRoutes_eq (s := { s with mg := { s.mg with todo := [], running := none } })).2

theorem bootNext_nil : s.bootNext [] = (upFields s.mg).foldl State.presentField (routed s) := by
  have hmg : upFields (routed s).mg = upFields s.mg := by rw [mg_routed]; rfl
  rw [← hmg]
  rfl

theorem onlyCores_presentFields (fs : List Nat) : OnlyCores s (fs.foldl State.presentField s) :=
  onlyCores_foldl (fun _ f => onlyCores_presentField f) fs s

/-- The end of a start: no step runs, every device number has a port mask, and the fields that are up have their cores. -/
theorem bootNext_ends : (s.bootNext []).mg.running = none ∧ (s.bootNext []).sk.routes.map (·.1) = List.range 256 ∧
    ∀ f ∈ s.mg.doneFields, f < s.mg.fence → ∀ i < 12, tget (s.bootNext []).cores (12 * f + i) = some blankCore := by
  rw [bootNext_nil]
  have hframe := onlyCores_presentFields (s := routed s) (upFields s.mg)
  refine ⟨?_, ?_, fun f hf hlt i hi => ?_⟩
  · rw [hframe.mg, mg_routed]
  · rw [hframe.sk, routes_routed]
  · exact foldl_reaches (P := fun t : State => tget t.cores (12 * f + i) = some blankCore)
      (List.mem_filter.mpr ⟨hf, decide_eq_true hlt⟩) (fun t => core_presentField f hi) (fun t g => core_presentField_keeps g) _

theorem fence_bootNext (l : List Nat) : (s.bootNext l).mg.fence = s.mg.fence := by
  induction l generalizing s with
  | nil =>
    rw [bootNext_nil, (onlyCores_presentFields _).mg, mg_routed]
  | cons st rest ih =>
    rcases Nat.lt_or_ge (stepField st) s.mg.fence with h | h
    · rw [bootNext_runs rest h]
      rfl
    · rw [bootNext_skips rest h, ih]
      rfl

/-! ### Starts, and the ends of steps (R416 to R418) -/

theorem fenced_of_erased {m : MgmtSt} (h : m.boot = []) : m.fenced = 4 ∧ m.cutShort = [] := by
  unfold MgmtSt.fenced MgmtSt.cutShort
  simp [rate_of_erased h]

/-- A start of an empty flash begins with the first step, no field fenced. -/
theorem bootStart_of_erased (h : s.mg.boot = []) : s.bootStart.mg.running = some (1, 0) ∧
    s.bootStart.mg.todo = [0x02, 0x03, 0x11, 0x04, 0x05, 0x12, 0x06, 0x07, 0x13, 0x08, 0x09] ∧ s.bootStart.mg.fence = 4 ∧
    s.bootStart.mg.boot = [({ seq := 1, rate := 0, cores := 0, outcome := 0, step := 1 } : BootRec).bits] := by
  obtain ⟨hfence, hcut⟩ := fenced_of_erased h
  obtain ⟨u, hu⟩ : ∃ u : State, u = { s with mg := { s.mg with fence := 4, doneFields := [], offLinks := false } } := ⟨_, rfl⟩
  have hstart : s.bootStart = u.bootNext bootSteps := by
    unfold State.bootStart
    rw [hfence, hcut, hu]
    rfl
  have hboot : u.mg.boot = [] := by rw [hu, h]
  have hrate : (u.mg.rate 1).getD 0 = 0 := by rw [rate_of_erased hboot]; rfl
  have hfirst : nextRecord u 1 0 0 u.mg.cores = { seq := 1, rate := 0, cores := 0, outcome := 0, step := 1 } := by
    unfold nextRecord MgmtSt.records
    rw [hboot, hu]
    rfl
  have hlow : stepField 1 < u.mg.fence := by rw [hu]; show stepField 1 < 4; decide
  rw [hstart, bootSteps, bootNext_runs _ hlow, hrate, bootRecord_eq, hfirst, hboot]
  exact ⟨rfl, rfl, by rw [hu], rfl⟩

/-- The machine when a step is done: a field step's field has come up, and after the first step the host links are up. -/
def stepDone (s : State) (st : Nat) : State :=
  let u := if stackStep st then s else { s with mg := { s.mg with doneFields := s.mg.doneFields ++ [stepField st] } }
  if st = 1 then { u with hl := { u.hl with up := [true, true] } } else u

theorem mg_stepDone (st : Nat) : (stepDone s st).mg = { s.mg with
    doneFields := if stackStep st then s.mg.doneFields else s.mg.doneFields ++ [stepField st] } := by
  unfold stepDone
  cases stackStep st <;> by_cases h : st = 1 <;> simp [h]

@[simp] theorem doneFields_stepDone (st : Nat) : (stepDone s st).mg.doneFields =
    if stackStep st then s.mg.doneFields else s.mg.doneFields ++ [stepField st] := by rw [mg_stepDone]

@[simp] theorem fence_stepDone (st : Nat) : (stepDone s st).mg.fence = s.mg.fence := by rw [mg_stepDone]

theorem exec_bringupStepEnd_done {st rate : Nat} (h : s.mg.running = some (st, rate)) : exec (.bringupStepEnd true) s =
    .next (((stepDone s st).bootRecord st rate 1 (stepDone s st).mg.cores).bootNext s.mg.todo) := by
  have htodo : (stepDone s st).mg.todo = s.mg.todo := by rw [mg_stepDone]
  show execBringupStepEnd true s = _
  rw [← htodo]
  unfold execBringupStepEnd
  rw [h]
  rfl

theorem exec_bringupStep_fails {st rate : Nat} (h : s.mg.running = some (st, rate)) :
    exec .bringupStepTimeout s = .next (s.bootFail st rate) ∧ exec (.bringupStepEnd false) s = .next (s.bootFail st rate) := by
  constructor
  · show execBringupStepTimeout s = _
    unfold execBringupStepTimeout
    rw [h]
  · show execBringupStepEnd false s = _
    unfold execBringupStepEnd
    rw [h]
    rfl

theorem mg_history (rec : List Byte) : ∃ h, (s.history rec).mg = { s.mg with history := h } := by
  unfold State.history
  exact ⟨_, rfl⟩

/-- A record of the history changes nothing else of the management controller. -/
theorem mg_openHistory (unit : Nat) : ∃ h, (s.openHistory unit).mg = { s.mg with history := h } := by
  unfold State.openHistory
  dsimp only
  have hbytes := freeBytes_eq (s := (s.nextSeq (at_ 12 20 + unit)).2) 32
  revert hbytes
  generalize (s.nextSeq (at_ 12 20 + unit)).2.freeBytes 32 = p
  obtain ⟨b, u⟩ := p
  rintro ⟨-, hframe⟩
  have hmg : u.mg = s.mg := by
    dsimp only at hframe
    rw [hframe]
    rfl
  rw [← hmg]
  exact mg_history _

@[simp] theorem fence_openHistory (unit : Nat) : (s.openHistory unit).mg.fence = s.mg.fence := by
  obtain ⟨h, hh⟩ := mg_openHistory (s := s) unit
  rw [hh]

@[simp] theorem cap_openHistory (unit : Nat) : (s.openHistory unit).mg.cap = s.mg.cap := by
  obtain ⟨h, hh⟩ := mg_openHistory (s := s) unit
  rw [hh]

/-- A step of field 0 that fails leaves the device off the host links. -/
def linksOff (st : Nat) (u : State) : State :=
  if st ≤ 3 then { u with mg := { u.mg with offLinks := true }, hl := { u.hl with up := [false, false] } } else u

@[simp] theorem fence_linksOff (st : Nat) (u : State) : (linksOff st u).mg.fence = u.mg.fence := by
  unfold linksOff
  split <;> rfl

/-- The machine when a step's failure has fenced its field. -/
def stepFenced (s : State) (st rate : Nat) : State :=
  let u := { s with mg := { s.mg with fence := min s.mg.fence (stepField st) } }
  linksOff st ((u.bootRecord st rate 2 u.mg.cores).openHistory (stepField st))

theorem fence_stepFenced (st rate : Nat) : (stepFenced s st rate).mg.fence = min s.mg.fence (stepField st) := by
  rw [stepFenced, fence_linksOff, fence_openHistory, fence_bootRecord]

theorem bootFail_fences {st rate : Nat} (h : ¬(stackStep st = true ∧ 6 < rate)) :
    s.bootFail st rate = (stepFenced s st rate).bootNext (stepFenced s st rate).mg.todo := if_neg h

theorem fence_bootFail {st rate : Nat} (h : ¬(stackStep st = true ∧ 6 < rate)) :
    (s.bootFail st rate).mg.fence = min s.mg.fence (stepField st) := by
  rw [bootFail_fences h, fence_bootNext, fence_stepFenced]

theorem stackStep_iff (st : Nat) : stackStep st = true ↔ 2 ≤ st ∧ st ≤ 9 := by
  unfold stackStep
  rw [Bool.and_eq_true, decide_eq_true_iff, decide_eq_true_iff]

theorem bringUp : BringUp := by
  refine ⟨fun r => ⟨ofBits_bits r, bootRec_toNat r⟩, fun s h => ⟨_, rfl, bootStart_of_erased h⟩,
    ?goesOn, ?ends, ?again, ?fences,
    fun m st r h => ⟨rate_done h, fun ho => (rate_failed h ho).1, fun ho => (rate_failed h ho).2.1,
      fun ho => (rate_failed h ho).2.2⟩, fun s => ⟨_, rfl, rfl, rfl⟩, fun s => ⟨_, rfl, rfl, rfl, rfl, rfl, rfl, rfl⟩⟩
  case goesOn =>
    intro s st rate n q rest hrun htodo hfield hrate hne hn hst
    rw [exec_bringupStepEnd_done hrun, htodo]
    obtain ⟨u, hu⟩ : ∃ u, u = (stepDone s st).bootRecord st rate 1 (stepDone s st).mg.cores := ⟨_, rfl⟩
    have hboot : (stepDone s st).mg.records = s.mg.records := by rw [mg_stepDone]; rfl
    have hlatest : u.mg.latest n = s.mg.latest n := by
      rw [hu, latest_bootRecord rate 1 _ hst hn hne, MgmtSt.latest, hboot]
      rfl
    have hq : u.mg.rate n = some q := (rate_congr hlatest).trans hrate
    have hlow : stepField n < u.mg.fence := by rw [hu, fence_bootRecord, fence_stepDone]; exact hfield
    rw [← hu, bootNext_runs rest hlow, hq]
    refine ⟨_, rfl, rfl, rfl, ?_, ?_⟩
    · show ((u.bootRecord n q 0 u.mg.cores).mg.records.map _) = _
      rw [records_bootRecord, hu, records_bootRecord, hboot]
      simp [nextRecord]
    · show u.mg.doneFields = _
      rw [hu, doneFields_bootRecord, doneFields_stepDone]
  case ends =>
    intro s st rate hrun htodo
    rw [exec_bringupStepEnd_done hrun, htodo]
    obtain ⟨hnone, hroutes, hcores⟩ := bootNext_ends (s := (stepDone s st).bootRecord st rate 1 (stepDone s st).mg.cores)
    rw [doneFields_bootRecord, fence_bootRecord, doneFields_stepDone, fence_stepDone] at hcores
    exact ⟨_, rfl, hnone, hroutes, hcores⟩
  case again =>
    intro s st rate hrun hlo hhi hrate
    have hfail : s.bootFail st rate = (s.bootRecord st rate 2 0).bootStart :=
      if_pos ⟨(stackStep_iff st).mpr ⟨hlo, hhi⟩, hrate⟩
    rw [← hfail]
    exact exec_bringupStep_fails hrun
  case fences =>
    intro s st rate hrun hlow
    refine ⟨_, (exec_bringupStep_fails hrun).1, fence_bootFail fun ⟨hstack, hrate⟩ => ?_⟩
    obtain ⟨hlo, hhi⟩ := (stackStep_iff st).mp hstack
    omega

/-! ### Clocks and CAP (R419, R420) -/

/-- What a step makes of a field's clock. -/
def throttled (cur lim clk : Nat) : Nat :=
  if lim < cur then max 600 (clk - 150) else if 16 * cur < 15 * lim then min 2400 (clk + 150) else clk

theorem clock_throttleStep {f cur lim clk : Nat} (hcur : s.mg.current[f]? = some cur) (hlim : s.mg.fldlim[f]? = some lim)
    (hclk : s.mg.clock[f]? = some clk) : ∃ v, exec (.clockThrottleStep f) s = .next v ∧
      v.mg.clock[f]? = some (throttled cur lim clk) := by
  refine ⟨_, rfl, ?_⟩
  show (s.mg.clock.set f _)[f]? = _
  have hlt : f < s.mg.clock.length := (List.getElem?_eq_some_iff.mp hclk).1
  rw [List.getElem?_set_self hlt]
  simp only [List.getD_eq_getElem?_getD, hcur, hlim, hclk, Option.getD_some]
  rfl

theorem capOf_bounds {actcap : Nat} (h : 1024 ≤ actcap) (pkglim power io : Nat) :
    1024 ≤ capOf pkglim actcap power io ∧ capOf pkglim actcap power io ≤ actcap :=
  ⟨Nat.le_min.mpr ⟨h, Nat.le_max_left ..⟩, Nat.min_le_left ..⟩

theorem capOf_over {actcap pkglim power io : Nat} (h : 1024 ≤ actcap) (hover : pkglim ≤ power + io) :
    capOf pkglim actcap power io = 1024 := by
  have hnum : min (pkglim - power - io) 4800 = 0 := by omega
  unfold capOf
  rw [hnum]
  simpa using h

theorem capOf_under {actcap pkglim power io : Nat} (h : 1024 ≤ actcap) (hunder : power + io + 4800 ≤ pkglim) :
    capOf pkglim actcap power io = max 1024 (actcap / 64 * 64) := by
  have hnum : min (pkglim - power - io) 4800 = 4800 := by omega
  unfold capOf
  rw [hnum]
  dsimp only
  rw [Nat.mul_div_cancel _ (by decide)]
  omega

/-- CAP_UPDATE sets the CAP of every stack. -/
theorem cap_capUpdate (p io : Nat) : ∃ v, exec (.capUpdate p io) s = .next v ∧
    v.mg.cap = s.mg.cap.map fun _ => capOf s.mg.pkglim s.mg.actcap p io := by
  refine ⟨_, rfl, ?_⟩
  exact foldl_keeps (fun t : State => t.mg.cap = s.mg.cap.map fun _ => capOf s.mg.pkglim s.mg.actcap p io)
    (fun t i ht => (cap_openHistory _).trans ht) _ rfl

/-! ### Telemetry (R423) -/

theorem drop_leBytes (n v k : Nat) : (leBytes n v).drop k = leBytes (n - k) (v / 256 ^ k) := by
  induction k generalizing n v with
  | zero => simp
  | succ k ih =>
    cases n with
    | zero => simp [leBytes]
    | succ n => rw [leBytes, List.drop_succ_cons, ih, Nat.add_sub_add_right, Nat.div_div_eq_div_mul, ← pow_succ']

theorem take_leBytes (n v k : Nat) : (leBytes n v).take k = leBytes (min k n) v := by
  induction k generalizing n v with
  | zero => simp [leBytes]
  | succ k ih =>
    cases n with
    | zero => simp [leBytes]
    | succ n => rw [leBytes, List.take_succ_cons, ih, Nat.add_min_add_right, leBytes]

/-- The first eight bytes of a telemetry record: its source, its flags, its number and its temperature. -/
def telemLow (n flags seq deg : Nat) : Nat := n + 2 ^ 8 * flags + 2 ^ 16 * seq + 2 ^ 48 * deg

/-- The three low flags of a record: slow, escalated, fenced (R423). -/
def telemFlags (slow esc fenced : Bool) : Nat :=
  (if slow then 2 ^ 0 else 0) + (if esc then 2 ^ 1 else 0) + (if fenced then 2 ^ 2 else 0)

theorem telemFlags_lt (slow esc fenced : Bool) : telemFlags slow esc fenced < 8 := by
  cases slow <;> cases esc <;> cases fenced <;> decide

/-- A record's fields, and the eight bytes that they begin with. -/
theorem telemSum (slow esc fenced : Bool) (n seq deg cur power clk scrubbed : Nat) :
    n + at_ ((if slow then 2 ^ 0 else 0) + (if esc then 2 ^ 1 else 0) + (if fenced then 2 ^ 2 else 0) +
      (if decide (850 < deg) = true then 2 ^ 3 else 0)) 8 + at_ seq 16 + at_ deg 48 + at_ cur 64 + at_ power 96 + at_ clk 128 +
      at_ scrubbed 160 =
    telemLow n (telemFlags slow esc fenced + if 850 < deg then 8 else 0) seq deg +
      2 ^ 64 * (cur + 2 ^ 32 * power + 2 ^ 64 * clk + 2 ^ 96 * scrubbed) := by
  simp only [at_, telemLow, telemFlags, decide_eq_true_eq, Nat.reducePow]
  omega

theorem exec_telemetryCapture {f : Nat} (hf : f < 4 ∨ 16 ≤ f ∧ f < 24) : ∃ (v : State) (low : Nat) (deg rest : Nat),
    exec (.telemetryCapture (BitVec.ofNat 8 f)) s = .next v ∧ low < 8 ∧ deg < 65536 ∧
    tget v.mg.tseq f = some ((tget s.mg.tseq f).getD 0 + 1) ∧
    tget v.mg.telem f = some (leBytes 32 (telemLow f (low + if 850 < deg then 8 else 0)
      ((tget s.mg.tseq f).getD 0 + 1).toNat deg + 2 ^ 64 * rest)) := by
  have hsrc : (BitVec.ofNat 8 f).toNat = f := by rw [BitVec.toNat_ofNat]; omega
  show ∃ (v : State) (low deg rest : Nat), execTelemetryCapture (BitVec.ofNat 8 f) s = .next v ∧ _
  unfold execTelemetryCapture
  rw [hsrc]
  dsimp only
  rw [if_neg (by omega)]
  refine ⟨_, _, _, _, rfl, telemFlags_lt _ _ _, ?_, tget_tset_same .., (tget_tset_same ..).trans (by rw [telemSum]; rfl)⟩
  split
  · omega
  · split <;> omega

/-- The bytes of a record whose eight low bytes hold these fields: its source, its number, its temperature and its flag. -/
theorem telemRec_fields {n low seq deg : Nat} (flag : Prop) [Decidable flag] (rest : Nat) (hn : n < 256) (hlow : low < 8)
    (hseq : seq < 2 ^ 32) (hdeg : deg < 65536) :
    let r := leBytes 32 (telemLow n (low + if flag then 8 else 0) seq deg + 2 ^ 64 * rest)
    r[0]? = some (BitVec.ofNat 8 n) ∧ leNat ((r.drop 2).take 4) = seq ∧ leNat ((r.drop 6).take 2) = deg ∧
      (r[1]?).map (fun b => b.getLsbD 3) = some (decide flag) := by
  intro r
  obtain ⟨fl, hfl⟩ : ∃ fl, fl = low + if flag then 8 else 0 := ⟨_, rfl⟩
  have hlt : fl < 16 := by split at hfl <;> omega
  have hr : r = leBytes 32 (telemLow n fl seq deg + 2 ^ 64 * rest) := by rw [hfl]
  refine ⟨?source, ?number, ?temperature, ?hot⟩
  case source =>
    have h0 : r[0]? = some (BitVec.ofNat 8 (telemLow n fl seq deg + 2 ^ 64 * rest)) := by rw [hr, leBytes]; rfl
    rw [h0]
    congr 1
    apply BitVec.eq_of_toNat_eq
    simp only [BitVec.toNat_ofNat, telemLow]
    omega
  case number =>
    rw [hr, drop_leBytes, take_leBytes, leNat_leBytes, telemLow, show 256 ^ min 4 (32 - 2) = 2 ^ 32 by decide]
    omega
  case temperature =>
    rw [hr, drop_leBytes, take_leBytes, leNat_leBytes, telemLow, show 256 ^ min 2 (32 - 6) = 2 ^ 16 by decide]
    omega
  case hot =>
    have h1 : r[1]? = some (BitVec.ofNat 8 ((telemLow n fl seq deg + 2 ^ 64 * rest) / 256)) := by rw [hr, leBytes, leBytes]; rfl
    have hbit : (telemLow n fl seq deg + 2 ^ 64 * rest) / 256 / 2 ^ 3 % 2 = fl / 8 := by simp only [telemLow]; omega
    rw [h1, Option.map_some, BitVec.getLsbD_ofNat, Nat.testBit_eq_decide_div_mod_eq, hbit, hfl]
    by_cases h : flag
    · simp [h, show (low + 8) / 8 = 1 by omega]
    · simp [h, show low / 8 = 0 by omega]

/-! ### The scrubber and errors (R253, R421, R422) -/

theorem exec_scrub {ch n : Nat} (hch : ch < 256) (hstack : ch / 32 < 2 * s.mg.fence)
    (hfree : (s.sw.bankq.filter fun e => bankChannel (rowBank (e.pa / 1024)) == ch).length < 4 ∨ ch ∈ s.mg.escalated)
    (hn : s.nextScrub ch (2 ^ 21) ((tget s.mg.scrub ch).getD 0) = some n) :
    exec (.scrub ch) s = .next { s.restoreRow (scrubRow ch n) false none with
      mg := { (s.restoreRow (scrubRow ch n) false none).mg with
        scrub := tset (s.restoreRow (scrubRow ch n) false none).mg.scrub ch ((n + 1) % 2 ^ 21) } } := by
  show execScrub ch s = _
  unfold execScrub
  dsimp only
  rw [if_neg, hn]
  rintro (h | h | ⟨hbusy, hesc⟩)
  · omega
  · omega
  · rcases hfree with h | h
    · omega
    · simp [h] at hesc

theorem softError_hard {a : Nat} (h : s.present a = true) : ∃ v, exec (.softError a false) s = .next v ∧
    tget v.m.ue (a / 32) = some { syndrome := false, written := 0 } ∧ v.m.mem = s.m.mem := by
  have hx : exec (.softError a false) s = .next { s with m := { s.m with
      ue := tset s.m.ue (a / 32) { syndrome := false, written := 0 } } } := by
    show execSoftError a false s = _
    simp [execSoftError, h]
  exact ⟨_, hx, tget_tset_same .., rfl⟩

theorem softError_soft {a : Nat} (h : s.present a = true) : ∃ v, exec (.softError a true) s = .next v ∧
    a / 32 ∈ v.m.soft ∧ v.m.ue = s.m.ue := by
  have hx : exec (.softError a true) s = .next { s with m := { s.m with
      soft := if s.m.soft.contains (a / 32) then s.m.soft else s.m.soft ++ [a / 32] } } := by
    show execSoftError a true s = _
    simp [execSoftError, h]
  refine ⟨_, hx, ?_, rfl⟩
  show a / 32 ∈ if s.m.soft.contains (a / 32) then s.m.soft else s.m.soft ++ [a / 32]
  split
  · exact List.contains_iff_mem.mp ‹_›
  · exact List.mem_append_right _ List.mem_cons_self

theorem management : Management := by
  refine ⟨fun s f x => rfl, ?clocks, ?cap, ?telemetry, fun s ch n hch hstack hfree hn => exec_scrub hch hstack hfree hn,
    fun s a h => ⟨softError_hard h, softError_soft h⟩⟩
  case clocks =>
    intro s f cur lim clk hcur hlim hclk
    obtain ⟨v, hv, hclock⟩ := clock_throttleStep hcur hlim hclk
    refine ⟨v, hv, fun h => ?_, fun h h' => ?_, fun h => ?_⟩
    · rw [hclock, throttled, if_pos h]
    · rw [hclock, throttled, if_neg (by omega), if_neg (by omega)]
    · rw [hclock, throttled, if_neg (by omega), if_pos h]
  case cap =>
    intro s p io hact
    obtain ⟨v, hv, hcap⟩ := cap_capUpdate (s := s) p io
    refine ⟨v, hv, by rw [hcap, List.length_map], fun c hc => ?_⟩
    rw [hcap] at hc
    obtain ⟨_, -, rfl⟩ := List.mem_map.mp hc
    obtain ⟨hlo, hhi⟩ := capOf_bounds hact s.mg.pkglim p io
    exact ⟨hlo, hhi, capOf_over hact, capOf_under hact⟩
  case telemetry =>
    intro s f hf
    obtain ⟨v, low, deg, rest, hv, hlow, hdeg, hseq, hrec⟩ := exec_telemetryCapture (s := s) hf
    obtain ⟨hsource, hnumber, htemp, hhot⟩ :=
      telemRec_fields (n := f) (850 < deg) rest (by omega) hlow ((tget s.mg.tseq f).getD 0 + 1).isLt hdeg
    refine ⟨v, _, hv, hrec, length_leBytes .., hsource, hseq, hnumber, ?_⟩
    rw [hhot, htemp]

/-- Settles O50: the bring-up by its steps and their records; a step of each management event by what it leaves. -/
theorem bringUpAndManagement : Obligations.BringUpAndManagement := ⟨bringUp, management⟩

end Sys2Proof.Laws
end
